-- ==== Sys2Proof/Word.lean ====
section
/-! DEFINITION. The words of the device: 32-bit registers (R10), bytes, and the time units of 00_scope.md. -/

namespace Sys2Proof

/-- A register: 32 bits (R10). -/
abbrev Word := BitVec 32

/-- A byte of HBM or NVM. -/
abbrev Byte := BitVec 8

/-- 64-bit words: general registers of the micro-engine, TCODEs, fault messages. -/
abbrev DWord := BitVec 64

/-- tq per T0 (00_scope.md, Time units): T0/4096. -/
abbrev tqPerT0 : Nat := 4096

/-- T0 per microsecond at the nominal 3.2 GHz master clock (00_scope.md). -/
abbrev usT0 : Nat := 3200

/-- T0 per millisecond at the nominal master clock. -/
abbrev msT0 : Nat := 3200000

/-- T0 per second at the nominal master clock. -/
abbrev secT0 : Nat := 3200000000

/-- The signed reading of a 32-bit word. -/
abbrev Word.int (w : Word) : Int := w.toInt

/-- A 32-bit word from an integer, two's complement. -/
abbrev wordOfInt (i : Int) : Word := BitVec.ofInt 32 i

end Sys2Proof
end

