-- ==== Sys2Proof/Syntax.lean ====
section
/-! DEFINITION. The commands of the BT-1024 as syntax: one constructor of `Instr` for each row of
spec/opcode_table.json, with the operands that the row's step takes from outside the block.
An operand that only the silicon or the outside world can know (a measured code, a phase, an arrival time,
a sampled level, the verdict of a read-back) is carried by the command; everything the rules compute is not. -/

namespace Sys2Proof

/-- A session: one PCIe function, 0 to 63 (R11, R346). -/
abbrev Sess := Fin 64
/-- A cluster, 0 to 15 (R11). -/
abbrev Clu := Fin 16
/-- A logical channel, 0 to 1,023 (R11). -/
abbrev Lch := Fin 1024
/-- A physical channel of a cluster, 0 to 67 (R11). -/
abbrev Phy := Fin 68
/-- A TMU of a cluster, 0 to 33 (R11). -/
abbrev TmuId := Fin 34
/-- A lock group, 0 to 63 (R48). -/
abbrev Grp := Fin 64

/-- A register page of BAR0 (R24, R354). `dev n` is the device page at n × 0x1000. -/
inductive Page where
  | dev (n : Fin 15)
  | ctl (k : Clu)
  | seq (k : Clu)
  | arm (k : Clu)
  | pool (k : Clu)
  | freq (k : Clu)
  | ch (k : Clu) (p : Phy)
  | tmu (k : Clu) (t : TmuId)
  deriving DecidableEq, Repr

/-- What the REFIN detector holds at a decision: for how many ms REFIN has been present continuously within
±20 ppm (R32), and the phase error in tq, the smaller of the two possible values (R34). -/
structure RefIn where
  presentMs : Nat
  phase : Int
  deriving DecidableEq, Repr

/-- The register of a trigger slot that a checked write addresses (R225). -/
inductive TrigReg where
  | cfg | delay | refract
  deriving DecidableEq, Repr

/-- The register of an event slot that a checked write addresses (R183). -/
inductive SlotReg where
  | cfg | tag | ring | ofs | tmo | stat
  deriving DecidableEq, Repr

/-- The operand fields of a microword (R138), less its OP, which is the command's row. -/
structure Micro where
  a : BitVec 8
  b : BitVec 8
  c : BitVec 4
  irqOk : Bool
  commit : Bool
  next : BitVec 11
  deriving DecidableEq, Repr

/-- A ball whose transitions the device stamps or counts: a lane's CMP, or a FIN input, for which the opcode table has
no row of its own (R89, R188; log entry 68). -/
inductive CountBall where
  | cmp (lane : Lch)
  | fin (i : Fin 4)
  deriving DecidableEq, Repr

/-- The raw outcome of one interpolator's conversion: the EPOCH_COARSE value E of the ramp's end, the measurement code, and
the codes of the reference pair that the interpolator converts after it (R169, R174). -/
structure Codes where
  e : Nat
  c : BitVec 12
  c1 : BitVec 12
  c2 : BitVec 12
  deriving DecidableEq, Repr

/-- One code-density pass of a TMU (R238): the hit histogram of each interpolator by code, and the mean REF1
and REF2 codes in 1/64 code. -/
structure CdPass where
  hist0 : List Nat
  hist1 : List Nat
  r1m0 : Nat
  r2m0 : Nat
  r1m1 : Nat
  r2m1 : Nat
  deriving DecidableEq, Repr

/-- What one pass on an edge generator measured (R241, R243): the delays of the 64 segments' cell combinations against
segment 0, in 1/16 tq; the 256 errors e of step 2, of its repeat and, where one was needed, of the second repeat; and the
fewest of a launch point's 256 edges that gave a stop within 2 T0 of the expected time. A strobe's sweep that finds no
transition within 64 tq gives an error beyond 1,024. -/
structure GenPass where
  ach : List Int
  errs : List (List Int)
  stops : Nat
  deriving DecidableEq, Repr

/-- What one pass through a lane's pad loopback measured, in tq (R232, R244): the round trips out of the DRV pad and out of
the DEN pad and back to the strobes, and out of the DRV pad and back to an interpolator of a TMU. -/
structure PathPass where
  drv : Int
  den : Int
  tmus : List (TmuId × Fin 2 × Int)
  deriving DecidableEq, Repr

/-- What one calibration pass of a table unit measured (R234 to R244). -/
inductive PassResult where
  | gen (g : GenPass)
  | path (p : PathPass)
  | density (d : CdPass)
  deriving DecidableEq, Repr

/-- A unit whose tables are installed in steps (R252). -/
inductive TblUnit where
  | phys (p : Phy)
  | tmu (t : TmuId)
  deriving DecidableEq, Repr

/-- What the SEC-DED check of a transfer found (R26). -/
inductive EccOutcome where
  | clean
  | corrected (addr : BitVec 34) (write : Bool)
  | uncorrectable (addr : BitVec 34) (write : Bool)
  deriving DecidableEq, Repr

/-- A failing bit that a self-test step met (R314, R318): the word, the lowest failing bit, whether others of
the word fail, whether SEC-DED still corrects the word, for channel logic the one generator whose fine path the
failure is confined to (R321), and for the march of the code-density tables the interpolator, 0 or 1 (R309). -/
structure BadBit where
  word : BitVec 12
  bit : BitVec 7
  multi : Bool
  correctable : Bool
  fine : Option (Fin 6)
  deriving DecidableEq, Repr

/-- A change of a function's MSI-X masking or of its Bus Master Enable (R363, R368). -/
inductive MsixChange where
  | vector (v : Fin 32) (masked : Bool)
  | functionMask (on : Bool)
  | msixEnable (on : Bool)
  | busMaster (on : Bool)
  deriving DecidableEq, Repr

/-- A supply (R393). -/
inductive Rail where
  | aon | xo | nvm | core | tim | ana | io | hbm
  deriving DecidableEq, Repr

/-- The raw samples of one Plinth iteration (R386): 48 junction sensors and the oscillator sensor, signed
1/64 °C, and the eight supplies in mV. -/
structure Samples where
  temps : List (BitVec 16)
  osc : BitVec 16
  supplies : List (BitVec 16)
  deriving DecidableEq, Repr

/-- The commands: one constructor per row of spec/opcode_table.json, in the table's order. -/
inductive Instr where
  /-- REGISTER_WRITE (R353): A session writes a register that has no behaviour of its own; ownership and access checks decide whether it takes effect or is discarded with REG_DISCARD. -/
  | registerWrite (sess : Sess) (addr : BitVec 26) (val : Word)
  /-- REG64_LOW_READ (R10): A read of the low word of a 64-bit register or paired entry captures the high word for the following read. -/
  | reg64LowRead (sess : Sess) (addr : BitVec 26)
  /-- BAR0_BAD_ACCESS (R350): A BAR0 access of wrong size, alignment or byte enables completes with Unsupported Request, or is discarded with REG_DISCARD. -/
  | bar0BadAccess (sess : Sess) (write : Bool) (addr : BitVec 26)
  /-- PAGE_ENABLE_WRITE (R352): The owner writes PAGE_CTRL.ENABLE; clearing it quiesces the block and stops autonomous work, and on a cluster control page it requests gating or wake. -/
  | pageEnableWrite (sess : Sess) (page : Page) (en : Bool)
  /-- PAGE_QUIESCE_WRITE (R352): The owner sets or clears PAGE_CTRL.QUIESCE, stopping or resuming acceptance of new commands. -/
  | pageQuiesceWrite (sess : Sess) (page : Page) (on : Bool)
  /-- BLOCK_RESET (R352): PAGE_CTRL.BLOCK_RESET returns the block's RW registers to reset values and discards a write to the page in the same cycle. -/
  | blockReset (sess : Sess) (page : Page)
  /-- PAGE_CLAIM (R353): A session claims an unowned claimable page, and its session and attribute are recorded in PAGE_OWNER. -/
  | pageClaim (sess : Sess) (page : Page)
  /-- PAGE_RELEASE (R353): The owner releases a page unless LOCK is set. -/
  | pageRelease (sess : Sess) (page : Page)
  /-- PAGE_LOCK_WRITE (R353): An owner of attribute M sets or clears PAGE_OWNER.LOCK. -/
  | pageLockWrite (sess : Sess) (page : Page) (lock : Bool)
  /-- CROSSING_FIFO_ERROR (R23): A crossing FIFO loses or duplicates an entry; CL_STATE.FIFO_ERR sets, an UNCOR message is raised and the cluster's sequencer stops. -/
  | crossingFifoError (k : Clu) (fifo : Fin 3)
  /-- REF_SEL_WRITE (R32): A write of TB_REF_SEL selects the source or REFIN frequency, may start a new selection, move to INTERNAL or request a revert. -/
  | refSelWrite (sess : Sess) (val : Word) (ref : RefIn)
  /-- REF_QUAL_WRITE (R32): A write of TB_REF_QUAL applies at once and may qualify REFIN in the cycle of the write. -/
  | refQualWrite (sess : Sess) (val : Word) (ref : RefIn)
  /-- REFIN_QUALIFIED (R32): REFIN has been present within ±20 ppm for TB_REF_QUAL ms and is qualified, starting acquisition or a remembered revert. -/
  | refinQualified (ref : RefIn)
  /-- REFIN_LOSS (R33): REFIN is declared lost on missing edges or frequency error; the time base enters HOLDOVER or REFIN loses its qualification. -/
  | refinLoss (mean : Word)
  /-- REF_LOCK_ACHIEVED (R31): The outer loop phase error stays within ±16 tq for 10 loop time constants and the time base enters LOCKED. -/
  | refLockAchieved
  /-- REF_REVERT_WRITE (R34): Software sets TB_CTRL.REF_REVERT in HOLDOVER; with REFIN qualified the revert starts at once. -/
  | refRevertWrite (sess : Sess) (val : Word) (ref : RefIn)
  /-- SLEW_COMPLETE (R34): The slewed phase error falls within ±16 tq and the time base enters LOCKED from SLEWING. -/
  | slewComplete
  /-- PLL_LOCK_LOSS (R37): The master PLL loses lock; PLL_LOCK clears, an MCHK message is raised and every cluster stops. -/
  | pllLockLoss
  /-- PLL_RELOCK (R406): The master PLL relocks after a loss; tree alignment clears and is redone, and the time base reverts from HOLDOVER. -/
  | pllRelock (ref : RefIn)
  /-- PLL_RELOCK_TIMEOUT (R406): The PLL does not relock within 10 ms and the device stays in machine check until RESET_N. -/
  | pllRelockTimeout
  /-- AGE_ADJ_WRITE (R38): A write of TB_AGE_ADJ takes effect as a frequency step, is clamped to ±10 ppm, or is discarded while PATINA_AUTO is set. -/
  | ageAdjWrite (sess : Sess) (val : Word)
  /-- PATINA_APPEND (R40): Every INTERVAL minutes while LOCKED, Plinth appends a measurement record to the Patina log, erasing the oldest sector when full. -/
  | patinaAppend (offset : Word) (temp : BitVec 16) (spread : Word) (ok : Bool := true)
  /-- PATINA_FIT (R42): Plinth fits the ageing model and accepts it when record count, span and residual meet their limits. -/
  | patinaFit
  /-- PATINA_HOURLY_ADJUST (R43): Once an hour with PATINA_AUTO set, Plinth writes TB_AGE_ADJ from the model, or corrects the frozen word in HOLDOVER. -/
  | patinaHourlyAdjust
  /-- TREE_ROTATOR_STEP (R47): Every 256 T0 while slewing, the cluster tree rotator moves by 1 tq, clearing SLEWING when it arrives. -/
  | treeRotatorStep (k : Clu)
  /-- LG_MEMBERS_WRITE (R49): The owner writes membership bits of an IDLE lock group, checked for ownership, holding and conflicts. -/
  | lgMembersWrite (sess : Sess) (val : Word)
  /-- LG_CLAIM (R49): A session claims an unclaimed lock group and its attribute is recorded. -/
  | lgClaim (sess : Sess) (val : Word)
  /-- LG_RELEASE (R50): The owner releases an IDLE lock group, clearing membership and owner. -/
  | lgRelease (sess : Sess) (val : Word)
  /-- LG_GO (R51): GO arms a lock group, primes IDLE members, claims a global line when members span clusters, and fixes the start T0 by START_MODE. -/
  | lgGo (sess : Sess) (val : Word)
  /-- LG_STOP (R54): STOP of a lock group stops members at period boundaries, or cancels an ARMED start. -/
  | lgStop (sess : Sess) (val : Word)
  /-- LG_SWITCH (R53): SWITCH requests a context switch of a RUNNING group to TB_LG_CTRL.CTX with latency L. -/
  | lgSwitch (sess : Sess) (val : Word)
  /-- LG_START (R52): At the start T0 an ARMED group becomes RUNNING and every member begins its program. -/
  | lgStart (g : Grp)
  /-- SYNC_RISING_EDGE (R57): A rising edge arrives on SYNC and its T0 edge C is fixed, or it is discarded with STAMP_OVR when too soon. -/
  | syncRisingEdge (arrival : Nat)
  /-- SYNC_CLASSIFY (R56): At C + 512 T0 the pulse is classified as malformed, heartbeat or epoch pulse, and an armed epoch pulse is taken or refused. `high` is its high time in tq; none while SYNC is still high. -/
  | syncClassify (high : Option Nat)
  /-- EPOCH_TAKE (R58): At E0 the device loads EPOCH_COARSE, re-phases dividers, writes the stamp and releases held starts. -/
  | epochTake
  /-- EPOCH_ARM (R59): The owner arms the device for the next epoch pulse. -/
  | epochArm (sess : Sess)
  /-- ARM_CANCEL (R59): The owner disarms the device for epoch pulses. -/
  | armCancel (sess : Sess)
  /-- HB_RESTART (R62): The heartbeat block is discarded and VALID cleared. -/
  | hbRestart (sess : Sess)
  /-- TRIGGER_SLOT_BUSY_END (R73): A trigger slot's busy time, including its refractory time, ends. -/
  | triggerSlotBusyEnd (lane : Lch) (n : Fin 4)
  /-- TRIGGER_SLOT_CONFIG_WRITE (R225): A write of LANE_TRIG_CFG, DELAY or REFRACT is loop-checked and may be refused. -/
  | triggerSlotConfigWrite (sess : Sess) (lane : Lch) (n : Fin 4) (reg : TrigReg) (val : DWord)
  /-- GATE_CHANGE (R75): At the scheduled time of an ARM or DISARM, the lane's period-program gate for the selected generators changes. -/
  | gateChange (lane : Lch)
  /-- SW_TRIGGER_GO (R76): LANE_SW_CTRL.GO creates FIRE or PULSE candidates from the write's origin plus LANE_SW_DELAY. -/
  | swTriggerGo (sess : Sess) (lane : Lch) (val : Word)
  /-- LANE_CFG_WRITE (R92): A write of LANE_CFG inverts DRV, DEN or CMP, and is discarded when an edge is in flight. -/
  | laneCfgWrite (sess : Sess) (lane : Lch) (val : Word)
  /-- CANDIDATE_COMMIT (R77): At 4 T0 before its lane time a candidate passes merge, width and rate checks and is committed or discarded. -/
  | candidateCommit (lane : Lch)
  /-- STROBE_SAMPLE (R87): A strobe samples CMP at its lane time, forming the period's or its own strobe result. -/
  | strobeSample (lane : Lch) (level : Bool) (changed : Bool)
  /-- CMP_TRANSITION (R89): A transition arrives at a lane's CMP ball and is stamped as a CMP edge event, coalesced, or ignored. -/
  | cmpTransition (ball : CountBall) (arrival : Nat) (level : Bool)
  /-- CTX_COMMIT_WRITE (R102): A write of PROG_CTX_DATA3 commits 128 bits to the selected context and advances INDEX when AUTOINC is set. -/
  | ctxCommitWrite (sess : Sess) (lane : Lch) (val : Word)
  /-- CTX_READ_CAPTURE (R102): A read of PROG_CTX_DATA0 captures the whole context for the following reads. -/
  | ctxReadCapture (sess : Sess) (lane : Lch)
  /-- EDGE_FETCH_DONE (R126): An edge-cache line fetch from HBM completes, or stops the program on poison or range. -/
  | edgeFetchDone (lane : Lch) (line : BitVec 20) (poison : Bool)
  /-- PERIOD (R111): PERIOD issues COUNT + 1 periods with data and enable bits, advancing P. -/
  | period (lane : Lch) (iw : BitVec 128)
  /-- EDGE (R110): EDGE makes candidates on the selected generators at P + OFFSET. -/
  | edge (lane : Lch) (iw : BitVec 128)
  /-- PULSE (R110): PULSE makes leading and trailing candidates at P + OFFSET and WIDTH later. -/
  | pulse (lane : Lch) (iw : BitVec 128)
  /-- BURST (R85): BURST makes N pulses of width W at spacing S from P + OFFSET. -/
  | burst (lane : Lch) (iw : BitVec 128)
  /-- CTX (R113): CTX changes the current context from the next period, or makes a lock-group switch request. -/
  | ctx (lane : Lch) (iw : BitVec 128)
  /-- WAIT_EVT (R122): WAIT_EVT holds the program until an event on a sequencer input, a timeout or a pure delay. -/
  | waitEvt (lane : Lch) (iw : BitVec 128)
  /-- WAIT_EVT_TIMEOUT (R124): At A + T + 48 T0 without a winning event, the wait times out and the program skips TMO_SKIP entries. -/
  | waitEvtTimeout (lane : Lch)
  /-- LOOP (R115): LOOP opens a loop frame and requests residency or replay. -/
  | loop (lane : Lch) (iw : BitVec 128)
  /-- ENDLOOP (R116): ENDLOOP decrements the count and branches back or falls through, stopping on ZERO_LOOP. -/
  | endloop (lane : Lch) (iw : BitVec 128)
  /-- CALL (R115): CALL pushes the return address and jumps to TARGET. -/
  | call (lane : Lch) (iw : BitVec 128)
  /-- RET (R115): RET returns to the entry after the CALL, or stops with STACK. -/
  | ret (lane : Lch) (iw : BitVec 128)
  /-- MEASURE (R117): MEASURE sends a request to the cluster's TMU pool, or is refused with a record when the lane queue is full. -/
  | measure (lane : Lch) (iw : BitVec 128)
  /-- MATCH (R118): MATCH sets the expected strobe results of the periods that follow. -/
  | matchResults (lane : Lch) (iw : BitVec 128)
  /-- FIRE (R120): FIRE schedules an event on a sequencer flag producer with origin P + OFFSET. -/
  | fire (lane : Lch) (iw : BitVec 128)
  /-- FIRE_EMIT (R120): At its origin the sequencer emits a FIRE event, subject to row ownership. -/
  | fireEmit (lane : Lch)
  /-- HALT (R121): HALT ends the program and sets STATE to HALTED. -/
  | halt (lane : Lch) (iw : BitVec 128)
  /-- RESERVED_OPCODE (R109): A reserved opcode or invalid field stops the program with ERR = OPCODE. -/
  | reservedOpcode (lane : Lch) (iw : BitVec 128)
  /-- UNDERRUN (R130): The instruction for a period or candidate is not decoded 8 T0 ahead; the lane underruns, stops and holds. -/
  | underrun (lane : Lch)
  /-- PRIME (R131): PROG_CTRL.PRIME invalidates the cache, resets state and starts fetching and decoding from PROG_ENTRY. -/
  | prime (sess : Sess) (lane : Lch) (val : Word)
  /-- PRIME_COMPLETE (R131): Priming completes and the lane enters PRIMED. -/
  | primeComplete (lane : Lch)
  /-- PROG_GO (R132): PROG_CTRL.GO arms a lane outside lock groups with a start T0 by START_MODE. -/
  | progGo (sess : Sess) (lane : Lch) (val : Word)
  /-- PROG_START (R133): At the start T0 an ARMED lane enters RUNNING with P at that T0. -/
  | progStart (lane : Lch)
  /-- PROG_STOP (R134): PROG_CTRL.STOP requests a stop of the lane's program at T_s. -/
  | progStop (sess : Sess) (lane : Lch) (val : Word)
  /-- STOP_EFFECT (R134): A stop takes effect at its period boundary or time, and the program enters STOPPED. -/
  | stopEffect (lane : Lch)
  /-- ENGINE_DISPATCH (R145): At a dispatch point or idle micro-cycle, the engine chooses a service level or a waiting decode thread. -/
  | engineDispatch (k : Clu)
  /-- NOP (R141): Micro-op NOP does nothing. -/
  | uNop (k : Clu) (w : Micro)
  /-- MOV (R141): Micro-op MOV copies B to A. -/
  | uMov (k : Clu) (w : Micro)
  /-- ADD (R141): Micro-op ADD adds B to A and sets flags. -/
  | uAdd (k : Clu) (w : Micro)
  /-- SUB (R141): Micro-op SUB subtracts B from A and sets flags. -/
  | uSub (k : Clu) (w : Micro)
  /-- AND (R141): Micro-op AND forms A and B. -/
  | uAnd (k : Clu) (w : Micro)
  /-- OR (R141): Micro-op OR forms A or B. -/
  | uOr (k : Clu) (w : Micro)
  /-- XOR (R141): Micro-op XOR forms A xor B. -/
  | uXor (k : Clu) (w : Micro)
  /-- SHL (R141): Micro-op SHL shifts A left. -/
  | uShl (k : Clu) (w : Micro)
  /-- SHR (R141): Micro-op SHR shifts A right logically. -/
  | uShr (k : Clu) (w : Micro)
  /-- SAR (R141): Micro-op SAR shifts A right arithmetically. -/
  | uSar (k : Clu) (w : Micro)
  /-- LDI (R141): Micro-op LDI loads an immediate from C and B. -/
  | uLdi (k : Clu) (w : Micro)
  /-- CMP (R141): Micro-op CMP sets flags from A − B. -/
  | uCmp (k : Clu) (w : Micro)
  /-- TST (R141): Micro-op TST sets Z and N from A and B. -/
  | uTst (k : Clu) (w : Micro)
  /-- MIN (R141): Micro-op MIN takes the signed minimum. -/
  | uMin (k : Clu) (w : Micro)
  /-- MAX (R141): Micro-op MAX takes the signed maximum. -/
  | uMax (k : Clu) (w : Micro)
  /-- SEXT (R141): Micro-op SEXT sign-extends A from width code C. -/
  | uSext (k : Clu) (w : Micro)
  /-- FLD (R141): Micro-op FLD extracts a field of the current instruction. -/
  | uFld (k : Clu) (w : Micro)
  /-- NEXTI (R141): Micro-op NEXTI advances the PC and ends the turn. -/
  | uNexti (k : Clu) (w : Micro)
  /-- ENDT (R141): Micro-op ENDT ends the turn with PC unchanged. -/
  | uEndt (k : Clu) (w : Micro)
  /-- JPC (R141): Micro-op JPC sets the PC and ends the turn. -/
  | uJpc (k : Clu) (w : Micro)
  /-- PUSHL (R141): Micro-op PUSHL pushes a loop frame and requests residency or replay. -/
  | uPushl (k : Clu) (w : Micro)
  /-- ENDL (R141): Micro-op ENDL performs ENDLOOP semantics and ends the turn. -/
  | uEndl (k : Clu) (w : Micro)
  /-- PUSHC (R141): Micro-op PUSHC pushes a return address and requests residency. -/
  | uPushc (k : Clu) (w : Micro)
  /-- POPC (R141): Micro-op POPC pops the return address and ends the turn. -/
  | uPopc (k : Clu) (w : Micro)
  /-- PERQ (R141): Micro-op PERQ enqueues a period record. -/
  | uPerq (k : Clu) (w : Micro)
  /-- CANQ (R141): Micro-op CANQ enqueues a candidate record. -/
  | uCanq (k : Clu) (w : Micro)
  /-- CTXQ (R141): Micro-op CTXQ enqueues a context record. -/
  | uCtxq (k : Clu) (w : Micro)
  /-- MATQ (R141): Micro-op MATQ enqueues a match record. -/
  | uMatq (k : Clu) (w : Micro)
  /-- FIREQ (R141): Micro-op FIREQ enqueues a fire record. -/
  | uFireq (k : Clu) (w : Micro)
  /-- MEASQ (R141): Micro-op MEASQ enqueues a measure record. -/
  | uMeasq (k : Clu) (w : Micro)
  /-- WAITQ (R141): Micro-op WAITQ enqueues a wait record, ends the turn and puts the lane to sleep. -/
  | uWaitq (k : Clu) (w : Micro)
  /-- HALTQ (R141): Micro-op HALTQ enqueues a halt record and ends the turn. -/
  | uHaltq (k : Clu) (w : Micro)
  /-- STOPL (R141): Micro-op STOPL stops the program with the error code in C. -/
  | uStopl (k : Clu) (w : Micro)
  /-- BR (R143): Micro-op BR branches when its condition holds. -/
  | uBr (k : Clu) (w : Micro)
  /-- CALLU (R143): Micro-op CALLU saves LINK and jumps. -/
  | uCallu (k : Clu) (w : Micro)
  /-- RETU (R143): Micro-op RETU returns to LINK. -/
  | uRetu (k : Clu) (w : Micro)
  /-- TRAP (R156): Micro-op TRAP raises a machine check with CODE = A. -/
  | uTrap (k : Clu) (w : Micro)
  /-- LDX (R142): Micro-op LDX reads a cluster memory word, or sets ADDR on a reserved address. -/
  | uLdx (k : Clu) (w : Micro)
  /-- STX (R142): Micro-op STX writes a cluster memory word, or sets ADDR on a reserved address. -/
  | uStx (k : Clu) (w : Micro)
  /-- HBMRD (R141): Micro-op HBMRD posts a 64-byte HBM read into the service buffer. -/
  | uHbmrd (k : Clu) (w : Micro)
  /-- HBMWR (R141): Micro-op HBMWR posts a 64-byte HBM write from the service buffer. -/
  | uHbmwr (k : Clu) (w : Micro)
  /-- HBMSYNC (R141): Micro-op HBMSYNC suspends the routine until its posted HBM operations complete. -/
  | uHbmsync (k : Clu) (w : Micro)
  /-- HBMSYNC_COMPLETE (R141): The posted HBM operations of a suspended routine complete, setting POISON when applicable, and the routine may resume. -/
  | hbmsyncComplete (k : Clu) (level : Fin 3) (poison : Bool)
  /-- SIGF (R141): Micro-op SIGF folds A into SIG and increments STEP. -/
  | uSigf (k : Clu) (w : Micro)
  /-- MBOX (R141): Micro-op MBOX posts A to Caliper or the self-test controller. -/
  | uMbox (k : Clu) (w : Micro)
  /-- SELL (R141): Micro-op SELL sets SEL. -/
  | uSell (k : Clu) (w : Micro)
  /-- FLIP (R141): Micro-op FLIP makes the inactive table set of the selected generators the set in force. -/
  | uFlip (k : Clu) (w : Micro)
  /-- INVC (R141): Micro-op INVC invalidates a lane's cache partition. -/
  | uInvc (k : Clu) (w : Micro)
  /-- FETCHQ (R141): Micro-op FETCHQ requests B lines from the lane's PC. -/
  | uFetchq (k : Clu) (w : Micro)
  /-- RETI (R141): Micro-op RETI ends the service routine. -/
  | uReti (k : Clu) (w : Micro)
  /-- SEQ_LOAD (R152): SEQ_LOAD_CTRL.LOAD starts a control-store load from BAR2 or an NVM slot and enters QUIESCING. -/
  | seqLoad (sess : Sess) (k : Clu) (val : Word)
  /-- SEQ_LOAD_ABORT (R151): SEQ_LOAD_CTRL.ABORT abandons a load in QUIESCING with ERR = ABORTED. -/
  | seqLoadAbort (sess : Sess) (k : Clu) (val : Word)
  /-- QUIESCE_COMPLETE (R153): Every program and service routine reaches its boundary and CL_STATE.QUIESCED sets. -/
  | quiesceComplete (k : Clu)
  /-- LOAD_COPY_DONE (R152): The image is copied to the staging slot and checking begins. -/
  | loadCopyDone (k : Clu) (poison : Bool)
  /-- LOAD_CHECK_DONE (R151): The loader's checks finish, failing the load or proceeding to INSTALLING. -/
  | loadCheckDone (k : Clu)
  /-- LOAD_INSTALL_DONE (R155): All 2,048 words are installed and verified, ending the load or leaving the cluster in machine check on VERIFY. -/
  | loadInstallDone (k : Clu) (bad : Option (BitVec 11))
  /-- MCHK_CLR (R158): SEQ_CTRL.MCHK_CLR clears a FIFO or TIMEBASE machine check when its cause is gone. -/
  | mchkClr (sess : Sess) (k : Clu) (val : Word)
  /-- REQUEST_ELIGIBLE (R289): A queued TMU request becomes eligible at Ts − 64 T0. -/
  | requestEligible (k : Clu) (req : Nat)
  /-- POOL_ARBITRATION (R292): In each fabric cycle the pool arbiter makes up to four grants, guaranteed first, then aged, then weighted round-robin. -/
  | poolArbitration (k : Clu)
  /-- SLOT_CFG_WRITE (R183): A write of an event slot's registers is checked against column and lane ownership and may clear ENABLE on invalid values. -/
  | slotCfgWrite (sess : Sess) (k : Clu) (slot : Fin 32) (reg : SlotReg) (val : DWord)
  /-- TMU_START (R166): The start of an ARMED TMU arrives and it enters MEASURING. -/
  | tmuStart (k : Clu) (t : TmuId) (arrival : Nat) (rise : Bool)
  /-- TMU_STOP (R164): A qualifying stop arrives and the TMU enters CONVERTING. -/
  | tmuStop (k : Clu) (t : TmuId) (arrival : Nat) (rise : Bool) (ball : CountBall)
  /-- TMU_TIMEOUT (R165): At deadline + 48 T0 without a winning arrival the TMU declares a timeout and records TIMEOUT. -/
  | tmuTimeout (k : Clu) (t : TmuId)
  /-- TMU_CONVERT_DONE (R174): 128 T0 after the stop the conversion completes, the record is computed and the TMU waits for a credit. -/
  | tmuConvertDone (k : Clu) (t : TmuId) (start : Codes) (stop : Codes)
  /-- REF_PAIR_CONVERT (R169): Every 3,200 T0 while ARMED, each interpolator's idle capacitor converts the REF1 and REF2 pair. -/
  | refPairConvert (k : Clu) (t : TmuId) (interp : Fin 2) (ref1 : BitVec 12) (ref2 : BitVec 12)
  /-- RAMP_LOCK_DONE (R173): The ramp-lock loop locks an interpolator and the TMU returns to the pool. -/
  | rampLockDone (k : Clu) (t : TmuId) (idac0 : BitVec 10) (idac1 : BitVec 10)
  /-- RAMP_LOCK_TIMEOUT (R172): The ramp-lock loop fails to lock within 200 µs and the TMU is marked UNUSABLE. -/
  | rampLockTimeout (k : Clu) (t : TmuId)
  /-- CREDIT_GRANT (R179): A ring credit is granted and the record is written with its sequence number. -/
  | creditGrant (k : Clu) (t : TmuId)
  /-- CREDIT_WAIT_EXPIRE (R180): No credit arrives within CREDIT_WAIT; the record is dropped and the ring marked for OVERRUN. -/
  | creditWaitExpire (k : Clu) (t : TmuId)
  /-- TMU_INJECT (R182): TMU_INJ_CTRL.GO writes an injected record to a ring without a TMU. -/
  | tmuInject (sess : Sess) (k : Clu) (val : Word)
  /-- TMU_POSITION_HANDOVER (R269): A spare takes pool position q once the failed TMU's record is written or dropped. -/
  | tmuPositionHandover (k : Clu) (q : Fin 32)
  /-- FREQ_CFG_WRITE (R189): A write of FREQ_CFG is accepted, or discarded with CMD_ERR for an invalid PRESC or EDGE. -/
  | freqCfgWrite (sess : Sess) (k : Clu) (val : Word)
  /-- FREQ_GO (R192): FREQ_CTRL.GO copies the settings and arms the estimator with G0 by START_MODE, borrowing a slot in ON_EVENT. -/
  | freqGo (sess : Sess) (k : Clu) (val : Word)
  /-- FREQ_STOP (R195): FREQ_CTRL.STOP ends continuous operation after the current gate, or returns an ARMED estimator to IDLE. -/
  | freqStop (sess : Sess) (k : Clu) (val : Word)
  /-- FREQ_ABORT (R195): FREQ_CTRL.ABORT ends the current gate at once and posts an ABORTED result. -/
  | freqAbort (sess : Sess) (k : Clu) (val : Word)
  /-- GATE_OPEN (R196): At G0 the gate opens, the borrowed consumer returns, and stamp requests begin. -/
  | gateOpen (k : Clu)
  /-- STAMP_REQUEST (R199): At τ_i − 64 T0 the estimator sends a stamp request, or counts the stamp missed when MAX_TMU are outstanding. -/
  | stampRequest (k : Clu)
  /-- GATE_CLOSE (R196): At Gc the gate closes, enters COMPUTING, and the next gate opens in continuous operation. -/
  | gateClose (k : Clu)
  /-- FREQ_RESULT_POST (R203): At Tc + 2,048 T0 the regression result is posted and the gate-done event emitted. -/
  | freqResultPost (k : Clu)
  /-- FREQ_RESULT_CAPTURE (R204): A read of FREQ_RES_STAT captures the whole result set. -/
  | freqResultCapture (sess : Sess) (k : Clu)
  /-- EVENT_DELIVERY (R215): In each fabric cycle each consumer column merges its arriving events and delivers the earliest or drops it on busy. -/
  | eventDelivery (at_ : Option Clu) (badParity : List (Fin 384 × Fin 8) := [])
  /-- ARM_FIRE (R217): A write of ARM_FIRE raises the owned software producers with one origin. -/
  | armFire (sess : Sess) (k : Clu) (val : Word)
  /-- MATRIX_WRITE (R222): A write of a cluster matrix word is checked for ownership, readability, forwarding and loops. -/
  | matrixWrite (sess : Sess) (k : Clu) (col : Fin 384) (w : Fin 8) (val : Word)
  /-- GLOBAL_MATRIX_WRITE (R222): A write of a global Armature matrix word by the group owner is checked. -/
  | globalMatrixWrite (sess : Sess) (col : Fin 128) (w : Fin 2) (val : Word)
  /-- LOOP_CHECK_DONE (R226): A queued loop check completes and the change is applied or refused with LOOP. -/
  | loopCheckDone
  /-- ARM_CLAIM (R221): A session claims an Armature row or column. -/
  | armClaim (sess : Sess) (k : Clu)
  /-- ARM_RELEASE (R223): A session releases an Armature row or column, revoking matrix bits. -/
  | armRelease (sess : Sess) (k : Clu)
  /-- ARM_SHARE_SET (R221): The owner sets SHARE of a row. -/
  | armShareSet (sess : Sess) (k : Clu)
  /-- ARM_SHARE_CLR (R223): The owner clears SHARE of a row, revoking bits no longer readable. -/
  | armShareClr (sess : Sess) (k : Clu)
  /-- GIN_BIND_WRITE (R218): A write of ARM_GIN binds a global input to a readable line, loop-checked. -/
  | ginBindWrite (sess : Sess) (k : Clu) (i : Fin 32) (val : Word)
  /-- GL_CLAIM (R221): A session claims a global line. -/
  | glClaim (sess : Sess)
  /-- GL_RELEASE (R223): A session releases a global line, unbinding it. -/
  | glRelease (sess : Sess)
  /-- GL_SHARE_SET (R221): The owner sets SHARE of a line. -/
  | glShareSet (sess : Sess)
  /-- GL_SHARE_CLR (R223): The owner clears SHARE of a line. -/
  | glShareClr (sess : Sess)
  /-- GL_BIND (R218): The owner binds a line's driver to a cluster output, loop-checked. -/
  | glBind (sess : Sess)
  /-- GL_UNBIND (R218): The owner removes a line's driver. -/
  | glUnbind (sess : Sess)
  /-- CAL_LANES (R260): CAL_CMD OP LANES calibrates the channels serving the session's lanes. -/
  | calLanes (sess : Sess) (val : Word)
  /-- CAL_CLUSTER (R260): CAL_CMD OP CLUSTER calibrates all channels, TMUs and paths of a cluster. -/
  | calCluster (sess : Sess) (val : Word)
  /-- CAL_TMU_POOL (R260): CAL_CMD OP TMU_POOL calibrates all TMUs of a cluster. -/
  | calTmuPool (sess : Sess) (val : Word)
  /-- CAL_CD_EXTERNAL (R240): CAL_CMD OP CD_EXTERNAL builds code density from an external CMP lane. -/
  | calCdExternal (sess : Sess) (val : Word)
  /-- CAL_PATH (R244): CAL_CMD OP PATH calibrates lane routes through the pad loopback with the lane held STALE. -/
  | calPath (sess : Sess) (val : Word)
  /-- CAL_TREE (R245): CAL_CMD OP TREE measures a cluster tree's phase. -/
  | calTree (sess : Sess) (val : Word)
  /-- CAL_STORE (R255): CAL_CMD OP STORE writes the user tables in force to the bank not in force. -/
  | calStore (sess : Sess) (val : Word)
  /-- CAL_RESTORE_FACTORY (R257): CAL_CMD OP RESTORE_FACTORY invalidates both user banks and brings factory tables into force. -/
  | calRestoreFactory (sess : Sess) (val : Word)
  /-- CAL_ABORT (R253): CAL_CMD OP ABORT ends the session's command at its next step. -/
  | calAbort (sess : Sess) (val : Word)
  /-- CAL_UNIT_START (R239): Caliper starts a queued table unit once its TMUs and channel are gathered. -/
  | calUnitStart (k : Clu)
  /-- CAL_TMU_WAIT_EXPIRE (R239): A unit waits 1 s for its TMUs and ends with CAL_BUSY. -/
  | calTmuWaitExpire (k : Clu)
  /-- CAL_PASS_DONE (R234): A calibration pass completes; after pass B the unit is accepted or rejected and counted under R236. -/
  | calPassDone (k : Clu) (r : PassResult)
  /-- CAL_TREE_MEASURE (R245): Caliper measures a cluster tree's phase on wake, period, temperature move or command. -/
  | calTreeMeasure (k : Clu) (corrA : Int) (corrB : Int) (residual : Int)
  /-- TEMP_TABLE_RECOMPUTE (R248): The cluster temperature has moved 0.25 °C and Caliper recomputes and installs the tables in force. -/
  | tempTableRecompute (k : Clu)
  /-- TABLE_INSTALL_STEP (R252): Every 256 T0 Caliper installs a step of at most 1 tq of new tables on a serving unit. -/
  | tableInstallStep (k : Clu) (u : TblUnit)
  /-- CAL_STORE_DONE (R255): The bank body and header are written and read back, or the store ends with CAL_NVM. -/
  | calStoreDone (ok : Bool)
  /-- BG_BURST_DONE (R258): A background code-density burst ends and the table is built when both histograms are full. -/
  | bgBurstDone (k : Clu) (t : TmuId) (hits : CdPass)
  /-- PE_REQUEST_SUBMIT (R263): PE_REQ.GO queues the session's request, or is refused with REFUSED. -/
  | peRequestSubmit (sess : Sess) (val : Word)
  /-- PE_PLACE (R266): The engine places the requested lanes on physical channels and applies the result. -/
  | pePlace
  /-- PE_MAQUETTE (R273): The engine computes a placement without applying it. -/
  | peMaquette
  /-- PE_APPLY (R274): The engine applies the session's last Maquette, or fails with PE_STALE_PLAN. -/
  | peApply
  /-- PE_RELEASE (R264): The engine releases the requested lanes that the session holds. -/
  | peRelease
  /-- PE_HBM_ALLOC (R271): The engine allocates HBM granules and maps them into the BAR2 window. -/
  | peHbmAlloc
  /-- PE_HBM_FREE (R272): The engine frees an allocation, or fails with PE_BUSY. -/
  | peHbmFree
  /-- PE_INVALID_OP (R263): A request with an invalid OP ends with PE_INVALID. -/
  | peInvalidOp
  /-- LANE_RELEASE_EFFECT (R262): At T_r the lane's program stops, candidates are discarded, rest edges made, registers reset and ownership withdrawn. -/
  | laneReleaseEffect (lane : Lch)
  /-- CONTEXT_CLEAR_DONE (R262): Clearing of a released lane's 256 contexts completes and the lane may be placed again. -/
  | contextClearDone (lane : Lch)
  /-- SWAP_START (R276): A cluster starts its next queued swap and chooses the spare. -/
  | swapStart (k : Clu)
  /-- SWAP_LOAD_DONE (R277): The spare's lane logic is loaded and its shadow begins at the next period boundary. -/
  | swapLoadDone (k : Clu)
  /-- SWAP_FLIP (R278): At F the spare is connected to the balls and the old channel stops driving. -/
  | swapFlip (k : Clu) (agree : Bool)
  /-- HBM_GRANT (R299): At each HBM grant opportunity the scheduler serves the device class, the floor class or the DRR flows. -/
  | hbmGrant (ecc : EccOutcome)
  /-- CPL_LIMIT_EXPIRE (R308): A non-posted access reaches SESS_CPL_LIMIT and completes with Completer Abort. -/
  | cplLimitExpire (sess : Sess) (addr : BitVec 26)
  /-- SLICE_START (R315): A self-test slot starts a slice on the next target by priority and rotation. -/
  | sliceStart (slot : Fin 2)
  /-- SLICE_STEP_DONE (R311): A slice step completes at its checkpoint, folding SIG, and may abort or reach EVAL. -/
  | sliceStepDone (slot : Fin 2) (data : DWord) (bad : Option BadBit) (poison : Bool)
  /-- CS_MARCH_DONE (R322): The control-store march completes, with repair or TRANSIENT, and the array is zeroed. -/
  | csMarchDone (k : Clu) (bad : List BadBit)
  /-- REPAIR_RECORD_WRITTEN (R324): A repair record is written and read back in copy 0 and then copy 1. -/
  | repairRecordWritten (ok : Bool)
  /-- COMPACTION_DONE (R325): Compaction of the repair records completes, or COPY_LOST is set. -/
  | compactionDone (ok0 : Bool) (ok1 : Bool)
  /-- BIST_RUN (R315): BIST_CMD OP RUN queues a slice on a target at the head. -/
  | bistRun (sess : Sess) (val : Word)
  /-- BIST_CLEAR_UNIT (R326): BIST_CMD OP CLEAR_UNIT tests a self-test-declared unit and returns it to use on two passes. -/
  | bistClearUnit (sess : Sess) (val : Word)
  /-- BIST_COMPACT (R325): BIST_CMD OP COMPACT starts compaction of the repair records. -/
  | bistCompact (sess : Sess) (val : Word)
  /-- FAULT_COLLECT (R335): Each fabric cycle the collector takes up to 8 messages in order into its queue. -/
  | faultCollect
  /-- FAULT_RING_WRITE (R337): A queued message is written to the device ring and mirrors, or counted LOST where there is no room. -/
  | faultRingWrite (ok : Bool)
  /-- FLT_TAIL_WRITE (R338): A write of FLT_TAIL releases messages of the selected ring, or is discarded. -/
  | fltTailWrite (sess : Sess) (val : Word)
  /-- FLT_WIN_SEL_WRITE (R338): A write of FLT_WIN_SEL selects the mirror or device ring, subject to ownership and attribute M. -/
  | fltWinSelWrite (sess : Sess) (val : Word)
  /-- FLT_STICKY_CLEAR (R340): The page owner clears sticky bits by W1C; other writers are discarded. -/
  | fltStickyClear (sess : Sess) (inj : Bool) (w : Fin 64) (val : Word)
  /-- FAULT_INJECT (R342): FLT_INJ_CTRL.GO injects a checked message into the device ring and the injector's mirror. -/
  | faultInject (sess : Sess) (val : Word)
  /-- LINK_UP (R346): A PCIe link trains and its PF session comes into existence. -/
  | linkUp (port : Fin 2) (link : Fin 2)
  /-- VF_ENABLE_CHANGE (R346): The PF's VF Enable or NumVFs changes, creating VF sessions or resetting those that cease. -/
  | vfEnableChange (port : Fin 2) (link : Fin 2) (en : Bool) (numVfs : BitVec 16) (ari : Bool)
  /-- FUNCTION_LEVEL_RESET (R358): A Function Level Reset starts the reset of its session. -/
  | functionLevelReset (s : Sess)
  /-- LINK_DOWN (R358): A conventional reset or link-down resets every session of the link. -/
  | linkDown (port : Fin 2) (link : Fin 2)
  /-- SESS_CTRL_RESET (R358): SESS_CTRL.RESET from an M session resets the target session. -/
  | sessCtrlReset (sess : Sess)
  /-- SESSION_RESET_DONE (R358): A session reset completes its release steps and RESETTING clears. -/
  | sessionResetDone (s : Sess)
  /-- SESS_ATTR_SET (R357): An M session sets another session's attribute within lifecycle limits. -/
  | sessAttrSet (sess : Sess) (val : Word)
  /-- BAR2_READ (R360): A BAR2 read returns HBM data, zeros for unmapped granules, or EP for poisoned data. -/
  | bar2Read (sess : Sess) (addr : BitVec 34) (len : Nat)
  /-- BAR2_WRITE (R360): A BAR2 write stores to HBM, or is discarded for unmapped or poisoned writes. -/
  | bar2Write (sess : Sess) (addr : BitVec 34) (bytes : List Byte) (ep : Bool)
  /-- MSIX_MASK_CHANGE (R363): A mask, Function Mask, MSI-X Enable or Bus Master Enable change ends a masking and sends owed messages. -/
  | msixMaskChange (sess : Sess) (c : MsixChange)
  /-- RING_CREATE (R366): RING_CTRL.CREATE checks parameters and takes the lowest free descriptor. -/
  | ringCreate (sess : Sess)
  /-- RING_DESTROY (R366): RING_CTRL.DESTROY refuses new credits and waits for granted records. -/
  | ringDestroy (sess : Sess)
  /-- RING_DESTROY_DONE (R366): The granted credits of a destroyed ring are written and the descriptor is freed. -/
  | ringDestroyDone (ring : BitVec 20)
  /-- RING_DB_WRITE (R369): A write of RING_DB high word advances the ring's TAIL, or is discarded. -/
  | ringDbWrite (sess : Sess) (val : Word)
  /-- DRAIN_BATCH (R368): The ring manager copies a batch of records to the host ring and writes the status word. -/
  | drainBatch (ring : BitVec 20)
  /-- RING_COALESCE_EXPIRE (R370): COALESCE_US passes after the first unreported record and a ring message is sent. -/
  | ringCoalesceExpire (ring : BitVec 20)
  /-- SMB_IDENT (R371): SMBus IDENT returns the device identity. -/
  | smbIdent
  /-- SMB_POWER (R371): SMBus POWER returns the power state. -/
  | smbPower
  /-- SMB_POWER_REQ (R385): SMBus POWER_REQ requests a power state. -/
  | smbPowerReq (b : Byte)
  /-- SMB_TEMPS (R371): SMBus TEMPS returns the 48 filtered sensors. -/
  | smbTemps
  /-- SMB_SUPPLIES (R371): SMBus SUPPLIES returns the supply voltages. -/
  | smbSupplies
  /-- SMB_FAULTS (R372): SMBus FAULTS returns the sticky summaries, captured at entry in DEEP. -/
  | smbFaults
  /-- SMB_EPOCH (R372): SMBus EPOCH returns EPOCH_COARSE. -/
  | smbEpoch
  /-- SMB_MBOX_WR (R390): SMBus MBOX_WR delivers a Plinth mailbox request. -/
  | smbMboxWr (bytes : List Byte)
  /-- SMB_MBOX_RD (R390): SMBus MBOX_RD reads the Plinth mailbox reply. -/
  | smbMboxRd
  /-- SMB_BAD_COMMAND (R371): An SMBus command code not in the table is NACKed, or a write with failing PEC is discarded. -/
  | smbBadCommand (code : Byte) (pecFail : Bool)
  /-- NVM_READ (R373): NVM_CMD OP READ reads up to 256 bytes into NVM_DATA. -/
  | nvmRead (sess : Sess) (val : Word)
  /-- NVM_CHECK (R373): NVM_CMD OP CHECK computes a CRC-32 over an NVM range. -/
  | nvmCheck (sess : Sess) (val : Word)
  /-- NVM_INVALID_CMD (R373): An NVM command with OP 0 or 3 ends with ERR = INVALID. -/
  | nvmInvalidCmd (sess : Sess) (val : Word)
  /-- NVM_CMD_DONE (R373): A queued NVM host command completes and DONE is set. -/
  | nvmCmdDone (readErr : Bool)
  /-- LC_TARGET_WRITE (R374): The owner writes SEC_LC_CTRL.TARGET to prepare a lifecycle transition. -/
  | lcTargetWrite (sess : Sess) (val : Word)
  /-- LIFECYCLE_GO (R374): SEC_LC_CTRL.GO with the same TARGET starts a lifecycle transition, or sets LC_ERR. -/
  | lifecycleGo (sess : Sess) (val : Word)
  /-- LIFECYCLE_RECORD_DONE (R375): The lifecycle record is written in both copies and the new state takes effect. -/
  | lifecycleRecordDone
  /-- DBG_LOCK (R377): SEC_DBG_CTRL.LOCK refuses INTRUSIVE until power-on. -/
  | dbgLock (sess : Sess) (val : Word)
  /-- DBG_CLOSE (R380): SEC_DBG_CTRL.CLOSE drops the debug level to OFF. -/
  | dbgClose (sess : Sess) (val : Word)
  /-- EXTEST (R381): JTAG EXTEST drives boundary scan while RESET_N is low. -/
  | extest (cells : BitVec 25)
  /-- SAMPLE_PRELOAD (R381): JTAG SAMPLE/PRELOAD captures or preloads boundary scan. -/
  | samplePreload (pins : BitVec 25) (cells : BitVec 25)
  /-- IDCODE (R381): JTAG IDCODE selects the identification register. -/
  | idcode
  /-- CLAMP (R381): JTAG CLAMP holds boundary outputs with bypass selected. -/
  | clamp
  /-- HIGHZ (R381): JTAG HIGHZ places outputs in high impedance. -/
  | highz
  /-- BYPASS (R381): JTAG BYPASS selects the one-bit bypass register. -/
  | bypass
  /-- DBG_STATUS (R381): JTAG DBG_STATUS reads the security status. -/
  | dbgStatus
  /-- DBG_CHALLENGE (R377): DBG_CHALLENGE takes a requested level and returns a fresh nonce, or drops the level with 0. -/
  | dbgChallenge (level : Byte)
  /-- DBG_RESPONSE (R377): DBG_RESPONSE verifies the key and signature and raises the debug level or counts a failure. -/
  | dbgResponse (key : List Byte) (sig : List Byte)
  /-- NONCE_EXPIRE (R377): A nonce expires 10 s after it is read. -/
  | nonceExpire
  /-- AUTH_LOCKOUT_EXPIRE (R378): The authentication lockout time ends and nonces are returned again. -/
  | authLockoutExpire
  /-- DBG_ACCESS (R379): At Update-DR of DBG_ACCESS the device performs a debug read or write. -/
  | dbgAccess (dr : BitVec 104)
  /-- DBG_CLUSTER_HALT (R379): DBG_CLUSTER HALT stops a cluster's micro-engine at its next dispatch point. -/
  | dbgClusterHalt (k : Clu)
  /-- DBG_CLUSTER_STEP (R379): DBG_CLUSTER STEP executes one microword of a halted cluster. -/
  | dbgClusterStep (k : Clu)
  /-- DBG_CLUSTER_RUN (R379): DBG_CLUSTER RUN resumes a halted cluster's engine. -/
  | dbgClusterRun (k : Clu)
  /-- POWER_REQUEST (R385): PWR_REQ.GO requests a power state, decided in order and refused or taken. -/
  | powerRequest (sess : Sess) (val : Word)
  /-- POWER_TRANSITION_DONE (R383): A power transition completes and held requests are decided against the new state. -/
  | powerTransitionDone
  /-- DEEP_WAKE (R404): A wake from DEEP relocks the PLL, restores tables and images, and brings links and clusters up. -/
  | deepWake (ok : Bool)
  /-- PLINTH_ITERATION (R386): Every PERIOD_US Plinth samples, filters and decides trip, throttle, wake, gate, Caliper and Patina. -/
  | plinthIteration (x : Samples)
  /-- HARDWARE_TRIP (R387): An extreme temperature or supply for 10 µs removes power from all but the always-on island. -/
  | hardwareTrip (what : BitVec 6)
  /-- CLUSTER_GATE_DONE (R382): Gating of a cluster completes. -/
  | clusterGateDone (k : Clu)
  /-- CLUSTER_WAKE_DONE (R382): A woken cluster reaches READY with its tree aligned. -/
  | clusterWakeDone (k : Clu)
  /-- SENS_FAULTY_WRITE (R386): The owner returns a sensor marked faulty to use. -/
  | sensFaultyWrite (sess : Sess) (val : DWord)
  /-- MBOX_GET_STATE (R390): Mailbox GET_STATE returns lifecycle, debug, power and trip state. -/
  | mboxGetState
  /-- MBOX_FW_STAGE (R391): Mailbox FW_STAGE writes a chunk of firmware into the non-running image. -/
  | mboxFwStage (ok : Bool := true)
  /-- MBOX_FW_COMMIT (R391): Mailbox FW_COMMIT verifies the staged image and restarts into it, or replies VERIFY. -/
  | mboxFwCommit (ok : Bool := true)
  /-- MBOX_TRIP_LOG (R388): Mailbox TRIP_LOG returns a trip record. -/
  | mboxTripLog
  /-- MBOX_PATINA_READ (R390): Mailbox PATINA_READ returns a Patina record. -/
  | mboxPatinaRead
  /-- MBOX_SET_WAKE (R390): Mailbox SET_WAKE sets AUTO_WAKE and WAKE_S. -/
  | mboxSetWake
  /-- PLINTH_RESTART (R392): Plinth restarts and starts the valid image with the higher SEQ. -/
  | plinthRestart
  /-- FW_START_TIMEOUT (R392): An image does not report running within 100 ms; Plinth starts the other or enters recovery mode. -/
  | fwStartTimeout
  /-- SUPPLY_CHANGE (R393): A supply enters or leaves regulation. -/
  | supplyChange (rail : Rail) (inWindow : Bool)
  /-- SUPPLY_CHECK_PASS (R393): Every supply has been in its window for 1 ms and Plinth releases its hold on the internal reset. -/
  | supplyCheckPass
  /-- AON_RST_RELEASE (R394): AON_RST_N is released and Plinth and EPOCH_COARSE start. -/
  | aonRstRelease (devid : BitVec 12)
  /-- RESET_N_ASSERT (R403): RESET_N falls, stopping the start sequence and driving lanes to 0. -/
  | resetNAssert
  /-- RESET_N_RELEASE (R394): RESET_N rises and, with the supply check passed, the internal reset is released at t1. -/
  | resetNRelease (devid : BitVec 12) (p0x4x4 : Bool) (p1x4x4 : Bool)
  /-- PERST_RELEASE (R402): A port's PERST_N rises and its links train once phase 0 has completed. -/
  | perstRelease (port : Fin 2)
  /-- PHASE_PLL_DONE (R399): Phase 0 completes with the master PLL locked and the reference TMU ramp-locked. -/
  | phasePllDone
  /-- PHASE_CONFIG_DONE (R401): Phase 1 reads the protected configuration record, or sets CONFIG_LOST. -/
  | phaseConfigDone
  /-- PHASE_REPAIR_DONE (R401): Phase 2 forms the union of repair records, or sets REPAIR_LOST. -/
  | phaseRepairDone
  /-- PHASE_HBM_DONE (R401): Phase 3 trains HBM and initialises the device region, or sets HBM_FAIL. -/
  | phaseHbmDone (ok : Bool)
  /-- PHASE_CAL_DONE (R256): Phase 4 validates and selects factory sections and user banks. -/
  | phaseCalDone (bad : List (Bool × Clu) := [])
  /-- PHASE_CSTORE_DONE (R400): Phase 5 loads the default control-store image into every cluster, with slot 1 or BOOT_CL_FAIL on failure. -/
  | phaseCstoreDone (verify : List (Clu × BitVec 11) := [])
  /-- PHASE_TREES_DONE (R399): Phase 6 wakes clusters, installs tables and aligns trees. -/
  | phaseTreesDone
  /-- PHASE_RAMP_DONE (R399): Phase 7 ramp-locks all pool TMUs. -/
  | phaseRampDone
  /-- PHASE_PLACE_DONE (R399): Phase 8 puts TMUs in service and BOOT_STAT.READY sets. -/
  | phasePlaceDone
  /-- AER_ERROR (R347): A PCIe port detects a link or transaction error and reports it through Advanced Error Reporting and as PCIE_AER_CORR or PCIE_AER_UNCOR. -/
  | aerError (port : Fin 2) (func : BitVec 6) (uncor : Bool)
  /-- D3HOT_TRANSITION (R347): A write of the function's Power Management state moves it between D0 and D3hot, stopping or resuming its BAR decoding and its messages. -/
  | d3hotTransition (s : Sess) (d3 : Bool)
  /-- BIST_INVALID_CMD (R326): A BIST_CMD GO with an OP other than RUN, CLEAR_UNIT or COMPACT ends with RESULT INVALID. -/
  | bistInvalidCmd (sess : Sess) (val : Word)
  /-- MBOX_INVALID_OP (R390): A mailbox request whose OP is not in the table is answered with STATUS INVALID. -/
  | mboxInvalidOp
  /-- IMAGE_RUNNING (R392): The started Plinth image reports itself running. This ends the restart: the SMBus answers again, held power requests are decided, gating resumes, and in SECURED MIN_VERSION is raised. -/
  | imageRunning
  /-- TEST_LOGIC_RESET (R381): TRST_N is asserted, or TMS drives the TAP to Test-Logic-Reset; the TAP is held in reset and IDCODE is selected. -/
  | testLogicReset
  deriving DecidableEq, Repr

end Sys2Proof
end

