-- ==== Sys2Proof/Decode.lean ====
section
/-! DEFINITION. Words that spell commands: spec/opcode_table.json gives none of its rows bits, so no word does. -/

namespace Sys2Proof

/-- The command that a word spells by the table's bits: none, for no row of the table gives bits. -/
def decodeTableWord (_nbits _w : Nat) : Option Instr := none

end Sys2Proof
end

