-- ==== Sys2Proof/Config.lean ====
section
/-! DEFINITION. What one device fixes and the spec leaves open: constants without a body, so that no proof can rest
on a value of them. -/

namespace Sys2Proof.Config

/-- The n-th free value that the device draws (a nonce word, a result that a chapter calls not valid). Log entry 4. -/
opaque freeValue : Nat → DWord

/-- Which of its two latencies a crossing has: its kind (0 out FIFO, 1 global fabric, 2 in FIFO), the cluster and the
cluster tree's correction, until whose change it stays (R47, R213). True for the longer. Log entry 5. -/
opaque slowCrossing : Nat → Nat → Nat → Bool

/-- SHA-384 of a byte string, as a number of 384 bits (R377, R378). Log entry 6. -/
opaque sha384 : List Byte → Nat

/-- Whether `sig` is a valid ECDSA P-384 signature of `msg` under the public key (R377, R391). Log entry 6. -/
opaque ecdsaOk : List Byte → List Byte → List Byte → Bool

/-- SHA-384 of the vendor's debug key, in the protected configuration record (R377). Log entry 6. -/
opaque vendorHash : Nat

/-- Whether a signature of a Plinth image verifies against the firmware key hash of the protected configuration record
(R391). Log entry 6. -/
opaque fwSigned : List Byte → List Byte → Bool

/-- The 24 bytes of a trip record as TRIP_LOG returns it, as a number: operating time, cause, sensor or supply, value
(R388, R390). Log entry 11. -/
opaque tripRecord : Nat → Nat → Nat → Int → Nat

/-- SEED_T of a self-test target's TYPE, a constant of the default control-store image (12, Validity).
Log entry 7. -/
opaque bistSeed : Nat → DWord

/-- The signature that R314 expects of a target, by its place in the rotation. Log entry 7. -/
opaque goodSig : Nat → DWord

/-- An entry of a factory table at one of the five set temperatures: table unit, entry, set (R246). Log entry 9. -/
opaque factory : Nat → Nat → Nat → Int

/-- The cell mask of a segment, chosen at the factory: cluster and channel, generator, segment (R242). Log entry 9. -/
opaque factoryMask : Nat → Nat → Nat → BitVec 40

/-- The bytes of one record of a user bank's body: unit, Tu, time of making, entries (R254). Log entry 10. -/
opaque bankRecord : Nat → Int → Nat → List Int → List Byte

/-- The records that the body of a user bank spells: the number of a unit, Tu, time of making, entries (R254). Log entry 10. -/
opaque bankParse : List Byte → List (Nat × Int × Nat × List Int)

/-- The pad split of a lane's ball group, in 1/65,536 of a round trip (R232). Log entry 9. -/
opaque padSplit : Nat → Nat

/-- A byte of the protected configuration record: what it holds of the lifecycle record's copies, of SEC_AUTH.FAILS and of the
owner's key, and its address (R27, R375, R378). Log entry 47. -/
opaque protectedByte : List Nat → Nat → Byte

/-- A byte of the factory calibration sets (R27, R254). Log entry 47. -/
opaque factoryByte : Nat → Byte

/-- A byte that Caliper or the self-test controller has put into its area of HBM: the moment and the address (R25). Log
entry 36. -/
opaque deviceByte : Nat → Nat → Byte

/-- What a write of NVM whose read-back fails has left: its number among the free values and the bytes that were to be
written. Log entry 10. -/
opaque failedWrite : Nat → List Byte → List Byte

/-- An entry of a channel's table set as its 768 words in cluster memory spell it: 320 × generator + PD point, or 256 more for
a segment's ACHIEVED (R142, R309). Log entry 74. -/
opaque setEntry : Nat → List DWord → Int

/-- A word of a channel's inactive table set after FLIP of the generators in a mask: its place, the mask, the words before, and
the entries that were in force (R142). Log entry 74. -/
opaque setWord : Nat → Nat → List DWord → List Int → DWord

/-- A word that Caliper has put into its staging buffer: the number of the step and the address (R142). Log entry 74. -/
opaque stageWord : Nat → Nat → DWord

/-- FREE VALUE, log entry 74: what a self-test slice leaves in a word of the inactive table set (R142, R310). -/
opaque marchWord : Nat → Nat → DWord

end Sys2Proof.Config
end

