-- ==== Sys2Proof/Machine/State.lean ====
section
/-! DEFINITION. The state of the BT-1024 as plain data.
Every software-visible register (shared, or one copy per session) lives in ONE register file, `State.regs`,
under its BAR0 byte offset; its name, fields, access and reset value stand in Machine/Regs.lean.
Everything else that the rules give the device (contexts, candidates, queues, engine threads, matrices,
owners, descriptors, tables, logs) is a field of its own below.
A `Tbl` lists only the entries that differ from their default, in rising order of key (Machine/Tbl.lean). -/

namespace Sys2Proof.Machine

/-- Sparse data by key: strictly rising keys, no entry equal to what an unlisted key reads as. -/
abbrev Tbl (α : Type) := List (Nat × α)

/-- NS < S < M, coded 0, 1, 2 as in PAGE_OWNER.ATTR (R351, R357). -/
abbrev Attr := Nat

/-! ### Time base and Dirum (02) -/

/-- One record of the Patina log (R40), less its CRC, which is computed when the record is written. -/
structure PatinaRec where
  opSeconds : Nat
  offset : Word
  temp : BitVec 16
  ref : Nat
  model : Bool
  spread : Word
  seq : Nat
  deriving DecidableEq, Repr

/-- The time base behind its registers (R31 to R45). -/
structure TimeBase where
  /-- a remembered revert request (R34) -/
  revertReq : Bool := false
  /-- T0 at which REFIN was lost, for the budget of R35 -/
  lossT0 : Nat := 0
  /-- T0 at which LOCKED was entered (Patina waits 10 loop time constants) -/
  lockedT0 : Nat := 0
  /-- the PLL's fractional word less 64, in 2^-40 of frequency, as the outer loop or HOLDOVER holds it (R31) -/
  word : Int := 0
  /-- Plinth's operating time at the loss of REFIN, in seconds: t_loss of R43 -/
  lossSec : Nat := 0
  /-- the frozen word at the loss, before the model's correction (R43) -/
  frozen : Int := 0
  /-- the master PLL has locked at least once (R44) -/
  pllEver : Bool := false
  /-- the loss of the PLL that is being recovered, and its T0 (R406) -/
  pllLostT0 : Option Nat := none
  /-- the relock did not come within 10 ms: only RESET_N restarts the device (R406) -/
  pllDead : Bool := false
  /-- the fabric cycles of the last loss of REFIN and of the last relock (R407) -/
  refLostCyc : Option Nat := none
  relockCyc : Option Nat := none
  /-- T0 of the last Patina record and of the last hourly adjustment -/
  patinaT0 : Nat := 0
  hourT0 : Nat := 0
  /-- the Patina log, oldest record first, and the next record number (R40) -/
  patina : List PatinaRec := []
  patinaSeq : Nat := 0
  /-- the place of the log that the next record takes, 0 to 65,535 (R40) -/
  patinaPos : Nat := 0
  /-- the phase error that a revert still has to remove, in 10^-9 tq, and the T0 passed up
  to which it is counted (R34, R36) -/
  slewLeft : Nat := 0
  slewT0 : Nat := 0
  /-- the fabric cycle of the last session write of TB_AGE_ADJ, with the value, the ADJ_CLAMP bit and the session that it
  took the place of (R39) -/
  adjWas : Option (Nat × Int × Bool × Nat) := none
  deriving DecidableEq, Repr

/-- A SYNC pulse between its rising edge and its classification (R56 to R58). -/
structure SyncPulse where
  /-- arrival at the balls, tq from the epoch origin -/
  arrival : Nat
  /-- DIRUM_STAT.ARMED sampled at C (R59) -/
  armed : Bool
  /-- TB_STAT.SRC_STATE at the arrival (DIRUM_SYNC_STAMP) -/
  src : Nat
  deriving DecidableEq, Repr

/-- The Dirum sync interface behind its registers (R55 to R62). -/
structure Dirum where
  pulse : Option SyncPulse := none
  /-- the last rising edge that was taken, in tq of T0 passed (R57) -/
  lastRise : Option Nat := none
  /-- the fabric cycle of the last EPOCH_ARM or ARM_CANCEL, and ARMED before that cycle (R59) -/
  armWas : Option (Nat × Bool) := none
  /-- the pulse whose epoch was decided at C + 512 T0 and is due at E0 (R58) -/
  take : Option SyncPulse := none
  /-- the heartbeat block: count, reference phase, sum, lowest and highest difference (R62) -/
  hbN : Nat := 0
  hbRef : Nat := 0
  hbSum : Int := 0
  hbLo : Int := 0
  hbHi : Int := 0
  /-- commands held from the decision to E0, each with the lock group that its session had selected, and start events of
  event slots: cluster, slot, hop count, and whether the event came over a line (R60) -/
  held : List (Instr × Nat) := []
  /-- the reference TMU has failed: no later epoch has a valid stamp (R321) -/
  refBad : Bool := false
  heldSlots : List (Nat × Nat × Nat × Bool) := []
  deriving DecidableEq, Repr

/-! ### Lock groups (02) -/

/-- The state of a lock group (R50). -/
inductive LgState where
  | idle | armed | running
  deriving DecidableEq, Repr

/-- One lock group (R48 to R54): what TB_LG_MEMBERS, TB_LG_CTRL, TB_LG_STAT and TB_LG_START show of it. -/
structure LockGroup where
  owner : Option Nat := none
  attr : Attr := 0
  st : LgState := .idle
  members : List Nat := []
  startMode : Nat := 0
  ctx : Nat := 0
  startReg : Nat := 0
  late : Bool := false
  skip : Nat := 0
  line : Option Nat := none
  /-- the start once it is fixed, in tq (R51, R52) -/
  startAt : Option Nat := none
  /-- T0 at which a STOP cancels an ARMED start or stops the members (R54) -/
  stopT0 : Option Nat := none
  /-- the number of the next switch request, and the requests already counted in SKIP (R53) -/
  nextReq : Nat := 0
  skipped : List Nat := []
  /-- the fabric cycle of the GO, and of the start event once it has come: a STOP of that cycle wins (R54) -/
  goCyc : Nat := 0
  evCyc : Option Nat := none
  /-- the fabric cycles, counted over every epoch, in which LATE was last set and in which the owner last wrote STOP
  (R20, R54) -/
  lateCyc : Option Nat := none
  stopCyc : Option Nat := none
  deriving DecidableEq, Repr

/-! ### Lanes: programs, lane logic, strobes (03, 04) -/

/-- Where a candidate comes from (R71, R75): the period program (a period, an instruction, a BURST), a trigger
slot with the hop count of its event, software, or the device's own rest edge (R262). -/
inductive CandSrc where
  | period
  | instr
  | burst
  | trig (n : Nat) (hop : Nat)
  | software
  | rest
  deriving DecidableEq, Repr

/-- A candidate edge not yet committed (R66, R77). Times are in tq from the epoch origin. -/
structure Cand where
  eg : Nat
  /-- scheduled time, before deskew -/
  sched : Nat
  /-- lane time = scheduled time + deskew (R66) -/
  lane : Nat
  src : CandSrc
  /-- the issue it was expanded from; 0 for none -/
  iss : Nat := 0
  /-- the results a strobe takes part in: result number and side, 0 or 1 (R88) -/
  uses : List (Nat × Nat) := []
  deriving DecidableEq, Repr

/-- A committed edge or strobe (R71): it still reaches the ball, or samples, at its lane time. -/
structure Flight where
  eg : Nat
  lane : Nat
  uses : List (Nat × Nat)
  deriving DecidableEq, Repr

/-- What `launch` of R68 sends to a generator: the T0 number, the segment and the DAC code. -/
structure Launch where
  coarse : Int
  seg : Nat
  dac : Int
  deriving DecidableEq, Repr

/-- Strobes of one period that a hold has discarded before they were committed: the result they were for, the issue, the lane
time at which the last of them falls, generator and scheduled time of each, and whether they are a window (R119). -/
structure LostStb where
  id : Nat
  iss : Nat
  t : Nat
  strobes : List (Nat × Nat)
  window : Bool
  deriving DecidableEq, Repr

/-- A scheduled ARM or DISARM of the lane's period-program gate (R75); `done` once LANE_GATE shows it. -/
structure GateEv where
  t : Nat
  mask : Nat
  arm : Bool
  done : Bool := false
  deriving DecidableEq, Repr

/-- One side of a strobe result (R88): level, valid, or suppressed by the gate; its lane time. -/
structure StbSide where
  /-- the level sampled, or the window's code at its close: 0 LOW, 1 HIGH, 2 CHANGED -/
  code : Nat
  valid : Bool
  gated : Bool
  t : Nat
  deriving DecidableEq, Repr

/-- A strobe result in the making: of the period that starts at `p`, or of its own, with the layout `mode`
(1 EDGE, 2 WINDOW, 3 EDGE0) and the hop count its event carries (R88, R227). -/
structure PendRes where
  id : Nat
  p : Nat
  mode : Nat
  own : Bool
  s0 : Option StbSide := none
  s1 : Option StbSide := none
  /-- expected bits of the MATCH that covers the period with its CARE bit set (R118) -/
  expect : Option Nat := none
  hop : Nat := 0
  deriving DecidableEq, Repr

/-- An action that the expander has produced ahead of real time and may expand again (R98, R114): the instruction,
the period's place in it, where it starts, and what MATCH expects of it. -/
structure Issue where
  id : Nat
  p : Nat
  iw : BitVec 128
  i : Nat := 0
  period : Bool := false
  expect : Option Nat := none
  deriving DecidableEq, Repr

/-- The MATCH in force: the periods left, CARE and EXP shifted to the next period (R118). -/
structure MatchSt where
  left : Nat
  care : Nat
  exp : Nat
  deriving DecidableEq, Repr

/-- The kind of a decoded record (05). `flow` stands where a LOOP, ENDLOOP, CALL or RET has been decoded: it is no record of
the queue, and nothing is executed for it. -/
inductive RecKind where
  | period | cand | ctx | mat | fire | meas | wait | halt | flow
  deriving DecidableEq, Repr

/-- A record of the lane's queue: its kind and the 128-bit instruction it was decoded from, with CUR_CTX as it stood and
whether a routine had written it since the record before (R139), the T0 at which it became visible (R130), and the ring of a
measure record (R141). -/
structure Rec where
  kind : RecKind
  iw : BitVec 128
  ctx : Nat
  setCtx : Bool := false
  at_ : Nat := 0
  ring : Nat := 0
  deriving DecidableEq, Repr

/-- An open loop (R115, R116, R127). `count` 0 means until stopped. -/
structure LoopFrame where
  /-- PC of the entry after the LOOP -/
  start : Nat
  /-- iterations left -/
  count : Nat
  forever : Bool
  body : Nat
  /-- the lane's count of advances of P when the present iteration began (ZERO_LOOP) -/
  moved : Nat
  /-- the body may be replayed: small enough, and only opcodes that R127 permits so far -/
  replay : Bool
  /-- the replay buffer: the body's decoded instructions; `play` once they come from there alone (R127) -/
  buf : List Rec := []
  play : Bool := false
  /-- the body was made resident (R126) -/
  res : Bool
  deriving DecidableEq, Repr

/-- An open call (R115): the return address and the loop depth at the call. -/
structure CallFrame where
  ret : Nat
  loops : Nat
  target : Nat
  len : Nat
  res : Bool
  deriving DecidableEq, Repr

/-- A WAIT_EVT that holds the program (R122 to R124). -/
structure WaitSt where
  a : Nat
  input : Nat
  delay : Nat
  timeout : Nat
  skip : Int
  deriving DecidableEq, Repr

/-- What the arrival of a wait's event has changed, for a STOP of the same fabric cycle, which wins (R134): the cycle, the
wait, P, the hop count, PROG_STAT.LATE and PROG_CNT.LATE as they stood. -/
structure WaitWas where
  cyc : Nat
  wait : WaitSt
  p : Nat
  hop : Option Nat
  late : Nat
  cnt : Nat
  deriving DecidableEq, Repr

/-- A group switch request as a member sees it (R53): T_sw in tq, its kind (0 member CTX, 1 event, 2 software), the
target context, its number in the group, and the boundary at which it has been applied. -/
structure SwReq where
  t : Nat
  rank : Nat
  ctx : Nat
  id : Nat
  at_ : Option Nat := none
  deriving DecidableEq, Repr

/-- A FIRE whose event has not been emitted (R120). -/
structure FireEv where
  flag : Nat
  origin : Nat
  hop : Nat
  iss : Nat
  deriving DecidableEq, Repr

/-- A shadow swap of a lane (R276 to R280). -/
inductive SwapKind where
  | immediate | deferred | waiting | rotation | home
  deriving DecidableEq, Repr

/-- A swap that runs in a cluster: the lane position, its kind, the spare and how far it has come. -/
structure Swap where
  lane : Nat
  kind : SwapKind
  spare : Nat
  startT0 : Nat
  loaded : Bool := false
  /-- T0 of the load; the compared periods follow it -/
  loadT0 : Nat := 0
  /-- period boundaries passed since the load, and the last of them, in tq (R277) -/
  seen : Nat := 0
  lastP : Nat := 0
  /-- B, DRV and DEN lane times committed about it, and F once an edge has shown it, in tq (R277, R278) -/
  b : Option Nat := none
  times : List Nat := []
  flipAt : Option Nat := none
  deriving DecidableEq, Repr

/-- One logical channel (03, 04, 10): its holder and requirements, contexts, program and lane logic. The
status words LANE_STAT, PROG_STAT and their neighbours stand in the register file. -/
structure Lane where
  holder : Option Nat := none
  /-- attribute recorded for the lane-bound rows and columns (R221) -/
  attr : Attr := 0
  egMask : Nat := 0
  cls : Nat := 0
  classMet : Bool := false
  /-- TMU_MIN requested and in force (R270) -/
  tmuMin : Nat := 0
  tmuForce : Nat := 0
  unplaced : Bool := false
  ctxs : Tbl (BitVec 128) := []
  /-- the context that a read of PROG_CTX_DATA0 captured (R102) -/
  ctxCap : BitVec 128 := 0
  -- program
  p : Nat := 0
  /-- the current context of the expander; CUR_CTX as decoding sees it, and whether a routine has written it since the last
  record (R139) -/
  curCtx : Nat := 0
  decCtx : Nat := 0
  ctxMoved : Bool := false
  /-- decoded instructions that advance P (R116), and instructions decoded since PRIME (R131) -/
  moves : Nat := 0
  decoded : Nat := 0
  /-- ERR of a stop that decoding ahead has found: the program stops when it comes there (R137) -/
  stopErr : Option Nat := none
  loops : List LoopFrame := []
  calls : List CallFrame := []
  records : List Rec := []
  wait : Option WaitSt := none
  mat : Option MatchSt := none
  hop : Option Nat := none
  fires : List FireEv := []
  /-- the start once it is fixed, in tq (R132, R51) -/
  startAt : Option Nat := none
  /-- a stop in wait: its time in tq and the ERR it sets, 0 NONE or 8 LG (R134, R135) -/
  stopAt : Option (Nat × Nat) := none
  /-- the fabric cycle of the last STOP, and what an event of its own cycle has changed (R134) -/
  stopCyc : Option Nat := none
  waitWas : Option WaitWas := none
  /-- group switch requests (R53), in the order in which they apply -/
  switches : List SwReq := []
  issued : List Issue := []
  nextId : Nat := 1
  /-- lines of the edge cache that hold fetched entries, in order of arrival (R126) -/
  cache : List Nat := []
  /-- lines that resident bodies occupy, innermost body first (R126) -/
  resident : List (List Nat) := []
  /-- edge-cache lines out of use, and words of the contexts that read as poisoned, after self-test (R320) -/
  retired : List Nat := []
  badCtx : List Nat := []
  /-- T0 of the accepted PRIME; none once priming has finished -/
  primeT0 : Option Nat := none
  /-- PROG_ENTRY and CTX0 as an accepted PRIME took them, until the PRIME routine or the end of priming shows their effect
  (R131, R149) -/
  primeDue : Option (Nat × Nat) := none
  /-- T0 at which priming finished (R133) -/
  primedT0 : Option Nat := none
  firstFail : Bool := false
  /-- T_u of an underrun that has been decided, until it takes effect (R130) -/
  under : Option Nat := none
  -- lane logic
  drvLast : Option Nat := none
  denLast : Option Nat := none
  /-- lane time of each generator's last firing, plus 1; 0 for never -/
  fired : Tbl Nat := []
  cands : List Cand := []
  flight : List Flight := []
  gates : List GateEv := []
  /-- the gate before the first listed event -/
  gate0 : Nat := 0x3F
  results : List PendRes := []
  /-- strobes that MATCH would have compared and a hold has discarded, until they fall (R119) -/
  lost : List LostStb := []
  /-- times of the lane's last strobe events, latest first, as a measurement may use them (R161) -/
  stbEvents : List Nat := []
  /-- the level at the CMP ball, before CMP_INV -/
  cmp : Bool := false
  /-- the arrival of the last CMP transition, tq (R87) -/
  cmpT : Nat := 0
  /-- the fabric cycle of the last CMP edge event (R89) -/
  cmpCycle : Option Nat := none
  /-- busy time of each trigger slot, tq (R73) -/
  slotBusy : Tbl Nat := []
  /-- the RELEASE in wait for T_r, the freeing of the channel and the clearing that follow (R262) -/
  releaseT0 : Option Nat := none
  freeT0 : Option Nat := none
  clearT0 : Option Nat := none
  deriving DecidableEq, Repr

/-! ### Physical channels and TMUs: tables (03, 06, 09) -/

/-- A user path set of a route: its three delays, its Tu, and Plinth's operating time when it was made (R244, R254). -/
structure PathSet where
  drv : Int
  den : Int
  cmp : Int
  tu : Int
  made : Nat
  deriving DecidableEq, Repr

/-- The tables of one physical channel (R68, R69): entries by generator × 256 + point, generator × 64 +
segment; the route's path delays stand in CH_PATH_DRV, CH_PATH_DEN and CH_PATH_CMP. -/
structure Phys where
  pd : Tbl Int := []
  achieved : Tbl Int := []
  /-- tables on their way in, a step at a time (R252) -/
  pdTo : Option (Tbl Int) := none
  achTo : Option (Tbl Int) := none
  pathTo : Option (Int × Int × Int) := none
  stepT0 : Nat := 0
  /-- user tables: PD and ACHIEVED, the generators they cover and their Tu by part (R247) -/
  userPd : Tbl Int := []
  userAch : Tbl Int := []
  userMask : Nat := 0
  tu : Tbl Int := []
  /-- user path sets of the channel's routes, by lane position (R244) -/
  userPath : Tbl (Option PathSet) := []
  /-- physical table set in force, 0 or 1, as bit e for generator e (R309, R70) -/
  setInForce : Nat := 0
  /-- the last launch of each generator (R68) -/
  launches : Tbl Launch := []
  /-- UNUSABLE was declared by self-test (true) or Caliper (false) (R326) -/
  byBist : Bool := false
  bistEgBad : Nat := 0
  storedMask : Nat := 0
  /-- when each generator's user table was made, in seconds of Plinth's operating time (R254) -/
  made : Tbl Nat := []
  deriving DecidableEq, Repr

/-- How a measurement's side gets its time (06, Sides of a measurement). -/
inductive Side where
  | timed (tq : Nat)
  | edge (pol : Nat)
  | strobe
  | event
  /-- an edge of the cluster's frequency prescaler (R159, R198) -/
  | prescaled
  deriving DecidableEq, Repr

/-- Who asked for a measurement. -/
inductive ReqSrc where
  | measure
  | slot (s : Nat)
  /-- stamp `i` of the gate that opened at `g0` tq -/
  | freq (i g0 : Nat)
  /-- Caliper or self-test, for any TMU or for one of its own choice (R186, R239) -/
  | maint (want : Option Nat) (bist : Bool)
  /-- a background burst on a TMU (R258, R296) -/
  | burst (want : Nat)
  deriving DecidableEq, Repr

/-- A request to the TMU pool (R161 to R168, R289). -/
structure Req where
  id : Nat
  src : ReqSrc
  session : Nat
  /-- lane position that is charged, and that the start and the stop look at -/
  lane : Nat
  stopLane : Nat
  ts : Nat
  start : Side
  stop : Side
  stopN : Nat
  timeout : Nat
  ring : Nat
  ctx : Nat
  hop : Nat
  late : Bool := false
  /-- T0 at which it reached the pool, and at which it became eligible -/
  post : Nat := 0
  eligible : Option Nat := none
  pass : Nat := 0
  aged : Bool := false
  deriving DecidableEq, Repr

/-- A reference pair of an interpolator: when it was complete, and its two codes (R169). -/
structure RefPair where
  i : Nat
  up : Nat
  r1 : BitVec 12
  r2 : BitVec 12
  deriving DecidableEq, Repr

/-- A TMU (06): the request it serves and what it has seen, and its tables; TMU_STAT and its neighbours stand in
the register file. -/
structure Tmu where
  req : Option Req := none
  armT0 : Nat := 0
  /-- route of the start and the stop side, fixed at arming (R168) -/
  route : Option Nat := none
  stopRoute : Option Nat := none
  /-- a side looks at a lane that had no channel at arming: the measurement ends by timeout (R168) -/
  unrouted : Bool := false
  /-- time of the start and of the qualifying stop, tq -/
  startT : Option Nat := none
  stopT : Option Nat := none
  stops : Nat := 0
  /-- hop counts of the events that started and stopped it (R227) -/
  hop : Nat := 0
  timedOut : Bool := false
  stale : Bool := false
  treeSlew : Bool := false
  /-- armed later than R162 wants for what it counts -/
  late : Bool := false
  /-- T0 of the stop or of the timeout's declaration -/
  endT0 : Nat := 0
  /-- edge count latched at the stop of a stamp (R198) -/
  freqN : Nat := 0
  /-- the record less its SEQ, once it is computed -/
  record : Option (BitVec 128) := none
  creditT0 : Nat := 0
  /-- reference pairs since the last measurement conversion, oldest first (R169), and the end of the dead time (R170) -/
  refs : List RefPair := []
  freeT0 : Nat := 0
  /-- code-density tables in force by 4,096 × interpolator + code, and the table on its way in (R252) -/
  cd : Tbl Nat := []
  cdTo : Option (Tbl Nat) := none
  stepT0 : Nat := 0
  /-- user tables, the temperature at which each interpolator's was made, and Plinth's operating time then, plus 1
  (R247, R254) -/
  cdUser : Tbl Nat := []
  cdTu : Tbl Int := []
  cdMade : Tbl Nat := []
  /-- TMU_PATH by 68 × interpolator + channel -/
  path : Tbl Nat := []
  /-- TMU_PATH on its way in, after the code-density tables (R175, R252) -/
  pathTo : Option (Tbl Nat) := none
  /-- user path values with their Tu and the operating time when they were made, by 64 × (68 × interpolator + channel) + lane
  position (R244) -/
  pathUser : Tbl (Option (Int × Int × Nat)) := []
  /-- T0 of the last ramp faults (R172), of the entry into RAMP_LOCK, and interpolators locked since -/
  faults : List Nat := []
  rampT0 : Nat := 0
  /-- UNUSABLE was declared by self-test (R326) -/
  byBist : Bool := false
  deriving DecidableEq, Repr

/-! ### Frequency estimators (07) -/

/-- The settings that GO copies (R194). -/
structure FreqRun where
  cfg : Word
  gate : Nat
  stamps : Nat
  ofs : Nat
  delta : Nat
  session : Nat
  deriving DecidableEq, Repr

/-- A stamp of the gate: request number, n and t (R198, R200). -/
structure Stamp where
  i : Nat
  n : Nat
  t : Nat
  deriving DecidableEq, Repr

/-- A gate (R192 to R200): its start in tq, stamps sent, outstanding, resolved and missed, and the flags of R202. -/
structure FreqGate where
  g0 : Nat
  next : Nat := 0
  outstanding : Nat := 0
  stamps : List Stamp := []
  missed : Nat := 0
  prescLow : Bool := false
  stale : Bool := false
  holdover : Bool := false
  internal : Bool := false
  tbSlew : Bool := false
  treeSlew : Bool := false
  late : Bool := false
  aborted : Bool := false
  /-- hop count of FREQ_DONE (R227) -/
  hop : Nat := 0
  /-- T0 at which the result is posted, once the gate has closed (R203) -/
  postT0 : Nat := 0
  deriving DecidableEq, Repr

/-- A FIN input: its level, and its cycles since the front prescaler's last output (R188). -/
structure FinIn where
  level : Bool := false
  div : Nat := 0
  deriving DecidableEq, Repr

/-- A frequency estimator (R188 to R204). -/
structure Freq where
  run : Option FreqRun := none
  /-- a start that is fixed and not yet reached, or the open gate -/
  gate : Option FreqGate := none
  /-- the next gate of continuous operation, once its first stamp has been requested (R196) -/
  pre : Option FreqGate := none
  /-- closed gates whose results are not yet posted, oldest first -/
  closed : List FreqGate := []
  /-- fabric cycle of the last STOP or ABORT: it wins over a GO of that cycle (R195) -/
  stopCyc : Option Nat := none
  /-- origin of the GO in tq -/
  goT : Nat := 0
  /-- prescaled edges since G0, qualifying input edges since the last prescaled edge, tq of the last prescaled edge -/
  n : Nat := 0
  sub : Nat := 0
  lastEdge : Option Nat := none
  /-- the gate that closed last: G0, Gc and prescaled edges since G0, counted on through the fabric cycle of Gc (R199) -/
  tail : Option (Nat × Nat × Nat) := none
  /-- physical channel on the route, fixed at gate open (R191) -/
  route : Option Nat := none
  /-- sums of the last posted result, and the captured copies (R201, R204) -/
  acc : List Nat := []
  accCap : List Nat := []
  capture : Tbl Word := []
  /-- the fabric cycle of the last posting, with the result registers and the sums as they stood before that cycle (R204) -/
  was : Option (Nat × List Word × List Nat) := none
  deriving DecidableEq, Repr

/-! ### Armature (08) -/

/-- The ownership of a row, column or line (R221). -/
structure Own where
  owner : Option Nat := none
  attr : Attr := 0
  share : Bool := false
  deriving DecidableEq, Repr

/-- An event on its way to a matrix stage: of row `src` of a cluster, or on line `src` to the global fabric, with its
full origin in tq (its 24-bit stamp is the low 24 bits of it, R209) and the fabric cycle of the stage. -/
structure Staged where
  src : Nat
  origin : Nat
  glob : Bool
  hop : Nat
  at_ : Nat
  deriving DecidableEq, Repr

/-- An event on its way to a column, and the fabric cycle in which it reaches it (R209 to R215). -/
structure Event where
  col : Nat
  origin : Nat
  glob : Bool
  hop : Nat
  arrive : Nat
  deriving DecidableEq, Repr

/-- The counts of a column (ARM_CNT0, ARM_CNT1). -/
structure ColCnt where
  merge : Nat := 0
  events : Nat := 0
  discard : Nat := 0
  deriving DecidableEq, Repr

/-- A global line (R218 to R220). -/
structure Line where
  own : Own := {}
  lg : Option Nat := none
  /-- driving cluster and output -/
  driver : Option (Nat × Nat) := none
  events : Nat := 0
  deriving DecidableEq, Repr

/-- What a clearing or unbinding write removed, and the fabric cycle in which it reached the page. The write takes effect
in the cycle after, and acts on the cycles after that (R214, R226). `key` is the matrix word 4096 × cluster +
8 × column + word, the global word 0x100000 + 2 × column + word, the input 0x200000 + 32 × cluster + input, or the output
0x300000 + 32 × cluster + output; `old` the word, or 64 + line for an output. -/
structure Fade where
  cyc : Nat
  key : Nat
  old : Word
  deriving DecidableEq, Repr

/-- A change that waits for the device-wide loop check (R225, R226). -/
inductive LoopReq where
  | matrix (sess k col w : Nat) (val : Word)
  | bind (sess line k out : Nat)
  | gin (sess k i : Nat) (val : Word)
  | trig (sess lane n : Nat) (reg : TrigReg) (val : DWord)
  deriving DecidableEq, Repr

/-! ### Clusters: micro-engine, control store, pool (05, 06, 11) -/

/-- A shadowed write of a thread (R148), by lane number: an operand, a context word of a cluster, a record, the tables
of a channel's generators, the cache, fetches, and the stacks with the address and instruction they come from. -/
inductive ShadowW where
  | op (lane sel : Nat) (v : DWord)
  | mem (k addr : Nat) (v : DWord)
  | enq (lane : Nat) (r : Rec)
  | flip (k p mask : Nat)
  | inval (lane : Nat)
  | fetch (lane n : Nat)
  | push (lane pc : Nat) (iw : BitVec 128)
  | pushCall (lane ret : Nat) (iw : BitVec 128)
  | popCall (lane : Nat)
  | endLoop (lane : Nat)
  deriving DecidableEq, Repr

/-- A thread of the micro-engine (R144): 0 to 63 decode, 64 + level for service. -/
structure Thread where
  g : Tbl DWord := []
  z : Bool := false
  n : Bool := false
  c : Bool := false
  v : Bool := false
  link : Nat := 0
  resume : Option Nat := none
  shadow : List ShadowW := []
  sel : Nat := 0
  req : DWord := 0
  sig : DWord := 0
  step : Nat := 0
  iw : BitVec 128 := 0
  buf : List Byte := []
  poison : Bool := false
  addrErr : Bool := false
  suspended : Bool := false
  /-- posted HBM operations not yet complete: address, and the bytes of a write -/
  posted : List (Nat × Option (List Byte)) := []
  vector : Nat := 0
  /-- restarts when it resumes, and then runs to its next COMMIT undisturbed (R149) -/
  restart : Bool := false
  mustCommit : Bool := false
  deriving DecidableEq, Repr

/-- A control-store load (R151 to R155). -/
structure Load where
  force : Bool
  fromNvm : Bool
  slot : Nat
  offset : Nat
  len : Nat
  session : Option Nat
  copyErr : Nat := 0
  /-- the bytes to be checked, and whether those of a BAR2 window have been taken as they stood at the LOAD (R152) -/
  image : List Byte := []
  latched : Bool := false
  deriving DecidableEq, Repr

/-- A record that waits for its ring credit without a TMU: the record less its SEQ, its ring and session, the T0 of
the credit request, whether it was injected, and the event slot it belongs to. -/
structure WaitRec where
  ring : Nat
  session : Nat
  body : BitVec 128
  since : Nat
  inj : Bool
  slot : Option Nat
  /-- the TMU in RAMP_LOCK that it comes from (R171) -/
  tmu : Option Nat := none
  deriving DecidableEq, Repr

/-- A cluster: its micro-engine, control store, Armature and TMU pool. -/
structure Cluster where
  -- micro-engine (R143 to R149)
  active : Option Nat := none
  upc : Nat := 0
  /-- DBG_CLUSTER HALT is in force, and a STEP has left the engine between two words (R379) -/
  halted : Bool := false
  stepped : Bool := false
  threads : Tbl Thread := []
  /-- pending level-2 requests, oldest first: vector, lane, and the T0 at which each became pending (R144) -/
  pend2 : List (Nat × Nat × Nat) := []
  pend1 : Option Nat := none
  pend0 : Option Nat := none
  /-- the active thread stands at a dispatch point (R143) -/
  atDispatch : Bool := false
  /-- what MBOX posted last, by level: 0 self-test, 1 Caliper -/
  mbox : Tbl DWord := []
  lastLane : Nat := 63
  /-- micro-cycles of the last 5,120 in which a service routine ran (R145) -/
  svc : List Nat := []
  -- control store (R150 to R155)
  cs : Tbl (BitVec 40) := []
  dispatch : Tbl Nat := []
  vectors : Tbl Nat := []
  /-- the array waits for the march that follows a parity failure; words left without a spare (R320, R322) -/
  march : Bool := false
  csBad : List Nat := []
  load : Option Load := none
  staging : List Byte := []
  mem : Tbl DWord := []
  /-- words of each channel's inactive table set that STX has written since its generator's last FLIP (R140) -/
  bank : Tbl (BitVec 768) := []
  /-- the number of the staging buffer's contents that Caliper has put there (R142) -/
  calStage : Nat := 0
  -- Armature (R206 to R231)
  mx : Tbl Word := []
  rows : Tbl Own := []
  cols : Tbl Own := []
  badWords : List Nat := []
  cnt : Tbl ColCnt := []
  stage : List Staged := []
  events : List Event := []
  /-- start events dropped at a busy event slot: the slot, whether OVERRUN was set before, the event (R215) -/
  missed : List (Nat × Bool × Event) := []
  -- pool arbiter (R289 to R296)
  queue : List Req := []
  credit : Tbl Nat := []
  ptr : Nat := 0
  nextReq : Nat := 0
  /-- records that wait for a credit without a TMU: refused, injected, or of a TMU in RAMP_LOCK (R290, R182, R171) -/
  waitRec : List WaitRec := []
  /-- records in the result buffer (R301) -/
  resultBuf : Nat := 0
  -- frequency borrow (R193): the slot whose start consumer is borrowed
  borrowed : Option Nat := none
  -- tree (R47, R245)
  treeTo : Option Nat := none
  treeT0 : Nat := 0
  treeMeasT0 : Nat := 0
  treeMeasTemp : Int := 0
  /-- repeats of the present measurement of the tree (R237) -/
  treeRepeats : Nat := 0
  /-- the pool position from which background bursts go on (R258) -/
  bgNext : Nat := 0
  /-- the fabric cycle of the pool arbiter's last round (R292) -/
  arbCyc : Option Nat := none
  temp : Int := 0
  recompT0 : Nat := 0
  recompTemp : Int := 0
  tempClamp : Bool := false
  idleT0 : Nat := 0
  -- swaps (R276)
  swap : Option Swap := none
  /-- waiting swaps: lane position and kind; a lane whose hold pauses it waits for the hold's end -/
  swapQ : List (Nat × SwapKind) := []
  /-- guarantees reduced, latest first: lane positions (R270) -/
  reduced : List Nat := []
  /-- floor tokens in fifths of a byte, and the fabric cycle they were counted to (R298) -/
  floorTokens : Nat := 0
  floorCyc : Nat := 0
  deriving DecidableEq, Repr

/-! ### Caliper (09) -/

/-- A command of Caliper's queue (R260). `session` none is Plinth's automatic run (R259). -/
structure CalCmd where
  op : Nat
  session : Option Nat
  cluster : Nat
  lanes : Nat
  hold : Bool
  extLane : Nat := 0
  deriving DecidableEq, Repr

/-- A table unit (R234): cluster, TMU or channel, number, part; of a path, also the lane position of the route, for a TMU's
with 64 × (68 × interpolator + channel). -/
structure CalUnit where
  cluster : Nat
  tmu : Bool
  unit : Nat
  part : Nat
  sub : Nat := 0
  deriving DecidableEq, Repr

/-- The tables that a pass gives: a channel's entries and the TMU_PATH values that go with a route's, by 34 × interpolator +
TMU, or the histograms of a TMU (R234). -/
inductive PassTables where
  | table (vals : List Int) (tmus : Tbl Int)
  | density (d : CdPass)
  deriving DecidableEq, Repr

/-- A run of one unit in a cluster (R234 to R241). -/
structure CalRun where
  unit : CalUnit
  /-- T0 passed since which it waits for its TMUs -/
  waitT0 : Option Nat := none
  /-- the cluster's temperature at the start of pass A, and whether it has been more than 1 °C away since (R237) -/
  temp0 : Int := 0
  moved : Bool := false
  /-- the rotator has slewed, or the time base has been ACQUIRING, during the present pass (R237) -/
  off : Bool := false
  started : Bool := false
  passA : Option PassTables := none
  repeats : Nat := 0
  tmus : List Nat := []
  /-- the channel is the run's, through all its units; the lane that is held for it (R249, R250) -/
  taken : Bool := false
  held : Option Nat := none
  /-- interpolators of the TMU that have no table for the test of an external run (R240) -/
  skip : List Nat := []
  stepAbort : Bool := false
  deriving DecidableEq, Repr

/-- A command that runs, with the units still to do. -/
structure CalJob where
  cmd : CalCmd
  todo : List CalUnit
  result : Nat := 0
  deriving DecidableEq, Repr

/-- What Caliper knows of a unit (CAL_UNIT_INFO, R236). -/
structure UnitInfo where
  fails : Nat := 0
  last : Nat := 0
  stored : Bool := false
  deriving DecidableEq, Repr

/-- One entry of a user bank's body: a unit, its Tu and its entries (R254). -/
structure BankRec where
  unit : CalUnit
  tu : Int
  made : Nat
  vals : List Int
  deriving DecidableEq, Repr

/-- A user bank in NVM (R254, R255), held as its parsed content. -/
structure Bank where
  valid : Bool := false
  seq : Nat := 0
  body : List BankRec := []
  deriving DecidableEq, Repr

/-- One store or invalidation in progress (R255, R257). -/
structure Store where
  bankB : Bool
  session : Option Nat
  restore : Bool
  body : List BankRec
  /-- tables were accepted since the snapshot; the session has asked for an abort -/
  later : Bool := false
  abort : Bool := false
  deriving DecidableEq, Repr

/-- The bursts of one background histogram, added up: hits by code and the sums of the mean reference codes. -/
structure BgSum where
  hist0 : List Nat := []
  hist1 : List Nat := []
  r1s0 : Nat := 0
  r2s0 : Nat := 0
  r1s1 : Nat := 0
  r2s1 : Nat := 0
  bursts : Nat := 0
  deriving DecidableEq, Repr

/-- The A and B histograms that background gathering builds for a TMU (R258). -/
structure BgAcc where
  a : BgSum := {}
  b : BgSum := {}
  deriving DecidableEq, Repr

/-- Caliper (R232 to R260). -/
structure Caliper where
  queue : List CalCmd := []
  auto : List CalCmd := []
  jobs : Tbl CalJob := []
  runs : Tbl CalRun := []
  takeAuto : Bool := false
  info : Tbl UnitInfo := []
  bankA : Bank := {}
  bankB : Bank := {}
  store : Option Store := none
  /-- background gathering by 34 × cluster + TMU: the A and B histograms, and the bursts in each (R258) -/
  bg : Tbl BgAcc := []
  deriving DecidableEq, Repr

/-! ### Pointing Engine (10) -/

/-- One lane of a session's Maquette (R273). -/
structure PlanLane where
  lane : Nat
  phys : Nat
  result : Nat
  tmuMin : Nat
  classMet : Bool
  deriving DecidableEq, Repr

/-- A session's last Maquette with the requirements it was computed for (R273, R274). -/
structure Plan where
  lanes : List PlanLane := []
  egMask : Nat := 0
  cls : Nat := 0
  lg : Option Nat := none
  /-- all or none was asked for and a lane failed: nothing is to be applied (R264) -/
  void : Bool := false
  deriving DecidableEq, Repr

/-- A queued request of a session (R263). -/
structure PeReq where
  session : Nat
  word : Word
  lanes : List Nat
  /-- PE_HBM_REQ, PE_HBM_RATE and PE_HBM_HANDLE at the GO -/
  hbm : Word
  rate : Nat
  handle : Nat
  /-- T0 passed at the GO -/
  origin : Nat
  deriving DecidableEq, Repr

/-- An HBM allocation (R271). -/
structure Alloc where
  handle : Nat
  session : Nat
  kind : Nat
  /-- first granule in HBM, granules, first granule of the window -/
  base : Nat
  count : Nat
  window : Nat
  rate : Nat
  deriving DecidableEq, Repr

/-- The Pointing Engine (R261 to R284). -/
structure Pointing where
  queue : List PeReq := []
  plans : Tbl Plan := []
  allocs : List Alloc := []
  nextHandle : Nat := 1
  deriving DecidableEq, Repr

/-! ### Self-test (12) -/

/-- A self-test target (R309). TYPE 0 CTX to 6 TMU; `trunk` is the reference TMU. -/
structure Target where
  ty : Nat
  cluster : Nat
  inst : Nat
  set : Nat
  trunk : Bool
  deriving DecidableEq, Repr

/-- What the scheduler keeps of a target (BIST_TGT_INFO). -/
structure TgtInfo where
  aborts : Nat := 0
  last : Nat := 0
  suspect : Bool := false
  skipped : Bool := false
  validT0 : Option Nat := none
  deriving DecidableEq, Repr

/-- A slice in a slot (R311 to R314). -/
structure Slice where
  tgt : Target
  forced : Bool
  /-- 1 SAVE, 2 TEST, 3 RESTORE, 5 aborting -/
  phase : Nat
  /-- T0 passed at the last checkpoint -/
  stepT0 : Nat
  step : Nat := 0
  sig : DWord := 0
  /-- failing bits recorded, with the step that met each -/
  bad : List (Nat × BadBit) := []
  /-- a service request waits: the slice aborts at its next checkpoint (R312) -/
  abort : Bool := false
  /-- restore steps still to come of a slice that aborts, and whether its verdict has been counted (R313) -/
  left : Nat := 0
  counted : Bool := false
  /-- of a table slice: its set was in force at the start, so the copy-and-FLIP comes first (R310) -/
  flipFirst : Bool := false
  /-- a temperature update of the channel waits for the end of a table slice (R312) -/
  update : Bool := false
  /-- the fabric cycle of its start, and what stood in the slot's start times before: a service request of that cycle takes the
  start back (R303) -/
  startCyc : Option Nat := none
  slotWas : Nat := 0
  lastWas : Option Nat := none
  deriving DecidableEq, Repr

/-- A finding of the log (BIST_LOG_DATA0, BIST_LOG_DATA1, BIST_LOG_SIG). -/
structure Finding where
  tgt : Target
  word : Nat
  bit : Nat
  multi : Bool
  verdict : Nat
  step : Nat
  sig : DWord
  deriving DecidableEq, Repr

/-- A repair or unit record (R323), less its CRC. -/
structure RepairRec where
  tgt : Target
  column : Bool := false
  spare : Nat := 0
  failed : Nat := 0
  egBad : Nat := 0
  cancel : Bool := false
  seq : Nat := 0
  deriving DecidableEq, Repr

/-- The command of BIST_CMD that waits or runs: OP, target, session, and the PASS verdicts that it has (R326). -/
structure BistCmd where
  op : Nat
  tgt : Target
  session : Nat
  passes : Nat := 0
  deriving DecidableEq, Repr

/-- The self-test controller (R309 to R326). -/
structure Bist where
  slots : Tbl (Option Slice) := []
  /-- T0 passed at each slot's last start, plus 1, and at the last start of either -/
  slotT0 : Tbl Nat := []
  lastStart : Option Nat := none
  /-- failures that wait for their confirmation, with the failing bits recorded (R317) -/
  confirm : List (Target × List (Nat × BadBit)) := []
  /-- repairs that come into force in the next slice on their region (R319) -/
  repairQ : List RepairRec := []
  /-- the next target of the rotation, and T0 passed at the rotation's start -/
  rot : Nat := 0
  cycleT0 : Nat := 0
  info : Tbl TgtInfo := []
  log : List Finding := []
  /-- the records of copy 0 and copy 1, those waiting to be written, and whether the first of them has reached
  copy 0 (R324) -/
  recs0 : List RepairRec := []
  recs1 : List RepairRec := []
  writeQ : List RepairRec := []
  inCopy0 : Bool := false
  compact : Bool := false
  cmd : Option BistCmd := none
  deriving DecidableEq, Repr

/-! ### Fault collector (13) -/

/-- A fault message (R327) with the fabric cycle that raised it and the sessions of its To column. -/
structure Msg where
  source : Nat
  kind : Nat
  sev : Nat
  inj : Bool
  addr : Word
  seq : Nat
  cycle : Nat
  dest : List Nat
  deriving DecidableEq, Repr

/-- One fault source: its counters, its buffer and what it lost (R330, R333). -/
structure Source where
  seq : Nat := 0
  injSeq : Nat := 0
  lost : Nat := 0
  lastSev : Nat := 0
  buf : Option Msg := none
  deriving DecidableEq, Repr

/-- A fault ring: head and tail counts and its LOST state (R337), with the fabric cycle of the last loss. The messages
stand in HBM (R336). -/
structure FltRing where
  head : Nat := 0
  tail : Nat := 0
  lost : Nat := 0
  lostBit : Bool := false
  lostCyc : Option Nat := none
  deriving DecidableEq, Repr

/-- The fault collector (R327 to R344). -/
structure Collector where
  sources : Tbl Source := []
  injected : List Msg := []
  queue : List Msg := []
  device : FltRing := {}
  mirrors : Tbl FltRing := []
  srcLost : Nat := 0
  /-- the fabric cycle in which the collector last took messages, and how many (R335) -/
  took : Nat × Nat := (0, 0)
  deriving DecidableEq, Repr

/-! ### Sessions, rings, interrupts (14) -/

/-- An MSI-X table entry (R363). -/
structure MsixVec where
  masked : Bool := true
  pending : Bool := false
  /-- a ring interrupt is still owed -/
  owed : Bool := false
  deriving DecidableEq, Repr

/-- A session (R346, R357, R358). -/
structure Session where
  live : Bool := false
  attr : Attr := 0
  /-- the fabric cycle of the last change of the attribute, and the one before it (R357) -/
  attrWas : Option (Nat × Nat) := none
  d3 : Bool := false
  resetting : Bool := false
  resetT0 : Nat := 0
  bme : Bool := false
  msixEn : Bool := false
  fnMask : Bool := false
  vecs : Tbl MsixVec := []
  /-- the ring that was drained last (R368) -/
  lastDrain : Nat := 0
  /-- the descriptor that a read of RING_DESC[0] captured -/
  descCap : List Word := []
  deriving DecidableEq, Repr

/-- A ring descriptor (R365). -/
structure Ring where
  sizeLog2 : Nat
  owner : Nat
  base : Nat
  dma : Bool
  vec : Nat
  irqEn : Bool
  ovr : Bool := false
  coalesce : Nat
  threshLog2 : Nat
  host : Nat
  head : Nat := 0
  drain : Nat := 0
  tail : Nat := 0
  /-- next sequence number (R179), credits granted and not yet written (R367) -/
  seq : Nat := 0
  out : Nat := 0
  /-- DESTROY waits for its granted records (R366) -/
  dying : Bool := false
  /-- the visible count at the last message, and the T0 at which the first record beyond it became visible -/
  mark : Nat := 0
  firstT0 : Option Nat := none
  /-- fabric cycle of the last message (R370) -/
  msgCyc : Option Nat := none
  deriving DecidableEq, Repr

/-- What the device sends to a host (R348): record copies, status words and MSI-X messages. -/
inductive Out where
  | write (sess : Nat) (addr : Nat) (bytes : List Byte) (ep : Bool)
  | msix (sess vec : Nat)
  | completerAbort (sess : Nat)
  | unsupported (sess : Nat)
  deriving DecidableEq, Repr

/-- A link of a port (R345, R346). -/
structure Link where
  up : Bool := false
  vfEn : Bool := false
  numVfs : Nat := 0
  deriving DecidableEq, Repr

/-- A host NVM command (R373). -/
structure NvmCmd where
  session : Nat
  op : Nat
  addr : Nat
  len : Nat
  deriving DecidableEq, Repr

/-! ### Security, power, Plinth, bring-up (15, 16) -/

/-- The nonce that DBG_CHALLENGE returned (R377). -/
structure Nonce where
  bytes : List Byte
  level : Nat
  t0 : Nat
  deriving DecidableEq, Repr

/-- The security block and the TAP (R374 to R381). -/
structure Security where
  /-- the last write to the page was SEC_LC_CTRL with this TARGET and GO clear (R374) -/
  prep : Option Nat := none
  target : Option Nat := none
  locked : Bool := false
  nonce : Option Nonce := none
  lockT0 : Option Nat := none
  lockS : Nat := 0
  /-- the fabric cycle of the last cause that drops the level: a rise of that cycle is refused (R380) -/
  dropCyc : Option Nat := none
  /-- a rise: its fabric cycle, the level before, and the sessions that it told: a drop of that cycle refuses it (R380) -/
  rose : Option (Nat × Nat × List Nat) := none
  /-- the two copies of the lifecycle record, each its sequence number and state (R375); none for one that is not valid -/
  lc0 : Option (Nat × Nat) := some (1, 1)
  lc1 : Option (Nat × Nat) := some (0, 1)
  -- TAP
  ir : Byte := 0x02
  boundary : BitVec 25 := 0
  driving : Bool := false
  highz : Bool := false
  /-- what the next Capture-DR of DBG_ACCESS loads (R379) -/
  dbg : BitVec 104 := 0
  deriving DecidableEq, Repr

/-- A trip record (R388). -/
structure TripRec where
  opSeconds : Nat
  cause : Nat
  what : Nat
  value : Int
  deriving DecidableEq, Repr

/-- What Plinth knows of a firmware image in NVM (R391, R392). -/
structure FwImage where
  valid : Bool := false
  version : Nat := 0
  seq : Nat := 0
  deriving DecidableEq, Repr

/-- Power states of R382 to R385. -/
inductive PowerState where
  | active | drowse | deep
  deriving DecidableEq, Repr

/-- Who asked for a power state (R385). -/
inductive PowerWho where
  | trip | smbus | session (s : Nat)
  deriving DecidableEq, Repr

/-- Plinth and the power states (R382 to R392). -/
structure Plinth where
  st : PowerState := .active
  /-- the transition in progress: its target and whether it ends a trip -/
  going : Option PowerState := none
  held : List (PowerWho × Nat × Bool) := []
  /-- the fabric cycle in which a request was last decided, and its place in the order of deciding (R385) -/
  askCyc : Option (Nat × Nat) := none
  tripped : Bool := false
  hwTripped : Bool := false
  /-- the wake runs the full sequence from phase 0 (R403, R404) -/
  full : Bool := false
  coolT0 : Option Nat := none
  belowT0 : Option Nat := none
  /-- filtered values, 1/1,024 of their unit: sensors 0 to 47, oscillator 48, supplies 49 to 56 -/
  filt : Tbl Int := []
  raw : Tbl Int := []
  primed : Bool := false
  /-- T0 passed at the last iteration, plus 1 -/
  iterT0 : Nat := 0
  /-- consecutive iterations of disagreement by sensor, of a supply outside its window -/
  odd : Tbl Nat := []
  supOut : Tbl Nat := []
  tripLog : List TripRec := []
  /-- the image that was started has reported itself running (R392) -/
  running : Bool := false
  recovery : Bool := false
  imageB : Bool := false
  triedOther : Bool := false
  startT0 : Nat := 0
  fwA : FwImage := { valid := true }
  fwB : FwImage := {}
  raiseMin : Option Nat := none
  /-- FW_STAGE has erased the image that is not running (R391) -/
  staging : Bool := false
  /-- the mailbox: the request in wait and the session that sent it, none for the SMBus (R390) -/
  mbox : Option (List Byte × Option Nat) := none
  mboxRsp : List Byte := []
  /-- the fabric cycle, plus 1, of each cluster's last gating decision and of its last wake request; clusters to be
  woken once they are gated (R382) -/
  gateCyc : Tbl Nat := []
  wakeCyc : Tbl Nat := []
  wakeAfter : List Nat := []
  /-- Plinth's operating time, and the T0 passed up to which it counts whole seconds (R40) -/
  opSeconds : Nat := 0
  opT0 : Nat := 0
  /-- fault summaries captured at entry to DEEP (R372) -/
  deepSum : Option (DWord × DWord) := none
  /-- the fractional part of the word that the always-on island accumulates while the master PLL is stopped, and the T0
  by which it counts each REFIN edge, 0 where it counts oscillator cycles (R45, R395) -/
  deepFrac : Int := 0
  followRef : Nat := 0
  /-- clusters that have not been powered since DEEP (R259) -/
  deepCl : List Nat := []
  deriving DecidableEq, Repr

/-- Resets, supplies and the start sequence (R393 to R404). -/
structure Boot where
  /-- supplies now inside their windows -/
  rails : List Rail := []
  supplyOk : Bool := false
  supplyT0 : Nat := 0
  aonOut : Bool := false
  resetN : Bool := false
  released : Bool := false
  t1 : Nat := 0
  done : List Nat := []
  /-- clusters that phase 5 has loaded (R400) -/
  csLoaded : List Nat := []
  hbmDone : Bool := false
  perst : List Nat := []
  bifurcated : List Nat := []
  smbAddr : Nat := 0x60
  /-- DEVID, P0_X4X4 and P1_X4X4 as they stand at the release of RESET_N (R394) -/
  devid : Nat := 0
  x4 : List Nat := []
  /-- the internal reset has not been released since the always-on reset -/
  first : Bool := true
  deriving DecidableEq, Repr

/-- The session of a change that waits for its loop check. -/
def LoopReq.sess : LoopReq → Nat
  | .matrix ss _ _ _ _ | .bind ss _ _ _ | .gin ss _ _ _ | .trig ss _ _ _ _ => ss

/-- A register access that waits behind its function's loop check: session, address, and the words of a write, none of a
read (R18, R226). -/
structure Stalled where
  ss : Nat
  addr : Nat
  vals : List Word
  /-- T0 passed at its arrival (R308) -/
  t0 : Nat
  deriving DecidableEq, Repr

/-- What a transfer that waits in the HBM scheduler carries: a record of a cluster for a ring, or an edge fetch of a
lane's line. -/
inductive XferWhat where
  | record (k ring : Nat) (body : BitVec 128)
  | fetch (lane line : Nat)
  deriving DecidableEq, Repr

/-- A transfer that waits, with its size and the fabric cycle of its arrival. -/
structure Xfer where
  size : Nat
  since : Nat
  what : XferWhat
  deriving DecidableEq, Repr

/-- The HBM scheduler (R297 to R301): transfers in wait by flow (0 to 80), edge fetches of cluster k as they arrive
(100 + k) and in the floor class (120 + k), deficits, the round pointer, the floor's turn, and the bytes and longest wait
by flow or class. -/
structure HbmSched where
  wait : Tbl (List Xfer) := []
  deficit : Tbl Nat := []
  ptr : Nat := 0
  floorPtr : Nat := 0
  /-- device-class bucket in sixteenths of a byte, and the T0 passed that it was counted to (R299) -/
  devTokens : Nat := 65536
  devT0 : Nat := 0
  bytes : Tbl Nat := []
  waitMax : Tbl Nat := []
  deriving DecidableEq, Repr

/-- The parts of the device: everything but its command queue, its two byte memories, and the memory of what the host's
writes of the present fabric cycle did. -/
structure Parts where
  /-- EPOCH_COARSE (R44): the count of T0 -/
  epoch : Nat := 0
  /-- T0 that have passed, whatever epochs were taken: what every lapse of time is measured on. MODEL's own; an epoch
  taken may add up to 3, so that a fabric cycle of either count is one of the other -/
  up : Nat := 0
  /-- MODEL's own: the number of free values drawn so far; no statement rests on it -/
  free : Nat := 0
  /-- capability options of the protected configuration record: bit 0 COMPAT_BT256, bit 1 DIRUM_SYNC, bit 2
  SHADOW_SWAP (R3) -/
  options : Nat := 7
  /-- every register, by key (Machine/Regs.lean) -/
  regs : Tbl Word := []
  /-- low words held for a 64-bit write, by key; high words captured by a session with their low words, by the session's
  key of the high word (R10) -/
  hold : Tbl Word := []
  capt : Tbl (Option Word) := []
  /-- bits that hardware set in the present fabric cycle: (cycle, mask) by key (R20) -/
  fresh : Tbl (Nat × Word) := []
  /-- the fabric cycle of each page's last BLOCK_RESET, by base address (R21) -/
  pageReset : Tbl (Option Nat) := []
  /-- the last host write of a register that sessions share, by key: its fabric cycle, the place of its port and link
  among the writes of one cycle, and the word (R19, R345) -/
  ports : Tbl (Nat × Nat × Word) := []
  /-- W1S writes that met an action in progress: the fabric cycle, the register, the session and the word (R20) -/
  again : List (Nat × Nat × Nat × Word) := []
  tb : TimeBase := {}
  dirum : Dirum := {}
  lgs : Tbl LockGroup := []
  lanes : Tbl Lane := []
  phys : Tbl Phys := []
  tmus : Tbl Tmu := []
  freqs : Tbl Freq := []
  fins : Tbl FinIn := []
  clusters : Tbl Cluster := []
  lines : Tbl Line := []
  gmx : Tbl Word := []
  gStage : List Staged := []
  fade : List Fade := []
  loopQ : List LoopReq := []
  /-- register accesses that wait behind their function's loop check, in order of arrival (R18, R226) -/
  stalled : List Stalled := []
  cal : Caliper := {}
  pe : Pointing := {}
  sched : HbmSched := {}
  bist : Bist := {}
  flt : Collector := {}
  sess : Tbl Session := []
  links : Tbl Link := []
  rings : Tbl (Option Ring) := []
  nvmQ : List NvmCmd := []
  /-- the requester whose operation the NVM performs, as NVM_STAT numbers it, and the fabric cycle of the choice (R28) -/
  nvmCur : Option (Nat × Nat) := none
  sec : Security := {}
  pln : Plinth := {}
  boot : Boot := {}
  /-- HBM data marked poisoned (R26): byte addresses / 8 -/
  poison : List Nat := []
  /-- posted writes, messages and completions sent to the hosts, oldest first -/
  out : List Out := []
  /-- a write of DBG_ACCESS is being performed: it has attribute M and passes ownership checks (R379) -/
  dbg : Bool := false
  /-- data of the last read completion and whether it had EP set (R360), of the last SMBus reply, of the last JTAG data
  register -/
  reply : List Byte := []
  replyEp : Bool := false
  smb : List Byte := []
  tdo : List Byte := []
  deriving DecidableEq, Repr

/-- What a host's write of a page changed: its fabric cycle, the page, and the parts before and after (R21). -/
structure Undo where
  cyc : Nat
  page : Nat
  /-- of a command its session and offset: QUIESCE of the same fabric cycle discards it (R352) -/
  cmd : Option (Nat × Nat) := none
  before : Parts
  after : Parts
  deriving DecidableEq, Repr

/-- The device less its command queue and its two byte memories: what a command that stores no byte of HBM or NVM
can change at all. -/
structure Dev extends Parts where
  /-- the host's writes of the present fabric cycle, oldest first: a BLOCK_RESET of that cycle discards them (R21) -/
  undo : List Undo := []
  /-- service requests of the present fabric cycle: its number, TYPE, cluster, and INSTANCE, none for every one (R303) -/
  serves : List (Nat × Nat × Nat × Option Nat) := []
  deriving DecidableEq, Repr

/-- The whole device and the commands that wait. -/
structure State extends Dev where
  /-- the commands that wait, first in, first out -/
  pending : List Instr := []
  /-- HBM, 16 GiB (R25); an unlisted byte reads 0 -/
  hbm : List Host.Cell := []
  /-- NVM, 64 MiB (R27); an unlisted byte reads 0xFF -/
  nvm : List Host.Cell := []
  deriving DecidableEq, Repr

/-- Why the machine stops. -/
inductive Fault where
  /-- raised by HBMRD and HBMWR when the address lies outside the 16 GiB of HBM (R25): the spec gives no such
  address. SAFE: the model stops where the device's behaviour is not stated. -/
  | hbmAddress
  deriving DecidableEq, Repr

/-- Why a command is refused. -/
inductive Refusal where
  /-- raised by an arm of exec whose command has no meaning yet. SAFE: the run ends there. -/
  | notModelled (mnemonic : String)
  deriving DecidableEq, Repr

/-- What a command answers. -/
abbrev Result := Host.Outcome State Fault Refusal

/-- The device at power-on: every supply off or just applied, AON_RST_N and RESET_N low (R393, R394), every
register at its reset value, no session, nothing placed, an empty queue. -/
def State.reset : State := {}

end Sys2Proof.Machine
end

