-- ==== Sys2Proof/Machine/Tbl.lean ====
section
/-! DEFINITION. Sparse tables in canonical form: the lookups and updates that every keyed part of the state goes
through. `d` is what an unlisted key reads as. -/

namespace Sys2Proof.Machine

/-- The value at key `k`. -/
def tget {α : Type} (d : Nat → α) : Tbl α → Nat → α
  | [], k => d k
  | (j, v) :: t, k => if j = k then v else tget d t k

/-- The table without key `k`. -/
def terase {α : Type} : Tbl α → Nat → Tbl α
  | [], _ => []
  | (j, v) :: t, k => if j = k then terase t k else (j, v) :: terase t k

/-- The pair placed before the first larger key. -/
def tins {α : Type} : Tbl α → Nat → α → Tbl α
  | [], k, v => [(k, v)]
  | (j, w) :: t, k, v => if k < j then (k, v) :: (j, w) :: t else (j, w) :: tins t k v

/-- The table with key `k` reading `v`; no entry equal to the default is listed. -/
def tput {α : Type} [DecidableEq α] (d : Nat → α) (t : Tbl α) (k : Nat) (v : α) : Tbl α :=
  if v = d k then terase t k else tins (terase t k) k v

/-- The table with the value at `k` changed by `f`. -/
def tmod {α : Type} [DecidableEq α] (d : Nat → α) (t : Tbl α) (k : Nat) (f : α → α) : Tbl α :=
  tput d t k (f (tget d t k))

/-- Keys strictly rising from above `lo`, and no default entry. -/
def twfFrom {α : Type} [DecidableEq α] (d : Nat → α) : Nat → Tbl α → Bool
  | _, [] => true
  | lo, (j, v) :: t => decide (lo ≤ j) && decide (v ≠ d j) && twfFrom d (j + 1) t

/-- The canonical form of a table. -/
def twf {α : Type} [DecidableEq α] (d : Nat → α) (t : Tbl α) : Bool := twfFrom d 0 t

/-- The list with the element at position `i` replaced; unchanged beyond its end. -/
def lset {α : Type} : List α → Nat → α → List α
  | [], _, _ => []
  | _ :: t, 0, v => v :: t
  | x :: t, i + 1, v => x :: lset t i v

/-- The first element that satisfies `p`, and the list without it. -/
def takeFirst {α : Type} (p : α → Bool) : List α → Option (α × List α)
  | [] => none
  | x :: t => if p x then some (x, t) else (takeFirst p t).map fun (y, r) => (y, x :: r)

/-- An element inserted into a list that `le` orders, after its equals. -/
def ordIns {α : Type} (le : α → α → Bool) (x : α) : List α → List α
  | [] => [x]
  | y :: t => if le y x then y :: ordIns le x t else x :: y :: t

/-- A list sorted by insertion; equals keep their order. -/
def ordSort {α : Type} (le : α → α → Bool) (l : List α) : List α := l.foldl (fun acc x => ordIns le x acc) []

/-- The quotient rounded to the nearest integer, halves to even (R8); 0 for a divisor of 0. -/
def rdiv (a b : Int) : Int :=
  let q := a / b
  let r := 2 * (a % b)
  if b = 0 then 0
  else if r < b.natAbs then q
  else if (b.natAbs : Int) < r then q + b.sign
  else if q % 2 = 0 then q else q + b.sign

/-- A count that stops at its largest value. -/
def satAdd (max a b : Nat) : Nat := if a + b ≤ max then a + b else max

end Sys2Proof.Machine
end

