-- ==== Sys2Proof/Machine/Regs.lean ====
section
/-! DEFINITION. The register map: one name for each register and field of the manual, as a key of `Dev.regs`
and a place in it, generated from the register tables of the chapters named with each page.
A shared register's key is its BAR0 byte offset (R24, R350); a session's own copy stands `sessKey` higher. -/

namespace Sys2Proof.Machine

/-- A field: its register's key, its lowest bit and its width. -/
structure Fld where
  key : Nat
  lo : Nat
  w : Nat
  deriving DecidableEq, Repr

/-- Where the copies of session `ss` begin. -/
abbrev sessKey (ss : Nat) : Nat := 0x4000000 * (ss + 1)
/-- Base of cluster `k` (R24). -/
abbrev clu (k : Nat) : Nat := 0x1000000 + 0x100000 * k
/-- Channel page `p` of cluster `k` (R24). -/
abbrev chPg (k p : Nat) : Nat := clu k + 0x40000 + 0x1000 * p
/-- The page whose lane section belongs to logical channel `L` (R96). -/
abbrev lanePg (L : Nat) : Nat := chPg (L / 64) (L % 64)
/-- TMU page `t` of cluster `k` (R24). -/
abbrev tmuPg (k t : Nat) : Nat := clu k + 0xC0000 + 0x1000 * t

abbrev CL_CONFIG (k : Nat) : Nat := clu k + 0x100
abbrev CL_CONFIG.CLUSTER (k : Nat) : Fld := ⟨(CL_CONFIG k), 28, 4⟩
abbrev CL_CONFIG.PHYS_CH (k : Nat) : Fld := ⟨(CL_CONFIG k), 21, 7⟩
abbrev CL_CONFIG.LOG_CH (k : Nat) : Fld := ⟨(CL_CONFIG k), 14, 7⟩
abbrev CL_CONFIG.TMU_CNT (k : Nat) : Fld := ⟨(CL_CONFIG k), 8, 6⟩
abbrev CL_STATE (k : Nat) : Nat := clu k + 0x104
abbrev CL_STATE.PWR (k : Nat) : Fld := ⟨(CL_STATE k), 30, 2⟩
abbrev CL_STATE.TREE_ALIGNED (k : Nat) : Fld := ⟨(CL_STATE k), 29, 1⟩
abbrev CL_STATE.MCHK (k : Nat) : Fld := ⟨(CL_STATE k), 28, 1⟩
abbrev CL_STATE.QUIESCED (k : Nat) : Fld := ⟨(CL_STATE k), 27, 1⟩
abbrev CL_STATE.FIFO_ERR (k : Nat) : Fld := ⟨(CL_STATE k), 24, 3⟩
abbrev CL_STATE.SPARES_FREE (k : Nat) : Fld := ⟨(CL_STATE k), 16, 8⟩
abbrev CL_STATE.TMU_SPARES_FREE (k : Nat) : Fld := ⟨(CL_STATE k), 8, 8⟩
abbrev CL_STATE.UNPLACED (k : Nat) : Fld := ⟨(CL_STATE k), 0, 8⟩
abbrev TB_CTRL : Nat := 0x1100
abbrev TB_CTRL.PATINA_AUTO : Fld := ⟨TB_CTRL, 0, 1⟩
abbrev TB_CTRL.REF_REVERT : Fld := ⟨TB_CTRL, 1, 1⟩
abbrev TB_CTRL.PATINA_LOG : Fld := ⟨TB_CTRL, 2, 1⟩
abbrev TB_CTRL.REF_BW : Fld := ⟨TB_CTRL, 4, 2⟩
abbrev TB_STAT : Nat := 0x1104
abbrev TB_STAT.SRC_STATE : Fld := ⟨TB_STAT, 0, 3⟩
abbrev TB_STAT.PLL_LOCK : Fld := ⟨TB_STAT, 3, 1⟩
abbrev TB_STAT.REFIN_PRESENT : Fld := ⟨TB_STAT, 4, 1⟩
abbrev TB_STAT.REF_LOSS : Fld := ⟨TB_STAT, 5, 1⟩
abbrev TB_STAT.REF_PHASE_LOST : Fld := ⟨TB_STAT, 6, 1⟩
abbrev TB_STAT.ADJ_CLAMP : Fld := ⟨TB_STAT, 7, 1⟩
abbrev TB_STAT.PATINA_FIT_OK : Fld := ⟨TB_STAT, 8, 1⟩
abbrev TB_REF_SEL : Nat := 0x1108
abbrev TB_REF_SEL.SRC : Fld := ⟨TB_REF_SEL, 0, 1⟩
abbrev TB_REF_SEL.FREQ : Fld := ⟨TB_REF_SEL, 1, 2⟩
abbrev TB_AGE_ADJ : Nat := 0x110C
abbrev TB_AGE_ADJ.ADJ : Fld := ⟨TB_AGE_ADJ, 0, 32⟩
abbrev TB_EPOCH_COARSE : Nat := 0x1110
abbrev TB_EPOCH_COARSE.EPOCH : Fld := ⟨TB_EPOCH_COARSE, 0, 64⟩
abbrev TB_REF_PHASE_ERR : Nat := 0x1118
abbrev TB_REF_PHASE_ERR.ERR : Fld := ⟨TB_REF_PHASE_ERR, 0, 32⟩
abbrev TB_REF_FREQ_OFS : Nat := 0x111C
abbrev TB_REF_FREQ_OFS.OFS : Fld := ⟨TB_REF_FREQ_OFS, 0, 32⟩
abbrev TB_SLEW_LIMIT : Nat := 0x1120
abbrev TB_SLEW_LIMIT.PPB : Fld := ⟨TB_SLEW_LIMIT, 0, 16⟩
abbrev TB_REF_QUAL : Nat := 0x1124
abbrev TB_REF_QUAL.MS : Fld := ⟨TB_REF_QUAL, 0, 16⟩
abbrev TB_PATINA_CFG : Nat := 0x1128
abbrev TB_PATINA_CFG.C : Fld := ⟨TB_PATINA_CFG, 0, 16⟩
abbrev TB_PATINA_CFG.INTERVAL : Fld := ⟨TB_PATINA_CFG, 16, 8⟩
abbrev TB_PATINA_CFG.MIN_RECORDS : Fld := ⟨TB_PATINA_CFG, 24, 8⟩
abbrev TB_PATINA_A : Nat := 0x112C
abbrev TB_PATINA_A.A : Fld := ⟨TB_PATINA_A, 0, 32⟩
abbrev TB_PATINA_B : Nat := 0x1130
abbrev TB_PATINA_B.B : Fld := ⟨TB_PATINA_B, 0, 32⟩
abbrev TB_PATINA_STAT : Nat := 0x1134
abbrev TB_PATINA_STAT.RECORDS : Fld := ⟨TB_PATINA_STAT, 0, 17⟩
abbrev TB_PATINA_STAT.RESID : Fld := ⟨TB_PATINA_STAT, 17, 15⟩
abbrev TB_OP_HOURS : Nat := 0x1138
abbrev TB_OP_HOURS.HOURS : Fld := ⟨TB_OP_HOURS, 0, 32⟩
abbrev TB_TREE_PHASE (i : Nat) : Nat := 0x1140 + 4 * i
abbrev TB_TREE_PHASE.CORR (i : Nat) : Fld := ⟨(TB_TREE_PHASE i), 0, 12⟩
abbrev TB_TREE_PHASE.RESIDUAL (i : Nat) : Fld := ⟨(TB_TREE_PHASE i), 12, 8⟩
abbrev TB_TREE_PHASE.DRIFT_ALARM (i : Nat) : Fld := ⟨(TB_TREE_PHASE i), 20, 1⟩
abbrev TB_TREE_PHASE.SLEWING (i : Nat) : Fld := ⟨(TB_TREE_PHASE i), 21, 1⟩
abbrev TB_LG_SEL (ss : Nat) : Nat := sessKey ss + (0x1180)
abbrev TB_LG_SEL.GROUP (ss : Nat) : Fld := ⟨(TB_LG_SEL ss), 0, 6⟩
abbrev TB_LG_SEL.WORD (ss : Nat) : Fld := ⟨(TB_LG_SEL ss), 8, 5⟩
abbrev TB_LG_MEMBERS : Nat := 0x1184
abbrev TB_LG_MEMBERS.MEMBERS : Fld := ⟨TB_LG_MEMBERS, 0, 32⟩
abbrev TB_LG_CTRL : Nat := 0x1188
abbrev TB_LG_CTRL.CLAIM : Fld := ⟨TB_LG_CTRL, 0, 1⟩
abbrev TB_LG_CTRL.RELEASE : Fld := ⟨TB_LG_CTRL, 1, 1⟩
abbrev TB_LG_CTRL.START_MODE : Fld := ⟨TB_LG_CTRL, 2, 2⟩
abbrev TB_LG_CTRL.GO : Fld := ⟨TB_LG_CTRL, 4, 1⟩
abbrev TB_LG_CTRL.STOP : Fld := ⟨TB_LG_CTRL, 5, 1⟩
abbrev TB_LG_CTRL.SWITCH : Fld := ⟨TB_LG_CTRL, 6, 1⟩
abbrev TB_LG_CTRL.CTX : Fld := ⟨TB_LG_CTRL, 8, 8⟩
abbrev TB_LG_STAT : Nat := 0x118C
abbrev TB_LG_STAT.OWNER : Fld := ⟨TB_LG_STAT, 0, 6⟩
abbrev TB_LG_STAT.CLAIMED : Fld := ⟨TB_LG_STAT, 6, 1⟩
abbrev TB_LG_STAT.STATE : Fld := ⟨TB_LG_STAT, 7, 2⟩
abbrev TB_LG_STAT.LATE : Fld := ⟨TB_LG_STAT, 9, 1⟩
abbrev TB_LG_STAT.CROSS : Fld := ⟨TB_LG_STAT, 10, 1⟩
abbrev TB_LG_STAT.LINE_VALID : Fld := ⟨TB_LG_STAT, 11, 1⟩
abbrev TB_LG_STAT.LINE : Fld := ⟨TB_LG_STAT, 12, 6⟩
abbrev TB_LG_STAT.ATTR : Fld := ⟨TB_LG_STAT, 18, 2⟩
abbrev TB_LG_STAT.ERR : Fld := ⟨TB_LG_STAT, 20, 4⟩
abbrev TB_LG_STAT.SKIP : Fld := ⟨TB_LG_STAT, 24, 8⟩
abbrev TB_LG_START : Nat := 0x1190
abbrev TB_LG_START.EPOCH : Fld := ⟨TB_LG_START, 0, 64⟩
abbrev DIRUM_ID : Nat := 0x2100
abbrev DIRUM_ID.DEVID : Fld := ⟨DIRUM_ID, 0, 12⟩
abbrev DIRUM_CTRL : Nat := 0x2104
abbrev DIRUM_CTRL.STAMP_EN : Fld := ⟨DIRUM_CTRL, 0, 1⟩
abbrev DIRUM_CTRL.EPOCH_ARM : Fld := ⟨DIRUM_CTRL, 1, 1⟩
abbrev DIRUM_CTRL.ARM_CANCEL : Fld := ⟨DIRUM_CTRL, 2, 1⟩
abbrev DIRUM_CTRL.HB_RESTART : Fld := ⟨DIRUM_CTRL, 3, 1⟩
abbrev DIRUM_CTRL.AVG_LOG2 : Fld := ⟨DIRUM_CTRL, 4, 3⟩
abbrev DIRUM_STAT : Nat := 0x2108
abbrev DIRUM_STAT.ARMED : Fld := ⟨DIRUM_STAT, 0, 1⟩
abbrev DIRUM_STAT.EPOCH_TAKEN : Fld := ⟨DIRUM_STAT, 1, 1⟩
abbrev DIRUM_STAT.EPOCH_REFUSED : Fld := ⟨DIRUM_STAT, 2, 1⟩
abbrev DIRUM_STAT.STAMP_VALID : Fld := ⟨DIRUM_STAT, 3, 1⟩
abbrev DIRUM_STAT.STAMP_OVR : Fld := ⟨DIRUM_STAT, 4, 1⟩
abbrev DIRUM_STAT.BAD_PULSE : Fld := ⟨DIRUM_STAT, 5, 1⟩
abbrev DIRUM_EPOCH_LOAD : Nat := 0x2110
abbrev DIRUM_EPOCH_LOAD.LOAD : Fld := ⟨DIRUM_EPOCH_LOAD, 2, 62⟩
abbrev DIRUM_SYNC_STAMP : Nat := 0x2118
abbrev DIRUM_SYNC_STAMP.STAMP : Fld := ⟨DIRUM_SYNC_STAMP, 0, 64⟩
abbrev DIRUM_MON_STAMP : Nat := 0x2120
abbrev DIRUM_MON_STAMP.TIME : Fld := ⟨DIRUM_MON_STAMP, 0, 64⟩
abbrev DIRUM_HB_PHASE : Nat := 0x2128
abbrev DIRUM_HB_PHASE.MEAN : Fld := ⟨DIRUM_HB_PHASE, 0, 16⟩
abbrev DIRUM_HB_PHASE.N : Fld := ⟨DIRUM_HB_PHASE, 16, 8⟩
abbrev DIRUM_HB_PHASE.VALID : Fld := ⟨DIRUM_HB_PHASE, 31, 1⟩
abbrev DIRUM_HB_SPREAD : Nat := 0x212C
abbrev DIRUM_HB_SPREAD.SPREAD : Fld := ⟨DIRUM_HB_SPREAD, 0, 16⟩
abbrev DIRUM_PULSE_CNT : Nat := 0x2130
abbrev DIRUM_PULSE_CNT.EPOCH : Fld := ⟨DIRUM_PULSE_CNT, 0, 16⟩
abbrev DIRUM_PULSE_CNT.BAD : Fld := ⟨DIRUM_PULSE_CNT, 16, 16⟩
abbrev LANE_CFG (L : Nat) : Nat := lanePg L + 0x100
abbrev LANE_CFG.DRV_INV (L : Nat) : Fld := ⟨(LANE_CFG L), 0, 1⟩
abbrev LANE_CFG.DEN_INV (L : Nat) : Fld := ⟨(LANE_CFG L), 1, 1⟩
abbrev LANE_CFG.CMP_INV (L : Nat) : Fld := ⟨(LANE_CFG L), 2, 1⟩
abbrev LANE_DESKEW_DRV (L : Nat) : Nat := lanePg L + 0x104
abbrev LANE_DESKEW_DRV.DESKEW (L : Nat) : Fld := ⟨(LANE_DESKEW_DRV L), 0, 20⟩
abbrev LANE_DESKEW_DEN (L : Nat) : Nat := lanePg L + 0x108
abbrev LANE_DESKEW_DEN.DESKEW (L : Nat) : Fld := ⟨(LANE_DESKEW_DEN L), 0, 20⟩
abbrev LANE_DESKEW_STB (L : Nat) : Nat := lanePg L + 0x10C
abbrev LANE_DESKEW_STB.DESKEW (L : Nat) : Fld := ⟨(LANE_DESKEW_STB L), 0, 20⟩
abbrev LANE_SERVED (L : Nat) : Nat := lanePg L + 0x110
abbrev LANE_SERVED.PHYS (L : Nat) : Fld := ⟨(LANE_SERVED L), 0, 7⟩
abbrev LANE_SERVED.VALID (L : Nat) : Fld := ⟨(LANE_SERVED L), 7, 1⟩
abbrev LANE_SERVED.SPINE (L : Nat) : Fld := ⟨(LANE_SERVED L), 8, 1⟩
abbrev LANE_SERVED.TRACK (L : Nat) : Fld := ⟨(LANE_SERVED L), 9, 2⟩
abbrev LANE_STAT (L : Nat) : Nat := lanePg L + 0x114
abbrev LANE_STAT.RATE_VIOL (L : Nat) : Fld := ⟨(LANE_STAT L), 0, 1⟩
abbrev LANE_STAT.PW_VIOL (L : Nat) : Fld := ⟨(LANE_STAT L), 1, 1⟩
abbrev LANE_STAT.STB_ORDER (L : Nat) : Fld := ⟨(LANE_STAT L), 2, 1⟩
abbrev LANE_STAT.STB_MISSED (L : Nat) : Fld := ⟨(LANE_STAT L), 3, 1⟩
abbrev LANE_STAT.SW_LATE (L : Nat) : Fld := ⟨(LANE_STAT L), 4, 1⟩
abbrev LANE_STAT.FMT_ERR (L : Nat) : Fld := ⟨(LANE_STAT L), 5, 1⟩
abbrev LANE_STAT.HOLD (L : Nat) : Fld := ⟨(LANE_STAT L), 6, 1⟩
abbrev LANE_STAT.HOLD_CAUSE (L : Nat) : Fld := ⟨(LANE_STAT L), 7, 3⟩
abbrev LANE_STAT.STALE (L : Nat) : Fld := ⟨(LANE_STAT L), 10, 1⟩
abbrev LANE_STAT.DRV_LEVEL (L : Nat) : Fld := ⟨(LANE_STAT L), 11, 1⟩
abbrev LANE_STAT.DEN_LEVEL (L : Nat) : Fld := ⟨(LANE_STAT L), 12, 1⟩
abbrev LANE_STAT.CMP_LEVEL (L : Nat) : Fld := ⟨(LANE_STAT L), 13, 1⟩
abbrev LANE_STAT.HOLD_SET (L : Nat) : Fld := ⟨(LANE_STAT L), 14, 5⟩
abbrev LANE_CNT (L : Nat) : Nat := lanePg L + 0x118
abbrev LANE_CNT.STRETCH (L : Nat) : Fld := ⟨(LANE_CNT L), 0, 16⟩
abbrev LANE_CNT.RATE_DROP (L : Nat) : Fld := ⟨(LANE_CNT L), 16, 16⟩
abbrev LANE_CNT2 (L : Nat) : Nat := lanePg L + 0x11C
abbrev LANE_CNT2.MERGE (L : Nat) : Fld := ⟨(LANE_CNT2 L), 0, 16⟩
abbrev LANE_CNT2.CMP_COALESCE (L : Nat) : Fld := ⟨(LANE_CNT2 L), 16, 16⟩
abbrev LANE_EVT_CFG (L : Nat) : Nat := lanePg L + 0x120
abbrev LANE_EVT_CFG.CMP_SEL (L : Nat) : Fld := ⟨(LANE_EVT_CFG L), 0, 2⟩
abbrev LANE_EVT_CFG.STB_SEL (L : Nat) : Fld := ⟨(LANE_EVT_CFG L), 2, 2⟩
abbrev LANE_STB_RESULT (L : Nat) : Nat := lanePg L + 0x124
abbrev LANE_STB_RESULT.RESULT (L : Nat) : Fld := ⟨(LANE_STB_RESULT L), 0, 4⟩
abbrev LANE_STB_RESULT.GATED0 (L : Nat) : Fld := ⟨(LANE_STB_RESULT L), 4, 1⟩
abbrev LANE_STB_RESULT.GATED1 (L : Nat) : Fld := ⟨(LANE_STB_RESULT L), 5, 1⟩
abbrev LANE_SW_DELAY (L : Nat) : Nat := lanePg L + 0x128
abbrev LANE_SW_DELAY.DELAY (L : Nat) : Fld := ⟨(LANE_SW_DELAY L), 0, 64⟩
abbrev LANE_SW_CTRL (L : Nat) : Nat := lanePg L + 0x130
abbrev LANE_SW_CTRL.EG_MASK (L : Nat) : Fld := ⟨(LANE_SW_CTRL L), 0, 6⟩
abbrev LANE_SW_CTRL.ACTION (L : Nat) : Fld := ⟨(LANE_SW_CTRL L), 8, 1⟩
abbrev LANE_SW_CTRL.GO (L : Nat) : Fld := ⟨(LANE_SW_CTRL L), 16, 1⟩
abbrev LANE_SW_WIDTH (L : Nat) : Nat := lanePg L + 0x134
abbrev LANE_SW_WIDTH.WIDTH (L : Nat) : Fld := ⟨(LANE_SW_WIDTH L), 0, 24⟩
abbrev LANE_GATE (L : Nat) : Nat := lanePg L + 0x138
abbrev LANE_GATE.ARMED (L : Nat) : Fld := ⟨(LANE_GATE L), 0, 6⟩
abbrev LANE_TRIG_CFG (L i : Nat) : Nat := lanePg L + 0x140 + 32 * i
abbrev LANE_TRIG_CFG.ENABLE (L i : Nat) : Fld := ⟨(LANE_TRIG_CFG L i), 0, 1⟩
abbrev LANE_TRIG_CFG.ONESHOT (L i : Nat) : Fld := ⟨(LANE_TRIG_CFG L i), 1, 1⟩
abbrev LANE_TRIG_CFG.ACTION (L i : Nat) : Fld := ⟨(LANE_TRIG_CFG L i), 2, 2⟩
abbrev LANE_TRIG_CFG.EG_MASK (L i : Nat) : Fld := ⟨(LANE_TRIG_CFG L i), 4, 6⟩
abbrev LANE_TRIG_DELAY (L i : Nat) : Nat := lanePg L + 0x144 + 32 * i
abbrev LANE_TRIG_DELAY.DELAY (L i : Nat) : Fld := ⟨(LANE_TRIG_DELAY L i), 0, 64⟩
abbrev LANE_TRIG_WIDTH (L i : Nat) : Nat := lanePg L + 0x14C + 32 * i
abbrev LANE_TRIG_WIDTH.WIDTH (L i : Nat) : Fld := ⟨(LANE_TRIG_WIDTH L i), 0, 24⟩
abbrev LANE_TRIG_REFRACT (L i : Nat) : Nat := lanePg L + 0x150 + 32 * i
abbrev LANE_TRIG_REFRACT.REFRACT (L i : Nat) : Fld := ⟨(LANE_TRIG_REFRACT L i), 0, 24⟩
abbrev LANE_TRIG_STAT (L i : Nat) : Nat := lanePg L + 0x154 + 32 * i
abbrev LANE_TRIG_STAT.BUSY (L i : Nat) : Fld := ⟨(LANE_TRIG_STAT L i), 0, 1⟩
abbrev LANE_TRIG_STAT.LATE (L i : Nat) : Fld := ⟨(LANE_TRIG_STAT L i), 1, 1⟩
abbrev LANE_TRIG_STAT.OVERRUN (L i : Nat) : Fld := ⟨(LANE_TRIG_STAT L i), 2, 1⟩
abbrev LANE_TRIG_STAT.MERGE (L i : Nat) : Fld := ⟨(LANE_TRIG_STAT L i), 8, 8⟩
abbrev LANE_TRIG_STAT.ACCEPTED (L i : Nat) : Fld := ⟨(LANE_TRIG_STAT L i), 16, 16⟩
abbrev CH_PHYS_STAT (k p : Nat) : Nat := chPg k p + 0x200
abbrev CH_PHYS_STAT.ROLE (k p : Nat) : Fld := ⟨(CH_PHYS_STAT k p), 0, 2⟩
abbrev CH_PHYS_STAT.LANE (k p : Nat) : Fld := ⟨(CH_PHYS_STAT k p), 2, 6⟩
abbrev CH_PHYS_STAT.TRACK (k p : Nat) : Fld := ⟨(CH_PHYS_STAT k p), 8, 2⟩
abbrev CH_PHYS_STAT.UNUSABLE (k p : Nat) : Fld := ⟨(CH_PHYS_STAT k p), 10, 1⟩
abbrev CH_PHYS_STAT.CAL_ACTIVE (k p : Nat) : Fld := ⟨(CH_PHYS_STAT k p), 11, 1⟩
abbrev CH_PHYS_STAT.BIST_ACTIVE (k p : Nat) : Fld := ⟨(CH_PHYS_STAT k p), 12, 1⟩
abbrev CH_PHYS_STAT.EG_BAD (k p : Nat) : Fld := ⟨(CH_PHYS_STAT k p), 13, 6⟩
abbrev CH_PHYS_STAT.CAL_SRC (k p : Nat) : Fld := ⟨(CH_PHYS_STAT k p), 19, 2⟩
abbrev CH_PHYS_STAT.TEMP_CLAMP (k p : Nat) : Fld := ⟨(CH_PHYS_STAT k p), 21, 1⟩
abbrev CH_PHYS_STAT.LOOPBACK (k p : Nat) : Fld := ⟨(CH_PHYS_STAT k p), 22, 1⟩
abbrev CH_PATH_DRV (k p : Nat) : Nat := chPg k p + 0x204
abbrev CH_PATH_DRV.PATH (k p : Nat) : Fld := ⟨(CH_PATH_DRV k p), 0, 13⟩
abbrev CH_PATH_DEN (k p : Nat) : Nat := chPg k p + 0x208
abbrev CH_PATH_DEN.PATH (k p : Nat) : Fld := ⟨(CH_PATH_DEN k p), 0, 13⟩
abbrev CH_PATH_CMP (k p : Nat) : Nat := chPg k p + 0x20C
abbrev CH_PATH_CMP.PATH (k p : Nat) : Fld := ⟨(CH_PATH_CMP k p), 0, 13⟩
abbrev CH_TBL_SEL (ss k p : Nat) : Nat := sessKey ss + (chPg k p + 0x210)
abbrev CH_TBL_SEL.TABLE (ss k p : Nat) : Fld := ⟨(CH_TBL_SEL ss k p), 0, 1⟩
abbrev CH_TBL_SEL.EG (ss k p : Nat) : Fld := ⟨(CH_TBL_SEL ss k p), 1, 3⟩
abbrev CH_TBL_SEL.INDEX (ss k p : Nat) : Fld := ⟨(CH_TBL_SEL ss k p), 8, 8⟩
abbrev CH_TBL_SEL.AUTOINC (ss k p : Nat) : Fld := ⟨(CH_TBL_SEL ss k p), 16, 1⟩
abbrev CH_TBL_DATA0 (k p : Nat) : Nat := chPg k p + 0x214
abbrev CH_TBL_DATA0.DATA (k p : Nat) : Fld := ⟨(CH_TBL_DATA0 k p), 0, 32⟩
abbrev CH_TBL_DATA1 (k p : Nat) : Nat := chPg k p + 0x218
abbrev CH_TBL_DATA1.MASK_HI (k p : Nat) : Fld := ⟨(CH_TBL_DATA1 k p), 0, 8⟩
abbrev CH_TBL_DATA1.ACHIEVED (k p : Nat) : Fld := ⟨(CH_TBL_DATA1 k p), 8, 16⟩
abbrev CH_CAL_INFO (k p : Nat) : Nat := chPg k p + 0x220
abbrev CH_CAL_INFO.TEMP (k p : Nat) : Fld := ⟨(CH_CAL_INFO k p), 0, 16⟩
abbrev CH_CAL_INFO.CAL_AGE (k p : Nat) : Fld := ⟨(CH_CAL_INFO k p), 16, 16⟩
abbrev CH_EDGE_CNT (k p i : Nat) : Nat := chPg k p + 0x240 + 4 * i
abbrev CH_EDGE_CNT.COUNT (k p i : Nat) : Fld := ⟨(CH_EDGE_CNT k p i), 0, 32⟩
abbrev PROG_CTX_SEL (L : Nat) : Nat := lanePg L + 0x1C0
abbrev PROG_CTX_SEL.INDEX (L : Nat) : Fld := ⟨(PROG_CTX_SEL L), 0, 8⟩
abbrev PROG_CTX_SEL.AUTOINC (L : Nat) : Fld := ⟨(PROG_CTX_SEL L), 8, 1⟩
abbrev PROG_CTX_DATA0 (L : Nat) : Nat := lanePg L + 0x1C4
abbrev PROG_CTX_DATA0.DATA (L : Nat) : Fld := ⟨(PROG_CTX_DATA0 L), 0, 32⟩
abbrev PROG_CTX_DATA1 (L : Nat) : Nat := lanePg L + 0x1C8
abbrev PROG_CTX_DATA1.DATA (L : Nat) : Fld := ⟨(PROG_CTX_DATA1 L), 0, 32⟩
abbrev PROG_CTX_DATA2 (L : Nat) : Nat := lanePg L + 0x1CC
abbrev PROG_CTX_DATA2.DATA (L : Nat) : Fld := ⟨(PROG_CTX_DATA2 L), 0, 32⟩
abbrev PROG_CTX_DATA3 (L : Nat) : Nat := lanePg L + 0x1D0
abbrev PROG_CTX_DATA3.DATA (L : Nat) : Fld := ⟨(PROG_CTX_DATA3 L), 0, 32⟩
abbrev PROG_CTRL (L : Nat) : Nat := lanePg L + 0x1D4
abbrev PROG_CTRL.PRIME (L : Nat) : Fld := ⟨(PROG_CTRL L), 0, 1⟩
abbrev PROG_CTRL.GO (L : Nat) : Fld := ⟨(PROG_CTRL L), 1, 1⟩
abbrev PROG_CTRL.STOP (L : Nat) : Fld := ⟨(PROG_CTRL L), 2, 1⟩
abbrev PROG_CTRL.START_MODE (L : Nat) : Fld := ⟨(PROG_CTRL L), 3, 2⟩
abbrev PROG_CTRL.LG_HOLD (L : Nat) : Fld := ⟨(PROG_CTRL L), 5, 1⟩
abbrev PROG_CTRL.CTX0 (L : Nat) : Fld := ⟨(PROG_CTRL L), 8, 8⟩
abbrev PROG_ENTRY (L : Nat) : Nat := lanePg L + 0x1D8
abbrev PROG_ENTRY.ADDR (L : Nat) : Fld := ⟨(PROG_ENTRY L), 0, 24⟩
abbrev PROG_STAT (L : Nat) : Nat := lanePg L + 0x1DC
abbrev PROG_STAT.STATE (L : Nat) : Fld := ⟨(PROG_STAT L), 0, 3⟩
abbrev PROG_STAT.UNDERRUN (L : Nat) : Fld := ⟨(PROG_STAT L), 3, 1⟩
abbrev PROG_STAT.LATE (L : Nat) : Fld := ⟨(PROG_STAT L), 4, 1⟩
abbrev PROG_STAT.TIMEOUT (L : Nat) : Fld := ⟨(PROG_STAT L), 5, 1⟩
abbrev PROG_STAT.PER_VIOL (L : Nat) : Fld := ⟨(PROG_STAT L), 6, 1⟩
abbrev PROG_STAT.UNCOMPARED (L : Nat) : Fld := ⟨(PROG_STAT L), 7, 1⟩
abbrev PROG_STAT.ERR (L : Nat) : Fld := ⟨(PROG_STAT L), 8, 4⟩
abbrev PROG_STAT.CTX (L : Nat) : Fld := ⟨(PROG_STAT L), 12, 8⟩
abbrev PROG_STAT.LOOP_DEPTH (L : Nat) : Fld := ⟨(PROG_STAT L), 20, 4⟩
abbrev PROG_STAT.CALL_DEPTH (L : Nat) : Fld := ⟨(PROG_STAT L), 24, 4⟩
abbrev PROG_STAT.CMD_ERR (L : Nat) : Fld := ⟨(PROG_STAT L), 28, 1⟩
abbrev PROG_START (L : Nat) : Nat := lanePg L + 0x1E0
abbrev PROG_START.EPOCH (L : Nat) : Fld := ⟨(PROG_START L), 0, 64⟩
abbrev PROG_PC (L : Nat) : Nat := lanePg L + 0x1E8
abbrev PROG_PC.PC (L : Nat) : Fld := ⟨(PROG_PC L), 0, 24⟩
abbrev PROG_FAIL_CNT (L : Nat) : Nat := lanePg L + 0x1EC
abbrev PROG_FAIL_CNT.COUNT (L : Nat) : Fld := ⟨(PROG_FAIL_CNT L), 0, 32⟩
abbrev PROG_FIRST_FAIL (L : Nat) : Nat := lanePg L + 0x1F0
abbrev PROG_FIRST_FAIL.TIME (L : Nat) : Fld := ⟨(PROG_FIRST_FAIL L), 0, 64⟩
abbrev PROG_RING (L : Nat) : Nat := lanePg L + 0x1F8
abbrev PROG_RING.RING (L : Nat) : Fld := ⟨(PROG_RING L), 0, 20⟩
abbrev PROG_CNT (L : Nat) : Nat := lanePg L + 0x1FC
abbrev PROG_CNT.LATE (L : Nat) : Fld := ⟨(PROG_CNT L), 0, 16⟩
abbrev PROG_CNT.TIMEOUT (L : Nat) : Fld := ⟨(PROG_CNT L), 16, 16⟩
abbrev SEQ_CTRL (k : Nat) : Nat := clu k + 0x1000 + 0x100
abbrev SEQ_CTRL.SVC_THRESH (k : Nat) : Fld := ⟨(SEQ_CTRL k), 0, 10⟩
abbrev SEQ_CTRL.MCHK_CLR (k : Nat) : Fld := ⟨(SEQ_CTRL k), 10, 1⟩
abbrev SEQ_STAT (k : Nat) : Nat := clu k + 0x1000 + 0x104
abbrev SEQ_STAT.IMAGE_VALID (k : Nat) : Fld := ⟨(SEQ_STAT k), 0, 1⟩
abbrev SEQ_STAT.LOADING (k : Nat) : Fld := ⟨(SEQ_STAT k), 1, 1⟩
abbrev SEQ_STAT.ACTIVE (k : Nat) : Fld := ⟨(SEQ_STAT k), 2, 3⟩
abbrev SEQ_STAT.ADDR_ERR (k : Nat) : Fld := ⟨(SEQ_STAT k), 5, 1⟩
abbrev SEQ_STAT.POISON (k : Nat) : Fld := ⟨(SEQ_STAT k), 6, 1⟩
abbrev SEQ_IMG_ID (k : Nat) : Nat := clu k + 0x1000 + 0x108
abbrev SEQ_IMG_ID.ID (k : Nat) : Fld := ⟨(SEQ_IMG_ID k), 0, 32⟩
abbrev SEQ_IMG_CRC (k : Nat) : Nat := clu k + 0x1000 + 0x10C
abbrev SEQ_IMG_CRC.CRC (k : Nat) : Fld := ⟨(SEQ_IMG_CRC k), 0, 32⟩
abbrev SEQ_LOAD_SRC (k : Nat) : Nat := clu k + 0x1000 + 0x110
abbrev SEQ_LOAD_SRC.OFFSET (k : Nat) : Fld := ⟨(SEQ_LOAD_SRC k), 6, 58⟩
abbrev SEQ_LOAD_LEN (k : Nat) : Nat := clu k + 0x1000 + 0x118
abbrev SEQ_LOAD_LEN.BYTES (k : Nat) : Fld := ⟨(SEQ_LOAD_LEN k), 0, 15⟩
abbrev SEQ_LOAD_CTRL (k : Nat) : Nat := clu k + 0x1000 + 0x11C
abbrev SEQ_LOAD_CTRL.LOAD (k : Nat) : Fld := ⟨(SEQ_LOAD_CTRL k), 0, 1⟩
abbrev SEQ_LOAD_CTRL.FORCE (k : Nat) : Fld := ⟨(SEQ_LOAD_CTRL k), 1, 1⟩
abbrev SEQ_LOAD_CTRL.ABORT (k : Nat) : Fld := ⟨(SEQ_LOAD_CTRL k), 2, 1⟩
abbrev SEQ_LOAD_CTRL.SRC (k : Nat) : Fld := ⟨(SEQ_LOAD_CTRL k), 3, 1⟩
abbrev SEQ_LOAD_CTRL.SLOT (k : Nat) : Fld := ⟨(SEQ_LOAD_CTRL k), 4, 4⟩
abbrev SEQ_LOAD_STAT (k : Nat) : Nat := clu k + 0x1000 + 0x120
abbrev SEQ_LOAD_STAT.STATE (k : Nat) : Fld := ⟨(SEQ_LOAD_STAT k), 0, 3⟩
abbrev SEQ_LOAD_STAT.DONE (k : Nat) : Fld := ⟨(SEQ_LOAD_STAT k), 3, 1⟩
abbrev SEQ_LOAD_STAT.ERR (k : Nat) : Fld := ⟨(SEQ_LOAD_STAT k), 4, 4⟩
abbrev SEQ_LOAD_STAT.WORD (k : Nat) : Fld := ⟨(SEQ_LOAD_STAT k), 8, 11⟩
abbrev SEQ_MCHK_INFO (k : Nat) : Nat := clu k + 0x1000 + 0x124
abbrev SEQ_MCHK_INFO.UPC (k : Nat) : Fld := ⟨(SEQ_MCHK_INFO k), 0, 11⟩
abbrev SEQ_MCHK_INFO.THREAD (k : Nat) : Fld := ⟨(SEQ_MCHK_INFO k), 11, 7⟩
abbrev SEQ_MCHK_INFO.CAUSE (k : Nat) : Fld := ⟨(SEQ_MCHK_INFO k), 18, 2⟩
abbrev SEQ_MCHK_INFO.CODE (k : Nat) : Fld := ⟨(SEQ_MCHK_INFO k), 20, 8⟩
abbrev SEQ_MCHK_INFO.VALID (k : Nat) : Fld := ⟨(SEQ_MCHK_INFO k), 31, 1⟩
abbrev SEQ_MCHK_WORD (k : Nat) : Nat := clu k + 0x1000 + 0x128
abbrev SEQ_MCHK_WORD.WORD (k : Nat) : Fld := ⟨(SEQ_MCHK_WORD k), 0, 40⟩
abbrev SEQ_SVC_CNT (k : Nat) : Nat := clu k + 0x1000 + 0x130
abbrev SEQ_SVC_CNT.WINDOW (k : Nat) : Fld := ⟨(SEQ_SVC_CNT k), 0, 13⟩
abbrev SEQ_SVC_CNT.RESTARTS (k : Nat) : Fld := ⟨(SEQ_SVC_CNT k), 16, 16⟩
abbrev SEQ_LAT_MAX (k : Nat) : Nat := clu k + 0x1000 + 0x134
abbrev SEQ_LAT_MAX.CYCLES (k : Nat) : Fld := ⟨(SEQ_LAT_MAX k), 0, 10⟩
abbrev SEQ_REQ (k : Nat) : Nat := clu k + 0x1000 + 0x138
abbrev SEQ_REQ.PEND2 (k : Nat) : Fld := ⟨(SEQ_REQ k), 0, 8⟩
abbrev SEQ_REQ.PEND1 (k : Nat) : Fld := ⟨(SEQ_REQ k), 8, 1⟩
abbrev SEQ_REQ.PEND0 (k : Nat) : Fld := ⟨(SEQ_REQ k), 9, 1⟩
abbrev TMU_POOL_CFG (k : Nat) : Nat := clu k + 0x6000 + 0x100
abbrev TMU_POOL_CFG.CAL_AGE_MAX (k : Nat) : Fld := ⟨(TMU_POOL_CFG k), 0, 16⟩
abbrev TMU_POOL_CFG.CREDIT_WAIT (k : Nat) : Fld := ⟨(TMU_POOL_CFG k), 16, 8⟩
abbrev TMU_POOL_STAT (k : Nat) : Nat := clu k + 0x6000 + 0x104
abbrev TMU_POOL_STAT.IN_SERVICE (k : Nat) : Fld := ⟨(TMU_POOL_STAT k), 0, 6⟩
abbrev TMU_POOL_STAT.BUSY (k : Nat) : Fld := ⟨(TMU_POOL_STAT k), 6, 6⟩
abbrev TMU_POOL_STAT.SPARES (k : Nat) : Fld := ⟨(TMU_POOL_STAT k), 12, 2⟩
abbrev TMU_POOL_STAT.RING_ERR (k : Nat) : Fld := ⟨(TMU_POOL_STAT k), 14, 1⟩
abbrev TMU_POOL_TMO (k : Nat) : Nat := clu k + 0x6000 + 0x108
abbrev TMU_POOL_TMO.T0 (k : Nat) : Fld := ⟨(TMU_POOL_TMO k), 0, 40⟩
abbrev TMU_INJ_CTRL (ss k : Nat) : Nat := sessKey ss + (clu k + 0x6000 + 0x110)
abbrev TMU_INJ_CTRL.FLAGS (ss k : Nat) : Fld := ⟨(TMU_INJ_CTRL ss k), 0, 11⟩
abbrev TMU_INJ_CTRL.LCH (ss k : Nat) : Fld := ⟨(TMU_INJ_CTRL ss k), 11, 10⟩
abbrev TMU_INJ_CTRL.CTX (ss k : Nat) : Fld := ⟨(TMU_INJ_CTRL ss k), 21, 8⟩
abbrev TMU_INJ_CTRL.GO (ss k : Nat) : Fld := ⟨(TMU_INJ_CTRL ss k), 31, 1⟩
abbrev TMU_INJ_RING (ss k : Nat) : Nat := sessKey ss + (clu k + 0x6000 + 0x114)
abbrev TMU_INJ_RING.RING (ss k : Nat) : Fld := ⟨(TMU_INJ_RING ss k), 0, 20⟩
abbrev TMU_INJ_TCODE (ss k : Nat) : Nat := sessKey ss + (clu k + 0x6000 + 0x118)
abbrev TMU_INJ_TCODE.INTERVAL (ss k : Nat) : Fld := ⟨(TMU_INJ_TCODE ss k), 0, 52⟩
abbrev TMU_POOL_DROP (k : Nat) : Nat := clu k + 0x6000 + 0x120
abbrev TMU_POOL_DROP.COUNT (k : Nat) : Fld := ⟨(TMU_POOL_DROP k), 0, 32⟩
abbrev TMU_POOL_MAP (k i : Nat) : Nat := clu k + 0x6000 + 0x140 + 4 * i
abbrev TMU_POOL_MAP.TMU (k i : Nat) : Fld := ⟨(TMU_POOL_MAP k i), 0, 6⟩
abbrev TMU_POOL_MAP.VALID (k i : Nat) : Fld := ⟨(TMU_POOL_MAP k i), 6, 1⟩
abbrev TMU_SLOT_CFG (k i : Nat) : Nat := clu k + 0x6000 + 0x200 + 64 * i
abbrev TMU_SLOT_CFG.ENABLE (k i : Nat) : Fld := ⟨(TMU_SLOT_CFG k i), 0, 1⟩
abbrev TMU_SLOT_CFG.START_SEL (k i : Nat) : Fld := ⟨(TMU_SLOT_CFG k i), 1, 3⟩
abbrev TMU_SLOT_CFG.STOP_SEL (k i : Nat) : Fld := ⟨(TMU_SLOT_CFG k i), 4, 3⟩
abbrev TMU_SLOT_CFG.STOP_N (k i : Nat) : Fld := ⟨(TMU_SLOT_CFG k i), 8, 8⟩
abbrev TMU_SLOT_CFG.START_LANE (k i : Nat) : Fld := ⟨(TMU_SLOT_CFG k i), 16, 6⟩
abbrev TMU_SLOT_CFG.STOP_LANE (k i : Nat) : Fld := ⟨(TMU_SLOT_CFG k i), 22, 6⟩
abbrev TMU_SLOT_TAG (k i : Nat) : Nat := clu k + 0x6000 + 0x204 + 64 * i
abbrev TMU_SLOT_TAG.TAG (k i : Nat) : Fld := ⟨(TMU_SLOT_TAG k i), 0, 8⟩
abbrev TMU_SLOT_RING (k i : Nat) : Nat := clu k + 0x6000 + 0x208 + 64 * i
abbrev TMU_SLOT_RING.RING (k i : Nat) : Fld := ⟨(TMU_SLOT_RING k i), 0, 20⟩
abbrev TMU_SLOT_OFS (k i : Nat) : Nat := clu k + 0x6000 + 0x20C + 64 * i
abbrev TMU_SLOT_OFS.OFS (k i : Nat) : Fld := ⟨(TMU_SLOT_OFS k i), 0, 64⟩
abbrev TMU_SLOT_TMO (k i : Nat) : Nat := clu k + 0x6000 + 0x214 + 64 * i
abbrev TMU_SLOT_TMO.T0 (k i : Nat) : Fld := ⟨(TMU_SLOT_TMO k i), 0, 40⟩
abbrev TMU_SLOT_STAT (k i : Nat) : Nat := clu k + 0x6000 + 0x21C + 64 * i
abbrev TMU_SLOT_STAT.STATE (k i : Nat) : Fld := ⟨(TMU_SLOT_STAT k i), 0, 3⟩
abbrev TMU_SLOT_STAT.OVERRUN (k i : Nat) : Fld := ⟨(TMU_SLOT_STAT k i), 3, 1⟩
abbrev TMU_SLOT_STAT.LATE (k i : Nat) : Fld := ⟨(TMU_SLOT_STAT k i), 4, 1⟩
abbrev TMU_SLOT_STAT.PERM (k i : Nat) : Fld := ⟨(TMU_SLOT_STAT k i), 5, 1⟩
abbrev TMU_SLOT_STAT.STRAY (k i : Nat) : Fld := ⟨(TMU_SLOT_STAT k i), 8, 8⟩
abbrev TMU_SLOT_STAT.DONE (k i : Nat) : Fld := ⟨(TMU_SLOT_STAT k i), 16, 16⟩
abbrev TMU_STAT (k t : Nat) : Nat := tmuPg k t + 0x100
abbrev TMU_STAT.ROLE (k t : Nat) : Fld := ⟨(TMU_STAT k t), 0, 2⟩
abbrev TMU_STAT.POSITION (k t : Nat) : Fld := ⟨(TMU_STAT k t), 2, 5⟩
abbrev TMU_STAT.STATE (k t : Nat) : Fld := ⟨(TMU_STAT k t), 7, 3⟩
abbrev TMU_STAT.LOCKED (k t : Nat) : Fld := ⟨(TMU_STAT k t), 10, 1⟩
abbrev TMU_STAT.RECENT_FAULTS (k t : Nat) : Fld := ⟨(TMU_STAT k t), 11, 4⟩
abbrev TMU_REF (k t i : Nat) : Nat := tmuPg k t + 0x104 + 4 * i
abbrev TMU_REF.REF1 (k t i : Nat) : Fld := ⟨(TMU_REF k t i), 0, 12⟩
abbrev TMU_REF.REF2 (k t i : Nat) : Fld := ⟨(TMU_REF k t i), 12, 12⟩
abbrev TMU_IDAC (k t i : Nat) : Nat := tmuPg k t + 0x10C + 4 * i
abbrev TMU_IDAC.IDAC (k t i : Nat) : Fld := ⟨(TMU_IDAC k t i), 0, 10⟩
abbrev TMU_CD_SEL (ss k t : Nat) : Nat := sessKey ss + (tmuPg k t + 0x120)
abbrev TMU_CD_SEL.INTERP (ss k t : Nat) : Fld := ⟨(TMU_CD_SEL ss k t), 0, 1⟩
abbrev TMU_CD_SEL.AUTOINC (ss k t : Nat) : Fld := ⟨(TMU_CD_SEL ss k t), 1, 1⟩
abbrev TMU_CD_SEL.INDEX (ss k t : Nat) : Fld := ⟨(TMU_CD_SEL ss k t), 2, 12⟩
abbrev TMU_CD_DATA (k t : Nat) : Nat := tmuPg k t + 0x124
abbrev TMU_CD_DATA.CD (k t : Nat) : Fld := ⟨(TMU_CD_DATA k t), 0, 18⟩
abbrev TMU_CD_INFO (k t i : Nat) : Nat := tmuPg k t + 0x128 + 4 * i
abbrev TMU_CD_INFO.TEMP (k t i : Nat) : Fld := ⟨(TMU_CD_INFO k t i), 0, 16⟩
abbrev TMU_CD_INFO.CAL_AGE (k t i : Nat) : Fld := ⟨(TMU_CD_INFO k t i), 16, 16⟩
abbrev TMU_PATH_SEL (ss k t : Nat) : Nat := sessKey ss + (tmuPg k t + 0x130)
abbrev TMU_PATH_SEL.PHYS (ss k t : Nat) : Fld := ⟨(TMU_PATH_SEL ss k t), 0, 7⟩
abbrev TMU_PATH_SEL.SIDE (ss k t : Nat) : Fld := ⟨(TMU_PATH_SEL ss k t), 7, 1⟩
abbrev TMU_PATH_DATA (k t : Nat) : Nat := tmuPg k t + 0x134
abbrev TMU_PATH_DATA.PATH (k t : Nat) : Fld := ⟨(TMU_PATH_DATA k t), 0, 13⟩
abbrev TMU_CNT (k t : Nat) : Nat := tmuPg k t + 0x140
abbrev TMU_CNT.COUNT (k t : Nat) : Fld := ⟨(TMU_CNT k t), 0, 32⟩
abbrev TMU_RAMP_CNT (k t : Nat) : Nat := tmuPg k t + 0x144
abbrev TMU_RAMP_CNT.FAULTS (k t : Nat) : Fld := ⟨(TMU_RAMP_CNT k t), 0, 16⟩
abbrev FREQ_CFG (k : Nat) : Nat := clu k + 0x7000 + 0x100
abbrev FREQ_CFG.SRC (k : Nat) : Fld := ⟨(FREQ_CFG k), 0, 1⟩
abbrev FREQ_CFG.LANE (k : Nat) : Fld := ⟨(FREQ_CFG k), 1, 6⟩
abbrev FREQ_CFG.FIN (k : Nat) : Fld := ⟨(FREQ_CFG k), 7, 2⟩
abbrev FREQ_CFG.EDGE (k : Nat) : Fld := ⟨(FREQ_CFG k), 9, 2⟩
abbrev FREQ_CFG.PRESC (k : Nat) : Fld := ⟨(FREQ_CFG k), 11, 3⟩
abbrev FREQ_CFG.START_MODE (k : Nat) : Fld := ⟨(FREQ_CFG k), 14, 2⟩
abbrev FREQ_CFG.SLOT (k : Nat) : Fld := ⟨(FREQ_CFG k), 16, 5⟩
abbrev FREQ_CFG.CONT (k : Nat) : Fld := ⟨(FREQ_CFG k), 21, 1⟩
abbrev FREQ_CFG.MAX_TMU (k : Nat) : Fld := ⟨(FREQ_CFG k), 22, 6⟩
abbrev FREQ_GATE (k : Nat) : Nat := clu k + 0x7000 + 0x104
abbrev FREQ_GATE.T0 (k : Nat) : Fld := ⟨(FREQ_GATE k), 0, 40⟩
abbrev FREQ_STAMPS (k : Nat) : Nat := clu k + 0x7000 + 0x10C
abbrev FREQ_STAMPS.N (k : Nat) : Fld := ⟨(FREQ_STAMPS k), 0, 17⟩
abbrev FREQ_START (k : Nat) : Nat := clu k + 0x7000 + 0x110
abbrev FREQ_START.EPOCH (k : Nat) : Fld := ⟨(FREQ_START k), 0, 64⟩
abbrev FREQ_OFS (k : Nat) : Nat := clu k + 0x7000 + 0x118
abbrev FREQ_OFS.OFS (k : Nat) : Fld := ⟨(FREQ_OFS k), 0, 64⟩
abbrev FREQ_CTRL (k : Nat) : Nat := clu k + 0x7000 + 0x120
abbrev FREQ_CTRL.GO (k : Nat) : Fld := ⟨(FREQ_CTRL k), 0, 1⟩
abbrev FREQ_CTRL.STOP (k : Nat) : Fld := ⟨(FREQ_CTRL k), 1, 1⟩
abbrev FREQ_CTRL.ABORT (k : Nat) : Fld := ⟨(FREQ_CTRL k), 2, 1⟩
abbrev FREQ_STAT (k : Nat) : Nat := clu k + 0x7000 + 0x124
abbrev FREQ_STAT.STATE (k : Nat) : Fld := ⟨(FREQ_STAT k), 0, 2⟩
abbrev FREQ_STAT.LATE (k : Nat) : Fld := ⟨(FREQ_STAT k), 2, 1⟩
abbrev FREQ_STAT.CFG_CLAMP (k : Nat) : Fld := ⟨(FREQ_STAT k), 3, 1⟩
abbrev FREQ_STAT.PRESC_LOW (k : Nat) : Fld := ⟨(FREQ_STAT k), 4, 1⟩
abbrev FREQ_STAT.OVERRUN (k : Nat) : Fld := ⟨(FREQ_STAT k), 5, 1⟩
abbrev FREQ_STAT.CMD_ERR (k : Nat) : Fld := ⟨(FREQ_STAT k), 6, 1⟩
abbrev FREQ_RES_STAT (k : Nat) : Nat := clu k + 0x7000 + 0x140
abbrev FREQ_RES_STAT.N (k : Nat) : Fld := ⟨(FREQ_RES_STAT k), 0, 17⟩
abbrev FREQ_RES_STAT.VALID (k : Nat) : Fld := ⟨(FREQ_RES_STAT k), 17, 1⟩
abbrev FREQ_RES_STAT.ERR (k : Nat) : Fld := ⟨(FREQ_RES_STAT k), 18, 3⟩
abbrev FREQ_RES_STAT.STALE (k : Nat) : Fld := ⟨(FREQ_RES_STAT k), 21, 1⟩
abbrev FREQ_RES_STAT.HOLDOVER (k : Nat) : Fld := ⟨(FREQ_RES_STAT k), 22, 1⟩
abbrev FREQ_RES_STAT.INTERNAL (k : Nat) : Fld := ⟨(FREQ_RES_STAT k), 23, 1⟩
abbrev FREQ_RES_STAT.TB_SLEW (k : Nat) : Fld := ⟨(FREQ_RES_STAT k), 24, 1⟩
abbrev FREQ_RES_STAT.TREE_SLEW (k : Nat) : Fld := ⟨(FREQ_RES_STAT k), 25, 1⟩
abbrev FREQ_RES_STAT.LATE (k : Nat) : Fld := ⟨(FREQ_RES_STAT k), 26, 1⟩
abbrev FREQ_RES_STAT.OVERWRITE (k : Nat) : Fld := ⟨(FREQ_RES_STAT k), 27, 1⟩
abbrev FREQ_RES_MISSED (k : Nat) : Nat := clu k + 0x7000 + 0x144
abbrev FREQ_RES_MISSED.COUNT (k : Nat) : Fld := ⟨(FREQ_RES_MISSED k), 0, 17⟩
abbrev FREQ_RES_DUP (k : Nat) : Nat := clu k + 0x7000 + 0x148
abbrev FREQ_RES_DUP.COUNT (k : Nat) : Fld := ⟨(FREQ_RES_DUP k), 0, 17⟩
abbrev FREQ_RES_G0 (k : Nat) : Nat := clu k + 0x7000 + 0x150
abbrev FREQ_RES_G0.TIME (k : Nat) : Fld := ⟨(FREQ_RES_G0 k), 0, 64⟩
abbrev FREQ_PERIOD (k : Nat) : Nat := clu k + 0x7000 + 0x160
abbrev FREQ_PERIOD.PERIOD (k : Nat) : Fld := ⟨(FREQ_PERIOD k), 0, 96⟩
abbrev FREQ_FREQ (k : Nat) : Nat := clu k + 0x7000 + 0x170
abbrev FREQ_FREQ.FREQ (k : Nat) : Fld := ⟨(FREQ_FREQ k), 0, 96⟩
abbrev FREQ_RESID (k : Nat) : Nat := clu k + 0x7000 + 0x17C
abbrev FREQ_RESID.RESID (k : Nat) : Fld := ⟨(FREQ_RESID k), 0, 32⟩
abbrev FREQ_UNC (k : Nat) : Nat := clu k + 0x7000 + 0x180
abbrev FREQ_UNC.UNC (k : Nat) : Fld := ⟨(FREQ_UNC k), 0, 64⟩
abbrev FREQ_ACC_SEL (ss k : Nat) : Nat := sessKey ss + (clu k + 0x7000 + 0x1A0)
abbrev FREQ_ACC_SEL.ACC (ss k : Nat) : Fld := ⟨(FREQ_ACC_SEL ss k), 0, 3⟩
abbrev FREQ_ACC_DATA (k i : Nat) : Nat := clu k + 0x7000 + 0x1A4 + 4 * i
abbrev FREQ_ACC_DATA.DATA (k i : Nat) : Fld := ⟨(FREQ_ACC_DATA k i), 0, 32⟩
abbrev ARM_FIRE (k : Nat) : Nat := clu k + 0x5000 + 0x100
abbrev ARM_FIRE.FIRE (k : Nat) : Fld := ⟨(ARM_FIRE k), 0, 16⟩
abbrev ARM_STAT (ss k : Nat) : Nat := sessKey ss + (clu k + 0x5000 + 0x104)
abbrev ARM_STAT.PERM (ss k : Nat) : Fld := ⟨(ARM_STAT ss k), 0, 1⟩
abbrev ARM_STAT.LOOP (ss k : Nat) : Fld := ⟨(ARM_STAT ss k), 1, 1⟩
abbrev ARM_STAT.FORWARD (ss k : Nat) : Fld := ⟨(ARM_STAT ss k), 2, 1⟩
abbrev ARM_STAT.PENDING (ss k : Nat) : Fld := ⟨(ARM_STAT ss k), 3, 1⟩
abbrev ARM_STAT.ERR (ss k : Nat) : Fld := ⟨(ARM_STAT ss k), 4, 4⟩
abbrev ARM_STAT.INDEX (ss k : Nat) : Fld := ⟨(ARM_STAT ss k), 8, 9⟩
abbrev ARM_STAT.COLUMN (ss k : Nat) : Fld := ⟨(ARM_STAT ss k), 17, 1⟩
abbrev ARM_OWN_SEL (ss k : Nat) : Nat := sessKey ss + (clu k + 0x5000 + 0x108)
abbrev ARM_OWN_SEL.INDEX (ss k : Nat) : Fld := ⟨(ARM_OWN_SEL ss k), 0, 9⟩
abbrev ARM_OWN_SEL.COLUMN (ss k : Nat) : Fld := ⟨(ARM_OWN_SEL ss k), 9, 1⟩
abbrev ARM_OWN_CTRL (ss k : Nat) : Nat := sessKey ss + (clu k + 0x5000 + 0x10C)
abbrev ARM_OWN_CTRL.CLAIM (ss k : Nat) : Fld := ⟨(ARM_OWN_CTRL ss k), 0, 1⟩
abbrev ARM_OWN_CTRL.RELEASE (ss k : Nat) : Fld := ⟨(ARM_OWN_CTRL ss k), 1, 1⟩
abbrev ARM_OWN_CTRL.SHARE_SET (ss k : Nat) : Fld := ⟨(ARM_OWN_CTRL ss k), 2, 1⟩
abbrev ARM_OWN_CTRL.SHARE_CLR (ss k : Nat) : Fld := ⟨(ARM_OWN_CTRL ss k), 3, 1⟩
abbrev ARM_OWN (k : Nat) : Nat := clu k + 0x5000 + 0x110
abbrev ARM_OWN.OWNER (k : Nat) : Fld := ⟨(ARM_OWN k), 0, 6⟩
abbrev ARM_OWN.OWNED (k : Nat) : Fld := ⟨(ARM_OWN k), 6, 1⟩
abbrev ARM_OWN.ATTR (k : Nat) : Fld := ⟨(ARM_OWN k), 7, 2⟩
abbrev ARM_OWN.SHARE (k : Nat) : Fld := ⟨(ARM_OWN k), 9, 1⟩
abbrev ARM_OWN.LANE (k : Nat) : Fld := ⟨(ARM_OWN k), 10, 1⟩
abbrev ARM_HEALTH (ss k : Nat) : Nat := sessKey ss + (clu k + 0x5000 + 0x114)
abbrev ARM_HEALTH.PARITY (ss k : Nat) : Fld := ⟨(ARM_HEALTH ss k), 0, 1⟩
abbrev ARM_HEALTH.HOP (ss k : Nat) : Fld := ⟨(ARM_HEALTH ss k), 1, 1⟩
abbrev ARM_HEALTH.PARITY_COL (ss k : Nat) : Fld := ⟨(ARM_HEALTH ss k), 2, 9⟩
abbrev ARM_HEALTH.HOP_DROP (ss k : Nat) : Fld := ⟨(ARM_HEALTH ss k), 16, 16⟩
abbrev ARM_CNT_SEL (ss k : Nat) : Nat := sessKey ss + (clu k + 0x5000 + 0x118)
abbrev ARM_CNT_SEL.COLUMN (ss k : Nat) : Fld := ⟨(ARM_CNT_SEL ss k), 0, 9⟩
abbrev ARM_CNT0 (k : Nat) : Nat := clu k + 0x5000 + 0x11C
abbrev ARM_CNT0.MERGE (k : Nat) : Fld := ⟨(ARM_CNT0 k), 0, 16⟩
abbrev ARM_CNT0.EVENTS (k : Nat) : Fld := ⟨(ARM_CNT0 k), 16, 16⟩
abbrev ARM_CNT1 (k : Nat) : Nat := clu k + 0x5000 + 0x120
abbrev ARM_CNT1.DISCARD (k : Nat) : Fld := ⟨(ARM_CNT1 k), 0, 16⟩
abbrev ARM_GIN (k i : Nat) : Nat := clu k + 0x5000 + 0x180 + 4 * i
abbrev ARM_GIN.LINE (k i : Nat) : Fld := ⟨(ARM_GIN k i), 0, 6⟩
abbrev ARM_GIN.VALID (k i : Nat) : Fld := ⟨(ARM_GIN k i), 6, 1⟩
abbrev GL_SEL (ss : Nat) : Nat := sessKey ss + (0xC100)
abbrev GL_SEL.LINE (ss : Nat) : Fld := ⟨(GL_SEL ss), 0, 6⟩
abbrev GL_CTRL (ss : Nat) : Nat := sessKey ss + (0xC104)
abbrev GL_CTRL.CLAIM (ss : Nat) : Fld := ⟨(GL_CTRL ss), 0, 1⟩
abbrev GL_CTRL.RELEASE (ss : Nat) : Fld := ⟨(GL_CTRL ss), 1, 1⟩
abbrev GL_CTRL.SHARE_SET (ss : Nat) : Fld := ⟨(GL_CTRL ss), 2, 1⟩
abbrev GL_CTRL.SHARE_CLR (ss : Nat) : Fld := ⟨(GL_CTRL ss), 3, 1⟩
abbrev GL_CTRL.BIND (ss : Nat) : Fld := ⟨(GL_CTRL ss), 4, 1⟩
abbrev GL_CTRL.UNBIND (ss : Nat) : Fld := ⟨(GL_CTRL ss), 5, 1⟩
abbrev GL_DRV (ss : Nat) : Nat := sessKey ss + (0xC108)
abbrev GL_DRV.CLUSTER (ss : Nat) : Fld := ⟨(GL_DRV ss), 0, 4⟩
abbrev GL_DRV.OUT (ss : Nat) : Fld := ⟨(GL_DRV ss), 4, 5⟩
abbrev GL_STAT : Nat := 0xC10C
abbrev GL_STAT.OWNER : Fld := ⟨GL_STAT, 0, 6⟩
abbrev GL_STAT.OWNED : Fld := ⟨GL_STAT, 6, 1⟩
abbrev GL_STAT.ATTR : Fld := ⟨GL_STAT, 7, 2⟩
abbrev GL_STAT.SHARE : Fld := ⟨GL_STAT, 9, 1⟩
abbrev GL_STAT.LG : Fld := ⟨GL_STAT, 10, 1⟩
abbrev GL_STAT.LG_GROUP : Fld := ⟨GL_STAT, 11, 6⟩
abbrev GL_STAT.BOUND : Fld := ⟨GL_STAT, 17, 1⟩
abbrev GL_STAT.DRV_CLUSTER : Fld := ⟨GL_STAT, 18, 4⟩
abbrev GL_STAT.DRV_OUT : Fld := ⟨GL_STAT, 22, 5⟩
abbrev GL_ERR (ss : Nat) : Nat := sessKey ss + (0xC110)
abbrev GL_ERR.ERR (ss : Nat) : Fld := ⟨(GL_ERR ss), 0, 4⟩
abbrev GL_ERR.PENDING (ss : Nat) : Fld := ⟨(GL_ERR ss), 4, 1⟩
abbrev GL_EVT_CNT : Nat := 0xC114
abbrev GL_EVT_CNT.COUNT : Fld := ⟨GL_EVT_CNT, 0, 32⟩
abbrev GL_FREE : Nat := 0xC118
abbrev GL_FREE.FREE : Fld := ⟨GL_FREE, 0, 7⟩
abbrev GM_COL_STAT (i : Nat) : Nat := 0xC200 + 4 * i
abbrev GM_COL_STAT.OVERRUN (i : Nat) : Fld := ⟨(GM_COL_STAT i), 0, 1⟩
abbrev GM_COL_STAT.MERGE (i : Nat) : Fld := ⟨(GM_COL_STAT i), 8, 8⟩
abbrev GM_COL_STAT.EVENTS (i : Nat) : Fld := ⟨(GM_COL_STAT i), 16, 16⟩
abbrev CAL_CTRL : Nat := 0x3100
abbrev CAL_CTRL.AUTO : Fld := ⟨CAL_CTRL, 0, 1⟩
abbrev CAL_CTRL.FALLBACK_HOLD : Fld := ⟨CAL_CTRL, 1, 1⟩
abbrev CAL_CTRL.BG_MODE : Fld := ⟨CAL_CTRL, 2, 1⟩
abbrev CAL_CTRL.TEMP_DELTA : Fld := ⟨CAL_CTRL, 8, 8⟩
abbrev CAL_CTRL.TREE_PERIOD : Fld := ⟨CAL_CTRL, 16, 8⟩
abbrev CAL_CTRL.HITS : Fld := ⟨CAL_CTRL, 24, 3⟩
abbrev CAL_BG_CFG : Nat := 0x3104
abbrev CAL_BG_CFG.SHARE : Fld := ⟨CAL_BG_CFG, 0, 4⟩
abbrev CAL_STAT : Nat := 0x3108
abbrev CAL_STAT.BUSY : Fld := ⟨CAL_STAT, 0, 1⟩
abbrev CAL_STAT.QUEUE : Fld := ⟨CAL_STAT, 1, 5⟩
abbrev CAL_STAT.STORING : Fld := ⟨CAL_STAT, 6, 1⟩
abbrev CAL_STAT.SLEWING : Fld := ⟨CAL_STAT, 7, 1⟩
abbrev CAL_STAT.UNSTORED : Fld := ⟨CAL_STAT, 8, 1⟩
abbrev CAL_STAT.BANK : Fld := ⟨CAL_STAT, 9, 2⟩
abbrev CAL_STAT.FACTORY_COPY : Fld := ⟨CAL_STAT, 11, 1⟩
abbrev CAL_STAT.FACTORY_LOST : Fld := ⟨CAL_STAT, 12, 1⟩
abbrev CAL_STAT.BG_ACTIVE : Fld := ⟨CAL_STAT, 13, 1⟩
abbrev CAL_BANK_STAT : Nat := 0x310C
abbrev CAL_BANK_STAT.A_VALID : Fld := ⟨CAL_BANK_STAT, 0, 1⟩
abbrev CAL_BANK_STAT.B_VALID : Fld := ⟨CAL_BANK_STAT, 1, 1⟩
abbrev CAL_BANK_SEQ_A : Nat := 0x3110
abbrev CAL_BANK_SEQ_A.SEQ : Fld := ⟨CAL_BANK_SEQ_A, 0, 32⟩
abbrev CAL_BANK_SEQ_B : Nat := 0x3114
abbrev CAL_BANK_SEQ_B.SEQ : Fld := ⟨CAL_BANK_SEQ_B, 0, 32⟩
abbrev CAL_CMD (ss : Nat) : Nat := sessKey ss + (0x3120)
abbrev CAL_CMD.OP (ss : Nat) : Fld := ⟨(CAL_CMD ss), 0, 4⟩
abbrev CAL_CMD.MODE (ss : Nat) : Fld := ⟨(CAL_CMD ss), 4, 1⟩
abbrev CAL_CMD.CLUSTER (ss : Nat) : Fld := ⟨(CAL_CMD ss), 5, 4⟩
abbrev CAL_CMD.GO (ss : Nat) : Fld := ⟨(CAL_CMD ss), 31, 1⟩
abbrev CAL_ARG (ss : Nat) : Nat := sessKey ss + (0x3124)
abbrev CAL_ARG.LANES (ss : Nat) : Fld := ⟨(CAL_ARG ss), 0, 64⟩
abbrev CAL_CMD_STAT (ss : Nat) : Nat := sessKey ss + (0x312C)
abbrev CAL_CMD_STAT.STATE (ss : Nat) : Fld := ⟨(CAL_CMD_STAT ss), 0, 2⟩
abbrev CAL_CMD_STAT.RESULT (ss : Nat) : Fld := ⟨(CAL_CMD_STAT ss), 2, 4⟩
abbrev CAL_CMD_STAT.DONE (ss : Nat) : Fld := ⟨(CAL_CMD_STAT ss), 6, 1⟩
abbrev CAL_CMD_CNT (ss : Nat) : Nat := sessKey ss + (0x3130)
abbrev CAL_CMD_CNT.ACCEPTED (ss : Nat) : Fld := ⟨(CAL_CMD_CNT ss), 0, 16⟩
abbrev CAL_CMD_CNT.REJECTED (ss : Nat) : Fld := ⟨(CAL_CMD_CNT ss), 16, 16⟩
abbrev CAL_LAST_REJ (ss : Nat) : Nat := sessKey ss + (0x3134)
abbrev CAL_LAST_REJ.CLUSTER (ss : Nat) : Fld := ⟨(CAL_LAST_REJ ss), 0, 4⟩
abbrev CAL_LAST_REJ.TMU (ss : Nat) : Fld := ⟨(CAL_LAST_REJ ss), 4, 1⟩
abbrev CAL_LAST_REJ.UNIT (ss : Nat) : Fld := ⟨(CAL_LAST_REJ ss), 5, 7⟩
abbrev CAL_LAST_REJ.PART (ss : Nat) : Fld := ⟨(CAL_LAST_REJ ss), 12, 3⟩
abbrev CAL_LAST_REJ.CODE (ss : Nat) : Fld := ⟨(CAL_LAST_REJ ss), 15, 4⟩
abbrev CAL_EXT_CFG (ss : Nat) : Nat := sessKey ss + (0x3138)
abbrev CAL_EXT_CFG.LANE (ss : Nat) : Fld := ⟨(CAL_EXT_CFG ss), 0, 6⟩
abbrev CAL_EXT_CFG.EDGE (ss : Nat) : Fld := ⟨(CAL_EXT_CFG ss), 6, 2⟩
abbrev CAL_EXT_CHI (ss : Nat) : Nat := sessKey ss + (0x313C)
abbrev CAL_EXT_CHI.CHI (ss : Nat) : Fld := ⟨(CAL_EXT_CHI ss), 0, 20⟩
abbrev CAL_UNIT_SEL (ss : Nat) : Nat := sessKey ss + (0x3140)
abbrev CAL_UNIT_SEL.CLUSTER (ss : Nat) : Fld := ⟨(CAL_UNIT_SEL ss), 0, 4⟩
abbrev CAL_UNIT_SEL.TMU (ss : Nat) : Fld := ⟨(CAL_UNIT_SEL ss), 4, 1⟩
abbrev CAL_UNIT_SEL.UNIT (ss : Nat) : Fld := ⟨(CAL_UNIT_SEL ss), 5, 7⟩
abbrev CAL_UNIT_SEL.PART (ss : Nat) : Fld := ⟨(CAL_UNIT_SEL ss), 12, 3⟩
abbrev CAL_UNIT_INFO : Nat := 0x3144
abbrev CAL_UNIT_INFO.SRC : Fld := ⟨CAL_UNIT_INFO, 0, 2⟩
abbrev CAL_UNIT_INFO.FAILS : Fld := ⟨CAL_UNIT_INFO, 2, 2⟩
abbrev CAL_UNIT_INFO.LAST : Fld := ⟨CAL_UNIT_INFO, 4, 4⟩
abbrev CAL_UNIT_INFO.TU : Fld := ⟨CAL_UNIT_INFO, 8, 16⟩
abbrev CAL_UNIT_INFO.STORED : Fld := ⟨CAL_UNIT_INFO, 24, 1⟩
abbrev PE_CFG : Nat := 0x4100
abbrev PE_CFG.AUTO_REPLACE : Fld := ⟨PE_CFG, 0, 1⟩
abbrev PE_CFG.RETURN_HOME : Fld := ⟨PE_CFG, 1, 1⟩
abbrev PE_CFG.SHADOW_PERIODS : Fld := ⟨PE_CFG, 8, 5⟩
abbrev PE_CFG.SPARE_RESERVE : Fld := ⟨PE_CFG, 13, 3⟩
abbrev PE_STAT : Nat := 0x4104
abbrev PE_STAT.SWAPS_ACTIVE : Fld := ⟨PE_STAT, 0, 5⟩
abbrev PE_STAT.UNPLACED : Fld := ⟨PE_STAT, 16, 11⟩
abbrev PE_GEN : Nat := 0x4108
abbrev PE_GEN.GEN : Fld := ⟨PE_GEN, 0, 32⟩
abbrev PE_HBM_BUDGET : Nat := 0x410C
abbrev PE_HBM_BUDGET.MBPS : Fld := ⟨PE_HBM_BUDGET, 0, 24⟩
abbrev PE_HBM_FREE : Nat := 0x4110
abbrev PE_HBM_FREE.GRANULES : Fld := ⟨PE_HBM_FREE, 0, 13⟩
abbrev PE_HBM_FREE.EVS : Fld := ⟨PE_HBM_FREE, 16, 8⟩
abbrev PE_SWAP_CNT : Nat := 0x4114
abbrev PE_SWAP_CNT.DONE : Fld := ⟨PE_SWAP_CNT, 0, 16⟩
abbrev PE_SWAP_CNT.ABORTED : Fld := ⟨PE_SWAP_CNT, 16, 16⟩
abbrev PE_REQ (ss : Nat) : Nat := sessKey ss + (0x4140)
abbrev PE_REQ.OP (ss : Nat) : Fld := ⟨(PE_REQ ss), 0, 4⟩
abbrev PE_REQ.CLASS (ss : Nat) : Fld := ⟨(PE_REQ ss), 4, 2⟩
abbrev PE_REQ.EG_MASK (ss : Nat) : Fld := ⟨(PE_REQ ss), 6, 6⟩
abbrev PE_REQ.TMU_MIN (ss : Nat) : Fld := ⟨(PE_REQ ss), 12, 4⟩
abbrev PE_REQ.LG (ss : Nat) : Fld := ⟨(PE_REQ ss), 16, 6⟩
abbrev PE_REQ.LG_VALID (ss : Nat) : Fld := ⟨(PE_REQ ss), 22, 1⟩
abbrev PE_REQ.ATOMIC (ss : Nat) : Fld := ⟨(PE_REQ ss), 23, 1⟩
abbrev PE_REQ.GO (ss : Nat) : Fld := ⟨(PE_REQ ss), 31, 1⟩
abbrev PE_REQ_STAT (ss : Nat) : Nat := sessKey ss + (0x4144)
abbrev PE_REQ_STAT.STATE (ss : Nat) : Fld := ⟨(PE_REQ_STAT ss), 0, 2⟩
abbrev PE_REQ_STAT.DONE (ss : Nat) : Fld := ⟨(PE_REQ_STAT ss), 2, 1⟩
abbrev PE_REQ_STAT.RESULT (ss : Nat) : Fld := ⟨(PE_REQ_STAT ss), 3, 5⟩
abbrev PE_REQ_STAT.COUNT (ss : Nat) : Fld := ⟨(PE_REQ_STAT ss), 8, 11⟩
abbrev PE_REQ_STAT.REFUSED (ss : Nat) : Fld := ⟨(PE_REQ_STAT ss), 19, 1⟩
abbrev PE_PLAN_GEN (ss : Nat) : Nat := sessKey ss + (0x4148)
abbrev PE_PLAN_GEN.GEN (ss : Nat) : Fld := ⟨(PE_PLAN_GEN ss), 0, 32⟩
abbrev PE_PLAN_SEL (ss : Nat) : Nat := sessKey ss + (0x414C)
abbrev PE_PLAN_SEL.LCH (ss : Nat) : Fld := ⟨(PE_PLAN_SEL ss), 0, 10⟩
abbrev PE_PLAN_DATA (ss : Nat) : Nat := sessKey ss + (0x4150)
abbrev PE_PLAN_DATA.PHYS (ss : Nat) : Fld := ⟨(PE_PLAN_DATA ss), 0, 7⟩
abbrev PE_PLAN_DATA.SPINE (ss : Nat) : Fld := ⟨(PE_PLAN_DATA ss), 7, 1⟩
abbrev PE_PLAN_DATA.RESULT (ss : Nat) : Fld := ⟨(PE_PLAN_DATA ss), 8, 5⟩
abbrev PE_PLAN_DATA.TMU_MIN (ss : Nat) : Fld := ⟨(PE_PLAN_DATA ss), 13, 4⟩
abbrev PE_PLAN_DATA.CLASS_MET (ss : Nat) : Fld := ⟨(PE_PLAN_DATA ss), 17, 1⟩
abbrev PE_LANE_SEL (ss : Nat) : Nat := sessKey ss + (0x4154)
abbrev PE_LANE_SEL.LCH (ss : Nat) : Fld := ⟨(PE_LANE_SEL ss), 0, 10⟩
abbrev PE_LANE_INFO (ss : Nat) : Nat := sessKey ss + (0x4158)
abbrev PE_LANE_INFO.STATE (ss : Nat) : Fld := ⟨(PE_LANE_INFO ss), 0, 2⟩
abbrev PE_LANE_INFO.HOLDER (ss : Nat) : Fld := ⟨(PE_LANE_INFO ss), 2, 6⟩
abbrev PE_LANE_INFO.CLASS_MET (ss : Nat) : Fld := ⟨(PE_LANE_INFO ss), 8, 1⟩
abbrev PE_LANE_INFO.CLASS (ss : Nat) : Fld := ⟨(PE_LANE_INFO ss), 9, 2⟩
abbrev PE_LANE_INFO.TMU_MIN (ss : Nat) : Fld := ⟨(PE_LANE_INFO ss), 11, 4⟩
abbrev PE_LANE_INFO.TMU_REDUCED (ss : Nat) : Fld := ⟨(PE_LANE_INFO ss), 15, 1⟩
abbrev PE_LANE_INFO.EG_MASK (ss : Nat) : Fld := ⟨(PE_LANE_INFO ss), 16, 6⟩
abbrev PE_HBM_REQ (ss : Nat) : Nat := sessKey ss + (0x4160)
abbrev PE_HBM_REQ.KIND (ss : Nat) : Fld := ⟨(PE_HBM_REQ ss), 0, 2⟩
abbrev PE_HBM_REQ.GRANULES (ss : Nat) : Fld := ⟨(PE_HBM_REQ ss), 2, 13⟩
abbrev PE_HBM_RATE (ss : Nat) : Nat := sessKey ss + (0x4164)
abbrev PE_HBM_RATE.MBPS (ss : Nat) : Fld := ⟨(PE_HBM_RATE ss), 0, 24⟩
abbrev PE_HBM_HANDLE (ss : Nat) : Nat := sessKey ss + (0x4168)
abbrev PE_HBM_HANDLE.HANDLE (ss : Nat) : Fld := ⟨(PE_HBM_HANDLE ss), 0, 16⟩
abbrev PE_HBM_ADDR (ss : Nat) : Nat := sessKey ss + (0x4170)
abbrev PE_HBM_ADDR.OFFSET (ss : Nat) : Fld := ⟨(PE_HBM_ADDR ss), 0, 64⟩
abbrev PE_REQ_LANES (ss i : Nat) : Nat := sessKey ss + (0x4180 + 4 * i)
abbrev PE_REQ_LANES.LANES (ss i : Nat) : Fld := ⟨(PE_REQ_LANES ss i), 0, 32⟩
abbrev TMU_ARB_CFG (k : Nat) : Nat := clu k + 0x6000 + 0xA00
abbrev TMU_ARB_CFG.AGE (k : Nat) : Fld := ⟨(TMU_ARB_CFG k), 0, 7⟩
abbrev TMU_ARB_CFG.FREQ_W (k : Nat) : Fld := ⟨(TMU_ARB_CFG k), 8, 4⟩
abbrev TMU_ARB_CFG.MAINT_W (k : Nat) : Fld := ⟨(TMU_ARB_CFG k), 12, 4⟩
abbrev TMU_ARB_CFG.MAINT_MAX (k : Nat) : Fld := ⟨(TMU_ARB_CFG k), 16, 2⟩
abbrev TMU_ARB_STAT (k : Nat) : Nat := clu k + 0x6000 + 0xA04
abbrev TMU_ARB_STAT.IDLE (k : Nat) : Fld := ⟨(TMU_ARB_STAT k), 0, 6⟩
abbrev TMU_ARB_STAT.UNMET (k : Nat) : Fld := ⟨(TMU_ARB_STAT k), 6, 6⟩
abbrev TMU_ARB_STAT.MAINT_HELD (k : Nat) : Fld := ⟨(TMU_ARB_STAT k), 12, 2⟩
abbrev TMU_ARB_STAT.AGED (k : Nat) : Fld := ⟨(TMU_ARB_STAT k), 14, 6⟩
abbrev TMU_ARB_CNT (k : Nat) : Nat := clu k + 0x6000 + 0xA08
abbrev TMU_ARB_CNT.AGED (k : Nat) : Fld := ⟨(TMU_ARB_CNT k), 0, 16⟩
abbrev TMU_ARB_CNT.QFULL (k : Nat) : Fld := ⟨(TMU_ARB_CNT k), 16, 16⟩
abbrev TMU_ARB_WAIT_MAX (k : Nat) : Nat := clu k + 0x6000 + 0xA0C
abbrev TMU_ARB_WAIT_MAX.T0 (k : Nat) : Fld := ⟨(TMU_ARB_WAIT_MAX k), 0, 24⟩
abbrev TMU_ARB_WEIGHT (k i : Nat) : Nat := clu k + 0x6000 + 0xA40 + 4 * i
abbrev TMU_ARB_WEIGHT.W (k i : Nat) : Fld := ⟨(TMU_ARB_WEIGHT k i), 0, 4⟩
abbrev TMU_ARB_LANE (k i : Nat) : Nat := clu k + 0x6000 + 0xB40 + 4 * i
abbrev TMU_ARB_LANE.IN_USE (k i : Nat) : Fld := ⟨(TMU_ARB_LANE k i), 0, 6⟩
abbrev TMU_ARB_LANE.QUEUED (k i : Nat) : Fld := ⟨(TMU_ARB_LANE k i), 6, 6⟩
abbrev TMU_ARB_LANE.TMU_MIN (k i : Nat) : Fld := ⟨(TMU_ARB_LANE k i), 12, 4⟩
abbrev HBM_SCHED_CFG : Nat := 0xD100
abbrev HBM_SCHED_CFG.FLOOR_DEPTH : Fld := ⟨HBM_SCHED_CFG, 0, 8⟩
abbrev HBM_SCHED_CFG.DEV_CAP : Fld := ⟨HBM_SCHED_CFG, 8, 6⟩
abbrev HBM_QUANTUM_CL : Nat := 0xD104
abbrev HBM_QUANTUM_CL.Q : Fld := ⟨HBM_QUANTUM_CL, 0, 12⟩
abbrev HBM_QUANTUM_MAINT : Nat := 0xD108
abbrev HBM_QUANTUM_MAINT.Q : Fld := ⟨HBM_QUANTUM_MAINT, 0, 12⟩
abbrev HBM_FLOW_SEL (ss : Nat) : Nat := sessKey ss + (0xD110)
abbrev HBM_FLOW_SEL.FLOW (ss : Nat) : Fld := ⟨(HBM_FLOW_SEL ss), 0, 7⟩
abbrev HBM_FLOW_BYTES : Nat := 0xD118
abbrev HBM_FLOW_BYTES.BYTES : Fld := ⟨HBM_FLOW_BYTES, 0, 64⟩
abbrev HBM_FLOW_WAIT_MAX : Nat := 0xD120
abbrev HBM_FLOW_WAIT_MAX.CYCLES : Fld := ⟨HBM_FLOW_WAIT_MAX, 0, 16⟩
abbrev HBM_QUANTUM_SESS (i : Nat) : Nat := 0xD200 + 4 * i
abbrev HBM_QUANTUM_SESS.Q (i : Nat) : Fld := ⟨(HBM_QUANTUM_SESS i), 0, 12⟩
abbrev SESS_CPL_LIMIT : Nat := 0x9F00
abbrev SESS_CPL_LIMIT.US : Fld := ⟨SESS_CPL_LIMIT, 0, 16⟩
abbrev SESS_CPL_EXPIRED (ss : Nat) : Nat := sessKey ss + (0x9F04)
abbrev SESS_CPL_EXPIRED.COUNT (ss : Nat) : Fld := ⟨(SESS_CPL_EXPIRED ss), 0, 16⟩
abbrev BIST_CTRL : Nat := 0x5100
abbrev BIST_CTRL.ENABLE : Fld := ⟨BIST_CTRL, 0, 1⟩
abbrev BIST_CTRL.MAX_CONC : Fld := ⟨BIST_CTRL, 1, 2⟩
abbrev BIST_CTRL.ROTATE : Fld := ⟨BIST_CTRL, 3, 1⟩
abbrev BIST_CTRL.GAP_US : Fld := ⟨BIST_CTRL, 16, 16⟩
abbrev BIST_STAT : Nat := 0x5104
abbrev BIST_STAT.ACTIVE : Fld := ⟨BIST_STAT, 0, 2⟩
abbrev BIST_STAT.CONC_LIMIT : Fld := ⟨BIST_STAT, 2, 2⟩
abbrev BIST_STAT.CYCLE_DONE : Fld := ⟨BIST_STAT, 4, 1⟩
abbrev BIST_STAT.SUSPECT : Fld := ⟨BIST_STAT, 5, 6⟩
abbrev BIST_STAT.PENDING : Fld := ⟨BIST_STAT, 11, 6⟩
abbrev BIST_CYCLE_TIME : Nat := 0x5108
abbrev BIST_CYCLE_TIME.MS : Fld := ⟨BIST_CYCLE_TIME, 0, 32⟩
abbrev BIST_SLICE (i : Nat) : Nat := 0x5110 + 4 * i
abbrev BIST_SLICE.STATE (i : Nat) : Fld := ⟨(BIST_SLICE i), 0, 3⟩
abbrev BIST_SLICE.TYPE (i : Nat) : Fld := ⟨(BIST_SLICE i), 3, 3⟩
abbrev BIST_SLICE.CLUSTER (i : Nat) : Fld := ⟨(BIST_SLICE i), 6, 4⟩
abbrev BIST_SLICE.TRUNK (i : Nat) : Fld := ⟨(BIST_SLICE i), 10, 1⟩
abbrev BIST_SLICE.INSTANCE (i : Nat) : Fld := ⟨(BIST_SLICE i), 11, 7⟩
abbrev BIST_SLICE.FORCED (i : Nat) : Fld := ⟨(BIST_SLICE i), 18, 1⟩
abbrev BIST_SLICE.STEP (i : Nat) : Fld := ⟨(BIST_SLICE i), 19, 8⟩
abbrev BIST_SLICE.SET (i : Nat) : Fld := ⟨(BIST_SLICE i), 27, 1⟩
abbrev BIST_CNT0 : Nat := 0x5118
abbrev BIST_CNT0.PASS : Fld := ⟨BIST_CNT0, 0, 16⟩
abbrev BIST_CNT0.ABORTED : Fld := ⟨BIST_CNT0, 16, 16⟩
abbrev BIST_CNT1 : Nat := 0x511C
abbrev BIST_CNT1.FAIL : Fld := ⟨BIST_CNT1, 0, 16⟩
abbrev BIST_CNT1.FORCED : Fld := ⟨BIST_CNT1, 16, 16⟩
abbrev BIST_LOG_SEL (ss : Nat) : Nat := sessKey ss + (0x5120)
abbrev BIST_LOG_SEL.ENTRY (ss : Nat) : Fld := ⟨(BIST_LOG_SEL ss), 0, 6⟩
abbrev BIST_LOG_DATA0 : Nat := 0x5124
abbrev BIST_LOG_DATA0.TYPE : Fld := ⟨BIST_LOG_DATA0, 0, 3⟩
abbrev BIST_LOG_DATA0.TRUNK : Fld := ⟨BIST_LOG_DATA0, 3, 1⟩
abbrev BIST_LOG_DATA0.CLUSTER : Fld := ⟨BIST_LOG_DATA0, 4, 4⟩
abbrev BIST_LOG_DATA0.INSTANCE : Fld := ⟨BIST_LOG_DATA0, 8, 7⟩
abbrev BIST_LOG_DATA0.SET : Fld := ⟨BIST_LOG_DATA0, 15, 1⟩
abbrev BIST_LOG_DATA0.WORD : Fld := ⟨BIST_LOG_DATA0, 16, 12⟩
abbrev BIST_LOG_DATA1 : Nat := 0x5128
abbrev BIST_LOG_DATA1.BIT : Fld := ⟨BIST_LOG_DATA1, 0, 7⟩
abbrev BIST_LOG_DATA1.MULTI : Fld := ⟨BIST_LOG_DATA1, 7, 1⟩
abbrev BIST_LOG_DATA1.VERDICT : Fld := ⟨BIST_LOG_DATA1, 8, 3⟩
abbrev BIST_LOG_DATA1.STEP : Fld := ⟨BIST_LOG_DATA1, 11, 8⟩
abbrev BIST_LOG_SIG : Nat := 0x5130
abbrev BIST_LOG_SIG.SIG : Fld := ⟨BIST_LOG_SIG, 0, 64⟩
abbrev BIST_REPAIR_STAT : Nat := 0x5140
abbrev BIST_REPAIR_STAT.USED0 : Fld := ⟨BIST_REPAIR_STAT, 0, 16⟩
abbrev BIST_REPAIR_STAT.USED1 : Fld := ⟨BIST_REPAIR_STAT, 16, 16⟩
abbrev BIST_REPAIR_STAT2 : Nat := 0x5144
abbrev BIST_REPAIR_STAT2.COMPACTING : Fld := ⟨BIST_REPAIR_STAT2, 0, 1⟩
abbrev BIST_REPAIR_STAT2.COPY_LOST : Fld := ⟨BIST_REPAIR_STAT2, 1, 1⟩
abbrev BIST_CMD : Nat := 0x5150
abbrev BIST_CMD.OP : Fld := ⟨BIST_CMD, 0, 3⟩
abbrev BIST_CMD.TYPE : Fld := ⟨BIST_CMD, 3, 3⟩
abbrev BIST_CMD.CLUSTER : Fld := ⟨BIST_CMD, 6, 4⟩
abbrev BIST_CMD.TRUNK : Fld := ⟨BIST_CMD, 10, 1⟩
abbrev BIST_CMD.INSTANCE : Fld := ⟨BIST_CMD, 11, 7⟩
abbrev BIST_CMD.SET : Fld := ⟨BIST_CMD, 18, 1⟩
abbrev BIST_CMD.GO : Fld := ⟨BIST_CMD, 31, 1⟩
abbrev BIST_CMD_STAT : Nat := 0x5154
abbrev BIST_CMD_STAT.STATE : Fld := ⟨BIST_CMD_STAT, 0, 2⟩
abbrev BIST_CMD_STAT.DONE : Fld := ⟨BIST_CMD_STAT, 2, 1⟩
abbrev BIST_CMD_STAT.RESULT : Fld := ⟨BIST_CMD_STAT, 3, 3⟩
abbrev BIST_TGT_SEL (ss : Nat) : Nat := sessKey ss + (0x5160)
abbrev BIST_TGT_SEL.TYPE (ss : Nat) : Fld := ⟨(BIST_TGT_SEL ss), 0, 3⟩
abbrev BIST_TGT_SEL.CLUSTER (ss : Nat) : Fld := ⟨(BIST_TGT_SEL ss), 3, 4⟩
abbrev BIST_TGT_SEL.TRUNK (ss : Nat) : Fld := ⟨(BIST_TGT_SEL ss), 7, 1⟩
abbrev BIST_TGT_SEL.INSTANCE (ss : Nat) : Fld := ⟨(BIST_TGT_SEL ss), 8, 7⟩
abbrev BIST_TGT_SEL.SET (ss : Nat) : Fld := ⟨(BIST_TGT_SEL ss), 15, 1⟩
abbrev BIST_TGT_INFO : Nat := 0x5164
abbrev BIST_TGT_INFO.ABORTS : Fld := ⟨BIST_TGT_INFO, 0, 5⟩
abbrev BIST_TGT_INFO.LAST : Fld := ⟨BIST_TGT_INFO, 5, 3⟩
abbrev BIST_TGT_INFO.SUSPECT : Fld := ⟨BIST_TGT_INFO, 8, 1⟩
abbrev BIST_TGT_INFO.SKIPPED : Fld := ⟨BIST_TGT_INFO, 9, 1⟩
abbrev BIST_TGT_INFO.AGE_S : Fld := ⟨BIST_TGT_INFO, 16, 16⟩
abbrev PAGE_FLT (pg : Nat) : Nat := pg + 0x14
abbrev PAGE_FLT.SEV (pg : Nat) : Fld := ⟨(PAGE_FLT pg), 0, 5⟩
abbrev PAGE_FLT.INJ (pg : Nat) : Fld := ⟨(PAGE_FLT pg), 5, 1⟩
abbrev FLT_IRQ_CFG (ss : Nat) : Nat := sessKey ss + (0x6100)
abbrev FLT_IRQ_CFG.SEV (ss : Nat) : Fld := ⟨(FLT_IRQ_CFG ss), 0, 3⟩
abbrev FLT_STAT : Nat := 0x6104
abbrev FLT_STAT.RING_ERR : Fld := ⟨FLT_STAT, 0, 1⟩
abbrev FLT_STAT.QUEUED : Fld := ⟨FLT_STAT, 1, 12⟩
abbrev FLT_WIN_SEL (ss : Nat) : Nat := sessKey ss + (0x6108)
abbrev FLT_WIN_SEL.RING (ss : Nat) : Fld := ⟨(FLT_WIN_SEL ss), 0, 1⟩
abbrev FLT_HEAD (ss : Nat) : Nat := sessKey ss + (0x610C)
abbrev FLT_HEAD.HEAD (ss : Nat) : Fld := ⟨(FLT_HEAD ss), 0, 32⟩
abbrev FLT_TAIL (ss : Nat) : Nat := sessKey ss + (0x6110)
abbrev FLT_TAIL.TAIL (ss : Nat) : Fld := ⟨(FLT_TAIL ss), 0, 32⟩
abbrev FLT_LOST (ss : Nat) : Nat := sessKey ss + (0x6114)
abbrev FLT_LOST.COUNT (ss : Nat) : Fld := ⟨(FLT_LOST ss), 0, 16⟩
abbrev FLT_LOST.LOST (ss : Nat) : Fld := ⟨(FLT_LOST ss), 16, 1⟩
abbrev FLT_SRC_LOST : Nat := 0x6118
abbrev FLT_SRC_LOST.COUNT : Fld := ⟨FLT_SRC_LOST, 0, 32⟩
abbrev FLT_STICKY_SUM : Nat := 0x6120
abbrev FLT_STICKY_SUM.SUM : Fld := ⟨FLT_STICKY_SUM, 0, 64⟩
abbrev FLT_STICKY_INJ_SUM : Nat := 0x6128
abbrev FLT_STICKY_INJ_SUM.SUM : Fld := ⟨FLT_STICKY_INJ_SUM, 0, 64⟩
abbrev FLT_INJ_MSG (ss : Nat) : Nat := sessKey ss + (0x6140)
abbrev FLT_INJ_MSG.ADDR (ss : Nat) : Fld := ⟨(FLT_INJ_MSG ss), 8, 32⟩
abbrev FLT_INJ_MSG.SEV (ss : Nat) : Fld := ⟨(FLT_INJ_MSG ss) + 4, 9, 3⟩
abbrev FLT_INJ_MSG.KIND (ss : Nat) : Fld := ⟨(FLT_INJ_MSG ss) + 4, 12, 8⟩
abbrev FLT_INJ_MSG.SOURCE (ss : Nat) : Fld := ⟨(FLT_INJ_MSG ss) + 4, 20, 12⟩
abbrev FLT_INJ_CTRL (ss : Nat) : Nat := sessKey ss + (0x6148)
abbrev FLT_INJ_CTRL.GO (ss : Nat) : Fld := ⟨(FLT_INJ_CTRL ss), 0, 1⟩
abbrev FLT_INJ_CTRL.BUSY (ss : Nat) : Fld := ⟨(FLT_INJ_CTRL ss), 1, 1⟩
abbrev FLT_INJ_CTRL.ERR (ss : Nat) : Fld := ⟨(FLT_INJ_CTRL ss), 2, 2⟩
abbrev FLT_SRC_SEL (ss : Nat) : Nat := sessKey ss + (0x6150)
abbrev FLT_SRC_SEL.SOURCE (ss : Nat) : Fld := ⟨(FLT_SRC_SEL ss), 0, 11⟩
abbrev FLT_SRC_INFO : Nat := 0x6154
abbrev FLT_SRC_INFO.SEQ : Fld := ⟨FLT_SRC_INFO, 0, 8⟩
abbrev FLT_SRC_INFO.INJ_SEQ : Fld := ⟨FLT_SRC_INFO, 8, 8⟩
abbrev FLT_SRC_INFO.LOST : Fld := ⟨FLT_SRC_INFO, 16, 8⟩
abbrev FLT_SRC_INFO.LAST_SEV : Fld := ⟨FLT_SRC_INFO, 24, 3⟩
abbrev FLT_STICKY (i : Nat) : Nat := 0x6200 + 4 * i
abbrev FLT_STICKY.STICKY (i : Nat) : Fld := ⟨(FLT_STICKY i), 0, 32⟩
abbrev FLT_STICKY_INJ (i : Nat) : Nat := 0x6300 + 4 * i
abbrev FLT_STICKY_INJ.STICKY (i : Nat) : Fld := ⟨(FLT_STICKY_INJ i), 0, 32⟩
abbrev FLT_WIN (ss i : Nat) : Nat := sessKey ss + (0x6800 + 8 * i)
abbrev FLT_WIN.MSG (ss i : Nat) : Fld := ⟨(FLT_WIN ss i), 0, 64⟩
abbrev PAGE_ID (pg : Nat) : Nat := pg + 0x0
abbrev PAGE_ID.VERSION (pg : Nat) : Fld := ⟨(PAGE_ID pg), 0, 8⟩
abbrev PAGE_ID.INSTANCE (pg : Nat) : Fld := ⟨(PAGE_ID pg), 8, 8⟩
abbrev PAGE_ID.TYPE (pg : Nat) : Fld := ⟨(PAGE_ID pg), 16, 16⟩
abbrev PAGE_FEAT (pg : Nat) : Nat := pg + 0x4
abbrev PAGE_FEAT.PER_SESSION (pg : Nat) : Fld := ⟨(PAGE_FEAT pg), 0, 1⟩
abbrev PAGE_FEAT.CLAIMABLE (pg : Nat) : Fld := ⟨(PAGE_FEAT pg), 1, 1⟩
abbrev PAGE_FEAT.IRQ (pg : Nat) : Fld := ⟨(PAGE_FEAT pg), 2, 1⟩
abbrev PAGE_FEAT.BLOCK (pg : Nat) : Fld := ⟨(PAGE_FEAT pg), 8, 8⟩
abbrev PAGE_CTRL (pg : Nat) : Nat := pg + 0x8
abbrev PAGE_CTRL.ENABLE (pg : Nat) : Fld := ⟨(PAGE_CTRL pg), 0, 1⟩
abbrev PAGE_CTRL.QUIESCE (pg : Nat) : Fld := ⟨(PAGE_CTRL pg), 1, 1⟩
abbrev PAGE_CTRL.BLOCK_RESET (pg : Nat) : Fld := ⟨(PAGE_CTRL pg), 2, 1⟩
abbrev PAGE_STAT (pg : Nat) : Nat := pg + 0xC
abbrev PAGE_STAT.READY (pg : Nat) : Fld := ⟨(PAGE_STAT pg), 0, 1⟩
abbrev PAGE_STAT.BUSY (pg : Nat) : Fld := ⟨(PAGE_STAT pg), 1, 1⟩
abbrev PAGE_STAT.STALE (pg : Nat) : Fld := ⟨(PAGE_STAT pg), 2, 1⟩
abbrev PAGE_STAT.UNUSABLE (pg : Nat) : Fld := ⟨(PAGE_STAT pg), 3, 1⟩
abbrev PAGE_STAT.BIST_ACTIVE (pg : Nat) : Fld := ⟨(PAGE_STAT pg), 4, 1⟩
abbrev PAGE_STAT.CAL_ACTIVE (pg : Nat) : Fld := ⟨(PAGE_STAT pg), 5, 1⟩
abbrev PAGE_OWNER (pg : Nat) : Nat := pg + 0x10
abbrev PAGE_OWNER.SESSION (pg : Nat) : Fld := ⟨(PAGE_OWNER pg), 0, 6⟩
abbrev PAGE_OWNER.ATTR (pg : Nat) : Fld := ⟨(PAGE_OWNER pg), 8, 2⟩
abbrev PAGE_OWNER.OWNED (pg : Nat) : Fld := ⟨(PAGE_OWNER pg), 10, 1⟩
abbrev PAGE_OWNER.CLAIM (pg : Nat) : Fld := ⟨(PAGE_OWNER pg), 11, 1⟩
abbrev PAGE_OWNER.RELEASE (pg : Nat) : Fld := ⟨(PAGE_OWNER pg), 12, 1⟩
abbrev PAGE_OWNER.LOCK (pg : Nat) : Fld := ⟨(PAGE_OWNER pg), 31, 1⟩
abbrev PAGE_IRQ_EN (pg : Nat) : Nat := pg + 0x18
abbrev PAGE_IRQ_EN.EN (pg : Nat) : Fld := ⟨(PAGE_IRQ_EN pg), 0, 32⟩
abbrev CAP_PTR : Nat := 0x40
abbrev CAP_PTR.PTR : Fld := ⟨CAP_PTR, 0, 12⟩
abbrev ID_PART : Nat := 0x100
abbrev ID_PART.PART : Fld := ⟨ID_PART, 0, 16⟩
abbrev ID_REV : Nat := 0x104
abbrev ID_REV.STEPPING : Fld := ⟨ID_REV, 0, 8⟩
abbrev ID_SERIAL : Nat := 0x108
abbrev ID_SERIAL.SERIAL : Fld := ⟨ID_SERIAL, 0, 64⟩
abbrev SESS_SELF (ss : Nat) : Nat := sessKey ss + (0x9100)
abbrev SESS_SELF.SESSION (ss : Nat) : Fld := ⟨(SESS_SELF ss), 0, 6⟩
abbrev SESS_SELF.ATTR (ss : Nat) : Fld := ⟨(SESS_SELF ss), 6, 2⟩
abbrev SESS_SELF.PF (ss : Nat) : Fld := ⟨(SESS_SELF ss), 8, 1⟩
abbrev SESS_SELF.PORT (ss : Nat) : Fld := ⟨(SESS_SELF ss), 9, 1⟩
abbrev SESS_SELF.LINK (ss : Nat) : Fld := ⟨(SESS_SELF ss), 10, 1⟩
abbrev SESS_SEL (ss : Nat) : Nat := sessKey ss + (0x9104)
abbrev SESS_SEL.TARGET (ss : Nat) : Fld := ⟨(SESS_SEL ss), 0, 6⟩
abbrev SESS_INFO : Nat := 0x9108
abbrev SESS_INFO.EXISTS : Fld := ⟨SESS_INFO, 0, 1⟩
abbrev SESS_INFO.BME : Fld := ⟨SESS_INFO, 1, 1⟩
abbrev SESS_INFO.MSIX : Fld := ⟨SESS_INFO, 2, 1⟩
abbrev SESS_INFO.ATTR : Fld := ⟨SESS_INFO, 3, 2⟩
abbrev SESS_INFO.RESETTING : Fld := ⟨SESS_INFO, 5, 1⟩
abbrev SESS_ATTR_SET : Nat := 0x910C
abbrev SESS_ATTR_SET.ATTR : Fld := ⟨SESS_ATTR_SET, 0, 2⟩
abbrev SESS_CTRL : Nat := 0x9110
abbrev SESS_CTRL.RESET : Fld := ⟨SESS_CTRL, 0, 1⟩
abbrev SESS_RING_MAX : Nat := 0x9114
abbrev SESS_RING_MAX.RINGS : Fld := ⟨SESS_RING_MAX, 0, 21⟩
abbrev SESS_BAR2_MISS (ss : Nat) : Nat := sessKey ss + (0x9118)
abbrev SESS_BAR2_MISS.COUNT (ss : Nat) : Fld := ⟨(SESS_BAR2_MISS ss), 0, 32⟩
abbrev SESS_IRQ_DEV (ss : Nat) : Nat := sessKey ss + (0x9120)
abbrev SESS_IRQ_DEV.PAGES (ss : Nat) : Fld := ⟨(SESS_IRQ_DEV ss), 0, 15⟩
abbrev SESS_IRQ_CL (ss i : Nat) : Nat := sessKey ss + (0x9140 + 4 * i)
abbrev SESS_IRQ_CL.PAGES (ss i : Nat) : Fld := ⟨(SESS_IRQ_CL ss i), 0, 32⟩
abbrev RING_BASE (ss : Nat) : Nat := sessKey ss + (0xA100)
abbrev RING_BASE.BASE (ss : Nat) : Fld := ⟨(RING_BASE ss), 12, 22⟩
abbrev RING_HOST (ss : Nat) : Nat := sessKey ss + (0xA108)
abbrev RING_HOST.HOST (ss : Nat) : Fld := ⟨(RING_HOST ss), 6, 58⟩
abbrev RING_PARAM (ss : Nat) : Nat := sessKey ss + (0xA110)
abbrev RING_PARAM.SIZE_LOG2 (ss : Nat) : Fld := ⟨(RING_PARAM ss), 0, 5⟩
abbrev RING_PARAM.MODE (ss : Nat) : Fld := ⟨(RING_PARAM ss), 5, 1⟩
abbrev RING_PARAM.VEC (ss : Nat) : Fld := ⟨(RING_PARAM ss), 6, 5⟩
abbrev RING_PARAM.IRQ_EN (ss : Nat) : Fld := ⟨(RING_PARAM ss), 11, 1⟩
abbrev RING_PARAM.THRESH_LOG2 (ss : Nat) : Fld := ⟨(RING_PARAM ss), 12, 5⟩
abbrev RING_PARAM.COALESCE_US (ss : Nat) : Fld := ⟨(RING_PARAM ss), 17, 12⟩
abbrev RING_CTRL (ss : Nat) : Nat := sessKey ss + (0xA114)
abbrev RING_CTRL.CREATE (ss : Nat) : Fld := ⟨(RING_CTRL ss), 0, 1⟩
abbrev RING_CTRL.DESTROY (ss : Nat) : Fld := ⟨(RING_CTRL ss), 1, 1⟩
abbrev RING_RESULT (ss : Nat) : Nat := sessKey ss + (0xA118)
abbrev RING_RESULT.RING_ID (ss : Nat) : Fld := ⟨(RING_RESULT ss), 0, 20⟩
abbrev RING_RESULT.ERR (ss : Nat) : Fld := ⟨(RING_RESULT ss), 20, 4⟩
abbrev RING_RESULT.PENDING (ss : Nat) : Fld := ⟨(RING_RESULT ss), 24, 1⟩
abbrev RING_SEL (ss : Nat) : Nat := sessKey ss + (0xA11C)
abbrev RING_SEL.RING (ss : Nat) : Fld := ⟨(RING_SEL ss), 0, 20⟩
abbrev RING_DESC (ss i : Nat) : Nat := sessKey ss + (0xA120 + 4 * i)
abbrev RING_DESC.DESC (ss i : Nat) : Fld := ⟨(RING_DESC ss i), 0, 32⟩
abbrev RING_DB (ss : Nat) : Nat := sessKey ss + (0xA140)
abbrev RING_DB.RING (ss : Nat) : Fld := ⟨(RING_DB ss), 0, 20⟩
abbrev RING_DB.TAIL (ss : Nat) : Fld := ⟨(RING_DB ss) + 4, 0, 32⟩
abbrev RING_STAT : Nat := 0xA148
abbrev RING_STAT.FREE : Fld := ⟨RING_STAT, 0, 21⟩
abbrev NVM_STAT : Nat := 0xB100
abbrev NVM_STAT.BUSY : Fld := ⟨NVM_STAT, 0, 1⟩
abbrev NVM_STAT.REQUESTER : Fld := ⟨NVM_STAT, 1, 2⟩
abbrev NVM_STAT.QUEUED : Fld := ⟨NVM_STAT, 3, 7⟩
abbrev NVM_ADDR (ss : Nat) : Nat := sessKey ss + (0xB104)
abbrev NVM_ADDR.ADDR (ss : Nat) : Fld := ⟨(NVM_ADDR ss), 0, 26⟩
abbrev NVM_LEN (ss : Nat) : Nat := sessKey ss + (0xB108)
abbrev NVM_LEN.BYTES (ss : Nat) : Fld := ⟨(NVM_LEN ss), 0, 25⟩
abbrev NVM_CMD (ss : Nat) : Nat := sessKey ss + (0xB10C)
abbrev NVM_CMD.OP (ss : Nat) : Fld := ⟨(NVM_CMD ss), 0, 2⟩
abbrev NVM_CMD.GO (ss : Nat) : Fld := ⟨(NVM_CMD ss), 31, 1⟩
abbrev NVM_CMD_STAT (ss : Nat) : Nat := sessKey ss + (0xB110)
abbrev NVM_CMD_STAT.STATE (ss : Nat) : Fld := ⟨(NVM_CMD_STAT ss), 0, 2⟩
abbrev NVM_CMD_STAT.DONE (ss : Nat) : Fld := ⟨(NVM_CMD_STAT ss), 2, 1⟩
abbrev NVM_CMD_STAT.ERR (ss : Nat) : Fld := ⟨(NVM_CMD_STAT ss), 3, 3⟩
abbrev NVM_RESULT (ss : Nat) : Nat := sessKey ss + (0xB114)
abbrev NVM_RESULT.CRC (ss : Nat) : Fld := ⟨(NVM_RESULT ss), 0, 32⟩
abbrev NVM_DATA (ss i : Nat) : Nat := sessKey ss + (0xB200 + 4 * i)
abbrev NVM_DATA.DATA (ss i : Nat) : Fld := ⟨(NVM_DATA ss i), 0, 32⟩
abbrev SEC_STAT : Nat := 0x7100
abbrev SEC_STAT.LIFECYCLE : Fld := ⟨SEC_STAT, 0, 2⟩
abbrev SEC_STAT.DBG_LEVEL : Fld := ⟨SEC_STAT, 2, 2⟩
abbrev SEC_STAT.LC_ERR : Fld := ⟨SEC_STAT, 4, 1⟩
abbrev SEC_STAT.LC_BUSY : Fld := ⟨SEC_STAT, 5, 1⟩
abbrev SEC_STAT.LOCKOUT : Fld := ⟨SEC_STAT, 6, 1⟩
abbrev SEC_LC_CTRL : Nat := 0x7104
abbrev SEC_LC_CTRL.TARGET : Fld := ⟨SEC_LC_CTRL, 0, 2⟩
abbrev SEC_LC_CTRL.GO : Fld := ⟨SEC_LC_CTRL, 2, 1⟩
abbrev SEC_DBG_CTRL : Nat := 0x7108
abbrev SEC_DBG_CTRL.ALLOW : Fld := ⟨SEC_DBG_CTRL, 0, 1⟩
abbrev SEC_DBG_CTRL.LOCK : Fld := ⟨SEC_DBG_CTRL, 1, 1⟩
abbrev SEC_DBG_CTRL.CLOSE : Fld := ⟨SEC_DBG_CTRL, 2, 1⟩
abbrev SEC_AUTH : Nat := 0x710C
abbrev SEC_AUTH.FAILS : Fld := ⟨SEC_AUTH, 0, 8⟩
abbrev SEC_AUTH.LOCK_S : Fld := ⟨SEC_AUTH, 8, 12⟩
abbrev SEC_DBG_WRITES : Nat := 0x7110
abbrev SEC_DBG_WRITES.COUNT : Fld := ⟨SEC_DBG_WRITES, 0, 32⟩
abbrev SEC_OWNER_KEY (i : Nat) : Nat := 0x7140 + 4 * i
abbrev SEC_OWNER_KEY.HASH (i : Nat) : Fld := ⟨(SEC_OWNER_KEY i), 0, 32⟩
abbrev PWR_STAT : Nat := 0x8100
abbrev PWR_STAT.STATE : Fld := ⟨PWR_STAT, 0, 2⟩
abbrev PWR_STAT.TRANSITION : Fld := ⟨PWR_STAT, 2, 1⟩
abbrev PWR_STAT.THROTTLE : Fld := ⟨PWR_STAT, 3, 1⟩
abbrev PWR_STAT.HW_TRIP : Fld := ⟨PWR_STAT, 4, 1⟩
abbrev PWR_STAT.ERR : Fld := ⟨PWR_STAT, 5, 3⟩
abbrev PWR_STAT.GATED : Fld := ⟨PWR_STAT, 8, 16⟩
abbrev PWR_REQ : Nat := 0x8104
abbrev PWR_REQ.TARGET : Fld := ⟨PWR_REQ, 0, 2⟩
abbrev PWR_REQ.FORCE : Fld := ⟨PWR_REQ, 2, 1⟩
abbrev PWR_REQ.GO : Fld := ⟨PWR_REQ, 3, 1⟩
abbrev PLN_CFG : Nat := 0x8108
abbrev PLN_CFG.PERIOD_US : Fld := ⟨PLN_CFG, 0, 10⟩
abbrev PLN_CFG.AUTO_GATE : Fld := ⟨PLN_CFG, 10, 1⟩
abbrev PLN_CFG.AUTO_WAKE : Fld := ⟨PLN_CFG, 11, 1⟩
abbrev PLN_CFG.GATE_MS : Fld := ⟨PLN_CFG, 12, 12⟩
abbrev PLN_CFG.WAKE_S : Fld := ⟨PLN_CFG, 24, 8⟩
abbrev PLN_THRESH : Nat := 0x810C
abbrev PLN_THRESH.THROTTLE : Fld := ⟨PLN_THRESH, 0, 10⟩
abbrev PLN_THRESH.RESUME : Fld := ⟨PLN_THRESH, 10, 10⟩
abbrev PLN_THRESH.TRIP : Fld := ⟨PLN_THRESH, 20, 10⟩
abbrev PLN_FILT : Nat := 0x8110
abbrev PLN_FILT.KT : Fld := ⟨PLN_FILT, 0, 4⟩
abbrev PLN_FILT.KS : Fld := ⟨PLN_FILT, 4, 4⟩
abbrev PLN_SUP_WIN : Nat := 0x8114
abbrev PLN_SUP_WIN.PCT : Fld := ⟨PLN_SUP_WIN, 0, 8⟩
abbrev PLN_FW : Nat := 0x8118
abbrev PLN_FW.RUNNING : Fld := ⟨PLN_FW, 0, 1⟩
abbrev PLN_FW.SWITCHED : Fld := ⟨PLN_FW, 1, 1⟩
abbrev PLN_FW.MIN_VERSION : Fld := ⟨PLN_FW, 16, 16⟩
abbrev PLN_FW_VERSION : Nat := 0x811C
abbrev PLN_FW_VERSION.VERSION : Fld := ⟨PLN_FW_VERSION, 0, 32⟩
abbrev PLN_MBOX_CTRL : Nat := 0x8120
abbrev PLN_MBOX_CTRL.LEN : Fld := ⟨PLN_MBOX_CTRL, 0, 8⟩
abbrev PLN_MBOX_CTRL.GO : Fld := ⟨PLN_MBOX_CTRL, 8, 1⟩
abbrev PLN_MBOX_CTRL.DONE : Fld := ⟨PLN_MBOX_CTRL, 9, 1⟩
abbrev PLN_MBOX_CTRL.RSP_LEN : Fld := ⟨PLN_MBOX_CTRL, 10, 8⟩
abbrev PLN_MBOX_REQ (i : Nat) : Nat := 0x8200 + 4 * i
abbrev PLN_MBOX_REQ.DATA (i : Nat) : Fld := ⟨(PLN_MBOX_REQ i), 0, 32⟩
abbrev PLN_MBOX_RSP (i : Nat) : Nat := 0x8300 + 4 * i
abbrev PLN_MBOX_RSP.DATA (i : Nat) : Fld := ⟨(PLN_MBOX_RSP i), 0, 32⟩
abbrev SENS_SEL (ss : Nat) : Nat := sessKey ss + (0xE100)
abbrev SENS_SEL.SENSOR (ss : Nat) : Fld := ⟨(SENS_SEL ss), 0, 6⟩
abbrev SENS_DATA : Nat := 0xE104
abbrev SENS_DATA.FILTERED : Fld := ⟨SENS_DATA, 0, 16⟩
abbrev SENS_DATA.RAW : Fld := ⟨SENS_DATA, 16, 16⟩
abbrev SENS_FAULTY : Nat := 0xE108
abbrev SENS_FAULTY.FAULTY : Fld := ⟨SENS_FAULTY, 0, 48⟩
abbrev BOOT_STAT : Nat := 0x120
abbrev BOOT_STAT.PHASE : Fld := ⟨BOOT_STAT, 0, 4⟩
abbrev BOOT_STAT.READY : Fld := ⟨BOOT_STAT, 4, 1⟩
abbrev BOOT_STAT.CAUSE : Fld := ⟨BOOT_STAT, 5, 2⟩
abbrev BOOT_STAT.CONFIG_LOST : Fld := ⟨BOOT_STAT, 7, 1⟩
abbrev BOOT_STAT.REPAIR_LOST : Fld := ⟨BOOT_STAT, 8, 1⟩
abbrev BOOT_STAT.HBM_FAIL : Fld := ⟨BOOT_STAT, 9, 1⟩
abbrev BOOT_CL_FAIL : Nat := 0x124
abbrev BOOT_CL_FAIL.CLUSTERS : Fld := ⟨BOOT_CL_FAIL, 0, 16⟩
abbrev BOOT_TIME : Nat := 0x128
abbrev BOOT_TIME.US : Fld := ⟨BOOT_TIME, 0, 32⟩
/-- PAGE_IRQ_STAT of the page at base `pg` (R351). -/
abbrev PAGE_IRQ_STAT (pg : Nat) : Nat := pg + 0x1C

end Sys2Proof.Machine
end

