-- ==== Sys2Proof/Machine/RegTable.lean ====
section
/-! DEFINITION. The access and the reset value of every register, generated from the register tables of the
chapters: which bits a write changes, clears or starts an action with, and what the register holds after
power-on and PAGE_CTRL.BLOCK_RESET (00_scope.md). -/

namespace Sys2Proof.Machine

/-- Who may write a register: any session (or its own copy), the page's owner or the lane's holder (R353, R96), a
session whose present attribute is M (R357), the owner with attribute M (15), or the owner, who in SECURED
must hold attribute M (15). -/
inductive Who where
  | any | owner | attrM | ownM | ownPwr
  deriving DecidableEq, Repr

/-- One 32-bit register of a page, or an array of them. -/
structure Row where
  off : Nat
  stride : Nat
  count : Nat
  /-- one copy per session -/
  per : Bool
  /-- bits a write changes -/
  rw : Nat
  /-- bits that a write of 1 clears -/
  w1c : Nat
  /-- counts (lowest bit, width) that a write of 1 to any of their bits clears -/
  clr : List (Nat × Nat)
  /-- W1S and WO bits -/
  cmd : Nat
  /-- bits that only hardware changes -/
  ro : Nat
  reset : Nat
  who : Who
  /-- 1 the low word, 2 the high word of a 64-bit register (R10); 0 a register of 32 bits -/
  pair : Nat
  deriving DecidableEq, Repr

/-- Registers of the ctl page, part 0: CL_CONFIG, CL_STATE. -/
def rows_ctl_0 : List Row := [
  ⟨0x100, 0, 1, false, 0x0, 0x0, [], 0x0, 0xFFFFFF00, 0x8902200, .owner, 0⟩,
  ⟨0x104, 0, 1, false, 0x0, 0x7000000, [], 0x0, 0xF8FFFFFF, 0x40200, .owner, 0⟩]

/-- Registers of the dev1 page, part 0: TB_CTRL, TB_STAT, TB_REF_SEL, TB_AGE_ADJ, TB_EPOCH_COARSE, TB_REF_PHASE_ERR, TB_REF_FREQ_OFS, TB_SLEW_LIMIT, TB_REF_QUAL, TB_PATINA_CFG, TB_PATINA_A, TB_PATINA_B, TB_PATINA_STAT, TB_OP_HOURS, TB_TREE_PHASE, TB_LG_SEL, TB_LG_MEMBERS, TB_LG_CTRL, TB_LG_STAT, TB_LG_START. -/
def rows_dev1_0 : List Row := [
  ⟨0x100, 0, 1, false, 0x37, 0x0, [], 0x0, 0x0, 0x16, .owner, 0⟩,
  ⟨0x104, 0, 1, false, 0x0, 0xE0, [], 0x0, 0x11F, 0x0, .owner, 0⟩,
  ⟨0x108, 0, 1, false, 0x7, 0x0, [], 0x0, 0x0, 0x0, .owner, 0⟩,
  ⟨0x10C, 0, 1, false, 0xFFFFFFFF, 0x0, [], 0x0, 0x0, 0x0, .owner, 0⟩,
  ⟨0x110, 0, 1, false, 0x0, 0x0, [], 0x0, 0xFFFFFFFF, 0x0, .owner, 1⟩,
  ⟨0x114, 0, 1, false, 0x0, 0x0, [], 0x0, 0xFFFFFFFF, 0x0, .owner, 2⟩,
  ⟨0x118, 0, 1, false, 0x0, 0x0, [], 0x0, 0xFFFFFFFF, 0x0, .owner, 0⟩,
  ⟨0x11C, 0, 1, false, 0x0, 0x0, [], 0x0, 0xFFFFFFFF, 0x0, .owner, 0⟩,
  ⟨0x120, 0, 1, false, 0xFFFF, 0x0, [], 0x0, 0x0, 0x32, .owner, 0⟩,
  ⟨0x124, 0, 1, false, 0xFFFF, 0x0, [], 0x0, 0x0, 0x3E8, .owner, 0⟩,
  ⟨0x128, 0, 1, false, 0xFFFFFFFF, 0x0, [], 0x0, 0x0, 0x183C02D0, .owner, 0⟩,
  ⟨0x12C, 0, 1, false, 0x0, 0x0, [], 0x0, 0xFFFFFFFF, 0x0, .owner, 0⟩,
  ⟨0x130, 0, 1, false, 0x0, 0x0, [], 0x0, 0xFFFFFFFF, 0x0, .owner, 0⟩,
  ⟨0x134, 0, 1, false, 0x0, 0x0, [], 0x0, 0xFFFFFFFF, 0x0, .owner, 0⟩,
  ⟨0x138, 0, 1, false, 0x0, 0x0, [], 0x0, 0xFFFFFFFF, 0x0, .owner, 0⟩,
  ⟨0x140, 4, 16, false, 0x0, 0x0, [], 0x0, 0x3FFFFF, 0x800, .owner, 0⟩,
  ⟨0x180, 0, 1, true, 0x1F3F, 0x0, [], 0x0, 0x0, 0x0, .any, 0⟩,
  ⟨0x184, 0, 1, false, 0xFFFFFFFF, 0x0, [], 0x0, 0x0, 0x0, .any, 0⟩,
  ⟨0x188, 0, 1, false, 0xFF0C, 0x0, [], 0x73, 0x0, 0x0, .any, 0⟩,
  ⟨0x18C, 0, 1, false, 0x0, 0x0, [], 0x0, 0xFFFDFF, 0x0, .any, 0⟩,
  ⟨0x190, 0, 1, false, 0xFFFFFFFF, 0x0, [], 0x0, 0x0, 0x0, .any, 1⟩,
  ⟨0x194, 0, 1, false, 0xFFFFFFFF, 0x0, [], 0x0, 0x0, 0x0, .any, 2⟩]

/-- Registers of the dev2 page, part 0: DIRUM_ID, DIRUM_CTRL, DIRUM_STAT, DIRUM_EPOCH_LOAD, DIRUM_SYNC_STAMP, DIRUM_MON_STAMP, DIRUM_HB_PHASE, DIRUM_HB_SPREAD, DIRUM_PULSE_CNT. -/
def rows_dev2_0 : List Row := [
  ⟨0x100, 0, 1, false, 0x0, 0x0, [], 0x0, 0xFFF, 0x0, .owner, 0⟩,
  ⟨0x104, 0, 1, false, 0x71, 0x0, [], 0xE, 0x0, 0x41, .owner, 0⟩,
  ⟨0x108, 0, 1, false, 0x0, 0x36, [], 0x0, 0x9, 0x0, .owner, 0⟩,
  ⟨0x110, 0, 1, false, 0xFFFFFFFC, 0x0, [], 0x0, 0x0, 0x0, .owner, 1⟩,
  ⟨0x114, 0, 1, false, 0xFFFFFFFF, 0x0, [], 0x0, 0x0, 0x0, .owner, 2⟩,
  ⟨0x118, 0, 1, false, 0x0, 0x0, [], 0x0, 0xFFFFFFFF, 0x0, .owner, 1⟩,
  ⟨0x11C, 0, 1, false, 0x0, 0x0, [], 0x0, 0xFFFFFFFF, 0x0, .owner, 2⟩,
  ⟨0x120, 0, 1, false, 0x0, 0x0, [], 0x0, 0xFFFFFFFF, 0x0, .owner, 1⟩,
  ⟨0x124, 0, 1, false, 0x0, 0x0, [], 0x0, 0xFFFFFFFF, 0x0, .owner, 2⟩,
  ⟨0x128, 0, 1, false, 0x0, 0x0, [], 0x0, 0x80FFFFFF, 0x0, .owner, 0⟩,
  ⟨0x12C, 0, 1, false, 0x0, 0x0, [], 0x0, 0xFFFF, 0x0, .owner, 0⟩,
  ⟨0x130, 0, 1, false, 0x0, 0x0, [], 0x0, 0xFFFFFFFF, 0x0, .owner, 0⟩]

/-- Registers of the ch page, part 0: LANE_CFG, LANE_DESKEW_DRV, LANE_DESKEW_DEN, LANE_DESKEW_STB, LANE_SERVED, LANE_STAT, LANE_CNT, LANE_CNT2, LANE_EVT_CFG, LANE_STB_RESULT, LANE_SW_DELAY, LANE_SW_CTRL, LANE_SW_WIDTH, LANE_GATE, LANE_TRIG_CFG, LANE_TRIG_DELAY, LANE_TRIG_WIDTH, LANE_TRIG_REFRACT, LANE_TRIG_STAT, PROG_CTX_SEL, PROG_CTX_DATA0, PROG_CTX_DATA1, PROG_CTX_DATA2. -/
def rows_ch_0 : List Row := [
  ⟨0x100, 0, 1, false, 0x7, 0x0, [], 0x0, 0x0, 0x0, .owner, 0⟩,
  ⟨0x104, 0, 1, false, 0xFFFFF, 0x0, [], 0x0, 0x0, 0x0, .owner, 0⟩,
  ⟨0x108, 0, 1, false, 0xFFFFF, 0x0, [], 0x0, 0x0, 0x0, .owner, 0⟩,
  ⟨0x10C, 0, 1, false, 0xFFFFF, 0x0, [], 0x0, 0x0, 0x0, .owner, 0⟩,
  ⟨0x110, 0, 1, false, 0x0, 0x0, [], 0x0, 0x7FF, 0x0, .owner, 0⟩,
  ⟨0x114, 0, 1, false, 0x0, 0x3F, [], 0x0, 0x7FFC0, 0x0, .owner, 0⟩,
  ⟨0x118, 0, 1, false, 0x0, 0x0, [(0, 16), (16, 16)], 0x0, 0x0, 0x0, .owner, 0⟩,
  ⟨0x11C, 0, 1, false, 0x0, 0x0, [(0, 16), (16, 16)], 0x0, 0x0, 0x0, .owner, 0⟩,
  ⟨0x120, 0, 1, false, 0xF, 0x0, [], 0x0, 0x0, 0x0, .owner, 0⟩,
  ⟨0x124, 0, 1, false, 0x0, 0x0, [], 0x0, 0x3F, 0x0, .owner, 0⟩,
  ⟨0x128, 0, 1, false, 0xFFFFFFFF, 0x0, [], 0x0, 0x0, 0x10000, .owner, 1⟩,
  ⟨0x12C, 0, 1, false, 0xFFFFFFFF, 0x0, [], 0x0, 0x0, 0x0, .owner, 2⟩,
  ⟨0x130, 0, 1, false, 0x13F, 0x0, [], 0x10000, 0x0, 0x0, .owner, 0⟩,
  ⟨0x134, 0, 1, false, 0xFFFFFF, 0x0, [], 0x0, 0x0, 0xA3E, .owner, 0⟩,
  ⟨0x138, 0, 1, false, 0x0, 0x0, [], 0x0, 0x3F, 0x3F, .owner, 0⟩,
  ⟨0x140, 32, 4, false, 0x3FF, 0x0, [], 0x0, 0x0, 0x0, .owner, 0⟩,
  ⟨0x144, 32, 4, false, 0xFFFFFFFF, 0x0, [], 0x0, 0x0, 0x10000, .owner, 1⟩,
  ⟨0x148, 32, 4, false, 0xFFFFFFFF, 0x0, [], 0x0, 0x0, 0x0, .owner, 2⟩,
  ⟨0x14C, 32, 4, false, 0xFFFFFF, 0x0, [], 0x0, 0x0, 0xA3E, .owner, 0⟩,
  ⟨0x150, 32, 4, false, 0xFFFFFF, 0x0, [], 0x0, 0x0, 0x0, .owner, 0⟩,
  ⟨0x154, 32, 4, false, 0x0, 0x6, [(8, 8)], 0x0, 0xFFFF0001, 0x0, .owner, 0⟩,
  ⟨0x1C0, 0, 1, false, 0x1FF, 0x0, [], 0x0, 0x0, 0x0, .owner, 0⟩,
  ⟨0x1C4, 0, 1, false, 0xFFFFFFFF, 0x0, [], 0x0, 0x0, 0x0, .owner, 0⟩,
  ⟨0x1C8, 0, 1, false, 0xFFFFFFFF, 0x0, [], 0x0, 0x0, 0x0, .owner, 0⟩,
  ⟨0x1CC, 0, 1, false, 0xFFFFFFFF, 0x0, [], 0x0, 0x0, 0x0, .owner, 0⟩]

/-- Registers of the ch page, part 1: PROG_CTX_DATA3, PROG_CTRL, PROG_ENTRY, PROG_STAT, PROG_START, PROG_PC, PROG_FAIL_CNT, PROG_FIRST_FAIL, PROG_RING, PROG_CNT, CH_PHYS_STAT, CH_PATH_DRV, CH_PATH_DEN, CH_PATH_CMP, CH_TBL_SEL, CH_TBL_DATA0, CH_TBL_DATA1, CH_CAL_INFO, CH_EDGE_CNT. -/
def rows_ch_1 : List Row := [
  ⟨0x1D0, 0, 1, false, 0xFFFFFFFF, 0x0, [], 0x0, 0x0, 0x0, .owner, 0⟩,
  ⟨0x1D4, 0, 1, false, 0xFF38, 0x0, [], 0x7, 0x0, 0x0, .owner, 0⟩,
  ⟨0x1D8, 0, 1, false, 0xFFFFFF, 0x0, [], 0x0, 0x0, 0x0, .owner, 0⟩,
  ⟨0x1DC, 0, 1, false, 0x0, 0x100000F8, [], 0x0, 0xFFFFF07, 0x0, .owner, 0⟩,
  ⟨0x1E0, 0, 1, false, 0xFFFFFFFF, 0x0, [], 0x0, 0x0, 0x0, .owner, 1⟩,
  ⟨0x1E4, 0, 1, false, 0xFFFFFFFF, 0x0, [], 0x0, 0x0, 0x0, .owner, 2⟩,
  ⟨0x1E8, 0, 1, false, 0x0, 0x0, [], 0x0, 0xFFFFFF, 0x0, .owner, 0⟩,
  ⟨0x1EC, 0, 1, false, 0x0, 0x0, [], 0x0, 0xFFFFFFFF, 0x0, .owner, 0⟩,
  ⟨0x1F0, 0, 1, false, 0x0, 0x0, [], 0x0, 0xFFFFFFFF, 0x0, .owner, 1⟩,
  ⟨0x1F4, 0, 1, false, 0x0, 0x0, [], 0x0, 0xFFFFFFFF, 0x0, .owner, 2⟩,
  ⟨0x1F8, 0, 1, false, 0xFFFFF, 0x0, [], 0x0, 0x0, 0x0, .owner, 0⟩,
  ⟨0x1FC, 0, 1, false, 0x0, 0x0, [(0, 16), (16, 16)], 0x0, 0x0, 0x0, .owner, 0⟩,
  ⟨0x200, 0, 1, false, 0x0, 0x0, [], 0x0, 0x7FFFFF, 0x0, .owner, 0⟩,
  ⟨0x204, 0, 1, false, 0x0, 0x0, [], 0x0, 0x1FFF, 0x0, .owner, 0⟩,
  ⟨0x208, 0, 1, false, 0x0, 0x0, [], 0x0, 0x1FFF, 0x0, .owner, 0⟩,
  ⟨0x20C, 0, 1, false, 0x0, 0x0, [], 0x0, 0x1FFF, 0x0, .owner, 0⟩,
  ⟨0x210, 0, 1, true, 0x1FF0F, 0x0, [], 0x0, 0x0, 0x0, .any, 0⟩,
  ⟨0x214, 0, 1, false, 0x0, 0x0, [], 0x0, 0xFFFFFFFF, 0x0, .any, 0⟩,
  ⟨0x218, 0, 1, false, 0x0, 0x0, [], 0x0, 0xFFFFFF, 0x0, .any, 0⟩,
  ⟨0x220, 0, 1, false, 0x0, 0x0, [], 0x0, 0xFFFFFFFF, 0xFFFF0000, .owner, 0⟩,
  ⟨0x240, 4, 6, false, 0x0, 0x0, [], 0x0, 0xFFFFFFFF, 0x0, .owner, 0⟩]

/-- Registers of the seq page, part 0: SEQ_CTRL, SEQ_STAT, SEQ_IMG_ID, SEQ_IMG_CRC, SEQ_LOAD_SRC, SEQ_LOAD_LEN, SEQ_LOAD_CTRL, SEQ_LOAD_STAT, SEQ_MCHK_INFO, SEQ_MCHK_WORD, SEQ_SVC_CNT, SEQ_LAT_MAX, SEQ_REQ. -/
def rows_seq_0 : List Row := [
  ⟨0x100, 0, 1, false, 0x3FF, 0x0, [], 0x400, 0x0, 0x200, .owner, 0⟩,
  ⟨0x104, 0, 1, false, 0x0, 0x60, [], 0x0, 0x1F, 0x0, .owner, 0⟩,
  ⟨0x108, 0, 1, false, 0x0, 0x0, [], 0x0, 0xFFFFFFFF, 0x0, .owner, 0⟩,
  ⟨0x10C, 0, 1, false, 0x0, 0x0, [], 0x0, 0xFFFFFFFF, 0x0, .owner, 0⟩,
  ⟨0x110, 0, 1, false, 0xFFFFFFC0, 0x0, [], 0x0, 0x0, 0x0, .owner, 1⟩,
  ⟨0x114, 0, 1, false, 0xFFFFFFFF, 0x0, [], 0x0, 0x0, 0x0, .owner, 2⟩,
  ⟨0x118, 0, 1, false, 0x7FFF, 0x0, [], 0x0, 0x0, 0x0, .owner, 0⟩,
  ⟨0x11C, 0, 1, false, 0xFA, 0x0, [], 0x5, 0x0, 0x0, .owner, 0⟩,
  ⟨0x120, 0, 1, false, 0x0, 0x8, [], 0x0, 0x7FFF7, 0x0, .owner, 0⟩,
  ⟨0x124, 0, 1, false, 0x0, 0x0, [], 0x0, 0x8FFFFFFF, 0x0, .owner, 0⟩,
  ⟨0x128, 0, 1, false, 0x0, 0x0, [], 0x0, 0xFFFFFFFF, 0x0, .owner, 1⟩,
  ⟨0x12C, 0, 1, false, 0x0, 0x0, [], 0x0, 0xFF, 0x0, .owner, 2⟩,
  ⟨0x130, 0, 1, false, 0x0, 0x0, [(16, 16)], 0x0, 0x1FFF, 0x0, .owner, 0⟩,
  ⟨0x134, 0, 1, false, 0x0, 0x0, [(0, 10)], 0x0, 0x0, 0x0, .owner, 0⟩,
  ⟨0x138, 0, 1, false, 0x0, 0x0, [], 0x0, 0x3FF, 0x0, .owner, 0⟩]

/-- Registers of the pool page, part 0: TMU_POOL_CFG, TMU_POOL_STAT, TMU_POOL_TMO, TMU_INJ_CTRL, TMU_INJ_RING, TMU_INJ_TCODE, TMU_POOL_DROP, TMU_POOL_MAP, TMU_SLOT_CFG, TMU_SLOT_TAG, TMU_SLOT_RING, TMU_SLOT_OFS, TMU_SLOT_TMO, TMU_SLOT_STAT, TMU_ARB_CFG, TMU_ARB_STAT, TMU_ARB_CNT, TMU_ARB_WAIT_MAX, TMU_ARB_WEIGHT, TMU_ARB_LANE. -/
def rows_pool_0 : List Row := [
  ⟨0x100, 0, 1, false, 0xFFFFFF, 0x0, [], 0x0, 0x0, 0x1005A0, .owner, 0⟩,
  ⟨0x104, 0, 1, false, 0x0, 0x4000, [], 0x0, 0x3FFF, 0x2020, .owner, 0⟩,
  ⟨0x108, 0, 1, false, 0xFFFFFFFF, 0x0, [], 0x0, 0x0, 0x30D400, .owner, 1⟩,
  ⟨0x10C, 0, 1, false, 0xFF, 0x0, [], 0x0, 0x0, 0x0, .owner, 2⟩,
  ⟨0x110, 0, 1, true, 0x1FFFFFFF, 0x0, [], 0x80000000, 0x0, 0x0, .any, 0⟩,
  ⟨0x114, 0, 1, true, 0xFFFFF, 0x0, [], 0x0, 0x0, 0x0, .any, 0⟩,
  ⟨0x118, 0, 1, true, 0xFFFFFFFF, 0x0, [], 0x0, 0x0, 0x0, .any, 1⟩,
  ⟨0x11C, 0, 1, true, 0xFFFFF, 0x0, [], 0x0, 0x0, 0x0, .any, 2⟩,
  ⟨0x120, 0, 1, false, 0x0, 0x0, [], 0x0, 0xFFFFFFFF, 0x0, .owner, 0⟩,
  ⟨0x140, 4, 32, false, 0x0, 0x0, [], 0x0, 0x7F, 0x40, .owner, 0⟩,
  ⟨0x200, 64, 32, false, 0xFFFFF7F, 0x0, [], 0x0, 0x0, 0x0, .any, 0⟩,
  ⟨0x204, 64, 32, false, 0xFF, 0x0, [], 0x0, 0x0, 0x0, .any, 0⟩,
  ⟨0x208, 64, 32, false, 0xFFFFF, 0x0, [], 0x0, 0x0, 0x0, .any, 0⟩,
  ⟨0x20C, 64, 32, false, 0xFFFFFFFF, 0x0, [], 0x0, 0x0, 0x10000, .any, 1⟩,
  ⟨0x210, 64, 32, false, 0xFFFFFFFF, 0x0, [], 0x0, 0x0, 0x0, .any, 2⟩,
  ⟨0x214, 64, 32, false, 0xFFFFFFFF, 0x0, [], 0x0, 0x0, 0x0, .any, 1⟩,
  ⟨0x218, 64, 32, false, 0xFF, 0x0, [], 0x0, 0x0, 0x0, .any, 2⟩,
  ⟨0x21C, 64, 32, false, 0x0, 0x38, [(8, 8)], 0x0, 0xFFFF0007, 0x0, .any, 0⟩,
  ⟨0xA00, 0, 1, false, 0x3FF7F, 0x0, [], 0x0, 0x0, 0x21420, .owner, 0⟩,
  ⟨0xA04, 0, 1, false, 0x0, 0x0, [], 0x0, 0xFFFFF, 0x20, .owner, 0⟩,
  ⟨0xA08, 0, 1, false, 0x0, 0x0, [(0, 16), (16, 16)], 0x0, 0x0, 0x0, .owner, 0⟩,
  ⟨0xA0C, 0, 1, false, 0x0, 0x0, [(0, 24)], 0x0, 0x0, 0x0, .owner, 0⟩,
  ⟨0xA40, 4, 64, false, 0xF, 0x0, [], 0x0, 0x0, 0x1, .owner, 0⟩,
  ⟨0xB40, 4, 64, false, 0x0, 0x0, [], 0x0, 0xFFFF, 0x0, .owner, 0⟩]

/-- Registers of the tmu page, part 0: TMU_STAT, TMU_REF, TMU_IDAC, TMU_CD_SEL, TMU_CD_DATA, TMU_CD_INFO, TMU_PATH_SEL, TMU_PATH_DATA, TMU_CNT, TMU_RAMP_CNT. -/
def rows_tmu_0 : List Row := [
  ⟨0x100, 0, 1, false, 0x0, 0x0, [], 0x0, 0x7FFF, 0x280, .owner, 0⟩,
  ⟨0x104, 4, 2, false, 0x0, 0x0, [], 0x0, 0xFFFFFF, 0x0, .owner, 0⟩,
  ⟨0x10C, 4, 2, false, 0x0, 0x0, [], 0x0, 0x3FF, 0x200, .owner, 0⟩,
  ⟨0x120, 0, 1, true, 0x3FFF, 0x0, [], 0x0, 0x0, 0x0, .any, 0⟩,
  ⟨0x124, 0, 1, false, 0x0, 0x0, [], 0x0, 0x3FFFF, 0x0, .owner, 0⟩,
  ⟨0x128, 4, 2, false, 0x0, 0x0, [], 0x0, 0xFFFFFFFF, 0xFFFF0000, .owner, 0⟩,
  ⟨0x130, 0, 1, true, 0xFF, 0x0, [], 0x0, 0x0, 0x0, .any, 0⟩,
  ⟨0x134, 0, 1, false, 0x0, 0x0, [], 0x0, 0x1FFF, 0x0, .owner, 0⟩,
  ⟨0x140, 0, 1, false, 0x0, 0x0, [], 0x0, 0xFFFFFFFF, 0x0, .owner, 0⟩,
  ⟨0x144, 0, 1, false, 0x0, 0x0, [], 0x0, 0xFFFF, 0x0, .owner, 0⟩]

/-- Registers of the freq page, part 0: FREQ_CFG, FREQ_GATE, FREQ_STAMPS, FREQ_START, FREQ_OFS, FREQ_CTRL, FREQ_STAT, FREQ_RES_STAT, FREQ_RES_MISSED, FREQ_RES_DUP, FREQ_RES_G0, FREQ_PERIOD, FREQ_FREQ, FREQ_RESID, FREQ_UNC, FREQ_ACC_SEL. -/
def rows_freq_0 : List Row := [
  ⟨0x100, 0, 1, false, 0xFFFFFFF, 0x0, [], 0x0, 0x0, 0x2000000, .owner, 0⟩,
  ⟨0x104, 0, 1, false, 0xFFFFFFFF, 0x0, [], 0x0, 0x0, 0x30D400, .owner, 1⟩,
  ⟨0x108, 0, 1, false, 0xFF, 0x0, [], 0x0, 0x0, 0x0, .owner, 2⟩,
  ⟨0x10C, 0, 1, false, 0x1FFFF, 0x0, [], 0x0, 0x0, 0x400, .owner, 0⟩,
  ⟨0x110, 0, 1, false, 0xFFFFFFFF, 0x0, [], 0x0, 0x0, 0x0, .owner, 1⟩,
  ⟨0x114, 0, 1, false, 0xFFFFFFFF, 0x0, [], 0x0, 0x0, 0x0, .owner, 2⟩,
  ⟨0x118, 0, 1, false, 0xFFFFFFFF, 0x0, [], 0x0, 0x0, 0x10000, .owner, 1⟩,
  ⟨0x11C, 0, 1, false, 0xFFFFFFFF, 0x0, [], 0x0, 0x0, 0x0, .owner, 2⟩,
  ⟨0x120, 0, 1, false, 0x0, 0x0, [], 0x7, 0x0, 0x0, .owner, 0⟩,
  ⟨0x124, 0, 1, false, 0x0, 0x7C, [], 0x0, 0x3, 0x0, .owner, 0⟩,
  ⟨0x140, 0, 1, false, 0x0, 0x20000, [], 0x0, 0xFFDFFFF, 0x0, .owner, 0⟩,
  ⟨0x144, 0, 1, false, 0x0, 0x0, [], 0x0, 0x1FFFF, 0x0, .owner, 0⟩,
  ⟨0x148, 0, 1, false, 0x0, 0x0, [], 0x0, 0x1FFFF, 0x0, .owner, 0⟩,
  ⟨0x150, 0, 1, false, 0x0, 0x0, [], 0x0, 0xFFFFFFFF, 0x0, .owner, 1⟩,
  ⟨0x154, 0, 1, false, 0x0, 0x0, [], 0x0, 0xFFFFFFFF, 0x0, .owner, 2⟩,
  ⟨0x160, 0, 1, false, 0x0, 0x0, [], 0x0, 0xFFFFFFFF, 0x0, .owner, 0⟩,
  ⟨0x164, 0, 1, false, 0x0, 0x0, [], 0x0, 0xFFFFFFFF, 0x0, .owner, 0⟩,
  ⟨0x168, 0, 1, false, 0x0, 0x0, [], 0x0, 0xFFFFFFFF, 0x0, .owner, 0⟩,
  ⟨0x170, 0, 1, false, 0x0, 0x0, [], 0x0, 0xFFFFFFFF, 0x0, .owner, 0⟩,
  ⟨0x174, 0, 1, false, 0x0, 0x0, [], 0x0, 0xFFFFFFFF, 0x0, .owner, 0⟩,
  ⟨0x178, 0, 1, false, 0x0, 0x0, [], 0x0, 0xFFFFFFFF, 0x0, .owner, 0⟩,
  ⟨0x17C, 0, 1, false, 0x0, 0x0, [], 0x0, 0xFFFFFFFF, 0x0, .owner, 0⟩,
  ⟨0x180, 0, 1, false, 0x0, 0x0, [], 0x0, 0xFFFFFFFF, 0x0, .owner, 1⟩,
  ⟨0x184, 0, 1, false, 0x0, 0x0, [], 0x0, 0xFFFFFFFF, 0x0, .owner, 2⟩,
  ⟨0x1A0, 0, 1, true, 0x7, 0x0, [], 0x0, 0x0, 0x0, .any, 0⟩]

/-- Registers of the freq page, part 1: FREQ_ACC_DATA. -/
def rows_freq_1 : List Row := [
  ⟨0x1A4, 4, 4, false, 0x0, 0x0, [], 0x0, 0xFFFFFFFF, 0x0, .owner, 0⟩]

/-- Registers of the arm page, part 0: ARM_FIRE, ARM_STAT, ARM_OWN_SEL, ARM_OWN_CTRL, ARM_OWN, ARM_HEALTH, ARM_CNT_SEL, ARM_CNT0, ARM_CNT1, ARM_GIN. -/
def rows_arm_0 : List Row := [
  ⟨0x100, 0, 1, false, 0x0, 0x0, [], 0xFFFF, 0x0, 0x0, .any, 0⟩,
  ⟨0x104, 0, 1, true, 0x0, 0x7, [], 0x0, 0x3FFF8, 0x0, .any, 0⟩,
  ⟨0x108, 0, 1, true, 0x3FF, 0x0, [], 0x0, 0x0, 0x0, .any, 0⟩,
  ⟨0x10C, 0, 1, true, 0x0, 0x0, [], 0xF, 0x0, 0x0, .any, 0⟩,
  ⟨0x110, 0, 1, false, 0x0, 0x0, [], 0x0, 0x7FF, 0x0, .any, 0⟩,
  ⟨0x114, 0, 1, true, 0x0, 0x3, [(16, 16)], 0x0, 0x7FC, 0x0, .any, 0⟩,
  ⟨0x118, 0, 1, true, 0x1FF, 0x0, [], 0x0, 0x0, 0x100, .any, 0⟩,
  ⟨0x11C, 0, 1, false, 0x0, 0x0, [(0, 16)], 0x0, 0xFFFF0000, 0x0, .any, 0⟩,
  ⟨0x120, 0, 1, false, 0x0, 0x0, [(0, 16)], 0x0, 0x0, 0x0, .any, 0⟩,
  ⟨0x180, 4, 32, false, 0x7F, 0x0, [], 0x0, 0x0, 0x0, .any, 0⟩]

/-- Registers of the dev12 page, part 0: GL_SEL, GL_CTRL, GL_DRV, GL_STAT, GL_ERR, GL_EVT_CNT, GL_FREE, GM_COL_STAT. -/
def rows_dev12_0 : List Row := [
  ⟨0x100, 0, 1, true, 0x3F, 0x0, [], 0x0, 0x0, 0x0, .any, 0⟩,
  ⟨0x104, 0, 1, true, 0x0, 0x0, [], 0x3F, 0x0, 0x0, .any, 0⟩,
  ⟨0x108, 0, 1, true, 0x1FF, 0x0, [], 0x0, 0x0, 0x0, .any, 0⟩,
  ⟨0x10C, 0, 1, false, 0x0, 0x0, [], 0x0, 0x7FFFFFF, 0x0, .any, 0⟩,
  ⟨0x110, 0, 1, true, 0x0, 0x0, [], 0x0, 0x1F, 0x0, .any, 0⟩,
  ⟨0x114, 0, 1, false, 0x0, 0x0, [], 0x0, 0xFFFFFFFF, 0x0, .any, 0⟩,
  ⟨0x118, 0, 1, false, 0x0, 0x0, [], 0x0, 0x7F, 0x40, .any, 0⟩,
  ⟨0x200, 4, 128, false, 0x0, 0x1, [(8, 8)], 0x0, 0xFFFF0000, 0x0, .any, 0⟩]

/-- Registers of the dev3 page, part 0: CAL_CTRL, CAL_BG_CFG, CAL_STAT, CAL_BANK_STAT, CAL_BANK_SEQ_A, CAL_BANK_SEQ_B, CAL_CMD, CAL_ARG, CAL_CMD_STAT, CAL_CMD_CNT, CAL_LAST_REJ, CAL_EXT_CFG, CAL_EXT_CHI, CAL_UNIT_SEL, CAL_UNIT_INFO. -/
def rows_dev3_0 : List Row := [
  ⟨0x100, 0, 1, false, 0x7FFFF07, 0x0, [], 0x0, 0x0, 0x40A1400, .owner, 0⟩,
  ⟨0x104, 0, 1, false, 0xF, 0x0, [], 0x0, 0x0, 0x2, .owner, 0⟩,
  ⟨0x108, 0, 1, false, 0x0, 0x0, [], 0x0, 0x3FFF, 0x0, .owner, 0⟩,
  ⟨0x10C, 0, 1, false, 0x0, 0x0, [], 0x0, 0x3, 0x0, .owner, 0⟩,
  ⟨0x110, 0, 1, false, 0x0, 0x0, [], 0x0, 0xFFFFFFFF, 0x0, .owner, 0⟩,
  ⟨0x114, 0, 1, false, 0x0, 0x0, [], 0x0, 0xFFFFFFFF, 0x0, .owner, 0⟩,
  ⟨0x120, 0, 1, true, 0x1FF, 0x0, [], 0x80000000, 0x0, 0x0, .any, 0⟩,
  ⟨0x124, 0, 1, true, 0xFFFFFFFF, 0x0, [], 0x0, 0x0, 0x0, .any, 1⟩,
  ⟨0x128, 0, 1, true, 0xFFFFFFFF, 0x0, [], 0x0, 0x0, 0x0, .any, 2⟩,
  ⟨0x12C, 0, 1, true, 0x0, 0x40, [], 0x0, 0x3F, 0x0, .any, 0⟩,
  ⟨0x130, 0, 1, true, 0x0, 0x0, [], 0x0, 0xFFFFFFFF, 0x0, .any, 0⟩,
  ⟨0x134, 0, 1, true, 0x0, 0x0, [], 0x0, 0x7FFFF, 0x0, .any, 0⟩,
  ⟨0x138, 0, 1, true, 0xFF, 0x0, [], 0x0, 0x0, 0x0, .any, 0⟩,
  ⟨0x13C, 0, 1, true, 0x0, 0x0, [], 0x0, 0xFFFFF, 0x0, .any, 0⟩,
  ⟨0x140, 0, 1, true, 0x7FFF, 0x0, [], 0x0, 0x0, 0x0, .any, 0⟩,
  ⟨0x144, 0, 1, false, 0x0, 0x0, [], 0x0, 0x1FFFFFF, 0x0, .owner, 0⟩]

/-- Registers of the dev4 page, part 0: PE_CFG, PE_STAT, PE_GEN, PE_HBM_BUDGET, PE_HBM_FREE, PE_SWAP_CNT, PE_REQ, PE_REQ_STAT, PE_PLAN_GEN, PE_PLAN_SEL, PE_PLAN_DATA, PE_LANE_SEL, PE_LANE_INFO, PE_HBM_REQ, PE_HBM_RATE, PE_HBM_HANDLE, PE_HBM_ADDR, PE_REQ_LANES. -/
def rows_dev4_0 : List Row := [
  ⟨0x100, 0, 1, false, 0xFF03, 0x0, [], 0x0, 0x0, 0x1003, .owner, 0⟩,
  ⟨0x104, 0, 1, false, 0x0, 0x0, [], 0x0, 0x7FF001F, 0x0, .owner, 0⟩,
  ⟨0x108, 0, 1, false, 0x0, 0x0, [], 0x0, 0xFFFFFFFF, 0x0, .owner, 0⟩,
  ⟨0x10C, 0, 1, false, 0xFFFFFF, 0x0, [], 0x0, 0x0, 0x32000, .owner, 0⟩,
  ⟨0x110, 0, 1, false, 0x0, 0x0, [], 0x0, 0xFF1FFF, 0x801F00, .owner, 0⟩,
  ⟨0x114, 0, 1, false, 0x0, 0x0, [], 0x0, 0xFFFFFFFF, 0x0, .owner, 0⟩,
  ⟨0x140, 0, 1, true, 0xFFFFFF, 0x0, [], 0x80000000, 0x0, 0xFC0, .any, 0⟩,
  ⟨0x144, 0, 1, true, 0x0, 0x80004, [], 0x0, 0x7FFFB, 0x0, .any, 0⟩,
  ⟨0x148, 0, 1, true, 0x0, 0x0, [], 0x0, 0xFFFFFFFF, 0x0, .any, 0⟩,
  ⟨0x14C, 0, 1, true, 0x3FF, 0x0, [], 0x0, 0x0, 0x0, .any, 0⟩,
  ⟨0x150, 0, 1, true, 0x0, 0x0, [], 0x0, 0x3FFFF, 0x0, .any, 0⟩,
  ⟨0x154, 0, 1, true, 0x3FF, 0x0, [], 0x0, 0x0, 0x0, .any, 0⟩,
  ⟨0x158, 0, 1, true, 0x0, 0x0, [], 0x0, 0x3FFFFF, 0x0, .any, 0⟩,
  ⟨0x160, 0, 1, true, 0x7FFF, 0x0, [], 0x0, 0x0, 0x0, .any, 0⟩,
  ⟨0x164, 0, 1, true, 0xFFFFFF, 0x0, [], 0x0, 0x0, 0x0, .any, 0⟩,
  ⟨0x168, 0, 1, true, 0xFFFF, 0x0, [], 0x0, 0x0, 0x0, .any, 0⟩,
  ⟨0x170, 0, 1, true, 0x0, 0x0, [], 0x0, 0xFFFFFFFF, 0x0, .any, 1⟩,
  ⟨0x174, 0, 1, true, 0x0, 0x0, [], 0x0, 0xFFFFFFFF, 0x0, .any, 2⟩,
  ⟨0x180, 4, 32, true, 0xFFFFFFFF, 0x0, [], 0x0, 0x0, 0x0, .any, 0⟩]

/-- Registers of the dev13 page, part 0: HBM_SCHED_CFG, HBM_QUANTUM_CL, HBM_QUANTUM_MAINT, HBM_FLOW_SEL, HBM_FLOW_BYTES, HBM_FLOW_WAIT_MAX, HBM_QUANTUM_SESS. -/
def rows_dev13_0 : List Row := [
  ⟨0x100, 0, 1, false, 0x3FFF, 0x0, [], 0x0, 0x0, 0x810, .owner, 0⟩,
  ⟨0x104, 0, 1, false, 0xFFF, 0x0, [], 0x0, 0x0, 0x40, .owner, 0⟩,
  ⟨0x108, 0, 1, false, 0xFFF, 0x0, [], 0x0, 0x0, 0x20, .owner, 0⟩,
  ⟨0x110, 0, 1, true, 0x7F, 0x0, [], 0x0, 0x0, 0x0, .any, 0⟩,
  ⟨0x118, 0, 1, false, 0x0, 0x0, [], 0x0, 0xFFFFFFFF, 0x0, .owner, 1⟩,
  ⟨0x11C, 0, 1, false, 0x0, 0x0, [], 0x0, 0xFFFFFFFF, 0x0, .owner, 2⟩,
  ⟨0x120, 0, 1, false, 0x0, 0x0, [(0, 16)], 0x0, 0x0, 0x0, .owner, 0⟩,
  ⟨0x200, 4, 64, false, 0xFFF, 0x0, [], 0x0, 0x0, 0x10, .owner, 0⟩]

/-- Registers of the dev9 page, part 0: SESS_SELF, SESS_SEL, SESS_INFO, SESS_ATTR_SET, SESS_CTRL, SESS_RING_MAX, SESS_BAR2_MISS, SESS_IRQ_DEV, SESS_IRQ_CL, SESS_CPL_LIMIT, SESS_CPL_EXPIRED. -/
def rows_dev9_0 : List Row := [
  ⟨0x100, 0, 1, true, 0x0, 0x0, [], 0x0, 0x7FF, 0x0, .any, 0⟩,
  ⟨0x104, 0, 1, true, 0x3F, 0x0, [], 0x0, 0x0, 0x0, .any, 0⟩,
  ⟨0x108, 0, 1, false, 0x0, 0x0, [], 0x0, 0x3F, 0x0, .owner, 0⟩,
  ⟨0x10C, 0, 1, false, 0x0, 0x0, [], 0x3, 0x0, 0x0, .attrM, 0⟩,
  ⟨0x110, 0, 1, false, 0x0, 0x0, [], 0x1, 0x0, 0x0, .attrM, 0⟩,
  ⟨0x114, 0, 1, false, 0x1FFFFF, 0x0, [], 0x0, 0x0, 0x4000, .owner, 0⟩,
  ⟨0x118, 0, 1, true, 0x0, 0x0, [(0, 32)], 0x0, 0x0, 0x0, .any, 0⟩,
  ⟨0x120, 0, 1, true, 0x0, 0x0, [], 0x0, 0x7FFF, 0x0, .any, 0⟩,
  ⟨0x140, 4, 64, true, 0x0, 0x0, [], 0x0, 0xFFFFFFFF, 0x0, .any, 0⟩,
  ⟨0xF00, 0, 1, false, 0xFFFF, 0x0, [], 0x0, 0x0, 0x400, .owner, 0⟩,
  ⟨0xF04, 0, 1, true, 0x0, 0x0, [(0, 16)], 0x0, 0x0, 0x0, .any, 0⟩]

/-- Registers of the dev5 page, part 0: BIST_CTRL, BIST_STAT, BIST_CYCLE_TIME, BIST_SLICE, BIST_CNT0, BIST_CNT1, BIST_LOG_SEL, BIST_LOG_DATA0, BIST_LOG_DATA1, BIST_LOG_SIG, BIST_REPAIR_STAT, BIST_REPAIR_STAT2, BIST_CMD, BIST_CMD_STAT, BIST_TGT_SEL, BIST_TGT_INFO. -/
def rows_dev5_0 : List Row := [
  ⟨0x100, 0, 1, false, 0xFFFF000F, 0x0, [], 0x0, 0x0, 0x1900005, .owner, 0⟩,
  ⟨0x104, 0, 1, false, 0x0, 0x10, [], 0x0, 0x1FFEF, 0x8, .owner, 0⟩,
  ⟨0x108, 0, 1, false, 0x0, 0x0, [], 0x0, 0xFFFFFFFF, 0x0, .owner, 0⟩,
  ⟨0x110, 4, 2, false, 0x0, 0x0, [], 0x0, 0xFFFFFFF, 0x0, .owner, 0⟩,
  ⟨0x118, 0, 1, false, 0x0, 0x0, [], 0x0, 0xFFFFFFFF, 0x0, .owner, 0⟩,
  ⟨0x11C, 0, 1, false, 0x0, 0x0, [], 0x0, 0xFFFFFFFF, 0x0, .owner, 0⟩,
  ⟨0x120, 0, 1, true, 0x3F, 0x0, [], 0x0, 0x0, 0x0, .any, 0⟩,
  ⟨0x124, 0, 1, false, 0x0, 0x0, [], 0x0, 0xFFFFFFF, 0x0, .owner, 0⟩,
  ⟨0x128, 0, 1, false, 0x0, 0x0, [], 0x0, 0x7FFFF, 0x0, .owner, 0⟩,
  ⟨0x130, 0, 1, false, 0x0, 0x0, [], 0x0, 0xFFFFFFFF, 0x0, .owner, 1⟩,
  ⟨0x134, 0, 1, false, 0x0, 0x0, [], 0x0, 0xFFFFFFFF, 0x0, .owner, 2⟩,
  ⟨0x140, 0, 1, false, 0x0, 0x0, [], 0x0, 0xFFFFFFFF, 0x0, .owner, 0⟩,
  ⟨0x144, 0, 1, false, 0x0, 0x2, [], 0x0, 0x1, 0x0, .owner, 0⟩,
  ⟨0x150, 0, 1, false, 0x7FFFF, 0x0, [], 0x80000000, 0x0, 0x0, .owner, 0⟩,
  ⟨0x154, 0, 1, false, 0x0, 0x4, [], 0x0, 0x3B, 0x0, .owner, 0⟩,
  ⟨0x160, 0, 1, true, 0xFFFF, 0x0, [], 0x0, 0x0, 0x0, .any, 0⟩,
  ⟨0x164, 0, 1, false, 0x0, 0x0, [], 0x0, 0xFFFF03FF, 0xFFFF0000, .owner, 0⟩]

/-- Registers of the dev6 page, part 0: FLT_IRQ_CFG, FLT_STAT, FLT_WIN_SEL, FLT_HEAD, FLT_TAIL, FLT_LOST, FLT_SRC_LOST, FLT_STICKY_SUM, FLT_STICKY_INJ_SUM, FLT_INJ_MSG, FLT_INJ_CTRL, FLT_SRC_SEL, FLT_SRC_INFO, FLT_STICKY, FLT_STICKY_INJ, FLT_WIN. -/
def rows_dev6_0 : List Row := [
  ⟨0x100, 0, 1, true, 0x7, 0x0, [], 0x0, 0x0, 0x2, .any, 0⟩,
  ⟨0x104, 0, 1, false, 0x0, 0x1, [], 0x0, 0x1FFE, 0x0, .owner, 0⟩,
  ⟨0x108, 0, 1, true, 0x1, 0x0, [], 0x0, 0x0, 0x0, .any, 0⟩,
  ⟨0x10C, 0, 1, true, 0x0, 0x0, [], 0x0, 0xFFFFFFFF, 0x0, .any, 0⟩,
  ⟨0x110, 0, 1, true, 0xFFFFFFFF, 0x0, [], 0x0, 0x0, 0x0, .any, 0⟩,
  ⟨0x114, 0, 1, true, 0x0, 0x10000, [(0, 16)], 0x0, 0x0, 0x0, .any, 0⟩,
  ⟨0x118, 0, 1, false, 0x0, 0x0, [], 0x0, 0xFFFFFFFF, 0x0, .owner, 0⟩,
  ⟨0x120, 0, 1, false, 0x0, 0x0, [], 0x0, 0xFFFFFFFF, 0x0, .owner, 1⟩,
  ⟨0x124, 0, 1, false, 0x0, 0x0, [], 0x0, 0xFFFFFFFF, 0x0, .owner, 2⟩,
  ⟨0x128, 0, 1, false, 0x0, 0x0, [], 0x0, 0xFFFFFFFF, 0x0, .owner, 1⟩,
  ⟨0x12C, 0, 1, false, 0x0, 0x0, [], 0x0, 0xFFFFFFFF, 0x0, .owner, 2⟩,
  ⟨0x140, 0, 1, true, 0xFFFFFF00, 0x0, [], 0x0, 0x0, 0x0, .any, 1⟩,
  ⟨0x144, 0, 1, true, 0xFFFFFEFF, 0x0, [], 0x0, 0x0, 0x0, .any, 2⟩,
  ⟨0x148, 0, 1, true, 0x0, 0x0, [], 0x1, 0xE, 0x0, .any, 0⟩,
  ⟨0x150, 0, 1, true, 0x7FF, 0x0, [], 0x0, 0x0, 0x0, .any, 0⟩,
  ⟨0x154, 0, 1, false, 0x0, 0x0, [], 0x0, 0x7FFFFFF, 0x0, .owner, 0⟩,
  ⟨0x200, 4, 64, false, 0x0, 0xFFFFFFFF, [], 0x0, 0x0, 0x0, .owner, 0⟩,
  ⟨0x300, 4, 64, false, 0x0, 0xFFFFFFFF, [], 0x0, 0x0, 0x0, .owner, 0⟩,
  ⟨0x800, 8, 256, true, 0x0, 0x0, [], 0x0, 0xFFFFFFFF, 0x0, .any, 1⟩,
  ⟨0x804, 8, 256, true, 0x0, 0x0, [], 0x0, 0xFFFFFFFF, 0x0, .any, 2⟩]

/-- Registers of the dev0 page, part 0: CAP_PTR, ID_PART, ID_REV, ID_SERIAL, BOOT_STAT, BOOT_CL_FAIL, BOOT_TIME. -/
def rows_dev0_0 : List Row := [
  ⟨0x40, 0, 1, false, 0x0, 0x0, [], 0x0, 0xFFF, 0x20, .owner, 0⟩,
  ⟨0x100, 0, 1, false, 0x0, 0x0, [], 0x0, 0xFFFF, 0x1024, .owner, 0⟩,
  ⟨0x104, 0, 1, false, 0x0, 0x0, [], 0x0, 0xFF, 0x1, .owner, 0⟩,
  ⟨0x108, 0, 1, false, 0x0, 0x0, [], 0x0, 0xFFFFFFFF, 0x0, .owner, 1⟩,
  ⟨0x10C, 0, 1, false, 0x0, 0x0, [], 0x0, 0xFFFFFFFF, 0x0, .owner, 2⟩,
  ⟨0x120, 0, 1, false, 0x0, 0x0, [], 0x0, 0x3FF, 0x0, .owner, 0⟩,
  ⟨0x124, 0, 1, false, 0x0, 0x0, [], 0x0, 0xFFFF, 0x0, .owner, 0⟩,
  ⟨0x128, 0, 1, false, 0x0, 0x0, [], 0x0, 0xFFFFFFFF, 0x0, .owner, 0⟩]

/-- Registers of the dev10 page, part 0: RING_BASE, RING_HOST, RING_PARAM, RING_CTRL, RING_RESULT, RING_SEL, RING_DESC, RING_DB, RING_STAT. -/
def rows_dev10_0 : List Row := [
  ⟨0x100, 0, 1, true, 0xFFFFF000, 0x0, [], 0x0, 0x0, 0x0, .any, 1⟩,
  ⟨0x104, 0, 1, true, 0x3, 0x0, [], 0x0, 0x0, 0x0, .any, 2⟩,
  ⟨0x108, 0, 1, true, 0xFFFFFFC0, 0x0, [], 0x0, 0x0, 0x0, .any, 1⟩,
  ⟨0x10C, 0, 1, true, 0xFFFFFFFF, 0x0, [], 0x0, 0x0, 0x0, .any, 2⟩,
  ⟨0x110, 0, 1, true, 0x1FFFFFFF, 0x0, [], 0x0, 0x0, 0x7C8, .any, 0⟩,
  ⟨0x114, 0, 1, true, 0x0, 0x0, [], 0x3, 0x0, 0x0, .any, 0⟩,
  ⟨0x118, 0, 1, true, 0x0, 0x0, [], 0x0, 0x1FFFFFF, 0x0, .any, 0⟩,
  ⟨0x11C, 0, 1, true, 0xFFFFF, 0x0, [], 0x0, 0x0, 0x0, .any, 0⟩,
  ⟨0x120, 4, 8, true, 0x0, 0x0, [], 0x0, 0xFFFFFFFF, 0x0, .any, 0⟩,
  ⟨0x140, 0, 1, true, 0xFFFFF, 0x0, [], 0xFFFFF, 0x0, 0x0, .any, 1⟩,
  ⟨0x144, 0, 1, true, 0x0, 0x0, [], 0xFFFFFFFF, 0x0, 0x0, .any, 2⟩,
  ⟨0x148, 0, 1, false, 0x0, 0x0, [], 0x0, 0x1FFFFF, 0xFFFFF, .owner, 0⟩]

/-- Registers of the dev11 page, part 0: NVM_STAT, NVM_ADDR, NVM_LEN, NVM_CMD, NVM_CMD_STAT, NVM_RESULT, NVM_DATA. -/
def rows_dev11_0 : List Row := [
  ⟨0x100, 0, 1, false, 0x0, 0x0, [], 0x0, 0x3FF, 0x0, .owner, 0⟩,
  ⟨0x104, 0, 1, true, 0x3FFFFFF, 0x0, [], 0x0, 0x0, 0x0, .any, 0⟩,
  ⟨0x108, 0, 1, true, 0x1FFFFFF, 0x0, [], 0x0, 0x0, 0x0, .any, 0⟩,
  ⟨0x10C, 0, 1, true, 0x3, 0x0, [], 0x80000000, 0x0, 0x0, .any, 0⟩,
  ⟨0x110, 0, 1, true, 0x0, 0x4, [], 0x0, 0x3B, 0x0, .any, 0⟩,
  ⟨0x114, 0, 1, true, 0x0, 0x0, [], 0x0, 0xFFFFFFFF, 0x0, .any, 0⟩,
  ⟨0x200, 4, 64, true, 0x0, 0x0, [], 0x0, 0xFFFFFFFF, 0x0, .any, 0⟩]

/-- Registers of the dev7 page, part 0: SEC_STAT, SEC_LC_CTRL, SEC_DBG_CTRL, SEC_AUTH, SEC_DBG_WRITES, SEC_OWNER_KEY. -/
def rows_dev7_0 : List Row := [
  ⟨0x100, 0, 1, false, 0x0, 0x10, [], 0x0, 0x6F, 0x1, .ownM, 0⟩,
  ⟨0x104, 0, 1, false, 0x3, 0x0, [], 0x4, 0x0, 0x0, .ownM, 0⟩,
  ⟨0x108, 0, 1, false, 0x1, 0x0, [], 0x6, 0x0, 0x0, .ownM, 0⟩,
  ⟨0x10C, 0, 1, false, 0x0, 0x0, [], 0x0, 0xFFFFF, 0x0, .ownM, 0⟩,
  ⟨0x110, 0, 1, false, 0x0, 0x0, [], 0x0, 0xFFFFFFFF, 0x0, .ownM, 0⟩,
  ⟨0x140, 4, 12, false, 0xFFFFFFFF, 0x0, [], 0x0, 0x0, 0x0, .ownM, 0⟩]

/-- Registers of the dev8 page, part 0: PWR_STAT, PWR_REQ, PLN_CFG, PLN_THRESH, PLN_FILT, PLN_SUP_WIN, PLN_FW, PLN_FW_VERSION, PLN_MBOX_CTRL, PLN_MBOX_REQ, PLN_MBOX_RSP. -/
def rows_dev8_0 : List Row := [
  ⟨0x100, 0, 1, false, 0x0, 0x10, [], 0x0, 0xFFFFEF, 0x0, .ownPwr, 0⟩,
  ⟨0x104, 0, 1, false, 0x7, 0x0, [], 0x8, 0x0, 0x0, .ownPwr, 0⟩,
  ⟨0x108, 0, 1, false, 0xFFFFFFFF, 0x0, [], 0x0, 0x0, 0x3C0644FA, .ownPwr, 0⟩,
  ⟨0x10C, 0, 1, false, 0x3FFFFFFF, 0x0, [], 0x0, 0x0, 0x19E5C17C, .ownPwr, 0⟩,
  ⟨0x110, 0, 1, false, 0xFF, 0x0, [], 0x0, 0x0, 0x13, .ownPwr, 0⟩,
  ⟨0x114, 0, 1, false, 0xFF, 0x0, [], 0x0, 0x0, 0x5, .ownPwr, 0⟩,
  ⟨0x118, 0, 1, false, 0x0, 0x2, [], 0x0, 0xFFFF0001, 0x0, .ownPwr, 0⟩,
  ⟨0x11C, 0, 1, false, 0x0, 0x0, [], 0x0, 0xFFFFFFFF, 0x0, .ownPwr, 0⟩,
  ⟨0x120, 0, 1, false, 0xFF, 0x200, [], 0x100, 0x3FC00, 0x0, .ownPwr, 0⟩,
  ⟨0x200, 4, 64, false, 0xFFFFFFFF, 0x0, [], 0x0, 0x0, 0x0, .ownPwr, 0⟩,
  ⟨0x300, 4, 64, false, 0x0, 0x0, [], 0x0, 0xFFFFFFFF, 0x0, .ownPwr, 0⟩]

/-- Registers of the dev14 page, part 0: SENS_SEL, SENS_DATA, SENS_FAULTY. -/
def rows_dev14_0 : List Row := [
  ⟨0x100, 0, 1, true, 0x3F, 0x0, [], 0x0, 0x0, 0x0, .any, 0⟩,
  ⟨0x104, 0, 1, false, 0x0, 0x0, [], 0x0, 0xFFFFFFFF, 0x0, .owner, 0⟩,
  ⟨0x108, 0, 1, false, 0x0, 0xFFFFFFFF, [], 0x0, 0x0, 0x0, .owner, 1⟩,
  ⟨0x10C, 0, 1, false, 0x0, 0xFFFF, [], 0x0, 0x0, 0x0, .owner, 2⟩]

/-- The rows of a page (R24). -/
def pageRows : Page → List Row
  | .dev 0 => rows_dev0_0
  | .dev 1 => rows_dev1_0
  | .dev 2 => rows_dev2_0
  | .dev 3 => rows_dev3_0
  | .dev 4 => rows_dev4_0
  | .dev 5 => rows_dev5_0
  | .dev 6 => rows_dev6_0
  | .dev 7 => rows_dev7_0
  | .dev 8 => rows_dev8_0
  | .dev 9 => rows_dev9_0
  | .dev 10 => rows_dev10_0
  | .dev 11 => rows_dev11_0
  | .dev 12 => rows_dev12_0
  | .dev 13 => rows_dev13_0
  | .dev 14 => rows_dev14_0
  | .ctl _ => rows_ctl_0
  | .seq _ => rows_seq_0
  | .arm _ => rows_arm_0
  | .pool _ => rows_pool_0
  | .freq _ => rows_freq_0 ++ rows_freq_1
  | .ch _ _ => rows_ch_0 ++ rows_ch_1
  | .tmu _ _ => rows_tmu_0

end Sys2Proof.Machine
end

