-- ==== Sys2Proof/Machine/Ops.lean ====
section
/-! DEFINITION. The named operations that every meaning goes through: registers and fields (R9, R10, R20),
pages and their owners (R350 to R354), fault messages at their source (R330, R333, R340, R341), interrupts
(R362, R363), sessions, HBM and NVM bytes, and the gate that a host's access passes. -/

namespace Sys2Proof

open Machine

/-! ### Pages -/

/-- Base address of a page in BAR0 (R24). -/
def Page.base : Page → Nat
  | .dev n => 0x1000 * n
  | .ctl k => clu k
  | .seq k => clu k + 0x1000
  | .arm k => clu k + 0x5000
  | .pool k => clu k + 0x6000
  | .freq k => clu k + 0x7000
  | .ch k p => chPg k p
  | .tmu k t => tmuPg k t

/-- The cluster of a cluster page. -/
def Page.clu? : Page → Option Nat
  | .dev _ => none
  | .ctl k | .seq k | .arm k | .pool k | .freq k => some k
  | .ch k _ | .tmu k _ => some k

/-- PAGE_ID.TYPE (R354). -/
def Page.typ : Page → Nat
  | .dev n => n + 1
  | .ctl _ => 0x10
  | .seq _ => 0x11
  | .arm _ => 0x12
  | .pool _ => 0x13
  | .freq _ => 0x14
  | .ch _ _ => 0x15
  | .tmu _ _ => 0x16

/-- PAGE_ID.INSTANCE (R354). -/
def Page.inst : Page → Nat
  | .dev _ => 0
  | .ctl k | .seq k | .arm k | .pool k | .freq k => k
  | .ch _ p => p
  | .tmu _ t => t

/-- PAGE_FEAT.CLAIMABLE (R354). -/
def Page.claimable : Page → Bool
  | .dev n => n.val != 0 && n.val != 12
  | .ctl _ | .seq _ | .pool _ | .freq _ => true
  | .arm _ | .ch _ _ | .tmu _ _ => false

/-- The MSI-X vector of a page (R354). -/
def Page.vec : Page → Nat
  | .dev n => 16 + n
  | .ctl k | .seq k | .arm k | .pool k | .freq k => k
  | .ch k _ | .tmu k _ => k

/-- The page has one copy of PAGE_IRQ_EN and PAGE_IRQ_STAT per session: identity, Caliper, Pointing Engine,
self-test, fault collector, security, NVM (16, 09, 10, 12, 13, 15, 14) and Armature control (R427). -/
def Page.perIrq : Page → Bool
  | .dev n => n.val == 0 || n.val == 3 || n.val == 4 || n.val == 5 || n.val == 6 || n.val == 7 || n.val == 11
  | .arm _ => true
  | _ => false

/-- The page has interrupt sources: the chapters give some to every page but Dirum's, the time base's, the session
table's, the ring manager's, the HBM controller's, the global Armature's, the sensors' and the TMU pages'. -/
def Page.hasIrq : Page → Bool
  | .dev n => n.val == 0 || n.val == 3 || n.val == 4 || n.val == 5 || n.val == 6 || n.val == 7
      || n.val == 8 || n.val == 11
  | .ctl _ | .tmu _ _ => false
  | _ => true

/-- The page holds per-session copies of registers. -/
def Page.perSession (pg : Page) : Bool := pg.perIrq || (pageRows pg).any Row.per

/-- PAGE_CTRL is fixed at 1 (R352). -/
def Page.fixedCtrl : Page → Bool
  | .dev n => n.val == 0
  | .ch _ _ | .tmu _ _ => true
  | _ => false

/-- The fault source of a page's block (R331). -/
def Page.src : Page → Nat
  | .dev n => n
  | .ctl k => 256 + 112 * k + 107
  | .seq k => 256 + 112 * k + 103
  | .arm k => 256 + 112 * k + 104
  | .pool k => 256 + 112 * k + 102
  | .freq k => 256 + 112 * k + 105
  | .ch k p => 256 + 112 * k + p
  | .tmu k t => 256 + 112 * k + 68 + t

end Sys2Proof

namespace Sys2Proof.Machine

/-- What a BAR0 offset names (R24, R349, R350). -/
inductive Place where
  | page (pg : Page) (off : Nat)
  /-- Armature matrix window of a cluster -/
  | mx (k : Clu) (off : Nat)
  /-- control-store window -/
  | cs (k : Clu) (off : Nat)
  /-- MSI-X table of the function -/
  | msixTable (off : Nat)
  /-- MSI-X pending bit array -/
  | msixPba (off : Nat)
  | reserved
  deriving DecidableEq, Repr

/-- The place of a cluster offset. -/
def placeInCluster (k : Clu) (o : Nat) : Place :=
  if o < 0x1000 then .page (.ctl k) o
  else if o < 0x2000 then .page (.seq k) (o - 0x1000)
  else if o < 0x5000 then .mx k (o - 0x2000)
  else if o < 0x6000 then .page (.arm k) (o - 0x5000)
  else if o < 0x7000 then .page (.pool k) (o - 0x6000)
  else if o < 0x8000 then .page (.freq k) (o - 0x7000)
  else if o < 0xC000 then .cs k (o - 0x8000)
  else if o < 0x40000 then .reserved
  else if h : (o - 0x40000) / 0x1000 < 68 then .page (.ch k ⟨(o - 0x40000) / 0x1000, h⟩) (o % 0x1000)
  else if o < 0xC0000 then .reserved
  else if h : (o - 0xC0000) / 0x1000 < 34 then .page (.tmu k ⟨(o - 0xC0000) / 0x1000, h⟩) (o % 0x1000)
  else .reserved

/-- The place of a BAR0 offset. -/
def placeOf (a : Nat) : Place :=
  if h : a / 0x1000 < 15 then .page (.dev ⟨a / 0x1000, h⟩) (a % 0x1000)
  else if a < 0x1000000 then .reserved
  else if h : (a - 0x1000000) / 0x100000 < 16 then
    placeInCluster ⟨(a - 0x1000000) / 0x100000, h⟩ (a % 0x100000)
  else if a < 0x3000000 then .reserved
  else if a < 0x3001000 then .msixTable (a - 0x3000000)
  else if a < 0x3002000 then .msixPba (a - 0x3001000)
  else .reserved

/-- Base of the page whose PAGE_FLT records a source (R341); none for a source without a page. -/
def srcPage (src : Nat) : Option Nat :=
  if src < 15 then some (0x1000 * src)
  else if src < 256 then none
  else
    let k := (src - 256) / 112
    let u := (src - 256) % 112
    if 16 ≤ k then none
    else if u < 68 then some (chPg k u)
    else if u < 102 then some (tmuPg k (u - 68))
    else if u = 102 then some (clu k + 0x6000)
    else if u = 103 then some (clu k + 0x1000)
    else if u = 104 then some (clu k + 0x5000)
    else if u = 105 then some (clu k + 0x7000)
    else if u = 107 then some (clu k)
    else none

/-- Sources that R331 assigns. -/
def srcOk (src : Nat) : Bool :=
  src < 18 || (256 ≤ src && src < 256 + 112 * 16 && (src - 256) % 112 < 108)

/-! ### Reset values -/

/-- Whether register offset `o` is one of the row's registers. -/
def Row.hits (r : Row) (o : Nat) : Bool :=
  if r.count ≤ 1 then o == r.off
  else decide (r.off ≤ o) && ((o - r.off) % r.stride == 0) && decide ((o - r.off) / r.stride < r.count)

/-- The row of a register offset of a page. -/
def rowOf (pg : Page) (o : Nat) : Option Row := (pageRows pg).find? fun r => r.hits o

/-- The four words of capability entry `i` of those with the given IDs, in ascending order (R355). -/
def capWord (ids : List Nat) (i w : Nat) : Nat :=
  match ids[i]? with
  | none => 0
  | some id =>
    if w = 0 then id + 0x10000
    else if w = 1 then (if i + 1 < ids.length then 0x21 + i else 0)
    else if w = 2 then
      [0x1000, 0x1040000, 0x10C0000, 0x1007000, 0xC000, 0x3000, 0x4000, 0x5000, 0x6000, 0x7000, 0x8000, 0x3000,
        0x2000, 0x4000].getD (id - 1) 0
    else
      [16, 0x100044, 0x100022, 16, 64, 1, 1, 1, 2048, 1, 1, 1, 1, 4].getD (id - 1) 0

/-- The capability IDs present with the given options (R3). -/
def capIds (options : Nat) : List Nat :=
  [1, 2, 3, 4, 5, 6, 7, 8, 9, 10, 11]
    ++ (if options % 2 = 1 then [12] else []) ++ (if options / 2 % 2 = 1 then [13] else [])
    ++ (if options / 4 % 2 = 1 then [14] else [])

/-- Reset value of a common register (R351). -/
def commonReset (pg : Page) (o : Nat) : Nat :=
  if o = 0 then 1 + 0x100 * pg.inst + 0x10000 * pg.typ
  else if o = 4 then
    (if pg.perSession then 1 else 0) + (if pg.claimable then 2 else 0) + (if pg.hasIrq then 4 else 0)
  else if o = 8 then 1
  else 0

/-- Reset value of a page's register at offset `o` (the Reset columns of the register tables). -/
def pageReset (pg : Page) (o : Nat) : Nat :=
  if o < 0x20 then commonReset pg o
  else match rowOf pg o with
    | none => 0
    | some r =>
      match pg with
      | .ctl k => if o = 0x100 then r.reset + 0x10000000 * k else r.reset
      | .ch _ p => if 64 ≤ p.val && o < 0x200 then 0 else if o = 0x110 then p else r.reset
      | .pool _ => if 0x140 ≤ o && o < 0x1C0 then r.reset + (o - 0x140) / 4 else r.reset
      | _ => r.reset

/-- Reset value of the register with key `key`. -/
def regReset (key : Nat) : Word :=
  match placeOf (key % 0x4000000) with
  | .page pg o => BitVec.ofNat 32 (pageReset pg o)
  | _ => 0

/-! ### Registers and fields -/

/-- The register's value. -/
def Dev.reg (d : Dev) (key : Nat) : Word := tget regReset d.regs key

/-- Hardware gives the register a value. -/
def Dev.setReg (d : Dev) (key : Nat) (v : Word) : Dev := { d with regs := tput regReset d.regs key v }

/-- A 64-bit register: low word first (R10). -/
def Dev.reg64 (d : Dev) (key : Nat) : Nat := (d.reg key).toNat + 0x100000000 * (d.reg (key + 4)).toNat

/-- Hardware gives a 64-bit register a value. -/
def Dev.setReg64 (d : Dev) (key v : Nat) : Dev :=
  (d.setReg key (BitVec.ofNat 32 v)).setReg (key + 4) (BitVec.ofNat 32 (v / 0x100000000))

/-- The bits of a field in place. -/
def Fld.mask (f : Fld) : Word := BitVec.ofNat 32 (2 ^ f.w - 1) <<< f.lo

/-- The field's value. -/
def Dev.get (d : Dev) (f : Fld) : Nat :=
  if f.lo + f.w ≤ 32 then ((d.reg f.key).toNat / 2 ^ f.lo) % 2 ^ f.w
  else (d.reg64 f.key / 2 ^ f.lo) % 2 ^ f.w

/-- The word with the field holding `v`. -/
def Fld.into (f : Fld) (w : Word) (v : Nat) : Word :=
  (w &&& ~~~ f.mask) ||| ((BitVec.ofNat 32 v <<< f.lo) &&& f.mask)

/-- Hardware gives a field a value. -/
def Dev.set (d : Dev) (f : Fld) (v : Nat) : Dev :=
  if f.lo + f.w ≤ 32 then d.setReg f.key (f.into (d.reg f.key) v)
  else d.setReg64 f.key (d.reg64 f.key % 2 ^ f.lo + 2 ^ f.lo * (v % 2 ^ f.w))

/-- A one-bit field is set. -/
def Dev.on (d : Dev) (f : Fld) : Bool := d.get f == 1

/-- The field read as a two's complement number. -/
def Dev.getInt (d : Dev) (f : Fld) : Int := (BitVec.ofNat f.w (d.get f)).toInt

/-- Hardware gives a field a signed value. -/
def Dev.setInt (d : Dev) (f : Fld) (v : Int) : Dev := d.set f (BitVec.ofInt f.w v).toNat

/-- A Bool as a field value. -/
def b2n (b : Bool) : Nat := if b then 1 else 0

/-- The fabric cycle that has come (R15), counted over every epoch. -/
def Dev.cycle (d : Dev) : Nat := d.up / 4

/-- The fabric cycle of the present T0 in the epoch (R15). -/
def Dev.ecyc (d : Dev) : Nat := d.epoch / 4

/-- Hardware sets a sticky bit: a W1C write of the same fabric cycle leaves it set (R20). -/
def Dev.stick (d : Dev) (f : Fld) : Dev :=
  let old := tget (fun _ => (0, 0)) d.fresh f.key
  let m := if old.1 = d.cycle then old.2 ||| f.mask else f.mask
  { d.setReg f.key (d.reg f.key ||| f.mask) with fresh := tput (fun _ => (0, 0)) d.fresh f.key (d.cycle, m) }

/-- Hardware sets a sticky bit where the condition holds. -/
def Dev.stickIf (d : Dev) (c : Bool) (f : Fld) : Dev := if c then d.stick f else d

/-- A saturating count goes up by `n`. -/
def Dev.bump (d : Dev) (f : Fld) (n : Nat := 1) : Dev := d.set f (satAdd (2 ^ f.w - 1) (d.get f) n)

/-- A wrapping count goes up by `n`. -/
def Dev.wrapUp (d : Dev) (f : Fld) (n : Nat := 1) : Dev := d.set f ((d.get f + n) % 2 ^ f.w)

/-- A largest-seen register takes `v` where it is larger. -/
def Dev.maxUp (d : Dev) (f : Fld) (v : Nat) : Dev :=
  let v' := if v ≤ 2 ^ f.w - 1 then v else 2 ^ f.w - 1
  if d.get f < v' then d.set f v' else d

/-- The device draws a free value. -/
def Dev.draw (d : Dev) : DWord × Dev := (Config.freeValue d.free, { d with free := d.free + 1 })

/-! ### Typed parts of the state -/

def Dev.lane (d : Dev) (L : Nat) : Lane := tget (fun _ => {}) d.lanes L
def Dev.setLane (d : Dev) (L : Nat) (l : Lane) : Dev := { d with lanes := tput (fun _ => {}) d.lanes L l }
def Dev.modLane (d : Dev) (L : Nat) (f : Lane → Lane) : Dev := d.setLane L (f (d.lane L))

def Dev.cl (d : Dev) (k : Nat) : Cluster := tget (fun _ => {}) d.clusters k
def Dev.setCl (d : Dev) (k : Nat) (c : Cluster) : Dev := { d with clusters := tput (fun _ => {}) d.clusters k c }
def Dev.modCl (d : Dev) (k : Nat) (f : Cluster → Cluster) : Dev := d.setCl k (f (d.cl k))

/-- Physical channel `p` of cluster `k`. -/
def Dev.ph (d : Dev) (k p : Nat) : Phys := tget (fun _ => {}) d.phys (68 * k + p)
def Dev.setPh (d : Dev) (k p : Nat) (x : Phys) : Dev :=
  { d with phys := tput (fun _ => {}) d.phys (68 * k + p) x }
def Dev.modPh (d : Dev) (k p : Nat) (f : Phys → Phys) : Dev := d.setPh k p (f (d.ph k p))

/-- TMU `t` of cluster `k`. -/
def Dev.tmu (d : Dev) (k t : Nat) : Tmu := tget (fun _ => {}) d.tmus (34 * k + t)
def Dev.setTmu (d : Dev) (k t : Nat) (x : Tmu) : Dev :=
  { d with tmus := tput (fun _ => {}) d.tmus (34 * k + t) x }
def Dev.modTmu (d : Dev) (k t : Nat) (f : Tmu → Tmu) : Dev := d.setTmu k t (f (d.tmu k t))

def Dev.fq (d : Dev) (k : Nat) : Freq := tget (fun _ => {}) d.freqs k
def Dev.setFq (d : Dev) (k : Nat) (x : Freq) : Dev := { d with freqs := tput (fun _ => {}) d.freqs k x }
def Dev.modFq (d : Dev) (k : Nat) (f : Freq → Freq) : Dev := d.setFq k (f (d.fq k))

def Dev.lg (d : Dev) (g : Nat) : LockGroup := tget (fun _ => {}) d.lgs g
def Dev.setLg (d : Dev) (g : Nat) (x : LockGroup) : Dev := { d with lgs := tput (fun _ => {}) d.lgs g x }
def Dev.modLg (d : Dev) (g : Nat) (f : LockGroup → LockGroup) : Dev := d.setLg g (f (d.lg g))

def Dev.line (d : Dev) (g : Nat) : Line := tget (fun _ => {}) d.lines g
def Dev.setLine (d : Dev) (g : Nat) (x : Line) : Dev := { d with lines := tput (fun _ => {}) d.lines g x }
def Dev.modLine (d : Dev) (g : Nat) (f : Line → Line) : Dev := d.setLine g (f (d.line g))

def Dev.sn (d : Dev) (s : Nat) : Session := tget (fun _ => {}) d.sess s
def Dev.setSn (d : Dev) (s : Nat) (x : Session) : Dev := { d with sess := tput (fun _ => {}) d.sess s x }
def Dev.modSn (d : Dev) (s : Nat) (f : Session → Session) : Dev := d.setSn s (f (d.sn s))

def Dev.ring (d : Dev) (r : Nat) : Option Ring := tget (fun _ => none) d.rings r
def Dev.setRing (d : Dev) (r : Nat) (x : Option Ring) : Dev := { d with rings := tput (fun _ => none) d.rings r x }

def Dev.source (d : Dev) (n : Nat) : Source := tget (fun _ => {}) d.flt.sources n
def Dev.setSource (d : Dev) (n : Nat) (x : Source) : Dev :=
  { d with flt := { d.flt with sources := tput (fun _ => {}) d.flt.sources n x } }

/-! ### Sessions and owners -/

/-- The lifecycle state is RETIRED, or runs as such (R376, R401). -/
def Dev.retired (d : Dev) : Bool := d.get SEC_STAT.LIFECYCLE == 3

/-- The session's function exists, is not being reset and is not in D3hot: its accesses are performed
(R346, R347, R358); so are those of DBG_ACCESS (R379). -/
def Dev.acts (d : Dev) (ss : Nat) : Bool :=
  ((d.sn ss).live && !(d.sn ss).resetting && !(d.sn ss).d3) || d.dbg

/-- The session's present attribute: NS in RETIRED, M for a write of DBG_ACCESS (R357, R376, R379). -/
def Dev.attr (d : Dev) (ss : Nat) : Attr := if d.dbg then 2 else if d.retired then 0 else (d.sn ss).attr

/-- The attribute that claims, Armature ownership and matrix checks of this fabric cycle use: a new one applies from the next
cycle on (R357). -/
def Dev.attrHeld (d : Dev) (ss : Nat) : Attr :=
  match (d.sn ss).attrWas with
  | some (c, a) => if c = d.cycle && !d.dbg && !d.retired then a else d.attr ss
  | none => d.attr ss

/-- The capability options in force: absent while no lifecycle copy is valid (R3, R401). -/
def Dev.opts (d : Dev) : Nat := if d.on BOOT_STAT.CONFIG_LOST then 0 else d.options

/-- The session that owns a page: the holder of the lane for channel pages 0 to 63, PAGE_OWNER for claimable
pages, none for the others (R353). -/
def Dev.owner (d : Dev) (pg : Page) : Option Nat :=
  match pg with
  | .ch k p => if p.val < 64 then (d.lane (64 * k + p)).holder else none
  | _ =>
    if pg.claimable && d.on (PAGE_OWNER.OWNED pg.base) then some (d.get (PAGE_OWNER.SESSION pg.base)) else none

/-- The sessions of an option. -/
def optL (o : Option Nat) : List Nat := match o with | none => [] | some s => [s]

/-- Every session that holds a lane in cluster `k` (13, To column, C). -/
def Dev.holdersIn (d : Dev) (k : Nat) : List Nat :=
  (d.lanes.filterMap fun (L, l) => if L / 64 = k then l.holder else none).eraseDups

/-- Every session that holds any lane (13, To column, A). -/
def Dev.holdersAll (d : Dev) : List Nat := (d.lanes.filterMap fun (_, l) => l.holder).eraseDups

/-- The session owns an object with this owner; a write of DBG_ACCESS passes every ownership check (R379). -/
def Dev.isOwn (d : Dev) (ss : Nat) (o : Option Nat) : Bool := d.dbg || o == some ss

/-! ### Interrupts and MSI-X (R362, R363) -/

/-- Base address and view of a listed PAGE_IRQ_STAT key that concerns session `ss` and vector `v`. -/
def Dev.irqKey (d : Dev) (ss v key : Nat) : Bool :=
  if key % 0x1000 != 0x1C then false
  else match placeOf (key % 0x4000000) with
    | .page pg _ =>
      pg.vec == v && (if pg.perIrq then key / 0x4000000 == ss + 1
        else key / 0x4000000 == 0 && d.owner pg == some ss)
    | _ => false

/-- P(s, v): a page of vector v has a bit set in both PAGE_IRQ_STAT and PAGE_IRQ_EN in s's view (R362). -/
def Dev.irqP (d : Dev) (ss v : Nat) : Bool :=
  d.regs.any fun (key, w) => d.irqKey ss v key && ((w &&& d.reg (key - 4)) != 0)

/-- Send the message of vector `v`, or set its pending bit while something masks it (R363, R347). While MSI-X Enable is
clear nothing is sent and the pending bits keep. -/
def Dev.msix (d : Dev) (ss v : Nat) (owed : Bool := false) : Dev :=
  let s := d.sn ss
  let e := tget (fun _ => ({} : MsixVec)) s.vecs v
  if !s.live || !s.msixEn then d
  else if !e.masked && !s.fnMask && s.bme && !s.d3 then { d with out := d.out ++ [.msix ss v] }
  else d.setSn ss { s with
    vecs := tput (fun _ => {}) s.vecs v { e with pending := true, owed := e.owed || owed } }

/-- Raise interrupt source `bit` of page `pg` for session `ss` (its copy, or the shared register of which it is the
owner); the message goes out when P becomes true (R363). -/
def Dev.irqAt (d : Dev) (pg : Page) (ss : Nat) (bit : Nat) : Dev :=
  let key := if pg.perIrq then sessKey ss + PAGE_IRQ_STAT pg.base else PAGE_IRQ_STAT pg.base
  let before := d.irqP ss pg.vec
  let d' := d.stick ⟨key, bit, 1⟩
  if !before && d'.irqP ss pg.vec then d'.msix ss pg.vec else d'

/-- Raise a source of a page without per-session copies: it reaches the owner, and no one where there is none. -/
def Dev.irqOwner (d : Dev) (pg : Page) (bit : Nat) : Dev :=
  match d.owner pg with
  | some ss => d.irqAt pg ss bit
  | none => d.stick ⟨PAGE_IRQ_STAT pg.base, bit, 1⟩

/-- Raise a source of a page with per-session copies for several sessions. -/
def Dev.irqAll (d : Dev) (pg : Page) (ss : List Nat) (bit : Nat) : Dev :=
  ss.foldl (fun d s => d.irqAt pg s bit) d

/-- After a write by `ss` to a PAGE_IRQ_STAT or PAGE_IRQ_EN of a page of vector `v` (R363). -/
def Dev.irqAfterWrite (d : Dev) (ss v : Nat) : Dev := if d.irqP ss v then d.msix ss v else d

/-! ### Fault messages at their source (R330, R333, R340, R341) -/

/-- Mark a source in the sticky arrays and in PAGE_FLT. -/
def Dev.markSource (d : Dev) (src sev : Nat) (inj : Bool) : Dev :=
  let d := d.stick ⟨(if inj then FLT_STICKY_INJ else FLT_STICKY) (src / 32), src % 32, 1⟩
  match srcPage src with
  | none => d
  | some b => if inj then d.stick (PAGE_FLT.INJ b) else d.stick ⟨PAGE_FLT b, sev, 1⟩

/-- A block raises a real message into its source buffer: a more severe message replaces a buffered one, another is
discarded; the one that gives way is lost (R333). -/
def Dev.raise (d : Dev) (src kind sev addr : Nat) (dest : List Nat) : Dev :=
  let d := d.markSource src sev false
  let s := d.source src
  let m : Msg :=
    { source := src, kind, sev, inj := false, addr := BitVec.ofNat 32 addr, seq := s.seq, cycle := d.cycle,
      dest := (dest.filter fun x => (d.sn x).live).eraseDups }
  let s := { s with seq := (s.seq + 1) % 256, lastSev := sev }
  match s.buf with
  | none => d.setSource src { s with buf := some m }
  | some b =>
    let d := { d with flt := { d.flt with srcLost := (d.flt.srcLost + 1) % 0x100000000 } }
    d.setSource src { s with lost := satAdd 255 s.lost 1, buf := some (if b.sev < sev then m else b) }

/-- REG_DISCARD: a discarded write reported to its writer (R350, R332). -/
def Dev.discard (d : Dev) (ss : Nat) (pg : Page) (off : Nat) : Dev :=
  d.raise pg.src 0x01 0 (pg.base + off) [ss]

/-- REG_DISCARD of an address outside the register pages: the identity page and device control report it. -/
def Dev.discardAt (d : Dev) (ss addr : Nat) : Dev := d.raise 0 0x01 0 addr [ss]

/-! ### The gate of a host's access -/

/-- A cluster that is not powered: its pages read from the shadow and writes are discarded (R22). -/
def Dev.gated (d : Dev) (pg : Page) : Bool :=
  match pg.clu? with
  | none => false
  | some k => d.get (CL_STATE.PWR k) != 2

/-- The page's block accepts no new command (R352): QUIESCE set or ENABLE clear. -/
def Dev.quiesced (d : Dev) (pg : Page) : Bool :=
  !pg.fixedCtrl && (d.on (PAGE_CTRL.QUIESCE pg.base) || !d.on (PAGE_CTRL.ENABLE pg.base))

/-- The capability behind a page is present (R3, R4): Dirum's page needs DIRUM_SYNC. DESIGN CHOICE, log entry 71:
SHADOW_SWAP has no register or field of its own; PE_CFG, PE_SWAP_CNT and their fields stay without it. -/
def Dev.present (d : Dev) (pg : Page) : Bool :=
  match pg with
  | .dev n => if n.val = 2 then d.opts / 2 % 2 == 1 else true
  | _ => true

/-- The capability behind a register of a page that is present: CAL_BG_CFG belongs to COMPAT_BT256 (R4, R258). -/
def Dev.absent (d : Dev) (pg : Page) (off : Nat) : Bool := pg.base == 0x3000 && off == 0x104 && d.opts % 2 == 0

/-- The writer has the right that the register asks for (R353, R357, 15). -/
def Dev.may (d : Dev) (ss : Nat) (pg : Page) (who : Who) : Bool :=
  d.dbg || match who with
  | .any => true
  | .owner => d.owner pg == some ss
  | .attrM => d.attr ss == 2
  | .ownM => d.owner pg == some ss && d.attr ss == 2
  | .ownPwr => d.owner pg == some ss && (d.get SEC_STAT.LIFECYCLE != 2 || d.attr ss == 2)

/-- The block is initialised and serves requests: PAGE_STAT.READY, which for a cluster's pages is its power with the
start sequence completed (R351, R382, R399). -/
def Dev.ready (d : Dev) (pg : Page) : Bool :=
  match pg.clu? with
  | none => d.on (PAGE_STAT.READY pg.base)
  | some k => d.get (CL_STATE.PWR k) == 2 && d.boot.done.contains 8

/-- No write to the register is performed: in RETIRED any but PWR_REQ (R381), after a failure of HBM any outside the
identity page and the session table (R401). -/
def Dev.closed (d : Dev) (pg : Page) (off : Nat) : Bool :=
  (d.retired && !(pg.base == 0x8000 && off == 0x104))
    || (d.on BOOT_STAT.HBM_FAIL && pg.base != 0 && pg.base != 0x9000)

/-- The place of a session's writes among the writes of one fabric cycle: port 0 before port 1, and of one port link 0
before link 1 (R19, R345, R346). -/
def Dev.rank (d : Dev) (ss : Nat) : Nat :=
  2 * (ss / 32) + (if d.boot.bifurcated.contains (ss / 32) then ss % 32 / 16 else 0)

/-- A write of the register in this fabric cycle takes effect after the session's own (R19). -/
def Dev.outranked (d : Dev) (ss key : Nat) : Bool :=
  let x := tget (fun _ => (0, 0, 0)) d.ports key
  x.1 == d.cycle && decide (d.rank ss < x.2.1)

/-- A write of the session is the last of the register so far (R19). -/
def Dev.wrote (d : Dev) (ss key : Nat) (val : Word) : Dev :=
  { d with ports := tput (fun _ => (0, 0, 0)) d.ports key (d.cycle, d.rank ss, val) }

/-- What a change left as it stands goes back; what has changed since stays. -/
def goBack {α : Type} [DecidableEq α] (before after now : α) : α := if now = after then before else now

/-- The entries of a table that a change touched go back, those left as it left them. -/
def tblBack {α : Type} [DecidableEq α] (dflt : Nat → α) (before after now : Tbl α) : Tbl α :=
  if before = after then now
  else ((before ++ after).map Prod.fst).eraseDups.foldl (fun t key =>
    let b := tget dflt before key
    let a := tget dflt after key
    if b = a then t else if tget dflt t key = a then tput dflt t key b else t) now

/-- A host's write of this fabric cycle is discarded after all (R21): every register and every part that it changed and
that nothing has changed since is as it was. Time, and what a BLOCK_RESET or a read leaves of its own, stay. -/
def Dev.unwrite (d : Dev) (u : Undo) : Dev :=
  let b := u.before
  let a := u.after
  { d with
    regs := tblBack regReset b.regs a.regs d.regs
    hold := tblBack (fun _ => 0) b.hold a.hold d.hold
    ports := tblBack (fun _ => (0, 0, 0)) b.ports a.ports d.ports
    again := goBack b.again a.again d.again
    tb := goBack b.tb a.tb d.tb
    dirum := goBack b.dirum a.dirum d.dirum
    lgs := tblBack (fun _ => {}) b.lgs a.lgs d.lgs
    lanes := tblBack (fun _ => {}) b.lanes a.lanes d.lanes
    phys := tblBack (fun _ => {}) b.phys a.phys d.phys
    tmus := tblBack (fun _ => {}) b.tmus a.tmus d.tmus
    freqs := tblBack (fun _ => {}) b.freqs a.freqs d.freqs
    clusters := tblBack (fun _ => {}) b.clusters a.clusters d.clusters
    lines := tblBack (fun _ => {}) b.lines a.lines d.lines
    gmx := tblBack (fun _ => 0) b.gmx a.gmx d.gmx
    gStage := goBack b.gStage a.gStage d.gStage
    fade := goBack b.fade a.fade d.fade
    loopQ := goBack b.loopQ a.loopQ d.loopQ
    cal := goBack b.cal a.cal d.cal
    pe := goBack b.pe a.pe d.pe
    sched := goBack b.sched a.sched d.sched
    bist := goBack b.bist a.bist d.bist
    flt := goBack b.flt a.flt d.flt
    sess := tblBack (fun _ => {}) b.sess a.sess d.sess
    rings := tblBack (fun _ => none) b.rings a.rings d.rings
    nvmQ := goBack b.nvmQ a.nvmQ d.nvmQ
    nvmCur := goBack b.nvmCur a.nvmCur d.nvmCur
    sec := goBack b.sec a.sec d.sec
    pln := goBack b.pln a.pln d.pln
    boot := goBack b.boot a.boot d.boot
    out := goBack b.out a.out d.out }

/-- A change takes effect, and is remembered under a key for the rest of its fabric cycle. -/
def Dev.trackedAt (d : Dev) (key : Nat) (f : Dev → Dev) (cmd : Option (Nat × Nat) := none) : Dev :=
  let e := f d
  { e with undo := (e.undo.filter fun u => u.cyc == d.cycle)
      ++ [{ cyc := d.cycle, page := key, cmd, before := d.toParts, after := e.toParts }] }

/-- A host's write of a page takes effect, and what it changed is remembered for the rest of its fabric cycle (R21). -/
def Dev.tracked (d : Dev) (pg : Page) (f : Dev → Dev) (cmd : Option (Nat × Nat) := none) : Dev := d.trackedAt pg.base f cmd

/-- What is remembered of the present fabric cycle under a key is as if it had not been, the latest first. -/
def Dev.undoKey (d : Dev) (key : Nat) : Dev :=
  let mine := fun (u : Undo) => u.cyc == d.cycle && u.page == key
  let e := (d.undo.filter mine).foldr (fun u d => d.unwrite u) d
  { e with undo := d.undo.filter fun u => !mine u }

/-- The page's writes of this fabric cycle are discarded (R21). -/
def Dev.unwritePage (d : Dev) (pg : Page) : Dev := d.undoKey pg.base

/-- Key of Caliper's start of a unit, which a slice of its fabric cycle takes back (R302). -/
abbrev calStartKey : Nat := 0x7F000010

/-- Key of a request for a power state, which one before it in the order of its fabric cycle takes back (R385). -/
abbrev powerKey : Nat := 0x7F000021

/-- The page stops accepting commands in this fabric cycle: those of the cycle that came before are discarded with REG_DISCARD
after all, for the control write takes effect first (R352). -/
def Dev.uncommand (d : Dev) (pg : Page) : Dev :=
  let mine := fun (u : Undo) => u.cyc == d.cycle && u.page == pg.base && u.cmd.isSome
  let e := (d.undo.filter mine).foldr (fun u d => match u.cmd with
    | some (ss, off) => (d.unwrite u).discard ss pg off
    | none => d) d
  { e with undo := d.undo.filter fun u => !mine u }

/-- A W1S write met an action in progress: should the action complete in this fabric cycle, it starts again (R20). -/
def Dev.askAgain (d : Dev) (key ss : Nat) (val : Word) : Dev :=
  { d with again := (d.again.filter fun x => x.1 == d.cycle) ++ [(d.cycle, key, ss, val)] }

/-- An action has completed: the W1S writes of its register that met it in this fabric cycle start it again (R20). -/
def Dev.startAgain (d : Dev) (key : Nat) (f : Dev → Nat → Word → Dev) : Dev :=
  let mine := d.again.filter fun x => x.1 == d.cycle && x.2.1 == key
  let d : Dev := { d with again := d.again.filter fun x => x.1 == d.cycle && x.2.1 != key }
  mine.foldl (fun d x => f d x.2.2.1 x.2.2.2) d

/-- A loop check of the session is pending, or an access of it waits already: its later register accesses wait (R18, R226,
R306); the debug port's do not. -/
def Dev.waits (d : Dev) (ss : Nat) : Bool :=
  !d.dbg && ((d.loopQ.any fun r => r.sess == ss) || d.stalled.any fun x => x.ss == ss)

/-- A register access waits: a write with its words, a read with none (R18, R226, R312). -/
def Dev.stall (d : Dev) (ss addr : Nat) (vals : List Word) : Dev :=
  { d with stalled := d.stalled ++ [{ ss, addr, vals, t0 := d.up }] }

/-- A host's write reaches page `pg` at offset `off`. An access of a session that does not act is not performed; one
of a session with a loop check pending waits (R18, R226); a BLOCK_RESET of the same fabric cycle wins (R21); gated clusters, absent features, missing rights and, for a
command, QUIESCE, ENABLE clear and READY clear discard it with REG_DISCARD (R22, R4, R353, R352, R402). DESIGN CHOICE,
log entry 17: a write that R21 discards is discarded in silence, since R21 says no more than that. -/
def Dev.hostWrite (d : Dev) (ss : Nat) (pg : Page) (off : Nat) (vals : List Word) (who : Who) (cmd : Bool)
    (f : Dev → Dev) : Dev :=
  if !d.acts ss then d
  else if d.waits ss then d.stall ss (pg.base + off) vals
  else if tget (fun _ => none) d.pageReset pg.base == some d.cycle then d
  else if d.closed pg off || d.gated pg || !d.present pg || d.absent pg off || !d.may ss pg who then d.discard ss pg off
  else if cmd && (d.quiesced pg || !d.ready pg) then d.discard ss pg off
  else d.tracked pg f (if cmd then some (ss, off) else none)

/-! ### Who has the NVM (R28) -/

/-- A requester's operation waits or runs, by the numbers of NVM_STAT.REQUESTER, which are the order of R28: 0 Plinth, with
the lifecycle record (log entry 47), 1 self-test, 2 Caliper, 3 the host. -/
def Dev.nvmWants (d : Dev) (r : Nat) : Bool :=
  if r = 0 then d.on SEC_STAT.LC_BUSY
  else if r = 1 then !d.bist.writeQ.isEmpty || d.bist.compact
  else if r = 2 then d.cal.store.isSome
  else !d.nvmQ.isEmpty

/-- The requester whose operation the NVM performs: the one chosen, until it has ended, and then the first in order. -/
def Dev.nvmServing (d : Dev) : Option Nat :=
  match d.nvmCur with
  | some (r, _) => if d.nvmWants r then some r else (List.range 4).find? d.nvmWants
  | none => (List.range 4).find? d.nvmWants

/-- The choice stands from now on. -/
def Dev.nvmPin (d : Dev) : Dev :=
  { d with nvmCur := d.nvmServing.map fun r =>
      match d.nvmCur with
      | some (q, c) => if q = r then (q, c) else (r, d.cycle)
      | none => (r, d.cycle) }

/-- Requester `r` asks for an operation by `f`: an operation in progress goes on; of requests of one fabric cycle the first
in order is served. -/
def Dev.nvmAsk (d : Dev) (r : Nat) (f : Dev → Dev) : Dev :=
  let d := d.nvmPin
  let e := f d
  match d.nvmCur with
  | none => { e with nvmCur := some (r, d.cycle) }
  | some (q, c) => if c = d.cycle && r < q then { e with nvmCur := some (r, c) } else { e with nvmCur := some (q, c) }

/-- An operation of `r` can be the one that ends: it is the one served, or Caliper's is and `r` goes between two of Caliper's
operations, which a store has many of. -/
def Dev.nvmMay (d : Dev) (r : Nat) : Bool := d.nvmServing == some r || (d.nvmServing == some 2 && decide (r < 2))

/-- An operation of Plinth, which takes no more than its command, goes between those of Caliper and of the host, and waits for
a lifecycle record and for self-test. -/
def Dev.plinthMay (d : Dev) : Bool := d.nvmServing != some 0 && d.nvmServing != some 1

/-! ### Bytes of HBM and NVM -/

/-- What an unlisted byte of HBM reads as. DESIGN CHOICE, log entry 8. -/
def hbmDefault (_ : Nat) : Byte := 0
/-- What an unlisted byte of NVM reads as: erased (R373). -/
def nvmDefault (_ : Nat) : Byte := 0xFF

/-- Bytes of HBM: 16 GiB (R25). -/
abbrev hbmSize : Nat := 0x400000000
/-- Bytes of NVM: 64 MiB (R27). -/
abbrev nvmSize : Nat := 0x4000000

/-- The canonical form of a byte memory of `size` bytes. -/
def Memory.wf (dflt : Nat → Byte) (size : Nat) (m : List Host.Cell) : Bool :=
  twf dflt m && m.all fun c => decide (c.1 < size)

/-- One byte. -/
def readByte (dflt : Nat → Byte) (m : List Host.Cell) (a : Nat) : Byte := tget dflt m a

/-- One byte written; an address outside the memory is not written. -/
def writeByte (dflt : Nat → Byte) (size : Nat) (m : List Host.Cell) (a : Nat) (b : Byte) : List Host.Cell :=
  if a < size then tput dflt m a b else m

/-- `n` bytes from `a` upwards. -/
def readBytes (dflt : Nat → Byte) (m : List Host.Cell) (a : Nat) : Nat → List Byte
  | 0 => []
  | n + 1 => readByte dflt m a :: readBytes dflt m (a + 1) n

/-- Bytes written from `a` upwards. -/
def writeBytes (dflt : Nat → Byte) (size : Nat) (m : List Host.Cell) (a : Nat) : List Byte → List Host.Cell
  | [] => m
  | b :: bs => writeBytes dflt size (writeByte dflt size m a b) (a + 1) bs

/-- Every byte of [a, a + n) cleared to what an unlisted byte reads as. -/
def clearBytes (m : List Host.Cell) (a n : Nat) : List Host.Cell := m.filter fun c => c.1 < a || a + n ≤ c.1

/-- Bytes as a little-endian number. -/
def leNat : List Byte → Nat
  | [] => 0
  | b :: bs => b.toNat + 256 * leNat bs

/-- A number as `n` little-endian bytes. -/
def leBytes : Nat → Nat → List Byte
  | 0, _ => []
  | n + 1, v => BitVec.ofNat 8 v :: leBytes n (v / 256)

/-- One bit of the CRC-32 of IEEE 802.3, reflected. -/
def crcBit (c : Nat) : Nat := if c % 2 = 1 then (c / 2) ^^^ 0xEDB88320 else c / 2

/-- One byte of the CRC-32. -/
def crcByte (c : Nat) (b : Byte) : Nat :=
  crcBit (crcBit (crcBit (crcBit (crcBit (crcBit (crcBit (crcBit (c ^^^ b.toNat))))))))

/-- CRC-32 with the IEEE 802.3 polynomial (R40, R150, R373). -/
def crc32 (l : List Byte) : Nat := (l.foldl crcByte 0xFFFFFFFF) ^^^ 0xFFFFFFFF

/-- The eight words of a ring's descriptor (R365). -/
def Ring.desc (r : Ring) : List Word :=
  let w0 := r.sizeLog2 + 32 * r.owner + 2048 + 2 ^ 12 * (r.base / 4096) + 2 ^ 34 * b2n r.dma + 2 ^ 35 * r.vec
    + 2 ^ 40 * b2n r.irqEn + 2 ^ 41 * b2n r.ovr + 2 ^ 42 * r.coalesce
  let w1 := r.threshLog2 + r.host
  let w2 := r.head + 2 ^ 32 * (if r.dma then r.drain else r.head)
  [w0, w1, w2, r.tail].flatMap fun w => [BitVec.ofNat 32 w, BitVec.ofNat 32 (w / 2 ^ 32)]

/-- A byte of HBM as the device reads it (R25): the descriptor table holds the rings' descriptors; the Caliper workspace and the
self-test save areas hold what their owners have put there, where no routine has. -/
def Dev.hbmByte (d : Dev) (m : List Host.Cell) (a : Nat) : Byte :=
  if 0x3E0000000 ≤ a ∧ a < 0x3E2000000 then
    match d.ring ((a - 0x3E0000000) / 32) with
    | none => 0
    | some r => ((r.desc.flatMap fun w => leBytes 4 w.toNat)[a % 32]?).getD 0
  else if 0x3E4000000 ≤ a ∧ a < 0x3F0000000 ∧ m.all fun c => c.1 != a then Config.deviceByte d.up a
  else readByte hbmDefault m a

/-- A byte of NVM as a host command reads it (R27, R373). -/
def Dev.nvmByte (d : Dev) (m : List Host.Cell) (a : Nat) : Byte :=
  let copy := fun (c : Option (Nat × Nat)) => match c with
    | none => [0, 0, 0]
    | some x => [1, x.1, x.2]
  if a < 0x40000 then
    Config.protectedByte (copy d.sec.lc0 ++ copy d.sec.lc1 ++ d.get SEC_AUTH.FAILS
      :: (List.range 12).map fun w => (d.reg (SEC_OWNER_KEY w)).toNat) a
  else if 0x800000 ≤ a ∧ a < 0x2000000 then Config.factoryByte a
  else readByte nvmDefault m a

/-! ### Lifting -/

/-- A byte range of HBM holds data marked poisoned (R26). -/
def Dev.poisoned (d : Dev) (a n : Nat) : Bool := d.poison.any fun x => decide (a < 8 * x + 8) && decide (8 * x < a + n)

/-- The device proper changes. -/
def State.upd (s : State) (f : Dev → Dev) : State := { s with toDev := f s.toDev }

/-- A command that can change only the device proper. -/
def State.on (s : State) (f : Dev → Dev) : Result := .next { s with toDev := f s.toDev }

end Sys2Proof.Machine
end

