-- ==== Sys2Proof/Machine/Events.lean ====
section
/-! DEFINITION. Event production in the Armature (08): rows and columns and their owners, the matrices, the hop
limit, the transport to the consumers, and the revocations of R223. -/

namespace Sys2Proof.Machine

/-- The stamp time of an epoch T0, in tq. -/
abbrev tq (t0 : Nat) : Nat := 4096 * t0

/-- The fabric cycle that contains a time in tq. -/
abbrev cyc (t : Nat) : Nat := t / 16384

/-- Owner, attribute and SHARE of row `r` of cluster `k`: lane-bound for rows 0 to 127 (R221). -/
def Dev.rowOwn (d : Dev) (k r : Nat) : Own :=
  if r < 128 then
    let l := d.lane (64 * k + r / 2)
    { owner := l.holder, attr := l.attr, share := (tget (fun _ => ({} : Own)) (d.cl k).rows r).share }
  else if r < 243 then tget (fun _ => {}) (d.cl k).rows r
  else {}

/-- Owner and attribute of column `c` of cluster `k`: lane-bound for columns 0 to 255 (R221). -/
def Dev.colOwn (d : Dev) (k c : Nat) : Own :=
  if c < 256 then
    let l := d.lane (64 * k + c / 4)
    { owner := l.holder, attr := l.attr }
  else if c < 384 then tget (fun _ => {}) (d.cl k).cols c
  else {}

/-- Owner of a lock group's two global columns, with the attribute recorded at the claim (R49, R220). -/
def Dev.gcolOwn (d : Dev) (c : Nat) : Own := { owner := (d.lg (c % 64)).owner, attr := (d.lg (c % 64)).attr }

/-- A row or a line is readable to a column (R222). -/
def readable (r c : Own) : Bool :=
  c.owner.isSome && r.owner.isSome && (r.owner == c.owner || (r.share && decide (r.attr ≤ c.attr)))

/-- A matrix word of cluster `k` as the fabric evaluates it: zero while its parity error stands (R230). -/
def Dev.mxWord (d : Dev) (k c w : Nat) : Word :=
  if (d.cl k).badWords.contains (8 * c + w) then 0 else tget (fun _ => 0) (d.cl k).mx (8 * c + w)

/-- Bit (r, c) of cluster `k`'s matrix, as the fabric evaluates it. -/
def Dev.mxBit (d : Dev) (k r c : Nat) : Bool := (d.mxWord k c (r / 32)).getLsbD (r % 32)

/-- A clearing or unbinding write has reached its page in the present fabric cycle (R226). -/
def Dev.fadeOut (d : Dev) (key : Nat) (old : Word) : Dev :=
  { d with fade := { cyc := d.ecyc, key, old } :: d.fade.filter fun f => decide (d.ecyc ≤ f.cyc + 1) }

/-- What such writes removed that still counts in fabric cycle `at_` (R214, R226). -/
def Dev.fading (d : Dev) (at_ : Nat) : List Fade := d.fade.filter fun f => decide (at_ ≤ f.cyc + 1)

/-- The columns that row `r` feeds in fabric cycle `at_`: those with a listed word whose bit is set, and those whose bit
a write has cleared too late for that cycle. -/
def Dev.colsOf (d : Dev) (k r at_ : Nat) : List Nat :=
  ((d.cl k).mx.filterMap fun (key, _) =>
    if key % 8 = r / 32 && d.mxBit k r (key / 8) then some (key / 8) else none) ++
  ((d.fading at_).filterMap fun f =>
    let c := f.key % 4096 / 8
    if f.key / 4096 = k && f.key % 8 = r / 32 && f.old.getLsbD (r % 32) && !d.mxBit k r c
      && !(d.cl k).badWords.contains (f.key % 4096) && readable (d.rowOwn k r) (d.colOwn k c) then some c else none).eraseDups

/-- The global Armature columns that line `L` feeds in fabric cycle `at_` (R220). -/
def Dev.gcolsOf (d : Dev) (L at_ : Nat) : List Nat :=
  let now := d.gmx.filterMap fun (key, w) => if key % 2 = L / 32 && w.getLsbD (L % 32) then some (key / 2) else none
  now ++ ((d.fading at_).filterMap fun f =>
    let c := (f.key - 0x100000) / 2
    if f.key / 0x100000 = 1 && f.key % 2 = L / 32 && f.old.getLsbD (L % 32) && !now.contains c
      && readable (d.line L).own (d.gcolOwn c) then some c else none).eraseDups

/-- The bound global inputs: cluster, input and line (R218). Only listed registers can be bound, since ARM_GIN resets
to 0. -/
def Dev.gins (d : Dev) : List (Nat × Nat × Nat) :=
  d.regs.filterMap fun (key, w) =>
    let o := (key - 0x1000000) % 0x100000
    if 0x1000000 ≤ key && key < 0x2000000 && 0x5180 ≤ o && o < 0x5200 && w.getLsbD 6 then
      some ((key - 0x1000000) / 0x100000, (o - 0x5180) / 4, w.toNat % 64)
    else none

/-- The inputs that listen to line `L`: cluster and input. -/
def Dev.ginsOf (d : Dev) (L : Nat) : List (Nat × Nat) :=
  d.gins.filterMap fun (k, i, l) => if l = L then some (k, i) else none

/-- The inputs that an event of line `L` enters in fabric cycle `at_`. -/
def Dev.ginsAt (d : Dev) (L at_ : Nat) : List (Nat × Nat) :=
  let now := d.ginsOf L
  now ++ ((d.fading at_).filterMap fun f =>
    let x := ((f.key - 0x200000) / 32, f.key % 32)
    if f.key / 0x100000 = 2 && f.old.getLsbD 6 && f.old.toNat % 64 = L && !now.contains x
      && readable (d.line L).own (d.rowOwn x.1 (192 + x.2)) then some x else none).eraseDups

/-- Cluster `k` is powered: its Armature produces and accepts events (R231). -/
def Dev.powered (d : Dev) (k : Nat) : Bool := d.get (CL_STATE.PWR k) == 2

/-- Which of two latencies crossing `kind` of cluster `k` has now (R213). -/
def Dev.slow (d : Dev) (kind k : Nat) : Nat := b2n (Config.slowCrossing kind k (d.get (TB_TREE_PHASE.CORR k)))

/-- An event of row `r` is on its way to the matrix stage, which it passes in fabric cycle `at_` (R213, R214). -/
def Dev.offer (d : Dev) (k r origin hop at_ : Nat) (glob : Bool) : Dev :=
  d.modCl k fun x => { x with stage := x.stage ++ [{ src := r, origin, glob, hop, at_ }] }

/-- The owner of row `r` learns of an event dropped at hop count 15 (R228, R427). -/
def Dev.hopDrop (d : Dev) (k r : Nat) (owner : Nat) : Dev :=
  let d := (d.stick (ARM_HEALTH.HOP owner k)).bump (ARM_HEALTH.HOP_DROP owner k)
  let d := if h : k < 16 then d.irqAt (.arm ⟨k, h⟩) owner 1 else d
  d.raise (256 + 112 * k + 104) 0x39 0 r [owner]

/-- A producer raises row `r` of cluster `k` with the given origin and hop count: only for an owned row of a powered
cluster (R208, R231), and not at hop count 15 (R228). -/
def Dev.emit (d : Dev) (k r origin hop : Nat) : Dev :=
  match (d.rowOwn k r).owner with
  | none => d
  | some o =>
    if !d.powered k then d
    else if 15 ≤ hop then d.hopDrop k r o
    else d.offer k r origin hop (cyc origin + 2) false

/-- The device raises row `r`, EPOCH or HEARTBEAT, in every powered cluster that has an owner for it, with hop count 0
(R206, R208, R227); the event starts on its way in the present fabric cycle. -/
def Dev.emitDevice (d : Dev) (r origin : Nat) : Dev :=
  (List.range 16).foldl (fun d k =>
    if (d.rowOwn k r).owner.isSome && d.powered k then d.offer k r origin 0 (d.ecyc + 2) false else d) d

/-- An event leaves cluster `k` on line `L`: out FIFO of one or two fabric cycles, then the global fabric's two or
three (R210, R213). -/
def Dev.onLine (d : Dev) (k L : Nat) (e : Event) : Dev :=
  let d := d.modLine L fun x => { x with events := (x.events + 1) % 0x100000000 }
  let at_ := e.arrive + 3 + d.slow 0 k + d.slow 1 k
  { d with gStage := d.gStage ++ [{ src := L, origin := e.origin, glob := true, hop := e.hop, at_ }] }

/-- An event of a line enters the clusters whose inputs listen to it: in FIFO of one or two cycles, then the
destination's matrix stage (R213, R218). -/
def Dev.fromLine (d : Dev) (e : Staged) : Dev :=
  (d.ginsAt e.src e.at_).foldl (fun d (k, i) =>
    match (d.rowOwn k (192 + i)).owner with
    | none => d
    | some _ => if d.powered k then d.offer k (192 + i) e.origin e.hop (e.at_ + 2 + d.slow 2 k) true else d) d

/-- Clear a whole column of cluster `k`, and unbind the line that a global output drives (R223). -/
def Dev.clearCol (d : Dev) (k c : Nat) : Dev :=
  let d := d.modCl k fun x => { x with mx := x.mx.filter fun (key, _) => key / 8 != c }
  if 352 ≤ c then
    (d.lines.map Prod.fst).foldl (fun d L =>
      d.modLine L fun x => if x.driver == some (k, c - 352) then { x with driver := none } else x) d
  else d

/-- Clear the two global columns of a lock group (R223). -/
def Dev.clearGcols (d : Dev) (g : Nat) : Dev :=
  { d with gmx := d.gmx.filter fun (key, _) => (key / 2) % 64 != g }

/-- A line changed owner or lost it: unbind it, clear the inputs that name it and its row of the global Armature
(R223). -/
def Dev.resetLine (d : Dev) (L : Nat) : Dev :=
  let d := d.modLine L fun x => { x with driver := none }
  let d := (d.ginsOf L).foldl (fun d (k, i) => d.set (ARM_GIN.VALID k i) 0) d
  { d with gmx := (d.gmx.map fun (key, w) =>
      (key, if key % 2 = L / 32 then w &&& ~~~ (BitVec.ofNat 32 (2 ^ (L % 32))) else w)).filter fun (_, w) => w != 0 }

/-- The bits of word `w` of column `c` whose rows are still readable to it. -/
def Dev.readableMask (d : Dev) (k c w : Nat) : Nat :=
  (List.range 32).foldl (fun m b => if readable (d.rowOwn k (32 * w + b)) (d.colOwn k c) then m + 2 ^ b else m) 0

/-- Clear every matrix bit of cluster `k` whose row is no longer readable to its column, and every input whose line
is no longer readable to its row (R223). -/
def Dev.revoke (d : Dev) (k : Nat) : Dev :=
  let d := d.modCl k fun x => { x with
    mx := (x.mx.map fun (key, v) => (key, v &&& BitVec.ofNat 32 (d.readableMask k (key / 8) (key % 8)))).filter
      fun (_, v) => v != 0 }
  d.gins.foldl (fun d (k', i, L) =>
    if k' = k && !readable (d.line L).own (d.rowOwn k (192 + i)) then d.set (ARM_GIN.VALID k i) 0 else d) d

/-- Clear the bits of the global Armature whose lines are no longer readable to their columns (R223). -/
def Dev.revokeGlobal (d : Dev) : Dev :=
  { d with gmx := (d.gmx.map fun (key, v) =>
      (key, (List.range 32).foldl (fun (a : Word) b =>
        if readable (d.line (32 * (key % 2) + b)).own (d.gcolOwn (key / 2)) then a
        else a &&& ~~~ (BitVec.ofNat 32 (2 ^ b))) v)).filter fun (_, v) => v != 0 }

/-- Revocations after a change of ownership or SHARE anywhere (R223). -/
def Dev.revokeAll (d : Dev) : Dev := ((List.range 16).foldl Dev.revoke d).revokeGlobal

end Sys2Proof.Machine
end

