-- ==== Sys2Proof/Machine/Operands.lean ====
section
/-! DEFINITION. Fields of the 128-bit words: timing contexts (R100), format bytes (R80) and the instructions of the
edge programs (R108, R110), and the operand forms of the microwords (R138, R139). -/

namespace Sys2Proof.Machine

/-- Bits [lo + n - 1 : lo] of a 128-bit word. -/
def bits (w : BitVec 128) (lo n : Nat) : Nat := (w.toNat / 2 ^ lo) % 2 ^ n

/-- Bit `i` of a 128-bit word. -/
def bit (w : BitVec 128) (i : Nat) : Bool := w.getLsbD i

/-! ### Timing contexts (R100) and formats (R80) -/

abbrev ctxFormat (c : BitVec 128) : Nat := bits c 120 8
abbrev ctxPeriod (c : BitVec 128) : Nat := bits c 102 18
abbrev ctxD1 (c : BitVec 128) : Nat := bits c 85 17
abbrev ctxD2 (c : BitVec 128) : Nat := bits c 68 17
abbrev ctxE1 (c : BitVec 128) : Nat := bits c 51 17
abbrev ctxE2 (c : BitVec 128) : Nat := bits c 34 17
abbrev ctxS0 (c : BitVec 128) : Nat := bits c 17 17
abbrev ctxS1 (c : BitVec 128) : Nat := bits c 0 17

/-- A format byte that R82 treats as DRV_FMT OFF. -/
def fmtBad (f : Nat) : Bool := f % 8 == 7 || 128 ≤ f
abbrev denMode (f : Nat) : Nat := f / 8 % 4
abbrev stbMode (f : Nat) : Nat := f / 32 % 4

/-- DRV candidates of a period that starts at `p` with data bit `b` (R81): generator and scheduled time. -/
def drvEdges (fmt p d1 d2 : Nat) (b : Bool) : List (Nat × Nat) :=
  if fmt = 1 then [(if b then 0 else 1, p + d1)]
  else if fmt = 2 then (if b then [(0, p + d1), (1, p + d2)] else [])
  else if fmt = 3 then (if b then [] else [(1, p + d1), (0, p + d2)])
  else if fmt = 4 then
    (if b then [(1, p), (0, p + d1), (1, p + d2)] else [(0, p), (1, p + d1), (0, p + d2)])
  else if fmt = 5 then (if b then [(0, p + d1), (1, p + d1 + d2)] else [])
  else if fmt = 6 then (if b then [(1, p + d1), (0, p + d1 + d2)] else [])
  else []

/-- DEN candidates of a period with enable bit `e` (R83). -/
def denEdges (mode p e1 e2 : Nat) (e : Bool) : List (Nat × Nat) :=
  if mode = 0 then [(3, p)]
  else if mode = 1 then [(2, p)]
  else if mode = 2 then (if e then [(2, p + e1), (3, p + e2)] else [])
  else [(if e then 2 else 3, p + e1)]

/-! ### Instructions (R108, R110) -/

abbrev iwOpcode (w : BitVec 128) : Nat := bits w 122 6
abbrev iwE (w : BitVec 128) : Bool := bit w 121
abbrev iwL (w : BitVec 128) : Bool := bit w 120
abbrev iwCount (w : BitVec 128) : Nat := bits w 114 6
abbrev iwPeriodTq (w : BitVec 128) : Nat := bits w 64 50
abbrev iwEgMask (w : BitVec 128) : Nat := bits w 116 6
abbrev iwOffset (w : BitVec 128) : Nat := bits w 0 52
abbrev pulseWidth (w : BitVec 128) : Nat := bits w 92 24
abbrev burstN (w : BitVec 128) : Nat := bits w 100 16
abbrev burstWidth (w : BitVec 128) : Nat := bits w 76 24
abbrev burstSpacing (w : BitVec 128) : Nat := bits w 44 32
abbrev burstOffset (w : BitVec 128) : Nat := bits w 0 44
abbrev ctxG (w : BitVec 128) : Bool := bit w 121
abbrev ctxTarget (w : BitVec 128) : Nat := bits w 0 8
abbrev waitInput (w : BitVec 128) : Nat := bits w 117 5
abbrev waitNoEvt (w : BitVec 128) : Bool := bit w 116
/-- TMO_SKIP, signed. -/
def waitSkip (w : BitVec 128) : Int := (BitVec.ofNat 16 (bits w 100 16)).toInt
abbrev waitTimeout (w : BitVec 128) : Nat := bits w 60 40
abbrev loopBody (w : BitVec 128) : Nat := bits w 32 16
abbrev loopCount (w : BitVec 128) : Nat := bits w 0 32
abbrev callLen (w : BitVec 128) : Nat := bits w 32 16
abbrev callTarget (w : BitVec 128) : Nat := bits w 0 24
abbrev measStart (w : BitVec 128) : Nat := bits w 119 3
abbrev measStop (w : BitVec 128) : Nat := bits w 116 3
abbrev measStopN (w : BitVec 128) : Nat := bits w 108 8
abbrev measTimeout (w : BitVec 128) : Nat := bits w 64 40
abbrev matCount (w : BitVec 128) : Nat := bits w 117 5
abbrev matCare (w : BitVec 128) : Nat := bits w 64 32
abbrev matExp (w : BitVec 128) : Nat := bits w 0 64
abbrev fireFlag (w : BitVec 128) : Nat := bits w 117 5

/-- A defined field holds a value that 04 declares invalid (R109, R110): a PERIOD COUNT above 31 with E set, a
PERIOD_TQ below 4,096 with L set is raised under R101 and is not invalid, a MEASURE START_SEL above 4 or STOP_SEL
outside 1 to 4, or a reserved opcode. -/
def iwInvalid (w : BitVec 128) : Bool :=
  let o := iwOpcode w
  o == 0 || 0x0F ≤ o
    || (o == 1 && iwE w && 32 ≤ iwCount w)
    || (o == 0x0B && (4 < measStart w || measStop w == 0 || 4 < measStop w))

/-- The entry of an ENDLOOP (R108). -/
def endloopWord : BitVec 128 := BitVec.ofNat 128 (8 * 2 ^ 122)

/-- The entry of a RET (R108). -/
def retWord : BitVec 128 := BitVec.ofNat 128 (0x0A * 2 ^ 122)

/-- Opcodes that a replayed body may hold (R127). -/
def replayable (o : Nat) : Bool :=
  o == 1 || o == 2 || o == 3 || o == 4 || o == 5 || o == 0x0B || o == 0x0C || o == 0x0D

end Sys2Proof.Machine
end

