-- ==== Sys2Proof/Machine/LaneOps.lean ====
section
/-! DEFINITION. Operations on a lane that several chapters share: holds (R91), candidates and strobe results
(R66, R72, R77, R86 to R89), the launch arithmetic (R68), stopping a program and what its lock group does
(R134 to R136, R50, R54), and abandoning a swap (R280). -/

namespace Sys2Proof.Machine

/-- The fault source of a lane: channel page j of its cluster (R331). -/
abbrev laneSrc (L : Nat) : Nat := 256 + 112 * (L / 64) + L % 64

/-- The channel page of a lane. -/
def lanePage (L : Nat) : Page := .ch ⟨(L / 64) % 16, Nat.mod_lt _ (by omega)⟩ ⟨L % 64, by omega⟩

/-- The sessions that hold the lane: one or none (13, To column, H). -/
def Dev.holderL (d : Dev) (L : Nat) : List Nat := optL (d.lane L).holder

/-- Physical channel that serves the lane, where one does (LANE_SERVED). -/
def Dev.served (d : Dev) (L : Nat) : Option Nat :=
  if d.on (LANE_SERVED.VALID L) then some (d.get (LANE_SERVED.PHYS L)) else none

/-- PROG_STAT.STATE: 0 IDLE, 1 PRIMING, 2 PRIMED, 3 ARMED, 4 RUNNING, 5 WAITING, 6 HALTED, 7 STOPPED. -/
abbrev Dev.progState (d : Dev) (L : Nat) : Nat := d.get (PROG_STAT.STATE L)

/-! ### Lock groups, as the lanes see them -/

/-- The lock group a lane belongs to (R48). -/
def Dev.groupOf (d : Dev) (L : Nat) : Option Nat :=
  (d.lgs.find? fun (_, g) => g.members.contains L).map Prod.fst

/-- The group's fabric latency L in T0: 48 across clusters, 16 within one (R51). -/
def LockGroup.lat (g : LockGroup) : Nat := if g.line.isSome then 48 else 16

/-- The group returns to IDLE and frees its line and its start consumer (R50, R220). -/
def Dev.groupIdle (d : Dev) (g : Nat) : Dev :=
  let x := d.lg g
  let d := match x.line with
    | none => d
    | some l => (d.modLine l fun y => { y with lg := none }).set GL_FREE.FREE (d.get GL_FREE.FREE + 1)
  d.setLg g { x with st := .idle, line := none, startAt := none, stopT0 := none, skipped := [],
                     evCyc := none }

/-- A RUNNING group whose members have all halted returns to IDLE, and so does an ARMED one whose start a STOP has
cancelled (R50, R54). -/
def Dev.groupCheck (d : Dev) (g : Nat) : Dev :=
  let x := d.lg g
  if (x.st == .running || (x.st == .armed && x.stopT0.isSome)) && x.members.all fun m =>
      d.progState m == 0 || d.progState m == 6 || d.progState m == 7
  then d.groupIdle g else d

/-- Groups whose STOP took effect while no member was left to end return to IDLE (R54). -/
def Dev.groupsEnd (d : Dev) : Dev :=
  (d.lgs.filter fun ((_, x) : Nat × LockGroup) => match x.stopT0 with
    | some t => decide (t ≤ d.epoch)
    | none => false).foldl (fun d x => d.groupCheck x.1) d

/-- The check for the lane's own group, if it has one. -/
def Dev.groupCheckOf (d : Dev) (L : Nat) : Dev :=
  match d.groupOf L with
  | none => d
  | some g => d.groupCheck g

/-! ### Results of strobes -/

/-- Forget results that will not be completed. DESIGN CHOICE, log entry 72: a result one strobe of which was committed
before a hold discarded the other goes whole: it shows no result, sets no STB_MISSED and raises no event. -/
def Dev.dropResults (d : Dev) (L : Nat) (ids : List Nat) : Dev :=
  d.modLane L fun l => { l with results := l.results.filter fun r => !ids.contains r.id }

/-- A discarded strobe joins those of its result that have been. -/
def lostJoin (x : LostStb) : List LostStb → List LostStb
  | [] => [x]
  | y :: ys =>
    if y.id = x.id then { y with t := max x.t y.t, strobes := y.strobes ++ x.strobes } :: ys else y :: lostJoin x ys

/-- Candidates that a hold discards (R91): what they would have sampled is forgotten, but for the strobes of periods that
MATCH would compare, whose fall decides on UNCOMPARED (R119). -/
def Dev.loseCands (d : Dev) (L : Nat) (cs : List Cand) : Dev :=
  let l := d.lane L
  let find := fun (id : Nat) => (l.results.find? fun r => r.id == id && !r.own && r.expect.isSome).map fun r => r.mode == 2
  let lost := cs.foldl (fun acc c => c.uses.foldl (fun acc u =>
    let window := (find u.1).or ((l.lost.find? fun x => x.id == u.1).map fun x => x.window)
    match window with
    | none => acc
    | some window => lostJoin { id := u.1, iss := c.iss, t := c.lane, strobes := [(c.eg, c.sched)], window } acc) acc) l.lost
  (d.setLane L { l with lost }).dropResults L (cs.flatMap fun c => c.uses.map Prod.fst)

/-- The lane is in hold for calibration or for want of a channel (R119). -/
def Dev.heldUncompared (d : Dev) (L : Nat) : Bool :=
  let h := d.get (LANE_STAT.HOLD_SET L)
  h % 2 == 1 || h / 4 % 2 == 1

/-- MATCH's verdict on a result (R118): none where it is not compared, else whether it fails. -/
def matchFails (r : PendRes) : Option Bool :=
  match r.expect with
  | none => none
  | some e =>
    let bad := fun (s : Option StbSide) (want : Nat) => match s with
      | none => false
      | some x => !x.gated && (!x.valid || x.code != want)
    let gated := fun (s : Option StbSide) => match s with | none => true | some x => x.gated
    if r.own then none
    else if r.mode = 1 then
      if gated r.s0 && gated r.s1 then none else some (bad r.s0 (e % 2) || bad r.s1 (e / 2))
    else if r.mode = 3 then (if gated r.s0 then none else some (bad r.s0 (e % 2)))
    else match r.s0, r.s1 with
      | some a, some b =>
        if a.gated || b.gated then none
        else some (!(a.valid && b.valid && decide (a.t < b.t) && b.code == e))
      | _, _ => none

/-- The four bits of a result (R88). -/
def resultBits (r : PendRes) : Nat :=
  let one := fun (s : Option StbSide) => match s with
    | none => 0
    | some x => if x.gated || !x.valid then 0 else x.code % 2 + 2
  if r.mode = 2 then
    match r.s0, r.s1 with
    | some a, some b => if a.valid && b.valid && !a.gated && !b.gated && decide (a.t < b.t) then b.code else 3
    | _, _ => 3
  else one r.s0 + 4 * one r.s1

/-- A side of a result was suppressed by the gate. -/
def sideGated (s : Option StbSide) : Bool := match s with | none => false | some x => x.gated

/-- A result is invalid: an ungated strobe that is not valid, or a window without a code; of a window that keeps one
strobe, that strobe alone counts (R88). -/
def resultInvalid (r : PendRes) : Bool :=
  let bad := fun (s : Option StbSide) => match s with | none => false | some x => !x.gated && !x.valid
  if r.mode = 2 && !sideGated r.s0 && !sideGated r.s1 then resultBits r == 3 else bad r.s0 || bad r.s1

/-- The lane time of the strobe that completes a result: the later ungated strobe, and of a window its close (R89). -/
def resultTime (r : PendRes) : Nat :=
  let t := fun (s : Option StbSide) => match s with | none => 0 | some x => if x.gated then 0 else x.t
  if r.mode = 2 && !sideGated r.s1 then t r.s1 else max (t r.s0) (t r.s1)

/-- All of a result's strobes were suppressed by the gate. -/
def allGated (r : PendRes) : Bool :=
  sideGated r.s0 && (r.mode == 3 || sideGated r.s1)

/-- A completed result: LANE_STB_RESULT, MATCH and the strobe event (R88, R118, R119, R89). -/
def Dev.finishResult (d : Dev) (L : Nat) (r : PendRes) : Dev :=
  let order := r.mode == 2 && (match r.s0, r.s1 with
    | some a, some b => a.valid && b.valid && !a.gated && !b.gated && decide (b.t ≤ a.t)
    | _, _ => false)
  let d := d.stickIf order (LANE_STAT.STB_ORDER L)
  let d := ((d.set (LANE_STB_RESULT.RESULT L) (resultBits r)).set (LANE_STB_RESULT.GATED0 L)
    (b2n (sideGated r.s0))).set (LANE_STB_RESULT.GATED1 L) (b2n (sideGated r.s1))
  let verdict := matchFails r
  let d := match verdict with
    | none => d
    | some bad =>
      if d.heldUncompared L then d.stick (PROG_STAT.UNCOMPARED L)
      else if bad then
        let d := d.bump (PROG_FAIL_CNT.COUNT L)
        if (d.lane L).firstFail then d
        else
          let d := d.modLane L fun l => { l with firstFail := true }
          (d.set (PROG_FIRST_FAIL.TIME L) (r.p % 2 ^ 64)).irqOwner (lanePage L) 3
      else d
  let failed := resultInvalid r || verdict == some true
  let sel := d.get (LANE_EVT_CFG.STB_SEL L)
  let raise := !allGated r && (d.served L).isSome && (sel == 2 || (sel == 1 && failed) || (sel == 3 && !failed))
  if raise then
    (d.modLane L fun l => { l with stbEvents := (resultTime r :: l.stbEvents).take 64 }).emit (L / 64)
      (2 * (L % 64) + 1) (resultTime r) r.hop
  else d

/-- Both sides of a result are decided. -/
def PendRes.done (r : PendRes) : Bool := r.s0.isSome && (r.mode == 3 || r.s1.isSome)

/-- The lane time of a decided result: that of its later side. -/
def PendRes.time (r : PendRes) : Nat :=
  let t := fun (s : Option StbSide) => match s with | none => 0 | some x => x.t
  max (t r.s0) (t r.s1)

/-- Insert a result into a list in the order of lane time, after its equals. -/
def insResult (r : PendRes) : List PendRes → List PendRes
  | [] => [r]
  | x :: l => if r.time < x.time then r :: x :: l else x :: insResult r l

/-- The decided results that no strobe still in flight precedes complete, in the order of lane time (R88: the last one
shows in LANE_STB_RESULT). -/
def Dev.deliverResults (d : Dev) (L : Nat) : Dev :=
  let l := d.lane L
  let ready := fun (r : PendRes) => r.done && l.flight.all fun f => decide (f.eg < 4) || decide (r.time ≤ f.lane)
  let out := (l.results.filter ready).foldl (fun acc r => insResult r acc) []
  out.foldl (fun d r => d.finishResult L r)
    (d.setLane L { l with results := l.results.filter fun r => !ready r })

/-- A side of a result is decided; the result completes with its last side (R88). -/
def Dev.resolveSide (d : Dev) (L : Nat) (u : Nat × Nat) (s : StbSide) : Dev :=
  (d.modLane L fun l => { l with results := l.results.map fun r =>
    if r.id ≠ u.1 then r else if u.2 = 0 then { r with s0 := some s } else { r with s1 := some s } }).deliverResults L

/-- A strobe that takes no sample decides its sides: suppressed by the gate, or discarded (R75, R79, R88). -/
def Dev.resolveUses (d : Dev) (L : Nat) (uses : List (Nat × Nat)) (s : StbSide) : Dev :=
  uses.foldl (fun d u => d.resolveSide L u s) d

/-- A new result in the making; answers its number. -/
def Dev.newResult (d : Dev) (L p mode : Nat) (own : Bool) (expect : Option Nat) (hop : Nat) : Nat × Dev :=
  let l := d.lane L
  (l.nextId, d.setLane L { l with
    nextId := l.nextId + 1, results := l.results ++ [{ id := l.nextId, p, mode, own, expect, hop }] })

/-! ### Candidates -/

/-- The deskew of a generator's lane (R66). -/
def Dev.deskew (d : Dev) (L eg : Nat) : Nat :=
  if eg < 2 then d.get (LANE_DESKEW_DRV.DESKEW L)
  else if eg < 4 then d.get (LANE_DESKEW_DEN.DESKEW L)
  else d.get (LANE_DESKEW_STB.DESKEW L)

/-- The lane accepts a candidate, or discards it while it is in hold (R91). -/
def Dev.addCand (d : Dev) (L : Nat) (c : Cand) : Dev :=
  if d.on (LANE_STAT.HOLD L) then d.loseCands L [c]
  else d.modLane L fun l => { l with cands := l.cands ++ [c] }

/-- One candidate at a scheduled time, deskewed (R66). -/
def Dev.addEdge (d : Dev) (L eg sched : Nat) (src : CandSrc) (iss : Nat) (uses : List (Nat × Nat)) : Dev :=
  d.addCand L { eg, sched, lane := sched + d.deskew L eg, src, iss, uses }

/-- A single strobe with a result of its own (R88). -/
def Dev.ownStrobe (d : Dev) (L eg t : Nat) (src : CandSrc) (iss hop : Nat) : Dev :=
  let (id, d) := d.newResult L t 3 true none hop
  d.addEdge L eg t src iss [(id, 0)]

/-- A window of its own: EG4 opens it, EG5 closes it (R72, R88). -/
def Dev.ownWindow (d : Dev) (L t w : Nat) (src : CandSrc) (iss hop : Nat) : Dev :=
  let (id, d) := d.newResult L t 2 true none hop
  (d.addEdge L 4 t src iss [(id, 0)]).addEdge L 5 (t + w) src iss [(id, 1)]

/-- The partner of a generator in a PULSE (R72). -/
def partner (eg : Nat) : Nat := if eg % 2 = 0 then eg + 1 else eg - 1

/-- The candidates of a FIRE (R72): one on each generator in the mask. -/
def Dev.fireAt (d : Dev) (L mask t : Nat) (src : CandSrc) (iss hop : Nat) : Dev :=
  [0, 1, 2, 3, 4, 5].foldl (fun d eg =>
    if mask / 2 ^ eg % 2 = 1 then
      if eg < 4 then d.addEdge L eg t src iss [] else d.ownStrobe L eg t src iss hop
    else d) d

/-- The candidates of a PULSE (R72): each generator in the mask and its partner after the width; a window for EG4, two
single strobes for EG5 alone. -/
def Dev.pulseAt (d : Dev) (L mask t w : Nat) (src : CandSrc) (iss hop : Nat) : Dev :=
  let d := [0, 1, 2, 3].foldl (fun d eg =>
    if mask / 2 ^ eg % 2 = 1 then (d.addEdge L eg t src iss []).addEdge L (partner eg) (t + w) src iss [] else d) d
  if mask / 16 % 2 = 1 then d.ownWindow L t w src iss hop
  else if mask / 32 % 2 = 1 then (d.ownStrobe L 5 t src iss hop).ownStrobe L 4 (t + w) src iss hop
  else d

/-! ### The launch arithmetic (R68) -/

/-- PD entry of a generator at point `i`, 1/16 tq. -/
def Phys.pdAt (x : Phys) (eg i : Nat) : Int := tget (fun _ => 0) x.pd (256 * eg + i % 256)

/-- Default ACHIEVED of a segment: none has been measured, the start of its window (R69). -/
def achievedDefault (key : Nat) : Int := 1024 * (key % 64 : Nat)

/-- SEGMAP[eg][s].ACHIEVED, 1/16 tq. -/
def Phys.achievedAt (x : Phys) (eg s : Nat) : Int := tget achievedDefault x.achieved (64 * eg + s)

/-- The conversion of a lane time to a launch: T0 number, segment and DAC code, with the path delay of the
generator's lane (R68). -/
def launchOf (x : Phys) (eg t : Nat) (drv den cmp : Nat) : Launch :=
  let u : Int := if 4 ≤ eg then (t : Int) + cmp else if eg < 2 then (t : Int) - drv else (t : Int) - den
  let coarse := u / 4096
  let f := u % 4096
  let k := (f / 16).toNat
  let r := f % 16
  let p0 := x.pdAt eg k
  let p1 := x.pdAt eg ((k + 1) % 256)
  let delta := (p0 * (16 - r) + p1 * r + 8) / 16
  let g := 16 * f + delta
  let (g, coarse) :=
    if g < 0 then (g + 65536, coarse - 1) else if 65536 ≤ g then (g - 65536, coarse + 1) else (g, coarse)
  let s := (g / 1024).toNat
  { coarse, seg := s, dac := 2 * (g - x.achievedAt eg s) }

/-! ### The route of an edge about a flip (R277, R278) -/

/-- DRV and DEN lane times committed on the lane. -/
def Dev.drvDenTimes (d : Dev) (L : Nat) : List Nat :=
  let l := d.lane L
  (l.flight.filterMap fun f => if f.eg < 4 then some f.lane else none) ++ optL l.drvLast ++ optL l.denLast

/-- F: the first point of the grid B + 512 × m that lies at least 512 tq from each of the lane times; one lies before
B + 4 T0 (R278). -/
def flipPoint (b : Nat) (times : List Nat) : Option Nat :=
  ((List.range 32).map fun m => b + 512 * m).find? fun f => times.all fun t => decide (t + 512 ≤ f) || decide (f + 512 ≤ t)

/-- Periods compared before the flip: none for a move without comparison (R277). -/
def Dev.shadowPeriods (d : Dev) (kind : SwapKind) : Nat :=
  if kind == .immediate || kind == .waiting then 0 else max 4 (d.get PE_CFG.SHADOW_PERIODS)

/-- The swap of the lane that has been loaded. -/
def Dev.shadowOf (d : Dev) (L : Nat) : Option Swap :=
  match (d.cl (L / 64)).swap with
  | none => none
  | some w => if w.lane = L % 64 && w.loaded then some w else none

/-- A period of the lane starts at `p`: the boundaries at and after the load are counted, and the one after the compared
periods is B (R277). -/
def Dev.shadowBoundary (d : Dev) (L p : Nat) : Dev :=
  match d.shadowOf L with
  | none => d
  | some w =>
    if w.b.isSome || decide (p < tq (w.loadT0 + d.epoch - d.up)) || (w.seen != 0 && decide (p ≤ w.lastP)) then d
    else
      let w := if d.shadowPeriods w.kind ≤ w.seen then { w with b := some p, times := d.drvDenTimes L }
        else { w with seen := w.seen + 1, lastP := p }
      d.modCl (L / 64) fun c => { c with swap := some w }

/-- The channel that a committed edge is launched on: the spare's from F on, for a strobe from the period that starts at B on,
else the serving channel. An edge with a lane time beyond the first free grid point shows F (R278). -/
def Dev.edgeRoute (d : Dev) (L eg t : Nat) (uses : List (Nat × Nat)) : Option Nat × Dev :=
  match d.shadowOf L with
  | none => (d.served L, d)
  | some w => match w.b with
    | none => (d.served L, d)
    | some b =>
      if 4 ≤ eg then
        let p := match uses with
          | [] => t
          | u :: _ => (((d.lane L).results.find? fun x => x.id == u.1).map fun x => if x.own then t else x.p).getD t
        (if b ≤ p then some w.spare else d.served L, d)
      else
        let f := match w.flipAt with
          | some f => some f
          | none => (flipPoint b (t :: w.times)).filter fun f => decide (f ≤ t)
        match f with
        | some f =>
          (if f ≤ t then some w.spare else d.served L, d.modCl (L / 64) fun c => { c with swap := some { w with flipAt := some f } })
        | none => (d.served L, d.modCl (L / 64) fun c => { c with swap := some { w with times := t :: w.times } })

/-- Launch of a committed lane time by the channel of its route; its firing is counted (R68, CH_EDGE_CNT). -/
def Dev.launch (d : Dev) (L eg t : Nat) (uses : List (Nat × Nat)) : Dev :=
  let (route, d) := d.edgeRoute L eg t uses
  match route with
  | none => d
  | some p =>
    let k := L / 64
    let x := d.ph k p
    let n := launchOf x eg t (d.get (CH_PATH_DRV.PATH k p)) (d.get (CH_PATH_DEN.PATH k p))
      (d.get (CH_PATH_CMP.PATH k p))
    let d := d.setPh k p { x with launches := tput (fun _ => { coarse := 0, seg := 0, dac := 0 }) x.launches eg n }
    d.wrapUp (CH_EDGE_CNT.COUNT k p eg)

/-! ### Swaps abandoned (R280) -/

/-- Return a channel to no role (R280). -/
def Dev.roleIdle (d : Dev) (k p : Nat) : Dev :=
  ((d.set (CH_PHYS_STAT.ROLE k p) 0).set (CH_PHYS_STAT.LANE k p) 0).set (CH_PHYS_STAT.TRACK k p) 0

/-- Abandon the swap that runs in cluster `k`; `again` queues it again (R276, R280). -/
def Dev.swapAbandon (d : Dev) (k : Nat) (again : Bool) : Dev :=
  match (d.cl k).swap with
  | none => d
  | some w =>
    let L := 64 * k + w.lane
    let d := d.modCl k fun c => { c with
      swap := none, swapQ := if again then c.swapQ ++ [(w.lane, w.kind)] else c.swapQ }
    let d := (d.roleIdle k w.spare).wrapUp PE_SWAP_CNT.ABORTED
    let d := d.set PE_STAT.SWAPS_ACTIVE (d.get PE_STAT.SWAPS_ACTIVE - 1)
    d.raise 4 0x4A 0 (L + 1024 * w.spare) (d.holderL L)

/-! ### Hold (R91) -/

/-- Hold causes as bits of HOLD_SET: 0 STALE, 1 MCHK, 2 UNPLACED, 3 UNDERRUN, 4 lock group. -/
abbrev holdStale : Nat := 0
abbrev holdMchk : Nat := 1
abbrev holdUnplaced : Nat := 2
abbrev holdUnderrun : Nat := 3
abbrev holdLg : Nat := 4

/-- HOLD_CAUSE of a set of causes: MCHK, UNDERRUN, lock group, UNPLACED, STALE in falling priority (R91). -/
def holdCause (set : Nat) : Nat :=
  if set / 2 % 2 = 1 then 2
  else if set / 8 % 2 = 1 then 4
  else if set / 16 % 2 = 1 then 5
  else if set / 4 % 2 = 1 then 3
  else if set % 2 = 1 then 1
  else 0

/-- LANE_STAT shows the causes in force. -/
def Dev.setHold (d : Dev) (L set : Nat) : Dev :=
  let d := (d.set (LANE_STAT.HOLD_SET L) set).set (LANE_STAT.HOLD L) (b2n (set != 0))
  (d.set (LANE_STAT.HOLD_CAUSE L) (holdCause set)).set (LANE_STAT.STALE L) (set % 2)

/-- A side of the request looks at lane position `j`: the start's edge or the stop's. -/
def Req.edgeOn (r : Req) (j : Nat) : Bool :=
  (match r.start with | .edge _ => r.lane == j | _ => false)
    || (match r.stop with | .edge _ => r.stopLane == j | _ => false)

/-- A frequency run looks at the CMP lane of position `j`. -/
def FreqRun.onLane (r : FreqRun) (j : Nat) : Bool := r.cfg.toNat % 2 == 0 && r.cfg.toNat / 2 % 64 == j

/-- A stamp whose prescaler counts the CMP lane of position `j` (R200). -/
def Dev.stampOn (d : Dev) (k j : Nat) (r : Req) : Bool :=
  r.stop == .prescaled && (match (d.fq k).run with | none => false | some run => run.onLane j)

/-- Measurements and gates that look at the lane are marked STALE, where they have begun (R168, R202). -/
def Dev.markStale (d : Dev) (L : Nat) : Dev :=
  let k := L / 64
  let now := tq d.epoch + 4095
  let d := { d with tmus := d.tmus.map fun ((key, x) : Nat × Tmu) =>
    match x.req with
    | none => (key, x)
    | some r => if key / 34 = k && (r.edgeOn (L % 64) || d.stampOn k (L % 64) r) && decide (r.ts ≤ now) then
                  (key, { x with stale := true })
                else (key, x) }
  d.modFq k fun f => match f.run, f.gate with
    | some run, some g =>
      if run.onLane (L % 64) && decide (g.g0 ≤ now) then { f with gate := some { g with stale := true } } else f
    | _, _ => f

/-- A hold for STALE or UNPLACED begins or ends: what R168 and R202 mark. -/
def Dev.markHold (d : Dev) (L cause : Nat) : Dev :=
  if cause = holdStale || cause = holdUnplaced then d.markStale L else d

/-- The lane enters hold for a cause: uncommitted candidates are discarded, the levels stay, and a swap of the lane
other than its own IMMEDIATE move is abandoned and waits (R91, R280). -/
def Dev.holdEnter (d : Dev) (L cause : Nat) : Dev :=
  let set := d.get (LANE_STAT.HOLD_SET L)
  if set / 2 ^ cause % 2 = 1 then d
  else
    let d := (d.setHold L (set + 2 ^ cause)).markHold L cause
    let cs := (d.lane L).cands
    let d := (d.modLane L fun l => { l with cands := [] }).loseCands L cs
    match (d.cl (L / 64)).swap with
    | none => d
    | some w =>
      if w.lane = L % 64 && !(cause == holdUnplaced && (w.kind == .immediate || w.kind == .waiting)) then
        d.swapAbandon (L / 64) true
      else d

/-- A hold cause ends; with none left the lane accepts candidates again from the levels it holds (R91). -/
def Dev.holdEnd (d : Dev) (L cause : Nat) : Dev :=
  let set := d.get (LANE_STAT.HOLD_SET L)
  if set / 2 ^ cause % 2 = 1 then (d.markHold L cause).setHold L (set - 2 ^ cause) else d

/-! ### Ending a program -/

/-- Discard the candidates that satisfy `p`, and what they would have sampled (R98, R112). -/
def Dev.cutCands (d : Dev) (L : Nat) (p : Cand → Bool) : Dev :=
  let l := d.lane L
  let ids := (l.cands.filter p).flatMap fun c => c.uses.map Prod.fst
  (d.setLane L { l with cands := l.cands.filter fun c => !p c }).dropResults L ids

/-- Take back what the expander has issued at or after `t` tq: its candidates not yet committed and its FIREs (R98);
P returns to the first of those boundaries. -/
def Dev.takeBack (d : Dev) (L t : Nat) : Dev :=
  let l := d.lane L
  let gone := (l.issued.filter fun x => decide (t ≤ x.p)).map fun x => x.id
  let p := l.issued.foldl (fun m x => if t ≤ x.p && x.p < m then x.p else m) l.p
  let d := d.cutCands L fun c => gone.contains c.iss
  d.modLane L fun l => { l with
    p, issued := l.issued.filter fun x => !decide (t ≤ x.p), lost := l.lost.filter fun x => !gone.contains x.iss, fires := l.fires.filter fun f => !gone.contains f.iss }

/-- The arrival of a wait's event in the fabric cycle of a STOP is undone: the STOP wins (R134). -/
def Dev.unresolve (d : Dev) (L : Nat) : Dev :=
  match (d.lane L).waitWas with
  | none => d
  | some x =>
    if x.cyc != d.cycle then d
    else
      let d := d.takeBack L x.p
      let d := d.modLane L fun l => { l with wait := some x.wait, p := x.wait.a, hop := x.hop, waitWas := none }
      let d := (d.set (PROG_STAT.LATE L) x.late).set (PROG_CNT.LATE L) x.cnt
      if d.progState L = 4 then d.set (PROG_STAT.STATE L) 5 else d

/-- A stop of the lane's program at `t` tq with ERR `err`; an earlier request stands. Periods already issued beyond
the boundary are taken back (R134, R54, R98). -/
def Dev.askStop (d : Dev) (L t err : Nat) : Dev :=
  let d := (d.modLane L fun l => { l with stopCyc := some d.cycle }).unresolve L
  let l := d.lane L
  let new := match l.stopAt with
    | none => (t, err)
    | some (t', e') => if t < t' then (t, err) else (t', e')
  (d.setLane L { l with stopAt := some new }).takeBack L new.1

/-- Ask every member but `except` that has not ended to stop at `t` tq, with ERR `err`; the start of an ARMED group that lies
after `t`, or is not fixed yet, is cancelled at that time (R54, R135). -/
def Dev.groupStop (d : Dev) (g t err : Nat) (except : Option Nat) : Dev :=
  let x := d.lg g
  let cancels := x.st == .armed && (match x.startAt with | none => true | some u => decide (t < u))
  let d := if cancels then
      d.setLg g { x with
        startAt := none
        stopT0 := some (match x.stopT0 with | none => (t + 4095) / 4096 | some u => min u ((t + 4095) / 4096)) }
    else d
  x.members.foldl (fun d m =>
    if some m == except || d.progState m == 0 || d.progState m == 6 || d.progState m == 7 then d
    else (if cancels then d.modLane m fun l => { l with startAt := none } else d).askStop m t err) d

/-! ### Requests to the micro-engine (R144) -/

/-- SEQ_REQ shows the requests that wait. -/
def Dev.showReq (d : Dev) (k : Nat) : Dev :=
  let c := d.cl k
  ((d.set (SEQ_REQ.PEND2 k) c.pend2.length).set (SEQ_REQ.PEND1 k) (b2n c.pend1.isSome)).set (SEQ_REQ.PEND0 k)
    (b2n c.pend0.isSome)

/-- The order of level-2 requests: by micro-cycle, and in one micro-cycle STOPPED before PRIME and the lower lane first
(R146). -/
def pendLe (a b : Nat × Nat × Nat) : Bool :=
  decide (a.2.2 / 4 < b.2.2 / 4) || (a.2.2 / 4 == b.2.2 / 4 &&
    (decide (b.1 < a.1) || (a.1 == b.1 && decide (a.2.1 ≤ b.2.1))))

/-- A level-2 request: vector 0 PRIME or 1 STOPPED of lane position `j`, one of each per lane; none while the cluster
is in machine check (R144, R146, R158). -/
def Dev.request2 (d : Dev) (k vec j : Nat) : Dev :=
  let c := d.cl k
  if d.on (CL_STATE.MCHK k) || c.pend2.any (fun r => r.1 == vec && r.2.1 == j) then d
  else (d.setCl k { c with pend2 := ordIns pendLe (vec, j, d.up) c.pend2 }).showReq k

/-- The PRIME request of lane position `j` is withdrawn: its priming is abandoned, or done (R131, R134). -/
def Dev.dropPrime (d : Dev) (k j : Nat) : Dev :=
  (d.modCl k fun c => { c with pend2 := c.pend2.filter fun r => !(r.1 == 0 && r.2.1 == j) }).showReq k

/-- What every end of a program leaves: nothing waits, nothing more is issued (R121, R134). -/
def Lane.ended (l : Lane) : Lane :=
  { l with wait := none, waitWas := none, mat := none, records := [], under := none, stopErr := none, startAt := none,
           stopAt := none, stopCyc := none, switches := [], issued := [], primeT0 := none, primeDue := none,
           primedT0 := none }

/-- The program enters STOPPED with ERR `err` (R134, R136); a BURST is cut (R112). -/
def Dev.progStopped (d : Dev) (L err : Nat) : Dev :=
  let d := d.cutCands L fun c => c.src == .burst
  let d := (d.modLane L Lane.ended).dropPrime (L / 64) (L % 64)
  let d := (d.set (PROG_STAT.STATE L) 7).set (PROG_STAT.ERR L) err
  (d.request2 (L / 64) 1 (L % 64)).irqOwner (lanePage L) 1

/-- A program stops for a fault of its own with ERR `err` at `t` tq; with LG_HOLD set its lock group stops too
(R135). -/
def Dev.progFault (d : Dev) (L err t : Nat) : Dev :=
  let d := d.progStopped L err
  match d.groupOf L with
  | none => d
  | some g =>
    let d := if d.on (PROG_CTRL.LG_HOLD L) then d.groupStop g (t + tq (d.lg g).lat) 8 (some L) else d
    d.groupCheck g

/-- A stop has reached the boundary P: nothing more is issued (R134). -/
def Lane.stopReached (l : Lane) : Bool := match l.stopAt with | none => false | some (t, _) => decide (t ≤ l.p)

/-- A program is at work: PRIMING, PRIMED, ARMED, RUNNING or WAITING. -/
def Dev.progBusy (d : Dev) (L : Nat) : Bool := 1 ≤ d.progState L && d.progState L ≤ 5

/-! ### Lanes of a cluster, and edges in flight -/

/-- The lanes of cluster `k` that a session holds. -/
def Dev.lanesOf (d : Dev) (k : Nat) : List Nat :=
  d.lanes.filterMap fun (L, l) => if L / 64 = k && l.holder.isSome then some L else none

/-- The lane has an edge in flight: a candidate, or a committed edge whose lane time has not passed (R92). -/
def Dev.inFlight (d : Dev) (L : Nat) : Bool :=
  let l := d.lane L
  !l.cands.isEmpty || l.flight.any fun f => tq d.epoch ≤ f.lane

end Sys2Proof.Machine
end

