-- ==== Sys2Proof/Machine/Bus.lean ====
section
/-! DEFINITION. What a host's write does to a register that has no behaviour of its own (R9, R10, R20), and the
write of the plain bits beside a command bit. -/

namespace Sys2Proof.Machine

/-- Key of a register as session `ss` reaches it: its own copy where the register has one. -/
def Row.key (r : Row) (pg : Page) (off ss : Nat) : Nat :=
  if r.per then sessKey ss + (pg.base + off) else pg.base + off

/-- Bits that hardware set in the present fabric cycle (R20). -/
def Dev.freshBits (d : Dev) (key : Nat) : Word :=
  let f := tget (fun _ => (0, 0)) d.fresh key
  if f.1 = d.cycle then f.2 else 0

/-- The word after a write: RW bits take the written value, W1C bits written 1 clear unless hardware set them in this
cycle, counts written with any 1 clear whole, all other bits keep their value (00_scope.md access codes, R9, R20,
R97). -/
def Row.merge (r : Row) (old val fresh : Word) : Word :=
  let rw := BitVec.ofNat 32 r.rw
  let w := (old &&& ~~~ rw) ||| (val &&& rw)
  let w := w &&& ~~~ (val &&& BitVec.ofNat 32 r.w1c &&& ~~~ fresh)
  r.clr.foldl (fun w f =>
    let m := BitVec.ofNat 32 ((2 ^ f.2 - 1) * 2 ^ f.1)
    if val &&& m == 0 then w else w &&& ~~~ m) w

/-- A word written to a register: a write of the same fabric cycle that takes effect after it keeps the last word, in
whatever order the two arrive (R19, R345). -/
def Dev.putWord (d : Dev) (ss key : Nat) (r : Row) (val : Word) : Dev :=
  let w := r.merge (d.reg key) val (d.freshBits key)
  if d.outranked ss key then d.setReg key (r.merge w (tget (fun _ => (0, 0, 0)) d.ports key).2.2 (d.freshBits key))
  else if r.per then d.setReg key w
  else (d.setReg key w).wrote ss key val

/-- The low word of a 64-bit register is held until its high word is written (R10). DESIGN CHOICE, log entry 82: a
register that sessions share holds one low word, so a session's low word takes the place of another's. -/
def Dev.holdLow (d : Dev) (ss key : Nat) (r : Row) (val : Word) : Dev :=
  if d.outranked ss key then d
  else
    let d : Dev := { d with hold := tput (fun _ => 0) d.hold key val }
    if r.per then d else d.wrote ss key val

/-- A write of a register's plain bits; a 64-bit register takes both words with its high word (R10). -/
def Dev.plainWrite (d : Dev) (ss : Nat) (pg : Page) (off : Nat) (val : Word) : Dev :=
  match rowOf pg off with
  | none => d.discard ss pg off
  | some r =>
    let key := r.key pg off ss
    if r.pair = 1 then d.holdLow ss key r val
    else if r.pair = 2 then
      match rowOf pg (off - 4) with
      | none => d
      | some lo => (d.putWord ss (key - 4) lo (tget (fun _ => 0) d.hold (key - 4))).putWord ss key r val
    else d.putWord ss key r val

/-- Who may write the register at an offset. -/
def whoOf (pg : Page) (off : Nat) : Who := match rowOf pg off with | none => .any | some r => r.who

/-- A write of a register with a command bit: the plain bits are written and, where `go` says so, the command acts;
a command passes the gate of READY and QUIESCE (R352, R402). -/
def Dev.cmdWrite (d : Dev) (ss : Nat) (pg : Page) (off : Nat) (val : Word) (go : Bool) (f : Dev → Dev) : Dev :=
  d.hostWrite ss pg off [val] (whoOf pg off) go fun d =>
    let d := d.plainWrite ss pg off val
    if go then f d else d

/-- Bit `i` of a written word. -/
def wbit (v : Word) (i : Nat) : Bool := v.getLsbD i

/-- Bits [lo + n - 1 : lo] of a written word. -/
def wfield (v : Word) (lo n : Nat) : Nat := (v.toNat / 2 ^ lo) % 2 ^ n

end Sys2Proof.Machine
end

