-- ==== Sys2Proof/Machine/Pool.lean ====
section
/-! DEFINITION. The TMU pool of a cluster (06, 11): requests, positions and guarantees (R268 to R270, R289 to R291), the
records and their ring credits (R177 to R182, R365 to R367), and what a machine check discards (R167). -/

namespace Sys2Proof.Machine

/-! ### Pages -/

/-- The TMU pool page of cluster `k`. -/
def poolPage (k : Nat) : Page := .pool ⟨k % 16, Nat.mod_lt _ (by omega)⟩

/-- The fault source of the pool, and of TMU `t` (R331). -/
abbrev poolSrc (k : Nat) : Nat := 256 + 112 * k + 102
abbrev tmuSrc (k t : Nat) : Nat := 256 + 112 * k + 68 + t

/-! ### Positions (R268, R269) -/

/-- TMU_STAT.STATE (R166): 0 IDLE, 1 ARMED, 2 MEASURING, 3 CONVERTING, 4 CREDIT, 5 RAMP_LOCK, 6 TEST, 7 CAL. -/
abbrev Dev.tmuState (d : Dev) (k t : Nat) : Nat := d.get (TMU_STAT.STATE k t)

/-- The TMU that serves pool position `q`. -/
def Dev.posTmu (d : Dev) (k q : Nat) : Option Nat :=
  if d.on (TMU_POOL_MAP.VALID k q) then some (d.get (TMU_POOL_MAP.TMU k q)) else none

/-- The valid pool positions. -/
def Dev.validPos (d : Dev) (k : Nat) : Nat := ((List.range 32).filter fun q => d.on (TMU_POOL_MAP.VALID k q)).length

/-- A TMU in service that is IDLE. -/
def Dev.tmuIdle (d : Dev) (k t : Nat) : Bool := d.get (TMU_STAT.ROLE k t) == 1 && d.tmuState k t == 0

/-- A TMU that can be armed: IDLE, with its dead time over (R166, R170). -/
def Dev.tmuReady (d : Dev) (k t : Nat) : Bool := d.tmuIdle k t && decide ((d.tmu k t).freeT0 ≤ d.up)

/-- The valid positions whose TMU can be armed, lowest first. -/
def Dev.readyPos (d : Dev) (k : Nat) : List Nat :=
  (List.range 32).filter fun q => match d.posTmu k q with | none => false | some t => d.tmuReady k t

/-- The valid positions whose TMU is IDLE, lowest first. -/
def Dev.idlePos (d : Dev) (k : Nat) : List Nat :=
  (List.range 32).filter fun q => match d.posTmu k q with | none => false | some t => d.tmuIdle k t

/-- Ramp faults of a TMU in the last 10 minutes (R172). -/
def Dev.recentFaults (d : Dev) (k t : Nat) : Nat :=
  ((d.tmu k t).faults.filter fun f => decide (d.up < f + 600 * secT0)).length

/-- Plinth's operating time, in whole seconds (R40). -/
def Dev.opNow (d : Dev) : Nat := d.pln.opSeconds + (d.up - d.pln.opT0) / secT0

/-- Minutes since the user code-density table of an interpolator was made; 0xFFFF while a factory set is in force
(R247). -/
def Dev.cdAge (d : Dev) (k t i : Nat) : Nat :=
  match tget (fun _ => 0) (d.tmu k t).cdMade i with
  | 0 => 0xFFFF
  | m + 1 => min ((d.opNow - m) / 60) 0xFFFE

/-- Rank of a usable TMU: user tables for both interpolators first, fewer recent faults, lower number (R268). -/
def Dev.tmuRank (d : Dev) (k t : Nat) : Nat :=
  let user := tget (fun _ => 0) (d.tmu k t).cdMade 0 != 0 && tget (fun _ => 0) (d.tmu k t).cdMade 1 != 0
  (if user then 0 else 100000) + 100 * d.recentFaults k t + t

/-- The spare TMUs that are usable and not held, best rank first. -/
def Dev.tmuSpares (d : Dev) (k : Nat) : List Nat :=
  ordSort (fun a b => decide (d.tmuRank k a ≤ d.tmuRank k b))
    ((List.range 34).filter fun t => d.get (TMU_STAT.ROLE k t) == 0 && d.tmuState k t == 0)

/-! ### Requests (R289 to R291) -/

/-- The queue of a request: its lane's 0 to 63, 64 the estimator's, 65 maintenance. -/
def Req.queue (r : Req) : Nat :=
  match r.src with
  | .measure | .slot _ => r.lane
  | .freq _ _ => 64
  | .maint _ _ | .burst _ => 65

/-- What limits a request: its queue, and for a background burst, in the same queue as other maintenance, a limit of its own
(R199, R296). -/
def Req.charge (r : Req) : Nat := match r.src with | .burst _ => 66 | _ => r.queue

/-- TMUs that serve requests of a queue: in_use of a lane, and what R296 and R199 limit. -/
def Dev.inUse (d : Dev) (k q : Nat) : Nat :=
  (d.tmus.filter fun ((key, x) : Nat × Tmu) => key / 34 == k && (match x.req with | none => false | some r => r.charge == q)).length

/-- The guarantee in force of lane position `j` (R270). -/
abbrev Dev.tmuMin (d : Dev) (k j : Nat) : Nat := (d.lane (64 * k + j)).tmuForce

/-- Sum of the guarantees in force in a cluster. -/
def Dev.minSum (d : Dev) (k : Nat) : Nat :=
  d.lanes.foldl (fun n (L, l) => if L / 64 = k then n + l.tmuForce else n) 0

/-- Guarantees not in use (R291). -/
def Dev.unmet (d : Dev) (k : Nat) : Nat :=
  d.lanes.foldl (fun n (L, l) => if L / 64 = k then n + (l.tmuForce - d.inUse k (L % 64)) else n) 0

/-- The timeout of a request: 0 selects TMU_POOL_TMO, and no value above 2^40 − 8 is used (R165). -/
def Dev.tmoOf (d : Dev) (k t : Nat) : Nat := min (if t = 0 then d.get (TMU_POOL_TMO.T0 k) else t) (2 ^ 40 - 8)

/-- An event slot returns to IDLE. A start event that its busy time dropped in this very fabric cycle was dropped
wrongly: it reaches the slot again, and the OVERRUN that it alone set is taken back (R185, R215). -/
def Dev.slotIdle (d : Dev) (k s : Nat) : Dev :=
  let d := d.set (TMU_SLOT_STAT.STATE k s) 0
  let mine := (d.cl k).missed.filter fun x => x.1 == s && x.2.2.arrive == d.ecyc
  match mine with
  | [] => d
  | x :: _ =>
    (d.set (TMU_SLOT_STAT.OVERRUN k s) (b2n x.2.1)).modCl k fun c => { c with
      missed := c.missed.filter fun x => x.1 != s, events := c.events ++ mine.map fun x => x.2.2 }

/-- TMU_SLOT_STAT.STATE of the slot that made the request, if one did. -/
def Dev.slotState (d : Dev) (k : Nat) (r : Req) (st : Nat) : Dev :=
  match r.src with
  | .slot s => if st = 0 then d.slotIdle k s else d.set (TMU_SLOT_STAT.STATE k s) st
  | _ => d

/-! ### Records and ring credits (R177 to R182, R366, R367) -/

/-- A result record less its SEQ (R177). -/
def recordBody (interval status epoch lch ctx : Nat) : BitVec 128 :=
  BitVec.ofNat 128 (interval % 2 ^ 52 + 2 ^ 52 * (status % 2 ^ 12) + 2 ^ 64 * (epoch % 2 ^ 32)
    + 2 ^ 96 * (lch % 2 ^ 10) + 2 ^ 106 * (ctx % 2 ^ 8))

/-- The ring does not exist for the session, or is being destroyed (R180, R366). -/
def Dev.ringBad (d : Dev) (ring session : Nat) : Bool :=
  match d.ring ring with
  | none => true
  | some r => r.owner != session || r.dying

/-- Records between HEAD and what the consumer or the copy has released, granted ones included (R367). -/
def Ring.used (r : Ring) : Nat := (r.head + r.out + 2 ^ 32 - (if r.dma then r.drain else r.tail)) % 2 ^ 32

/-- The ring and the cluster's result buffer have room (R367, R301). -/
def Dev.ringRoom (d : Dev) (k ring : Nat) : Bool :=
  match d.ring ring with
  | none => false
  | some r => decide (r.used < 2 ^ r.sizeLog2) && decide ((d.cl k).resultBuf < 256)

/-- A transfer enters the HBM scheduler under a flow or class (R297). -/
def Dev.hbmQueue (d : Dev) (flow : Nat) (x : Xfer) : Dev :=
  { d with sched := { d.sched with wait := tmod (fun _ => []) d.sched.wait flow (· ++ [x]) } }

/-- A record takes its credit: the ring's next sequence number, OVERRUN where records were dropped before it, and a
place in the result buffer (R179, R180, R301). -/
def Dev.creditTake (d : Dev) (k ring : Nat) (body : BitVec 128) : Dev :=
  match d.ring ring with
  | none => d
  | some r =>
    let w := body ||| BitVec.ofNat 128 (2 ^ 114 * r.seq) ||| (if r.ovr then BitVec.ofNat 128 (2 ^ 53) else 0)
    let d := d.setRing ring (some { r with seq := (r.seq + 1) % 0x4000, ovr := false, out := r.out + 1 })
    let d := d.modCl k fun c => { c with resultBuf := c.resultBuf + 1 }
    d.hbmQueue k { size := 16, since := d.cycle, what := .record k ring w }

/-- A record is dropped for want of a credit: its sequence number is consumed (R180). -/
def Dev.recordDrop (d : Dev) (k ring : Nat) : Dev :=
  let d := match d.ring ring with
    | none => d
    | some r => d.setRing ring (some { r with seq := (r.seq + 1) % 0x4000, ovr := true })
  (d.wrapUp (TMU_POOL_DROP.COUNT k)).irqOwner (poolPage k) 1

/-- A record is dropped because its ring does not exist or belongs to another session (R180). -/
def Dev.recordBad (d : Dev) (k ring session : Nat) : Dev :=
  ((d.stick (TMU_POOL_STAT.RING_ERR k)).irqOwner (poolPage k) 0).raise (poolSrc k) 0x32 0 ring [session]

/-- The last fabric cycle in which a credit that was asked for at T0 `since` still comes in time (R180). -/
def Dev.creditCycle (d : Dev) (k since : Nat) : Nat := (since + 256 * d.get (TMU_POOL_CFG.CREDIT_WAIT k)) / 4

/-- A TMU waits in CREDIT for the ring (R182: an injected record never delays a real one). -/
def Dev.creditWanted (d : Dev) (ring : Nat) : Bool :=
  d.tmus.any fun ((key, x) : Nat × Tmu) => d.tmuState (key / 34) (key % 34) == 4 && x.record.isSome
    && (match x.req with | none => false | some r => r.ring == ring)

/-- A slot whose record has been written or dropped returns to IDLE (R185). -/
def Dev.slotFree (d : Dev) (k : Nat) (slot : Option Nat) : Dev :=
  match slot with
  | none => d
  | some s => d.slotIdle k s

/-- Serve one record that waits without a TMU: dropped for a bad ring, written when there is room; with `late` it is
dropped once its wait is over (R179, R180). -/
def Dev.serveRec (d : Dev) (k : Nat) (late : Bool) (r : WaitRec) : Dev :=
  if d.ringBad r.ring r.session then (d.recordBad k r.ring r.session).slotFree k r.slot
  else if decide (d.cycle ≤ d.creditCycle k r.since) && d.ringRoom k r.ring && !(r.inj && d.creditWanted r.ring) then
    (d.creditTake k r.ring r.body).slotFree k r.slot
  else if late && decide (d.creditCycle k r.since < d.cycle) then (d.recordDrop k r.ring).slotFree k r.slot
  else d.modCl k fun c => { c with waitRec := c.waitRec ++ [r] }

/-- Serve the records of cluster `k` that wait without a TMU, real ones before injected ones (R179). -/
def Dev.serveWaiting (d : Dev) (k : Nat) (late : Bool := false) : Dev :=
  let l := (d.cl k).waitRec
  if l.isEmpty then d
  else
    let d := d.modCl k fun c => { c with waitRec := [] }
    ((l.filter fun r => !r.inj) ++ l.filter fun r => r.inj).foldl (fun d r => d.serveRec k late r) d

/-- Serve them in every cluster: a ring or a result buffer has gained room (R367). -/
def Dev.serveAll (d : Dev) : Dev := (List.range 16).foldl (fun d k => d.serveWaiting k) d

/-- A record of a request that waits without a TMU. -/
def Dev.recordWait (d : Dev) (k : Nat) (r : WaitRec) : Dev :=
  (d.modCl k fun c => { c with waitRec := c.waitRec ++ [r] }).serveWaiting k

/-- The LCH of a request's record (R177). -/
abbrev Req.lch (r : Req) (k : Nat) : Nat := 64 * k + r.lane

/-- A lane queue is full: a record with INTERVAL 0, NO_START and INVALID takes a credit without a TMU (R290). -/
def Dev.refuse (d : Dev) (k : Nat) (r : Req) : Dev :=
  let d := (d.bump (TMU_ARB_CNT.QFULL k)).slotState k r 5
  let slot := match r.src with | .slot s => some s | _ => none
  let d := match slot with | some s => d.wrapUp (TMU_SLOT_STAT.DONE k s) | none => d
  d.recordWait k { ring := r.ring, session := r.session, body := recordBody 0 0x500 (r.ts / 4096) (r.lch k) r.ctx,
                   since := d.up, inj := false, slot }

/-- A request reaches its queue, which is ordered by Ts; a full lane queue refuses it (R289, R290). -/
def Dev.poolRequest (d : Dev) (k : Nat) (r : Req) : Dev :=
  let c := d.cl k
  let r := { r with id := c.nextReq, post := d.epoch }
  let d := d.setCl k { c with nextReq := c.nextReq + 1 }
  if r.queue < 64 && decide (32 ≤ (c.queue.filter fun x => x.queue == r.queue).length) then d.refuse k r
  else
    (d.modCl k fun c => { c with queue := ordIns (fun a b => decide (a.ts ≤ b.ts)) r c.queue }).slotState k r 1

/-! ### Stamps of the frequency estimator (R199, R200) -/

/-- A stamp of the gate that opened at `g0` resolves. -/
def Dev.stampEnd (d : Dev) (k g0 : Nat) (f : FreqGate → FreqGate) : Dev :=
  let up := fun (g : FreqGate) =>
    if g.g0 != g0 then g
    else
      let g := { g with outstanding := g.outstanding - 1 }
      if g.aborted then g else f g
  d.modFq k fun x => { x with gate := x.gate.map up, pre := x.pre.map up, closed := x.closed.map up }

/-- The time base's state marks an open gate (R202): HOLDOVER, INTERNAL or REFIN_WAIT, SLEWING; so does a slewing
tree. -/
def Dev.gateFlags (d : Dev) (k : Nat) (g : FreqGate) : FreqGate :=
  let st := d.get TB_STAT.SRC_STATE
  { g with
    holdover := g.holdover || st == 4, internal := g.internal || decide (st ≤ 1), tbSlew := g.tbSlew || st == 5
    treeSlew := g.treeSlew || d.on (TB_TREE_PHASE.SLEWING k) }

/-- Open gates take note of the time base's state (R202). -/
def Dev.freqNote (d : Dev) : Dev :=
  { d with freqs := d.freqs.map fun ((k, f) : Nat × Freq) =>
    (k, { f with gate := f.gate.map fun g => if g.g0 < tq (d.epoch + 1) then d.gateFlags k g else g }) }

/-- A stamp is missed (R199). -/
def Dev.stampMissed (d : Dev) (k g0 : Nat) (stale : Bool) : Dev :=
  d.stampEnd k g0 fun g => { g with missed := g.missed + 1, stale := g.stale || stale }

/-- A stamp resolves with its pair (R198). -/
def Dev.stampGot (d : Dev) (k g0 : Nat) (s : Stamp) : Dev :=
  d.stampEnd k g0 fun g => { g with stamps := g.stamps ++ [s] }

/-- A request is discarded before its grant: its slot returns to IDLE, its stamp is missed, no record is written
(R167, R199). -/
def Dev.reqDiscard (d : Dev) (k : Nat) (r : Req) : Dev :=
  match r.src with
  | .slot s => d.slotIdle k s
  | .freq _ g0 => d.stampMissed k g0 false
  | _ => d

/-- A cluster machine check discards every request that has not been granted (R167). -/
def Dev.poolDiscard (d : Dev) (k : Nat) : Dev :=
  let l := (d.cl k).queue
  let d := d.modCl k fun c => { c with queue := [] }
  l.foldl (fun d r => d.reqDiscard k r) d

/-! ### Guarantees (R270) -/

/-- The Pointing Engine's generation goes up (R273). -/
def Dev.genUp (d : Dev) : Dev := d.wrapUp PE_GEN.GEN

/-- The lane that a reduction takes from next: the largest guarantee in force, the higher position on a tie. -/
def Dev.reduceNext (d : Dev) (k : Nat) : Nat :=
  (d.lanes.foldl (fun (b : Nat × Nat) (L, l) =>
    if L / 64 = k && decide (b.2 ≤ l.tmuForce) && l.tmuForce != 0 then (L, l.tmuForce) else b) (0, 0)).1

/-- Reduce guarantees, one at a time, until their sum fits the valid positions. -/
def Dev.reduceBy (d : Dev) (k : Nat) : Nat → Dev
  | 0 => d
  | n + 1 =>
    if d.minSum k ≤ d.validPos k then d
    else
      let L := d.reduceNext k
      let d := (d.modLane L fun l => { l with tmuForce := l.tmuForce - 1 }).modCl k fun c =>
        { c with reduced := L % 64 :: c.reduced }
      Dev.reduceBy d k n

/-- The pool has shrunk: guarantees are reduced, and the holder of each lane that lost some is told (R270). -/
def Dev.reduceGuarantees (d : Dev) (k : Nat) : Dev :=
  let old := (d.cl k).reduced.length
  let d := d.reduceBy k (d.minSum k)
  let now := (d.cl k).reduced
  (now.take (now.length - old)).eraseDups.foldl (fun d j =>
    let L := 64 * k + j
    (d.raise 4 0x49 2 L (d.holderL L)).irqAll (.dev 4) (d.holderL L) 3) d

/-- Restore reduced guarantees, latest reduction first, as long as the sum fits. -/
def Dev.restoreBy (d : Dev) (k : Nat) : Nat → Dev
  | 0 => d
  | n + 1 =>
    match (d.cl k).reduced with
    | [] => d
    | j :: rest =>
      if d.minSum k < d.validPos k then
        let d := (d.modLane (64 * k + j) fun l => { l with tmuForce := l.tmuForce + 1 }).modCl k fun c =>
          { c with reduced := rest }
        Dev.restoreBy d k n
      else d

/-- Positions or guarantees have come free (R270). -/
def Dev.restoreGuarantees (d : Dev) (k : Nat) : Dev := d.restoreBy k (d.cl k).reduced.length

/-! ### A TMU leaves service (R172, R269) -/

/-- The pool position of a TMU. -/
def Dev.posOf (d : Dev) (k t : Nat) : Option Nat := (List.range 32).find? fun q => d.posTmu k q == some t

/-- The TMU holds no measurement and no record of it waits. -/
def Dev.tmuFree (d : Dev) (k t : Nat) : Bool :=
  (d.tmuState k t == 0 || 5 ≤ d.tmuState k t) && !(d.cl k).waitRec.any fun r => r.tmu == some t

/-- Position `q` passes to spare `t`. -/
def Dev.posGive (d : Dev) (k q t : Nat) : Dev :=
  ((((d.set (TMU_POOL_MAP.TMU k q) t).set (TMU_POOL_MAP.VALID k q) 1).set (TMU_STAT.ROLE k t) 1).set
    (TMU_STAT.POSITION k t) q)

/-- Position `q` has no TMU any more (R269, R270). -/
def Dev.posLose (d : Dev) (k q : Nat) : Dev := (d.set (TMU_POOL_MAP.VALID k q) 0).reduceGuarantees k

/-- TMU `t` is declared UNUSABLE. Where no spare could follow, its position becomes invalid as soon as it holds no
record; otherwise the position waits for its handover (R172, R269, R270). -/
def Dev.tmuUnusable (d : Dev) (k t : Nat) (byBist : Bool) : Dev :=
  if d.get (TMU_STAT.ROLE k t) = 3 then d
  else
    let d := ((d.set (TMU_STAT.ROLE k t) 3).set (PAGE_STAT.UNUSABLE (tmuPg k t)) 1).irqOwner (poolPage k) 3
    let d := (d.modTmu k t fun x => { x with byBist }).genUp
    match d.posOf k t with
    | none => d
    | some q => if (d.tmuSpares k).isEmpty && d.tmuFree k t then d.posLose k q else d

end Sys2Proof.Machine
end

