-- ==== Sys2Proof/Machine/EdgeGen.lean ====
section
/-! DEFINITION. Edge generators and output lanes (03): trigger slots, the gate, software triggers, the lane logic,
strobes. -/

namespace Sys2Proof.Machine

/-! ### Trigger slots (R72 to R74) -/

/-- An enabled trigger slot accepts an event: the LATE rule, ONESHOT, the candidates or the gate change, and the busy
time (R72 to R74). -/
def Dev.slotAccept (d : Dev) (L n : Nat) (e : Event) : Dev :=
  let delay := d.get (LANE_TRIG_DELAY.DELAY L n) % 2 ^ 52
  let least := tq (if e.glob then 48 else 16)
  let d := d.stickIf (decide (delay < least)) (LANE_TRIG_STAT.LATE L n)
  let t := e.origin + max delay least
  let mask := d.get (LANE_TRIG_CFG.EG_MASK L n)
  let action := d.get (LANE_TRIG_CFG.ACTION L n)
  let width := d.get (LANE_TRIG_WIDTH.WIDTH L n)
  let d := d.wrapUp (LANE_TRIG_STAT.ACCEPTED L n)
  let d := if d.on (LANE_TRIG_CFG.ONESHOT L n) then d.set (LANE_TRIG_CFG.ENABLE L n) 0 else d
  let d :=
    if action = 0 then d.fireAt L mask t (.trig n e.hop) 0 (e.hop + 1)
    else if action = 1 then d.pulseAt L mask t width (.trig n e.hop) 0 (e.hop + 1)
    else d.modLane L fun l => { l with
      gates := ordIns (fun a b => decide (a.t ≤ b.t)) { t, mask, arm := action == 2 } l.gates }
  let last := if action = 1 then t + width else t
  let busy := last + tq (d.get (LANE_TRIG_REFRACT.REFRACT L n))
  let d := d.modLane L fun l => { l with slotBusy := tput (fun _ => 0) l.slotBusy n busy }
  d.set (LANE_TRIG_STAT.BUSY L n) 1

/-- An event reaches trigger slot `n`; `merged` is how many more it stands for (R73, R215). -/
def Dev.slotEvent (d : Dev) (L n : Nat) (e : Event) (merged : Nat) : Dev :=
  if !d.on (LANE_TRIG_CFG.ENABLE L n) then d
  else
    let d := if merged = 0 then d else d.bump (LANE_TRIG_STAT.MERGE L n)
    if 16384 * (e.arrive + 1) < tget (fun _ => 0) (d.lane L).slotBusy n then d.stick (LANE_TRIG_STAT.OVERRUN L n)
    else d.slotAccept L n e

/-- The busy time of a trigger slot has ended (R73). -/
def Dev.slotBusyEnd (d : Dev) (L n : Nat) : Dev :=
  let b := tget (fun _ => 0) (d.lane L).slotBusy n
  if b ≠ 0 && b ≤ tq d.epoch then
    (d.modLane L fun l => { l with slotBusy := tput (fun _ => 0) l.slotBusy n 0 }).set (LANE_TRIG_STAT.BUSY L n) 0
  else d

/-- TRIGGER_SLOT_BUSY_END (R73). -/
def execTriggerSlotBusyEnd (L : Lch) (n : Fin 4) (s : State) : Result := s.on fun d => d.slotBusyEnd L n

/-! ### The gate (R75) -/

/-- Bits of the gate after an event. -/
def gateApply (m : Nat) (g : GateEv) : Nat :=
  if g.arm then m ||| g.mask else m &&& (63 ^^^ (g.mask &&& 63))

/-- The generators that are armed at a scheduled time: an edge at the gate time has the new state, and from the start of a
program that has not begun yet all six are armed (R75). -/
def Lane.armedAt (l : Lane) (t : Nat) : Nat :=
  let due := l.gates.filter fun g => g.t ≤ t
  match l.startAt with
  | some u => if u ≤ t then (due.filter fun g => u ≤ g.t).foldl gateApply 0x3F else due.foldl gateApply l.gate0
  | none => due.foldl gateApply l.gate0

/-- The first scheduled gate change whose time has come shows in LANE_GATE; changes that no candidate can precede any
more are forgotten (deskew is under 256 T0, R66). -/
def Dev.gateChange (d : Dev) (L : Nat) : Dev :=
  let l := d.lane L
  match l.gates.find? fun g => !g.done with
  | none => d
  | some g =>
    if tq d.epoch + 4095 < g.t then d
    else
      let d := d.set (LANE_GATE.ARMED L) (gateApply (d.get (LANE_GATE.ARMED L)) g)
      let gates := l.gates.map fun x => if x == g then { x with done := true } else x
      let old := gates.filter fun x => x.done && x.t + tq 512 < tq d.epoch
      d.setLane L { l with
        gates := gates.filter fun x => !(x.done && x.t + tq 512 < tq d.epoch)
        gate0 := old.foldl gateApply l.gate0 }

/-- GATE_CHANGE (R75). -/
def execGateChange (L : Lch) (s : State) : Result := s.on fun d => d.gateChange L

/-! ### Software triggers (R76) -/

/-- LANE_SW_CTRL.GO: the candidates of a FIRE or PULSE from the write's origin (R76, R17). -/
def Dev.swTrigger (d : Dev) (L : Nat) : Dev :=
  let delay := d.get (LANE_SW_DELAY.DELAY L) % 2 ^ 52
  let d := d.stickIf (decide (delay < tq 16)) (LANE_STAT.SW_LATE L)
  let t := tq d.epoch + max delay (tq 16)
  let mask := d.get (LANE_SW_CTRL.EG_MASK L)
  if d.on (LANE_SW_CTRL.ACTION L) then d.pulseAt L mask t (d.get (LANE_SW_WIDTH.WIDTH L)) .software 0 0
  else d.fireAt L mask t .software 0 0

/-- SW_TRIGGER_GO: a write of LANE_SW_CTRL (R76, R96). -/
def Dev.swTriggerWrite (d : Dev) (ss L : Nat) (val : Word) : Dev :=
  d.cmdWrite ss (lanePage L) 0x130 val (wbit val 16) fun d => d.swTrigger L

/-- SW_TRIGGER_GO (R76). -/
def execSwTriggerGo (ss : Sess) (L : Lch) (val : Word) (s : State) : Result := s.on fun d => d.swTriggerWrite ss L val

/-! ### LANE_CFG (R92) -/

/-- A write of LANE_CFG: a change of an inversion while the lane has an edge in flight is discarded (R92). -/
def Dev.laneCfgWrite (d : Dev) (ss L : Nat) (val : Word) : Dev :=
  d.hostWrite ss (lanePage L) 0x100 [val] .owner false fun d =>
    if (val ^^^ d.reg (LANE_CFG L)) &&& 3 != 0 && d.inFlight L then d.discard ss (lanePage L) 0x100
    else d.plainWrite ss (lanePage L) 0x100 val

/-- LANE_CFG_WRITE (R92). -/
def execLaneCfgWrite (ss : Sess) (L : Lch) (val : Word) (s : State) : Result := s.on fun d => d.laneCfgWrite ss L val

/-! ### The lane logic (R77, R79) -/

/-- Lane time of a generator's last firing (R77). -/
def Lane.firedAt (l : Lane) (eg : Nat) : Option Nat :=
  match tget (fun _ => 0) l.fired eg with
  | 0 => none
  | t + 1 => some t

/-- A generator may not fire again at `t` (R77). -/
def Lane.tooSoon (l : Lane) (eg t : Nat) : Bool :=
  match l.firedAt eg with
  | none => false
  | some f => decide (t < f + 8192)

/-- Commit a generator at lane time `t`: it launches, and is in flight until the ball (R71, R77). -/
def Dev.commitAt (d : Dev) (L eg t : Nat) (uses : List (Nat × Nat)) : Dev :=
  (d.modLane L fun l => { l with
    fired := tput (fun _ => 0) l.fired eg (t + 1)
    flight := l.flight ++ [{ eg, lane := t, uses }] }).launch L eg t uses

/-- One candidate on DRV or DEN: redundancy, width, rate, commitment (R77). -/
def Dev.commitEdge (d : Dev) (L eg t : Nat) : Dev :=
  let level := if eg < 2 then LANE_STAT.DRV_LEVEL L else LANE_STAT.DEN_LEVEL L
  let want := if eg % 2 = 0 then 1 else 0
  if d.get level = want then d
  else
    let l := d.lane L
    let last := if eg < 2 then l.drvLast else l.denLast
    let short := match last with | none => false | some x => decide (t < x + 2622)
    let t' := match last with | none => t | some x => if t < x + 2622 then x + 2622 else t
    let d := if short then (d.stick (LANE_STAT.PW_VIOL L)).bump (LANE_CNT.STRETCH L) else d
    if l.tooSoon eg t' then (d.stick (LANE_STAT.RATE_VIOL L)).bump (LANE_CNT.RATE_DROP L)
    else
      let d := d.modLane L fun l =>
        if eg < 2 then { l with drvLast := some t' } else { l with denLast := some t' }
      (d.commitAt L eg t' []).set level want

/-- The candidates of DRV (`set` 0) or DEN (`set` 2) that share a lane time: merged, cancelled or committed (R77). -/
def Dev.commitPair (d : Dev) (L set t : Nat) (cs : List Cand) : Dev :=
  let a := (cs.filter fun c => c.eg == set).length
  let b := (cs.filter fun c => c.eg == set + 1).length
  let d := d.bump (LANE_CNT2.MERGE L) ((a - 1) + (b - 1))
  if 0 < a && 0 < b then d.stick (LANE_STAT.PW_VIOL L)
  else if 0 < a then d.commitEdge L set t
  else if 0 < b then d.commitEdge L (set + 1) t
  else d

/-- The strobes of one generator that share a lane time (R79). -/
def Dev.commitStrobe (d : Dev) (L eg t : Nat) (cs : List Cand) : Dev :=
  let mine := cs.filter fun c => c.eg == eg
  let uses := mine.flatMap fun c => c.uses
  if mine.isEmpty then d
  else
    let d := d.bump (LANE_CNT2.MERGE L) (mine.length - 1)
    if (d.lane L).tooSoon eg t then
      let d := ((d.stick (LANE_STAT.RATE_VIOL L)).bump (LANE_CNT.RATE_DROP L)).stick (LANE_STAT.STB_MISSED L)
      d.resolveUses L uses { code := 0, valid := false, gated := false, t }
    else d.commitAt L eg t uses

/-- A period-program edge (R75, R99). -/
def CandSrc.program : CandSrc → Bool
  | .period | .instr | .burst => true
  | .trig _ _ | .software | .rest => false

/-- The earliest lane time among the candidates. -/
def earliest : List Cand → Option Nat
  | [] => none
  | c :: cs => match earliest cs with
    | none => some c.lane
    | some t => some (min c.lane t)

/-- Commit the candidates of the lane's earliest lane time, once it is 4 T0 away (R71, R75, R77, R79). A lane that no physical
channel serves commits none and keeps its levels (R90). -/
def Dev.candidateCommit (d : Dev) (L : Nat) : Dev :=
  let l := d.lane L
  match earliest l.cands with
  | none => d
  | some t =>
    if d.epoch + 4 < t / 4096 then d
    else if (d.served L).isNone then d.cutCands L fun c => c.lane == t
    else
      let now := l.cands.filter fun c => c.lane == t
      let d := d.setLane L { l with
        cands := l.cands.filter fun c => c.lane != t
        flight := l.flight.filter fun f => 4 ≤ f.eg || tq d.epoch ≤ f.lane }
      let shut := fun (c : Cand) => c.src.program && l.armedAt c.sched / 2 ^ c.eg % 2 == 0
      let live := now.filter fun c => !shut c
      let d := d.resolveUses L ((now.filter shut).flatMap fun c => c.uses)
        { code := 0, valid := false, gated := true, t }
      let d := (d.commitPair L 0 t live).commitPair L 2 t live
      (d.commitStrobe L 4 t live).commitStrobe L 5 t live

/-- CANDIDATE_COMMIT (R71, R77). -/
def execCandidateCommit (L : Lch) (s : State) : Result := s.on fun d => d.candidateCommit L

/-! ### Strobes (R86 to R88) -/

/-- The level behind LANE_CFG.CMP_INV. -/
def Dev.cmpLevel (d : Dev) (L : Nat) (ball : Bool) : Bool := ball != d.on (LANE_CFG.CMP_INV L)

/-- The code that a strobe gives a side of a result: the level, or CHANGED at the close of a window. `changed` says whether a
transition was seen since the open of the window that opened first; one that the same close ends and that opened later has
seen it where the last transition came after its own open (R79, R87). -/
def Dev.sampleCode (d : Dev) (L lev : Nat) (changed : Bool) (uses : List (Nat × Nat)) (u : Nat × Nat) : Nat :=
  let l := d.lane L
  let opened := fun (id : Nat) => ((l.results.find? fun r => r.id == id && r.mode == 2).bind fun r => r.s0).map fun x => x.t
  match opened u.1 with
  | none => if u.2 == 1 && changed && (l.results.find? fun r => r.id == u.1).any (fun r => r.mode == 2) then 2 else lev
  | some o =>
    let first := uses.all fun v => v.2 != 1 || (match opened v.1 with | none => true | some t => decide (o ≤ t))
    if u.2 == 1 && changed && (first || decide (o ≤ l.cmpT)) then 2 else lev

/-- The lane's earliest committed strobe samples the CMP lane: `level` is what the latch resolves from the ball,
`changed` whether a transition was seen since the window's open (R65, R87, R88). -/
def Dev.strobeSample (d : Dev) (L : Nat) (level changed : Bool) : Dev :=
  let l := d.lane L
  let best := l.flight.foldl (fun (b : Option Flight) f =>
    if f.eg < 4 then b else match b with
      | none => some f
      | some x => if f.lane < x.lane then some f else some x) none
  match best with
  | none => d
  | some f =>
    if d.epoch < f.lane / 4096 then d
    else
      let lev := b2n (d.cmpLevel L level)
      let d := d.setLane L { l with flight := l.flight.filter fun x => x != f }
      let code := d.sampleCode L lev changed f.uses
      (f.uses.foldl (fun d u =>
        d.resolveSide L u { code := code u, valid := true, gated := false, t := f.lane }) d).deliverResults L

/-- STROBE_SAMPLE (R87, R88, R89, R118). -/
def execStrobeSample (L : Lch) (level changed : Bool) (s : State) : Result :=
  s.on fun d => d.strobeSample L level changed

/-! ### The CMP edge event (R89) -/

/-- The stamper's side of a transition: the first qualifying one of a fabric cycle raises the event, every further transition
of that cycle is counted; a lane that no channel serves stamps nothing (R89). -/
def Dev.cmpStamp (d : Dev) (L arrival : Nat) (rise : Bool) : Dev :=
  let sel := d.get (LANE_EVT_CFG.CMP_SEL L)
  if (d.served L).isNone then d
  else if (d.lane L).cmpCycle == some (cyc arrival) then d.bump (LANE_CNT2.CMP_COALESCE L)
  else if !(sel == 3 || (sel == 1 && rise) || (sel == 2 && !rise)) then d
  else
    let d := d.modLane L fun l => { l with cmpCycle := some (cyc arrival) }
    d.emit (L / 64) (2 * (L % 64)) arrival 0

/-! ### Strobes that a hold has discarded (R119) -/

/-- A discarded strobe's result would have been compared: of a window both strobes are armed, else one of them (R118). -/
def Lane.lostCovered (l : Lane) (x : LostStb) : Bool :=
  let armed := fun (s : Nat × Nat) => l.armedAt s.2 / 2 ^ s.1 % 2 == 1
  if x.window then x.strobes.all armed else x.strobes.any armed

/-- The discarded strobes whose lane time has come: UNCOMPARED is set where MATCH would have compared them and the lane is in
hold for STALE or UNPLACED as they fall (R119). -/
def Dev.lostFall (d : Dev) (L : Nat) : Dev :=
  let l := d.lane L
  let due := l.lost.filter fun x => decide (x.t < tq (d.epoch + 1))
  if due.isEmpty then d
  else
    let unc := d.heldUncompared L && due.any l.lostCovered
    (d.setLane L { l with lost := l.lost.filter fun x => !decide (x.t < tq (d.epoch + 1)) }).stickIf unc
      (PROG_STAT.UNCOMPARED L)

end Sys2Proof.Machine
end

