-- ==== Sys2Proof/Machine/CalRun.lean ====
section
/-! DEFINITION. Caliper's runs and jobs (09): a unit and what Caliper knows of it (R234, R236), the result of a unit that was
not accepted (R260), the end of a run's hold on its units (R250, R251), and how a job ends in CAL_ABORTED or a run in
CAL_PREEMPTED (R253). -/

namespace Sys2Proof.Machine

/-- The Caliper page. -/
abbrev calPage : Page := .dev 3

/-! ### Units (R234) -/

/-- The number of a table unit, without the route of a path. -/
def CalUnit.key (u : CalUnit) : Nat := ((u.cluster * 2 + b2n u.tmu) * 128 + u.unit) * 8 + u.part

/-- The number with the route, by which Caliper keeps what it knows of the unit and by which a user bank names it. -/
def CalUnit.routeKey (u : CalUnit) : Nat := 16384 * u.key + u.sub

/-- The unit of such a number. -/
def unitOfKey (n : Nat) : CalUnit :=
  let key := n / 16384
  { cluster := key / 2048 % 16, tmu := key / 1024 % 2 == 1, unit := key / 8 % 128, part := key % 8, sub := n % 16384 }

/-- CAL_LAST_REJ of a unit and a code. -/
def CalUnit.rej (u : CalUnit) (code : Nat) : Nat :=
  u.cluster + 16 * b2n u.tmu + 32 * u.unit + 4096 * u.part + 32768 * code

/-- What Caliper keeps of a unit (CAL_UNIT_INFO). -/
def Dev.unitInfo (d : Dev) (u : CalUnit) : UnitInfo := tget (fun _ => {}) d.cal.info u.routeKey

/-- It changes. -/
def Dev.modInfo (d : Dev) (u : CalUnit) (f : UnitInfo → UnitInfo) : Dev :=
  { d with cal := { d.cal with info := tmod (fun _ => {}) d.cal.info u.routeKey f } }

/-- The route, the code density of a TMU with both its interpolators, the tree of a cluster. -/
def pathUnit (k p j : Nat) : CalUnit := { cluster := k, tmu := false, unit := p, part := 6, sub := j }
def densUnit (k t : Nat) : CalUnit := { cluster := k, tmu := true, unit := t, part := 0 }
def treeUnit (k : Nat) : CalUnit := { cluster := k, tmu := false, unit := 0, part := 7 }

/-! ### Runs and jobs -/

/-- The run of cluster `k`. -/
def Dev.run (d : Dev) (k : Nat) : Option CalRun := (d.cal.runs.find? fun ((i, _) : Nat × CalRun) => i == k).map Prod.snd

/-- It changes. -/
def Dev.modRun (d : Dev) (k : Nat) (f : CalRun → CalRun) : Dev :=
  { d with cal := { d.cal with runs := d.cal.runs.map fun ((i, r) : Nat × CalRun) => (i, if i = k then f r else r) } }

/-- The pass that runs in cluster `k` is to be repeated (R237). -/
def Dev.passOff (d : Dev) (k : Nat) : Dev := d.modRun k fun r => { r with off := true }

/-- The passes of every cluster are. -/
def Dev.passesOff (d : Dev) : Dev :=
  { d with cal := { d.cal with runs := d.cal.runs.map fun ((i, r) : Nat × CalRun) => (i, { r with off := true }) } }

/-- The key of a device-wide job, a store or an invalidation, among those of clusters 0 to 15. -/
abbrev storeJob : Nat := 16

/-- The job of a cluster, or the device-wide one. -/
def Dev.job (d : Dev) (k : Nat) : Option CalJob := (d.cal.jobs.find? fun ((i, _) : Nat × CalJob) => i == k).map Prod.snd

/-- A job comes in or changes. -/
def Dev.setJob (d : Dev) (k : Nat) (j : CalJob) : Dev :=
  { d with cal := { d.cal with jobs := tins (terase d.cal.jobs k) k j } }

/-- CAL_STAT.BUSY and QUEUE show what runs and waits. -/
def Dev.showCal (d : Dev) : Dev :=
  (d.set CAL_STAT.BUSY (b2n (d.cal.runs.any fun ((_, r) : Nat × CalRun) => r.started))).set CAL_STAT.QUEUE
    d.cal.queue.length

/-! ### Results (R260) -/

/-- The session's command has ended. -/
def Dev.calEnd (d : Dev) (session : Option Nat) (result : Nat) : Dev :=
  match session with
  | none => d
  | some ss =>
    let d := (d.set (CAL_CMD_STAT.STATE ss) 3).set (CAL_CMD_STAT.RESULT ss) result
    (d.stick (CAL_CMD_STAT.DONE ss)).irqAt calPage ss 0

/-- Message kind and severity of a rejection. -/
def rejKind (code : Nat) : Nat × Nat :=
  if code = 1 then (0x40, 1) else if code = 3 then (0x41, 1) else if code = 4 then (0x42, 1) else (0x43, 0)

/-- The message of a rejection, to the session that issued the command (R260). -/
def Dev.rejTell (d : Dev) (u : CalUnit) (code : Nat) (dest : List Nat) : Dev :=
  d.raise 3 (rejKind code).1 (rejKind code).2 (u.rej code) dest

/-- The result of a unit's run: CAL_UNIT_INFO, and for a unit of the cluster's command its result, counts, message and
interrupt. A run that no command asked for is told to no session. -/
def Dev.unitNote (d : Dev) (k : Nat) (cmd : Bool) (u : CalUnit) (code : Nat) : Dev :=
  let d := d.modInfo u fun x => { x with last := code, stored := x.stored && code != 0 }
  match (if cmd then d.job k else none) with
  | none => if code = 0 then d else d.rejTell u code []
  | some j =>
    let d := if j.result = 0 then d.setJob k { j with result := code } else d
    match j.cmd.session with
    | none => if code = 0 then d else d.rejTell u code []
    | some ss =>
      if code = 0 then d.bump (CAL_CMD_CNT.ACCEPTED ss)
      else
        let d := (d.bump (CAL_CMD_CNT.REJECTED ss)).setReg (CAL_LAST_REJ ss) (BitVec.ofNat 32 (u.rej code))
        (d.rejTell u code [ss]).irqAt calPage ss 1

/-- The table units of a run: both interpolators of a TMU but for those already refused, or the one unit (R234, R238). -/
def CalRun.parts (r : CalRun) : List CalUnit :=
  if r.unit.tmu then ([0, 1].filter fun i => !r.skip.contains i).map fun i => { r.unit with part := i } else [r.unit]

/-- The run's units end with a code that does not count under R236. -/
def Dev.runNote (d : Dev) (k : Nat) (r : CalRun) (code : Nat) : Dev :=
  r.parts.foldl (fun d u => d.unitNote k true u code) d

/-! ### The end of a hold on units (R250, R251) -/

/-- A TMU that Caliper or self-test held is free again: in service at its position, or a spare; one that has been
declared UNUSABLE stays so. -/
def Dev.maintFree (d : Dev) (k t : Nat) : Dev :=
  let d := (d.set (PAGE_STAT.STALE (tmuPg k t)) 0).set (PAGE_STAT.CAL_ACTIVE (tmuPg k t)) 0
  let d := d.set (PAGE_STAT.BIST_ACTIVE (tmuPg k t)) 0
  let d := (d.modTmu k t fun x => { x with req := none, record := none }).set (TMU_STAT.STATE k t) 0
  if d.get (TMU_STAT.ROLE k t) = 3 then d else d.set (TMU_STAT.ROLE k t) (b2n (d.posOf k t).isSome)

/-- Maintenance requests of Caliper leave the pool's queue. -/
def Dev.maintCancel (d : Dev) (k : Nat) (bist : Bool) : Dev :=
  d.modCl k fun c => { c with queue := c.queue.filter fun r => match r.src with | .maint _ b => b != bist | _ => true }

/-- The run of cluster `k` lets go of its TMUs and its channel, and of the lane it holds (R250, R253). -/
def Dev.runFree (d : Dev) (k : Nat) : Dev :=
  match d.run k with
  | none => d
  | some r =>
    let d := r.tmus.foldl (fun d t => d.maintFree k t) (d.maintCancel k false)
    let d := if r.unit.tmu || !r.taken then d
      else
        let pg := chPg k r.unit.unit
        let d := ((d.set (PAGE_STAT.CAL_ACTIVE pg) 0).set (PAGE_STAT.STALE pg) 0).set (CH_PHYS_STAT.CAL_ACTIVE k r.unit.unit) 0
        d.set (CH_PHYS_STAT.LOOPBACK k r.unit.unit) 0
    let d := { d with cal := { d.cal with runs := terase d.cal.runs k } }
    (match r.held with
      | none => d
      | some L => d.holdEnd L holdStale).showCal

/-- TMUs of cluster `k` in a background burst (R258). -/
def Dev.inBurst (d : Dev) (k : Nat) : List Nat :=
  (List.range 34).filter fun t => match (d.tmu k t).req with
    | some r => r.src == .burst t
    | none => false

/-- CAL_STAT.BG_ACTIVE shows whether a burst runs in any cluster (R258). -/
def Dev.showBg (d : Dev) : Dev :=
  d.set CAL_STAT.BG_ACTIVE (b2n ((List.range 16).any fun k => !(d.inBurst k).isEmpty))

/-- The bursts of a cluster end without their hits. -/
def Dev.burstsEnd (d : Dev) (k : Nat) : Dev :=
  let ts := d.inBurst k
  if ts.isEmpty then d else (ts.foldl (fun d t => d.maintFree k t) d).showBg

/-! ### Aborted and preempted runs (R253) -/

/-- A job leaves its cluster, and its command ends. -/
def Dev.jobOver (d : Dev) (k : Nat) : Dev :=
  match d.job k with
  | none => d
  | some j => (({ d with cal := { d.cal with jobs := terase d.cal.jobs k } } : Dev).calEnd j.cmd.session j.result).showCal

/-- A job ends with CAL_ABORTED: its present unit and all the others; tables in force stay (R253). -/
def Dev.jobAbort (d : Dev) (k : Nat) : Dev :=
  match d.job k with
  | none => d.runFree k
  | some j =>
    let now := match d.run k with
      | some r => r.parts
      | none => []
    let rest := (if (d.run k).isSome then j.todo.drop 1 else j.todo).flatMap fun u => ({ unit := u } : CalRun).parts
    let d := (now ++ rest).foldl (fun d u => d.unitNote k true u 6) (d.runFree k)
    match d.job k with
    | none => d
    | some j => (d.setJob k { j with todo := [], result := if j.result = 0 then 6 else j.result }).jobOver k

/-- A machine check during a Caliper step: the unit's run and the rest of the cluster's units in the command end
(R156, R253). -/
def Dev.calMchk (d : Dev) (k : Nat) : Dev :=
  let d := d.burstsEnd k
  match d.run k with
  | none => d
  | some r => if r.started then d.jobAbort k else d

/-- Caliper yields a spare channel or a spare TMU: the run ends with CAL_PREEMPTED and its unit waits again
(R253, R269). -/
def Dev.calYield (d : Dev) (k : Nat) : Dev :=
  match d.run k with
  | none => d
  | some r => (d.runNote k r 7).runFree k

end Sys2Proof.Machine
end

