-- ==== Sys2Proof/Machine/SeqOps.lean ====
section
/-! DEFINITION. Operations on edge programs that several chapters share: the Edge Vector Store (R104), priming
(R131), arming and starting (R132, R133), UNDERRUN (R130), self-test giving way (R303, R312) and the machine check
(R156). -/

namespace Sys2Proof.Machine

/-! ### The Edge Vector Store (R104, R271) -/

/-- The EVS region of the session that holds the lane. -/
def Dev.evs (d : Dev) (L : Nat) : Option Alloc :=
  match (d.lane L).holder with
  | none => none
  | some s => d.pe.allocs.find? fun a => a.session == s && a.kind == 0

/-- Entries of that region: 131,072 per granule (R271). -/
def Dev.evsEntries (d : Dev) (L : Nat) : Nat :=
  match d.evs L with
  | none => 0
  | some a => 131072 * a.count

/-! ### The BAR2 window (R359) -/

/-- HBM address behind byte `a` of a session's BAR2 window; none where the granule is unmapped. -/
def Dev.bar2At (d : Dev) (ss a : Nat) : Option Nat :=
  match d.pe.allocs.find? fun x =>
      x.session == ss && decide (x.window ≤ a / 0x200000) && decide (a / 0x200000 < x.window + x.count) with
  | none => none
  | some x => some (0x200000 * (x.base + (a / 0x200000 - x.window)) + a % 0x200000)

/-- `n` bytes of a session's BAR2 window from `a`; unmapped granules read zeros (R360). -/
def Dev.bar2Bytes (d : Dev) (hbm : List Host.Cell) (ss a : Nat) : Nat → List Byte
  | 0 => []
  | n + 1 => (match d.bar2At ss a with | none => 0 | some x => readByte hbmDefault hbm x)
      :: d.bar2Bytes hbm ss (a + 1) n

/-- HBM address of the first byte of [a, a + n) of a session's window that is marked poisoned. -/
def Dev.bar2Poison (d : Dev) (ss a : Nat) : Nat → Option Nat
  | 0 => none
  | n + 1 => match d.bar2At ss a with
    | none => d.bar2Poison ss (a + 1) n
    | some x => if d.poison.contains (x / 8) then some x else d.bar2Poison ss (a + 1) n

/-! ### Self-test gives way -/

/-- The slice in a self-test slot. -/
def Dev.slice (d : Dev) (i : Nat) : Option Slice := tget (fun _ => none) d.bist.slots i

/-- It changes. -/
def Dev.setSlice (d : Dev) (i : Nat) (x : Option Slice) : Dev :=
  { d with bist := { d.bist with slots := tput (fun _ => none) d.bist.slots i x } }

/-- The target is a region of that TYPE and INSTANCE of cluster `k`, of any INSTANCE where none is named. -/
def Target.within (t : Target) (ty k : Nat) (inst : Option Nat) : Bool :=
  t.ty == ty && t.cluster == k && !t.trunk && inst.all fun n => t.inst == n

/-- The slice has started in this fabric cycle. -/
def Dev.freshSlice (d : Dev) (sl : Slice) : Bool := sl.startCyc == some d.cycle

/-- BIST_ACTIVE of the unit's page: the lane's channel page, the channel's, or the TMU's. -/
def Dev.bistMark (d : Dev) (t : Target) (on : Bool) : Dev :=
  if t.trunk then d
  else if t.ty ≤ 1 then d.set (PAGE_STAT.BIST_ACTIVE (chPg t.cluster t.inst)) (b2n on)
  else if t.ty = 2 || t.ty = 5 then
    let d := (d.set (PAGE_STAT.BIST_ACTIVE (chPg t.cluster t.inst)) (b2n on)).set
      (CH_PHYS_STAT.BIST_ACTIVE t.cluster t.inst) (b2n on)
    if t.ty = 5 then d.set (CH_PHYS_STAT.LOOPBACK t.cluster t.inst) (b2n on) else d
  else d

/-- A slice does not start after all: its slot, its unit and its command are as they were (R303). -/
def Dev.sliceBack (d : Dev) (i : Nat) (sl : Slice) : Dev :=
  let t := sl.tgt
  let d : Dev := { d.setSlice i none with bist := { (d.setSlice i none).bist with
    slotT0 := tput (fun _ => 0) d.bist.slotT0 i sl.slotWas, lastStart := sl.lastWas } }
  let d := d.bistMark t false
  let d := if t.ty = 6 then d.maintFree t.cluster t.inst else d
  let d := (d.modCl t.cluster fun c => { c with pend0 := none }).showReq t.cluster
  if d.bist.cmd.any fun c => c.tgt == t && d.get BIST_CMD_STAT.STATE == 2 then d.set BIST_CMD_STAT.STATE 1 else d

/-- A slice is under way on the region. -/
def Dev.regionIn (d : Dev) (ty k inst : Nat) : Bool :=
  [0, 1].any fun i => (d.slice i).any fun sl => sl.tgt.within ty k (some inst) && decide (sl.stepT0 ≤ d.up)

/-- A service request reaches regions of a TYPE: a slice that started on one in this fabric cycle does not start after all,
and an earlier one aborts at its next checkpoint; a forced one goes on (R303, R304, R312). -/
def Dev.serve (d : Dev) (ty k : Nat) (inst : Option Nat) : Dev :=
  let d : Dev := { d with serves := (d.serves.filter fun x => x.1 == d.cycle) ++ [(d.cycle, ty, k, inst)] }
  [0, 1].foldl (fun d i =>
    match d.slice i with
    | none => d
    | some sl =>
      if !sl.tgt.within ty k inst then d
      else if d.freshSlice sl then d.sliceBack i sl
      else if sl.forced then d
      else d.setSlice i (some { sl with abort := true })) d

/-- A service request for the region of a target. -/
def Dev.serveRegion (d : Dev) (ty k inst : Nat) : Dev := d.serve ty k (some inst)

/-- A service request has reached the target's region in this fabric cycle: no slice starts there (R303). -/
def Dev.servedNow (d : Dev) (t : Target) : Bool := d.serves.any fun x => x.1 == d.cycle && t.within x.2.1 x.2.2.1 x.2.2.2

/-- An access that needs regions of a lane waits until their slices have restored them, where its session may make it
(R303, R312). DESIGN CHOICE, log entry 81: the debug port's accesses do not wait. -/
def Dev.afterSlices (d : Dev) (ss L off : Nat) (vals : List Word) (tys : List Nat) (go : Bool) (f : Dev → Dev) : Dev :=
  if d.dbg || !go || !d.acts ss || d.waits ss then f d
  else
    let e := tys.foldl (fun d ty => d.serveRegion ty (L / 64) (L % 64)) d
    if tys.any fun ty => e.regionIn ty (L / 64) (L % 64) then e.stall ss ((lanePage L).base + off) vals else f e

/-! ### PRIME (R131) -/

/-- The cluster refuses PRIME and GO: it is in machine check, or a control-store load runs (R153, R154, R158). -/
def Dev.startsRefused (d : Dev) (k : Nat) : Bool := d.on (CL_STATE.MCHK k) || d.get (SEQ_LOAD_STAT.STATE k) != 0

/-- PROG_STAT shows the depths of the two stacks. -/
def Dev.showDepths (d : Dev) (L : Nat) : Dev :=
  (d.set (PROG_STAT.LOOP_DEPTH L) (d.lane L).loops.length).set (PROG_STAT.CALL_DEPTH L) (d.lane L).calls.length

/-- An accepted PRIME (R131): it clears the counts and the sticky bits, asks for the PRIME routine, and ends the lane's UNDERRUN
and lock-group holds (R91, R130). The cache, the stacks, PC and the current context follow when the routine commits (R149). -/
def Dev.prime (d : Dev) (L : Nat) : Dev :=
  let d := d.modLane L fun l => { l.ended with
    hop := none, firstFail := false, decoded := 0, primeT0 := some d.epoch
    primeDue := some (d.get (PROG_ENTRY.ADDR L), d.get (PROG_CTRL.CTX0 L)) }
  let d := d.modCl (L / 64) fun c => { c with threads := tmod (fun _ => {}) c.threads (L % 64) fun t =>
    { t with resume := none, restart := false, mustCommit := false, shadow := [] } }
  let d := (d.set (PROG_FAIL_CNT.COUNT L) 0).set (PROG_FIRST_FAIL.TIME L) 0
  let d := (((d.set (PROG_STAT.UNDERRUN L) 0).set (PROG_STAT.LATE L) 0).set (PROG_STAT.TIMEOUT L) 0).set
    (PROG_STAT.PER_VIOL L) 0
  let d := (d.set (PROG_STAT.UNCOMPARED L) 0).set (PROG_STAT.CMD_ERR L) 0
  let d := (d.set (PROG_STAT.STATE L) 1).request2 (L / 64) 0 (L % 64)
  let d := (d.holdEnd L holdUnderrun).holdEnd L holdLg
  ((d.serveRegion 0 (L / 64) (L % 64)).serveRegion 1 (L / 64) (L % 64))

/-- What the PRIME routine makes visible (R131, steps 1 and 2; R149). -/
def Dev.primeShow (d : Dev) (L : Nat) : Dev :=
  match (d.lane L).primeDue with
  | none => d
  | some (entry, ctx0) =>
    let d := d.modLane L fun l => { l with
      cache := [], loops := [], calls := [], resident := [], curCtx := ctx0, decCtx := ctx0, ctxMoved := false, primeDue := none }
    ((d.set (PROG_PC.PC L) entry).showDepths L).dropPrime (L / 64) (L % 64)

/-! ### Stops that decoding finds (R105, R107, R109, R115, R137) -/

/-- A program stops with ERR = RANGE at its PC (R105). -/
def Dev.rangeStop (d : Dev) (L : Nat) : Dev :=
  (d.raise (laneSrc L) 0x21 0 (d.get (PROG_PC.PC L)) (d.holderL L)).progFault L 5 (tq d.epoch)

/-- A program stops with ERR = OPCODE at its PC (R109). -/
def Dev.opcodeStop (d : Dev) (L : Nat) : Dev :=
  (d.raise (laneSrc L) 0x22 0 (d.get (PROG_PC.PC L)) (d.holderL L)).progFault L 3 (tq d.epoch)

/-- A program stops with ERR = STACK (R115). -/
def Dev.stackStop (d : Dev) (L : Nat) : Dev := d.progFault L 4 (tq d.epoch)

/-- The `n` bytes at byte `a` of the lane's region are marked poisoned in HBM (R26). -/
def Dev.evsPoison (d : Dev) (L a n : Nat) : Bool :=
  match d.evs L with
  | none => false
  | some x => d.poisoned (0x200000 * x.base + a) n

/-- A fetch of the lane's region at byte `a` has returned poisoned data: the HBM controller reports it and the program stops
with ERR = POISON (R107). -/
def Dev.poisonStop (d : Dev) (L a : Nat) : Dev :=
  let base := match d.evs L with | none => 0 | some x => 0x200000 * x.base
  (d.raise 13 0x59 3 ((base + a) / 8) (d.holderL L)).progFault L 2 (tq d.epoch)

/-- The program stops for what decoding has found, by its ERR. -/
def Dev.stopAhead (d : Dev) (L err : Nat) : Dev :=
  if err = 3 then d.opcodeStop L else if err = 5 then d.rangeStop L else d.progFault L err (tq d.epoch)

/-- Records of the lane's queue (05): instructions decoded and not yet executed. -/
def Lane.queued (l : Lane) : Nat := (l.records.filter fun r => r.kind != .flow).length

/-- The program has come to where decoding has stopped: it runs, and nothing decoded stands before (R137). -/
def Dev.atStop (d : Dev) (L : Nat) : Bool :=
  d.progState L == 4 && (d.lane L).queued == 0 && (d.lane L).wait.isNone && (d.lane L).under.isNone

/-- Decoding finds that the program must stop; it does so when it comes there (R137). -/
def Dev.decodeStop (d : Dev) (L err : Nat) : Dev :=
  if d.atStop L then d.stopAhead L err else d.modLane L fun l => { l with stopErr := some (l.stopErr.getD err) }

/-- A stop that decoding has found takes effect once the program has come there (R137). -/
def Dev.decodeEnd (d : Dev) (L : Nat) : Dev :=
  match (d.lane L).stopErr with
  | none => d
  | some err => if d.atStop L then d.stopAhead L err else d

/-! ### UNDERRUN (R130) -/

/-- The lane underruns at `t` tq. -/
def Dev.progUnderrun (d : Dev) (L t : Nat) : Dev :=
  let d := d.stick (PROG_STAT.UNDERRUN L)
  let d := d.raise (laneSrc L) 0x20 2 (d.get (PROG_PC.PC L)) (d.holderL L)
  (d.progFault L 1 t).holdEnter L holdUnderrun

/-- An underrun that has been decided takes effect at T_u, unless a stop has come before it (R130, R134). -/
def Dev.underFall (d : Dev) (L : Nat) : Dev :=
  match (d.lane L).under with
  | none => d
  | some t =>
    if d.progState L == 4 && decide (t < tq (d.epoch + 1)) && !(d.lane L).stopReached then d.progUnderrun L t else d

/-- The lane underruns at `t` tq: nothing more is executed until then (R130). -/
def Dev.askUnder (d : Dev) (L t : Nat) : Dev := (d.modLane L fun l => { l with under := some t }).underFall L

/-! ### Start (R132, R133) -/

/-- The start of an ARMED lane is fixed, in tq: its program time begins there (R133). -/
def Dev.fixStart (d : Dev) (L t : Nat) : Dev := d.modLane L fun l => { l with startAt := some t, p := t }

/-- At its start, `t` tq, an ARMED lane runs with every generator armed; without having finished priming 8 T0 before, it
underruns (R133, R75). -/
def Dev.begin (d : Dev) (L t : Nat) : Dev :=
  let l := d.lane L
  let d := (d.setLane L { l with startAt := none, gate0 := 0x3F, gates := l.gates.filter fun g => !g.done }).set
    (LANE_GATE.ARMED L) 0x3F
  let d := d.set (PROG_STAT.STATE L) (if l.wait.isSome then 5 else 4)
  match l.primedT0 with
  | some u => if tq (u + 8) ≤ t then (d.underFall L).decodeEnd L else d.progUnderrun L t
  | none => d.progUnderrun L t

/-! ### Machine check (R156) -/

/-- The place of a target in the rotation: by TYPE, cluster, INSTANCE, SET, and the trunk last (R315). -/
def Target.key (t : Target) : Nat :=
  if t.trunk then 6896
  else match t.ty with
    | 0 => 64 * t.cluster + t.inst
    | 1 => 1024 + 128 * t.cluster + 2 * t.inst + t.set
    | 2 => 3072 + 136 * t.cluster + 2 * t.inst + t.set
    | 4 => 5248 + t.cluster
    | 5 => 5264 + 68 * t.cluster + t.inst
    | _ => 6352 + 34 * t.cluster + t.inst

/-- Restore steps of a slice (R311). -/
def restoreSteps (ty : Nat) : Nat := if ty = 2 then 0 else if ty = 6 then 2 else 1

/-- What the controller keeps of a target changes. -/
def Dev.modTgt (d : Dev) (t : Target) (f : TgtInfo → TgtInfo) : Dev :=
  { d with bist := { d.bist with info := tmod (fun _ => {}) d.bist.info t.key f } }

/-- A verdict of ABORTED; failing bits recorded so far make the target SUSPECT (R314). The attempt counts towards R304
where a service request ended it (R312, R313). -/
def Dev.sliceAborted (d : Dev) (sl : Slice) (counts : Bool) : Dev :=
  (d.wrapUp BIST_CNT0.ABORTED).modTgt sl.tgt fun x => { x with
    last := 2, suspect := x.suspect || !sl.bad.isEmpty, aborts := if counts then satAdd 16 x.aborts 1 else x.aborts }

/-- A slice ends as ABORTED at once, and its restore goes on (R313). -/
def Dev.sliceStop (d : Dev) (i : Nat) : Dev :=
  match d.slice i with
  | none => d
  | some sl =>
    if sl.phase = 5 then d
    else (d.sliceAborted sl false).setSlice i
      (some { sl with phase := 5, stepT0 := d.up, left := restoreSteps sl.tgt.ty, counted := true })

/-- The slices of a cluster end as ABORTED (R313). -/
def Dev.slicesStop (d : Dev) (k : Nat) : Dev :=
  [0, 1].foldl (fun d i =>
    match d.slice i with
    | none => d
    | some sl => if sl.tgt.cluster == k && !sl.tgt.trunk then d.sliceStop i else d) d

/-- A machine check ends the Caliper step and the self-test slices of the cluster without their COMMIT
(R156, R253, R313). -/
def Dev.abortMaint (d : Dev) (k : Nat) : Dev := (d.calMchk k).slicesStop k

/-- Cluster `k` enters machine check with the given UPC, thread, cause (0 PARITY, 1 FIFO, 2 TIMEBASE, 3 TRAP), code
and word. -/
def Dev.machineCheck (d : Dev) (k upc thread cause code word : Nat) : Dev :=
  if d.on (CL_STATE.MCHK k) then d
  else
    let d := d.modCl k fun c => { c with
      active := none
      threads := c.threads.map fun (i, t) => (i, { t with
        shadow := [], resume := none, suspended := false, restart := false, mustCommit := false })
      pend2 := [], pend1 := none, pend0 := none, march := c.march || cause == 0 }
    let d := d.poolDiscard k
    let d := ((d.set (CL_STATE.MCHK k) 1).set (SEQ_STAT.ACTIVE k) 0).showReq k
    let d := (((d.set (SEQ_MCHK_INFO.UPC k) upc).set (SEQ_MCHK_INFO.THREAD k) thread).set (SEQ_MCHK_INFO.CAUSE k)
      cause).set (SEQ_MCHK_INFO.CODE k) code
    let d := (d.set (SEQ_MCHK_INFO.VALID k) 1).set (SEQ_MCHK_WORD.WORD k) word
    let d := (List.range 64).foldl (fun d j =>
      let L := 64 * k + j
      let d := d.modLane L fun l => { l with records := [], fires := [] }
      let d := if d.progBusy L then d.progFault L 7 (tq d.epoch) else d
      d.holdEnter L holdMchk) d
    let d := if cause = 0 then d.raise (256 + 112 * k + 103) 0x28 4 (upc + 2048 * thread) (d.holdersIn k)
      else if cause = 3 then
        d.raise (256 + 112 * k + 103) 0x29 4 (upc + 2048 * thread + 262144 * code) (d.holdersIn k)
      else d
    let d := d.abortMaint k
    if h : k < 16 then d.irqOwner (.seq ⟨k, h⟩) 1 else d

/-- The machine check of cluster `k` is cleared: the MCHK hold of every lane ends (R158). -/
def Dev.machineCheckEnd (d : Dev) (k : Nat) : Dev :=
  let d := (d.set (CL_STATE.MCHK k) 0).set (SEQ_MCHK_INFO.VALID k) 0
  (List.range 64).foldl (fun d j => d.holdEnd (64 * k + j) holdMchk) d

end Sys2Proof.Machine
end

