-- ==== Sys2Proof/Machine/Program.lean ====
section
/-! DEFINITION. Edge programs (04): contexts, the expansion of the instructions into candidates, waiting, loops and
calls, underrun, priming, starting and stopping. An instruction row takes the lane's next instruction: the record at
the front of its queue where the micro-engine has decoded one, else the entry at the PC. -/

namespace Sys2Proof.Machine

/-! ### Timing contexts (R102, R103) -/

/-- Context `i` of the lane. -/
def Lane.ctx (l : Lane) (i : Nat) : BitVec 128 := tget (fun _ => 0) l.ctxs i

/-- A host's write or another thread's COMMIT changes a cluster memory word: a preempted routine whose shadow holds it
loses its shadow and restarts (R149). -/
def Dev.touchMem (d : Dev) (k addr : Nat) : Dev :=
  d.modCl k fun c => { c with threads := c.threads.map fun (i, t) =>
    let holds := t.shadow.any fun w => match w with | .mem k' a _ => k' == k && a == addr | _ => false
    if holds && c.active != some i then (i, { t with shadow := [], restart := true }) else (i, t) }

/-- A write of PROG_CTX_DATA3 commits the context that INDEX addresses (R102). -/
def Dev.ctxCommit (d : Dev) (L : Nat) : Dev :=
  let i := d.get (PROG_CTX_SEL.INDEX L)
  let v : BitVec 128 := (d.reg (PROG_CTX_DATA3 L)) ++ (d.reg (PROG_CTX_DATA2 L)) ++ (d.reg (PROG_CTX_DATA1 L))
    ++ (d.reg (PROG_CTX_DATA0 L))
  let d := d.modLane L fun l => { l with ctxs := tput (fun _ => 0) l.ctxs i v }
  let a := 512 * (L % 64) + 2 * i
  let d := (d.touchMem (L / 64) a).touchMem (L / 64) (a + 1)
  let d := if d.on (PROG_CTX_SEL.AUTOINC L) then d.set (PROG_CTX_SEL.INDEX L) ((i + 1) % 256) else d
  d.serveRegion 0 (L / 64) (L % 64)

/-- CTX_COMMIT_WRITE: a write of PROG_CTX_DATA3 (R102). -/
def Dev.ctxCommitWrite (d : Dev) (ss L : Nat) (val : Word) : Dev :=
  d.afterSlices ss L 0x1D0 [val] [0] (d.may ss (lanePage L) .owner) fun d => d.hostWrite ss (lanePage L) 0x1D0 [val] .owner false fun d => (d.plainWrite ss (lanePage L) 0x1D0 val).ctxCommit L

/-- CTX_COMMIT_WRITE (R102). -/
def execCtxCommitWrite (ss : Sess) (L : Lch) (val : Word) (s : State) : Result :=
  s.on fun d => d.ctxCommitWrite ss L val

/-- A read of PROG_CTX_DATA0 captures the context that INDEX addresses; it is the data of the completion (R102).
In a gated cluster it reads zero (R22). -/
def Dev.ctxCapture (d : Dev) (ss L : Nat) : Dev :=
  if !d.acts ss then d
  else if d.waits ss then d.stall ss ((lanePage L).base + 0x1C4) []
  else if d.gated (lanePage L) then { d with reply := leBytes 4 0 }
  else d.afterSlices ss L 0x1C4 [] [0] true fun d =>
    let c := (d.lane L).ctx (d.get (PROG_CTX_SEL.INDEX L))
    let d := { d.modLane L (fun l => { l with ctxCap := c }) with reply := leBytes 4 (bits c 0 32) }
    d.serveRegion 0 (L / 64) (L % 64)

/-- CTX_READ_CAPTURE (R102). -/
def execCtxReadCapture (ss : Sess) (L : Lch) (s : State) : Result := s.on fun d => d.ctxCapture ss L

/-! ### Issuing periods (R111, R114, R118) -/

/-- The group request is counted in SKIP once, however many members skip it (R53). -/
def Dev.skipReq (d : Dev) (g id : Nat) : Dev :=
  let x := d.lg g
  if x.skipped.contains id then d
  else d.setLg g { x with skip := satAdd 255 x.skip 1, skipped := id :: x.skipped }

/-- Group switches that fall on the boundary P: the last of them takes effect, the others are superseded (R53). -/
def Dev.applySwitches (d : Dev) (L : Nat) : Dev :=
  let l := d.lane L
  let due := l.switches.filter fun r => r.at_.isNone && decide (r.t ≤ l.p)
  match due.getLast? with
  | none => d
  | some r =>
    let d := d.setLane L { l with
      curCtx := r.ctx
      switches := l.switches.map fun x => if x.at_.isNone && decide (x.t ≤ l.p) then { x with at_ := some l.p } else x }
    match d.groupOf L with
    | none => d
    | some g => (due.dropLast).foldl (fun d x => d.skipReq g x.id) d

/-- The number of a new issue; what can no longer be taken back is forgotten (R98). -/
def Dev.newIssue (d : Dev) (L : Nat) (iw : BitVec 128) (i : Nat) (period : Bool) (expect : Option Nat) : Nat × Dev :=
  let l := d.lane L
  (l.nextId, d.setLane L { l with
    nextId := l.nextId + 1
    issued := (l.issued.filter fun x => decide (tq d.epoch ≤ x.p)) ++ [{ id := l.nextId, p := l.p, iw, i, period, expect }]
    switches := l.switches.filter fun r => match r.at_ with | none => true | some b => decide (tq d.epoch ≤ b) })

/-- The strobes of a period (R86, R88). -/
def Dev.periodStrobes (d : Dev) (L p iss : Nat) (c : BitVec 128) (expect : Option Nat) : Dev :=
  let mode := stbMode (ctxFormat c)
  if mode = 0 then d
  else
    let (id, d) := d.newResult L p mode false expect 0
    let d := d.addEdge L 4 (p + ctxS0 c) .period iss [(id, 0)]
    if mode = 3 then d else d.addEdge L 5 (p + ctxS1 c) .period iss [(id, 1)]

/-- A period at P, with its context in force (R111): the length under R101, the candidates of R81, R83 and R86, and
the advance of P. -/
def Dev.issuePeriodAt (d : Dev) (L : Nat) (iw : BitVec 128) (i : Nat) (expect : Option Nat) : Dev :=
  let (iss, d) := d.newIssue L iw i true expect
  let l := d.lane L
  let p := l.p
  let c := l.ctx l.curCtx
  let len := if iwL iw then iwPeriodTq iw else ctxPeriod c
  let d := d.shadowBoundary L p
  let d := d.stickIf (decide (len < 4096)) (PROG_STAT.PER_VIOL L)
  let d := d.stickIf (fmtBad (ctxFormat c)) (LANE_STAT.FMT_ERR L)
  let drv := if fmtBad (ctxFormat c) then [] else drvEdges (ctxFormat c % 8) p (ctxD1 c) (ctxD2 c) (bit iw i)
  let den := denEdges (denMode (ctxFormat c)) p (ctxE1 c) (ctxE2 c) (!iwE iw || bit iw (32 + i))
  let d := (drv ++ den).foldl (fun d e => d.addEdge L e.1 e.2 .period iss []) d
  let d := d.periodStrobes L p iss c expect
  (d.modLane L fun l => { l with p := p + max len 4096 }).set (PROG_STAT.CTX L) l.curCtx

/-- Period `i` of a PERIOD instruction (R111): the switch on its boundary comes first. A context with a word that
self-test left uncorrectable stops the program with POISON (R107, R320). -/
def Dev.issuePeriod (d : Dev) (L : Nat) (iw : BitVec 128) (i : Nat) (expect : Option Nat) : Dev :=
  let d := d.applySwitches L
  let l := d.lane L
  if l.badCtx.any fun w => w / 2 == l.curCtx then d.progFault L 2 (tq d.epoch)
  else d.issuePeriodAt L iw i expect

/-- What MATCH expects of the period issued next, and the MATCH of the periods after it (R118). -/
def Lane.nextExpect (l : Lane) : Option Nat × Lane :=
  match l.mat with
  | none => (none, l)
  | some m =>
    (if m.care % 2 = 1 then some (m.exp % 4) else none,
      { l with mat := if m.left ≤ 1 then none else some { left := m.left - 1, care := m.care / 2, exp := m.exp / 4 } })

/-- The periods of a PERIOD instruction, until a stop is reached (R111, R134). -/
def Dev.issuePeriods (d : Dev) (L : Nat) (iw : BitVec 128) : Dev :=
  (List.range (iwCount iw + 1)).foldl (fun d i =>
    if (d.lane L).stopReached || !d.progBusy L then d
    else
      let (expect, l) := (d.lane L).nextExpect
      (d.setLane L l).issuePeriod L iw i expect) d

/-! ### The other instructions at P (R85, R99, R110, R120, R125) -/

/-- The pulses of a BURST (R85). -/
def Dev.burstAt (d : Dev) (L : Nat) (iw : BitVec 128) (p iss : Nat) : Dev :=
  (List.range (burstN iw + 1)).foldl (fun d n =>
    d.pulseAt L (iwEgMask iw) (p + burstOffset iw + n * burstSpacing iw) (burstWidth iw) .burst iss 0) d

/-- Hop count of what the lane's program raises: the count of the event that resolved its latest wait, plus 1
(R227). -/
def Lane.hopOut (l : Lane) : Nat := match l.hop with | none => 0 | some h => h + 1

/-- What an EDGE, PULSE, BURST, CTX without G, WAIT_EVT with NOEVT or FIRE does at P. -/
def Dev.expandOther (d : Dev) (L : Nat) (iw : BitVec 128) : Dev :=
  let (iss, d) := d.newIssue L iw 0 false none
  let l := d.lane L
  let o := iwOpcode iw
  if o = 2 then d.fireAt L (iwEgMask iw) (l.p + iwOffset iw) .instr iss 0
  else if o = 3 then d.pulseAt L (iwEgMask iw) (l.p + iwOffset iw) (pulseWidth iw) .instr iss 0
  else if o = 4 then d.burstAt L iw l.p iss
  else if o = 5 then d.setLane L { l with curCtx := ctxTarget iw }
  else if o = 6 then
    let x := tq (waitTimeout iw) + iwOffset iw
    d.setLane L { l with p := l.p + x, moves := l.moves + (if x = 0 then 0 else 1) }
  else if o = 0x0D then
    d.setLane L { l with fires := l.fires ++ [{ flag := fireFlag iw, origin := l.p + iwOffset iw, hop := l.hopOut, iss }] }
  else d

/-! ### Lock-group switches (R53, R114) -/

/-- Issue again, from the first boundary at or after `t`, what has been issued there (R114). -/
def Dev.reexpand (d : Dev) (L t : Nat) : Dev :=
  let l := d.lane L
  let again := l.issued.filter fun x => decide (t ≤ x.p)
  if again.isEmpty then d
  else
    let d := d.takeBack L t
    let b := (d.lane L).p
    let d := d.modLane L fun l => { l with
      switches := l.switches.map fun r => match r.at_ with
        | none => r
        | some x => if b ≤ x then { r with at_ := none } else r }
    let d := again.foldl (fun d x =>
      if x.period then d.issuePeriod L x.iw x.i x.expect else d.expandOther L x.iw) d
    d.modLane L fun l => { l with wait := l.wait.map fun w => { w with a := l.p } }

/-- A switch request of group `g` with origin `o` tq, of kind `rank` (0 member CTX, 1 event, 2 software), to context
`ctx` (R53). -/
def Dev.groupSwitch (d : Dev) (g o rank ctx : Nat) : Dev :=
  let x := d.lg g
  let r : SwReq := { t := o + tq x.lat, rank, ctx, id := x.nextReq }
  let d := d.setLg g { x with nextReq := x.nextReq + 1 }
  x.members.foldl (fun d m =>
    if 3 ≤ d.progState m && d.progState m ≤ 5 then
      (d.modLane m fun l => { l with
        switches := ordIns (fun a b => decide (a.t < b.t) || (a.t == b.t && decide (a.rank ≤ b.rank))) r l.switches }).reexpand
        m r.t
    else d) d

/-! ### Loops and calls (R115, R116, R126, R127) -/

/-- PC moves on by `n` entries. -/
def Dev.pcAdd (d : Dev) (L : Nat) (n : Int) : Dev :=
  d.set (PROG_PC.PC L) ((((d.get (PROG_PC.PC L) : Nat) : Int) + n) % 0x1000000).toNat

/-- An opcode that a replayed body may not hold: the innermost loop is not replayed (R127). -/
def Lane.noReplay (l : Lane) (o : Nat) : Lane :=
  match l.loops with
  | [] => l
  | f :: fs => if replayable o || o == 8 then l else { l with loops := { f with replay := false } :: fs }

/-- An instruction has been decoded: one that advances P counts, and the innermost loop's replay buffer takes it
(R116, R127). -/
def Lane.note (l : Lane) (r : Rec) : Lane :=
  let l := l.noReplay (iwOpcode r.iw)
  let l := { l with moves := l.moves + (if r.kind == RecKind.period then 1 else 0) }
  match l.loops with
  | [] => l
  | f :: fs => if f.replay && !f.play then { l with loops := { f with buf := f.buf ++ [r] } :: fs } else l

/-- Lines of 16 entries from entry `a`, `n` entries long. -/
def linesOf (a n : Nat) : List Nat := (List.range ((a + n - 1) / 16 - a / 16 + 1)).map fun i => a / 16 + i

/-- A body becomes resident when its lines fit beside those that are: 28 lines at most, less the lines out of use
(R126, R320). -/
def Lane.makeResident (l : Lane) (body : List Nat) : Bool × Lane :=
  let all := (l.resident.flatten ++ body).eraseDups
  if all.length + l.retired.length ≤ 28 then (true, { l with resident := body :: l.resident }) else (false, l)

/-- The innermost resident body is released. -/
def Lane.dropResident (l : Lane) (res : Bool) : Lane := if res then { l with resident := l.resident.drop 1 } else l

/-- Lines of a body that is not resident leave the cache: they are fetched again when it runs (R126). -/
def Lane.refetch (l : Lane) (gone : Nat → Bool) : Lane :=
  { l with cache := l.cache.filter fun x => !(gone x && !l.resident.flatten.contains x) }

/-- LOOP opens a frame at depth below 8; `pc` is the LOOP's own address (R115, R126, R127). -/
def Dev.pushLoop (d : Dev) (L pc : Nat) (iw : BitVec 128) : Dev :=
  let l := (d.lane L).noReplay 7
  if 8 ≤ l.loops.length then d.stackStop L
  else
    let (res, l) := l.makeResident (linesOf pc (loopBody iw + 2))
    let f : LoopFrame := { start := pc + 1, count := loopCount iw, forever := loopCount iw == 0, body := loopBody iw,
                           moved := l.moves, replay := decide (loopBody iw ≤ 16), res }
    (d.setLane L { l with loops := f :: l.loops }).showDepths L

/-- The loop would be left without having advanced P in this iteration, and runs until stopped (R116). -/
def LoopFrame.zero (f : LoopFrame) (l : Lane) : Bool := f.forever && f.moved == l.moves

/-- ENDLOOP: branches back while the remaining count is not zero; a loop until stopped that has not advanced P stops
with ZERO_LOOP (R116). The iterations after the first come from the replay buffer where the body permits it (R127); those of
a body that is not resident are fetched again (R126). -/
def Dev.endLoop (d : Dev) (L : Nat) : Dev :=
  let l := d.lane L
  match l.loops with
  | [] => d.stackStop L
  | f :: fs =>
    if f.zero l then d.progFault L 6 (tq d.epoch)
    else if f.forever || 1 < f.count then
      let play := f.replay && !f.buf.isEmpty
      let l := if f.res || play then l else l.refetch fun x => (linesOf f.start f.body).contains x
      (d.setLane L { l with loops := { f with count := f.count - 1, moved := l.moves, play } :: fs }).set
        (PROG_PC.PC L) f.start
    else (d.setLane L { (l.dropResident f.res) with loops := fs }).showDepths L

/-- One iteration of a replayed loop comes from the replay buffer, once the one before it has been executed (R127). -/
def Dev.refill (d : Dev) (L : Nat) : Dev :=
  let l := d.lane L
  match l.loops with
  | [] => d
  | f :: fs =>
    if !f.play || !l.records.isEmpty then d
    else
      let moves := l.moves + (f.buf.filter fun r => r.kind == .period).length
      let m : Rec := { kind := .flow, iw := endloopWord, ctx := 0 }
      let l := { l with records := f.buf ++ [m], moves }
      if f.forever || 1 < f.count then
        d.setLane L { l with loops := { f with count := f.count - 1, moved := moves } :: fs }
      else
        ((d.setLane L { (l.dropResident f.res) with loops := fs }).showDepths L).set (PROG_PC.PC L)
          ((f.start + f.body + 1) % 0x1000000)

/-- CALL pushes the return address `ret` at depth below 8; a subroutine that is not resident is fetched again
(R115, R126). -/
def Dev.pushCall (d : Dev) (L ret : Nat) (iw : BitVec 128) : Dev :=
  let l := (d.lane L).noReplay 9
  if 8 ≤ l.calls.length then d.stackStop L
  else
    let (res, l) := if callLen iw = 0 then (false, l) else l.makeResident (linesOf (callTarget iw) (callLen iw))
    let l := if res then l else l.refetch fun x => decide (callTarget iw / 16 ≤ x) &&
      (callLen iw == 0 || decide (x ≤ (callTarget iw + callLen iw - 1) / 16))
    let f : CallFrame := { ret, loops := l.loops.length, target := callTarget iw, len := callLen iw, res }
    (d.setLane L { l with calls := f :: l.calls }).showDepths L

/-- A RET has no open call, or would leave a LOOP opened in the subroutine open (R115). -/
def Lane.retBad (l : Lane) : Bool :=
  match l.calls with
  | [] => true
  | f :: _ => decide (f.loops < l.loops.length)

/-- RET returns to the entry after the CALL; not with no open CALL, nor past a LOOP opened in the subroutine
(R115). -/
def Dev.popCall (d : Dev) (L : Nat) : Dev :=
  let l := (d.lane L).noReplay 0x0A
  match l.calls with
  | [] => d.stackStop L
  | f :: fs =>
    if l.retBad then d.stackStop L
    else ((d.setLane L { (l.dropResident f.res) with calls := fs }).showDepths L).set (PROG_PC.PC L) f.ret

/-- PC as it was before the instruction moved it on. -/
def Dev.ownPc (d : Dev) (L : Nat) : Nat := (d.get (PROG_PC.PC L) + 0xFFFFFF) % 0x1000000

/-- What CALL does: the return address is the PC, which has moved on. -/
def Dev.callInstr (d : Dev) (L : Nat) (iw : BitVec 128) : Dev :=
  if 8 ≤ (d.lane L).calls.length then d.stackStop L
  else (d.pushCall L (d.get (PROG_PC.PC L)) iw).set (PROG_PC.PC L) (callTarget iw)

/-! ### Decoding ahead (R131, R137) -/

/-- The record that an opcode leaves (05); a LOOP, ENDLOOP, CALL or RET leaves none. -/
def recKind (o : Nat) : Option RecKind :=
  if o = 1 then some .period else if o = 2 || o = 3 || o = 4 then some .cand else if o = 5 then some .ctx
  else if o = 6 then some .wait else if o = 0x0B then some .meas else if o = 0x0C then some .mat
  else if o = 0x0D then some .fire else if o = 0x0E then some .halt else none

/-- The record of an instruction decoded now, with CUR_CTX and PROG_RING (R139, R141). -/
def Dev.record (d : Dev) (L : Nat) (kind : RecKind) (iw : BitVec 128) : Rec :=
  let l := d.lane L
  { kind, iw, ctx := l.decCtx, setCtx := l.ctxMoved, at_ := d.epoch, ring := d.get (PROG_RING.RING L) }

/-- A record joins the queue; CTX without a lock group's switch gives CUR_CTX for the next one (R113, R139). -/
def Dev.enqueue (d : Dev) (L : Nat) (r : Rec) : Dev :=
  d.modLane L fun l =>
    let l := l.note r
    { l with
      records := l.records ++ [r], ctxMoved := false
      decCtx := if r.kind = .ctx && !ctxG r.iw then ctxTarget r.iw else l.decCtx }

/-- The place of a LOOP, ENDLOOP, CALL or RET that has been decoded ahead. -/
def Dev.mark (d : Dev) (L : Nat) (iw : BitVec 128) : Dev :=
  d.modLane L fun l => { l with records := l.records ++ [{ kind := .flow, iw, ctx := 0 }] }

/-- One instruction decoded ahead; none where the program stops there. -/
def Dev.decodeOne (d : Dev) (L : Nat) (iw : BitVec 128) : Option Dev :=
  let l := d.lane L
  let o := iwOpcode iw
  let next := d.pcAdd L 1
  if iwInvalid iw then none
  else match recKind o with
    | some kind => some (next.enqueue L (d.record L kind iw))
    | none =>
      if o = 7 then (if 8 ≤ l.loops.length then none else some ((next.pushLoop L (d.get (PROG_PC.PC L)) iw).mark L iw))
      else if o = 8 then (match l.loops with
        | [] => none
        | f :: _ => if f.zero l then none else some ((next.endLoop L).mark L iw))
      else if o = 9 then (if 8 ≤ l.calls.length then none else some ((next.callInstr L iw).mark L iw))
      else if l.retBad then none else some ((next.popCall L).mark L iw)

/-- The lane's queue ends in a wait or a halt, or its loop comes from the replay buffer: nothing is decoded (R127, R131). -/
def Lane.asleep (l : Lane) : Bool :=
  l.wait.isSome || l.stopErr.isSome || (l.records.any fun r => r.kind == .wait || r.kind == .halt)
    || (match l.loops with | [] => false | f :: _ => f.play)

/-- Up to `n` further instructions of priming, from cached lines (R131, step 4). -/
def Dev.primeDecode (d : Dev) (L : Nat) (entry : Nat → BitVec 128) : Nat → Dev
  | 0 => d
  | n + 1 =>
    let l := d.lane L
    let pc := d.get (PROG_PC.PC L)
    if l.asleep || 8 ≤ l.decoded || d.evsEntries L ≤ pc || !l.cache.contains (pc / 16) || d.evsPoison L (16 * pc) 16 then d
    else match d.decodeOne L (entry pc) with
      | none => d
      | some d => (d.modLane L fun l => { l with decoded := l.decoded + 1 }).primeDecode L entry n

/-! ### The edge cache (R105, R107, R126) -/

/-- A line comes into the cache, in place of the oldest line that is not resident (R126). -/
def Lane.cacheLine (l : Lane) (line : Nat) : Lane :=
  let cache := l.cache.filter fun x => x != line
  let cache := if cache.length + l.retired.length < 32 then cache
    else match takeFirst (fun x => !l.resident.flatten.contains x) cache with
      | none => cache
      | some (_, rest) => rest
  { l with cache := cache ++ [line] }

/-! ### Executing the next instruction -/

/-- The lane may execute: RUNNING, or ARMED with its start T0 fixed, primed, and not held by a wait, a stop or an underrun
(R130, R133). -/
def Dev.canRun (d : Dev) (L : Nat) : Bool :=
  let l := d.lane L
  (d.progState L == 4 || (d.progState L == 3 && l.startAt.isSome)) && l.wait.isNone && !l.stopReached
    && l.primeT0.isNone && l.under.isNone

/-- The instruction at the PC: beyond the region the program stops with RANGE, a poisoned one with POISON, an invalid one with
OPCODE; otherwise the PC moves on and `f` acts (R105, R107, R109). -/
def Dev.atPc (d : Dev) (L : Nat) (iw : BitVec 128) (f : Dev → Dev) : Dev :=
  let pc := d.get (PROG_PC.PC L)
  if (d.lane L).stopErr.isSome then d
  else if d.evsEntries L ≤ pc then d.rangeStop L
  else if d.evsPoison L (16 * pc) 16 then d.poisonStop L (16 * pc)
  else if iwInvalid iw then d.opcodeStop L
  else f (d.pcAdd L 1)

/-- An instruction decoded at T0 `at_` comes later than 8 T0 before the time `due` from P of the period or candidate that
it gives (R130). -/
def Dev.lateFor (d : Dev) (L at_ : Nat) (due : Option Nat) : Bool :=
  match due with
  | none => false
  | some x => decide ((d.lane L).p + x < tq (at_ + 8))

/-- An instruction that leaves a record: the record at the front of the queue, or the entry at the PC. One decoded too late
for the time `due` from P is an UNDERRUN at that time (R130). `f` takes the record it was decoded to. -/
def Dev.takeRecWith (d : Dev) (L : Nat) (iw : BitVec 128) (op : Nat) (kind : RecKind) (due : Option Nat)
    (f : Dev → Rec → Dev) : Dev :=
  if !d.canRun L || iwOpcode iw != op then d
  else
    let d := d.refill L
    match (d.lane L).records.dropWhile fun r => r.kind == .flow with
    | r :: rs =>
      if !(r.kind == kind && r.iw == iw) then d
      else if d.lateFor L r.at_ due then d.askUnder L ((d.lane L).p + due.getD 0)
      else
        (f (d.modLane L fun l => { l with records := rs, curCtx := if r.setCtx then r.ctx else l.curCtx }) r).decodeEnd L
    | [] =>
      if d.lateFor L d.epoch due then d.askUnder L ((d.lane L).p + due.getD 0)
      else d.atPc L iw fun d =>
        let r := { d.record L kind iw with ctx := (d.lane L).curCtx }
        f (d.modLane L fun l => { (l.note r) with records := [] }) r

/-- The same, for an instruction that needs nothing of the record. -/
def Dev.takeRec (d : Dev) (L : Nat) (iw : BitVec 128) (op : Nat) (kind : RecKind) (due : Option Nat) (f : Dev → Dev) : Dev :=
  d.takeRecWith L iw op kind due fun d _ => f d

/-- An instruction without a record: where it has been decoded ahead nothing is left to do. -/
def Dev.takePc (d : Dev) (L : Nat) (iw : BitVec 128) (op : Nat) (f : Dev → Dev) : Dev :=
  if !d.canRun L || iwOpcode iw != op then d
  else
    let d := d.refill L
    match (d.lane L).records with
    | r :: rs => if r.kind == .flow && iwOpcode r.iw == op then d.modLane L fun l => { l with records := rs } else d
    | [] => d.atPc L iw f

/-- PERIOD (R111). -/
def execPeriod (L : Lch) (iw : BitVec 128) (s : State) : Result :=
  s.on fun d => d.takeRec L iw 1 .period (some 0) fun d => d.issuePeriods L iw

/-- EDGE (R110). -/
def execEdge (L : Lch) (iw : BitVec 128) (s : State) : Result :=
  s.on fun d => d.takeRec L iw 2 .cand (some (iwOffset iw)) fun d => d.expandOther L iw

/-- PULSE (R110, R72). -/
def execPulse (L : Lch) (iw : BitVec 128) (s : State) : Result :=
  s.on fun d => d.takeRec L iw 3 .cand (some (iwOffset iw)) fun d => d.expandOther L iw

/-- BURST (R85). -/
def execBurst (L : Lch) (iw : BitVec 128) (s : State) : Result :=
  s.on fun d => d.takeRec L iw 4 .cand (some (burstOffset iw)) fun d => d.expandOther L iw

/-- What CTX does at P: a group request of a lock-group member with G set, else the context of the next period
(R113). -/
def Dev.ctxInstr (d : Dev) (L : Nat) (iw : BitVec 128) : Dev :=
  let d := if ctxG iw || (d.lane L).ctxMoved || !(d.lane L).records.isEmpty then d
    else d.modLane L fun l => { l with decCtx := ctxTarget iw }
  match d.groupOf L with
  | none => d.expandOther L iw
  | some g => if ctxG iw then d.groupSwitch g (d.lane L).p 0 (ctxTarget iw) else d.expandOther L iw

/-- CTX (R113, R114). -/
def execCtx (L : Lch) (iw : BitVec 128) (s : State) : Result :=
  s.on fun d => d.takeRec L iw 5 .ctx none fun d => d.ctxInstr L iw

/-- What WAIT_EVT does at P: a pure delay, or a wait from A = P (R122, R125). -/
def Dev.waitInstr (d : Dev) (L : Nat) (iw : BitVec 128) : Dev :=
  if waitNoEvt iw then d.expandOther L iw
  else
    let d := d.modLane L fun l => { l with wait := some {
      a := l.p, input := waitInput iw, delay := iwOffset iw, timeout := waitTimeout iw, skip := waitSkip iw } }
    if d.progState L = 4 then d.set (PROG_STAT.STATE L) 5 else d

/-- WAIT_EVT (R122, R125). -/
def execWaitEvt (L : Lch) (iw : BitVec 128) (s : State) : Result :=
  s.on fun d => d.takeRec L iw 6 .wait none fun d => d.waitInstr L iw

/-- A wait ends and the program goes on from `p`. -/
def Dev.waitOver (d : Dev) (L p : Nat) : Dev :=
  let d := d.modLane L fun l => { l with wait := none, p, moves := l.moves + 1 }
  (if d.progState L = 5 then d.set (PROG_STAT.STATE L) 4 else d).decodeEnd L

/-- A stop's time has come by `t` tq (R134). -/
def Lane.stopBy (l : Lane) (t : Nat) : Bool := match l.stopAt with | none => false | some (u, _) => decide (u ≤ t)

/-- An event at the lane's sequencer input: it satisfies the wait when its origin is at or after A and no later than
the cycle of A + T, unless a STOP is of the same fabric cycle or has taken effect (R122, R123, R124, R134, R227). -/
def Dev.waitResolve (d : Dev) (L : Nat) (e : Event) : Dev :=
  match (d.lane L).wait with
  | none => d
  | some w =>
    if e.origin < w.a || (w.timeout != 0 && decide (cyc (w.a + tq w.timeout) < cyc e.origin))
        || (d.lane L).stopCyc == some d.cycle || (d.lane L).stopBy (tq d.epoch) then d
    else
      let least := tq (if e.glob then 48 else 16)
      let p := e.origin + max w.delay least
      let was : WaitWas := { cyc := d.cycle, wait := w, p, hop := (d.lane L).hop,
                             late := d.get (PROG_STAT.LATE L), cnt := d.get (PROG_CNT.LATE L) }
      let d := if w.delay < least then (d.stick (PROG_STAT.LATE L)).bump (PROG_CNT.LATE L) else d
      let d := d.modLane L fun l => { l with hop := some e.hop, waitWas := some was }
      d.waitOver L p

/-- At A + T + 48 T0 the wait times out, unless a stop has come by then (R124, R134). -/
def Dev.waitTimeout (d : Dev) (L : Nat) : Dev :=
  match (d.lane L).wait with
  | none => d
  | some w =>
    if w.timeout == 0 || (d.lane L).stopBy (w.a + tq (w.timeout + 48)) || d.progState L != 5
        || decide (tq d.epoch + 4095 < w.a + tq (w.timeout + 48)) then d
    else
      let d := ((d.stick (PROG_STAT.TIMEOUT L)).bump (PROG_CNT.TIMEOUT L)).irqOwner (lanePage L) 2
      (d.waitOver L (w.a + tq w.timeout + max w.delay (tq 64))).pcAdd L w.skip

/-- WAIT_EVT_TIMEOUT (R124). -/
def execWaitEvtTimeout (L : Lch) (s : State) : Result := s.on fun d => d.waitTimeout L

/-! ### Loops and calls: the rows -/

/-- LOOP (R115). -/
def execLoop (L : Lch) (iw : BitVec 128) (s : State) : Result :=
  s.on fun d => d.takePc L iw 7 fun d => d.pushLoop L (d.ownPc L) iw

/-- ENDLOOP (R116). -/
def execEndloop (L : Lch) (iw : BitVec 128) (s : State) : Result :=
  s.on fun d => d.takePc L iw 8 fun d => d.endLoop L

/-- CALL (R115). -/
def execCall (L : Lch) (iw : BitVec 128) (s : State) : Result :=
  s.on fun d => d.takePc L iw 9 fun d => d.callInstr L iw

/-- RET (R115). -/
def execRet (L : Lch) (iw : BitVec 128) (s : State) : Result :=
  s.on fun d => d.takePc L iw 0x0A fun d => d.popCall L

/-! ### MATCH, FIRE, HALT and reserved opcodes -/

/-- MATCH sets what the next COUNT + 1 periods are compared with (R118). -/
def Dev.matchInstr (d : Dev) (L : Nat) (iw : BitVec 128) : Dev :=
  d.modLane L fun l => { l with mat := some { left := matCount iw + 1, care := matCare iw, exp := matExp iw } }

/-- MATCH (R118). -/
def execMatchResults (L : Lch) (iw : BitVec 128) (s : State) : Result :=
  s.on fun d => d.takeRec L iw 0x0C .mat none fun d => d.matchInstr L iw

/-- FIRE (R120). -/
def execFire (L : Lch) (iw : BitVec 128) (s : State) : Result :=
  s.on fun d => d.takeRec L iw 0x0D .fire none fun d => d.expandOther L iw

/-- The FIRE with the earliest origin emits its event, when its origin has come: on the cluster's flag producer, which
the lane's holder must own (R120, R208). -/
def Dev.fireEmit (d : Dev) (L : Nat) : Dev :=
  let l := d.lane L
  let best := l.fires.foldl (fun (b : Option FireEv) f => match b with
    | none => some f
    | some x => if f.origin < x.origin then some f else some x) none
  match best with
  | none => d
  | some f =>
    if d.epoch < f.origin / 4096 then d
    else
      let d := d.setLane L { l with fires := (l.fires.filter fun x => x.origin != f.origin || x.flag != f.flag || x.iss != f.iss) }
      if (d.rowOwn (L / 64) (160 + f.flag)).owner == l.holder then d.emit (L / 64) (160 + f.flag) f.origin f.hop else d

/-- FIRE_EMIT (R120). -/
def execFireEmit (L : Lch) (s : State) : Result := s.on fun d => d.fireEmit L

/-- HALT ends the program; what has been produced still acts (R121). -/
def Dev.haltInstr (d : Dev) (L : Nat) : Dev :=
  let d := (d.modLane L Lane.ended).set (PROG_STAT.STATE L) 6
  ((d.irqOwner (lanePage L) 0).request2 (L / 64) 1 (L % 64)).groupCheckOf L

/-- HALT (R121). -/
def execHalt (L : Lch) (iw : BitVec 128) (s : State) : Result :=
  s.on fun d => if d.progState L = 4 then d.takeRec L iw 0x0E .halt none fun d => d.haltInstr L else d

/-- RESERVED_OPCODE: a reserved opcode or an invalid field stops the program (R108, R109). -/
def execReservedOpcode (L : Lch) (iw : BitVec 128) (s : State) : Result :=
  s.on fun d => if d.canRun L && iwInvalid iw && (d.lane L).records.isEmpty then d.atPc L iw id else d

/-- UNDERRUN: nothing has been decoded for the period at P by 8 T0 before it; the lane underruns at T_u = P (R130). -/
def Dev.underrun (d : Dev) (L : Nat) : Dev :=
  let d := d.refill L
  let l := d.lane L
  if d.progState L == 4 && l.queued == 0 && l.under.isNone && !l.stopReached && decide (l.p ≤ tq (d.epoch + 8)) then
    d.askUnder L l.p
  else d

/-- UNDERRUN (R130). -/
def execUnderrun (L : Lch) (s : State) : Result := s.on fun d => d.underrun L

/-! ### Line fetches (R105, R107, R126) -/

/-- A line fetch completes: poisoned data stops the program; the line is in the cache, and where the program stands at an entry
of it beyond the region and may execute it, the program stops (R105, R107, R126). Data is poisoned where the command says so
or HBM's word is marked (R26). -/
def Dev.fetchDone (d : Dev) (L line : Nat) (poison : Bool) : Dev :=
  if !d.progBusy L then d
  else if poison || (decide (16 * line < d.evsEntries L) && d.evsPoison L (256 * line) 256) then d.poisonStop L (256 * line)
  else
    let d := d.modLane L fun l => l.cacheLine line
    let pc := d.get (PROG_PC.PC L)
    if d.canRun L && (d.lane L).records.isEmpty && pc / 16 == line && decide (d.evsEntries L ≤ pc) then d.rangeStop L else d

/-- EDGE_FETCH_DONE (R126). -/
def execEdgeFetchDone (L : Lch) (line : BitVec 20) (poison : Bool) (s : State) : Result :=
  s.on fun d => d.fetchDone L line.toNat poison

/-! ### PROG_CTRL (R131 to R134) -/

/-- A command of PROG_CTRL that is not accepted (R132). -/
def Dev.cmdErr (d : Dev) (L : Nat) : Dev := d.stick (PROG_STAT.CMD_ERR L)

/-- PRIME is accepted in IDLE, HALTED and STOPPED (R131, R153, R158). -/
def Dev.primeCmd (d : Dev) (L : Nat) : Dev :=
  if d.startsRefused (L / 64) || !(d.progState L == 0 || d.progState L == 6 || d.progState L == 7) then d.cmdErr L
  else d.prime L

/-- GO is accepted in IDLE, PRIMING and PRIMED of a channel outside lock groups; the start T0 is PROG_START, at least
the origin plus 16 T0, or that minimum (R132). -/
def Dev.goCmd (d : Dev) (L : Nat) : Dev :=
  let mode := d.get (PROG_CTRL.START_MODE L)
  if d.startsRefused (L / 64) || 2 < d.progState L || mode == 1 || mode == 3 || (d.groupOf L).isSome then d.cmdErr L
  else
    let d := if d.progState L = 0 then d.prime L else d
    let least := d.epoch + 16
    let at_ := d.get (PROG_START.EPOCH L)
    let d := d.stickIf (mode == 0 && decide (at_ < least)) (PROG_STAT.LATE L)
    let d := d.fixStart L (tq (if mode = 0 then max at_ least else least))
    (d.set (PROG_STAT.STATE L) 3).serveRegion 1 (L / 64) (L % 64)

/-- STOP is accepted while a program is at work, with T_s = the origin plus 16 T0 (R134). -/
def Dev.stopCmd (d : Dev) (L : Nat) : Dev :=
  if d.progBusy L then d.askStop L (tq (d.epoch + 16)) 0 else d.cmdErr L

/-- A write of PROG_CTRL: the plain bits, then PRIME, GO and STOP as they are set. DESIGN CHOICE, log entry 75: the spec gives
no order to several command bits of one write. -/
def Dev.progCtrlWrite (d : Dev) (ss L : Nat) (val : Word) : Dev :=
  let primes := wbit val 0 || (wbit val 1 && d.progState L == 0)
  d.afterSlices ss L 0x1D4 [val] [0, 1] (primes && d.may ss (lanePage L) .owner) fun d =>
  d.cmdWrite ss (lanePage L) 0x1D4 val (wbit val 0 || wbit val 1 || wbit val 2) fun d =>
    let d := if wbit val 0 then d.primeCmd L else d
    let d := if wbit val 1 then d.goCmd L else d
    if wbit val 2 then d.stopCmd L else d

/-- Starts are held between an epoch's decision and E0 (R60). -/
def Dev.holdsStarts (d : Dev) : Bool := d.dirum.take.isSome

/-- A command held until E0 (R60). -/
def Dev.holdStart (d : Dev) (c : Instr) : Dev :=
  let g := match c with | .lgGo ss _ => d.get (TB_LG_SEL.GROUP ss) | _ => 0
  { d with dirum := { d.dirum with held := d.dirum.held ++ [(c, g)] } }

/-- PRIME (R131). -/
def execPrime (ss : Sess) (L : Lch) (val : Word) (s : State) : Result :=
  s.on fun d => if d.holdsStarts && wbit val 1 then d.holdStart (.progGo ss L val) else d.progCtrlWrite ss L val

/-- PROG_GO (R132, R60). -/
def execProgGo (ss : Sess) (L : Lch) (val : Word) (s : State) : Result :=
  s.on fun d => if d.holdsStarts && wbit val 1 then d.holdStart (.progGo ss L val) else d.progCtrlWrite ss L val

/-- PROG_STOP (R134). -/
def execProgStop (ss : Sess) (L : Lch) (val : Word) (s : State) : Result :=
  s.on fun d => if d.holdsStarts && wbit val 1 then d.holdStart (.progGo ss L val) else d.progCtrlWrite ss L val

/-- The PRIME routine of the lane is on the engine, or has been preempted there. -/
def Dev.primeRuns (d : Dev) (L : Nat) : Bool :=
  let t := tget (fun _ => {}) (d.cl (L / 64)).threads 66
  ((d.cl (L / 64)).active == some 66 || t.resume.isSome || t.suspended) && t.vector == 0 && t.sel == L % 64

/-- The first 4 lines from the PC come into the cache; lines beyond the region are left out (R105, R131). -/
def Dev.primeFetch (d : Dev) (L : Nat) : Dev :=
  let n := d.get (PROG_PC.PC L) / 16
  d.modLane L fun l => (([0, 1, 2, 3].map fun i => n + i).filter fun x =>
    decide (16 * x < d.evsEntries L) && !l.cache.contains x).foldl Lane.cacheLine l

/-- Poisoned data in the first 4 lines from the PC: its byte in the region (R107). -/
def Dev.primePoison (d : Dev) (L : Nat) : Option Nat :=
  ([0, 1, 2, 3].map fun i => 256 * (d.get (PROG_PC.PC L) / 16 + i)).find? fun a =>
    decide (a / 16 < d.evsEntries L) && d.evsPoison L a 256

/-- Priming has finished (R131): what the PRIME routine shows is visible, the first lines are in the cache and up to 8
instructions have been decoded, as far as the micro-engine has not done it; PRIMING becomes PRIMED, an ARMED lane is ready
for its start (R133). Poisoned data stops the program instead (R107). -/
def Dev.primeComplete (d : Dev) (L : Nat) (entry : Nat → BitVec 128) : Dev :=
  if (d.lane L).primeT0.isNone || d.primeRuns L then d
  else
    let d := d.primeShow L
    match d.primePoison L with
    | some a => d.poisonStop L a
    | none =>
      let d := (d.primeFetch L).primeDecode L entry 8
      let d := d.modLane L fun l => { l with primeT0 := none, primedT0 := some d.epoch }
      if d.progState L = 1 then d.set (PROG_STAT.STATE L) 2 else d

/-- Entry `pc` of a lane's EVS region, from HBM (R104). -/
def State.entryOf (s : State) (L pc : Nat) : BitVec 128 :=
  match s.toDev.evs L with
  | none => 0
  | some a => BitVec.ofNat 128 (leNat (readBytes hbmDefault s.hbm (0x200000 * a.base + 16 * pc) 16))

/-- PRIME_COMPLETE (R131). -/
def execPrimeComplete (L : Lch) (s : State) : Result := s.on fun d => d.primeComplete L (s.entryOf L)

/-- At its start T0 an ARMED lane outside lock groups runs (R133). -/
def Dev.progStart (d : Dev) (L : Nat) : Dev :=
  match (d.lane L).startAt with
  | none => d
  | some t => if d.progState L == 3 && (d.groupOf L).isNone && decide (t < tq (d.epoch + 1)) then d.begin L t else d

/-- PROG_START (R133). -/
def execProgStart (L : Lch) (s : State) : Result := s.on fun d => d.progStart L

/-- A stop takes effect (R134, R54): at the boundary that P has reached, or at its time where no period runs; a stop
for the lane's group puts the lane in hold (R135). -/
def Dev.stopEffect (d : Dev) (L : Nat) : Dev :=
  let l := d.lane L
  match l.stopAt with
  | none => d
  | some (t, err) =>
    let st := d.progState L
    let due :=
      if st = 4 then decide (t ≤ l.p) && decide (l.p < tq (d.epoch + 1))
      else if st = 3 then
        decide (t < tq (d.epoch + 1)) && (match l.startAt with | none => true | some u => decide (t < u))
      else decide (t < tq (d.epoch + 1))
    if !due || !d.progBusy L then d
    else
      let d := d.progStopped L err
      let d := if err = 8 then d.holdEnter L holdLg else d
      d.groupCheckOf L

/-- STOP_EFFECT (R134). -/
def execStopEffect (L : Lch) (s : State) : Result := s.on fun d => d.stopEffect L

end Sys2Proof.Machine
end

