-- ==== Sys2Proof/Machine/Tmu.lean ====
section
/-! DEFINITION. The time measurement units (06) and the pool arbiter (11): arbitration, the life of a measurement, the
conversion, ramp faults, result records, event slots and injection. -/

namespace Sys2Proof.Machine

/-! ### MEASURE (R117, R161) -/

/-- A side that MEASURE or a slot selects by code: 1, 2, 3 CMP rise, fall or either; 4 a strobe event. -/
def sideOf (sel : Nat) (timed : Side) : Side :=
  if sel = 0 then timed else if sel = 4 then .strobe else .edge sel

/-- MEASURE sends a request to the pool with Ts = P + OFFSET, tagged with the record's context and ring
(R117, R141, R161, R162, R289). -/
def Dev.measure (d : Dev) (L : Nat) (iw : BitVec 128) (r : Rec) : Dev :=
  let l := d.lane L
  let k := L / 64
  let ts := l.p + iwOffset iw
  d.poolRequest k {
    id := 0, src := .measure, session := l.holder.getD 0, lane := L % 64, stopLane := L % 64, ts,
    start := sideOf (measStart iw) (.timed ts), stop := sideOf (measStop iw) (.timed ts), stopN := measStopN iw,
    timeout := d.tmoOf k (measTimeout iw), ring := r.ring, ctx := r.ctx, hop := l.hopOut }

/-- MEASURE (R117). -/
def execMeasure (L : Lch) (iw : BitVec 128) (s : State) : Result :=
  s.on fun d => d.takeRecWith L iw 0x0B .meas none fun d r => d.measure L iw r

/-! ### Eligibility and arbitration (R289 to R296) -/

/-- A request becomes eligible at Ts − 64 T0, or on arrival where that is later (R289). -/
def Dev.reqEligible (d : Dev) (k id : Nat) : Dev :=
  d.modCl k fun c => { c with queue := c.queue.map fun r =>
    if r.id = id && r.eligible.isNone && decide (r.ts / 4096 ≤ d.epoch + 64) then
      { r with eligible := some (max (r.ts / 4096 - 64) r.post) }
    else r }

/-- REQUEST_ELIGIBLE (R289). -/
def execRequestEligible (k : Clu) (req : Nat) (s : State) : Result := s.on fun d => d.reqEligible k req

/-- Eligible requests in the order in which they became so; one for a certain TMU waits until that is IDLE (R186). -/
def Dev.eligibles (d : Dev) (k : Nat) : List Req :=
  ordSort (fun a b => decide (a.eligible.getD 0 ≤ b.eligible.getD 0)) ((d.cl k).queue.filter fun r => r.eligible.isSome
    && (match r.src with | .maint (some t) _ | .burst t => d.tmuReady k t | _ => true))

/-- The most TMUs that a queue's requests may hold: MAX_TMU of the run for stamps (R199), MAINT_MAX for maintenance
(R296). -/
def Dev.queueLimit (d : Dev) (k q : Nat) : Nat :=
  if q < 64 then 34
  else if q = 64 then
    (match (d.fq k).run with
      | none => 0
      | some r => max 1 (min 32 (r.cfg.toNat / 2 ^ 22 % 64)))
  else max 1 (min 2 (d.get (TMU_ARB_CFG.MAINT_MAX k)))

/-- The request may take one more TMU: a background burst one of SHARE, any other within its queue's limit. -/
def Dev.reqMay (d : Dev) (k : Nat) (r : Req) : Bool :=
  match r.src with
  | .burst _ => decide (d.inUse k 66 < min 8 (d.get CAL_BG_CFG.SHARE))
  | _ => decide (r.queue < 64) || decide (d.inUse k r.queue < d.queueLimit k r.queue)

/-- The weight of a queue (R292). -/
def Dev.weight (d : Dev) (k q : Nat) : Nat :=
  max 1 (if q < 64 then d.get (TMU_ARB_WEIGHT.W k q)
    else if q = 64 then d.get (TMU_ARB_CFG.FREQ_W k) else d.get (TMU_ARB_CFG.MAINT_W k))

/-- The route of an edge side: the channel that serves the lane; stamps and timed sides need none (R168). -/
def Dev.routeOf (d : Dev) (k lane : Nat) (s : Side) : Option Nat :=
  match s with | .edge _ => d.served (64 * k + lane) | _ => none

/-- A side that looks at an UNPLACED lane, by its CMP edges or its strobes: it has no route (R168). -/
def Dev.noRoute (d : Dev) (k lane : Nat) (s : Side) : Bool :=
  match s with | .edge _ | .strobe => (d.served (64 * k + lane)).isNone | _ => false

/-- A lane is in hold for STALE or UNPLACED, and the edge side looks at it; a stamp's looks at the lane that the
prescaler counts (R168, R200). -/
def Dev.sideHeld (d : Dev) (k lane : Nat) (s : Side) : Bool :=
  match s with
  | .edge _ => d.heldUncompared (64 * k + lane)
  | .prescaled => (match (d.fq k).run with | none => false | some run => run.onLane lane)
      && d.heldUncompared (64 * k + lane)
  | _ => false

/-- Caliper holds the TMU in CAL (R186, R251). -/
def Dev.calTmu (d : Dev) (k t : Nat) : Dev :=
  let d := (d.set (TMU_STAT.STATE k t) 7).set (TMU_STAT.ROLE k t) 2
  (d.set (PAGE_STAT.STALE (tmuPg k t)) 1).set (PAGE_STAT.CAL_ACTIVE (tmuPg k t)) 1

/-- A maintenance block holds the TMU: Caliper in CAL, self-test in TEST (R186, R302). -/
def Dev.maintHold (d : Dev) (k t : Nat) (bist : Bool) : Dev :=
  if bist then
    ((d.set (TMU_STAT.STATE k t) 6).set (TMU_STAT.ROLE k t) 2).set (PAGE_STAT.BIST_ACTIVE (tmuPg k t)) 1
  else (d.calTmu k t).modRun k fun r => { r with tmus := r.tmus ++ [t] }

/-- A TMU is granted: it takes the request and is armed; the wait of a request that was not guaranteed is recorded
(R166, R168, R292). -/
def Dev.grant (d : Dev) (k : Nat) (r : Req) (guar : Bool) : Dev :=
  match d.readyPos k with
  | [] => d
  | q :: _ =>
    let t := match r.src with | .maint (some t) _ | .burst t => t | _ => (d.posTmu k q).getD 0
    let unrouted := d.noRoute k r.lane r.start || d.noRoute k r.stopLane r.stop
    let d := d.modCl k fun c => { c with queue := c.queue.filter fun x => x.id != r.id }
    let d := d.modTmu k t fun x => { x with
      req := some r, armT0 := d.epoch, route := d.routeOf k r.lane r.start, stopRoute := d.routeOf k r.stopLane r.stop,
      startT := none, stopT := none, stops := 0, hop := 0, timedOut := false, treeSlew := false, late := false,
      unrouted, stale := unrouted, record := none }
    let d := match r.src with
      | .maint _ bist => d.maintHold k t bist
      | .burst _ => (d.calTmu k t).showBg
      | _ => d.set (TMU_STAT.STATE k t) 1
    let d := d.slotState k r 2
    if guar then d
    else
      let d := d.maxUp (TMU_ARB_WAIT_MAX.T0 k) (d.epoch - r.eligible.getD d.epoch)
      if r.aged then d.bump (TMU_ARB_CNT.AGED k) else d

/-- What one round of the arbiter has done: grants made, and the eligibility of those that were not guaranteed. -/
structure ArbState where
  d : Dev
  grants : Nat := 0
  young : List Nat := []

/-- A grant of the round. -/
def ArbState.grant (a : ArbState) (k : Nat) (r : Req) (guar : Bool) : ArbState :=
  { d := a.d.grant k r guar, grants := a.grants + 1,
    young := if guar then a.young else r.eligible.getD 0 :: a.young }

/-- A grant that is not guaranteed is allowed (R291). -/
def ArbState.spare (a : ArbState) (k : Nat) : Bool :=
  decide (a.grants < 4) && !(a.d.readyPos k).isEmpty && decide (a.d.unmet k < (a.d.idlePos k).length)

/-- Guaranteed requests, earliest eligibility first (R291, R292). -/
def arbGuaranteed (k : Nat) (a : ArbState) : ArbState :=
  (a.d.eligibles k).foldl (fun a r =>
    if a.grants < 4 && !(a.d.readyPos k).isEmpty && decide (r.queue < 64)
        && decide (a.d.inUse k r.queue < a.d.tmuMin k r.queue) then a.grant k r true
    else a) a

/-- The aged request with the earliest eligibility, the lower lane position first on a tie (R292, R293). -/
def Dev.agedNext (d : Dev) (k : Nat) : Option Req :=
  (d.eligibles k).foldl (fun (b : Option Req) r =>
    if !r.aged || !d.reqMay k r then b
    else match b with
      | none => some r
      | some x => if r.eligible.getD 0 = x.eligible.getD 0 && r.queue < x.queue then some r else b) none

/-- Aged requests, while grants are left. -/
def arbAged (k : Nat) : Nat → ArbState → ArbState
  | 0, a => a
  | n + 1, a =>
    if !a.spare k then a
    else match a.d.agedNext k with
      | none => a
      | some r => arbAged k n (a.grant k r false)

/-- The queues in the order of the round: from PTR on, wrapping (R292). -/
def queueOrder (ptr : Nat) : List Nat := (List.range 66).map fun i => (ptr + i) % 66

/-- The earliest eligible request of a queue that may be taken. -/
def Dev.queueHead (d : Dev) (k q : Nat) : Option Req :=
  (d.eligibles k).find? fun r => r.queue == q && d.reqMay k r

/-- The weighted round-robin, while grants are left (R292). -/
def arbRound (k : Nat) : Nat → ArbState → ArbState
  | 0, a => a
  | n + 1, a =>
    if !a.spare k then a
    else
      let c := a.d.cl k
      match (queueOrder c.ptr).find? fun q => decide (0 < tget (fun _ => 0) c.credit q) && (a.d.queueHead k q).isSome with
      | none =>
        if ((List.range 66).any fun q => (a.d.queueHead k q).isSome) then
          let credit := (List.range 66).map fun q => (q, a.d.weight k q)
          arbRound k n { a with d := a.d.setCl k { c with credit } }
        else a
      | some q =>
        match a.d.queueHead k q with
        | none => a
        | some r =>
          let a := a.grant k r false
          let left := tget (fun _ => 0) c.credit q - 1
          arbRound k n { a with d := a.d.modCl k fun c => { c with
            credit := tput (fun _ => 0) c.credit q left
            ptr := if left = 0 then (q + 1) % 66 else c.ptr } }

/-- Requests that were passed over by younger ones; those passed AGE times are aged (R292, R293). -/
def Dev.arbPass (d : Dev) (k : Nat) (young : List Nat) : Dev :=
  let age := max 1 (min 64 (d.get (TMU_ARB_CFG.AGE k)))
  d.modCl k fun c => { c with queue := c.queue.map fun r =>
    match r.eligible with
    | none => r
    | some e =>
      let pass := r.pass + (young.filter fun x => decide (e / 4 < x / 4)).length
      { r with pass, aged := r.aged || decide (age ≤ pass) } }

/-- Background mode runs in a cluster: capability 0x000C, BG_MODE, and no throttling (R258, R387). -/
def Dev.bgOn (d : Dev) (k : Nat) : Bool :=
  d.opts % 2 == 1 && d.on CAL_CTRL.BG_MODE && !d.on PWR_STAT.THROTTLE && d.powered k && !d.on (CL_STATE.MCHK k)
    && !d.quiesced calPage

/-- The pool position whose TMU the next burst takes: the first from the last one on that no burst has or asks for
(R258). -/
def Dev.bgPos (d : Dev) (k : Nat) : Option Nat :=
  ((List.range 32).map fun i => ((d.cl k).bgNext + i) % 32).find? fun q => match d.posTmu k q with
    | none => false
    | some t => !(d.inBurst k).contains t && !(d.cl k).queue.any fun r => r.src == .burst t

/-- Caliper asks for a TMU of its share in rotation, through the maintenance queue (R258, R296). -/
def Dev.bgAsk (d : Dev) (k : Nat) : Dev :=
  let asked := ((d.cl k).queue.filter fun r => r.charge == 66).length
  if !d.bgOn k || decide (min 8 (d.get CAL_BG_CFG.SHARE) ≤ asked + d.inUse k 66) then d
  else match d.bgPos k with
    | none => d
    | some q =>
      (d.modCl k fun c => { c with bgNext := (q + 1) % 32 }).poolRequest k {
        id := 0, src := .burst ((d.posTmu k q).getD 0), session := 0, lane := 0, stopLane := 0, ts := tq d.epoch, start := .event,
        stop := .event, stopN := 1, timeout := 0, ring := 0, ctx := 0, hop := 0, eligible := some d.epoch }

/-- Requests for bursts leave the queue where the mode does not run. -/
def Dev.bgStop (d : Dev) (k : Nat) : Dev :=
  if d.bgOn k || !(d.cl k).queue.any fun r => r.charge == 66 then d
  else d.modCl k fun c => { c with queue := c.queue.filter fun r => r.charge != 66 }

/-- One fabric cycle of the pool arbiter, once in a cycle: up to four grants; none while the page is in QUIESCE or not ENABLED
(R292, R352). -/
def Dev.poolArbitrate (d : Dev) (k : Nat) : Dev :=
  if d.quiesced (poolPage k) || !d.powered k || (d.cl k).arbCyc == some d.cycle then d
  else
    let d := d.modCl k fun c => { c with arbCyc := some d.cycle }
    let d := (d.bgStop k).bgAsk k
    let a := arbRound k 8 (arbAged k 4 (arbGuaranteed k { d := d }))
    a.d.arbPass k a.young

/-- POOL_ARBITRATION (R292). -/
def execPoolArbitration (k : Clu) (s : State) : Result := s.on fun d => d.poolArbitrate k

/-! ### Start, stop and timeout (R162 to R166) -/

/-- A TMU granted later than Ts − 8 T0 sees transitions only from its arm time on (R162). -/
def Tmu.lateArm (x : Tmu) (r : Req) : Bool := decide (r.ts < tq (x.armT0 + 8))

/-- The first time at which the TMU sees a transition (R162). -/
def Tmu.sees (x : Tmu) (r : Req) : Nat := if x.lateArm r then tq x.armT0 else r.ts

/-- The stop is an edge side (R164). -/
def Side.isEdge (s : Side) : Bool := match s with | .edge _ | .prescaled => true | _ => false

/-- The earliest stop after a start at `S` (R164, R198). -/
def Req.stopFrom (r : Req) (S : Nat) : Nat :=
  match r.stop with
  | .edge _ => S + 2048
  | .prescaled => max (S + 2048) r.ts
  | _ => S

/-- The cluster's tree rotator is slewing (R47, R176). -/
def Dev.treeSlews (d : Dev) (k : Nat) : Bool := d.on (TB_TREE_PHASE.SLEWING k)

/-- What holds and a slewing tree leave on a measurement, looked at when a side of it comes (R168, R176). -/
def Dev.sampleSides (d : Dev) (k : Nat) (r : Req) (x : Tmu) : Tmu :=
  { x with
    stale := x.stale || d.sideHeld k r.lane r.start || d.sideHeld k r.stopLane r.stop
    treeSlew := x.treeSlew || d.treeSlews k }

/-- A slot's measurement carries LATE: the slot's own flag too (R162, R163). -/
def Dev.slotLate (d : Dev) (k : Nat) (r : Req) (late : Bool) : Dev :=
  match r.src with
  | .slot s => d.stickIf late (TMU_SLOT_STAT.LATE k s)
  | _ => d

/-- The start comes at `S`: the TMU enters MEASURING, and LATE is decided (R162, R166). -/
def Dev.tmuBegin (d : Dev) (k t : Nat) (r : Req) (S : Nat) : Dev :=
  let x := d.tmu k t
  let timed := match r.start with | .timed _ => true | _ => false
  let late := x.lateArm r && (!timed || decide (r.stopFrom S < tq x.armT0))
  let d := d.setTmu k t (d.sampleSides k r { x with startT := some S, late })
  ((d.set (TMU_STAT.STATE k t) 2).slotState k r 3).slotLate k r late

/-- A time has come: it lies at or before the end of the present T0. -/
def Dev.come (d : Dev) (t : Nat) : Bool := decide (t < tq (d.epoch + 1))

/-- The transition `rise` at the ball qualifies under selection `pol` (1 rise, 2 fall, 3 either), after CMP_INV
(R159). -/
def Dev.polOk (d : Dev) (k lane pol : Nat) (rise : Bool) : Bool :=
  let up := rise != d.on (LANE_CFG.CMP_INV (64 * k + lane))
  pol == 3 || (pol == 1 && up) || (pol == 2 && !up)

/-- A strobe event of the lane has the given time (R161). -/
def Dev.strobeAt (d : Dev) (k lane t : Nat) : Bool := (d.lane (64 * k + lane)).stbEvents.contains t

/-- The deadline of the present wait (R165). -/
def Tmu.deadline (x : Tmu) (r : Req) : Nat :=
  match x.startT with
  | none => r.ts + tq r.timeout
  | some S => S + tq r.timeout

/-- A start arrives at an ARMED TMU; a timed start comes at its own time; to a measurement without a route no start comes
(R161, R165, R166, R168). -/
def Dev.tmuStart (d : Dev) (k t arrival : Nat) (rise : Bool) : Dev :=
  let x := d.tmu k t
  match x.req with
  | none => d
  | some r =>
    if d.tmuState k t != 1 || x.unrouted then d
    else
      let ok := d.come arrival && decide (x.sees r ≤ arrival) && decide (cyc arrival ≤ cyc (x.deadline r))
      match r.start with
      | .timed S => if d.come S then d.tmuBegin k t r S else d
      | .edge pol => if ok && x.route.isSome && d.polOk k r.lane pol rise then d.tmuBegin k t r arrival else d
      | .strobe => if ok && d.strobeAt k r.lane arrival then d.tmuBegin k t r arrival else d
      | .event | .prescaled => d

/-- TMU_START (R161, R166). -/
def execTmuStart (k : Clu) (t : TmuId) (arrival : Nat) (rise : Bool) (s : State) : Result :=
  s.on fun d => d.tmuStart k t arrival rise

/-- A timed start whose time has come has happened before anything else does. -/
def Dev.tmuDue (d : Dev) (k t : Nat) : Dev :=
  match (d.tmu k t).req with
  | none => d
  | some r => match r.start with | .timed _ => d.tmuStart k t 0 false | _ => d

/-- The qualifying stop: the TMU enters CONVERTING (R164, R166). -/
def Dev.tmuFinish (d : Dev) (k t : Nat) (r : Req) (arrival n hop : Nat) : Dev :=
  let x := d.tmu k t
  let d := d.setTmu k t (d.sampleSides k r { x with
    stopT := some arrival, stops := x.stops + 1, endT0 := arrival / 4096, freqN := n, hop := max x.hop hop })
  (d.set (TMU_STAT.STATE k t) 3).slotState k r 4

/-- The count that a stamp of the gate of start `g0` latches at its stop: of the open gate, or of the one that closed in
this fabric cycle (R198, R199). -/
def Freq.countOf (f : Freq) (g0 : Nat) : Nat :=
  match f.tail with
  | none => f.n
  | some (h0, _, n) => if h0 = g0 then n else f.n

/-- Field of the run's copy of FREQ_CFG. -/
abbrev FreqRun.fld (r : FreqRun) (lo n : Nat) : Nat := r.cfg.toNat / 2 ^ lo % 2 ^ n
abbrev FreqRun.fin (r : FreqRun) : Bool := r.fld 0 1 == 1
abbrev FreqRun.lane (r : FreqRun) : Nat := r.fld 1 6

/-- The ball whose transitions a request stops on: its stop lane's comparator, or the input of its cluster's estimator
(R164, R188, R198). -/
def Dev.stopsAt (d : Dev) (k : Nat) (r : Req) : CountBall → Bool
  | .cmp L => match r.stop with
    | .prescaled => (match (d.fq k).run with | none => false | some run => !run.fin && 64 * k + run.lane == L.val)
    | _ => 64 * k + r.stopLane == L.val
  | .fin i => match r.stop with
    | .prescaled => (match (d.fq k).run with | none => false | some run => run.fin && run.fld 7 2 == i.val)
    | _ => false

/-- A stop transition arrives at a MEASURING TMU: it counts from 2,048 tq after the start on, in order of time, up to
the deadline's fabric cycle; the (STOP_N + 1)-th qualifies. A stamp stops on the edge that the prescaler counted last,
and latches its count (R164, R165, R198). -/
def Dev.tmuStop (d : Dev) (k t arrival : Nat) (rise : Bool) (ball : CountBall) : Dev :=
  let d := d.tmuDue k t
  let x := d.tmu k t
  match x.req, x.startT with
  | some r, some S =>
    if d.tmuState k t != 2 then d
    else
      let ok := d.come arrival && decide (x.sees r ≤ arrival) && decide (r.stopFrom S ≤ arrival)
        && decide (cyc arrival ≤ cyc (x.deadline r))
        && (match x.stopT with | none => true | some p => decide (p < arrival))
      let fits := match r.stop with
        | .edge pol => x.stopRoute.isSome && d.polOk k r.stopLane pol rise
        | .strobe => d.strobeAt k r.stopLane arrival
        | .prescaled => (d.fq k).run.isSome && (d.fq k).lastEdge == some arrival
        | _ => false
      let latched := match r.src with | .freq _ g0 => (d.fq k).countOf g0 | _ => 0
      if !ok || !fits || !d.stopsAt k r ball then d
      else if r.stopN ≤ x.stops then d.tmuFinish k t r arrival latched 0
      else d.setTmu k t { x with stopT := some arrival, stops := x.stops + 1 }
  | _, _ => d

/-- TMU_STOP (R164, R198). -/
def execTmuStop (k : Clu) (t : TmuId) (arrival : Nat) (rise : Bool) (ball : CountBall) (s : State) : Result :=
  s.on fun d => d.tmuStop k t arrival rise ball

/-- The done event of the measurement on row 128 + q, at the first fabric-cycle boundary at or after `t0` T0: only where
the requesting session owns the row (R181, R208, R227). -/
def Dev.tmuDone (d : Dev) (k t : Nat) (r : Req) (x : Tmu) (t0 : Nat) : Dev :=
  let row := 128 + d.get (TMU_STAT.POSITION k t)
  let hop := match r.src with | .slot _ => max r.hop x.hop + 1 | _ => r.hop
  if r.queue == 65 || (d.rowOwn k row).owner != some r.session then d
  else d.emit k row (tq ((t0 + 3) / 4 * 4)) hop

/-- At deadline + 48 T0 the TMU declares the timeout, and its done event follows; a wait that began later than R162
allows for the transitions it looked for leaves LATE (R162, R165, R181). -/
def Dev.tmuTimeout (d : Dev) (k t : Nat) : Dev :=
  let d := d.tmuDue k t
  let x := d.tmu k t
  match x.req with
  | none => d
  | some r =>
    let due := x.deadline r + tq 48
    let timed := match r.start with | .timed _ => true | _ => false
    if !(d.tmuState k t == 2 || (d.tmuState k t == 1 && (!timed || x.unrouted))) || !d.come due then d
    else
      let end_ := (due + 4095) / 4096
      let late := x.late || (x.startT.isNone && !timed && x.lateArm r)
      let d := d.setTmu k t (d.sampleSides k r { x with timedOut := true, endT0 := end_, late })
      let d := ((d.set (TMU_STAT.STATE k t) 3).slotState k r 4).slotLate k r late
      d.tmuDone k t r x end_

/-- TMU_TIMEOUT (R165). -/
def execTmuTimeout (k : Clu) (t : TmuId) (s : State) : Result := s.on fun d => d.tmuTimeout k t

/-! ### Conversion (R171, R174, R178) -/

/-- CD[c] of interpolator `i`. -/
def Tmu.cdAt (x : Tmu) (i c : Nat) : Int := ((tget (fun _ => 0) x.cd (4096 * i + c) : Nat) : Int)

/-- TMU_PATH of interpolator `i` from physical channel `p`, tq. -/
def Tmu.pathAt (x : Tmu) (i : Nat) (p : Option Nat) : Nat :=
  match p with | none => 0 | some p => tget (fun _ => 0) x.path (68 * i + p)

/-- The time of an edge side in 1/16 tq (R174); `path` in tq, 0 for the prescaler (R191). -/
def Tmu.sideTime (x : Tmu) (i : Nat) (c : Codes) (path : Nat) : Int :=
  let l := x.cdAt i c.c.toNat
  let l1 := x.cdAt i c.c1.toNat
  let l2 := x.cdAt i c.c2.toNat
  let ramp := 65536 + (2 * 65536 * (l - l1) + (l2 - l1)) / (2 * (l2 - l1))
  65536 * (c.e : Int) - ramp - 16 * path

/-- The codes of a measurement breach the limits in service (R171). -/
def rampBad (c : Codes) : Bool :=
  let r1 := c.c1.toNat
  let r2 := c.c2.toNat
  let m := c.c.toNat
  r2 < 3360 || 3840 < r2 || r1 < 1610 || 2090 < r1 || r2 < r1 + 1500 || r1 + 2000 < r2 || m + 24 < r1 || r2 + 24 < m
    || m == 0 || m == 4095

/-- The code-density table of an interpolator is a factory set, older than CAL_AGE_MAX minutes, or made more than 5 °C
away from the cluster's temperature (R178). -/
def Dev.cdAged (d : Dev) (k t i : Nat) : Bool :=
  let age := d.cdAge k t i
  let max := d.get (TMU_POOL_CFG.CAL_AGE_MAX k)
  age == 0xFFFF || (max != 0 && decide (max < age))
    || decide (320 < (d.getInt (TMU_CD_INFO.TEMP k t i) - (d.cl k).temp).natAbs)

/-- A ramp fault of interpolator `i`: the TMU leaves service and enters RAMP_LOCK; more than four within 10 minutes make
it UNUSABLE (R171, R172). -/
def Dev.rampFault (d : Dev) (k t i session : Nat) : Dev :=
  let d := d.raise (tmuSrc k t) 0x30 1 i [session]
  let d := ((d.bump (TMU_RAMP_CNT.FAULTS k t)).set (TMU_STAT.LOCKED k t) 0).irqOwner (poolPage k) 2
  let d := d.modTmu k t fun x => { x with faults := x.faults ++ [d.up], rampT0 := d.up }
  let d := d.set (TMU_STAT.STATE k t) 5
  if 4 < d.recentFaults k t && d.get (TMU_STAT.ROLE k t) != 3 then
    (d.raise (tmuSrc k t) 0x31 2 0 (optL (d.owner (poolPage k)))).tmuUnusable k t false
  else d

/-- The TMU returns to IDLE (R166). -/
def Dev.tmuRelease (d : Dev) (k t : Nat) : Dev :=
  (d.modTmu k t fun x => { x with req := none, record := none }).set (TMU_STAT.STATE k t) 0

/-- A reference pair of an interpolator is complete: TMU_REF shows it, and an edge may use it (R169). -/
def Dev.refDone (d : Dev) (k t i up : Nat) (r1 r2 : BitVec 12) : Dev :=
  ((d.set (TMU_REF.REF1 k t i) r1.toNat).set (TMU_REF.REF2 k t i) r2.toNat).modTmu k t fun x =>
    { x with refs := (x.refs.filter fun p => p.i != i || decide (up ≤ p.up + 3200)) ++ [{ i, up, r1, r2 }] }

/-- The sequence after the edges: the pairs of earlier times are no longer current, and each interpolator that converted
an edge has a new one 96 T0 after its ramp's end (R169). The next arm lies 128 T0 after the later of the stop and the start's
ramp end plus 128 T0 (R170). -/
def Dev.refAfter (d : Dev) (k t : Nat) (conv0 conv1 : Bool) (c0 c1 : Codes) : Dev :=
  if !conv0 && !conv1 then d
  else
    let base := d.up - d.epoch
    let ramp := if conv0 then c0.e + 128 else 0
    let d := d.modTmu k t fun x => { x with refs := [], freeT0 := base + max x.endT0 ramp + 128 }
    let d := if conv0 then d.refDone k t 0 (base + c0.e + 96) c0.c1 c0.c2 else d
    if conv1 then d.refDone k t 1 (base + c1.e + 96) c1.c1 c1.c2 else d

/-- Everything R174 and R178 decide of a measurement: its interval, its status and the T0 of its start. -/
structure Conv where
  interval : Nat
  status : Nat
  epoch : Nat
  bad0 : Bool
  bad1 : Bool
  deriving DecidableEq, Repr

/-- The pair by which interpolator `i` converts an edge whose ramp ended at `c.e`: the last that was complete before the T0
of the edge, which is `c.e` − 2, and not more than 3,200 T0 before it (R169). DEDUCED, log entry 76: where none is
current the model takes the pair that follows the conversion, since R169 knows no measurement without one. -/
def Dev.refOf (d : Dev) (x : Tmu) (i : Nat) (c : Codes) : Codes :=
  let edge := d.up + c.e - 2 - d.epoch
  match (x.refs.filter fun p => p.i == i && decide (p.up ≤ edge) && decide (edge ≤ p.up + 3200)).getLast? with
  | none => c
  | some p => { c with c1 := p.r1, c2 := p.r2 }

/-- The conversion of a measurement (R174, R177, R178). -/
def Dev.convert (d : Dev) (k t : Nat) (r : Req) (x : Tmu) (c0 c1 : Codes) : Conv :=
  let edge0 := r.start.isEdge
  let conv0 := edge0 && x.startT.isSome
  let conv1 := r.stop.isEdge && !x.timedOut
  let c0 := d.refOf x 0 c0
  let c1 := d.refOf x 1 c1
  let bad0 := conv0 && rampBad c0
  let bad1 := conv1 && rampBad c1
  let S := x.startT.getD r.ts
  let a := if conv0 then x.sideTime 0 c0 (x.pathAt 0 x.route) else 16 * (S : Int)
  let b := if conv1 then x.sideTime 1 c1 (x.pathAt 1 x.stopRoute) else 16 * ((x.stopT.getD S : Nat) : Int)
  let invalid := x.timedOut || bad0 || bad1
  let aged := (conv0 && d.cdAged k t 0) || (conv1 && d.cdAged k t 1) || x.treeSlew
  { interval := if invalid then x.stops else ((b - a + 8) / 16).toNat
    status := b2n x.stale + 4 * b2n x.timedOut + 8 * b2n (x.late || r.late) + 16 * b2n aged + 64 * b2n (!edge0)
      + 128 * b2n (!r.stop.isEdge) + 256 * b2n x.startT.isNone + 512 * b2n (bad0 || bad1) + 1024 * b2n invalid
    epoch := (a / 65536).toNat
    bad0, bad1 }

/-- A stamp resolves: its pair is kept, or it is missed for want of an edge, for a ramp fault or for STALE; the TMU
returns to IDLE or enters RAMP_LOCK (R198 to R200). -/
def Dev.stampDone (d : Dev) (k t i g0 : Nat) (x : Tmu) (v : Conv) : Dev :=
  let d := if v.bad0 || v.bad1 || x.timedOut || x.stale then d.stampMissed k g0 x.stale
    else d.stampGot k g0 { i, n := x.freqN, t := v.interval }
  if v.bad0 || v.bad1 then d.modTmu k t fun x => { x with req := none, record := none } else d.tmuRelease k t

/-- The record of a measurement is computed and waits for its credit, with its TMU or, after a ramp fault, without it
(R166, R171, R177, R179). -/
def Dev.recordDone (d : Dev) (k t : Nat) (r : Req) (x : Tmu) (v : Conv) : Dev :=
  let body := recordBody v.interval v.status v.epoch (r.lch k) r.ctx
  let slot := match r.src with | .slot s => some s | _ => none
  let d := match slot with | none => d | some s => (d.wrapUp (TMU_SLOT_STAT.DONE k s)).set (TMU_SLOT_STAT.STATE k s) 5
  let since := d.up + x.endT0 + 128 - d.epoch
  if v.bad0 || v.bad1 then
    (d.modTmu k t fun x => { x with req := none, record := none }).recordWait k
      { ring := r.ring, session := r.session, body, since, inj := false, slot, tmu := some t }
  else
    (d.modTmu k t fun x => { x with record := some body, creditT0 := since }).set (TMU_STAT.STATE k t) 4

/-- 128 T0 after the stop, or after the timeout's declaration, the conversion is complete (R166, R171, R174, R181). -/
def Dev.convertDone (d : Dev) (k t : Nat) (c0 c1 : Codes) : Dev :=
  let x := d.tmu k t
  match x.req with
  | none => d
  | some r =>
    if d.tmuState k t != 3 || decide (d.epoch < x.endT0 + 128) then d
    else
      let v := d.convert k t r x c0 c1
      let d := d.refAfter k t (r.start.isEdge && x.startT.isSome) (r.stop.isEdge && !x.timedOut) c0 c1
      let d := d.wrapUp (TMU_CNT.COUNT k t)
      let d := if x.timedOut then d else d.tmuDone k t r x (x.endT0 + 128)
      let d := if v.bad0 then d.rampFault k t 0 r.session else d
      let d := if v.bad1 then d.rampFault k t 1 r.session else d
      match r.src with
      | .freq i g0 => d.stampDone k t i g0 x v
      | _ => d.recordDone k t r x v

/-- TMU_CONVERT_DONE (R174). -/
def execTmuConvertDone (k : Clu) (t : TmuId) (start stop : Codes) (s : State) : Result :=
  s.on fun d => d.convertDone k t start stop

/-- REF_PAIR_CONVERT: the idle capacitor of an interpolator that waits for its edge converts the pair: of an ARMED TMU
both, of a MEASURING one the stop's (R169; the latter DEDUCED, log entry 76). -/
def Dev.refPair (d : Dev) (k t i : Nat) (r1 r2 : BitVec 12) : Dev :=
  if d.tmuState k t == 1 || (d.tmuState k t == 2 && i == 1) then d.refDone k t i d.up r1 r2 else d

/-- REF_PAIR_CONVERT (R169). -/
def execRefPairConvert (k : Clu) (t : TmuId) (i : Fin 2) (r1 r2 : BitVec 12) (s : State) : Result :=
  s.on fun d => d.refPair k t i r1 r2

/-! ### The ramp-lock loop (R172, R173) -/

/-- 200 µs in T0: the most that ramp_lock takes for one interpolator. -/
abbrev rampMaxT0 : Nat := 640000

/-- The loop has locked both interpolators in turn: the settings are frozen and the TMU returns to the pool (R173). -/
def Dev.rampLocked (d : Dev) (k t : Nat) (i0 i1 : BitVec 10) : Dev :=
  if d.tmuState k t != 5 || decide ((d.tmu k t).rampT0 / 4 + 2 * rampMaxT0 / 4 < d.cycle) then d
  else
    let d := (d.set (TMU_IDAC.IDAC k t 0) i0.toNat).set (TMU_IDAC.IDAC k t 1) i1.toNat
    (d.set (TMU_STAT.LOCKED k t) 1).set (TMU_STAT.STATE k t) 0

/-- RAMP_LOCK_DONE (R173). -/
def execRampLockDone (k : Clu) (t : TmuId) (i0 i1 : BitVec 10) (s : State) : Result :=
  s.on fun d => d.rampLocked k t i0 i1

/-- An interpolator has not locked within 200 µs: the loop is over, and the TMU is UNUSABLE (R166, R172). -/
def Dev.rampTimeout (d : Dev) (k t : Nat) : Dev :=
  if d.tmuState k t != 5 || decide (d.up < (d.tmu k t).rampT0 + rampMaxT0) then d
  else
    let d := d.set (TMU_STAT.STATE k t) 0
    if d.get (TMU_STAT.ROLE k t) == 3 then d
    else (d.raise (tmuSrc k t) 0x31 2 0 (optL (d.owner (poolPage k)))).tmuUnusable k t false

/-- RAMP_LOCK_TIMEOUT (R172). -/
def execRampLockTimeout (k : Clu) (t : TmuId) (s : State) : Result := s.on fun d => d.rampTimeout k t

/-! ### Ring credits (R179, R180) -/

/-- Another TMU of the cluster takes its credit for the ring first: it asked in an earlier fabric cycle, or in the same
one from a lower pool position (R179). -/
def Dev.creditBehind (d : Dev) (k t : Nat) (r : Req) (since : Nat) : Bool :=
  (List.range 34).any fun u =>
    let y := d.tmu k u
    let first := decide (y.creditT0 / 4 < since / 4)
      || (y.creditT0 / 4 == since / 4 && decide (d.get (TMU_STAT.POSITION k u) < d.get (TMU_STAT.POSITION k t)))
    u != t && d.tmuState k u == 4 && y.record.isSome && first
      && (match y.req with | none => false | some q => q.ring == r.ring)

/-- The record of a TMU has been written or dropped: its slot and the TMU are free. -/
def Dev.creditOver (d : Dev) (k t : Nat) (r : Req) : Dev :=
  ((d.slotState k r 0).tmuRelease k t).serveWaiting k

/-- A ring credit is granted to the TMU, its record is written under the next sequence number; a record for a bad ring
is dropped (R179, R180). -/
def Dev.creditGrant (d : Dev) (k t : Nat) : Dev :=
  let x := d.tmu k t
  match x.req, x.record with
  | some r, some body =>
    if d.tmuState k t != 4 then d
    else if d.ringBad r.ring r.session then (d.recordBad k r.ring r.session).creditOver k t r
    else if d.ringRoom k r.ring && decide (d.cycle ≤ d.creditCycle k x.creditT0)
        && !d.creditBehind k t r x.creditT0 then
      (d.creditTake k r.ring body).creditOver k t r
    else d
  | _, _ => d

/-- CREDIT_GRANT (R179). -/
def execCreditGrant (k : Clu) (t : TmuId) (s : State) : Result := s.on fun d => d.creditGrant k t

/-- The wait of a TMU's record is over: a credit of the same fabric cycle wins, and in the next the record is dropped. Records of
the cluster that wait without a TMU are dropped likewise when their own wait is over (R180, R288). -/
def Dev.creditExpire (d : Dev) (k t : Nat) : Dev :=
  let d := d.creditGrant k t
  let x := d.tmu k t
  let d := match x.req, x.record with
    | some r, some _ =>
      if d.tmuState k t == 4 && decide (d.creditCycle k x.creditT0 < d.cycle) then
        (d.recordDrop k r.ring).creditOver k t r
      else d
    | _, _ => d
  d.serveWaiting k true

/-- CREDIT_WAIT_EXPIRE (R180). -/
def execCreditWaitExpire (k : Clu) (t : TmuId) (s : State) : Result := s.on fun d => d.creditExpire k t

/-- TMU_INJECT: GO writes one record with INJ set; its START_EPOCH is the write's origin (R182). -/
def Dev.tmuInject (d : Dev) (ss k : Nat) (val : Word) : Dev :=
  d.cmdWrite ss (poolPage k) 0x110 val (wbit val 31) fun d =>
    let status := d.get (TMU_INJ_CTRL.FLAGS ss k) ||| 32
    d.recordWait k {
      ring := d.get (TMU_INJ_RING.RING ss k), session := ss, since := d.up, inj := true, slot := none,
      body := recordBody (d.get (TMU_INJ_TCODE.INTERVAL ss k)) status d.epoch (d.get (TMU_INJ_CTRL.LCH ss k))
        (d.get (TMU_INJ_CTRL.CTX ss k)) }

/-- TMU_INJECT (R182). -/
def execTmuInject (ss : Sess) (k : Clu) (val : Word) (s : State) : Result := s.on fun d => d.tmuInject ss k val

/-! ### Event slots (R183 to R185) -/

/-- The session owns both consumer columns of the slot (R183). -/
def Dev.slotOwner (d : Dev) (k s ss : Nat) : Bool :=
  d.isOwn ss (d.colOwn k (256 + 2 * s)).owner && d.isOwn ss (d.colOwn k (257 + 2 * s)).owner

/-- The estimator borrows the slot's start consumer (R193). -/
def Dev.slotBorrowed (d : Dev) (k s : Nat) : Bool := (d.cl k).borrowed == some s

/-- A write of TMU_SLOT_CFG that R183 and R193 allow. -/
def Dev.slotCfgOk (d : Dev) (k s ss : Nat) (v : Word) : Bool :=
  let held := fun j => d.isOwn ss (d.lane (64 * k + j)).holder
  let stop := wfield v 4 3
  held (wfield v 16 6) && (stop == 0 || 3 < stop || held (wfield v 22 6)) && !(wbit v 0 && d.slotBorrowed k s)

/-- Offset of a slot's register in the pool page. -/
def slotOff (r : SlotReg) (s : Nat) : Nat :=
  0x200 + 0x40 * s + (match r with | .cfg => 0 | .tag => 4 | .ring => 8 | .ofs => 0xC | .tmo => 0x14 | .stat => 0x1C)

/-- The register has two words. -/
def slotWide (r : SlotReg) : Bool := match r with | .ofs | .tmo => true | _ => false

/-- The words of a write of it. -/
def slotWords (r : SlotReg) (val : DWord) : List Word :=
  if slotWide r then [val.setWidth 32, (val >>> 32).setWidth 32] else [val.setWidth 32]

/-- The word that a write of TMU_SLOT_CFG stores: an invalid selection clears ENABLE (R184). -/
def slotCfgWord (v : Word) : Word := if 3 < wfield v 1 3 || 3 < wfield v 4 3 then v &&& ~~~ 1 else v

/-- SLOT_CFG_WRITE: a write without the right of R183 is discarded and sets PERM (R183, R184, R193). -/
def Dev.slotCfgWrite (d : Dev) (ss k s : Nat) (reg : SlotReg) (val : DWord) : Dev :=
  let pg := poolPage k
  let off := slotOff reg s
  d.hostWrite ss pg off (slotWords reg val) .any false fun d =>
    let low : Word := val.setWidth 32
    if !d.slotOwner k s ss || (reg == .cfg && !d.slotCfgOk k s ss low) then d.stick (TMU_SLOT_STAT.PERM k s)
    else if slotWide reg then (d.plainWrite ss pg off low).plainWrite ss pg (off + 4) ((val >>> 32).setWidth 32)
    else d.plainWrite ss pg off (if reg == .cfg then slotCfgWord low else low)

/-- SLOT_CFG_WRITE (R183, R184). -/
def execSlotCfgWrite (ss : Sess) (k : Clu) (slot : Fin 32) (reg : SlotReg) (val : DWord) (s : State) : Result :=
  s.on fun d => d.slotCfgWrite ss k slot reg val

/-- An enabled idle slot accepts a start event: the LATE rule, and a request to the pool (R163, R185). -/
def Dev.slotAcceptStart (d : Dev) (k s : Nat) (e : Event) : Dev :=
  let ofs := d.get (TMU_SLOT_OFS.OFS k s) % 2 ^ 52
  let least := tq (if e.glob then 48 else 16)
  let late := decide (ofs < least)
  let d := d.stickIf late (TMU_SLOT_STAT.LATE k s)
  let ts := e.origin + max ofs least
  let stop := d.get (TMU_SLOT_CFG.STOP_SEL k s)
  d.poolRequest k {
    id := 0, src := .slot s, session := (d.colOwn k (256 + 2 * s)).owner.getD 0
    lane := d.get (TMU_SLOT_CFG.START_LANE k s), stopLane := d.get (TMU_SLOT_CFG.STOP_LANE k s), ts
    start := sideOf (d.get (TMU_SLOT_CFG.START_SEL k s)) (.timed ts)
    stop := if stop = 0 then .event else .edge stop
    stopN := if stop = 0 then 0 else d.get (TMU_SLOT_CFG.STOP_N k s)
    timeout := d.tmoOf k (d.get (TMU_SLOT_TMO.T0 k s)), ring := d.get (TMU_SLOT_RING.RING k s)
    ctx := d.get (TMU_SLOT_TAG.TAG k s), hop := e.hop, late }

/-- The TMU that serves the slot's measurement. -/
def Dev.slotTmu (d : Dev) (k s : Nat) : Option Nat :=
  (List.range 34).find? fun t => match (d.tmu k t).req with | none => false | some r => r.src == .slot s

/-- A stop event at an enabled slot: it stops a measurement that waits for one, at or after its start and up to the
deadline's fabric cycle; any other is a STRAY (R164, R165, R185). Answers whether it was accepted. -/
def Dev.slotStop (d : Dev) (k s : Nat) (e : Event) : Bool × Dev :=
  let stray := d.bump (TMU_SLOT_STAT.STRAY k s)
  match d.slotTmu k s with
  | none => (false, stray)
  | some t =>
    let d := d.tmuDue k t
    let x := d.tmu k t
    match x.req, x.startT with
    | some r, some S =>
      if d.tmuState k t == 2 && r.stop == .event && decide (S ≤ e.origin) && decide (cyc e.origin ≤ cyc (x.deadline r)) then
        (true, d.tmuFinish k t r e.origin 0 e.hop)
      else (false, d.bump (TMU_SLOT_STAT.STRAY k s))
    | _, _ => (false, d.bump (TMU_SLOT_STAT.STRAY k s))

/-! ### What the silicon tells of a tree (R176, R202) -/

/-- A tree rotator slews: measurements in progress and open gates of the cluster are marked (R176, R202). -/
def Dev.markTree (d : Dev) (k : Nat) : Dev :=
  let d := { d with tmus := d.tmus.map fun ((key, x) : Nat × Tmu) =>
    if key / 34 = k && x.startT.isSome && d.tmuState k (key % 34) == 2 then (key, { x with treeSlew := true })
    else (key, x) }
  d.modFq k fun f => { f with gate := f.gate.map fun g => if d.come g.g0 then { g with treeSlew := true } else g }

end Sys2Proof.Machine
end

