-- ==== Sys2Proof/Machine/Freq.lean ====
section
/-! DEFINITION. The frequency estimators (07): the prescaler, the gate and its stamps, the regression, and the result
set. -/

namespace Sys2Proof.Machine

/-- The estimator page of cluster `k`. -/
def freqPage (k : Nat) : Page := .freq ⟨k % 16, Nat.mod_lt _ (by omega)⟩

/-! ### Settings of a run (R189, R194, R197) -/

abbrev FreqRun.edge (r : FreqRun) : Nat := r.fld 9 2
abbrev FreqRun.presc (r : FreqRun) : Nat := r.fld 11 3
abbrev FreqRun.mode (r : FreqRun) : Nat := r.fld 14 2
abbrev FreqRun.slot (r : FreqRun) : Nat := r.fld 16 5
abbrev FreqRun.cont (r : FreqRun) : Bool := r.fld 21 1 == 1
abbrev FreqRun.maxTmu (r : FreqRun) : Nat := max 1 (min 32 (r.fld 22 6))

/-- K2 = 2 × K, the input half-cycles per prescaled edge (R189). -/
def FreqRun.k2 (r : FreqRun) : Nat :=
  let dv := 2 ^ r.presc
  if r.fin then 16 * dv else if r.edge = 2 then dv else 2 * dv

/-- Close of a gate (The gate). -/
abbrev FreqRun.close (r : FreqRun) (g : FreqGate) : Nat := g.g0 + tq r.gate

/-- FREQ_CFG_WRITE: PRESC 7 or EDGE 3 discards the whole write (R189). -/
def Dev.freqCfgWrite (d : Dev) (ss k : Nat) (val : Word) : Dev :=
  d.hostWrite ss (freqPage k) 0x100 [val] .owner false fun d =>
    if wfield val 11 3 = 7 || wfield val 9 2 = 3 then d.stick (FREQ_STAT.CMD_ERR k)
    else d.plainWrite ss (freqPage k) 0x100 val

/-- FREQ_CFG_WRITE (R189). -/
def execFreqCfgWrite (ss : Sess) (k : Clu) (val : Word) (s : State) : Result :=
  s.on fun d => d.freqCfgWrite ss k val

/-- The copy that GO takes of the settings, and whether something was clamped (R194, R197). -/
def Dev.freqCopy (d : Dev) (k ss : Nat) : FreqRun × Bool :=
  let gate := d.get (FREQ_GATE.T0 k)
  let n := d.get (FREQ_STAMPS.N k)
  let gate' := max 3200 (min 32000000000 gate)
  let n' := max 3 (min 65536 n)
  let n'' := if gate' / n' < 4 then gate' / 4 else n'
  ({ cfg := d.reg (FREQ_CFG k), gate := gate', stamps := n'', ofs := d.get (FREQ_OFS.OFS k) % 2 ^ 52,
     delta := gate' / n'', session := ss }, gate' != gate || n'' != n)

/-! ### GO, STOP and ABORT (R192 to R195) -/

/-- FREQ_STAT.STATE: 0 IDLE, 1 ARMED, 2 OPEN, 3 COMPUTING. -/
abbrev Dev.freqState (d : Dev) (k : Nat) : Nat := d.get (FREQ_STAT.STATE k)

/-- GO is refused (R192 to R194): the estimator is at work, START_MODE is 3, or ON_EVENT names a slot that the writer
does not own or that is enabled. -/
def Dev.freqGoBad (d : Dev) (ss k : Nat) : Bool :=
  let mode := d.get (FREQ_CFG.START_MODE k)
  let s := d.get (FREQ_CFG.SLOT k)
  d.freqState k != 0 || mode == 3 || (mode == 1 && (!d.slotOwner k s ss || d.on (TMU_SLOT_CFG.ENABLE k s)))

/-- GO arms the estimator with its start by START_MODE (R192, R193). -/
def Dev.freqGo (d : Dev) (ss k : Nat) : Dev :=
  if d.freqGoBad ss k then d.stick (FREQ_STAT.CMD_ERR k)
  else
    let (run, clamp) := d.freqCopy k ss
    let origin := tq d.epoch
    let asked := if run.mode = 0 then tq (d.get (FREQ_START.EPOCH k)) else origin + run.ofs
    let late := run.mode != 1 && decide (asked < origin + tq 16)
    let d := (d.stickIf clamp (FREQ_STAT.CFG_CLAMP k)).stickIf late (FREQ_STAT.LATE k)
    let gate : Option FreqGate := if run.mode = 1 then none else some { g0 := max asked (origin + tq 16), late }
    let d := d.modFq k fun f => { f with run := some run, gate, pre := none, goT := origin }
    let d := if run.mode = 1 then d.modCl k fun c => { c with borrowed := some run.slot } else d
    d.set (FREQ_STAT.STATE k) 1

/-- Stamp requests of a gate that have not been granted leave the queue. -/
def Dev.dropStamps (d : Dev) (k g0 : Nat) (missed : Bool) : Dev :=
  let mine := fun (r : Req) => match r.src with | .freq _ g => g == g0 | _ => false
  let n := ((d.cl k).queue.filter mine).length
  let d := d.modCl k fun c => { c with queue := c.queue.filter fun r => !mine r }
  (List.range n).foldl (fun d _ => if missed then d.stampMissed k g0 false else d.stampEnd k g0 id) d

/-- The estimator returns to IDLE from ARMED: no gate opens (R195). -/
def Dev.freqDisarm (d : Dev) (k : Nat) : Dev :=
  let d := match (d.fq k).gate with | none => d | some g => d.dropStamps k g.g0 false
  let d := d.modFq k fun f => { f with run := none, gate := none, pre := none }
  (d.modCl k fun c => { c with borrowed := none }).set (FREQ_STAT.STATE k) 0

/-- No further gate opens: what was asked for of the next gate is discarded (R195). -/
def Dev.freqNoMore (d : Dev) (k : Nat) : Dev :=
  let d := match (d.fq k).pre with | none => d | some g => d.dropStamps k g.g0 false
  d.modFq k fun f => { f with pre := none, run := f.run.map fun r => { r with cfg := r.cfg &&& ~~~ 0x200000 } }

/-- STOP ends continuous operation, or returns an ARMED estimator to IDLE (R195). -/
def Dev.freqStop (d : Dev) (k : Nat) : Dev :=
  let d := d.modFq k fun f => { f with stopCyc := some d.cycle }
  if d.freqState k = 1 then d.freqDisarm k else d.freqNoMore k

/-- ABORT ends the open gate at once: its result is posted 2,048 T0 later with ERR = ABORTED (R195). -/
def Dev.freqAbort (d : Dev) (k : Nat) : Dev :=
  let d := d.modFq k fun f => { f with stopCyc := some d.cycle }
  if d.freqState k = 1 then d.freqDisarm k
  else if d.freqState k = 2 then
    let d := d.freqNoMore k
    match (d.fq k).gate with
    | none => d
    | some g =>
      let d := d.modFq k fun f => { f with
        gate := none, closed := f.closed ++ [{ d.gateFlags k g with aborted := true, postT0 := d.epoch + 2048 }] }
      (d.dropStamps k g.g0 false).set (FREQ_STAT.STATE k) 3
  else d

/-- A write of FREQ_CTRL: ABORT before STOP before GO; a GO of the fabric cycle of a STOP or ABORT opens no gate
(R195). -/
def Dev.freqCtrlWrite (d : Dev) (ss k : Nat) (val : Word) : Dev :=
  d.cmdWrite ss (freqPage k) 0x120 val (wbit val 0 || wbit val 1 || wbit val 2) fun d =>
    if wbit val 2 then d.freqAbort k
    else if wbit val 1 then d.freqStop k
    else if (d.fq k).stopCyc == some d.cycle then d
    else d.freqGo ss k

/-- FREQ_GO (R192), held between an epoch's decision and E0 (R60, R196). -/
def execFreqGo (ss : Sess) (k : Clu) (val : Word) (s : State) : Result :=
  s.on fun d => if d.holdsStarts && wbit val 0 then d.holdStart (.freqGo ss k val) else d.freqCtrlWrite ss k val

/-- FREQ_STOP (R195). -/
def execFreqStop (ss : Sess) (k : Clu) (val : Word) (s : State) : Result :=
  s.on fun d => if d.holdsStarts && wbit val 0 then d.holdStart (.freqGo ss k val) else d.freqCtrlWrite ss k val

/-- FREQ_ABORT (R195). -/
def execFreqAbort (ss : Sess) (k : Clu) (val : Word) (s : State) : Result :=
  s.on fun d => if d.holdsStarts && wbit val 0 then d.holdStart (.freqGo ss k val) else d.freqCtrlWrite ss k val

/-- An event at the borrowed start consumer fixes G0; one that reaches it once G0 is fixed, in a fabric cycle before that of
G0, is dropped with OVERRUN (R192, R193). Answers whether it was accepted. -/
def Dev.freqStartEvent (d : Dev) (k : Nat) (e : Event) : Bool × Dev :=
  let f := d.fq k
  match f.run with
  | none => (false, d)
  | some run =>
    if f.gate.isSome || d.freqState k != 1 then (false, d.stick (FREQ_STAT.OVERRUN k))
    else
      let least := tq (if e.glob then 48 else 16)
      let late := decide (run.ofs < least)
      let d := d.stickIf late (FREQ_STAT.LATE k)
      (true, d.setFq k { f with gate := some { g0 := e.origin + max run.ofs least, late, hop := e.hop + 1 } })

/-! ### The gate (R191, R196) -/

/-- A gate begins: its route is fixed and the count of prescaled edges starts again (R191, R198). -/
def Dev.gateBegin (d : Dev) (k : Nat) (run : FreqRun) (g : FreqGate) : Dev :=
  let L := 64 * k + run.lane
  let route := if run.fin then none else d.served L
  let stale := !run.fin && (route.isNone || d.heldUncompared L)
  d.modFq k fun f => { f with
    gate := some (d.gateFlags k { g with stale := g.stale || stale }), pre := none, route, n := 0 }

/-- At G0 the gate opens and the borrowed consumer returns to its slot (R193, R196). -/
def Dev.gateOpen (d : Dev) (k : Nat) : Dev :=
  let f := d.fq k
  match f.run, f.gate with
  | some run, some g =>
    if d.freqState k != 1 || !d.come g.g0 then d
    else
      let d := d.modCl k fun c => { c with borrowed := none }
      (d.gateBegin k run g).set (FREQ_STAT.STATE k) 2
  | _, _ => d

/-- GATE_OPEN (R196). -/
def execGateOpen (k : Clu) (s : State) : Result := s.on fun d => d.gateOpen k

/-- Stamp `g.next` of a gate is sent, or missed when MAX_TMU requests are outstanding (R198, R199). Answers the gate
with its stamp counted. -/
def stampSend (run : FreqRun) (g : FreqGate) (busy post : Nat) : FreqGate × Option Req :=
  let g' := { g with next := g.next + 1 }
  if run.maxTmu ≤ busy then ({ g' with missed := g.missed + 1 }, none)
  else
    ({ g' with outstanding := g.outstanding + 1 },
      some { id := 0, src := .freq g.next g.g0, session := run.session, lane := run.lane, stopLane := run.lane,
             ts := g.g0 + tq (g.next * run.delta), start := .timed g.g0, stop := .prescaled, stopN := 0,
             timeout := run.gate, ring := 0, ctx := 0, hop := g.hop, post })

/-- Requests outstanding. -/
def Freq.busy (f : Freq) : Nat :=
  (match f.gate with | none => 0 | some g => g.outstanding) + (match f.pre with | none => 0 | some g => g.outstanding)
    + f.closed.foldl (fun n g => n + g.outstanding) 0

/-- The request time of a gate's next stamp lies at most 64 T0 ahead, and the gate has such a stamp (R199). -/
def Dev.stampDue (d : Dev) (run : FreqRun) (g : FreqGate) : Bool :=
  decide (g.next < run.stamps) && d.come (g.g0 + tq (g.next * run.delta) - tq 64)

/-- At τ_i − 64 T0 the estimator sends the next stamp request; in continuous operation the first stamps of the next gate
are asked for before the present one closes (R196, R199). -/
def Dev.stampRequest (d : Dev) (k : Nat) : Dev :=
  let f := d.fq k
  match f.run, f.gate with
  | some run, some g =>
    if d.stampDue run g then
      let (g, q) := stampSend run g f.busy d.epoch
      let d := d.setFq k { f with gate := some g }
      match q with | none => d | some r => d.poolRequest k r
    else
      let p : FreqGate := f.pre.getD { g0 := run.close g, hop := g.hop }
      if run.cont && d.stampDue run p then
        let (p, q) := stampSend run p f.busy d.epoch
        let d := d.setFq k { f with pre := some p }
        match q with | none => d | some r => d.poolRequest k r
      else d
  | _, _ => d

/-- STAMP_REQUEST (R199). -/
def execStampRequest (k : Clu) (s : State) : Result := s.on fun d => d.stampRequest k

/-- At Gc the gate closes: stamps not yet granted are missed, and in continuous operation the next gate opens at the same
time (R196, R199, R203). -/
def Dev.gateClose (d : Dev) (k : Nat) : Dev :=
  match (d.fq k).run, (d.fq k).gate with
  | some run, some g0 =>
    if d.freqState k != 2 || !d.come (run.close g0) then d
    else
      let d := d.dropStamps k g0.g0 true
      let g := (d.fq k).gate.getD g0
      let g := d.gateFlags k { g with missed := g.missed + (run.stamps - g.next), next := run.stamps,
                                      postT0 := run.close g / 4096 + 2048 }
      let held := !run.fin && d.heldUncompared (64 * k + run.lane)
      let d := d.modFq k fun f => { f with
        closed := f.closed ++ [{ g with stale := g.stale || held }], gate := none
        tail := some (g.g0, run.close g, f.n) }
      if run.cont then d.gateBegin k run ((d.fq k).pre.getD { g0 := run.close g, hop := g.hop })
      else d.set (FREQ_STAT.STATE k) 3
  | _, _ => d

/-- GATE_CLOSE (R196). -/
def execGateClose (k : Clu) (s : State) : Result := s.on fun d => d.gateClose k

/-! ### Prescaled edges (R188 to R190) -/

/-- A prescaled edge: two closer than 4 T0 during a gate set PRESC_LOW; edges from 2,048 tq after G0 on are counted
(R190, R198). -/
def Dev.prescaledEdge (d : Dev) (k arrival : Nat) : Dev :=
  let f := d.fq k
  let low := match f.lastEdge, f.gate with
    | some t, some g => decide (g.g0 ≤ t) && decide (arrival < t + 16384)
    | _, _ => false
  let counts := match f.gate with | none => false | some g => decide (g.g0 + 2048 ≤ arrival)
  let d := d.stickIf low (FREQ_STAT.PRESC_LOW k)
  d.setFq k { f with
    lastEdge := some arrival, sub := 0, n := if counts then f.n + 1 else f.n
    tail := f.tail.map fun (g0, gc, n) => (g0, gc, if cyc arrival == cyc gc then n + 1 else n)
    gate := if low then f.gate.map fun g => { g with prescLow := true } else f.gate }

/-- A qualifying input edge of a run's prescaler: every D-th is a prescaled edge (R189). -/
def Dev.prescIn (d : Dev) (k arrival : Nat) (run : FreqRun) : Dev :=
  let f := d.fq k
  if f.sub + 1 < 2 ^ run.presc then d.setFq k { f with sub := f.sub + 1 } else d.prescaledEdge k arrival

/-- A transition of a CMP lane reaches the prescaler of its cluster's estimator (R188, R189). -/
def Dev.presc (d : Dev) (L arrival : Nat) (rise : Bool) : Dev :=
  let k := L / 64
  let f := d.fq k
  match f.run with
  | none => d
  | some run =>
    if run.fin || run.lane != L % 64 || (d.freqState k == 2 && f.route.isNone)
        || !(run.edge == 2 || (run.edge == 0 && rise) || (run.edge == 1 && !rise)) then d
    else d.prescIn k arrival run

/-- A cycle after the front prescaler of FIN `i` reaches every estimator that has selected that input (R188, R189). -/
def Dev.finCycle (d : Dev) (i arrival : Nat) : Dev :=
  (List.range 16).foldl (fun d k => match (d.fq k).run with
    | none => d
    | some run => if run.fin && run.fld 7 2 == i then d.prescIn k arrival run else d) d

/-- A transition arrives at a FIN input: its front prescaler answers one cycle for every eight. DESIGN CHOICE, log entry
68: a cycle of the input is counted at its rise, and the front prescaler's first eight begin at power-on. -/
def Dev.finTransition (d : Dev) (i arrival : Nat) (level : Bool) : Dev :=
  let x := tget (fun _ => {}) d.fins i
  if x.level == level || !d.come arrival then d
  else
    let out := level && x.div == 7
    let div := if level then (x.div + 1) % 8 else x.div
    let d := { d with fins := tput (fun _ => {}) d.fins i { level, div } }
    if out then d.finCycle i arrival else d

/-- A transition arrives at a lane's CMP ball: `level` is the level it ends at. It feeds the event stamper and the
prescaler (R89, R190). -/
def Dev.cmpTransition (d : Dev) (L arrival : Nat) (level : Bool) : Dev :=
  if (d.lane L).cmp == level || !d.come arrival then d
  else
    let d := d.modLane L fun l => { l with cmp := level, cmpT := arrival }
    let rise := d.cmpLevel L level
    (d.cmpStamp L arrival rise).presc L arrival rise

/-- CMP_TRANSITION (R89, R188, R190). -/
def execCmpTransition (ball : CountBall) (arrival : Nat) (level : Bool) (s : State) : Result :=
  s.on fun d => match ball with
    | .cmp L => d.cmpTransition L arrival level
    | .fin i => d.finTransition i arrival level

/-! ### The regression (R200 to R203) -/

/-- The integer square root, from bit `n` − 1 of the root down. -/
def isqrtFrom (v : Nat) : Nat → Nat → Nat
  | 0, r => r
  | n + 1, r => if (r + 2 ^ n) * (r + 2 ^ n) ≤ v then isqrtFrom v n (r + 2 ^ n) else isqrtFrom v n r

/-- √(a / b) to the nearest integer, halves up, at most 2^bits − 1. -/
def sqrtRatio (a b bits : Nat) : Nat := min ((isqrtFrom (4 * a / b) (bits + 2) 0 + 1) / 2) (2 ^ bits - 1)

/-- The stamps that are kept: of those with one n the one of the earliest τ (R200). -/
def keptStamps (l : List Stamp) : List Stamp := l.filter fun s => l.all fun t => t.n != s.n || decide (s.i ≤ t.i)

/-- Σn, Σt, Σn², Σnt and Σt² (R201). -/
def freqSums (l : List Stamp) : List Nat :=
  [l.foldl (fun a s => a + s.n) 0, l.foldl (fun a s => a + s.t) 0, l.foldl (fun a s => a + s.n * s.n) 0,
   l.foldl (fun a s => a + s.n * s.t) 0, l.foldl (fun a s => a + s.t * s.t) 0]

/-- FREQ_PERIOD, FREQ_FREQ, FREQ_RESID and FREQ_UNC of a regression. -/
structure FreqResult where
  period : Nat
  freq : Nat
  resid : Nat
  unc : Nat
  deriving DecidableEq, Repr

/-- The arithmetic of R201 over N ≥ 3 pairs; none where the slope is not positive, for which it states no result. -/
def freqRegress (n k2 : Nat) (sums : List Nat) : Option FreqResult :=
  let sn := sums.getD 0 0
  let st := sums.getD 1 0
  let sxx := n * sums.getD 2 0 - sn * sn
  let sxyi : Int := n * sums.getD 3 0 - sn * st
  let syy := n * sums.getD 4 0 - st * st
  if sxx = 0 || sxyi ≤ 0 then none
  else
    let sxy := sxyi.toNat
    let res := syy * sxx - sxy * sxy
    some {
      period := (2 * (2 * sxy * 2 ^ 32) + sxx * k2) / (2 * (sxx * k2))
      freq := (2 * (k2 * 13107200000000 * 2 ^ 32 * sxx) + 2 * sxy) / (2 * (2 * sxy))
      resid := sqrtRatio (65536 * res) (sxx * n * (n - 2)) 32
      unc := sqrtRatio (2 ^ 128 * res) ((n - 2) * sxy * sxy) 64 }

/-- FREQ_RES_STAT.ERR: 2 ABORTED, 3 PRESC_LOW, 1 FEW_STAMPS, 0 NONE. -/
def FreqGate.err (g : FreqGate) (n : Nat) : Nat :=
  if g.aborted then 2 else if g.prescLow then 3 else if n < 3 then 1 else 0

/-- A 96-bit register. -/
def Dev.setReg96 (d : Dev) (key v : Nat) : Dev :=
  (d.setReg64 key v).setReg (key + 8) (BitVec.ofNat 32 (v / 2 ^ 64))

/-- The four results of a gate; free values where the regression states none. -/
def Dev.freqValues (d : Dev) (err n k2 : Nat) (sums : List Nat) : FreqResult × Dev :=
  if err ≠ 0 then ({ period := 0, freq := 0, resid := 0, unc := 0 }, d)
  else match freqRegress n k2 sums with
    | some r => (r, d)
    | none =>
      let (a, d) := d.draw
      let (b, d) := d.draw
      let (c, d) := d.draw
      let (e, d) := d.draw
      ({ period := a.toNat, freq := b.toNat, resid := c.toNat % 2 ^ 32, unc := e.toNat }, d)

/-- The registers from 0x140 to 0x184. -/
def Dev.freqRegs (d : Dev) (k : Nat) : List Word := (List.range 18).map fun i => d.reg (clu k + 0x7000 + 0x140 + 4 * i)

/-- FREQ_RES_STAT of a posted result (R202, R203). -/
def FreqGate.statWord (g : FreqGate) (n err : Nat) (again : Bool) : Word :=
  BitVec.ofNat 32 (n % 2 ^ 17 + 2 ^ 17 * b2n (err == 0) + 2 ^ 18 * err + 2 ^ 21 * b2n g.stale + 2 ^ 22 * b2n g.holdover
    + 2 ^ 23 * b2n g.internal + 2 ^ 24 * b2n g.tbSlew + 2 ^ 25 * b2n g.treeSlew + 2 ^ 26 * b2n g.late + 2 ^ 27 * b2n again)

/-- The registers from 0x140 to 0x184 as a capture of the present fabric cycle takes them, and the sums: a result posted in
that cycle is not among them (R204). -/
def Dev.freqSet (d : Dev) (k : Nat) : List Word × List Nat :=
  match (d.fq k).was with
  | some (c, l, sums) => if c = d.cycle then (l, sums) else (d.freqRegs k, (d.fq k).acc)
  | none => (d.freqRegs k, (d.fq k).acc)

/-- The result set of a gate replaces the previous one; VALID and OVERWRITE stay set against a write of the same fabric
cycle (R203, R20). -/
def Dev.freqPost (d : Dev) (k : Nat) (run : FreqRun) (g : FreqGate) : Dev :=
  let d := d.modFq k fun f => { f with was := some (d.cycle, d.freqSet k) }
  let kept := keptStamps g.stamps
  let n := kept.length
  let sums := freqSums kept
  let err := g.err n
  let again := d.on (FREQ_RES_STAT.VALID k)
  let (v, d) := d.freqValues err n run.k2 sums
  let d := d.setReg (FREQ_RES_STAT k) (g.statWord n err again)
  let d := (d.stickIf (err == 0) (FREQ_RES_STAT.VALID k)).stickIf again (FREQ_RES_STAT.OVERWRITE k)
  let d := (d.set (FREQ_RES_MISSED.COUNT k) g.missed).set (FREQ_RES_DUP.COUNT k) (g.stamps.length - n)
  let d := (d.setReg64 (FREQ_RES_G0 k) g.g0).setReg96 (FREQ_PERIOD k) v.period
  let d := ((d.setReg96 (FREQ_FREQ k) v.freq).set (FREQ_RESID.RESID k) v.resid).setReg64 (FREQ_UNC k) v.unc
  let d := d.modFq k fun f => { f with acc := sums }
  let d := d.irqOwner (freqPage k) 0
  let d := if again then d.irqOwner (freqPage k) 1 else d
  if err = 0 then d else d.irqOwner (freqPage k) 2

/-- The gate-done event on row 240: only where the row's owner owns the estimator page (R203, R208). -/
def Dev.freqDone (d : Dev) (k : Nat) (g : FreqGate) : Dev :=
  let o := (d.rowOwn k 240).owner
  if o.isSome && o == d.owner (freqPage k) then d.emit k 240 (tq g.postT0) g.hop else d

/-- At Tc + 2,048 T0 the oldest closed gate's result is posted; with none left and no gate open the estimator is IDLE
(R203). -/
def Dev.freqResultPost (d : Dev) (k : Nat) : Dev :=
  match (d.fq k).run, (d.fq k).closed with
  | some run, g :: rest =>
    if d.epoch < g.postT0 then d
    else
      let g := { g with missed := g.missed + (if g.aborted then 0 else g.outstanding) }
      let d := (d.modFq k fun f => { f with closed := rest }).freqPost k run g
      let d := d.freqDone k g
      if rest.isEmpty && (d.fq k).gate.isNone then
        (d.modFq k fun f => { f with run := none }).set (FREQ_STAT.STATE k) 0
      else d
  | _, _ => d

/-- FREQ_RESULT_POST (R203). -/
def execFreqResultPost (k : Clu) (s : State) : Result := s.on fun d => d.freqResultPost k

/-- A read of FREQ_RES_STAT captures every register from 0x140 to 0x184 and the accumulators; its own word is the data of
the completion (R204). In a gated cluster it reads zero (R22). -/
def Dev.freqCapture (d : Dev) (ss k : Nat) : Dev :=
  if !d.acts ss then d
  else if d.waits ss then d.stall ss ((freqPage k).base + 0x140) []
  else if d.gated (freqPage k) then { d with reply := leBytes 4 0 }
  else
    let x := d.freqSet k
    let d := d.modFq k fun f => { f with
      accCap := x.2
      capture := (List.range 18).foldl (fun t i => tput (fun _ => 0) t (0x140 + 4 * i) (x.1.getD i 0)) [] }
    { d with reply := leBytes 4 (x.1.getD 0 0).toNat }

/-- FREQ_RESULT_CAPTURE (R204). -/
def execFreqResultCapture (ss : Sess) (k : Clu) (s : State) : Result := s.on fun d => d.freqCapture ss k

end Sys2Proof.Machine
end

