-- ==== Sys2Proof/Machine/LockGroup.lean ====
section
/-! DEFINITION. Lock groups (R48 to R54): the registers' checks, GO, STOP, SWITCH, start, and the events at a group's
start and switch consumers. -/

namespace Sys2Proof.Machine

/-- The time base page. -/
abbrev tbPage : Page := .dev 1

/-- A session's copy of TB_LG_STAT.ERR (R49). -/
abbrev lgErr (ss : Nat) : Fld := ⟨sessKey ss + TB_LG_STAT, 20, 4⟩

/-- The group that a session has selected (R49). -/
def Dev.lgSel (d : Dev) (ss : Nat) : Nat := d.get (TB_LG_SEL.GROUP ss)

/-- The members lie in more than one cluster (R50). -/
def LockGroup.cross (g : LockGroup) : Bool := (g.members.map fun L => L / 64).eraseDups.length ≥ 2

/-- Bits of a membership word: channels 32 × `w` to 32 × `w` + 31. -/
def LockGroup.word (g : LockGroup) (w : Nat) : Nat :=
  (List.range 32).foldl (fun v i => if g.members.contains (32 * w + i) then v + 2 ^ i else v) 0

/-- The result of a write that only the owner may make in IDLE (R49, R50). Where several checks fail, the owner's comes
before the state's, the state's before the holders', and the holders' before that of another group (DESIGN CHOICE, log
entry 70). -/
def Dev.lgMembersErr (d : Dev) (ss g w : Nat) (val : Word) : Nat :=
  let x := d.lg g
  let new := (List.range 32).filter fun i => val.getLsbD i && !x.members.contains (32 * w + i)
  if !d.isOwn ss x.owner then 1
  else if x.st != .idle then 2
  else if new.any fun i => !d.isOwn ss (d.lane (32 * w + i)).holder then 1
  else if new.any fun i => (d.groupOf (32 * w + i)).isSome then 4
  else 0

/-- LG_MEMBERS_WRITE: the membership bits of one word (R49, R50). -/
def Dev.lgMembers (d : Dev) (ss : Nat) (val : Word) : Dev :=
  d.hostWrite ss tbPage 0x184 [val] .any false fun d =>
    let g := d.lgSel ss
    let w := d.get (TB_LG_SEL.WORD ss)
    let err := d.lgMembersErr ss g w val
    let d := d.set (lgErr ss) err
    if err = 0 then
      let new := ((List.range 32).filter fun i => val.getLsbD i).map fun i => 32 * w + i
      let members := ordSort (fun a b => decide (a ≤ b)) (((d.lg g).members.filter fun L => L / 32 != w) ++ new)
      d.modLg g fun x => { x with members }
    else d

/-- LG_MEMBERS_WRITE (R49, R50). -/
def execLgMembersWrite (ss : Sess) (val : Word) (s : State) : Result := s.on fun d => d.lgMembers ss val

/-! ### GO (R50, R51, R133, R220) -/

/-- The lowest-numbered line that no session owns and no group holds (R220). -/
def Dev.freeLine (d : Dev) : Option Nat :=
  (List.range 64).find? fun l => (d.line l).own.owner.isNone && (d.line l).lg.isNone

/-- A member under a group GO: IDLE members prime, ended ones are armed without priming; a cluster that refuses starts
discards it with CMD_ERR (R133, R158). -/
def Dev.armMember (d : Dev) (m : Nat) : Dev :=
  if d.startsRefused (m / 64) then d.cmdErr m
  else
    let st := d.progState m
    if st = 3 || st = 4 || st = 5 then d
    else
      let d := if st = 0 then d.prime m else d
      d.set (PROG_STAT.STATE m) 3

/-- The group's start is fixed, in tq, for it and for its ARMED members. -/
def Dev.groupFix (d : Dev) (g t : Nat) : Dev :=
  let x := d.lg g
  x.members.foldl (fun d m => if d.progState m = 3 then d.fixStart m t else d)
    (d.setLg g { x with startAt := some t })

/-- GO of an IDLE group with members and, across clusters, a free line (R50, R51). -/
def Dev.groupGo (d : Dev) (g : Nat) : Dev :=
  let x := d.lg g
  let line := if x.cross then d.freeLine else none
  let d := match line with
    | none => d
    | some l => (d.modLine l fun y => { y with lg := some g }).set GL_FREE.FREE (d.get GL_FREE.FREE - 1)
  let x := { x with st := .armed, line, startAt := none, stopT0 := none, goCyc := d.ecyc, evCyc := none }
  let d := d.setLg g x
  let d := x.members.foldl Dev.armMember d
  let least := d.epoch + x.lat
  if x.startMode = 0 then
    let d := if x.startReg < least then d.modLg g fun y => { y with late := true, lateCyc := some d.cycle } else d
    d.groupFix g (tq (max x.startReg least))
  else if x.startMode = 2 then d.groupFix g (tq least)
  else d

/-! ### STOP (R54) -/

/-- STOP of an ARMED or RUNNING group with its origin now (R54). -/
def Dev.groupStopCmd (d : Dev) (g : Nat) : Dev :=
  let x := d.lg g
  let t := d.epoch + x.lat
  let same := x.goCyc == d.ecyc || x.evCyc == some d.ecyc
  let d := if x.st == .armed && same then d.setLg g { x with startAt := none } else d
  d.groupStop g (tq t) 0 none

/-! ### TB_LG_CTRL (R49, R50, R53) -/

/-- The command bits of a TB_LG_CTRL write. -/
def lgCmds (val : Word) : List Nat := [0, 1, 4, 5, 6].filter fun i => wbit val i

/-- The result of a TB_LG_CTRL write (R49, R50, R51, R53, R54). A write of several commands by a session that is not the
owner fails with LG_BUSY, not LG_OWNER (DESIGN CHOICE, log entry 70). -/
def Dev.lgCtrlErr (d : Dev) (ss g : Nat) (val : Word) : Nat :=
  let x := d.lg g
  let cmds := lgCmds val
  if cmds.length ≥ 2 then 2
  else if cmds == [0] then (match x.owner with | none => 0 | some o => if o = ss then 2 else 1)
  else if !d.isOwn ss x.owner then 1
  else if cmds == [1] then (if x.st == .idle then 0 else 2)
  else if cmds == [4] then
    (if x.st != .idle then 2 else if x.members.isEmpty then 5 else if x.cross && d.freeLine.isNone then 3 else 0)
  else if cmds == [5] then (if x.st == .idle then 2 else 0)
  else if cmds == [6] then (if x.st == .running then 0 else 2)
  else 0

/-- An accepted TB_LG_CTRL write: its fields, and its command. A GO in the fabric cycle of a STOP is stopped by it
(R54). -/
def Dev.lgCtrlDo (d : Dev) (ss g : Nat) (val : Word) : Dev :=
  let d := if wbit val 0 then d.modLg g fun x => { x with owner := some ss, attr := d.attrHeld ss } else d
  let d := d.modLg g fun x => { x with startMode := wfield val 2 2, ctx := wfield val 8 8 }
  let d := if wbit val 1 then (d.modLg g fun x => { x with owner := none, attr := 0, members := [] }).clearGcols g else d
  let d := if wbit val 4 then
      let stop := (d.lg g).stopCyc == some d.cycle
      let d := d.groupGo g
      if stop then d.groupStopCmd g else d
    else d
  let d := if wbit val 5 then d.groupStopCmd g else d
  if wbit val 6 then d.groupSwitch g (tq d.epoch) 2 (wfield val 8 8) else d

/-- A write of TB_LG_CTRL to group `g`. One that passes the checks with START_MODE 3 is discarded with a NOTE; ERR then
shows NONE, since no code of R49 stands for it (DESIGN CHOICE, log entry 70). The owner's STOP is remembered for its
fabric cycle (R54). -/
def Dev.lgCtrlAt (d : Dev) (ss g : Nat) (val : Word) : Dev :=
  d.hostWrite ss tbPage 0x188 [val] .any (!(lgCmds val).isEmpty) fun d =>
    let err := d.lgCtrlErr ss g val
    let d := d.set (lgErr ss) err
    let d := if lgCmds val == [5] && d.isOwn ss (d.lg g).owner then
        d.modLg g fun x => { x with stopCyc := some d.cycle } else d
    if err != 0 then d
    else if wfield val 2 2 = 3 then d.discard ss tbPage 0x188
    else d.lgCtrlDo ss g val

/-- A write of TB_LG_CTRL, which addresses the group that the session has selected (R49). -/
def Dev.lgCtrlWrite (d : Dev) (ss : Nat) (val : Word) : Dev := d.lgCtrlAt ss (d.lgSel ss) val

/-- LG_CLAIM (R49). -/
def execLgClaim (ss : Sess) (val : Word) (s : State) : Result :=
  s.on fun d => if d.holdsStarts && wbit val 4 then d.holdStart (.lgGo ss val) else d.lgCtrlWrite ss val
/-- LG_RELEASE (R50). -/
def execLgRelease (ss : Sess) (val : Word) (s : State) : Result :=
  s.on fun d => if d.holdsStarts && wbit val 4 then d.holdStart (.lgGo ss val) else d.lgCtrlWrite ss val
/-- LG_GO (R50, R51, R60). -/
def execLgGo (ss : Sess) (val : Word) (s : State) : Result :=
  s.on fun d => if d.holdsStarts && wbit val 4 then d.holdStart (.lgGo ss val) else d.lgCtrlWrite ss val
/-- LG_STOP (R54). -/
def execLgStop (ss : Sess) (val : Word) (s : State) : Result :=
  s.on fun d => if d.holdsStarts && wbit val 4 then d.holdStart (.lgGo ss val) else d.lgCtrlWrite ss val
/-- LG_SWITCH (R53). -/
def execLgSwitch (ss : Sess) (val : Word) (s : State) : Result :=
  s.on fun d => if d.holdsStarts && wbit val 4 then d.holdStart (.lgGo ss val) else d.lgCtrlWrite ss val

/-- A write of TB_LG_STAT: W1C of LATE and SKIP by the owner; LATE set in the same fabric cycle stays (R49, R20). -/
def Dev.lgStatWrite (d : Dev) (ss : Nat) (val : Word) : Dev :=
  d.hostWrite ss tbPage 0x18C [val] .any false fun d =>
    let g := d.lgSel ss
    let clears := wbit val 9 || wfield val 24 8 != 0
    if clears && !d.isOwn ss (d.lg g).owner then d.set (lgErr ss) 1
    else (d.set (lgErr ss) 0).modLg g fun x => { x with
      late := x.late && (!wbit val 9 || x.lateCyc == some d.cycle), skip := if wfield val 24 8 = 0 then x.skip else 0 }

/-- A write of TB_LG_START: each word succeeds only for the owner; the low word is held, the high word completes the value
(R10, R49). -/
def Dev.lgStartWrite (d : Dev) (ss : Nat) (high : Bool) (val : Word) : Dev :=
  d.hostWrite ss tbPage (if high then 0x194 else 0x190) [val] .any false fun d =>
    let key := sessKey ss + TB_LG_START
    let g := d.lgSel ss
    if !d.isOwn ss (d.lg g).owner then d.set (lgErr ss) 1
    else if !high then { d.set (lgErr ss) 0 with hold := tput (fun _ => 0) d.hold key val }
    else
      (d.set (lgErr ss) 0).modLg g fun x => { x with
        startReg := (tget (fun _ => 0) d.hold key).toNat + 0x100000000 * val.toNat }

/-- What a session reads in TB_LG_STAT (R49). -/
def Dev.lgStat (d : Dev) (ss : Nat) : Word :=
  let x := d.lg (d.lgSel ss)
  let st := match x.st with | .idle => 0 | .armed => 1 | .running => 2
  BitVec.ofNat 32 (x.owner.getD 0 + 64 * b2n x.owner.isSome + 128 * st + 512 * b2n x.late + 1024 * b2n (x.cross || x.line.isSome)
    + 2048 * b2n x.line.isSome + 4096 * x.line.getD 0 + 0x40000 * x.attr + 0x100000 * d.get (lgErr ss)
    + 0x1000000 * x.skip)

/-! ### Start and switch (R51 to R53) -/

/-- At the start T0 an ARMED group runs, and every ARMED member begins its program (R52). -/
def Dev.groupStart (d : Dev) (g : Nat) : Dev :=
  let x := d.lg g
  match x.startAt with
  | none => d
  | some t =>
    if x.st != .armed || x.stopT0.isSome || decide (tq (d.epoch + 1) ≤ t) then d
    else
      let d := d.setLg g { x with st := .running }
      (x.members.foldl (fun d m => if d.progState m = 3 then d.begin m t else d) d).groupCheck g

/-- LG_START (R52). -/
def execLgStart (g : Grp) (s : State) : Result := s.on fun d => d.groupStart g

/-- The least latency from an event's origin: L, or 48 T0 for a global event (R51, R211). -/
def groupLatency (x : LockGroup) (e : Event) : Nat := if e.glob then max x.lat 48 else x.lat

/-- An event at a group's start consumer: it fixes the start of an ARMED ON_EVENT group, unless a STOP is in wait; a
RUNNING group's consumer is busy (R51, R52, R54). Answers whether it was dropped as busy. -/
def Dev.groupStartEvent (d : Dev) (g : Nat) (e : Event) : Bool × Dev :=
  let x := d.lg g
  if x.st == .running || (x.st == .armed && x.startMode == 1 && x.startAt.isSome) then (true, d)
  else if x.st == .armed && x.startMode == 1 && x.stopT0.isNone then
    let late := e.glob && decide (x.lat < 48)
    let d := d.setLg g { x with
      evCyc := some e.arrive, late := x.late || late, lateCyc := if late then some d.cycle else x.lateCyc }
    (false, d.groupFix g (e.origin + tq (groupLatency x e)))
  else (false, d)

/-- An event at a group's switch consumer requests a switch of a RUNNING group to TB_LG_CTRL.CTX (R53). -/
def Dev.groupSwitchEvent (d : Dev) (g : Nat) (e : Event) : Dev :=
  let x := d.lg g
  if x.st != .running then d
  else
    let late := e.glob && decide (x.lat < 48)
    let d := if late then d.setLg g { x with late := true, lateCyc := some d.cycle } else d
    d.groupSwitch g (e.origin + tq (groupLatency x e) - tq x.lat) 1 x.ctx

end Sys2Proof.Machine
end

