-- ==== Sys2Proof/Machine/Armature.lean ====
section
/-! DEFINITION. The Armature (08): delivery of events to their consumers, the matrices, ownership of rows, columns and
lines, the loop check, and software producers. -/

namespace Sys2Proof.Machine

/-- The Armature control page of cluster `k`, and its fault source. -/
def armPage (k : Nat) : Page := .arm ⟨k % 16, Nat.mod_lt _ (by omega)⟩
abbrev armSrc (k : Nat) : Nat := 256 + 112 * k + 104
/-- The global Armature page. -/
abbrev glPage : Page := .dev 12

/-! ### Delivery in one fabric cycle (R214 to R216) -/

/-- The counts of column `c` of cluster `k` change. -/
def Dev.modCnt (d : Dev) (k c : Nat) (f : ColCnt → ColCnt) : Dev :=
  d.modCl k fun x => { x with cnt := tmod (fun _ => {}) x.cnt c f }

/-- ARM_CNT1.DISCARD, ARM_CNT0.EVENTS and ARM_CNT0.MERGE of a column. -/
def Dev.cntDiscard (d : Dev) (k c : Nat) : Dev := d.modCnt k c fun x => { x with discard := satAdd 0xFFFF x.discard 1 }
def Dev.cntEvent (d : Dev) (k c : Nat) : Dev := d.modCnt k c fun x => { x with events := (x.events + 1) % 0x10000 }
def Dev.cntMerge (d : Dev) (k c merged : Nat) : Dev :=
  if merged = 0 then d else d.modCnt k c fun x => { x with merge := satAdd 0xFFFF x.merge 1 }

/-- The estimator holds the start consumer of slot `s` beyond the end of the fabric cycle in which `e` reaches it: its
start is not fixed, or lies in a later one (R193, R215). -/
def Dev.slotLent (d : Dev) (k s : Nat) (e : Event) : Bool :=
  d.slotBorrowed k s && (match (d.fq k).gate with | none => true | some g => decide (e.arrive < cyc g.g0))

/-- Event slot `s` is busy: its measurement is not over, or a start event is held for E0 (R60, R185). -/
def Dev.slotBusy (d : Dev) (k s : Nat) : Bool :=
  d.get (TMU_SLOT_STAT.STATE k s) != 0 || d.dirum.heldSlots.any fun x => x.1 == k && x.2.1 == s

/-- A start event is dropped at a busy slot; it is kept to the end of its fabric cycle, in which the slot may still become
free (R185, R215). -/
def Dev.slotOverrun (d : Dev) (k s : Nat) (e : Event) : Dev :=
  let was := d.on (TMU_SLOT_STAT.OVERRUN k s)
  (d.stick (TMU_SLOT_STAT.OVERRUN k s)).modCl k fun c => { c with
    missed := (c.missed.filter fun x => x.2.2.arrive == d.ecyc) ++ [(s, was, e)] }

/-- An event reaches the start consumer of event slot `s` (R185, R193, R60). -/
def Dev.toSlotStart (d : Dev) (k s : Nat) (e : Event) : Dev :=
  let c := 256 + 2 * s
  if d.slotLent k s e then
    let (taken, d) := d.freqStartEvent k e
    if taken then d.cntEvent k c else d
  else if !d.on (TMU_SLOT_CFG.ENABLE k s) then d.cntDiscard k c
  else if d.slotBusy k s then d.slotOverrun k s e
  else
    let d := d.cntEvent k c
    if d.holdsStarts then { d with dirum := { d.dirum with heldSlots := d.dirum.heldSlots ++ [(k, s, e.hop, e.glob)] } }
    else d.slotAcceptStart k s e

/-- An event reaches the stop consumer of event slot `s` (R185, R193, R216). -/
def Dev.toSlotStop (d : Dev) (k s : Nat) (e : Event) : Dev :=
  let c := 257 + 2 * s
  if d.slotBorrowed k s || !d.on (TMU_SLOT_CFG.ENABLE k s) then d.cntDiscard k c
  else
    let (taken, d) := d.slotStop k s e
    if taken then d.cntEvent k c else d

/-- An event reaches sequencer input `i`: every lane of the cluster that waits on it (R122, R123, R216). -/
def Dev.toSequencer (d : Dev) (k i : Nat) (e : Event) : Dev :=
  let lanes := d.lanes.filterMap fun ((L, l) : Nat × Lane) =>
    if L / 64 = k && (match l.wait with | none => false | some w => w.input == i) then some L else none
  if lanes.isEmpty then d.cntDiscard k (320 + i)
  else lanes.foldl (fun d L => d.waitResolve L e) (d.cntEvent k (320 + i))

/-- The line that output `i` of cluster `k` drives. -/
def Dev.lineOf (d : Dev) (k i : Nat) : Option Nat :=
  (d.lines.find? fun ((_, x) : Nat × Line) => x.driver == some (k, i)).map Prod.fst

/-- The line that an event of output `i` enters in fabric cycle `at_`. -/
def Dev.lineAt (d : Dev) (k i at_ : Nat) : Option Nat :=
  match d.lineOf k i with
  | some L => some L
  | none => ((d.fading at_).find? fun f => f.key == 0x300000 + 32 * k + i
      && (d.colOwn k (352 + i)).owner.isSome
      && (d.colOwn k (352 + i)).owner == (d.line (f.old.toNat % 64)).own.owner).map fun f => f.old.toNat % 64

/-- An event reaches global output `i`: onto the line that is bound to it (R216, R218). -/
def Dev.toOutput (d : Dev) (k i : Nat) (e : Event) : Dev :=
  match d.lineAt k i e.arrive with
  | none => d.cntDiscard k (352 + i)
  | some L => (d.cntEvent k (352 + i)).onLine k L e

/-- An event is delivered to its column; `merged` is how many others it stands for (R207, R215, R216). -/
def Dev.deliver (d : Dev) (k merged : Nat) (e : Event) : Dev :=
  let c := e.col
  if c < 256 then d.slotEvent (64 * k + c / 4) (c % 4) e merged
  else
    let d := d.cntMerge k c merged
    if c < 320 then
      if c % 2 = 0 then d.toSlotStart k ((c - 256) / 2) e else d.toSlotStop k ((c - 256) / 2) e
    else if c < 352 then d.toSequencer k (c - 320) e
    else d.toOutput k (c - 352) e

/-- The event of one column in one fabric cycle: the earliest origin, GLOBAL when one of that origin is, the largest hop
count (R215). -/
def mergeEvents (e : Event) (l : List Event) : Event :=
  let o := l.foldl (fun o x => min o x.origin) e.origin
  { e with origin := o, glob := (e :: l).any fun x => x.glob && x.origin == o,
           hop := l.foldl (fun h x => max h x.hop) e.hop }

/-- Events gathered by column and cycle, in the order of the cycle and then of the column: each with how many others it
stands for. -/
def gatherEvents (l : List Event) : List (Event × Nat) :=
  let sorted := ordSort (fun a b => decide (a.arrive < b.arrive) || (a.arrive == b.arrive && decide (a.col ≤ b.col))) l
  (sorted.foldr (fun e (acc : List (List Event)) => match acc with
    | (x :: xs) :: rest => if x.col = e.col && x.arrive = e.arrive then (e :: x :: xs) :: rest else [e] :: (x :: xs) :: rest
    | _ => [e] :: acc) []).filterMap fun g => match g with
      | [] => none
      | e :: rest => some (mergeEvents e rest, rest.length)

/-- The parity check of a matrix word fails: the word counts as zero from now on, and the column's owner, where it has one,
and the device fault ring learn of it (R230, R427). -/
def Dev.parityFail (d : Dev) (k c w : Nat) : Dev :=
  if (d.cl k).badWords.contains (8 * c + w) then d
  else
    let d := d.modCl k fun x => { x with badWords := x.badWords ++ [8 * c + w] }
    let owner := (d.colOwn k c).owner
    let d := match owner with
      | none => d
      | some o => ((d.stick (ARM_HEALTH.PARITY o k)).set (ARM_HEALTH.PARITY_COL o k) c).irqAt (armPage k) o 0
    d.raise (armSrc k) 0x38 3 (c + 512 * w) (optL owner)

/-- The events of a cluster whose cycle has come pass the matrix: to every column whose bit is set; a trigger slot lies
one cycle further, across the crossing into the cluster tree (R213, R214). -/
def Dev.passMatrix (d : Dev) (k : Nat) : Dev :=
  let now := d.ecyc
  let due := (d.cl k).stage.filter fun x => decide (x.at_ ≤ now)
  let evs := due.flatMap fun x => (d.colsOf k x.src x.at_).map fun c =>
    ({ col := c, origin := x.origin, glob := x.glob, hop := x.hop, arrive := x.at_ + (if c < 256 then 1 else 0) } : Event)
  d.modCl k fun c => { c with stage := c.stage.filter fun x => !decide (x.at_ ≤ now), events := c.events ++ evs }

/-- One fabric cycle of a cluster Armature, with the matrix words whose parity check fails in it; a gated cluster loses its
events without a count (R215, R230, R231). -/
def Dev.deliverCluster (d : Dev) (k : Nat) (bad : List (Fin 384 × Fin 8)) : Dev :=
  if !d.powered k then d.modCl k fun c => { c with stage := [], events := [] }
  else
    let d := bad.foldl (fun d x => d.parityFail k x.1 x.2) d
    let d := d.passMatrix k
    let now := d.ecyc
    let due := (d.cl k).events.filter fun e => decide (e.arrive ≤ now)
    let d := d.modCl k fun c => { c with events := c.events.filter fun e => !decide (e.arrive ≤ now) }
    (gatherEvents due).foldl (fun d x => d.deliver k x.2 x.1) d

/-- GM_COL_STAT.EVENTS of a global column goes up. -/
def Dev.gcolEvent (d : Dev) (c : Nat) : Dev := d.wrapUp (GM_COL_STAT.EVENTS c)

/-- An event reaches a lock group's start or switch consumer (R52, R53, R216). -/
def Dev.deliverGroup (d : Dev) (merged : Nat) (e : Event) : Dev :=
  let c := e.col
  let d := if merged = 0 then d else d.bump (GM_COL_STAT.MERGE c)
  if c < 64 then
    let armed := (d.lg c).st == .armed && (d.lg c).startMode == 1 && (d.lg c).stopT0.isNone
    let (busy, d) := d.groupStartEvent c e
    if busy then d.stick (GM_COL_STAT.OVERRUN c) else if armed then d.gcolEvent c else d
  else if (d.lg (c - 64)).st == .running then (d.gcolEvent c).groupSwitchEvent (c - 64) e
  else d

/-- One fabric cycle of the global Armature: events on lines reach the lock groups' consumers and the clusters' inputs
(R210, R213, R215). -/
def Dev.deliverGlobal (d : Dev) : Dev :=
  let now := d.ecyc
  let due := d.gStage.filter fun x => decide (x.at_ ≤ now)
  let evs := due.flatMap fun x => (d.gcolsOf x.src x.at_).map fun c =>
    ({ col := c, origin := x.origin, glob := true, hop := x.hop, arrive := x.at_ } : Event)
  let d := { d with gStage := d.gStage.filter fun x => !decide (x.at_ ≤ now) }
  let d := due.foldl (fun d x => d.fromLine x) d
  (gatherEvents evs).foldl (fun d x => d.deliverGroup x.2 x.1) d

/-- EVENT_DELIVERY: a cluster's columns, with the words of its matrix that fail parity, or those of the global Armature (R215,
R230). -/
def execEventDelivery (at_ : Option Clu) (s : State) (bad : List (Fin 384 × Fin 8) := []) : Result :=
  s.on fun d => match at_ with
    | some k => d.deliverCluster k bad
    | none => d.deliverGlobal

/-! ### Software producers (R217) -/

/-- ARM_FIRE raises the producers whose rows the writer owns, with one origin: the start of the fabric cycle (R213,
R217). -/
def Dev.armFireDo (d : Dev) (ss k : Nat) (val : Word) : Dev :=
  (List.range 16).foldl (fun d i =>
    if !wbit val i then d
    else if d.isOwn ss (d.rowOwn k (224 + i)).owner then d.emit k (224 + i) (tq (4 * d.ecyc)) 0
    else d) d

/-- The first producer of the write that the session does not own. -/
def Dev.armFireBad (d : Dev) (ss k : Nat) (val : Word) : Option Nat :=
  (List.range 16).find? fun i => wbit val i && !d.isOwn ss (d.rowOwn k (224 + i)).owner

/-- ARM_STAT shows the result of a session's write or command; a refusal shows its row or column and, for PERM, LOOP and
FORWARD, its sticky bit. -/
def Dev.armErr (d : Dev) (ss k code index : Nat) (column : Bool) : Dev :=
  let d := d.set (ARM_STAT.ERR ss k) code
  if code = 0 then d
  else
    let d := (d.set (ARM_STAT.INDEX ss k) index).set (ARM_STAT.COLUMN ss k) (b2n column)
    ((d.stickIf (code == 1) (ARM_STAT.PERM ss k)).stickIf (code == 3) (ARM_STAT.LOOP ss k)).stickIf (code == 4)
      (ARM_STAT.FORWARD ss k)

/-- ARM_FIRE (R217). -/
def Dev.armFire (d : Dev) (ss k : Nat) (val : Word) : Dev :=
  d.hostWrite ss (armPage k) 0x100 [val] .any true fun d =>
    let bad := d.armFireBad ss k val
    let d := d.armFireDo ss k val
    match bad with
    | none => d.armErr ss k 0 0 false
    | some i => d.armErr ss k 1 (224 + i) false

/-- ARM_FIRE (R217), held between an epoch's decision and E0 (R60). -/
def execArmFire (ss : Sess) (k : Clu) (val : Word) (s : State) : Result :=
  s.on fun d => if d.holdsStarts then d.holdStart (.armFire ss k val) else d.armFire ss k val

/-! ### The loop check (R224 to R226) -/

/-- A node of the graph: row r of cluster k is 1024 k + r, column c is 1024 k + 256 + c. -/
abbrev rowNode (k r : Nat) : Nat := 1024 * k + r
abbrev colNode (k c : Nat) : Nat := 1024 * k + 256 + c

/-- The trigger slot breaks a loop (R224). -/
def Dev.trigBreaks (d : Dev) (L n : Nat) : Bool :=
  d.on (LANE_TRIG_CFG.ONESHOT L n)
    || (decide (tq 64 ≤ d.get (LANE_TRIG_DELAY.DELAY L n) % 2 ^ 52) && decide (1 ≤ d.get (LANE_TRIG_REFRACT.REFRACT L n)))

/-- The trigger slot raises the lane's strobe event (R224). -/
def Dev.trigStrobes (d : Dev) (L n : Nat) : Bool := decide (16 ≤ d.get (LANE_TRIG_CFG.EG_MASK L n))

/-- The bound columns of row `r`, whatever the parity of their words. -/
def Dev.colsSet (d : Dev) (k r : Nat) : List Nat :=
  (d.cl k).mx.filterMap fun ((key, w) : Nat × Word) =>
    if key % 8 = r / 32 && w.getLsbD (r % 32) then some (key / 8) else none

/-- What a node leads to; nothing from a column that breaks a loop (R224). -/
def Dev.armNext (d : Dev) (node : Nat) : List Nat :=
  let k := node / 1024
  let i := node % 1024
  if i < 256 then (d.colsSet k i).map fun c => colNode k c
  else
    let c := i - 256
    let L := 64 * k + c / 4
    if c < 256 then
      if d.trigStrobes L (c % 4) && !d.trigBreaks L (c % 4) then [rowNode k (2 * (c / 4) + 1)] else []
    else if 352 ≤ c then
      match d.lineOf k (c - 352) with
      | none => []
      | some l => (d.ginsOf l).map fun (k', j) => rowNode k' (192 + j)
    else []

/-- Whether `x` can be reached, from the nodes still to do. -/
def Dev.reaches (d : Dev) (x : Nat) : Nat → List Nat → List Nat → Bool
  | 0, _, _ => false
  | _ + 1, _, [] => false
  | fuel + 1, seen, n :: todo =>
    let next := d.armNext n
    next.contains x
      || (let fresh := next.filter fun m => !seen.contains m
          d.reaches x fuel (fresh ++ seen) (fresh ++ todo))

/-- One of the new arcs lies on a loop that nothing breaks (R225). -/
def Dev.loops (d : Dev) (arcs : List (Nat × Nat)) : Bool :=
  arcs.any fun (x, y) => d.reaches x 10241 [y] [y]

/-- Bits of a word, as row numbers of word `w`. -/
def bitsOf (w : Nat) (v : Word) : List Nat := ((List.range 32).filter fun b => v.getLsbD b).map fun b => 32 * w + b

/-- A matrix word stored; a write clears its parity condition (R230). -/
def Dev.mxStore (d : Dev) (k c w : Nat) (val : Word) : Dev :=
  d.modCl k fun x => { x with
    mx := tput (fun _ => 0) x.mx (8 * c + w) val, badWords := x.badWords.filter fun i => i != 8 * c + w }

/-- The word as stored. -/
def Dev.mxRaw (d : Dev) (k c w : Nat) : Word := tget (fun _ => 0) (d.cl k).mx (8 * c + w)

/-- What a matrix write is refused for, with the index it shows: PERM, FORWARD or ROW (R219, R222). -/
def Dev.mxErr (d : Dev) (ss k c w : Nat) (val : Word) : Option (Nat × Nat × Bool) :=
  let old := d.mxRaw k c w
  if !d.isOwn ss (d.colOwn k c).owner then some (1, c, true)
  else
    let new := bitsOf w (val &&& ~~~ old)
    if 352 ≤ c && new.any fun r => decide (192 ≤ r) && decide (r < 224) then some (4, c, true)
    else match new.find? fun r => !readable (d.rowOwn k r) (d.colOwn k c) with
      | none => none
      | some r => some (2, r, false)

/-- The arcs that a matrix write adds. -/
def Dev.mxArcs (d : Dev) (k c w : Nat) (val : Word) : List (Nat × Nat) :=
  (bitsOf w (val &&& ~~~ d.mxRaw k c w)).map fun r => (rowNode k r, colNode k c)

/-- ARM_STAT.PENDING and GL_ERR.PENDING of a session follow its pending checks. -/
def Dev.showPending (d : Dev) (ss : Nat) : Dev :=
  let on := b2n (d.loopQ.any fun r => r.sess == ss)
  (List.range 16).foldl (fun d k => d.set (ARM_STAT.PENDING ss k) on) (d.set (GL_ERR.PENDING ss) on)

/-- A change waits for its check, in order of arrival (R226). -/
def Dev.askLoop (d : Dev) (r : LoopReq) : Dev := ({ d with loopQ := d.loopQ ++ [r] }).showPending r.sess

/-- The gate of a write to cluster `k`'s matrix window: it waits behind a loop check of its function, and a gated
cluster's is discarded (R22, R222, R226). -/
def Dev.mxGate (d : Dev) (ss k off : Nat) (val : Word) (f : Dev → Dev) : Dev :=
  if !d.acts ss then d
  else if d.waits ss then d.stall ss (clu k + 0x2000 + off) [val]
  else if !d.powered k then d.raise (armSrc k) 0x01 0 (clu k + 0x2000 + off) [ss]
  else f d

/-- MATRIX_WRITE: a write that sets a bit waits for the loop check, any other takes effect (R219, R222, R225, R226). -/
def Dev.matrixWrite (d : Dev) (ss k c w : Nat) (val : Word) : Dev :=
  d.mxGate ss k (32 * c + 4 * w) val fun d =>
    let old := d.mxRaw k c w
    if val = old then
      (if d.isOwn ss (d.colOwn k c).owner then d.mxStore k c w val else d).armErr ss k 0 0 false
    else match d.mxErr ss k c w val with
      | some (code, i, col) => d.armErr ss k code i col
      | none =>
        if val &&& ~~~ old = 0 then ((d.fadeOut (4096 * k + 8 * c + w) old).mxStore k c w val).armErr ss k 0 0 false
        else d.askLoop (.matrix ss k c w val)

/-- MATRIX_WRITE (R222). -/
def execMatrixWrite (ss : Sess) (k : Clu) (col : Fin 384) (w : Fin 8) (val : Word) (s : State) : Result :=
  s.on fun d => d.matrixWrite ss k col w val

/-- GL_ERR shows the result of a session's last command. -/
def Dev.glErr (d : Dev) (ss code : Nat) : Dev := d.set (GL_ERR.ERR ss) code

/-- GLOBAL_MATRIX_WRITE by the owner of the group of column `c`: held lines cannot be selected, others must be readable;
lock-group consumers cause no rows, so no loop can close (R220, R222, R224). -/
def Dev.globalMatrixWrite (d : Dev) (ss c w : Nat) (val : Word) : Dev :=
  d.hostWrite ss glPage (0x400 + 8 * c + 4 * w) [val] .any false fun d =>
    let old := tget (fun _ => 0) d.gmx (2 * c + w)
    let new := bitsOf w (val &&& ~~~ old)
    if val = old then d.glErr ss 0
    else if !d.isOwn ss (d.gcolOwn c).owner then d.glErr ss 1
    else if new.any fun L => (d.line L).lg.isSome then d.glErr ss 9
    else if new.any fun L => !readable (d.line L).own (d.gcolOwn c) then d.glErr ss 2
    else
      let d := d.fadeOut (0x100000 + 2 * c + w) (old &&& ~~~ val)
      ({ d with gmx := tput (fun _ => 0) d.gmx (2 * c + w) val } : Dev).glErr ss 0

/-- GLOBAL_MATRIX_WRITE (R222). -/
def execGlobalMatrixWrite (ss : Sess) (col : Fin 128) (w : Fin 2) (val : Word) (s : State) : Result :=
  s.on fun d => d.globalMatrixWrite ss col w val

/-! ### Rows and columns: ownership (R221, R223) -/

/-- Ownership of a claimable row or column is stored. -/
def Dev.setOwn (d : Dev) (k i : Nat) (column : Bool) (o : Own) : Dev :=
  d.modCl k fun x =>
    if column then { x with cols := tput (fun _ => {}) x.cols i o } else { x with rows := tput (fun _ => {}) x.rows i o }

/-- What a change of the owner of a row or column takes away (R223). -/
def Dev.ownChanged (d : Dev) (k i : Nat) (column : Bool) : Dev := (if column then d.clearCol k i else d).revoke k

/-- One command on the selected row or column: 0 CLAIM, 1 RELEASE, 2 SHARE_SET, 3 SHARE_CLR; answers its ERR (R221,
R223). -/
def Dev.ownCmd (d : Dev) (ss k cmd : Nat) : Nat × Dev :=
  let i := d.get (ARM_OWN_SEL.INDEX ss k)
  let column := d.on (ARM_OWN_SEL.COLUMN ss k)
  let own := if column then d.colOwn k i else d.rowOwn k i
  let lane := if column then decide (i < 256) else decide (i < 128)
  if (if column then decide (384 ≤ i) else decide (243 ≤ i)) then (7, d)
  else if cmd ≤ 1 && lane then (6, d)
  else if cmd = 0 then
    if own.owner.isSome then (5, d)
    else (0, (d.setOwn k i column { owner := some ss, attr := d.attrHeld ss }).ownChanged k i column)
  else if !d.isOwn ss own.owner || (2 ≤ cmd && column) then (1, d)
  else if cmd = 1 then (0, (d.setOwn k i column {}).ownChanged k i column)
  else
    let old := tget (fun _ => ({} : Own)) (d.cl k).rows i
    let d := d.setOwn k i false { old with share := cmd == 2 }
    (0, if cmd = 2 then d else d.revoke k)

/-- A write of ARM_OWN_CTRL: its commands in ascending order of their bits, up to the first that fails. -/
def Dev.armOwnCtrl (d : Dev) (ss k : Nat) (val : Word) : Dev :=
  d.hostWrite ss (armPage k) 0x10C [val] .any (wfield val 0 4 != 0) fun d =>
    let (code, d) := [0, 1, 2, 3].foldl (fun (acc : Nat × Dev) cmd =>
      if acc.1 = 0 && wbit val cmd then acc.2.ownCmd ss k cmd else acc) (0, d)
    d.armErr ss k code (d.get (ARM_OWN_SEL.INDEX ss k)) (d.on (ARM_OWN_SEL.COLUMN ss k))

/-- ARM_CLAIM (R221). -/
def execArmClaim (ss : Sess) (k : Clu) (s : State) : Result := s.on fun d => d.armOwnCtrl ss k 1
/-- ARM_RELEASE (R223). -/
def execArmRelease (ss : Sess) (k : Clu) (s : State) : Result := s.on fun d => d.armOwnCtrl ss k 2
/-- ARM_SHARE_SET (R221). -/
def execArmShareSet (ss : Sess) (k : Clu) (s : State) : Result := s.on fun d => d.armOwnCtrl ss k 4
/-- ARM_SHARE_CLR (R223). -/
def execArmShareClr (ss : Sess) (k : Clu) (s : State) : Result := s.on fun d => d.armOwnCtrl ss k 8

/-- A lane passes to another holder or to none: SHARE of its rows clears, its columns are cleared, and bits that are no
longer readable go (R221, R223). -/
def Dev.laneHandover (d : Dev) (L : Nat) : Dev :=
  let k := L / 64
  let j := L % 64
  let d := (d.setOwn k (2 * j) false {}).setOwn k (2 * j + 1) false {}
  ([0, 1, 2, 3].foldl (fun d n => d.clearCol k (4 * j + n)) d).revoke k

/-! ### Global inputs and lines (R218, R220, R221) -/

/-- What a write of ARM_GIN is refused for: PERM, LG_LINE or ROW (R218, R220). -/
def Dev.ginErr (d : Dev) (ss k i : Nat) (val : Word) : Nat :=
  let L := wfield val 0 6
  if !d.isOwn ss (d.rowOwn k (192 + i)).owner then 1
  else if !wbit val 6 then 0
  else if (d.line L).lg.isSome then 9
  else if !readable (d.line L).own (d.rowOwn k (192 + i)) then 2
  else 0

/-- ARM_GIN[i] is stored. -/
def Dev.ginStore (d : Dev) (k i : Nat) (val : Word) : Dev := d.setReg (ARM_GIN k i) (val &&& 0x7F)

/-- GIN_BIND_WRITE: a binding waits for the loop check (R218, R225). -/
def Dev.ginWrite (d : Dev) (ss k i : Nat) (val : Word) : Dev :=
  d.hostWrite ss (armPage k) (0x180 + 4 * i) [val] .any false fun d =>
    let code := d.ginErr ss k i val
    if code ≠ 0 then d.armErr ss k code (192 + i) false
    else if wbit val 6 && (val &&& 0x7F) != d.reg (ARM_GIN k i) then d.askLoop (.gin ss k i val)
    else ((d.fadeOut (0x200000 + 32 * k + i) (d.reg (ARM_GIN k i))).ginStore k i val).armErr ss k 0 0 false

/-- GIN_BIND_WRITE (R218). -/
def execGinBindWrite (ss : Sess) (k : Clu) (i : Fin 32) (val : Word) (s : State) : Result :=
  s.on fun d => d.ginWrite ss k i val

/-- The arcs that a global input adds: from the output that drives its line. -/
def Dev.ginArcs (d : Dev) (k i : Nat) (val : Word) : List (Nat × Nat) :=
  match (d.line (wfield val 0 6)).driver with
  | none => []
  | some (k', o) => [(colNode k' (352 + o), rowNode k (192 + i))]

/-- What GL_CTRL.BIND is refused for: PERM or DRV_BUSY (R218). -/
def Dev.bindErr (d : Dev) (ss L k o : Nat) : Nat :=
  if !d.isOwn ss (d.line L).own.owner || !d.isOwn ss (d.colOwn k (352 + o)).owner then 1
  else if (d.lineOf k o).isSome || (d.line L).driver.isSome then 8
  else 0

/-- One command on the selected line: 0 CLAIM, 1 RELEASE, 2 SHARE_SET, 3 SHARE_CLR, 4 BIND, 5 UNBIND; answers its ERR,
none while a binding waits for its loop check (R218 to R223). -/
def Dev.glCmd (d : Dev) (ss cmd : Nat) : Option Nat × Dev :=
  let L := d.get (GL_SEL.LINE ss)
  let x := d.line L
  if x.lg.isSome then (some 9, d)
  else if cmd = 0 then
    if x.own.owner.isSome then (some 5, d)
    else
      let d := (d.setLine L { x with own := { owner := some ss, attr := d.attrHeld ss } }).resetLine L
      (some 0, d.set GL_FREE.FREE (d.get GL_FREE.FREE - 1))
  else if !d.isOwn ss x.own.owner then (some 1, d)
  else if cmd = 1 then
    let d := (d.setLine L { x with own := {} }).resetLine L
    (some 0, d.set GL_FREE.FREE (d.get GL_FREE.FREE + 1))
  else if cmd ≤ 3 then
    let d := d.setLine L { x with own := { x.own with share := cmd == 2 } }
    (some 0, if cmd = 2 then d else d.revokeAll)
  else if cmd = 4 then
    let k := d.get (GL_DRV.CLUSTER ss)
    let o := d.get (GL_DRV.OUT ss)
    let code := d.bindErr ss L k o
    if code ≠ 0 then (some code, d) else (none, d.askLoop (.bind ss L k o))
  else
    let d := match x.driver with
      | none => d
      | some (k, o) => d.fadeOut (0x300000 + 32 * k + o) (BitVec.ofNat 32 (64 + L))
    (some 0, d.setLine L { x with driver := none })

/-- A write of GL_CTRL: its commands in ascending order of their bits, up to the first that fails or waits. -/
def Dev.glCtrl (d : Dev) (ss : Nat) (val : Word) : Dev :=
  d.hostWrite ss glPage 0x104 [val] .any (wfield val 0 6 != 0) fun d =>
    let (code, d) := [0, 1, 2, 3, 4, 5].foldl (fun (acc : Option Nat × Dev) cmd =>
      if acc.1 = some 0 && wbit val cmd then acc.2.glCmd ss cmd else acc) (some 0, d)
    match code with
    | none => d
    | some e => d.glErr ss e

/-- GL_CLAIM (R221). -/
def execGlClaim (ss : Sess) (s : State) : Result := s.on fun d => d.glCtrl ss 1
/-- GL_RELEASE (R223). -/
def execGlRelease (ss : Sess) (s : State) : Result := s.on fun d => d.glCtrl ss 2
/-- GL_SHARE_SET (R221). -/
def execGlShareSet (ss : Sess) (s : State) : Result := s.on fun d => d.glCtrl ss 4
/-- GL_SHARE_CLR (R223). -/
def execGlShareClr (ss : Sess) (s : State) : Result := s.on fun d => d.glCtrl ss 8
/-- GL_BIND (R218). -/
def execGlBind (ss : Sess) (s : State) : Result := s.on fun d => d.glCtrl ss 16
/-- GL_UNBIND (R218). -/
def execGlUnbind (ss : Sess) (s : State) : Result := s.on fun d => d.glCtrl ss 32

/-! ### Trigger slots under the loop check (R225) -/

/-- Offset of a trigger slot's register in its channel page. -/
def trigOff (n : Nat) (reg : TrigReg) : Nat :=
  0x140 + 0x20 * n + (match reg with | .cfg => 0 | .delay => 4 | .refract => 0x10)

/-- The words of a write of it: LANE_TRIG_DELAY has two. -/
def trigWords (reg : TrigReg) (val : DWord) : List Word :=
  match reg with
  | .delay => [val.setWidth 32, (val >>> 32).setWidth 32]
  | _ => [val.setWidth 32]

/-- The write is one that R225 checks. -/
def Dev.trigChecked (d : Dev) (L n : Nat) (reg : TrigReg) (val : DWord) : Bool :=
  match reg with
  | .cfg =>
    let old := d.get (LANE_TRIG_CFG.EG_MASK L n) / 16
    let new := val.toNat / 256 % 4
    (new &&& (3 ^^^ old)) != 0 || (d.on (LANE_TRIG_CFG.ONESHOT L n) && !val.getLsbD 1)
  | .delay => decide (val.toNat % 2 ^ 52 < tq 64)
  | .refract => val.toNat % 2 ^ 24 == 0

/-- The register is stored. -/
def Dev.trigStore (d : Dev) (ss L n : Nat) (reg : TrigReg) (val : DWord) : Dev :=
  let pg := lanePage L
  let off := trigOff n reg
  let d := d.plainWrite ss pg off (val.setWidth 32)
  match reg with
  | .delay => d.plainWrite ss pg (off + 4) ((val >>> 32).setWidth 32)
  | _ => d

/-- The arc of a trigger slot. -/
def Dev.trigArcs (d : Dev) (L n : Nat) : List (Nat × Nat) :=
  if d.trigStrobes L n && !d.trigBreaks L n then
    [(colNode (L / 64) (4 * (L % 64) + n), rowNode (L / 64) (2 * (L % 64) + 1))]
  else []

/-- TRIGGER_SLOT_CONFIG_WRITE: a write that could close a loop waits for its check (R225, R226). -/
def Dev.trigWrite (d : Dev) (ss L n : Nat) (reg : TrigReg) (val : DWord) : Dev :=
  d.hostWrite ss (lanePage L) (trigOff n reg) (trigWords reg val) .owner false fun d =>
    if d.trigChecked L n reg val then d.askLoop (.trig ss L n reg val) else d.trigStore ss L n reg val

/-- TRIGGER_SLOT_CONFIG_WRITE (R225). -/
def execTriggerSlotConfigWrite (ss : Sess) (L : Lch) (n : Fin 4) (reg : TrigReg) (val : DWord) (s : State) : Result :=
  s.on fun d => d.trigWrite ss L n reg val

/-! ### A check completes (R226) -/

/-- The change is refused with LOOP: flag, index and a NOTE to the writer (R225). -/
def Dev.loopRefuse (d : Dev) (ss k i : Nat) (column : Bool) : Dev :=
  (d.armErr ss k 3 i column).raise (armSrc k) 0x3A 0 (i + 512 * b2n column) [ss]

/-- A checked change takes effect, or is refused: with LOOP, or under the ownership as it now stands (R223, R225). -/
def Dev.loopApply (d : Dev) : LoopReq → Dev
  | .matrix ss k c w val =>
    match d.mxErr ss k c w val with
    | some (code, i, col) => d.armErr ss k code i col
    | none =>
      let d' := d.mxStore k c w val
      if d'.loops (d.mxArcs k c w val) then d.loopRefuse ss k c true else d'.armErr ss k 0 0 false
  | .bind ss L k o =>
    let code := d.bindErr ss L k o
    if code ≠ 0 then d.glErr ss code
    else
      let d' := d.modLine L fun x => { x with driver := some (k, o) }
      if d'.loops ((d'.ginsOf L).map fun (k', i) => (colNode k (352 + o), rowNode k' (192 + i))) then
        (d.glErr ss 3).raise 12 0x3A 0 (352 + o + 512) [ss]
      else d'.glErr ss 0
  | .gin ss k i val =>
    let code := d.ginErr ss k i val
    if code ≠ 0 then d.armErr ss k code (192 + i) false
    else
      let d' := d.ginStore k i val
      if d'.loops (d.ginArcs k i val) then d.loopRefuse ss k (192 + i) false else d'.armErr ss k 0 0 false
  | .trig ss L n reg val =>
    if (d.lane L).holder != some ss then d.discard ss (lanePage L) (trigOff n reg)
    else
      let d' := d.trigStore ss L n reg val
      if d'.loops (d'.trigArcs L n) then d.loopRefuse ss (L / 64) (4 * (L % 64) + n) true
      else d'

/-- LOOP_CHECK_DONE: the oldest check completes (R226). -/
def Dev.loopDone (d : Dev) : Dev :=
  match d.loopQ with
  | [] => d
  | r :: rest => (({ d with loopQ := rest }).loopApply r).showPending r.sess

/-! ### A session gives everything up (R358) -/

/-- The session's checks are withdrawn, with the accesses that waited behind them (R358). -/
def Dev.loopWithdraw (d : Dev) (ss : Nat) : Dev :=
  ({ d with loopQ := d.loopQ.filter fun r => r.sess != ss, stalled := d.stalled.filter fun x => x.ss != ss }).showPending ss

/-- The session's rows, columns and lines are released (R358, R223). -/
def Dev.armRelease (d : Dev) (ss : Nat) : Dev :=
  let mine := fun (t : Tbl Own) => (t.filter fun ((_, o) : Nat × Own) => o.owner == some ss).map Prod.fst
  let d := (List.range 16).foldl (fun d k =>
    let d := (mine (d.cl k).cols).foldl (fun d c => (d.setOwn k c true {}).clearCol k c) d
    (mine (d.cl k).rows).foldl (fun d r => d.setOwn k r false {}) d) d
  let d := ((d.lines.filter fun ((_, x) : Nat × Line) => x.own.owner == some ss).map Prod.fst).foldl (fun d L =>
    ((d.modLine L fun x => { x with own := {} }).resetLine L).set GL_FREE.FREE (d.get GL_FREE.FREE + 1)) d
  d.revokeAll

end Sys2Proof.Machine
end

