-- ==== Sys2Proof/Machine/TimeBase.lean ====
section
/-! DEFINITION. The time base (R31 to R47): its source states, REFIN, ageing adjustment, the Patina log and model,
the cluster tree rotators, and the passing of time. -/

namespace Sys2Proof.Machine

/-! ### The count of T0 (R44, R45) -/

/-- `n` T0 pass. -/
def Dev.passT0 (d : Dev) (n : Nat) : Dev := { d with epoch := d.epoch + n, up := d.up + n }

/-- EPOCH_COARSE goes on by one unit of what drives it: a T0 of a locked master PLL, else, on the always-on island, a
REFIN edge where REFIN was followed and stays present, or an oscillator cycle with the fraction of the last word
(R44, R45, R395). -/
def Dev.tick (d : Dev) : Dev :=
  if !d.boot.aonOut then d
  else if d.on TB_STAT.PLL_LOCK then d.passT0 1
  else if d.pln.followRef != 0 then d.passT0 d.pln.followRef
  else
    let f := d.pln.deepFrac + 64 * d.tb.word
    ({ d with pln := { d.pln with deepFrac := f % 0x10000000000 } } : Dev).passT0 (64 + f / 0x10000000000).toNat

/-- The word that the outer loop has set: in ACQUIRING, LOCKED and SLEWING it steers the master clock by a word that the
spec does not state, a free value of 32 bits about 64 (R31). DESIGN CHOICE, log entry 69. -/
def Dev.outerLoop (d : Dev) : Dev :=
  let st := d.get TB_STAT.SRC_STATE
  if st = 2 || st = 3 || st = 5 then
    let (x, d) := d.draw
    { d with tb := { d.tb with word := (x.setWidth 32).toInt } }
  else d

/-- The master PLL stops: the word in force stands, and a time base that was LOCKED on REFIN is followed on its edges
(R45, R395). -/
def Dev.pllStops (d : Dev) : Dev :=
  let n := [320, 64, 32].getD (d.get TB_REF_SEL.FREQ) 320
  let d := d.outerLoop
  { d with pln := { d.pln with
      deepFrac := 0, followRef := if d.get TB_STAT.SRC_STATE = 3 && d.on TB_STAT.REFIN_PRESENT then n else 0 } }

/-! ### Source states (R31 to R35) -/

/-- Sessions of the time base page's owner (13, To column, O). -/
def Dev.tbOwner (d : Dev) : List Nat := optL (d.owner tbPage)

/-- The heartbeat block is discarded and VALID clears (R62). -/
def Dev.hbRestart (d : Dev) : Dev :=
  let d := { d with dirum := { d.dirum with hbN := 0, hbSum := 0, hbLo := 0, hbHi := 0 } }
  (d.set DIRUM_HB_PHASE.VALID 0).set DIRUM_HB_PHASE.N 0

/-- TB_STAT.SRC_STATE takes a value; a change restarts the heartbeat block (R62). -/
def Dev.srcState (d : Dev) (st : Nat) : Dev :=
  if d.get TB_STAT.SRC_STATE = st then d
  else
    let d := (d.set TB_STAT.SRC_STATE st).hbRestart.freqNote
    if st = 2 then d.passesOff else d

/-- The period of REFIN in T0: 10, 50 or 100 MHz. -/
def Dev.refPeriod (d : Dev) : Nat := [320, 64, 32].getD (d.get TB_REF_SEL.FREQ) 320

/-- The phase budget of the holdover has reached half a REFIN period (R35). -/
def Dev.budgetSpent (d : Dev) : Bool :=
  decide (d.refPeriod * 4096 * 1000000000 ≤ (d.up - d.tb.lossT0) * 4096)

/-- The phase error modulo one REFIN period, the smaller of its two values, in tq (R34). -/
def Dev.phaseError (d : Dev) (phase : Int) : Int :=
  let p : Int := 4096 * d.refPeriod
  (phase + p / 2) % p - p / 2

/-- The error of a slew that is left now, in 10^-9 tq: TB_SLEW_LIMIT removes at most its ppb of each T0 (R34, R36). -/
def Dev.slewLeft (d : Dev) : Nat := d.tb.slewLeft - (d.up - d.tb.slewT0) * 4096 * d.get TB_SLEW_LIMIT.PPB

/-- The error left is counted up to now, before the limit changes (R36). -/
def Dev.slewSettle (d : Dev) : Dev := { d with tb := { d.tb with slewLeft := d.slewLeft, slewT0 := d.up } }

/-- A revert from HOLDOVER: within the budget the phase error is slewed out, beyond it the phase is lost and the loop
acquires again (R34, R35). -/
def Dev.revert (d : Dev) (phase : Int) : Dev :=
  let e := d.phaseError phase
  let d := { d with tb := { d.tb with revertReq := false, slewLeft := e.natAbs * 1000000000, slewT0 := d.up } }
  let d := d.setInt TB_REF_PHASE_ERR.ERR e
  if d.budgetSpent then
    ((d.stick TB_STAT.REF_PHASE_LOST).raise 1 0x12 2 0 d.tbOwner).srcState 2
  else d.srcState 5

/-- REFIN is qualified: acquisition from REFIN_WAIT, or a revert that REF_REVERT or a remembered request asks for
(R32, R34). -/
def Dev.qualify (d : Dev) (phase : Int) : Dev :=
  let d := d.set TB_STAT.REFIN_PRESENT 1
  if d.get TB_STAT.SRC_STATE = 1 then d.srcState 2
  else if d.get TB_STAT.SRC_STATE = 4 && (d.on TB_CTRL.REF_REVERT || d.tb.revertReq) then d.revert phase
  else d

/-- REFIN has been present long enough and is not yet qualified (R32). -/
def Dev.qualifies (d : Dev) (ref : RefIn) : Bool :=
  decide (d.get TB_REF_QUAL.MS ≤ ref.presentMs) && !d.on TB_STAT.REFIN_PRESENT

/-- A write of TB_REF_SEL as a selection (R32, R34): `src` and `freq` as they were before. The time base acts on it
only while the master PLL is locked (R403). -/
def Dev.refSelect (d : Dev) (src freq : Nat) (ref : RefIn) : Dev :=
  let st := d.get TB_STAT.SRC_STATE
  let newFreq := d.get TB_REF_SEL.FREQ != freq
  let d := if newFreq then
      { d.set TB_STAT.REFIN_PRESENT 0 with tb := { d.tb with revertReq := false } } else d
  if !d.on TB_STAT.PLL_LOCK then d
  else if !d.on TB_REF_SEL.SRC then
    { d.srcState 0 with tb := { d.tb with revertReq := false, word := d.getInt TB_AGE_ADJ.ADJ } }
  else if src = 0 || newFreq then
    let d := d.outerLoop.srcState 1
    if d.on TB_STAT.REFIN_PRESENT || d.qualifies ref then d.qualify ref.phase else d
  else if st = 4 then
    if d.on TB_STAT.REFIN_PRESENT then d.revert ref.phase
    else if d.qualifies ref then (d.set TB_STAT.REFIN_PRESENT 1).revert ref.phase
    else { d with tb := { d.tb with revertReq := true } }
  else d

/-- REF_SEL_WRITE: a write of TB_REF_SEL; FREQ 3 is discarded with a NOTE (R32, R34). -/
def Dev.refSelWrite (d : Dev) (ss : Nat) (val : Word) (ref : RefIn) : Dev :=
  d.hostWrite ss tbPage 0x108 [val] .owner false fun d =>
    if wfield val 1 2 = 3 then d.discard ss tbPage 0x108
    else
      let src := d.get TB_REF_SEL.SRC
      let freq := d.get TB_REF_SEL.FREQ
      (d.plainWrite ss tbPage 0x108 val).refSelect src freq ref

/-- REF_SEL_WRITE (R32, R34). -/
def execRefSelWrite (ss : Sess) (val : Word) (ref : RefIn) (s : State) : Result :=
  s.on fun d => d.refSelWrite ss val ref

/-- REF_QUAL_WRITE: 0 is taken as 1, and REFIN that has been present long enough is qualified at once (R32). -/
def Dev.refQualWrite (d : Dev) (ss : Nat) (val : Word) (ref : RefIn) : Dev :=
  d.hostWrite ss tbPage 0x124 [val] .owner false fun d =>
    let d := d.plainWrite ss tbPage 0x124 val
    let d := if d.get TB_REF_QUAL.MS = 0 then d.set TB_REF_QUAL.MS 1 else d
    if d.qualifies ref then d.qualify ref.phase else d

/-- REF_QUAL_WRITE (R32). -/
def execRefQualWrite (ss : Sess) (val : Word) (ref : RefIn) (s : State) : Result :=
  s.on fun d => d.refQualWrite ss val ref

/-- REFIN_QUALIFIED (R32, R34, R35). -/
def execRefinQualified (ref : RefIn) (s : State) : Result :=
  s.on fun d => if d.qualifies ref then d.qualify ref.phase else d

/-- ln(num / den) in 2^-40 for num ≥ den > 0: the argument is halved into [1, 2), then the series of artanh. -/
def lnFix (num den : Nat) : Int :=
  let k := Nat.log2 (num / den)
  let d' := den * 2 ^ k
  let z : Int := (((num : Int) - d') * 2 ^ 60) / (num + d')
  let z2 := z * z / 2 ^ 60
  let series := (List.range 40).foldl (fun (acc : Int × Int) (i : Nat) =>
    (acc.1 + acc.2 / (2 * (i : Int) + 1), acc.2 * z2 / 2 ^ 60)) (0, z)
  ((k : Int) * 799144290325165979 + 2 * series.1) / 2 ^ 20

/-- ln(1 + t / C) in 2^-40, with t in seconds and C in hours (R42). -/
def patinaX (sec c : Nat) : Int := lnFix (3600 * c + sec) (3600 * c)

/-- y(t) of the model in force, in 2^-40 rounded to the nearest integer (R42, R43). -/
def Dev.patinaY (d : Dev) (sec : Nat) : Int :=
  rdiv (d.getInt TB_PATINA_A.A * 2 ^ 40 + d.getInt TB_PATINA_B.B * patinaX sec (d.get TB_PATINA_CFG.C)) (2 ^ 40)

/-- HOLDOVER begins: the word freezes at the mean of the last 100 s (R31, R33). -/
def Dev.enterHoldover (d : Dev) (mean : Int) : Dev :=
  let d := d.srcState 4
  { d with tb := { d.tb with lossT0 := d.up, frozen := mean, word := mean, lossSec := d.pln.opSeconds } }

/-- REF_LOSS and its message (R33). -/
def Dev.refLossNote (d : Dev) : Dev := (d.stick TB_STAT.REF_LOSS).raise 1 0x11 2 (d.get TB_REF_SEL.FREQ) d.tbOwner

/-- REFIN is declared lost (R33): HOLDOVER from ACQUIRING, LOCKED and SLEWING with REF_LOSS and a message, else only its
qualification ends. In the fabric cycle of a relock, the word is that before the loss of the master PLL (R407). -/
def Dev.refinLost (d : Dev) (mean : Int) : Dev :=
  let st := d.get TB_STAT.SRC_STATE
  let d : Dev := { d.set TB_STAT.REFIN_PRESENT 0 with
    pln := { d.pln with followRef := 0 }, tb := { d.tb with refLostCyc := some d.cycle } }
  if st = 2 || st = 3 || st = 5 then
    d.refLossNote.enterHoldover (if d.tb.relockCyc = some d.cycle then d.tb.word else mean)
  else d

/-- REFIN_LOSS (R33). -/
def execRefinLoss (mean : Word) (s : State) : Result := s.on fun d => d.refinLost mean.toInt

/-- REF_LOCK_ACHIEVED: ACQUIRING becomes LOCKED (R31). -/
def execRefLockAchieved (s : State) : Result := s.on fun d =>
  if d.get TB_STAT.SRC_STATE = 2 then { d.srcState 3 with tb := { d.tb with lockedT0 := d.up } } else d

/-- PATINA_AUTO has been set: a session's write of TB_AGE_ADJ of the same fabric cycle is discarded, whichever came
first (R39). -/
def Dev.adjUndo (d : Dev) : Dev :=
  match d.tb.adjWas with
  | none => d
  | some (c, v, clamp, ss) =>
    if c != d.cycle || !d.on TB_CTRL.PATINA_AUTO then d
    else
      let d := (d.setInt TB_AGE_ADJ.ADJ v).set TB_STAT.ADJ_CLAMP (b2n clamp)
      let d := if d.get TB_STAT.SRC_STATE ≤ 1 then { d with tb := { d.tb with word := v } } else d
      ({ d with tb := { d.tb with adjWas := none } } : Dev).discard ss tbPage 0x10C

/-- A write of TB_CTRL: REF_REVERT set while REFIN is qualified in HOLDOVER starts a revert (R34). -/
def Dev.refRevertWrite (d : Dev) (ss : Nat) (val : Word) (ref : RefIn) : Dev :=
  d.hostWrite ss tbPage 0x100 [val] .owner false fun d =>
    let d := (d.plainWrite ss tbPage 0x100 val).adjUndo
    if d.on TB_CTRL.REF_REVERT && d.on TB_STAT.REFIN_PRESENT && d.get TB_STAT.SRC_STATE == 4 then d.revert ref.phase
    else d

/-- REF_REVERT_WRITE (R34, R35). -/
def execRefRevertWrite (ss : Sess) (val : Word) (ref : RefIn) (s : State) : Result :=
  s.on fun d => d.refRevertWrite ss val ref

/-- SLEW_COMPLETE: SLEWING becomes LOCKED once the error that is left lies within ±16 tq (R34, R36). -/
def execSlewComplete (s : State) : Result := s.on fun d =>
  if d.get TB_STAT.SRC_STATE = 5 && decide (d.slewLeft ≤ 16000000000) then
    { d.srcState 3 with tb := { d.tb with lockedT0 := d.up } }
  else d

/-! ### Ageing adjustment (R38, R39) -/

/-- The limit of TB_AGE_ADJ: ±10 ppm in 2^-40 (R38). -/
abbrev ageLimit : Int := 10995116

/-- TB_AGE_ADJ takes a value, clamped with ADJ_CLAMP and a NOTE; in INTERNAL and REFIN_WAIT it is the word
(R31, R38). -/
def Dev.ageAdj (d : Dev) (v : Int) : Dev :=
  let c := if ageLimit < v then ageLimit else if v < -ageLimit then -ageLimit else v
  let d := if c = v then d else (d.stick TB_STAT.ADJ_CLAMP).raise 1 0x14 0 0 d.tbOwner
  let d := d.setInt TB_AGE_ADJ.ADJ c
  if d.get TB_STAT.SRC_STATE ≤ 1 then { d with tb := { d.tb with word := c } } else d

/-- AGE_ADJ_WRITE: read-only while PATINA_AUTO is set (R38, R39). -/
def Dev.ageAdjWrite (d : Dev) (ss : Nat) (val : Word) : Dev :=
  d.hostWrite ss tbPage 0x10C [val] .owner false fun d =>
    if d.on TB_CTRL.PATINA_AUTO then d.discard ss tbPage 0x10C
    else
      let was := match d.tb.adjWas with
        | some (c, v, clamp, _) => if c = d.cycle then (c, v, clamp, ss) else
            (d.cycle, d.getInt TB_AGE_ADJ.ADJ, d.on TB_STAT.ADJ_CLAMP, ss)
        | none => (d.cycle, d.getInt TB_AGE_ADJ.ADJ, d.on TB_STAT.ADJ_CLAMP, ss)
      ({ d with tb := { d.tb with adjWas := some was } } : Dev).ageAdj val.toInt

/-- AGE_ADJ_WRITE (R38, R39). -/
def execAgeAdjWrite (ss : Sess) (val : Word) (s : State) : Result := s.on fun d => d.ageAdjWrite ss val

/-! ### The Patina log and model (R40 to R43) -/

/-- Base of the log in NVM (R40). -/
abbrev patinaBase : Nat := 0x240000

/-- The 32 bytes of a record (R40). -/
def PatinaRec.bytes (r : PatinaRec) : List Byte :=
  let w0 := leBytes 8 r.opSeconds
  let w1 := leBytes 8 (r.offset.toNat + 0x100000000 * r.temp.toNat + 0x1000000000000 * r.ref
    + 0x100000000000000 * b2n r.model)
  let w2 := leBytes 8 (r.spread.toNat + 0x100000000 * r.seq)
  w0 ++ w1 ++ w2 ++ leBytes 4 (crc32 (w0 ++ w1 ++ w2)) ++ List.replicate 4 0xFF

/-- The records of the log that count as measurements. -/
def Dev.patinaMeas (d : Dev) : List PatinaRec := d.tb.patina.filter fun r => !r.model

/-- A record as its 32 bytes give it; none where the CRC does not match (R40, R41). -/
def patinaParse (b : List Byte) : Option PatinaRec :=
  let n := fun (o len : Nat) => leNat ((b.drop o).take len)
  if n 24 4 != crc32 (b.take 24) then none
  else some {
    opSeconds := n 0 8, offset := BitVec.ofNat 32 (n 8 4), temp := BitVec.ofNat 16 (n 12 2), ref := n 14 1 % 4,
    model := n 15 1 % 2 == 1, spread := BitVec.ofNat 32 (n 16 4), seq := n 20 4 }

/-- The bytes of place `i` of the log. -/
def State.patinaAt (s : State) (i : Nat) : List Byte := readBytes nvmDefault s.nvm (patinaBase + 32 * i) 32

/-- The places of the log that are not erased, lowest first. -/
def State.patinaUsed (s : State) : List Nat :=
  (s.nvm.filterMap fun c => if patinaBase ≤ c.1 && c.1 < patinaBase + 0x200000 then some ((c.1 - patinaBase) / 32)
    else none).eraseDups

/-- The first place at or after `i` that holds nothing, or at which a sector begins (R40). -/
def nextPlace (used : List Nat) : Nat → Nat → Nat
  | 0, i => i % 65536
  | n + 1, i => if i % 2048 = 0 || !used.contains (i % 65536) then i % 65536 else nextPlace used n (i + 1)

/-- Plinth starts with the log that it finds in NVM: every record whose CRC matches, in the order of SEQ; the next record
goes behind the last one (R40, R41). -/
def State.patinaLoad (s : State) : State :=
  let used := s.patinaUsed
  let recs := used.filterMap fun i => (patinaParse (s.patinaAt i)).map fun r => (r, i)
  let recs := ordSort (fun (a b : PatinaRec × Nat) => decide (a.1.seq ≤ b.1.seq)) recs
  let (seq, pos) := match recs.getLast? with
    | none => (0, nextPlace used 2048 0)
    | some (r, i) => (r.seq + 1, nextPlace used 2048 (i + 1))
  let d := { s.toDev with tb := { s.tb with patina := recs.map Prod.fst, patinaSeq := seq, patinaPos := pos } }
  { s with toDev := d.set TB_PATINA_STAT.RECORDS d.patinaMeas.length }

/-- The records of a sector of the ring, by their places: it is erased, and they go (R40). -/
def State.patinaErase (s : State) (i : Nat) : State :=
  let gone := (s.patinaUsed.filter fun j => decide (i ≤ j) && decide (j < i + 2048)).filterMap fun j =>
    (patinaParse (s.patinaAt j)).map PatinaRec.seq
  { s with
    tb := { s.tb with patina := s.tb.patina.filter fun r => !gone.contains r.seq }
    nvm := clearBytes s.nvm (patinaBase + 32 * i) 0x10000 }

/-- One record goes to its place in the ring of 32 sectors of 2,048 records; at the start of a sector the oldest is
erased first, with all its records (R40). A record that a worn sector does not take is a place that R41 skips (R426). -/
def State.patinaPut (s : State) (r : PatinaRec) (ok : Bool) : State :=
  let i := s.tb.patinaPos
  let s := if i % 2048 = 0 then s.patinaErase i else s
  let d := { s.toDev with tb := { s.tb with
    patina := if ok then s.tb.patina ++ [r] else s.tb.patina, patinaSeq := s.tb.patinaSeq + 1, patinaPos := (i + 1) % 65536 } }
  { s with
    toDev := { d.set TB_PATINA_STAT.RECORDS (d.patinaMeas).length with free := if ok then d.free else d.free + 1 }
    nvm := writeBytes nvmDefault nvmSize s.nvm (patinaBase + 32 * i)
      (if ok then r.bytes else (Config.failedWrite s.free r.bytes).take 32) }

/-- A record is due: LOCKED, PATINA_LOG set, in ACTIVE or DROWSE, and INTERVAL minutes after the last record and after
the lock (R40). -/
def Dev.patinaDue (d : Dev) : Bool :=
  d.get TB_STAT.SRC_STATE == 3 && d.on TB_CTRL.PATINA_LOG && d.pln.st != .deep && d.pln.running
    && decide (max d.tb.patinaT0 d.tb.lockedT0 + 60 * secT0 * d.get TB_PATINA_CFG.INTERVAL ≤ d.up)

/-- Plinth appends a record once it is due, when no lifecycle record and no operation of self-test is in progress (R28). The
first record of a sector is a model record (R40). -/
def execPatinaAppend (offset : Word) (temp : BitVec 16) (spread : Word) (s : State) (ok : Bool := true) : Result :=
  if !s.toDev.patinaDue || !s.toDev.plinthMay then .next s
  else
    let rec_ := fun (d : Dev) (model : Bool) (a b : Word) =>
      ({ opSeconds := d.pln.opSeconds, offset := a, temp, ref := d.get TB_REF_SEL.FREQ, model, spread := b,
         seq := d.tb.patinaSeq } : PatinaRec)
    let s := if s.tb.patinaPos % 2048 = 0 then
        s.patinaPut (rec_ s.toDev true (s.toDev.reg TB_PATINA_A) (s.toDev.reg TB_PATINA_B)) ok else s
    let s := s.patinaPut (rec_ s.toDev false offset spread) ok
    .next { s with toDev := { (s.toDev.setReg TB_REF_FREQ_OFS offset) with tb := { s.tb with patinaT0 := s.up } } }

/-- Power fails while an append or the erase before it may have been in progress, which is so only when a record is due:
whether it was, and what it has left, is open; it costs at most the record, or the sector, that it was writing (R28,
R41). -/
def State.patinaCut (s : State) : State :=
  if !s.toDev.patinaDue then s
  else
    let (x, d) := s.toDev.draw
    let i := s.tb.patinaPos
    let base := patinaBase + 32 * i
    let erase := i % 2048 = 0
    let len := if erase then 0x10000 else 32
    let left := (Config.failedWrite d.free (readBytes nvmDefault s.nvm base len)).take len
    let s : State := { s with toDev := { d with free := d.free + 1 } }
    if x.toNat % 2 = 0 then s
    else { s with nvm := writeBytes nvmDefault nvmSize (clearBytes s.nvm base len) base left }

/-- The least-squares fit over measurement records: A and B in 2^-40, and the sum of the squared residuals, where the sums
determine them (R42). -/
def patinaSolve (c : Nat) (rs : List PatinaRec) : Option (Int × Int × Nat) :=
  let n : Int := rs.length
  let xs := rs.map fun r => patinaX r.opSeconds c
  let ys := rs.map fun r => r.offset.toInt
  let sx := xs.foldl (· + ·) 0
  let sy := ys.foldl (· + ·) 0
  let sxx := (xs.map fun x => x * x).foldl (· + ·) 0
  let sxy := ((xs.zip ys).map fun p => p.1 * p.2).foldl (· + ·) 0
  let det := n * sxx - sx * sx
  if det = 0 then none
  else
    let b := rdiv ((n * sxy - sx * sy) * 2 ^ 40) det
    let a := rdiv (sy * det - (n * sxy - sx * sy) * sx) (n * det)
    let r2 := ((xs.zip ys).map fun p => let e := p.2 - a - rdiv (b * p.1) (2 ^ 40); (e * e).toNat).foldl (· + ·) 0
    some (a, b, r2)

/-- PATINA_FIT: a new model comes into force when the record count, the span of 168 hours and the residual meet their
limits (R42). -/
def Dev.patinaFit (d : Dev) : Dev :=
  let rs := d.patinaMeas
  let span := match rs.head?, rs.getLast? with
    | some a, some b => b.opSeconds - a.opSeconds
    | _, _ => 0
  if rs.length < d.get TB_PATINA_CFG.MIN_RECORDS || span < 168 * 3600 then d
  else match patinaSolve (d.get TB_PATINA_CFG.C) rs with
    | none => d
    | some (a, b, r2) =>
      if 22000 * 22000 * rs.length < r2 then d
      else
        let rms := Nat.sqrt (r2 / rs.length)
        let d := (d.setInt TB_PATINA_A.A a).setInt TB_PATINA_B.B b
        (d.set TB_PATINA_STAT.RESID (min (rms / 16) 0x7FFF)).set TB_STAT.PATINA_FIT_OK 1

/-- PATINA_FIT (R42). -/
def execPatinaFit (s : State) : Result := s.on Dev.patinaFit

/-- PATINA_HOURLY_ADJUST: TB_AGE_ADJ from the model, or in HOLDOVER the correction of the frozen word (R43). -/
def Dev.patinaHourly (d : Dev) : Dev :=
  if !d.on TB_CTRL.PATINA_AUTO || !d.on TB_STAT.PATINA_FIT_OK || !d.pln.running
      || d.up < d.tb.hourT0 + 3600 * secT0 then d
  else
    let y := d.patinaY d.pln.opSeconds
    let d := { d with tb := { d.tb with hourT0 := d.up } }
    if d.get TB_STAT.SRC_STATE = 4 then
      { d with tb := { d.tb with word := d.tb.frozen + (y - d.patinaY d.tb.lossSec) } }
    else d.ageAdj (-y)

/-- PATINA_HOURLY_ADJUST (R43). -/
def execPatinaHourlyAdjust (s : State) : Result := s.on Dev.patinaHourly

/-! ### The cluster tree rotators (R47) -/

/-- One step of 1 tq towards the new correction, every 256 T0 (R47). -/
def Dev.rotatorStep (d : Dev) (k : Nat) : Dev :=
  match (d.cl k).treeTo with
  | none => d
  | some goal =>
    if d.up < (d.cl k).treeT0 + 256 then d
    else
      let now := d.get (TB_TREE_PHASE.CORR k)
      let next := if now < goal then now + 1 else if goal < now then now - 1 else now
      let d := d.set (TB_TREE_PHASE.CORR k) next
      if next = goal then (d.modCl k fun c => { c with treeTo := none }).set (TB_TREE_PHASE.SLEWING k) 0
      else d.modCl k fun c => { c with treeT0 := d.up }

/-- TREE_ROTATOR_STEP (R47). -/
def execTreeRotatorStep (k : Clu) (s : State) : Result := s.on fun d => d.rotatorStep k

/-! ### Registers with limits of their own -/

/-- A write of TB_SLEW_LIMIT or TB_PATINA_CFG with its values taken into range. -/
def Dev.tbRangeWrite (d : Dev) (ss off : Nat) (val : Word) : Dev :=
  d.hostWrite ss tbPage off [val] .owner false fun d =>
    let d := d.slewSettle.plainWrite ss tbPage off val
    if off = 0x120 then d.set TB_SLEW_LIMIT.PPB (max 1 (min 1000 (d.get TB_SLEW_LIMIT.PPB)))
    else
      let d := d.set TB_PATINA_CFG.C (max 1 (d.get TB_PATINA_CFG.C))
      let d := d.set TB_PATINA_CFG.INTERVAL (max 1 (d.get TB_PATINA_CFG.INTERVAL))
      d.set TB_PATINA_CFG.MIN_RECORDS (max 8 (d.get TB_PATINA_CFG.MIN_RECORDS))

end Sys2Proof.Machine
end

