-- ==== Sys2Proof/Machine/Dirum.lean ====
section
/-! DEFINITION. The Dirum sync interface (R55 to R62): SYNC pulses, heartbeats, arming and taking an epoch. -/

namespace Sys2Proof.Machine

/-- The Dirum page. -/
abbrev dirumPage : Page := .dev 2

/-- C of a pulse: the first T0 edge later than its arrival. -/
def SyncPulse.c (p : SyncPulse) : Nat := p.arrival / 4096 + 1

/-- E0 of a pulse, in T0. -/
def SyncPulse.e0 (p : SyncPulse) : Nat := p.c + 1024

/-! ### Arming (R59) -/

/-- The device is armed or disarmed; a pulse whose C lies in this fabric cycle or an earlier one keeps its sample
(R59). -/
def Dev.setArmed (d : Dev) (on : Bool) : Dev :=
  let was := match d.dirum.armWas with
    | some (y, v) => if y = d.ecyc then (y, v) else (d.ecyc, d.on DIRUM_STAT.ARMED)
    | none => (d.ecyc, d.on DIRUM_STAT.ARMED)
  let pulse := d.dirum.pulse.map fun p => if d.ecyc < p.c / 4 then { p with armed := on } else p
  ({ d with dirum := { d.dirum with armWas := some was, pulse } } : Dev).set DIRUM_STAT.ARMED (b2n on)

/-- A write of DIRUM_CTRL by the owner: EPOCH_ARM, ARM_CANCEL and HB_RESTART (R59, R62); of EPOCH_ARM and ARM_CANCEL in
one write the cancel wins (log entry 20). -/
def Dev.dirumCtrlWrite (d : Dev) (ss : Nat) (val : Word) : Dev :=
  d.cmdWrite ss dirumPage 0x104 val (wbit val 1 || wbit val 2 || wbit val 3) fun d =>
    let d := if wbit val 2 then d.setArmed false else if wbit val 1 then d.setArmed true else d
    if wbit val 3 then d.hbRestart else d

/-- EPOCH_ARM (R59). -/
def execEpochArm (ss : Sess) (s : State) : Result :=
  s.on fun d => d.dirumCtrlWrite ss (d.reg DIRUM_CTRL ||| 2)

/-- ARM_CANCEL (R59). -/
def execArmCancel (ss : Sess) (s : State) : Result :=
  s.on fun d => d.dirumCtrlWrite ss (d.reg DIRUM_CTRL ||| 4)

/-- HB_RESTART (R62). -/
def execHbRestart (ss : Sess) (s : State) : Result :=
  s.on fun d => d.dirumCtrlWrite ss (d.reg DIRUM_CTRL ||| 8)

/-! ### Pulses (R55 to R57, R62) -/

/-- The device stamps SYNC: the capability is present, the page enabled, STAMP_EN set and the master PLL locked
(R55, R57). -/
def Dev.stamping (d : Dev) : Bool :=
  d.present dirumPage && d.on (PAGE_CTRL.ENABLE dirumPage.base) && d.on DIRUM_CTRL.STAMP_EN && d.on TB_STAT.PLL_LOCK

/-- A time of the epoch in tq of T0 passed. -/
def Dev.upTq (d : Dev) (t : Nat) : Nat := t + tq d.up - tq d.epoch

/-- A rising edge of SYNC: within 1,280 T0 of the last one it is discarded with STAMP_OVR (R57). -/
def Dev.syncRise (d : Dev) (arrival : Nat) : Dev :=
  if !d.stamping || !d.come arrival then d
  else if (match d.dirum.lastRise with | none => false | some t => decide (d.upTq arrival < t + tq 1280)) then
    d.stick DIRUM_STAT.STAMP_OVR
  else
    let c := arrival / 4096 + 1
    let armed := match d.dirum.armWas with
      | some (y, v) => if c / 4 ≤ y then v else d.on DIRUM_STAT.ARMED
      | none => d.on DIRUM_STAT.ARMED
    let pulse : SyncPulse := { arrival, armed, src := d.get TB_STAT.SRC_STATE }
    { d with dirum := { d.dirum with pulse := some pulse, lastRise := some (d.upTq arrival) } }

/-- SYNC_RISING_EDGE (R55, R57, R59). -/
def execSyncRisingEdge (arrival : Nat) (s : State) : Result := s.on fun d => d.syncRise arrival

/-- A heartbeat that arrived at `a` tq: DIRUM_MON_STAMP, the HEARTBEAT event (R206), and its phase in the block, which closes with its N-th heartbeat
(R56, R62). -/
def Dev.heartbeat (d : Dev) (a : Nat) : Dev :=
  let d := (d.set DIRUM_MON_STAMP.TIME (a % 2 ^ 64)).emitDevice 242 a
  let x := d.dirum
  let phase := a % 4096
  let x := if x.hbN = 0 then { x with hbRef := phase, hbSum := 0, hbLo := 0, hbHi := 0 } else x
  let e : Int := (phase : Int) - x.hbRef
  let e := if 2048 ≤ e then e - 4096 else if e < -2048 then e + 4096 else e
  let x := { x with hbSum := x.hbSum + e, hbLo := min x.hbLo e, hbHi := max x.hbHi e, hbN := x.hbN + 1 }
  let n : Nat := 2 ^ d.get DIRUM_CTRL.AVG_LOG2
  if x.hbN = n then
    let mean := (16 * (x.hbRef : Int) + rdiv (16 * x.hbSum) n) % 65536
    let d : Dev := { d with dirum := { x with hbN := 0 } }
    let d := (d.setInt DIRUM_HB_PHASE.MEAN mean).set DIRUM_HB_PHASE.N (2 ^ d.get DIRUM_CTRL.AVG_LOG2)
    (d.setInt DIRUM_HB_SPREAD.SPREAD (x.hbHi - x.hbLo)).set DIRUM_HB_PHASE.VALID 1
  else { d with dirum := x }

/-- A trigger slot of a lane is enabled: its input is armed. -/
def Dev.trigArmed (d : Dev) : Bool :=
  d.lanes.any fun ((L, _) : Nat × Lane) => [0, 1, 2, 3].any fun n => d.on (LANE_TRIG_CFG.ENABLE L n)

/-- The device is quiet (R58). -/
def Dev.quiet (d : Dev) : Bool :=
  (d.lanes.all fun ((L, _) : Nat × Lane) => !(3 ≤ d.progState L && d.progState L ≤ 5))
    && (d.lgs.all fun ((_, g) : Nat × LockGroup) => g.st == .idle)
    && !d.trigArmed
    && (d.tmus.all fun ((key, _) : Nat × Tmu) => !(1 ≤ d.tmuState (key / 34) (key % 34) && d.tmuState (key / 34) (key % 34) ≤ 4))
    && (d.clusters.all fun ((_, c) : Nat × Cluster) => c.queue.isEmpty)
    && (List.range 16).all fun k => d.get (FREQ_STAT.STATE k) == 0

/-- ARMED once a pulse has used it up: an EPOCH_ARM of the same fabric cycle arms again (R20). -/
def Dev.armedAfter (d : Dev) : Nat :=
  match d.dirum.armWas with
  | some (y, _) => b2n (y == d.ecyc && d.on DIRUM_STAT.ARMED)
  | none => 0

/-- An epoch pulse (R56, R58): counted; when it was armed at C, taken or refused. -/
def Dev.epochPulse (d : Dev) (p : SyncPulse) : Dev :=
  let d := d.wrapUp DIRUM_PULSE_CNT.EPOCH
  if !p.armed then d
  else if !d.quiet then
    ((d.stick DIRUM_STAT.EPOCH_REFUSED).set DIRUM_STAT.ARMED d.armedAfter).raise 2 0x15 0 0 (optL (d.owner dirumPage))
  else { d with dirum := { d.dirum with take := some p } }

/-- At C + 512 T0 a pulse is classified by its high time `high` in tq, or as an epoch pulse while it is still high
(R56). -/
def Dev.syncClassify (d : Dev) (high : Option Nat) : Dev :=
  match d.dirum.pulse with
  | none => d
  | some p =>
    if d.epoch < p.c + 512 then d
    else
      let d := { d with dirum := { d.dirum with pulse := none } }
      match high with
      | none => d.epochPulse p
      | some h =>
        if h < tq 16 || tq 320 < h then (d.stick DIRUM_STAT.BAD_PULSE).wrapUp DIRUM_PULSE_CNT.BAD
        else d.heartbeat p.arrival

/-- SYNC_CLASSIFY (R56, R58). -/
def execSyncClassify (high : Option Nat) (s : State) : Result := s.on fun d => d.syncClassify high

/-! ### Taking an epoch (R58, R60, R61) -/

/-- A start that was held is released; a lock-group GO acts on the group that was selected when it arrived (R60). -/
def Dev.releaseHeld (d : Dev) (c : Instr × Nat) : Dev :=
  match c.1 with
  | .progGo ss L val => d.progCtrlWrite ss L val
  | .lgGo ss val => d.lgCtrlAt ss c.2 val
  | .freqGo ss k val => d.freqCtrlWrite ss k val
  | .armFire ss k val => d.armFire ss k val
  | _ => d

/-- A start event of an event slot that was held is released with its origin at E0 (R60). -/
def Dev.releaseSlot (d : Dev) (x : Nat × Nat × Nat × Bool) : Dev :=
  d.slotAcceptStart x.1 x.2.1
    { col := 256 + 2 * x.2.1, origin := tq d.epoch, glob := x.2.2.2, hop := x.2.2.1, arrive := d.ecyc }

/-- A lane's memory of past instants, told in the new epoch; what lies before its origin has long passed. -/
def Lane.reEpoch (l : Lane) (old new : Nat) : Lane :=
  let f := fun t => t + tq new - tq old
  { l with
    lost := [], cmpT := f l.cmpT
    drvLast := l.drvLast.map f, denLast := l.denLast.map f, primedT0 := l.primedT0.map fun t => t + new - old
    fired := l.fired.filterMap fun ((i, t) : Nat × Nat) => if f t = 0 then none else some (i, f t)
    slotBusy := l.slotBusy.filterMap fun ((i, t) : Nat × Nat) => if f t = 0 then none else some (i, f t) }

/-- A shadow's times in the new epoch (R278). -/
def Swap.reEpoch (w : Swap) (old new : Nat) : Swap :=
  let f := fun t => t + tq new - tq old
  { w with lastP := f w.lastP, b := w.b.map f, times := w.times.map f, flipAt := w.flipAt.map f }

/-- The count is loaded: E0 begins a fabric cycle of the new epoch, and events of the old one are discarded
(R58, R60, R61). -/
def Dev.loadEpoch (d : Dev) (new : Nat) : Dev :=
  let old := d.epoch
  let d := { d with
    lanes := d.lanes.map fun ((L, l) : Nat × Lane) => (L, l.reEpoch old new)
    freqs := d.freqs.map fun ((k, f) : Nat × Freq) => (k, { f with lastEdge := none })
    clusters := d.clusters.map fun ((k, c) : Nat × Cluster) => (k, { c with
      stage := [], events := [], missed := [], swap := c.swap.map fun (w : Swap) => w.reEpoch old new })
    gStage := [] }
  let up := (d.up + 3) / 4 * 4
  let dirum := { d.dirum with lastRise := d.dirum.lastRise.map fun t => t + tq (up - d.up) }
  { d with epoch := new, up, dirum }

/-- At E0 the device takes the epoch (R58): the count, the stamp, its flags, and the held starts with origin E0, and the
EPOCH event of that origin (R206). The stamp is not valid once the reference TMU has failed (R321). -/
def Dev.epochTake (d : Dev) : Dev :=
  match d.dirum.take with
  | none => d
  | some p =>
    if d.epoch < p.e0 then d
    else
      let after := d.epoch - p.e0
      let armed := d.armedAfter
      let flags := (if p.src = 4 then 2 ^ 63 else 0) + (if p.src ≤ 1 then 2 ^ 62 else 0)
      let d := d.loadEpoch (d.reg64 DIRUM_EPOCH_LOAD / 4 * 4)
      let d := d.setReg64 DIRUM_SYNC_STAMP (tq p.e0 - p.arrival + flags)
      let d := ((d.stick DIRUM_STAT.EPOCH_TAKEN).set DIRUM_STAT.ARMED armed).set DIRUM_STAT.STAMP_VALID (b2n !d.dirum.refBad)
      let d := d.hbRestart
      let x := d.dirum
      let d := { d with dirum := { x with take := none, held := [], heldSlots := [], armWas := none } }
      let d := x.held.foldl Dev.releaseHeld d
      let d := x.heldSlots.foldl Dev.releaseSlot d
      let d := d.emitDevice 241 (tq d.epoch)
      d.passT0 after

/-- EPOCH_TAKE (R58, R60, R61). -/
def execEpochTake (s : State) : Result := s.on Dev.epochTake

end Sys2Proof.Machine
end

