-- ==== Sys2Proof/Machine/CalTables.lean ====
section
/-! DEFINITION. Caliper's tables (09): the factory sets and their temperature interpolation (R246, R247), the table in
force of a unit, and its installation at once or in steps (R70, R248, R252). -/

namespace Sys2Proof.Machine

/-! ### Factory sets (R246, R247) -/

/-- n / m with halves rounded up (R235, R247). -/
def halfUp (n : Int) (m : Nat) : Int := (2 * n + m) / (2 * m)

/-- The factory set that holds at `temp` from below: 0 to 3 for 40, 55, 70 and 85 °C. -/
def setBelow (temp : Int) : Nat := if temp < 3520 then 0 else if temp < 4480 then 1 else if temp < 5440 then 2 else 3

/-- A factory temperature lies outside the sets: 40 to 100 °C in 1/64 °C (R246). -/
def tempOutside (temp : Int) : Bool := temp < 2560 || 6400 < temp

/-- 960 times the factory value of an entry at a temperature in 1/64 °C: between two sets in proportion, outside the
nearest set (R246). -/
def factoryAt (unit entry : Nat) (temp : Int) : Int :=
  if temp ≤ 2560 then 960 * Config.factory unit entry 0
  else if 6400 ≤ temp then 960 * Config.factory unit entry 4
  else
    let i := setBelow temp
    let lo := Config.factory unit entry i
    960 * lo + (Config.factory unit entry (i + 1) - lo) * (temp - (2560 + 960 * (i : Int)))

/-- The value in force of an entry, with a user value made at `tu` or without one (R247). -/
def inForce (unit entry : Nat) (temp : Int) (user : Option (Int × Int)) : Int :=
  match user with
  | none => halfUp (factoryAt unit entry temp) 960
  | some (u, tu) => halfUp (960 * u + factoryAt unit entry temp - factoryAt unit entry tu) 960

/-- The factory set nearest to a temperature, the colder one halfway between two (R247). -/
def setNearest (temp : Int) : Nat :=
  if temp ≤ 3040 then 0 else if temp ≤ 4000 then 1 else if temp ≤ 4960 then 2 else if temp ≤ 5920 then 3 else 4

/-! ### Tables of a channel -/

/-- The generator's user table covers it. -/
def Phys.hasUser (x : Phys) (e : Nat) : Bool := x.userMask / 2 ^ e % 2 == 1

/-- Tu of a generator's user table. -/
def Phys.tuOf (x : Phys) (e : Nat) : Int := tget (fun _ => 0) x.tu e

/-- A user value with its Tu, where the generator has a user table. -/
def Phys.user (x : Phys) (e : Nat) (v : Int) : Option (Int × Int) := if x.hasUser e then some (v, x.tuOf e) else none

/-- A value taken into the bounds that a serving table always keeps (R69). DESIGN CHOICE, log entry 77. -/
def within (lo hi v : Int) : Int := max lo (min hi v)

/-- The PD entries in force at a temperature (R69, R247). -/
def pdAt (x : Phys) (k p : Nat) (temp : Int) : Tbl Int :=
  (List.range 1536).filterMap fun n =>
    let e := n / 256
    let u : CalUnit := { cluster := k, tmu := false, unit := p, part := e }
    let v := within (-32767) 32767 (inForce u.key (64 + n % 256) temp (x.user e (tget (fun _ => 0) x.userPd n)))
    if v = 0 then none else some (n, v)

/-- The ACHIEVED values in force at a temperature: 0 for segment 0, each other in its window (R69, R247). -/
def achAt (x : Phys) (k p : Nat) (temp : Int) : Tbl Int :=
  (List.range 384).filterMap fun n =>
    let e := n / 64
    let u : CalUnit := { cluster := k, tmu := false, unit := p, part := e }
    let v := within (1024 * (n % 64 - 1 : Nat)) (1024 * (n % 64 : Nat)) (inForce u.key (n % 64) temp (x.user e (tget (fun _ => 0) x.userAch n)))
    if v = achievedDefault n then none else some (n, v)

/-- The lane position of a channel's present route: its own, or for a spare the lane's that it serves or shadows
(R13, R244). -/
def Dev.routeLane (d : Dev) (k p : Nat) : Nat := if p < 64 then p else d.get (CH_PHYS_STAT.LANE k p)

/-- The user path set of a channel's route to lane position `j`. -/
def Phys.pathOf (x : Phys) (j : Nat) : Option PathSet := tget (fun _ => none) x.userPath j

/-- The three path delays of the route from channel `p` to lane position `j` in force at a temperature (R69, R244, R247). -/
def pathAt (x : Phys) (k p j : Nat) (temp : Int) : Int × Int × Int :=
  let f := fun (i : Nat) (v : PathSet → Int) =>
    within 0 8191 (inForce (pathUnit k p j).key (3 * j + i) temp ((x.pathOf j).map fun q => (v q, q.tu)))
  (f 0 PathSet.drv, f 1 PathSet.den, f 2 PathSet.cmp)

/-- The path delays of the channel's route. -/
def Dev.setPaths (d : Dev) (k p : Nat) (v : Int × Int × Int) : Dev :=
  ((d.setInt (CH_PATH_DRV.PATH k p) v.1).setInt (CH_PATH_DEN.PATH k p) v.2.1).setInt (CH_PATH_CMP.PATH k p) v.2.2

/-- The channel drives a lane that is not in hold: its tables change in steps (R252). -/
def Dev.drives (d : Dev) (k p : Nat) : Bool :=
  let r := d.get (CH_PHYS_STAT.ROLE k p)
  (r == 1 || r == 2) && !d.on (LANE_STAT.HOLD (64 * k + d.get (CH_PHYS_STAT.LANE k p)))

/-- The tables of a channel for the cluster's present temperature come into force: at once, or in steps while it drives
a lane (R247, R248, R252). -/
def Dev.installPhys (d : Dev) (k p : Nat) : Dev :=
  let x := d.ph k p
  let temp := (d.cl k).temp
  let pd := pdAt x k p temp
  let ach := achAt x k p temp
  let path := pathAt x k p (d.routeLane k p) temp
  let d := (d.setInt (CH_CAL_INFO.TEMP k p) temp).set (CH_PHYS_STAT.CAL_SRC k p) (if x.userMask = 0 then 1 else 2)
  if d.drives k p then
    (d.setPh k p { x with pdTo := some pd, achTo := some ach, pathTo := some path, stepT0 := d.up }).set CAL_STAT.SLEWING 1
  else
    (d.setPh k p { x with pd, achieved := ach, pdTo := none, achTo := none, pathTo := none }).setPaths k p path

/-! ### Tables of a TMU -/

/-- The code-density entries in force: the user table of an interpolator, else the factory set nearest to the
temperature (R247). -/
def cdAt (x : Tmu) (k t : Nat) (temp : Int) : Tbl Nat :=
  (List.range 8192).filterMap fun n =>
    let i := n / 4096
    let u : CalUnit := { cluster := k, tmu := true, unit := t, part := i }
    let v := if tget (fun _ => 0) x.cdMade i ≠ 0 then tget (fun _ => 0) x.cdUser n
      else (Config.factory u.key (n % 4096) (setNearest temp)).toNat
    if v = 0 then none else some (n, v)

/-- The TMU_PATH value of an interpolator and a channel, `n` as in the table, for the route to lane position `j`
(R244, R247). -/
def tmuPathOf (x : Tmu) (k t n j : Nat) (temp : Int) : Nat :=
  let u : CalUnit := { cluster := k, tmu := true, unit := t, part := 6 }
  (inForce u.key (64 * n + j) temp ((tget (fun _ => none) x.pathUser (64 * n + j)).map fun q => (q.1, q.2.1))).toNat

/-- The TMU_PATH values in force, each channel's for its present route (R244, R247). -/
def Dev.tmuPathAt (d : Dev) (k t : Nat) (temp : Int) : Tbl Nat :=
  (List.range 136).filterMap fun n =>
    let v := tmuPathOf (d.tmu k t) k t n (d.routeLane k (n % 68)) temp
    if v = 0 then none else some (n, v)

/-- The temperature that TMU_CD_INFO reports: that of the user table, or of the factory set in force (R247). -/
def cdTemp (x : Tmu) (i : Nat) (temp : Int) : Int :=
  if tget (fun _ => 0) x.cdMade i ≠ 0 then tget (fun _ => 0) x.cdTu i else 2560 + 960 * (setNearest temp : Int)

/-- The tables of a TMU for the cluster's present temperature come into force: at once, or in steps while it is in
service (R175, R247, R252). -/
def Dev.installTmu (d : Dev) (k t : Nat) : Dev :=
  let x := d.tmu k t
  let temp := (d.cl k).temp
  let cd := cdAt x k t temp
  let path := d.tmuPathAt k t temp
  let d := (d.setInt (TMU_CD_INFO.TEMP k t 0) (cdTemp x 0 temp)).setInt (TMU_CD_INFO.TEMP k t 1) (cdTemp x 1 temp)
  if d.get (TMU_STAT.ROLE k t) = 1 && (x.cd != cd || x.path != path) then
    (d.setTmu k t { x with cdTo := some cd, pathTo := some path, stepT0 := d.up }).set CAL_STAT.SLEWING 1
  else d.setTmu k t { x with cd, path, cdTo := none, pathTo := none }

/-- A spare takes on the route to another lane: its path delays, and the TMU_PATH values of its channel, are that route's
before it serves the lane (R13, R244, R247). -/
def Dev.routePaths (d : Dev) (k p : Nat) : Dev :=
  if p < 64 then d
  else
    let j := d.routeLane k p
    let temp := (d.cl k).temp
    let put := fun (t : Nat) (x : Tmu) (tbl : Tbl Nat) => [p, 68 + p].foldl (fun q n =>
      tput (fun _ => 0) q n (tmuPathOf x k t n j temp)) tbl
    let d := d.setPaths k p (pathAt (d.ph k p) k p j temp)
    (List.range 34).foldl (fun d t => d.modTmu k t fun x => { x with
      path := put t x x.path, pathTo := x.pathTo.map (put t x) }) d

/-- The temperature update of a channel waits for the end of the slices on its table sets (R312). -/
def Dev.updateLater (d : Dev) (k p : Nat) : Dev :=
  [0, 1].foldl (fun d i =>
    match d.slice i with
    | none => d
    | some sl => if sl.tgt.within 2 k (some p) then d.setSlice i (some { sl with update := true }) else d) d

/-- The tables of a whole cluster for its present temperature (R248); the first entry into the clamped range is told
to the sessions that hold its lanes (R246). A slice on a table set of the cluster gives way, and its channel's update waits
for it (R312). -/
def Dev.installCluster (d : Dev) (k : Nat) : Dev :=
  let out := tempOutside (d.cl k).temp
  let d := if out && !(d.cl k).tempClamp then d.raise 3 0x44 0 k (d.holdersIn k) else d
  let d := d.serve 2 k none
  let d := d.modCl k fun c => { c with recompT0 := d.up, recompTemp := c.temp, tempClamp := out }
  let d := (List.range 68).foldl (fun d p =>
    let d := d.set (CH_PHYS_STAT.TEMP_CLAMP k p) (b2n out)
    if d.regionIn 2 k p then d.updateLater k p else d.installPhys k p) d
  (List.range 34).foldl (fun d t => d.installTmu k t) d

/-! ### Steps (R252) -/

/-- One step of at most `n` from `a` towards `b`. -/
def stepTo (n a b : Int) : Int := if a + n < b then a + n else if b + n < a then a - n else b

/-- The keys that two tables list between them, in rising order. -/
def tkeys {α : Type} (a b : Tbl α) : List Nat :=
  (ordSort (fun x y => decide (x ≤ y)) (a.map Prod.fst ++ b.map Prod.fst)).eraseDups

/-- One step of every entry of a table. -/
def stepTbl (n : Int) (dflt : Nat → Int) (a b : Tbl Int) : Tbl Int :=
  (tkeys a b).filterMap fun i =>
    let v := stepTo n (tget dflt a i) (tget dflt b i)
    if v = dflt i then none else some (i, v)

/-- Whether any table is still on its way in (CAL_STAT.SLEWING). -/
def Dev.calSlewing (d : Dev) : Bool :=
  (d.phys.any fun ((_, x) : Nat × Phys) => x.pdTo.isSome) || d.tmus.any fun ((_, x) : Nat × Tmu) => x.cdTo.isSome

/-- CAL_STAT.SLEWING shows it. -/
def Dev.showSlew (d : Dev) : Dev := d.set CAL_STAT.SLEWING (b2n d.calSlewing)

/-- One step of a channel's tables: at most 1 tq for every entry; at once where it no longer drives a lane (R252). -/
def Dev.stepPhys (d : Dev) (k p : Nat) : Dev :=
  let x := d.ph k p
  match x.pdTo, x.achTo, x.pathTo with
  | some pd, some ach, some path =>
    if d.up < x.stepT0 + 256 then d
    else
      let drv := d.getInt (CH_PATH_DRV.PATH k p)
      let den := d.getInt (CH_PATH_DEN.PATH k p)
      let cmp := d.getInt (CH_PATH_CMP.PATH k p)
      let far := !d.drives k p
      let pd' := if far then pd else stepTbl 16 (fun _ => 0) x.pd pd
      let ach' := if far then ach else stepTbl 16 achievedDefault x.achieved ach
      let path' := if far then path else (stepTo 1 drv path.1, stepTo 1 den path.2.1, stepTo 1 cmp path.2.2)
      let done := pd' == pd && ach' == ach && path' == path
      let x := { x with pd := pd', achieved := ach', stepT0 := d.up }
      ((d.setPh k p (if done then { x with pdTo := none, achTo := none, pathTo := none } else x)).setPaths k p path').showSlew
  | _, _, _ => d

/-- The least span CD[REF2] − CD[REF1] of an interpolator that R171 allows a measurement: REF1 from 1,610 to 2,090, REF2
from 3,360 on and 1,500 codes or more above it. -/
def cdSpan (cd : Tbl Nat) (i : Nat) : Int :=
  let at_ := fun (c : Nat) => ((tget (fun _ => 0) cd (4096 * i + c) : Nat) : Int)
  (List.range 481).foldl (fun m n => min m (at_ (max 3360 (n + 3110)) - at_ (n + 1610))) (at_ 3360 - at_ 1610)

/-- The most that a step moves an entry of a code-density table: of the three entries of R174 the measurement's moves the
ramp time by 65,536 / span times its own step, and the pair's two, weighted to 1.03 at the codes that R171 allows, by as much
again; 1/9,216 of the span keeps their sum, rounded, within the 16 of 1 tq (R174, R175, R252). -/
def cdStep (cd : Tbl Nat) (i : Nat) : Int := max 1 (cdSpan cd i / 9216)

/-- One step of a table of natural numbers, by at most `n i` at entry `i`. -/
def stepNat (n : Nat → Int) (a b : Tbl Nat) : Tbl Nat :=
  (tkeys a b).filterMap fun i =>
    let v := (stepTo (n i) (tget (fun _ => 0) a i : Nat) (tget (fun _ => 0) b i : Nat)).toNat
    if v = 0 then none else some (i, v)

/-- One step of a TMU's tables, first of the code density and then of TMU_PATH, so that no side time moves by more than
1 tq; at once where it is no longer in service (R175, R252). -/
def Dev.stepTmu (d : Dev) (k t : Nat) : Dev :=
  let x := d.tmu k t
  match x.cdTo, x.pathTo with
  | some cd, some path =>
    if d.up < x.stepT0 + 256 then d
    else
      let far := d.get (TMU_STAT.ROLE k t) != 1
      let s0 := cdStep x.cd 0
      let s1 := cdStep x.cd 1
      let cd' := if far then cd else stepNat (fun i => if i < 4096 then s0 else s1) x.cd cd
      let path' := if far then path else if x.cd = cd then stepNat (fun _ => 1) x.path path else x.path
      let done := cd' == cd && path' == path
      let x := { x with cd := cd', path := path', stepT0 := d.up }
      (d.setTmu k t (if done then { x with cdTo := none, pathTo := none } else x)).showSlew
  | _, _ => d

/-- TABLE_INSTALL_STEP (R252). -/
def execTableInstallStep (k : Clu) (u : TblUnit) (s : State) : Result :=
  s.on fun d => match u with | .phys p => d.stepPhys k p | .tmu t => d.stepTmu k t

/-- The cluster's temperature has moved 0.25 °C since its tables were computed, not within 1 ms of that: they are
computed and installed again (R248). -/
def Dev.tempRecompute (d : Dev) (k : Nat) : Dev :=
  let c := d.cl k
  if (c.temp - c.recompTemp).natAbs < 16 || d.up < c.recompT0 + msT0 || !d.powered k then d else d.installCluster k

/-- TEMP_TABLE_RECOMPUTE (R246 to R248). -/
def execTempTableRecompute (k : Clu) (s : State) : Result := s.on fun d => d.tempRecompute k

end Sys2Proof.Machine
end

