-- ==== Sys2Proof/Machine/Pointing.lean ====
section
/-! DEFINITION. The Pointing Engine (10): choosing a channel, requests, Maquettes, HBM regions, release of lanes, and
what follows when a channel becomes unusable (R261 to R275, R282 to R284). Swaps stand in Machine/Swap.lean. -/

namespace Sys2Proof.Machine

/-- The Pointing Engine page. -/
abbrev pePage : Page := .dev 4

/-! ### Choosing a channel (R266) -/

/-- Why a channel is chosen: a placement, the replacement of a failed channel, another move. -/
inductive Purpose where
  | place | replace | move
  deriving DecidableEq, Repr

/-- The channel meets accuracy class `cls` for the generators in `mask` (Requests, R248). -/
def Dev.meetsClass (d : Dev) (k p mask cls : Nat) : Bool :=
  let x := d.ph k p
  let used := (List.range 6).filter fun e => mask / 2 ^ e % 2 == 1
  if cls = 0 then true
  else if cls = 1 then 1 ≤ d.get (CH_PHYS_STAT.CAL_SRC k p) && !d.on (CH_PHYS_STAT.TEMP_CLAMP k p)
  else used.all fun e => x.hasUser e && decide ((d.getInt (CH_CAL_INFO.TEMP k p) - x.tuOf e).natAbs ≤ 320)

/-- Order of the candidates: direct before spine, user tables before factory tables, the smaller largest distance from
Tu, the lower number (R266). -/
def Dev.chRank (d : Dev) (k j mask p : Nat) : Nat :=
  let x := d.ph k p
  let used := (List.range 6).filter fun e => mask / 2 ^ e % 2 == 1
  let user := used.all x.hasUser
  let far := if user then used.foldl (fun m e => max m (d.getInt (CH_CAL_INFO.TEMP k p) - x.tuOf e).natAbs) 0 else 0
  (if p = j then 0 else 0x40000000) + (if user then 0 else 0x20000000) + 128 * (far % 0x10000) + p

/-- The channel is held for a self-test slice; one that starts in this fabric cycle is no obstacle, for it gives way (R266,
R303). -/
def Dev.bistHolds (d : Dev) (k p : Nat) : Bool :=
  d.on (CH_PHYS_STAT.BIST_ACTIVE k p)
    && !(List.range 2).any fun i => (d.slice i).any fun sl => d.freshSlice sl && sl.tgt.within 5 k (some p)

/-- The channel is free for a lane (R266). -/
def Dev.chFree (d : Dev) (k p mask : Nat) (purpose : Purpose) : Bool :=
  !d.on (CH_PHYS_STAT.UNUSABLE k p) && d.get (CH_PHYS_STAT.ROLE k p) == 0 && !d.bistHolds k p
    && (purpose == .replace || !d.on (CH_PHYS_STAT.CAL_ACTIVE k p))
    && (d.get (CH_PHYS_STAT.EG_BAD k p) &&& mask) == 0

/-- The spares of a cluster that no lane uses and that are usable (CL_STATE.SPARES_FREE). -/
def Dev.freeSpares (d : Dev) (k : Nat) : Nat :=
  ([64, 65, 66, 67].filter fun p => d.get (CH_PHYS_STAT.ROLE k p) == 0 && !d.on (CH_PHYS_STAT.UNUSABLE k p)).length

/-- What R266 answers: a failure, or the channel and whether it meets the class. -/
inductive Choice where
  | fail (code : Nat)
  | found (p : Nat) (met : Bool)
  deriving DecidableEq, Repr

/-- choose(L, req, purpose) of R266. -/
def Dev.choose (d : Dev) (L mask cls : Nat) (purpose : Purpose) : Choice :=
  let k := L / 64
  let j := L % 64
  if !d.on (CL_STATE.TREE_ALIGNED k) || !d.powered k then .fail 5
  else
    let cands := [j, 64, 65, 66, 67].filter fun p => d.served L != some p && d.chFree k p mask purpose
    let reserve := min 4 (d.get PE_CFG.SPARE_RESERVE)
    let cands := if purpose == .place && !cands.contains j && decide (d.freeSpares k < reserve + 1) then [] else cands
    let order := ordSort fun a b => decide (d.chRank k j mask a ≤ d.chRank k j mask b)
    match order (cands.filter fun p => d.meetsClass k p mask cls) with
    | p :: _ => .found p true
    | [] =>
      match order cands with
      | [] => .fail 2
      | p :: _ => if purpose == .place then .fail 3 else .found p false

/-- A choice that finds no channel is a service request to the candidates that only a self-test slice holds
(R266, R312). -/
def Dev.chWant (d : Dev) (L mask : Nat) : Dev :=
  [L % 64, 64, 65, 66, 67].foldl (fun d p =>
    if !d.on (CH_PHYS_STAT.UNUSABLE (L / 64) p) && d.get (CH_PHYS_STAT.ROLE (L / 64) p) == 0
      && (d.get (CH_PHYS_STAT.EG_BAD (L / 64) p) &&& mask) == 0 then d.serveRegion 5 (L / 64) p else d) d

/-! ### Binding (R13, R267) -/

/-- The channel serves the lane: LANE_SERVED and CH_PHYS_STAT. -/
def Dev.bind (d : Dev) (L p : Nat) : Dev :=
  let k := L / 64
  let d := if d.on (CH_PHYS_STAT.BIST_ACTIVE k p) then d.serveRegion 5 k p else d
  let spine := 64 ≤ p
  let d := ((d.set (LANE_SERVED.PHYS L) p).set (LANE_SERVED.VALID L) 1).set (LANE_SERVED.SPINE L) (b2n spine)
  let d := (d.set (LANE_SERVED.TRACK L) (p - 64)).set (CH_PHYS_STAT.ROLE k p) (if spine then 2 else 1)
  let d := (d.set (CH_PHYS_STAT.LANE k p) (L % 64)).set (CH_PHYS_STAT.TRACK k p) (p - 64)
  d.routePaths k p

/-- No channel serves the lane any more: the one that did drives nothing. -/
def Dev.unbind (d : Dev) (L : Nat) : Dev :=
  match d.served L with
  | none => d
  | some p => (d.roleIdle (L / 64) p).set (LANE_SERVED.VALID L) 0

/-- The lane is placed again after it was UNPLACED or awaited an IMMEDIATE move. -/
def Dev.replaced (d : Dev) (L : Nat) : Dev := (d.modLane L fun l => { l with unplaced := false }).holdEnd L holdUnplaced

/-! ### Swaps in wait (R276) -/

/-- The order of the kinds of swap (R276). -/
def SwapKind.rank : SwapKind → Nat
  | .immediate => 0
  | .deferred => 1
  | .waiting => 2
  | .rotation => 3
  | .home => 4

/-- A swap of the lane is queued once; an IMMEDIATE one takes the place of any other of the lane and preempts a running
swap of another kind, its own included (R276). -/
def Dev.swapQueue (d : Dev) (L : Nat) (kind : SwapKind) : Dev :=
  let k := L / 64
  let j := L % 64
  let c := d.cl k
  if (c.swapQ.any fun w => w.1 == j && w.2.rank ≤ kind.rank) then d
  else
    let d := d.setCl k { c with swapQ := (c.swapQ.filter fun w => w.1 != j) ++ [(j, kind)] }
    match c.swap with
    | none => d
    | some w => if kind == .immediate && w.kind != .immediate then d.swapAbandon k (w.lane != j) else d

/-- The lane becomes UNPLACED (R282). -/
def Dev.becomeUnplaced (d : Dev) (L : Nat) : Dev :=
  let k := L / 64
  let d := (d.unbind L).modLane L fun l => { l with unplaced := true }
  let d := d.holdEnter L holdUnplaced
  let d := match (d.cl k).swap with
    | none => d
    | some w => if w.lane = L % 64 then d.swapAbandon k false else d
  let d := d.modCl k fun c => { c with swapQ := c.swapQ.filter fun w => w.1 != L % 64 }
  (d.raise 4 0x48 2 L (d.holderL L)).irqAll pePage (d.holderL L) 2

/-- Capability 0x000E, shadow swap, is present. -/
def Dev.canSwap (d : Dev) : Bool := d.opts / 4 % 2 == 1

/-- The channel that serves the lane is not to be trusted, or is to be replaced: a swap follows, or the lane becomes
UNPLACED (R275, R276, R282). -/
def Dev.moveAway (d : Dev) (L : Nat) (immediate : Bool) : Dev :=
  let l := d.lane L
  let can := d.canSwap && (match d.choose L l.egMask l.cls .replace with | .found _ _ => true | .fail _ => false)
  if !can then (d.chWant L l.egMask).becomeUnplaced L
  else if immediate then ((d.unbind L).holdEnter L holdUnplaced).swapQueue L .immediate
  else d.swapQueue L .deferred

/-- What follows for a channel that is declared UNUSABLE, or loses a generator that its lane uses (R275, R280). -/
def Dev.channelFailed (d : Dev) (k p : Nat) (immediate : Bool) : Dev :=
  let d := match (d.cl k).swap with
    | none => d
    | some w => if w.spare = p then d.swapAbandon k true else d
  let L := 64 * k + d.get (CH_PHYS_STAT.LANE k p)
  if d.served L = some p then d.moveAway L immediate else d

/-- A channel has been declared UNUSABLE: measurements whose Ts has come and whose route it is, the stamps' among them,
carry STALE, and so does an open gate (R168, R200, R202). -/
def Dev.staleRoute (d : Dev) (k p : Nat) : Dev :=
  let f := d.fq k
  let gate := (match f.run with | none => false | some run => !run.fin) && f.route == some p
  let on := fun (x : Tmu) => match x.req with
    | none => false
    | some r => d.come r.ts && (x.route == some p || x.stopRoute == some p || (gate && r.stop == .prescaled))
  let d := { d with tmus := d.tmus.map fun ((key, x) : Nat × Tmu) =>
    if key / 34 = k && on x then (key, { x with stale := true }) else (key, x) }
  d.modFq k fun f => { f with
    gate := f.gate.map fun g => if gate && d.come g.g0 then { g with stale := true } else g }

/-- A physical channel is declared UNUSABLE (R236, R275, R321). -/
def Dev.chUnusable (d : Dev) (k p : Nat) (immediate byBist : Bool) : Dev :=
  let was := d.on (CH_PHYS_STAT.UNUSABLE k p)
  let d := (d.set (CH_PHYS_STAT.UNUSABLE k p) 1).set (PAGE_STAT.UNUSABLE (chPg k p)) 1
  let d := if was then d else (d.modPh k p fun x => { x with byBist }).genUp
  (d.staleRoute k p).channelFailed k p immediate

/-- Generators of a channel have no valid table: EG_BAD, which alters what can be placed, and a lane that uses one of them is
moved (R235, R273, R275). -/
def Dev.egBad (d : Dev) (k p mask : Nat) (immediate : Bool) : Dev :=
  let old := d.get (CH_PHYS_STAT.EG_BAD k p)
  let d := if old ||| mask = old then d else (d.set (CH_PHYS_STAT.EG_BAD k p) (old ||| mask)).genUp
  let L := 64 * k + d.get (CH_PHYS_STAT.LANE k p)
  if d.served L = some p && ((d.lane L).egMask &&& mask) ≠ 0 then d.channelFailed k p immediate else d

/-! ### Placing (R261, R264 to R267, R270) -/

/-- What a placement asks for. -/
structure PlaceReq where
  session : Nat
  cls : Nat
  egMask : Nat
  tmuMin : Nat
  lg : Option Nat
  deriving DecidableEq, Repr

/-- The group that the request names is the session's and IDLE (R265). -/
def Dev.lgReady (d : Dev) (q : PlaceReq) : Bool :=
  match q.lg with
  | none => true
  | some g => (d.lg g).owner == some q.session && (d.lg g).st == .idle

/-- The guarantees of the cluster with this one in place of the lane's own fit the valid positions (R270). -/
def Dev.tmuFits (d : Dev) (L n : Nat) : Bool :=
  decide (d.minSum (L / 64) - (d.lane L).tmuForce + n ≤ d.validPos (L / 64))

/-- The lane's requirements are recorded; its own reductions are forgotten, and others may be restored (R270). -/
def Dev.recordReq (d : Dev) (L : Nat) (q : PlaceReq) (met : Bool) : Dev :=
  let d := d.modLane L fun l => { l with
    holder := some q.session, egMask := q.egMask, cls := q.cls, classMet := met, tmuMin := q.tmuMin, tmuForce := q.tmuMin }
  let d := d.modCl (L / 64) fun c => { c with reduced := c.reduced.filter fun j => j != L % 64 }
  (d.restoreGuarantees (L / 64)).genUp

/-- The lane is a member of a group other than the one named (R265). -/
def Dev.otherGroup (d : Dev) (L : Nat) (q : PlaceReq) : Bool :=
  match q.lg, d.groupOf L with
  | some g, some h => g != h
  | _, _ => false

/-- The result of placing one lane, and the device with it placed; nothing about a lane that fails changes (R266, R267).
A lane still being released is no candidate (log entry 25). -/
def Dev.placeLane (d : Dev) (L : Nat) (q : PlaceReq) : PlanLane × Dev :=
  let l := d.lane L
  let ans := fun (code p : Nat) (met : Bool) => ({ lane := L, phys := p, result := code, tmuMin := q.tmuMin, classMet := met } : PlanLane)
  if l.holder.isSome && l.holder != some q.session then (ans 1 0 false, d)
  else if l.releaseT0.isSome || l.freeT0.isSome || l.clearT0.isSome then (ans 2 0 false, d)
  else if !d.lgReady q || d.otherGroup L q then (ans 6 0 false, d)
  else
    let k := L / 64
    match l.holder, d.served L with
    | some _, some p =>
      if d.on (CH_PHYS_STAT.UNUSABLE k p) || (d.get (CH_PHYS_STAT.EG_BAD k p) &&& q.egMask) ≠ 0 then (ans 2 0 false, d)
      else if !d.meetsClass k p q.egMask q.cls then (ans 3 0 false, d)
      else if !d.tmuFits L q.tmuMin then (ans 4 0 false, d)
      else (ans 0 p true, d.recordReq L q true)
    | h, _ =>
      match d.choose L q.egMask q.cls .place with
      | .fail code => (ans code 0 false, d.chWant L q.egMask)
      | .found p met =>
        if !d.tmuFits L q.tmuMin then (ans 4 0 false, d)
        else
          let moving := h.isSome && 2 ≤ d.progState L && d.progState L ≤ 5
          let d := d.recordReq L q met
          let d := if h.isSome then d
            else (d.modLane L fun l => { l with attr := d.attrHeld q.session }).laneHandover L
          if moving then (ans 0 p met, d.swapQueue L .waiting)
          else (ans 0 p met, (d.bind L p).replaced L)

/-- The lanes one after the other. -/
def Dev.placeAll (d : Dev) (q : PlaceReq) (lanes : List Nat) : List PlanLane × Dev :=
  lanes.foldl (fun (acc : List PlanLane × Dev) L =>
    let (r, d) := acc.2.placeLane L q
    (acc.1 ++ [r], d)) ([], d)

/-- The first failure, in lane order. -/
def firstFail (rs : List PlanLane) : Nat := ((rs.find? fun r => r.result != 0).map fun r => r.result).getD 0

/-- Lanes that succeeded. -/
def placedOf (rs : List PlanLane) : List Nat := (rs.filter fun r => r.result == 0).map fun r => r.lane

/-- The placed lanes become members of the group (R265). -/
def Dev.joinGroup (d : Dev) (lg : Option Nat) (lanes : List Nat) : Dev :=
  match lg with
  | none => d
  | some g => d.modLg g fun x => { x with
      members := ordSort (fun a b => decide (a ≤ b)) (x.members ++ lanes.filter fun L => !x.members.contains L) }

/-- A placement: the results of its lanes, whether all or none made it void, and the device with it applied (R264). -/
def Dev.place (d : Dev) (q : PlaceReq) (atomic : Bool) (lanes : List Nat) : List PlanLane × Bool × Dev :=
  let (rs, d') := d.placeAll q lanes
  if (atomic || q.lg.isSome) && firstFail rs ≠ 0 then (rs, true, d) else (rs, false, d'.joinGroup q.lg (placedOf rs))

/-! ### Requests (R263) -/

/-- The requirements of a request. -/
def PeReq.place (r : PeReq) : PlaceReq :=
  { session := r.session, cls := wfield r.word 4 2, egMask := wfield r.word 6 6, tmuMin := wfield r.word 12 4,
    lg := if wbit r.word 22 then some (wfield r.word 16 6) else none }

/-- PE_REQ.OP of a request. -/
def PeReq.op (r : PeReq) : Nat := wfield r.word 0 4

/-- CLASS 3 and TMU_MIN above 8 are invalid. -/
def PeReq.bad (r : PeReq) : Bool := wfield r.word 4 2 == 3 || decide (8 < wfield r.word 12 4)

/-- The channels that a session's PE_REQ_LANES names, in rising order. -/
def Dev.reqLanes (d : Dev) (ss : Nat) : List Nat :=
  (List.range 1024).filter fun L => (d.reg (PE_REQ_LANES ss (L / 32))).getLsbD (L % 32)

/-- A GO queues the session's request with its arguments as they stand. -/
def Dev.peGo (d : Dev) (ss : Nat) (val : Word) : Dev :=
  let r : PeReq := {
    session := ss, word := val, lanes := d.reqLanes ss, hbm := d.reg (PE_HBM_REQ ss),
    rate := d.get (PE_HBM_RATE.MBPS ss), handle := d.get (PE_HBM_HANDLE.HANDLE ss), origin := d.up }
  ({ d with pe := { d.pe with queue := d.pe.queue ++ [r] } } : Dev).set (PE_REQ_STAT.STATE ss) 1

/-- A write of PE_REQ: a GO queues the session's request, or is refused while one is queued or running (R263); should that
one end in this fabric cycle, the GO starts again (R20). -/
def Dev.peReqWrite (d : Dev) (ss : Nat) (val : Word) : Dev :=
  d.hostWrite ss pePage 0x140 [val] .any (wbit val 31) fun d =>
    if wbit val 31 && d.pe.queue.any fun r => r.session == ss then
      (d.stick (PE_REQ_STAT.REFUSED ss)).askAgain (0x4140 + b2n (d.on (PE_REQ_STAT.REFUSED ss))) ss val
    else
      let d := d.plainWrite ss pePage 0x140 val
      if wbit val 31 then d.peGo ss val else d

/-- A refused GO starts after all: it is written, and REFUSED is as it was before it (R20). -/
def Dev.peRedo (d : Dev) (ss : Nat) (val : Word) (refused : Nat) : Dev :=
  if d.pe.queue.any fun r => r.session == ss then d
  else ((d.set (PE_REQ_STAT.REFUSED ss) refused).plainWrite ss pePage 0x140 val).peGo ss val

/-- PE_REQUEST_SUBMIT (R263). -/
def execPeRequestSubmit (ss : Sess) (val : Word) (s : State) : Result := s.on fun d => d.peReqWrite ss val

/-- The request at the head of the queue has ended. -/
def Dev.peEnd (d : Dev) (r : PeReq) (result count : Nat) : Dev :=
  let d := { d with pe := { d.pe with queue := d.pe.queue.drop 1 } }
  let d := (d.set (PE_REQ_STAT.STATE r.session) 3).stick (PE_REQ_STAT.DONE r.session)
  let d := (d.set (PE_REQ_STAT.RESULT r.session) result).set (PE_REQ_STAT.COUNT r.session) count
  let d := d.irqAt pePage r.session 0
  (d.startAgain 0x4140 fun d ss val => d.peRedo ss val 0).startAgain 0x4141 fun d ss val => d.peRedo ss val 1

/-- The engine serves the request at the head of its queue, where that is of kind `ok`. -/
def Dev.peServe (d : Dev) (ok : PeReq → Bool) (f : Dev → PeReq → Dev) : Dev :=
  match d.pe.queue with
  | [] => d
  | r :: _ => if ok r then f d r else d

/-- PLACE (R264 to R267). -/
def Dev.pePlace (d : Dev) (r : PeReq) : Dev :=
  if r.bad then d.peEnd r 9 0
  else
    let (rs, void, d) := d.place r.place (wbit r.word 23) r.lanes
    d.peEnd r (firstFail rs) (if void then 0 else (placedOf rs).length)

/-- PE_PLACE (R264 to R267, R270). -/
def execPePlace (s : State) : Result := s.on fun d => d.peServe (fun r => r.op == 1) Dev.pePlace

/-- MAQUETTE: the same result, applied to nothing (R273). -/
def Dev.peMaquette (d : Dev) (r : PeReq) : Dev :=
  if r.bad then d.peEnd r 9 0
  else
    let q := r.place
    let (rs, void, _) := d.place q (wbit r.word 23) r.lanes
    let plan : Plan := { lanes := rs, egMask := q.egMask, cls := q.cls, lg := q.lg, void := void }
    let d : Dev := { d with pe := { d.pe with plans := tput (fun _ => {}) d.pe.plans r.session plan } }
    (d.set (PE_PLAN_GEN.GEN r.session) (d.get PE_GEN.GEN)).peEnd r (firstFail rs) (if void then 0 else (placedOf rs).length)

/-- PE_MAQUETTE (R273). -/
def execPeMaquette (s : State) : Result := s.on fun d => d.peServe (fun r => r.op == 2) Dev.peMaquette

/-- A planned lane can still take its channel: no lane is placed in a cluster without power or an aligned tree (R29). -/
def Dev.planFits (d : Dev) (ss : Nat) (x : PlanLane) : Bool :=
  let l := d.lane x.lane
  let k := x.lane / 64
  x.result != 0 || (d.powered k && d.on (CL_STATE.TREE_ALIGNED k)) && ((l.holder == some ss && d.served x.lane == some x.phys)
    || ((l.holder.isNone || (l.holder == some ss && (d.served x.lane).isNone)) && l.releaseT0.isNone && l.freeT0.isNone
        && l.clearT0.isNone && d.chFree k x.phys 0 .place))

/-- One lane of a plan is applied. -/
def Dev.applyLane (d : Dev) (q : PlaceReq) (x : PlanLane) : Dev :=
  let L := x.lane
  if x.result ≠ 0 then d
  else
    let l := d.lane L
    let q := { q with tmuMin := x.tmuMin }
    let moving := l.holder.isSome && 2 ≤ d.progState L && d.progState L ≤ 5
    let d := d.recordReq L q x.classMet
    let d := if l.holder.isSome then d else (d.modLane L fun l => { l with attr := d.attrHeld q.session }).laneHandover L
    if d.served L = some x.phys then d
    else if moving then d.swapQueue L .waiting
    else (d.bind L x.phys).replaced L

/-- APPLY: the last Maquette exactly as computed, while PE_GEN still equals PE_PLAN_GEN (R274); a lane that has become a
member of another group meanwhile fails it with PE_LG (R265). -/
def Dev.peApply (d : Dev) (r : PeReq) : Dev :=
  let ss := r.session
  let plan := tget (fun _ => {}) d.pe.plans ss
  let q : PlaceReq := { session := ss, cls := plan.cls, egMask := plan.egMask, tmuMin := 0, lg := plan.lg }
  if plan.lanes.isEmpty || d.get PE_GEN.GEN ≠ d.get (PE_PLAN_GEN.GEN ss) || !plan.lanes.all fun x => d.planFits ss x then
    d.peEnd r 7 0
  else if plan.void then d.peEnd r (firstFail plan.lanes) 0
  else if !d.lgReady q || plan.lanes.any fun x => x.result == 0 && d.otherGroup x.lane q then d.peEnd r 6 0
  else
    let d := plan.lanes.foldl (fun d x => d.applyLane q x) d
    (d.joinGroup q.lg (placedOf plan.lanes)).peEnd r (firstFail plan.lanes) (placedOf plan.lanes).length

/-- PE_APPLY (R274). -/
def execPeApply (s : State) : Result := s.on fun d => d.peServe (fun r => r.op == 3) Dev.peApply

/-- A lane's release is set for T_r, 16 T0 after the write (R262). -/
def Dev.askRelease (d : Dev) (L t : Nat) : Dev :=
  d.modLane L fun l => if l.releaseT0.isSome then l else { l with releaseT0 := some (t + 16) }

/-- RELEASE of the lanes that the session holds (R264). -/
def Dev.peRelease (d : Dev) (r : PeReq) : Dev :=
  let other := r.lanes.any fun L => (d.lane L).holder.isSome && (d.lane L).holder != some r.session
  let mine := r.lanes.filter fun L => (d.lane L).holder == some r.session
  if other && wbit r.word 23 then d.peEnd r 1 0
  else (mine.foldl (fun d L => d.askRelease L r.origin) d).peEnd r (if other then 1 else 0) mine.length

/-- PE_RELEASE (R262, R264). -/
def execPeRelease (s : State) : Result := s.on fun d => d.peServe (fun r => r.op == 4) Dev.peRelease

/-- PE_INVALID_OP (R263). -/
def execPeInvalidOp (s : State) : Result :=
  s.on fun d => d.peServe (fun r => r.op == 0 || decide (7 ≤ r.op)) fun d r => d.peEnd r 9 0

/-! ### HBM regions (R271, R272, R359) -/

/-- Granules of the allocatable region (R25). -/
abbrev hbmGranules : Nat := 7936

/-- Bytes of a granule. -/
abbrev granule : Nat := 0x200000

/-- A granule range is free of allocations. -/
def Dev.granFree (d : Dev) (base n : Nat) : Bool :=
  d.pe.allocs.all fun a => decide (base + n ≤ a.base) || decide (a.base + a.count ≤ base)

/-- A window range of a session is free. -/
def Dev.windowFree (d : Dev) (ss base n : Nat) : Bool :=
  d.pe.allocs.all fun a => a.session != ss || decide (base + n ≤ a.window) || decide (a.window + a.count ≤ base)

/-- Granules allocated, all of them and for EVS regions. -/
def Dev.granUsed (d : Dev) : Nat := d.pe.allocs.foldl (fun n a => n + a.count) 0
def Dev.evsUsed (d : Dev) : Nat := d.pe.allocs.foldl (fun n a => if a.kind = 0 then n + a.count else n) 0

/-- Ring rates declared, MB/s. -/
def Dev.ratesUsed (d : Dev) : Nat := d.pe.allocs.foldl (fun n a => if a.kind = 1 then n + a.rate else n) 0

/-- Where an allocation of `n` granules goes: EVS from the bottom upward, the others from the top downward (R271). -/
def Dev.granPlace (d : Dev) (evs : Bool) (n : Nat) : Option Nat :=
  if hbmGranules < n then none
  else
    let l := List.range (hbmGranules - n + 1)
    (if evs then l else l.reverse).find? fun b => d.granFree b n

/-- PE_HBM_FREE shows what is left. -/
def Dev.showFree (d : Dev) : Dev :=
  (d.set PE_HBM_FREE.GRANULES (hbmGranules - d.granUsed)).set PE_HBM_FREE.EVS (128 - d.evsUsed)

/-- A handle that no allocation has, from `h` on. -/
def Dev.newHandle (d : Dev) : Nat → Nat → Nat
  | 0, h => h
  | n + 1, h => if d.pe.allocs.any fun a => a.handle == h then d.newHandle n ((h + 1) % 0x10000) else h

/-- HBM_ALLOC (R271, R359). -/
def Dev.peAlloc (d : Dev) (r : PeReq) : Dev :=
  let ss := r.session
  let kind := wfield r.hbm 0 2
  let n := wfield r.hbm 2 13
  let at_ := d.granPlace (kind == 0) n
  let window := if kind = 0 then some 0 else (List.range 8192).find? fun w => 128 ≤ w && w + n ≤ 8192 && d.windowFree ss w n
  if kind = 3 || n = 0 || hbmGranules < n then d.peEnd r 9 0
  else if kind = 0 && d.pe.allocs.any fun a => a.session == ss && a.kind == 0 then d.peEnd r 12 0
  else if kind = 0 && 128 < d.evsUsed + n then d.peEnd r 10 0
  else if kind = 1 && d.get PE_HBM_BUDGET.MBPS < d.ratesUsed + r.rate then d.peEnd r 11 0
  else match at_, window with
    | some base, some window =>
      let handle := d.newHandle 0x10000 (d.pe.nextHandle % 0x10000)
      let a : Alloc := { handle, session := ss, kind, base, count := n, window, rate := if kind = 1 then r.rate else 0 }
      let d : Dev := { d with pe := { d.pe with allocs := d.pe.allocs ++ [a], nextHandle := handle + 1 } }
      let d := (d.set (PE_HBM_HANDLE.HANDLE ss) handle).set (PE_HBM_ADDR.OFFSET ss) (granule * window)
      (d.showFree.genUp).peEnd r 0 0
    | _, _ => d.peEnd r 10 0

/-- PE_HBM_ALLOC (R271, R359). -/
def execPeHbmAlloc (s : State) : Result := s.on fun d => d.peServe (fun r => r.op == 5) Dev.peAlloc

/-- The allocation's granules cannot be freed now: a program of the session is past IDLE, or a ring points into them
(R272). -/
def Dev.allocBusy (d : Dev) (a : Alloc) : Bool :=
  if a.kind = 0 then d.lanes.any fun ((L, l) : Nat × Lane) => l.holder == some a.session && d.progBusy L
  else if a.kind = 1 then
    d.rings.any fun ((_, r) : Nat × Option Ring) => match r with
      | none => false
      | some r => r.owner == a.session && decide (a.window * granule ≤ r.base)
          && decide (r.base < (a.window + a.count) * granule)
  else false

/-- The allocation leaves the table and the window. -/
def Dev.allocDrop (d : Dev) (a : Alloc) : Dev :=
  let d : Dev := { d with pe := { d.pe with allocs := d.pe.allocs.filter fun x => x != a } }
  let out := fun (x : Nat) => decide (8 * x < a.base * granule) || decide ((a.base + a.count) * granule ≤ 8 * x)
  let d := { d with poison := d.poison.filter out }
  d.showFree.genUp

/-- The granules of an allocation are cleared to zero before they are used again (R272). -/
def State.allocClear (s : State) (a : Alloc) : State :=
  { s with hbm := clearBytes s.hbm (a.base * granule) (a.count * granule) }

/-- PE_HBM_FREE (R272): PE_BUSY while the region is in use, PE_INVALID for a handle that names none of the
session's. -/
def execPeHbmFree (s : State) : Result :=
  match s.pe.queue with
  | [] => .next s
  | r :: _ =>
    if r.op ≠ 6 then .next s
    else match s.pe.allocs.find? fun a => a.handle == r.handle && a.session == r.session with
      | none => s.on fun d => d.peEnd r 9 0
      | some a =>
        if s.toDev.allocBusy a then s.on fun d => d.peEnd r 8 0
        else (s.allocClear a).on fun d => (d.allocDrop a).peEnd r 0 0

/-! ### The release of a lane takes effect (R262) -/

/-- The lane section and the program registers return to their reset values; the levels at the balls are what they are.
Which channel still drives the rest edges is kept in LANE_SERVED's place until that is freed, unseen (R262). -/
def Dev.laneRegsReset (d : Dev) (L : Nat) : Dev :=
  let b := lanePg L
  let stat := d.reg (LANE_STAT L) &&& 0x3800
  let served := d.reg (LANE_SERVED L)
  let keep := fun (key : Nat) =>
    let a := key % 0x4000000
    !(decide (b + 0x100 ≤ a) && decide (a < b + 0x200)) && a != b + 0x18 && a != b + 0x1C
  let d := { d with
    regs := d.regs.filter fun ((key, _) : Nat × Word) => keep key
    hold := d.hold.filter fun ((key, _) : Nat × Word) => keep key
    capt := d.capt.filter fun ((key, _) : Nat × Option Word) => keep key }
  (d.setReg (LANE_STAT L) stat).setReg (LANE_SERVED L) served

/-- A move of the lane, running or in wait, is given up (R262, R280). -/
def Dev.dropMoves (d : Dev) (L : Nat) : Dev :=
  let k := L / 64
  let d := match (d.cl k).swap with
    | none => d
    | some w => if w.lane = L % 64 then d.swapAbandon k false else d
  d.modCl k fun c => { c with swapQ := c.swapQ.filter fun w => w.1 != L % 64 }

/-- The lane leaves its lock group (R262). -/
def Dev.leaveGroup (d : Dev) (L : Nat) : Dev :=
  match d.groupOf L with
  | none => d
  | some g => (d.modLg g fun x => { x with members := x.members.filter fun m => m != L }).groupCheck g

/-- At T_r the lane is released (R262): its move is abandoned, its program stops, its candidates go and rest edges are
made, registers and contexts return to reset, its group and its Armature ownership end. Only the hold of a calibration that
runs on its channel goes on, until the run has ended (R253). -/
def Dev.laneRelease (d : Dev) (L : Nat) : Dev :=
  match (d.lane L).releaseT0 with
  | none => d
  | some t =>
    if d.up < t then d
    else
      let k := L / 64
      let tr := t + d.epoch - d.up
      let d := (d.dropMoves L).leaveGroup L
      let d := (d.modCl k fun c => { c with pend2 := c.pend2.filter fun r => r.2.1 != L % 64 }).showReq k
      let d := d.laneRegsReset L
      let l := d.lane L
      let rest := fun (eg : Nat) => ({ eg, sched := tq (tr + 4), lane := tq (tr + 4), src := .rest } : Cand)
      let fresh : Lane := {}
      let d := d.setLane L { fresh with
        cands := [rest 1, rest 3], flight := l.flight.map fun f => { f with uses := [] }, fired := l.fired,
        drvLast := l.drvLast, denLast := l.denLast, cmp := l.cmp, cmpCycle := l.cmpCycle, retired := l.retired,
        badCtx := l.badCtx,
        nextId := l.nextId, freeT0 := some (t + 4), clearT0 := some t }
      let d := (d.modCl k fun c => { c with reduced := c.reduced.filter fun j => j != L % 64 }).restoreGuarantees k
      let d := (d.laneHandover L).genUp
      match d.run k with
      | none => d
      | some r => if r.held = some L then d.setHold L (2 ^ holdStale) else d

/-- LANE_RELEASE_EFFECT (R262). -/
def execLaneReleaseEffect (L : Lch) (s : State) : Result := s.on fun d => d.laneRelease L

/-- The channel of a released lane is freed once the rest edges have reached the ball (R262). -/
def Dev.freeDue (d : Dev) (L : Nat) : Dev :=
  let l := d.lane L
  match l.freeT0 with
  | none => d
  | some t =>
    if d.up < t || !l.cands.isEmpty || l.flight.any fun f => decide (tq d.epoch ≤ f.lane) then d
    else
      let d := (d.unbind L).modLane L fun l => { l with freeT0 := none }
      d.setReg (LANE_SERVED L) (regReset (LANE_SERVED L))

/-- Channels of released lanes come free as time passes. -/
def Dev.freeAll (d : Dev) : Dev :=
  (d.lanes.filterMap fun ((L, l) : Nat × Lane) => if l.freeT0.isSome then some L else none).foldl Dev.freeDue d

/-- CONTEXT_CLEAR_DONE: the lane's contexts are zero and it may be placed again (R262). -/
def execContextClearDone (L : Lch) (s : State) : Result := s.on fun d =>
  match (d.lane L).clearT0 with
  | none => d
  | some _ => (d.modLane L fun l => { l with clearT0 := none, ctxs := [] }).freeDue L

/-- A write of PE_CFG by the page's owner; a change raises PE_GEN (R273). -/
def Dev.peCfgWrite (d : Dev) (ss : Nat) (val : Word) : Dev :=
  d.hostWrite ss pePage 0x100 [val] .owner false fun d =>
    let old := d.reg PE_CFG
    let d := d.plainWrite ss pePage 0x100 val
    let d := d.set PE_CFG.SHADOW_PERIODS (max 4 (d.get PE_CFG.SHADOW_PERIODS))
    let d := d.set PE_CFG.SPARE_RESERVE (min 4 (d.get PE_CFG.SPARE_RESERVE))
    if d.reg PE_CFG = old then d else d.genUp

end Sys2Proof.Machine
end

