-- ==== Sys2Proof/Machine/Swap.lean ====
section
/-! DEFINITION. Shadow swaps (R276 to R284), the handover of a pool position to another TMU (R269), and what time alone
brings about. -/

namespace Sys2Proof.Machine

/-! ### Which swap comes next (R276, R283, R284) -/

/-- The lanes of cluster `k` that are UNPLACED and wait for a channel: R283 places them with the capability and
AUTO_REPLACE. -/
def Dev.waitingLanes (d : Dev) (k : Nat) : List (Nat × SwapKind) :=
  if d.canSwap && d.on PE_CFG.AUTO_REPLACE then
    d.lanes.filterMap fun ((L, l) : Nat × Lane) => if L / 64 = k && l.unplaced then some (L % 64, .waiting) else none
  else []

/-- Caliper's run in the cluster is on the channel: no lane moves to it before the run has ended (R249). -/
def Dev.calWants (d : Dev) (k p : Nat) : Bool :=
  match d.run k with
  | none => false
  | some r => !r.unit.tmu && r.unit.unit == p && decide (r.unit.part < 7)

/-- The lanes of cluster `k` that a spare serves: R284 brings them home. -/
def Dev.homeLanes (d : Dev) (k : Nat) : List (Nat × SwapKind) :=
  if d.canSwap && d.on PE_CFG.RETURN_HOME then
    d.lanes.filterMap fun ((L, l) : Nat × Lane) =>
      if L / 64 = k && l.holder.isSome && l.releaseT0.isNone && decide (64 ≤ (d.served L).getD 0) && !d.calWants k (L % 64) then
        some (L % 64, .home) else none
  else []

/-- The purpose under which a swap's channel is chosen (R266). -/
def SwapKind.purpose : SwapKind → Purpose
  | .immediate | .deferred => .replace
  | .waiting => .place
  | .rotation | .home => .move

/-- The channel that a swap would take now: none while the lane is in a hold other than its own move's, or while no
candidate is found; a return home takes the home channel alone, in the lane's class (R276, R280, R284). -/
def Dev.swapChoice (d : Dev) (k : Nat) (w : Nat × SwapKind) : Option (Nat × Bool) :=
  let L := 64 * k + w.1
  let l := d.lane L
  let set := d.get (LANE_STAT.HOLD_SET L)
  let own := w.2 == .immediate || w.2 == .waiting
  let held := if own then set - (if set / 4 % 2 = 1 then 4 else 0) else set
  if held ≠ 0 || l.holder.isNone then none
  else match d.choose L l.egMask l.cls w.2.purpose with
    | .fail _ => none
    | .found p met => if w.2 == .home && !(p == w.1 && met) then none else some (p, met)

/-- The swaps in wait in the order in which they are served (R276). -/
def Dev.swapOrder (d : Dev) (k : Nat) : List (Nat × SwapKind) :=
  let all := (d.cl k).swapQ ++ d.waitingLanes k ++ d.homeLanes k
  ordSort (fun a b => decide (100 * a.2.rank + a.1 ≤ 100 * b.2.rank + b.1)) all

/-- Caliper yields a channel that it holds (R253). -/
def Dev.yieldChannel (d : Dev) (k p : Nat) : Dev :=
  match d.run k with
  | none => d
  | some r => if !r.unit.tmu && r.unit.unit == p then d.calYield k else d

/-- A slice on the chosen channel gives way: to an IMMEDIATE swap it aborts, to any other it does not start (R303, R312). -/
def Dev.swapServe (d : Dev) (k s : Nat) (kind : SwapKind) : Dev :=
  if !d.on (CH_PHYS_STAT.BIST_ACTIVE k s) then d
  else if kind == .immediate then
    [0, 1].foldl (fun d i =>
      match d.slice i with
      | none => d
      | some sl => if sl.tgt.within 5 k (some s) then d.setSlice i (some { sl with abort := true }) else d) d
  else d.serveRegion 5 k s

/-- SWAP_START: the cluster's next swap begins, and its channel becomes a shadow (R276, R277). -/
def Dev.swapStart (d : Dev) (k : Nat) : Dev :=
  if (d.cl k).swap.isSome || !d.powered k then d
  else match (d.swapOrder k).find? fun w => (d.swapChoice k w).isSome with
    | none => d
    | some w =>
      match d.swapChoice k w with
      | none => d
      | some (s, _) =>
        let d := (d.yieldChannel k s).swapServe k s w.2
        let d := d.modCl k fun c => { c with
          swap := some { lane := w.1, kind := w.2, spare := s, startT0 := d.up }
          swapQ := c.swapQ.filter fun x => x.1 != w.1 }
        let d := (d.set (CH_PHYS_STAT.ROLE k s) 3).set (CH_PHYS_STAT.LANE k s) w.1
        ((d.set (CH_PHYS_STAT.TRACK k s) (s - 64)).routePaths k s).set PE_STAT.SWAPS_ACTIVE (d.get PE_STAT.SWAPS_ACTIVE + 1)

/-- SWAP_START (R276, R277). -/
def execSwapStart (k : Clu) (s : State) : Result := s.on fun d => d.swapStart k

/-- SWAP_LOAD_DONE (R277): a load waits for the restore of a slice on the channel (R303). -/
def execSwapLoadDone (k : Clu) (s : State) : Result := s.on fun d =>
  match (d.cl k).swap with
  | none => d
  | some w => if w.loaded || d.regionIn 5 k w.spare then d else d.modCl k fun c => { c with swap := some { w with loaded := true, loadT0 := d.up } }

/-! ### The flip (R277 to R281) -/

/-- B: the boundary after the compared periods; where the lane's program is not RUNNING, the first T0 that lies 4 T0 for each
of them after the load (R277, R279). -/
def Dev.flipB (d : Dev) (L : Nat) (w : Swap) : Option Nat :=
  match w.b with
  | some b => some b
  | none =>
    if d.progState L = 4 then none
    else some (tq (w.loadT0 + 4 * d.shadowPeriods w.kind + d.epoch - d.up))

/-- F as it stands: shown by an edge, or the first free point of the grid by what has been committed so far (R278). -/
def Dev.flipF (d : Dev) (L : Nat) (w : Swap) : Option Nat :=
  match w.flipAt, d.flipB L w with
  | some f, _ => some f
  | none, none => none
  | none, some b => flipPoint b (w.times ++ d.drvDenTimes L)

/-- At F the spare is connected, and the old channel drives nothing (R277, R281). -/
def Dev.flipTo (d : Dev) (k : Nat) (w : Swap) : Dev :=
  let L := 64 * k + w.lane
  let met := d.meetsClass k w.spare (d.lane L).egMask (d.lane L).cls
  let d := ((d.unbind L).bind L w.spare).replaced L
  let d := d.modLane L fun l => { l with classMet := met }
  let d := d.modCl k fun c => { c with swap := none }
  let d := (d.set PE_STAT.SWAPS_ACTIVE (d.get PE_STAT.SWAPS_ACTIVE - 1)).wrapUp PE_SWAP_CNT.DONE
  (d.irqAll pePage (d.holderL L) 1).genUp

/-- At F a shadow that agreed is connected. A difference, as soon as there is one, makes a DEFERRED swap IMMEDIATE, whose flip
follows at the next boundary, and ends any other shadow (R277, R278, R280). -/
def Dev.swapFlip (d : Dev) (k : Nat) (agree : Bool) : Dev :=
  match (d.cl k).swap with
  | none => d
  | some w =>
    let L := 64 * k + w.lane
    if !w.loaded then d
    else if agree || w.kind == .immediate || w.kind == .waiting then
      match d.flipF L w with
      | none => d
      | some f => if f ≤ tq d.epoch then d.flipTo k w else d
    else if w.kind == .deferred then
      let d := d.modCl k fun c => { c with swap := some { w with
        kind := .immediate, seen := 0, loadT0 := d.up, b := none, times := [], flipAt := none } }
      (d.unbind L).holdEnter L holdUnplaced
    else d.swapAbandon k false

/-- SWAP_FLIP (R277 to R281). -/
def execSwapFlip (k : Clu) (agree : Bool) (s : State) : Result := s.on fun d => d.swapFlip k agree

/-! ### A pool position passes to another TMU (R269, R270) -/

/-- Caliper yields the spare TMU that it holds, and its run ends; a slice on a spare aborts (R269, R312). -/
def Dev.yieldTmu (d : Dev) (k : Nat) : Dev :=
  let d := ((List.range 34).filter fun t => (d.posOf k t).isNone).foldl (fun d t => d.serveRegion 6 k t) d
  match d.run k with
  | none => d
  | some r => if r.tmus.any fun t => (d.posOf k t).isNone then d.calYield k else d

/-- The position of an UNUSABLE TMU goes to the best spare once its record is written or dropped; with none it stays
invalid. Spares also fill positions that are invalid (R269, R270). -/
def Dev.handPosition (d : Dev) (k q : Nat) : Dev :=
  let give := fun (d : Dev) =>
    let d := if (d.tmuSpares k).isEmpty then d.yieldTmu k else d
    match d.tmuSpares k with
    | [] => (d.posLose k q)
    | t :: _ => ((d.posGive k q t).genUp).restoreGuarantees k
  match d.posTmu k q with
  | none => if (d.tmuSpares k).isEmpty then d else give d
  | some t => if d.get (TMU_STAT.ROLE k t) = 3 && d.tmuFree k t then give d else d

/-- TMU_POSITION_HANDOVER (R172, R269). -/
def execTmuPositionHandover (k : Clu) (q : Fin 32) (s : State) : Result := s.on fun d => d.handPosition k q

/-! ### Time -/

/-- What falls due on a lane as time passes: strobes that a hold discarded, and an underrun that has been decided (R119,
R130). -/
def Dev.laneFalls (d : Dev) (L : Nat) : Dev := (d.lostFall L).underFall L

/-- Every lane on which something may fall due. -/
def Dev.lanesFall (d : Dev) : Dev :=
  (d.lanes.filter fun ((_, l) : Nat × Lane) => !l.lost.isEmpty || l.under.isSome).foldl (fun d x => d.laneFalls x.1) d

/-- What one idle step brings: a T0, or a cycle of what drives the count, what falls due on lanes, the channels that come
free, and the lock groups that a STOP has ended. -/
def Dev.idle (d : Dev) : Dev := d.tick.lanesFall.freeAll.groupsEnd

end Sys2Proof.Machine
end

