-- ==== Sys2Proof/Machine/Caliper.lean ====
section
/-! DEFINITION. Caliper (09): commands (R260), gathering of units (R239, R249, R250), passes and acceptance (R234 to
R241), trees (R245), user banks (R254 to R257) and background gathering (R258). -/

namespace Sys2Proof.Machine

/-- The session has a command queued or running. -/
def Dev.calPending (d : Dev) (ss : Nat) : Bool :=
  (d.cal.queue.any fun c => c.session == some ss) || d.cal.jobs.any fun ((_, j) : Nat × CalJob) => j.cmd.session == some ss

/-! ### Units of a command (R244, R260) -/

/-- The generators of a channel. -/
def genUnits (k p : Nat) : List CalUnit :=
  [0, 1, 2, 3, 4, 5].map fun e => { cluster := k, tmu := false, unit := p, part := e }

/-- The lane positions that a command names. -/
def CalCmd.positions (c : CalCmd) : List Nat := (List.range 64).filter fun j => c.lanes / 2 ^ j % 2 == 1

/-- The lane positions of the command that have a channel, each with it. -/
def Dev.calChannels (d : Dev) (c : CalCmd) : List (Nat × Nat) :=
  c.positions.filterMap fun j => (d.served (64 * c.cluster + j)).map fun p => (j, p)

/-- The units that a command runs (R260); the paths of CLUSTER are the home routes of the lanes, where no session holds them
as the unit starts (R244; log entry 79). -/
def Dev.calUnits (d : Dev) (c : CalCmd) : List CalUnit :=
  let k := c.cluster
  if c.op = 1 then (d.calChannels c).flatMap fun q => genUnits k q.2
  else if c.op = 2 then
    (List.range 68).flatMap (genUnits k) ++ (List.range 34).map (densUnit k) ++ (List.range 64).map fun j => pathUnit k j j
  else if c.op = 3 || c.op = 4 then (List.range 34).map (densUnit k)
  else if c.op = 5 then (d.calChannels c).map fun q => pathUnit k q.2 q.1
  else [treeUnit k]

/-! ### Results of units (R234 to R236) -/

/-- Caliper declares the channel or the TMU that holds a unit UNUSABLE; for a tree it raises the alarm (R236). -/
def Dev.calUnusable (d : Dev) (u : CalUnit) (code : Nat) : Dev :=
  let k := u.cluster
  if u.part = 7 then d.set (TB_TREE_PHASE.DRIFT_ALARM k) 1
  else
    let holder := if u.tmu then [] else
      (match d.get (CH_PHYS_STAT.ROLE k u.unit) with
        | 0 => []
        | _ => d.holderL (64 * k + d.get (CH_PHYS_STAT.LANE k u.unit)))
    let d := (d.raise 3 0x46 2 (u.rej code) holder).irqAll calPage (optL (d.owner calPage)) 3
    if u.tmu then d.tmuUnusable k u.unit false else d.chUnusable k u.unit false false

/-- The result of a unit's run, with its count of consecutive failures and what follows from that (R235, R236). -/
def Dev.unitDone (d : Dev) (k : Nat) (cmd : Bool) (u : CalUnit) (code : Nat) : Dev :=
  let counted := code = 1 || code = 3 || code = 4
  let fails := (d.unitInfo u).fails
  let fails' := if code = 0 then 0 else if counted then min 3 (fails + 1) else fails
  let d := (d.modInfo u fun x => { x with fails := fails' }).unitNote k cmd u code
  let d := if u.tmu && u.part = 6 then d.modInfo { u with sub := 16383 } fun x => { x with last := code } else d
  let d := if code = 4 && !u.tmu && decide (u.part < 6) then d.egBad k u.unit (2 ^ u.part) false else d
  if counted && fails' = 3 && fails ≠ 3 then d.calUnusable u code else d

/-- The run's units end with a code. -/
def Dev.runDone (d : Dev) (k : Nat) (r : CalRun) (code : Nat) : Dev :=
  r.parts.foldl (fun d u => d.unitDone k true u code) d

/-! ### Commands start (R305) -/

/-- The place in `jobs` that a command takes. -/
def CalCmd.slot (c : CalCmd) : Nat := if c.op = 7 || c.op = 8 then storeJob else c.cluster

/-- The command can start: its place is free and, where it runs in a cluster, the cluster is powered. -/
def Dev.calReady (d : Dev) (c : CalCmd) : Bool :=
  (d.job c.slot).isNone && (c.op == 7 || c.op == 8 || d.powered c.cluster)

/-- The user tables in force, as a store writes them: channels, routes, interpolators and TMU paths (R254). -/
def Dev.snapshot (d : Dev) : List BankRec :=
  let chs := d.phys.flatMap fun ((key, x) : Nat × Phys) =>
    let k := key / 68
    let p := key % 68
    let gens := ((genUnits k p).filter fun u => x.hasUser u.part).map fun u =>
      let e := u.part
      ({ unit := u, tu := x.tuOf e, made := tget (fun _ => 0) x.made e,
         vals := ((List.range 64).map fun s => tget (fun _ => 0) x.userAch (64 * e + s))
           ++ (List.range 256).map fun i => tget (fun _ => 0) x.userPd (256 * e + i) } : BankRec)
    let paths := x.userPath.filterMap fun ((j, v) : Nat × Option PathSet) => v.map fun q =>
      ({ unit := pathUnit k p j, tu := q.tu, made := q.made, vals := [q.drv, q.den, q.cmp] } : BankRec)
    gens ++ paths
  let tmus := d.tmus.flatMap fun ((key, x) : Nat × Tmu) =>
    let k := key / 34
    let t := key % 34
    let dens := ([0, 1].filter fun i => tget (fun _ => 0) x.cdMade i != 0).map fun i =>
      ({ unit := { densUnit k t with part := i }, tu := tget (fun _ => 0) x.cdTu i,
         made := tget (fun _ => 0) x.cdMade i - 1,
         vals := (List.range 4096).map fun c => ((tget (fun _ => 0) x.cdUser (4096 * i + c) : Nat) : Int) } : BankRec)
    let paths := x.pathUser.filterMap fun ((n, v) : Nat × Option (Int × Int × Nat)) => v.map fun q =>
      ({ unit := { densUnit k t with part := 6, sub := n }, tu := q.2.1, made := q.2.2, vals := [q.1] } : BankRec)
    dens ++ paths
  chs ++ tmus

/-- Bank B is in force: valid, with the higher SEQ; A on a tie (R256). -/
def Caliper.bInForce (c : Caliper) : Bool := c.bankB.valid && (!c.bankA.valid || decide (c.bankA.seq < c.bankB.seq))

/-- A store begins: its bank and the snapshot of the tables in force (R255). -/
def Dev.storeBegin (d : Dev) (session : Option Nat) (restore : Bool) : Dev :=
  let st : Store := { bankB := d.cal.bankA.valid && !d.cal.bInForce, session, restore, body := if restore then [] else d.snapshot }
  (d.nvmAsk 2 fun d => { d with cal := { d.cal with store := some st } }).set CAL_STAT.STORING 1

/-- A command starts: its session sees it running, with its counts at 0. -/
def Dev.calBegin (d : Dev) (c : CalCmd) : Dev :=
  let d := match c.session with
    | none => d
    | some ss => ((d.set (CAL_CMD_STAT.STATE ss) 2).set (CAL_CMD_CNT.ACCEPTED ss) 0).set (CAL_CMD_CNT.REJECTED ss) 0
  let d := d.setJob c.slot { cmd := c, todo := if c.slot = storeJob then [] else d.calUnits c }
  if c.slot = storeJob then d.storeBegin c.session (c.op == 8) else d

/-- Take commands from the queue and from Plinth's list alternately, each in arrival order, as far as they can start
(R305). -/
def Dev.calPump (d : Dev) : Nat → Dev
  | 0 => d
  | n + 1 =>
    let q := d.cal.queue.find? d.calReady
    let a := if d.on PWR_STAT.THROTTLE then none else d.cal.auto.find? d.calReady
    let auto := a.isSome && (d.cal.takeAuto || q.isNone)
    match (if auto then a else q) with
    | none => d.showCal
    | some c =>
      let cal := if auto then { d.cal with auto := d.cal.auto.filter fun x => x != c, takeAuto := false }
        else { d.cal with queue := d.cal.queue.filter fun x => x != c, takeAuto := true }
      Dev.calPump (({ d with cal } : Dev).calBegin c) n

/-- An automatic run of the cluster is queued or runs (R305). -/
def Dev.autoWaits (d : Dev) (k : Nat) : Bool :=
  (d.cal.auto.any fun c => c.cluster == k)
    || (match d.job k with | none => false | some j => j.cmd.session.isNone && j.cmd.op == 2)

/-- Plinth queues CLUSTER in ROTATE mode for clusters that have no such run yet (R259). -/
def Dev.autoQueue (d : Dev) (ks : List Nat) : Dev :=
  match ks.filter fun k => !d.autoWaits k with
  | [] => d
  | ks =>
    let cmds := ks.map fun k => ({ op := 2, session := none, cluster := k, lanes := 0, hold := false } : CalCmd)
    ({ d with cal := { d.cal with auto := d.cal.auto ++ cmds } } : Dev).calPump 32

/-- Clusters of the list that have woken from DEEP: an automatic run of each (R259, R404). -/
def Dev.wakeCal (d : Dev) : Dev :=
  let ks := d.pln.deepCl.filter fun k => d.powered k
  let d : Dev := { d with pln := { d.pln with deepCl := d.pln.deepCl.filter fun k => !d.powered k } }
  if d.on CAL_CTRL.AUTO then d.autoQueue (ks.filter fun k => d.get BOOT_CL_FAIL.CLUSTERS / 2 ^ k % 2 == 0) else d

/-- A job has no unit left: its command ends, and others may start. -/
def Dev.jobEnd (d : Dev) (k : Nat) : Dev := (d.jobOver k).calPump 32

/-- The next unit is on the channel of this one: the run goes on with it. -/
def CalRun.goesOn (r : CalRun) (u : CalUnit) : Bool :=
  r.taken && !u.tmu && decide (u.part < 7) && u.unit == r.unit.unit

/-- The unit at the head of a job has ended: the run lets go, or keeps the channel, its hold and its TMUs for the next unit
of the same channel (R249, R250). -/
def Dev.unitEnd (d : Dev) (k : Nat) : Dev :=
  match d.job k with
  | none => d.runFree k
  | some j =>
    let d := d.setJob k { j with todo := j.todo.drop 1 }
    match d.run k, j.todo.drop 1 with
    | some r, u :: _ =>
      if r.goesOn u then
        (d.modRun k fun r => { unit := u, tmus := r.tmus, taken := true, held := r.held }).showCal
      else d.runFree k
    | _, [] => (d.runFree k).jobEnd k
    | none, _ => d.showCal

/-- Every unit that is left of the present run's channel ends with a code, and the run with it (R243). -/
def Dev.channelEnd (d : Dev) (k : Nat) (r : CalRun) (code : Nat) : Nat → Dev
  | 0 => d
  | n + 1 =>
    match d.run k with
    | none => d
    | some x =>
      if x.unit.unit != r.unit.unit || x.unit.tmu || decide (6 ≤ x.unit.part) then d
      else Dev.channelEnd ((d.runDone k x code).unitEnd k) k r code n

/-! ### A command's GO (R260) -/

/-- The session holds every lane of the set, which is not empty. -/
def Dev.holdsLanes (d : Dev) (ss k lanes : Nat) : Bool :=
  let js := (List.range 64).filter fun j => lanes / 2 ^ j % 2 == 1
  !js.isEmpty && js.all fun j => d.isOwn ss (d.lane (64 * k + j)).holder

/-- The check of a command (R260). -/
def Dev.calAllowed (d : Dev) (ss : Nat) (c : CalCmd) : Bool :=
  let own := d.isOwn ss (d.owner calPage)
  if c.op = 1 || c.op = 5 then d.holdsLanes ss c.cluster c.lanes
  else if c.op = 2 || c.op = 3 || c.op = 6 || c.op = 7 then own
  else if c.op = 4 then d.isOwn ss (d.lane (64 * c.cluster + c.extLane)).holder
  else if c.op = 8 then own && d.attr ss == 2
  else c.op == 9

/-- ABORT of the session's own command: a queued one ends at once, a running one at its next step (R253). -/
def Dev.calAbort (d : Dev) (ss : Nat) : Dev :=
  if d.cal.queue.any fun c => c.session == some ss then
    ({ d with cal := { d.cal with queue := d.cal.queue.filter fun c => c.session != some ss } } : Dev).showCal.calEnd (some ss) 6
  else
    let mine := d.cal.jobs.filter fun ((_, j) : Nat × CalJob) => j.cmd.session == some ss
    if mine.isEmpty then d.calEnd (some ss) 0
    else mine.foldl (fun d ((k, _) : Nat × CalJob) =>
      if k = storeJob then
        { d with cal := { d.cal with store := d.cal.store.map fun s => { s with abort := true } } }
      else match d.run k with
        | some r =>
          if r.started then
            { d with cal := { d.cal with runs := d.cal.runs.map fun ((i, r) : Nat × CalRun) =>
              (i, if i = k then { r with stepAbort := true } else r) } }
          else (d.jobAbort k).calPump 32
        | none => (d.jobAbort k).calPump 32) d

/-- RESTORE_FACTORY ends every queued and running run (R257). -/
def Dev.calAbortAll (d : Dev) : Dev :=
  let gone := d.cal.queue.filter fun c => c.slot != storeJob
  let d : Dev := { d with cal := { d.cal with queue := d.cal.queue.filter fun c => c.slot == storeJob, auto := [] } }
  let d := gone.foldl (fun d c => d.calEnd c.session 6) d
  (((d.cal.jobs.map Prod.fst).filter fun k => k != storeJob).foldl Dev.jobAbort d).calPump 32

/-- The command that a write of CAL_CMD asks for. -/
def Dev.calCmdOf (d : Dev) (ss : Nat) (val : Word) : CalCmd :=
  { op := wfield val 0 4, session := some ss, cluster := wfield val 5 4, lanes := d.get (CAL_ARG.LANES ss),
    hold := wbit val 4, extLane := d.get (CAL_EXT_CFG.LANE ss) }

/-- A command is turned away at its GO: the message names its cluster and the code alone (R260; log entry 80). -/
def Dev.calRefuse (d : Dev) (ss : Nat) (c : CalCmd) (code : Nat) : Dev :=
  d.rejTell { cluster := c.cluster, tmu := false, unit := 0, part := 0 } code [ss]

/-- GO of a command (R260). One that finds the session's earlier command queued or running ends with CAL_BUSY, and that one
continues. -/
def Dev.calGo (d : Dev) (ss : Nat) (c : CalCmd) : Dev :=
  if c.op = 9 then d.calAbort ss
  else if d.calPending ss then
    ((((d.set (CAL_CMD_STAT.RESULT ss) 10).stick (CAL_CMD_STAT.DONE ss)).irqAt calPage ss 0).calRefuse ss c 10).askAgain
      (0xC1200 + ss) ss (BitVec.ofNat 32 (c.op + 16 * b2n c.hold + 32 * c.cluster))
  else if !d.calAllowed ss c then (d.calEnd (some ss) 8).calRefuse ss c 8
  else if 16 ≤ d.cal.queue.length then (d.calEnd (some ss) 10).calRefuse ss c 10
  else
    let d := d.set (CAL_CMD_STAT.STATE ss) 1
    let d := if c.op = 8 then d.calAbortAll else d
    ({ d with cal := { d.cal with queue := d.cal.queue ++ [c] } } : Dev).calPump 32

/-- Commands have ended: a GO that met its session's command in this fabric cycle starts again (R20). -/
def Dev.calAgain (d : Dev) : Dev :=
  if d.again.isEmpty then d
  else (List.range 64).foldl (fun d ss =>
    if d.calPending ss then d else d.startAgain (0xC1200 + ss) fun d ss val => d.calGo ss (d.calCmdOf ss val)) d

/-- A write of CAL_CMD (R260). -/
def Dev.calCmdWrite (d : Dev) (ss : Nat) (val : Word) : Dev :=
  d.cmdWrite ss calPage 0x120 val (wbit val 31) fun d => d.calGo ss (d.calCmdOf ss val)

/-- CAL_LANES (R260). -/
def execCalLanes (ss : Sess) (val : Word) (s : State) : Result := s.on fun d => d.calCmdWrite ss val
/-- CAL_CLUSTER (R260). -/
def execCalCluster (ss : Sess) (val : Word) (s : State) : Result := s.on fun d => d.calCmdWrite ss val
/-- CAL_TMU_POOL (R260). -/
def execCalTmuPool (ss : Sess) (val : Word) (s : State) : Result := s.on fun d => d.calCmdWrite ss val
/-- CAL_CD_EXTERNAL (R240, R260). -/
def execCalCdExternal (ss : Sess) (val : Word) (s : State) : Result := s.on fun d => d.calCmdWrite ss val
/-- CAL_PATH (R244, R260). -/
def execCalPath (ss : Sess) (val : Word) (s : State) : Result := s.on fun d => d.calCmdWrite ss val
/-- CAL_TREE (R245, R260). -/
def execCalTree (ss : Sess) (val : Word) (s : State) : Result := s.on fun d => d.calCmdWrite ss val
/-- CAL_STORE (R255, R260). -/
def execCalStore (ss : Sess) (val : Word) (s : State) : Result := s.on fun d => d.calCmdWrite ss val
/-- CAL_RESTORE_FACTORY (R257, R260). -/
def execCalRestoreFactory (ss : Sess) (val : Word) (s : State) : Result := s.on fun d => d.calCmdWrite ss val
/-- CAL_ABORT (R253, R260). -/
def execCalAbort (ss : Sess) (val : Word) (s : State) : Result := s.on fun d => d.calCmdWrite ss val

/-! ### A unit starts (R239, R241, R249, R250) -/

/-- What has come of getting the unit's channel. -/
inductive Prep where
  | ready | wait
  | fail (code : Nat)
  deriving DecidableEq, Repr

/-- What disturbs a pass now: a slewing rotator, an acquiring time base (R237). -/
def Dev.disturbs (d : Dev) (k : Nat) : Bool := d.on (TB_TREE_PHASE.SLEWING k) || d.get TB_STAT.SRC_STATE == 2

/-- The channel is the run's until its last unit has ended: CAL_ACTIVE, and with a lane in HOLD its STALE hold and the
page's STALE with it (R249, R250). -/
def Dev.calTake (d : Dev) (k p : Nat) (held : Option Nat) : Dev :=
  let d := ((d.set (CH_PHYS_STAT.CAL_ACTIVE k p) 1).set (PAGE_STAT.CAL_ACTIVE (chPg k p)) 1).modRun k fun r =>
    { r with taken := true, held }
  match held with
  | none => d
  | some L => (d.set (PAGE_STAT.STALE (chPg k p)) 1).holdEnter L holdStale

/-- The channel of a generator or path unit is got: free as it is, freed by a rotation, or with its lane to be held
(R241, R244, R249, R250). An automatic run waits for a spare (R259). -/
def Dev.prepare (d : Dev) (k : Nat) (c : CalCmd) (r : CalRun) : Prep × Dev :=
  let p := r.unit.unit
  let L := 64 * k + d.get (CH_PHYS_STAT.LANE k p)
  let role := d.get (CH_PHYS_STAT.ROLE k p)
  if r.taken then (.ready, d)
  else if d.on (CH_PHYS_STAT.BIST_ACTIVE k p) || role = 3 then (.wait, d.serveRegion 2 k p)
  else if role = 0 then (if c.op = 5 then .fail 8 else .ready, if c.op = 5 then d else d.calTake k p none)
  else if c.hold || c.op = 5 then (.ready, d)
  else
    let l := d.lane L
    let can := d.canSwap && (match d.choose L l.egMask l.cls .move with | .found _ _ => true | .fail _ => false)
    if can then (.wait, d.swapQueue L .rotation)
    else if (d.cl k).swap.any (fun w => w.lane == L % 64) || c.session.isNone then (.wait, d)
    else if d.on CAL_CTRL.FALLBACK_HOLD then (.ready, d)
    else (.fail 9, d)

/-- TMUs that the unit still wants: one certain TMU for code density, four for the others (R239). -/
def CalRun.lacks (r : CalRun) : Nat := if r.unit.tmu then 1 - r.tmus.length else 4 - r.tmus.length

/-- Caliper's requests in the pool's maintenance queue. -/
def Dev.calAsked (d : Dev) (k : Nat) : Nat :=
  ((d.cl k).queue.filter fun q => match q.src with | .maint _ false => true | _ => false).length

/-- A request of Caliper for a TMU in service (R186, R296). -/
def Dev.calAsk (d : Dev) (k : Nat) (want : Option Nat) : Dev :=
  d.poolRequest k {
    id := 0, src := .maint want false, session := 0, lane := 0, stopLane := 0, ts := tq d.epoch, start := .event,
    stop := .event, stopN := 1, timeout := 0, ring := 0, ctx := 0, hop := 0, eligible := some d.epoch }

/-- Requests for TMUs in service, until as many are asked for as are lacking. -/
def Dev.calAskN (d : Dev) (k : Nat) (want : Option Nat) : Nat → Dev
  | 0 => d
  | n + 1 => Dev.calAskN (d.calAsk k want) k want n

/-- Gather TMUs: spares first, then TMUs in service through the maintenance queue (R239). -/
def Dev.gather (d : Dev) (k : Nat) (r : CalRun) : Dev :=
  let free := if r.unit.tmu then
      (if d.tmuState k r.unit.unit == 0 && (d.get (TMU_STAT.ROLE k r.unit.unit) == 0 || d.get (TMU_STAT.ROLE k r.unit.unit) == 3)
        then [r.unit.unit] else [])
    else d.tmuSpares k
  let d := (free.take r.lacks).foldl (fun d t =>
    let was := d.get (TMU_STAT.ROLE k t)
    let d := d.maintHold k t false
    if was = 3 then d.set (TMU_STAT.ROLE k t) 3 else d) d
  match d.run k with
  | none => d
  | some r => d.calAskN k (if r.unit.tmu then some r.unit.unit else none) (r.lacks - d.calAsked k)

/-- The interpolator has a code-density table in force. -/
def Dev.hasCd (d : Dev) (k t i : Nat) : Bool := (d.tmu k t).cd.any fun ((n, _) : Nat × Nat) => n / 4096 == i

/-- An external run is refused on each interpolator without a table (R240). -/
def Dev.refuseNoTable (d : Dev) (k : Nat) (r : CalRun) : Dev :=
  let no := [0, 1].filter fun i => !r.skip.contains i && !d.hasCd k r.unit.unit i
  (no.foldl (fun d i => d.unitDone k true { r.unit with part := i } 12) d).modRun k fun r => { r with skip := r.skip ++ no }

/-- The unit runs: Caliper puts its step into the staging buffer and requests CAL_STEP of the micro-engine; a lane in HOLD
enters its hold, and a generator's channel shows LOOPBACK (R93, R142, R144, R241, R250; log entry 78). -/
def Dev.unitBegin (d : Dev) (k : Nat) (r : CalRun) : Dev :=
  let d := d.modRun k fun r => { r with started := true, temp0 := (d.cl k).temp, off := d.disturbs k }
  let d := (d.modCl k fun c => { c with
    pend1 := some 2, calStage := c.calStage + 1
    mem := c.mem.filter fun x => !(decide (0x20000 ≤ x.1) && decide (x.1 < 0x20200)) }).showReq k
  let d := if r.unit.tmu then d
    else
      let p := r.unit.unit
      let d := if r.taken then d else d.calTake k p (some (64 * k + d.get (CH_PHYS_STAT.LANE k p)))
      d.set (CH_PHYS_STAT.LOOPBACK k p) (b2n (decide (r.unit.part < 6)))
  d.showCal

/-- The unit is not to run: code density in background mode, a path of a lane that a session holds now, an external run on a
TMU without tables; answered with the code that its parts get, none where they get none (R240, R244, R258). -/
def Dev.unitBars (d : Dev) (k : Nat) (c : CalCmd) (r : CalRun) : Option (Option Nat) :=
  if r.unit.tmu && c.op != 4 && d.on CAL_CTRL.BG_MODE then some (some 10)
  else if r.unit.tmu && r.parts.isEmpty then some none
  else if !r.unit.tmu && r.unit.part = 6 && c.op != 5 && (d.lane (64 * k + r.unit.sub)).holder.isSome then some none
  else none

/-- The unit at the head of cluster `k`'s job goes on towards its start (R239, R249, R250, R258). A cluster in machine check
refuses CAL_STEP: the step is aborted (R156, R158, R253). -/
def Dev.unitStart (d : Dev) (k : Nat) (j : CalJob) (u : CalUnit) : Dev :=
  let d := match d.run k with
    | some _ => d
    | none => { d with cal := { d.cal with runs := tins d.cal.runs k { unit := u } } }
  match d.run k with
  | none => d
  | some r =>
    if r.started then d
    else if r.stepAbort || d.on (CL_STATE.MCHK k) then (d.jobAbort k).calPump 32
    else
      let d := if u.tmu && j.cmd.op == 4 then d.refuseNoTable k r else d
      let r := (d.run k).getD r
      match d.unitBars k j.cmd r with
      | some (some code) => (d.runDone k r code).unitEnd k
      | some none => d.unitEnd k
      | none =>
        let (prep, d) := if u.tmu then (.ready, d) else d.prepare k j.cmd r
        match prep, d.run k with
        | .fail code, _ => (d.unitDone k true u code).unitEnd k
        | .ready, some r =>
          let d := d.gather k r
          let d := d.modRun k fun r => { r with waitT0 := some (r.waitT0.getD d.up) }
          (match d.run k with
            | some r => if r.lacks = 0 then d.unitBegin k r else d
            | none => d)
        | _, _ => d

/-- CAL_UNIT_START (R239, R249, R250). -/
def Dev.calUnitStart (d : Dev) (k : Nat) : Dev :=
  if !d.powered k || d.quiesced calPage then d
  else
    let d := d.calPump 32
    match d.job k with
    | none => d
    | some j => match j.todo with
      | [] => d.jobEnd k
      | u :: _ => if u.part = 7 then d else d.unitStart k j u

/-- CAL_UNIT_START (R239, R249, R250). A slice that starts on the unit in the same fabric cycle takes it back (R302). -/
def execCalUnitStart (k : Clu) (s : State) : Result :=
  s.on fun d => (d.trackedAt calStartKey fun d => d.calUnitStart k).calAgain

/-- A unit that has waited 1 s for its TMUs ends with CAL_BUSY (R239). -/
def Dev.calWaitExpire (d : Dev) (k : Nat) : Dev :=
  match d.run k, d.job k with
  | some r, some _ =>
    (match r.waitT0 with
      | some t => if !r.started && decide (t + secT0 ≤ d.up) then (d.runDone k r 10).unitEnd k else d
      | none => d)
  | _, _ => d

/-- CAL_TMU_WAIT_EXPIRE (R239). -/
def execCalTmuWaitExpire (k : Clu) (s : State) : Result := s.on fun d => d.calWaitExpire k

/-! ### Code density (R234, R238, R240) -/

/-- Element `i` of a histogram. -/
def hAt (h : List Nat) (i : Nat) : Nat := h.getD i 0

/-- The lowest and the highest code with hits. -/
def hitRange (h : List Nat) : Option (Nat × Nat) :=
  let hit := (List.range 4096).filter fun c => 0 < hAt h c
  match hit.head?, hit.getLast? with
  | some lo, some hi => some (lo, hi)
  | _, _ => none

/-- Four times the smoothed width of a code, the ends copied (R238). -/
def width4 (h : List Nat) (lo hi c : Nat) : Nat :=
  hAt h (if c = lo then lo else c - 1) + 2 * hAt h c + hAt h (if c = hi then hi else c + 1)

/-- The two histograms added. -/
def hAdd (a b : List Nat) : List Nat := (List.range 4096).map fun c => hAt a c + hAt b c

/-- The codes lo to hi of a table: `r1` and `r2` are twice the mean reference codes in 1/64 code (R238). -/
def cdCore (h : List Nat) (r1 r2 : Int) (lo hi : Nat) : List Int :=
  let codes := (List.range (hi - lo + 1)).map fun n => lo + n
  let total : Int := (codes.map fun c => (width4 h lo hi c : Int)).foldl (· + ·) 0
  (codes.foldl (fun (acc : List Int × Int) c =>
    let w : Int := width4 h lo hi c
    (rdiv (r1 * (2 * total) + (r2 - r1) * (2 * acc.2 + w)) (4 * total) :: acc.1, acc.2 + w)) ([], 0)).1.reverse

/-- build_cd of R238: the 4,096 entries of the table. -/
def buildCd (h : List Nat) (r1 r2 : Int) (lo hi : Nat) : List Int :=
  let core := cdCore h r1 r2 lo hi
  let at_ := fun (c : Nat) => core.getD (c - lo) 0
  let n := hi - lo
  let wl := at_ (min (lo + 63) hi) - at_ lo
  let wh := at_ hi - at_ (lo + (n - 63))
  (List.range 4096).map fun c =>
    if c < lo then
      let m := lo - c
      at_ lo - rdiv (((min m 32 : Nat) : Int) * wl) 63 - ((m - 32 : Nat) : Int)
    else if c ≤ hi then at_ c
    else
      let m := c - hi
      at_ hi + rdiv (((min m 32 : Nat) : Int) * wh) 63 + ((m - 32 : Nat) : Int)

/-- The list rises strictly. -/
def rising : List Int → Bool
  | a :: b :: t => decide (a < b) && rising (b :: t)
  | _ => true

/-- What the density test of one interpolator finds: a code of R260, and the table where it is accepted (R234, R238). -/
def densityTest (ha hb : List Nat) (r1a r2a r1b r2b : Nat) : Nat × List Int :=
  let h := hAdd ha hb
  match hitRange h with
  | none => (4, [])
  | some (lo, hi) =>
    let codes := (List.range (hi - lo + 1)).map fun n => lo + n
    let sa := (codes.map fun c => width4 ha lo hi c).foldl (· + ·) 0
    let sb := (codes.map fun c => width4 hb lo hi c).foldl (· + ·) 0
    let n := hi - lo + 1
    let near := codes.all fun c =>
      decide (20 * n * ((width4 ha lo hi c * sb : Nat) - (width4 hb lo hi c * sa : Nat) : Int).natAbs ≤ sa * sb)
    let ga : Int := (r2a : Int) - r1a
    let gb : Int := (r2b : Int) - r1b
    if !near || decide (ga.natAbs < 500 * (gb - ga).natAbs) then (1, [])
    else
      let cd := buildCd h (r1a + r1b) (r2a + r2b) lo hi
      if rising cd && decide (0 ≤ cd.getD 0 0) && decide (cd.getD 4095 0 ≤ 262143) && decide (1500 ≤ hi - lo)
          && decide (hi - lo ≤ 2000) then (0, cd)
      else (4, [])

/-- The hits of a pass in 64 groups of equal linearised width: their number n, and 64 times the sum of their squares, of
which χ² is that over n, less n (R240). -/
def chiSums (cd : Nat → Nat) (h : List Nat) (r1 r2 : Nat) : Nat × Nat :=
  let group := fun (c : Nat) => if cd c < r1 || r2 ≤ cd c || r2 ≤ r1 then none else some (64 * (cd c - r1) / (r2 - r1))
  let counts := (List.range 4096).foldl (fun (g : List Nat) c =>
    match group c with
    | none => g
    | some i => lset g i (g.getD i 0 + hAt h c)) (List.replicate 64 0)
  (counts.foldl (· + ·) 0, 64 * (counts.map fun x => x * x).foldl (· + ·) 0)

/-- χ² exceeds 150 (R240). -/
def chiBad (q : Nat × Nat) : Bool := decide ((150 + q.1) * q.1 < q.2)

/-- χ² in 1/16, as CAL_EXT_CHI reports it. -/
def chi16 (q : Nat × Nat) : Nat := if q.1 = 0 then 0 else (rdiv (16 * (q.2 : Int)) q.1 - 16 * q.1).toNat

/-- The hits of a histogram. -/
def hits (h : List Nat) : Nat := h.foldl (· + ·) 0

/-- A user code-density table of an interpolator comes into force (R238, R247, R252). -/
def Dev.cdAccept (d : Dev) (k t i : Nat) (cd : List Int) : Dev :=
  let news : Tbl Nat := ((List.range 4096).zip cd).filterMap fun q =>
    if q.2 ≤ 0 then none else some (4096 * i + q.1, q.2.toNat)
  let d := d.modTmu k t fun x => { x with
    cdUser := (x.cdUser.filter fun q => decide (q.1 < 4096 * i)) ++ news ++ x.cdUser.filter fun q => decide (4096 * (i + 1) ≤ q.1)
    cdMade := tput (fun _ => 0) x.cdMade i (d.opNow + 1), cdTu := tput (fun _ => 0) x.cdTu i (d.cl k).temp }
  d.installTmu k t

/-- A table was accepted: it is not in a bank (R255). -/
def Dev.unstored (d : Dev) : Dev :=
  ({ d with cal := { d.cal with store := d.cal.store.map fun s => { s with later := true } } } : Dev).set CAL_STAT.UNSTORED 1

/-- The verdicts on interpolators of a TMU from passes A and B (R234, R238). -/
def Dev.densityDone (d : Dev) (k : Nat) (cmd : Bool) (us : List CalUnit) (a b : CdPass) : Dev :=
  us.foldl (fun d u =>
    let (code, cd) := if u.part = 0 then densityTest a.hist0 b.hist0 a.r1m0 a.r2m0 b.r1m0 b.r2m0
      else densityTest a.hist1 b.hist1 a.r1m1 a.r2m1 b.r1m1 b.r2m1
    let d := if code = 0 then (d.cdAccept k u.unit u.part cd).unstored.genUp else d
    d.unitDone k cmd u code) d

/-! ### Passes (R232, R234 to R244) -/

/-- What a pass gives: its tables, a code that ends the unit's run, the code that ends the channel's run, or nothing yet. -/
inductive PassEnd where
  | tables (x : PassTables)
  | code (n : Nat)
  | channel (n : Nat)
  | open_
  deriving DecidableEq, Repr

/-- All |e| within 2 tq (R241). -/
def errsSmall (e : List Int) : Bool := e.all fun x => decide (x.natAbs ≤ 32)

/-- The predistortion after the measurements of a pass: each takes its errors from the one before (R241). -/
def pdAfter (pd : List Int) (errs : List (List Int)) : List Int :=
  errs.foldl (fun pd e => (pd.zip e).map fun q => q.1 - q.2) pd

/-- ACHIEVED of a pass lies in the windows of R69 (R242). -/
def achBounds (v : List Int) : Bool :=
  v.getD 0 1 == 0
    && ((List.range 64).drop 1).all fun s => decide (1024 * (s : Int) - 1024 ≤ v.getD s 0) && decide (v.getD s 0 ≤ 1024 * s)

/-- A pass on generator `e` of a channel (R241 to R243; log entry 78): a launch that does not arrive or a sweep without a
transition within 64 tq ends the channel's run, ACHIEVED outside its window or an error above 2 tq after the second repeat
the unit's. -/
def Dev.genPass (d : Dev) (k p e : Nat) (g : GenPass) : PassEnd :=
  let e1 := g.errs.getD 1 []
  let used := if errsSmall e1 then g.errs.take 2 else g.errs.take 3
  let far := used.any fun l => l.any fun x => decide (1024 < x.natAbs)
  let pd := (List.range 256).map fun n => tget (fun _ => 0) (d.ph k p).pd (256 * e + n)
  if (e < 4 && decide (g.stops < 250)) || (4 ≤ e && far) then .channel 3
  else if !achBounds g.ach then .code 4
  else if errsSmall e1 then .tables (.table (g.ach ++ pdAfter pd used) [])
  else match g.errs.drop 2 with
    | [] => .open_
    | e2 :: _ => if errsSmall e2 then .tables (.table (g.ach ++ pdAfter pd used) []) else .code 4

/-- The outbound part of a pad loopback's round trip: the pad split of the lane's ball group, a fraction in 1/65,536, halves
up (R232). -/
def padOut (L : Nat) (trip : Int) : Int := halfUp (trip * (Config.padSplit L % 65537 : Nat)) 65536

/-- A pass through a lane's pad loopback, over the TMUs that the run holds: each round trip is divided by the pad split into
the path out of the pad and the path back (R232, R244; log entry 78). -/
def Dev.pathPass (r : CalRun) (L : Nat) (x : PathPass) : PassEnd :=
  let out := padOut L x.drv
  .tables (.table [out, padOut L x.den, x.drv - out]
    ((x.tmus.filter fun q => r.tmus.contains q.1.val).foldl (fun m q =>
      tins (terase m (34 * q.2.1.val + q.1.val)) (34 * q.2.1.val + q.1.val) (q.2.2 - padOut L q.2.2)) []))

/-- A code-density pass has its 2^(20 + HITS) hits in each interpolator (R238). -/
def Dev.densPass (d : Dev) (x : CdPass) : PassEnd :=
  let full := 2 ^ (20 + min 6 (d.get CAL_CTRL.HITS))
  if full ≤ hits x.hist0 && full ≤ hits x.hist1 then .tables (.density x) else .open_

/-- What a pass gives for the run's unit; a measurement of another kind gives nothing. -/
def Dev.passEnd (d : Dev) (k : Nat) (r : CalRun) (res : PassResult) : PassEnd :=
  let u := r.unit
  match res with
  | .gen g => if u.tmu || decide (6 ≤ u.part) then .open_ else d.genPass k u.unit u.part g
  | .path x => if u.tmu || u.part != 6 then .open_ else Dev.pathPass r (64 * k + u.sub) x
  | .density x => if u.tmu then d.densPass x else .open_

/-- Two passes agree within `tol`, entry by entry. -/
def agreeBy (tol : Nat) (a b : List Int) : Bool :=
  a.length == b.length && (a.zip b).all fun q => decide ((q.1 - q.2).natAbs ≤ tol)

/-- The mean of two passes, halves up (R235). -/
def passMean (a b : List Int) : List Int := (a.zip b).map fun q => halfUp (q.1 + q.2) 2

/-- The bounds of R69 on a generator's 64 ACHIEVED values and 256 PD entries. -/
def genBounds (v : List Int) : Bool :=
  v.length == 320 && achBounds v && (v.drop 64).all fun e => decide (e.natAbs ≤ 32767)

/-- The bounds of R69 on path delays. -/
def pathBounds (v : List Int) : Bool := v.all fun e => decide (0 ≤ e) && decide (e ≤ 8191)

/-- The verdict on values from passes A and B: a code of R260, and the accepted values (R234, R235). -/
def tableVerdict (tol : Nat) (bounds : List Int → Bool) (a b : List Int) : Nat × List Int :=
  if !agreeBy tol a b then (1, [])
  else if bounds (passMean a b) then (0, passMean a b) else (4, [])

/-- A generator's user table comes into force (R235, R247). -/
def Dev.genAccept (d : Dev) (k p e : Nat) (v : List Int) : Dev :=
  let ach := (List.range 64).zip (v.take 64)
  let pd := (List.range 256).zip (v.drop 64)
  let d := d.modPh k p fun x => { x with
    userAch := ach.foldl (fun t q => tput (fun _ => 0) t (64 * e + q.1) q.2) x.userAch
    userPd := pd.foldl (fun t q => tput (fun _ => 0) t (256 * e + q.1) q.2) x.userPd
    userMask := x.userMask ||| 2 ^ e, tu := tput (fun _ => 0) x.tu e (d.cl k).temp
    made := tput (fun _ => 0) x.made e d.opNow }
  let d := d.set (CH_PHYS_STAT.EG_BAD k p) (d.get (CH_PHYS_STAT.EG_BAD k p) &&& (63 - 2 ^ e))
  ((d.installPhys k p).unstored).genUp

/-- The user path set of a channel's route to lane position `j` comes into force (R244, R247). -/
def Dev.pathAccept (d : Dev) (k p j : Nat) (v : List Int) : Dev :=
  let set : PathSet := { drv := v.getD 0 0, den := v.getD 1 0, cmp := v.getD 2 0, tu := (d.cl k).temp, made := d.opNow }
  (((d.modPh k p fun x => { x with userPath := tput (fun _ => none) x.userPath j (some set) }).installPhys k p).unstored).genUp

/-- The TMU_PATH value of an interpolator and a route comes into force (R244, R247). -/
def Dev.tmuPathAccept (d : Dev) (k t n : Nat) (v : Int) : Dev :=
  ((d.modTmu k t fun x => { x with
    pathUser := tput (fun _ => none) x.pathUser n (some (v, (d.cl k).temp, d.opNow)) }).installTmu k t).unstored.genUp

/-- The verdicts on a route's TMU_PATH values, each a unit of its own (R234). -/
def Dev.tmuPathsDone (d : Dev) (k : Nat) (u : CalUnit) (a b : Tbl Int) : Dev :=
  (tkeys a b).foldl (fun d n =>
    match a.find? fun q => q.1 == n, b.find? fun q => q.1 == n with
    | some x, some y =>
      let place := 64 * (68 * (n / 34) + u.unit) + u.sub
      let (code, v) := tableVerdict 4 pathBounds [x.2] [y.2]
      let d := if code = 0 then d.tmuPathAccept k (n % 34) place (v.getD 0 0) else d
      d.unitDone k true { cluster := k, tmu := true, unit := n % 34, part := 6, sub := place } code
    | _, _ => d) d

/-- A unit's run ends with a verdict on its two passes; the units within it are judged one by one (R234). -/
def Dev.passVerdict (d : Dev) (k : Nat) (r : CalRun) (a b : PassTables) : Dev :=
  let u := r.unit
  match a, b with
  | .table a ta, .table b tb =>
    let (code, v) := if u.part < 6 then tableVerdict 64 genBounds a b else tableVerdict 4 pathBounds a b
    let d := if code ≠ 0 then d
      else if u.part < 6 then d.genAccept k u.unit u.part v else d.pathAccept k u.unit u.sub v
    ((d.unitDone k true u code).tmuPathsDone k u ta tb).unitEnd k
  | .density a, .density b => (d.densityDone k true r.parts a b).unitEnd k
  | _, _ => d

/-- A pass must be repeated: the rotator has slewed or the time base acquired during it, or the temperature has moved by more
than 1 °C since the start of pass A (R237). -/
def Dev.passMoved (d : Dev) (k : Nat) (r : CalRun) : Bool := r.moved || decide (64 < ((d.cl k).temp - r.temp0).natAbs)

/-- It starts again: pass A too where the temperature has moved. -/
def Dev.passAgain (d : Dev) (k : Nat) (r : CalRun) : Dev :=
  let fromA := d.passMoved k r || r.passA.isNone
  d.modRun k fun r => { r with
    repeats := r.repeats + 1, moved := false, off := d.disturbs k
    passA := if fromA then none else r.passA, temp0 := if fromA then (d.cl k).temp else r.temp0 }

/-- The χ² test of an external pass: CAL_EXT_CHI, and whether the input is suspect (R240). -/
def Dev.extTest (d : Dev) (ss k : Nat) (r : CalRun) (p : CdPass) : Bool × Dev :=
  r.parts.foldl (fun (acc : Bool × Dev) u =>
    let cd := fun (c : Nat) => tget (fun _ => 0) (d.tmu k u.unit).cd (4096 * u.part + c)
    let q := if u.part = 0 then chiSums cd p.hist0 p.r1m0 p.r2m0 else chiSums cd p.hist1 p.r1m1 p.r2m1
    (acc.1 || chiBad q, acc.2.set (CAL_EXT_CHI.CHI ss) (min (chi16 q) 0xFFFFF))) (false, d)

/-- A pass of a unit's run has ended (R234 to R243, R253). -/
def Dev.passDone (d : Dev) (k : Nat) (res : PassResult) : Dev :=
  match d.run k, d.job k with
  | some r, some j =>
    if !r.started then d
    else if r.stepAbort then (d.jobAbort k).calPump 32
    else match d.passEnd k r res with
      | .open_ => d
      | x =>
        if d.passMoved k r || r.off || d.disturbs k then
          if 3 ≤ r.repeats then (d.runDone k r 5).unitEnd k else d.passAgain k r
        else match x with
          | .code n => (d.runDone k r n).unitEnd k
          | .channel n => d.channelEnd k r n 6
          | .tables tb =>
            let (suspect, d) := match tb, j.cmd.session with
              | .density p, some ss => if j.cmd.op = 4 then d.extTest ss k r p else (false, d)
              | _, _ => (false, d)
            if suspect then (d.runDone k r 2).unitEnd k
            else match r.passA with
              | none => d.modRun k fun r => { r with passA := some tb, off := d.disturbs k }
              | some a => d.passVerdict k r a tb
          | .open_ => d
  | _, _ => d

/-- CAL_PASS_DONE (R232, R234 to R244). -/
def execCalPassDone (k : Clu) (r : PassResult) (s : State) : Result := s.on fun d => (d.passDone k r).calAgain

/-! ### Trees (R245 to R247) -/

/-- A measurement of the cluster's tree is called for (R245). -/
def Dev.treeDue (d : Dev) (k : Nat) : Bool :=
  let c := d.cl k
  let period := d.get CAL_CTRL.TREE_PERIOD
  let asked := match d.job k with | some j => j.todo.head? == some (treeUnit k) | none => false
  asked || !d.on (CL_STATE.TREE_ALIGNED k) || (period != 0 && decide (c.treeMeasT0 + period * secT0 ≤ d.up))
    || decide (64 ≤ (c.temp - c.treeMeasTemp).natAbs)

/-- A correction is accepted: at once while the tree is not aligned, else the rotator moves to it, and the passes that run in
the cluster are repeated (R29, R46, R47, R237). -/
def Dev.treeAccept (d : Dev) (k : Nat) (corr : Nat) (residual : Int) : Dev :=
  let d := (d.modInfo (treeUnit k) fun x => { x with fails := 0 }).setInt (TB_TREE_PHASE.RESIDUAL k)
    (max (-127) (min 127 residual))
  let alarm := 8 < residual.natAbs
  let d := d.set (TB_TREE_PHASE.DRIFT_ALARM k) (b2n alarm)
  let d := if alarm then
      d.raise 1 0x13 1 (k + 16 * (BitVec.ofInt 8 (max (-127) (min 127 residual))).toNat) (d.holdersIn k) else d
  if !d.on (CL_STATE.TREE_ALIGNED k) then
    ((d.set (TB_TREE_PHASE.CORR k) corr).modCl k fun c => { c with treeTo := none }).set (CL_STATE.TREE_ALIGNED k) 1
  else if d.get (TB_TREE_PHASE.CORR k) = corr then d
  else
    (((d.modCl k fun c => { c with treeTo := some corr, treeT0 := d.up }).set (TB_TREE_PHASE.SLEWING k) 1).markTree k).passOff k

/-- A measurement of a cluster's tree has ended with a code; it was the command's where the command waits for it. -/
def Dev.treeEnd (d : Dev) (k code : Nat) : Dev :=
  let d := d.modCl k fun c => { c with treeMeasT0 := d.up, treeMeasTemp := c.temp, treeRepeats := 0 }
  let cmd := match d.job k with
    | some j => j.todo.head? == some (treeUnit k)
    | none => false
  let d := d.unitDone k cmd (treeUnit k) code
  if cmd then d.unitEnd k else d

/-- Caliper measures a cluster's tree: passes A and B, and the residual. While the rotator slews or the time base acquires,
the pass is repeated, at most three times (R234, R236, R237, R245). -/
def Dev.treeMeasure (d : Dev) (k : Nat) (a b residual : Int) : Dev :=
  if !(d.powered k || d.get (CL_STATE.PWR k) == 1) || !d.treeDue k then d
  else if d.disturbs k then
    if 3 ≤ (d.cl k).treeRepeats then d.treeEnd k 5 else d.modCl k fun c => { c with treeRepeats := c.treeRepeats + 1 }
  else if 4 < (a - b).natAbs then d.treeEnd k 1
  else (d.treeAccept k (min 4095 (halfUp (a + b) 2).toNat) residual).treeEnd k 0

/-- CAL_TREE_MEASURE (R245). -/
def execCalTreeMeasure (k : Clu) (corrA corrB residual : Int) (s : State) : Result :=
  s.on fun d => (d.treeMeasure k corrA corrB residual).calAgain

/-! ### User banks (R254 to R257) -/

/-- Base of a user bank in NVM. -/
def bankBase (b : Bool) : Nat := if b then 0x3000000 else 0x2000000

/-- The bytes of a bank's body (R254). -/
def bankBytes (body : List BankRec) : List Byte :=
  body.flatMap fun r => Config.bankRecord r.unit.routeKey r.tu r.made r.vals

/-- The records of a bank's body: those that Caliper wrote, where it is they, else what the bytes spell (R254). -/
def bankBody (was : List BankRec) (bytes : List Byte) : List BankRec :=
  if bankBytes was = bytes then was
  else (Config.bankParse bytes).map fun q => { unit := unitOfKey q.1, tu := q.2.1, made := q.2.2.1, vals := q.2.2.2 }

/-- The bytes of a bank's header (R254). -/
def bankHeader (seq time : Nat) (body : List Byte) : List Byte :=
  let h := leBytes 4 0x43414C42 ++ leBytes 2 1 ++ leBytes 2 0 ++ leBytes 4 seq ++ leBytes 4 body.length
    ++ leBytes 4 (crc32 body) ++ leBytes 8 time
  h ++ leBytes 4 (crc32 h) ++ leBytes 4 0xFFFFFFFF

/-- The bytes that a bank has for its body. -/
abbrev bankMax : Nat := 0xFF0000

/-- A bank as the NVM holds it: valid when MAGIC, FORMAT, HDR_CRC and BODY_CRC match, BODY_LEN fits and INVALID is erased
(R255). -/
def bankRead (nvm : List Host.Cell) (isB : Bool) (was : Bank) : Bank :=
  let base := bankBase isB
  let h := readBytes nvmDefault nvm base 36
  let n := fun (o len : Nat) => leNat ((h.drop o).take len)
  if n 0 4 != 0x43414C42 || n 4 2 != 1 || n 0x20 4 != 0xFFFFFFFF || n 0x1C 4 != crc32 (h.take 28) || decide (bankMax < n 0x0C 4) then {}
  else
    let body := readBytes nvmDefault nvm (base + 0x10000) (n 0x0C 4)
    if n 0x10 4 != crc32 body then {} else { valid := true, seq := n 8 4, body := bankBody was.body body }

/-- CAL_BANK_STAT and the SEQ registers show the banks. -/
def Dev.showBanks (d : Dev) : Dev :=
  let a := d.cal.bankA
  let b := d.cal.bankB
  let d := (d.set CAL_BANK_STAT.A_VALID (b2n a.valid)).set CAL_BANK_STAT.B_VALID (b2n b.valid)
  (d.set CAL_BANK_SEQ_A.SEQ (if a.valid then a.seq else 0)).set CAL_BANK_SEQ_B.SEQ (if b.valid then b.seq else 0)

/-- A bank takes a value. -/
def Dev.setBank (d : Dev) (isB : Bool) (x : Bank) : Dev :=
  { d with cal := if isB then { d.cal with bankB := x } else { d.cal with bankA := x } }

/-- The highest SEQ of a valid bank, 0 where none is. -/
def Caliper.topSeq (c : Caliper) : Nat :=
  max (if c.bankA.valid then c.bankA.seq else 0) (if c.bankB.valid then c.bankB.seq else 0)

/-- The store or invalidation has ended: its command, and the page owner's interrupt. -/
def Dev.storeEnd (d : Dev) (code : Nat) : Dev :=
  let d : Dev := ({ d with cal := { d.cal with store := none } } : Dev).nvmPin.set CAL_STAT.STORING 0
  let d := d.irqAll calPage (optL (d.owner calPage)) 2
  match d.job storeJob with
  | none => d
  | some j =>
    let d := match j.cmd.session with
      | some ss => if code = 0 then d else d.calRefuse ss j.cmd code
      | none => d
    (d.setJob storeJob { j with result := code }).jobEnd storeJob

/-- Every user table goes, and the factory-derived tables come into force (R252, R257). -/
def Dev.toFactory (d : Dev) : Dev :=
  let d := { d with
    phys := d.phys.map fun ((key, x) : Nat × Phys) => (key, { x with
      userPd := [], userAch := [], userMask := 0, tu := [], userPath := [], made := [] })
    tmus := d.tmus.map fun ((key, x) : Nat × Tmu) => (key, { x with cdUser := [], cdMade := [], cdTu := [], pathUser := [] })
    cal := { d.cal with info := d.cal.info.map fun ((key, x) : Nat × UnitInfo) => (key, { x with stored := false }) } }
  (((List.range 16).foldl Dev.installCluster d).set CAL_STAT.UNSTORED 0).genUp

/-- The units of a body are in the bank in force, but for those accepted since. -/
def Dev.markStored (d : Dev) (s : Store) : Dev :=
  if s.later then d else s.body.foldl (fun d r => d.modInfo r.unit fun x => { x with stored := true }) d

/-- A store is written and read back, or fails (R255). -/
def State.storeDone (s : State) (st : Store) (ok : Bool) : State :=
  let d := s.toDev
  let body := bankBytes st.body
  let base := bankBase st.bankB
  let erased := clearBytes s.nvm base 0x1000000
  if st.abort then { s with toDev := (d.setBank st.bankB {}).showBanks.storeEnd 6, nvm := erased }
  else if ok && decide (body.length ≤ bankMax) then
    let seq := d.cal.topSeq + 1
    let nvm := writeBytes nvmDefault nvmSize erased (base + 0x10000) body
    let nvm := writeBytes nvmDefault nvmSize nvm base (bankHeader seq d.pln.opSeconds body)
    let d := (d.setBank st.bankB { valid := true, seq, body := st.body }).showBanks
    { s with toDev := ((d.set CAL_STAT.UNSTORED (b2n st.later)).markStored st).storeEnd 0, nvm }
  else
    let bytes := (Config.failedWrite d.free body).take (min bankMax body.length)
    let d := { d with free := d.free + 1 }
    { s with
      toDev := (d.setBank st.bankB {}).showBanks.storeEnd 11
      nvm := writeBytes nvmDefault nvmSize erased (base + 0x10000) bytes }

/-- One invalidation of RESTORE_FACTORY: the valid bank of lower SEQ first; with none left the factory tables come into
force (R257). -/
def State.restoreDone (s : State) : State :=
  let c := s.cal
  let inv := fun (s : State) (isB : Bool) =>
    { s with
      toDev := (s.toDev.setBank isB {}).showBanks
      nvm := writeBytes nvmDefault nvmSize s.nvm (bankBase isB + 0x20) (leBytes 4 0) }
  let s := if c.bankA.valid && c.bankB.valid then inv s (!c.bInForce)
    else if c.bankA.valid then inv s false
    else if c.bankB.valid then inv s true
    else s
  if s.cal.bankA.valid || s.cal.bankB.valid then s else { s with toDev := s.toDev.toFactory.storeEnd 0 }

/-- CAL_STORE_DONE (R255, R257): it waits for an operation of another block to end (R28). -/
def execCalStoreDone (ok : Bool) (s : State) : Result :=
  match s.cal.store with
  | none => .next s
  | some st =>
    if !s.nvmMay 2 then .next s
    else
    let s := if st.restore then (if ok then s.restoreDone else s.upd fun d => d.storeEnd 11) else s.storeDone st ok
    s.on Dev.calAgain

/-! ### Background mode (R258) -/

/-- A burst added to a histogram. -/
def BgSum.add (x : BgSum) (p : CdPass) : BgSum :=
  { hist0 := hAdd x.hist0 p.hist0, hist1 := hAdd x.hist1 p.hist1, r1s0 := x.r1s0 + p.r1m0, r2s0 := x.r2s0 + p.r2m0,
    r1s1 := x.r1s1 + p.r1m1, r2s1 := x.r2s1 + p.r2m1, bursts := x.bursts + 1 }

/-- A histogram as a pass. -/
def BgSum.pass (x : BgSum) : CdPass :=
  { hist0 := x.hist0, hist1 := x.hist1, r1m0 := x.r1s0 / x.bursts, r2m0 := x.r2s0 / x.bursts,
    r1m1 := x.r1s1 / x.bursts, r2m1 := x.r2s1 / x.bursts }

/-- A background burst of 2^16 hits ends on a TMU that the pool has granted for it, and the TMU is free again; its hits go
to A and B in turn, and the table is built once both are full. With the mode ended meanwhile the hits are dropped
(R186, R258, R296). -/
def Dev.bgBurst (d : Dev) (k t : Nat) (x : CdPass) : Dev :=
  if !(d.inBurst k).contains t || hits x.hist0 != 0x10000 || hits x.hist1 != 0x10000 then d
  else
    let d := (d.maintFree k t).showBg
    if !d.bgOn k then d else
    let key := 34 * k + t
    let hits := x
    let x := tget (fun _ => ({} : BgAcc)) d.cal.bg key
    let x := if x.a.bursts ≤ x.b.bursts then { x with a := x.a.add hits } else { x with b := x.b.add hits }
    let full := 2 ^ (4 + min 6 (d.get CAL_CTRL.HITS))
    if full ≤ x.a.bursts && full ≤ x.b.bursts then
      let d : Dev := { d with cal := { d.cal with bg := tput (fun _ => {}) d.cal.bg key {} } }
      d.densityDone k false ({ unit := densUnit k t } : CalRun).parts x.a.pass x.b.pass
    else { d with cal := { d.cal with bg := tput (fun _ => {}) d.cal.bg key x } }

/-- BG_BURST_DONE (R258). -/
def execBgBurstDone (k : Clu) (t : TmuId) (hits : CdPass) (s : State) : Result := s.on fun d => d.bgBurst k t hits

/-! ### Registers with limits -/

/-- A write of CAL_CTRL or CAL_BG_CFG by the page's owner, with its values taken into range; BG_MODE without capability
0x000C is governed by R4. -/
def Dev.calRangeWrite (d : Dev) (ss off : Nat) (val : Word) : Dev :=
  d.hostWrite ss calPage off [val] .owner false fun d =>
    if off = 0x100 && wbit val 2 && d.opts % 2 == 0 then d.discard ss calPage off
    else
      let d := d.plainWrite ss calPage off val
      if off = 0x100 then
        let d := d.set CAL_CTRL.TEMP_DELTA (max 1 (d.get CAL_CTRL.TEMP_DELTA))
        let d := d.set CAL_CTRL.HITS (min 6 (d.get CAL_CTRL.HITS))
        d
      else d.set CAL_BG_CFG.SHARE (min 8 (d.get CAL_BG_CFG.SHARE))

end Sys2Proof.Machine
end

