-- ==== Sys2Proof/Machine/Flags.lean ====
section
/-! DEFINITION. The arithmetic of the micro-engine on 64-bit words and the flags Z, N, C, V (R141), parity (R138), the
width codes (R140) and the signature fold of SIGF (R313). -/

namespace Sys2Proof.Machine

/-- Result and flags of a 64-bit operation. -/
structure Alu where
  val : DWord
  z : Bool
  n : Bool
  c : Bool
  v : Bool
  deriving DecidableEq, Repr

/-- A + B: C is the carry out of bit 63, V the signed overflow. -/
def aluAdd (a b : DWord) : Alu :=
  let r := a + b
  { val := r, z := r == 0, n := r.msb, c := decide (2 ^ 64 ≤ a.toNat + b.toNat),
    v := decide (r.toInt ≠ a.toInt + b.toInt) }

/-- A − B. The spec does not say whether C holds the borrow or its complement: `c` is a free value. -/
def aluSub (a b : DWord) (c : Bool) : Alu :=
  let r := a - b
  { val := r, z := r == 0, n := r.msb, c, v := decide (r.toInt ≠ a.toInt - b.toInt) }

/-- The signed minimum. -/
def minSigned (a b : DWord) : DWord := if a.toInt ≤ b.toInt then a else b

/-- The signed maximum. -/
def maxSigned (a b : DWord) : DWord := if a.toInt ≤ b.toInt then b else a

/-- The width that a width code selects (R140). -/
def widthOf (code : Nat) : Nat :=
  [1, 2, 3, 4, 5, 6, 8, 12, 16, 24, 32, 40, 44, 50, 52, 64].getD code 64

/-- A value sign-extended from its low `w` bits. -/
def signExtendFrom (a : DWord) (w : Nat) : DWord := BitVec.ofInt 64 (BitVec.ofNat w a.toNat).toInt

/-- The flags that the thread takes from an operation. -/
def Thread.flags (t : Thread) (r : Alu) : Thread := { t with z := r.z, n := r.n, c := r.c, v := r.v }

/-- Z and N of a result. -/
def Thread.zn (t : Thread) (r : DWord) : Thread := { t with z := r == 0, n := r.msb }

/-- Ones of a 40-bit word. -/
def onesOf (w : BitVec 40) : Nat := (List.range 40).foldl (fun n i => if w.getLsbD i then n + 1 else n) 0

/-- The word has even parity: it fails (R138). -/
def evenParity (w : BitVec 40) : Bool := onesOf w % 2 == 0

/-- SIG ← (SIG rotated left by 1) xor A (R313). -/
def sigFold (sig a : DWord) : DWord := sig.rotateLeft 1 ^^^ a

end Sys2Proof.Machine
end

