-- ==== Sys2Proof/Machine/Micro.lean ====
section
/-! DEFINITION. The micro-engine (05): the microword, operands, shadow and COMMIT, the next address, dispatch, and one
meaning per micro-op. A micro-op row executes the word at the engine's address: a word with even parity there is a
machine check, and a row that is not that word has no effect. -/

namespace Sys2Proof.Machine

/-! ### The microword (R138) -/

/-- A microword with odd parity. -/
def microWord (op : Nat) (w : Micro) : BitVec 40 :=
  let body : BitVec 40 := BitVec.ofNat 40 (op * 2 ^ 33 + w.a.toNat * 2 ^ 25 + w.b.toNat * 2 ^ 17 + w.c.toNat * 2 ^ 13
    + b2n w.irqOk * 2 ^ 12 + b2n w.commit * 2 ^ 11 + w.next.toNat)
  if evenParity body then body ||| BitVec.ofNat 40 (2 ^ 39) else body

/-- The operand fields of a word. -/
def Micro.ofWord (x : BitVec 40) : Micro :=
  { a := BitVec.ofNat 8 (x.toNat / 2 ^ 25), b := BitVec.ofNat 8 (x.toNat / 2 ^ 17),
    c := BitVec.ofNat 4 (x.toNat / 2 ^ 13), irqOk := x.getLsbD 12, commit := x.getLsbD 11,
    next := BitVec.ofNat 11 x.toNat }

/-- OP of a word. -/
def opOf (x : BitVec 40) : Nat := x.toNat / 2 ^ 33 % 64

/-- The control store as the engine reads it; an empty array reads zero (R138). A word that self-test left without a
spare keeps failing (R320): it too reads with even parity. -/
def Cluster.word (c : Cluster) (a : Nat) : BitVec 40 := if c.csBad.contains a then 0 else tget (fun _ => 0) c.cs a

/-- A thread: 0 to 63 decode, 64 + level service (R144). -/
def Cluster.thread (c : Cluster) (i : Nat) : Thread := tget (fun _ => {}) c.threads i

def Dev.setThread (d : Dev) (k i : Nat) (t : Thread) : Dev :=
  d.modCl k fun c => { c with threads := tput (fun _ => {}) c.threads i t }

/-! ### Shadow state (R148, R149) -/

/-- What a word of cluster memory reads that no STX has written: what Caliper has staged, else zero (R142). -/
def Cluster.memDefault (c : Cluster) (a : Nat) : DWord :=
  if 0x20000 ≤ a && a < 0x20200 && c.calStage != 0 then Config.stageWord c.calStage a else 0

/-- The 768 words of a channel's inactive table set (R142). -/
def Cluster.setWords (c : Cluster) (p : Nat) : List DWord :=
  (List.range 768).map fun i => tget c.memDefault c.mem (0x10000 + 768 * p + i)

/-- Place of the entries of generator `g` in a set: 256 points, then 64 segments. -/
abbrev setPlace (g i : Nat) : Nat := 320 * g + i

/-- The entries in force of a channel's set, by place. -/
def Phys.entries (x : Phys) : List Int :=
  (List.range 1920).map fun i => if i % 320 < 256 then x.pdAt (i / 320) (i % 320) else x.achievedAt (i / 320) (i % 320 - 256)

/-- FLIP where Caliper's tables are on their way in: those of the generators come into force at once (R70, R252). -/
def Phys.flipIn (x : Phys) (mask : Nat) : Phys :=
  let sel := fun (key width : Nat) => mask / 2 ^ (key / width) % 2 == 1
  let swap := fun (width : Nat) (cur : Tbl Int) (new : Tbl Int) =>
    (new.filter fun e => sel e.1 width).foldl (fun (a : Tbl Int) e => tins (terase a e.1) e.1 e.2)
      (cur.filter fun e => !sel e.1 width)
  { x with
    pd := match x.pdTo with | none => x.pd | some n => swap 256 x.pd n
    achieved := match x.achTo with | none => x.achieved | some n => swap 64 x.achieved n }

/-- FLIP to the set that cluster memory holds: its words give the entries of the generators in the mask. -/
def Phys.flipTo (x : Phys) (mask : Nat) (ws : List DWord) : Phys :=
  let gs := (List.range 6).filter fun g => mask / 2 ^ g % 2 == 1
  { x with
    pd := gs.foldl (fun t g => (List.range 256).foldl (fun t i =>
      tput (fun _ => 0) t (256 * g + i) (Config.setEntry (setPlace g i) ws)) t) x.pd
    achieved := gs.foldl (fun t g => (List.range 64).foldl (fun t i =>
      tput achievedDefault t (64 * g + i) (Config.setEntry (setPlace g (256 + i)) ws)) t) x.achieved }

/-- FLIP of a channel's generators: their inactive table set becomes the set in force, at once, and the set that was in force
the inactive one (R70, R141, R142). -/
def Dev.flip (d : Dev) (k p mask : Nat) : Dev :=
  let x := d.ph k p
  if x.pdTo.isSome || x.achTo.isSome then
    d.setPh k p { x.flipIn mask with setInForce := x.setInForce ^^^ (mask % 64) }
  else
    let c := d.cl k
    let ws := c.setWords p
    let back := fun (m : Tbl DWord) (i : Nat) =>
      tput c.memDefault m (0x10000 + 768 * p + i) (Config.setWord i mask ws x.entries)
    (d.setPh k p { x.flipTo mask ws with setInForce := x.setInForce ^^^ (mask % 64) }).setCl k
      { c with mem := (List.range 768).foldl back c.mem, bank := tput (fun _ => 0) c.bank p 0 }

/-- Lines asked of the fetch unit for a lane (R126, R298). -/
def Dev.askLines (d : Dev) (L n : Nat) : Dev :=
  let line := d.get (PROG_PC.PC L) / 16
  let xs : List Xfer := (List.range n).map fun i => { size := 256, since := d.cycle, what := .fetch L (line + i) }
  { d with sched := { d.sched with wait := tmod (fun _ => []) d.sched.wait (100 + L / 64) fun q => q ++ xs } }

/-- One shadow entry becomes visible. CUR_CTX takes effect with the next period record: at once only where nothing decoded
stands before it (R137, R139). DESIGN CHOICE, log entry 75: a write of DEPTHS other than zero is ignored. -/
def Dev.applyShadow (d : Dev) : ShadowW → Dev
  | .op L sel v =>
    if sel = 0x10 then (d.modLane L fun l => { l with primeDue := none }).set (PROG_PC.PC L) (v.toNat % 0x1000000)
    else if sel = 0x12 then d.modLane L fun l =>
      if l.records.isEmpty && !l.wait.isSome then { l with curCtx := v.toNat % 256, decCtx := v.toNat % 256, ctxMoved := false }
      else { l with decCtx := v.toNat % 256, ctxMoved := true }
    else if sel = 0x13 then
      if v = 0 then (d.modLane L fun l => { l with loops := [], calls := [], resident := [] }).showDepths L else d
    else if sel = 0x16 then d.set (PROG_STAT.STATE L) (v.toNat % 8)
    else if sel = 0x17 then d.set (PROG_STAT.ERR L) (v.toNat % 16)
    else d
  | .mem k a v =>
    let L := 64 * k + a / 512
    let i := a % 512 / 2
    d.modLane L fun l =>
      let c := l.ctx i
      let c' : BitVec 128 :=
        if a % 2 = 0 then BitVec.ofNat 128 (bits c 64 64 * 2 ^ 64 + v.toNat)
        else BitVec.ofNat 128 (v.toNat * 2 ^ 64 + bits c 0 64)
      { l with ctxs := tput (fun _ => 0) l.ctxs i c' }
  | .enq L r => if (d.lane L).queued < 16 then d.enqueue L { r with setCtx := (d.lane L).ctxMoved, at_ := d.epoch } else d
  | .flip k p mask => d.flip k p mask
  | .inval L => d.modLane L fun l => { l with cache := [], resident := [] }
  | .fetch L n => d.askLines L n
  | .push L pc iw => (d.pushLoop L pc iw).mark L iw
  | .pushCall L ret iw => (d.pushCall L ret iw).mark L iw
  | .popCall L => (d.popCall L).mark L retWord
  | .endLoop L => ((d.pcAdd L 1).endLoop L).mark L endloopWord

/-- The lane-state operands that a shadow entry holds: its lane, with PC (0x10), CUR_CTX, DEPTHS (0x13), STATE or ERR. -/
def ShadowW.ops : ShadowW → List (Nat × Nat)
  | .op L s _ => [(L, s)]
  | .push L _ _ | .pushCall L _ _ => [(L, 0x13)]
  | .popCall L | .endLoop L => [(L, 0x10), (L, 0x13)]
  | _ => []

/-- Two shadow entries concern one location: a lane-state operand of one lane, one memory word, or a generator's table
set (R149). -/
def sameLoc (a b : ShadowW) : Bool :=
  (a.ops.any fun x => b.ops.contains x) || match a, b with
  | .mem k a _, .mem k' a' _ => k == k' && a == a'
  | .flip k p m, .flip k' p' m' => k == k' && p == p' && (m &&& m') != 0
  | _, _ => false

/-- The state as the thread itself sees it: its shadow applied. -/
def Dev.view (d : Dev) (t : Thread) : Dev := t.shadow.foldl Dev.applyShadow d

/-- COMMIT: every shadow entry of the thread becomes visible together; a preempted routine whose shadow holds one of
the locations loses its shadow and restarts (R148, R149). -/
def Dev.commitShadow (d : Dev) (k ti : Nat) (t : Thread) : Dev :=
  let d := d.view t
  d.modCl k fun c => { c with threads := c.threads.map fun (i, u) =>
    if i != ti && u.shadow.any (fun a => t.shadow.any fun b => sameLoc a b) then
      (i, { u with shadow := [], restart := true }) else (i, u) }

/-! ### Operands (R139) -/

/-- The lane that a thread's lane operands mean: its own position in a decode turn, SEL in a service routine. -/
def laneOf (k ti : Nat) (t : Thread) : Option Nat :=
  if ti < 64 then some (64 * k + ti) else if t.sel < 64 then some (64 * k + t.sel) else none

/-- An operand's value; a reserved one reads a free value. -/
def Dev.operand (d : Dev) (k ti : Nat) (t : Thread) (sel : Nat) : DWord :=
  let v := d.view t
  let lane := fun (f : Nat → Nat) => match laneOf k ti t with
    | none => Config.freeValue d.free
    | some L => BitVec.ofNat 64 (f L)
  if sel < 16 then tget (fun _ => 0) t.g sel
  else if 0x80 ≤ sel then BitVec.ofNat 64 (sel - 0x80)
  else if sel = 0x10 then lane fun L => v.get (PROG_PC.PC L)
  else if sel = 0x11 then lane fun L => (v.lane L).p
  else if sel = 0x12 then lane fun L => (v.lane L).decCtx
  else if sel = 0x13 then lane fun L => (v.lane L).loops.length + 16 * (v.lane L).calls.length
  else if sel = 0x14 then lane fun L => v.get (PROG_ENTRY.ADDR L)
  else if sel = 0x15 then lane fun L => v.get (PROG_CTRL.CTX0 L)
  else if sel = 0x16 then lane fun L => v.get (PROG_STAT.STATE L)
  else if sel = 0x17 then lane fun L => v.get (PROG_STAT.ERR L)
  else if sel = 0x18 then BitVec.ofNat 64 (bits t.iw 0 64)
  else if sel = 0x19 then BitVec.ofNat 64 (bits t.iw 64 64)
  else if sel = 0x1A then lane fun L => 16 - (v.lane L).queued
  else if sel = 0x1B then BitVec.ofNat 64 t.sel
  else if sel = 0x1C then t.req
  else if sel = 0x1D then t.sig
  else if sel = 0x1E then BitVec.ofNat 64 t.step
  else if sel = 0x1F then BitVec.ofNat 64 (4 * (d.epoch / 4))
  else Config.freeValue d.free

/-- A destination takes a value: a G register, SEL, or a shadowed lane operand; others are not writable (R139). DESIGN CHOICE,
log entry 75: the spec gives SEL no width; it holds 7 bits here. -/
def Thread.put (t : Thread) (k ti sel : Nat) (v : DWord) : Thread :=
  if sel < 16 then { t with g := tput (fun _ => 0) t.g sel v }
  else if sel = 0x1B then { t with sel := v.toNat % 128 }
  else if sel = 0x10 || sel = 0x12 || sel = 0x13 || sel = 0x16 || sel = 0x17 then
    match laneOf k ti t with
    | none => t
    | some L => { t with shadow := t.shadow ++ [.op L sel v] }
  else t

/-! ### Running a word (R143) -/

/-- What a micro-op leaves: the device, the thread, whether the thread leaves the engine, and the next address. -/
structure URes where
  d : Dev
  t : Thread
  ends : Bool := false
  nxt : Nat

/-- A micro-op as it acts on the thread `ti` of cluster `k`. -/
abbrev UOp := Dev → Nat → Nat → Thread → Micro → URes

/-- The thread on the engine, where the engine may execute; a halted one runs to its next dispatch point (R143, R154,
R156, R379). -/
def Dev.onEngine (d : Dev) (k : Nat) : Option Nat :=
  let c := d.cl k
  if d.on (CL_STATE.MCHK k) || d.on (CL_STATE.QUIESCED k) || c.stepped || c.atDispatch then none else c.active

/-- Service micro-cycles of the last 5,120 (R145). -/
def Dev.countSvc (d : Dev) (k : Nat) : Dev :=
  let c := d.cl k
  let svc := (c.svc.filter fun x => decide (d.cycle < x + 5120)) ++ [d.cycle]
  (d.setCl k { c with svc }).set (SEQ_SVC_CNT.WINDOW k) (min svc.length 5120)

/-- Service micro-cycles among the last 5,120 now (SEQ_SVC_CNT.WINDOW). -/
def Dev.svcWindow (d : Dev) (k : Nat) : Nat := ((d.cl k).svc.filter fun x => decide (d.cycle < x + 5120)).length

/-- The end of a word: COMMIT, then leaving the engine, a dispatch point, or the next word (R143). -/
def Dev.uopEnd (d : Dev) (k ti : Nat) (w : Micro) (t : Thread) (ends : Bool) (nxt : Nat) : Dev :=
  let d := if w.commit then d.commitShadow k ti t else d
  let t := if w.commit then { t with shadow := [], mustCommit := false } else t
  let d := if 64 ≤ ti then d.countSvc k else d
  if ends then
    ((d.setThread k ti { t with resume := if t.suspended then some nxt else none }).modCl k fun c =>
      { c with active := none }).set (SEQ_STAT.ACTIVE k) 0
  else if w.irqOk then
    (d.setThread k ti { t with resume := some nxt }).modCl k fun c => { c with atDispatch := true }
  else (d.setThread k ti t).modCl k fun c => { c with upc := nxt }

/-- Execute one word on the thread that is on the engine. -/
def Dev.uopRun (d : Dev) (k ti : Nat) (w : Micro) (f : UOp) : Dev :=
  let r := f d k ti ((d.cl k).thread ti) w
  if r.d.on (CL_STATE.MCHK k) then r.d else r.d.uopEnd k ti w r.t r.ends r.nxt

/-- A micro-op row: the fetched word fails parity, is another word, or is this one (R143, R156). -/
def Dev.uop (d : Dev) (k op : Nat) (w : Micro) (f : UOp) : Dev :=
  match d.onEngine k with
  | none => d
  | some ti =>
    let x := (d.cl k).word (d.cl k).upc
    if evenParity x then d.machineCheck k (d.cl k).upc ti 0 0 x.toNat
    else if x != microWord op w then d
    else d.uopRun k ti w f

/-- A word that goes on at NEXT with a changed thread. -/
def uStep (d : Dev) (w : Micro) (t : Thread) : URes := { d, t, nxt := w.next.toNat }

/-- A word that ends the turn. -/
def uEnd (d : Dev) (w : Micro) (t : Thread) : URes := { d, t, ends := true, nxt := w.next.toNat }

/-- A word that stops the program of the thread's lane with ERR `err` and ends the turn. What the turn has shadowed becomes
visible with its COMMIT, and the program stops when it comes there (R137, R141, R148). -/
def uStop (d : Dev) (k ti : Nat) (w : Micro) (t : Thread) (err : Nat) : URes :=
  match laneOf k ti t with
  | none => uEnd d w t
  | some L =>
    let d := if w.commit then d.commitShadow k ti t else d
    uEnd (d.decodeStop L err) w { t with shadow := [] }

/-! ### The micro-ops (R141) -/

/-- NOP. -/
def opNop : UOp := fun d _ _ t w => uStep d w t

/-- MOV: A ← B. -/
def opMov : UOp := fun d k ti t w => uStep d w (t.put k ti w.a.toNat (d.operand k ti t w.b.toNat))

/-- ADD. -/
def opAdd : UOp := fun d k ti t w =>
  let r := aluAdd (d.operand k ti t w.a.toNat) (d.operand k ti t w.b.toNat)
  uStep d w ((t.put k ti w.a.toNat r.val).flags r)

/-- SUB; C is a free value. -/
def opSub : UOp := fun d k ti t w =>
  let r := aluSub (d.operand k ti t w.a.toNat) (d.operand k ti t w.b.toNat) (d.draw.1.getLsbD 0)
  uStep d.draw.2 w ((t.put k ti w.a.toNat r.val).flags r)

/-- A logic operation: A, Z and N. -/
def opLogic (f : DWord → DWord → DWord) : UOp := fun d k ti t w =>
  let r := f (d.operand k ti t w.a.toNat) (d.operand k ti t w.b.toNat)
  uStep d w ((t.put k ti w.a.toNat r).zn r)

/-- An operation that leaves the flags. -/
def opPlain (f : DWord → DWord → DWord) : UOp := fun d k ti t w =>
  uStep d w (t.put k ti w.a.toNat (f (d.operand k ti t w.a.toNat) (d.operand k ti t w.b.toNat)))

/-- LDI: A ← 256 × C + B, B as raw bits. -/
def opLdi : UOp := fun d k ti t w =>
  uStep d w (t.put k ti w.a.toNat (BitVec.ofNat 64 (256 * w.c.toNat + w.b.toNat)))

/-- CMP: the flags of A − B; C is a free value. -/
def opCmp : UOp := fun d k ti t w =>
  uStep d.draw.2 w (t.flags (aluSub (d.operand k ti t w.a.toNat) (d.operand k ti t w.b.toNat) (d.draw.1.getLsbD 0)))

/-- TST: Z and N of A and B. -/
def opTst : UOp := fun d k ti t w =>
  uStep d w (t.zn (d.operand k ti t w.a.toNat &&& d.operand k ti t w.b.toNat))

/-- SEXT: A sign-extended from the width of C. -/
def opSext : UOp := fun d k ti t w =>
  uStep d w (t.put k ti w.a.toNat (signExtendFrom (d.operand k ti t w.a.toNat) (widthOf w.c.toNat)))

/-- FLD: bits of the current instruction from bit B; a field that runs past bit 127 has no stated value. -/
def opFld : UOp := fun d k ti t w =>
  let lo := (d.operand k ti t w.b.toNat).toNat
  let n := widthOf w.c.toNat
  if lo + n ≤ 128 then uStep d w (t.put k ti w.a.toNat (BitVec.ofNat 64 (bits t.iw lo n)))
  else uStep d.draw.2 w (t.put k ti w.a.toNat d.draw.1)

/-- NEXTI: PC ← PC + 1 + B, B signed; ends the turn. -/
def opNexti : UOp := fun d k ti t w =>
  match laneOf k ti t with
  | none => uEnd d w t
  | some L =>
    let pc := (((d.view t).get (PROG_PC.PC L) : Nat) : Int) + 1 + (d.operand k ti t w.b.toNat).toInt
    uEnd d w { t with shadow := t.shadow ++ [.op L 0x10 (BitVec.ofNat 64 (pc % 0x1000000).toNat)] }

/-- ENDT. -/
def opEndt : UOp := fun d _ _ t w => uEnd d w t

/-- JPC: PC ← B; ends the turn. -/
def opJpc : UOp := fun d k ti t w => uEnd d w (t.put k ti 0x10 (d.operand k ti t w.b.toNat))

/-- PUSHL: a loop frame, or STACK at depth 8. -/
def opPushl : UOp := fun d k ti t w =>
  match laneOf k ti t with
  | none => uStep d w t
  | some L =>
    let v := d.view t
    if 8 ≤ (v.lane L).loops.length then uStop d k ti w t 4
    else uStep d w { t with shadow := t.shadow ++ [.push L (v.get (PROG_PC.PC L)) t.iw] }

/-- ENDL: the ENDLOOP of R116; ends the turn. -/
def opEndl : UOp := fun d k ti t w =>
  match laneOf k ti t with
  | none => uEnd d w t
  | some L =>
    let v := d.view t
    match (v.lane L).loops with
    | [] => uStop d k ti w t 4
    | f :: _ =>
      if f.zero (v.lane L) then uStop d k ti w t 6
      else uEnd d w { t with shadow := t.shadow ++ [.endLoop L] }

/-- PUSHC: the return address PC + 1, or STACK at depth 8. -/
def opPushc : UOp := fun d k ti t w =>
  match laneOf k ti t with
  | none => uStep d w t
  | some L =>
    let v := d.view t
    if 8 ≤ (v.lane L).calls.length then uStop d k ti w t 4
    else uStep d w { t with shadow := t.shadow ++ [.pushCall L ((v.get (PROG_PC.PC L) + 1) % 0x1000000) t.iw] }

/-- POPC: PC ← the popped return address, or STACK; ends the turn. -/
def opPopc : UOp := fun d k ti t w =>
  match laneOf k ti t with
  | none => uEnd d w t
  | some L =>
    let v := d.view t
    if (v.lane L).retBad then uStop d k ti w t 4
    else uEnd d w { t with shadow := t.shadow ++ [.popCall L] }

/-- A record enqueued from the current instruction, tagged with CUR_CTX and PROG_RING (R141). -/
def enq (d : Dev) (k ti : Nat) (t : Thread) (kind : RecKind) : Thread :=
  match laneOf k ti t with
  | none => t
  | some L => { t with shadow := t.shadow ++ [.enq L ((d.view t).record L kind t.iw)] }

/-- A micro-op that enqueues a record and goes on. -/
def opEnq (kind : RecKind) : UOp := fun d k ti t w => uStep d w (enq d k ti t kind)

/-- A micro-op that enqueues a record and ends the turn. -/
def opEnqEnd (kind : RecKind) : UOp := fun d k ti t w => uEnd d w (enq d k ti t kind)

/-- STOPL: the program stops with ERR = C; ends the turn (R141, R109). -/
def opStopl : UOp := fun d k ti t w => uStop d k ti w t w.c.toNat

/-- Level of a thread: decode lies below every service level. -/
def levelOf (ti : Nat) : Int := if ti < 64 then -1 else (ti : Int) - 64

/-- A request waits at a level above `lv`. -/
def Dev.pendAbove (d : Dev) (k : Nat) (lv : Int) : Bool :=
  let c := d.cl k
  (decide (lv < 2) && !c.pend2.isEmpty) || (decide (lv < 1) && c.pend1.isSome) || (decide (lv < 0) && c.pend0.isSome)

/-- The requester of a service thread asks it to stop at its next checkpoint: the self-test controller for level 0, Caliper
for level 1 (R140, R156, R253, R312). -/
def Dev.abortAsked (d : Dev) (k ti : Nat) : Bool :=
  if ti = 64 then [0, 1].any fun i => match d.slice i with
    | none => false
    | some sl => sl.tgt.cluster == k && !sl.tgt.trunk && (sl.abort || sl.phase == 5)
  else ti == 65 && d.cal.runs.any fun ((j, r) : Nat × CalRun) => j == k && r.stepAbort

/-- The inactive table set of channel `p` is complete: STX has written all its words, or Caliper's tables are on their way in
(R140, R142). -/
def Dev.bankDone (d : Dev) (k p : Nat) : Bool :=
  tget (fun _ => 0) (d.cl k).bank p == BitVec.allOnes 768 || (d.ph k p).pdTo.isSome

/-- The conditions of BR (R140). -/
def Dev.cond (d : Dev) (k ti : Nat) (t : Thread) (n : Nat) : Bool :=
  let v := d.view t
  let lane := fun (f : Lane → Bool) => match laneOf k ti t with | none => false | some L => f (v.lane L)
  match n with
  | 0 => true
  | 1 => t.z
  | 2 => t.n
  | 3 => t.c
  | 4 => t.v
  | 5 => t.z || t.n != t.v
  | 6 => t.n != t.v
  | 7 => t.addrErr
  | 8 => t.poison
  | 9 => d.abortAsked k ti
  | 10 => d.pendAbove k (levelOf ti)
  | 11 => lane fun l => 16 ≤ l.queued
  | 12 => lane fun l => l.loops.length == 8
  | 13 => lane fun l => l.calls.length == 8
  | 14 => d.bankDone k t.sel
  | _ => false

/-- The target of BR and CALLU: C[2:0] × 256 + A. -/
def uTarget (w : Micro) : Nat := w.c.toNat % 8 * 256 + w.a.toNat

/-- BR: the target when condition B, XOR C[3], holds. -/
def opBr : UOp := fun d k ti t w =>
  let holds := d.cond k ti t (w.b.toNat - 0x80) != w.c.getLsbD 3
  { d, t, nxt := if holds then uTarget w else w.next.toNat }

/-- CALLU: LINK ← NEXT, and the target. -/
def opCallu : UOp := fun d _ _ t w => { d, t := { t with link := w.next.toNat }, nxt := uTarget w }

/-- RETU: LINK. -/
def opRetu : UOp := fun d _ _ t _ => { d, t, nxt := t.link }

/-- TRAP: a machine check with CODE = A (R156). -/
def opTrap : UOp := fun d k ti t w =>
  let c := d.cl k
  uStep (d.machineCheck k c.upc ti 3 w.a.toNat (c.word c.upc).toNat) w t

/-- A cluster memory address that exists (R142). -/
def memOk (a : Nat) : Bool :=
  a < 0x8000 || (0x10000 ≤ a && a < 0x1CC00) || (0x20000 ≤ a && a < 0x20400)

/-- The ADDR condition and SEQ_STAT.ADDR_ERR (R142). -/
def uAddrErr (d : Dev) (k : Nat) (t : Thread) (w : Micro) : URes :=
  uStep (d.stick (SEQ_STAT.ADDR_ERR k)) w { t with addrErr := true }

/-- LDX: A ← the cluster memory word at B; zero from a reserved address (R142). -/
def opLdx : UOp := fun d k ti t w =>
  let a := (d.operand k ti t w.b.toNat).toNat
  if !memOk a then uAddrErr d k (t.put k ti w.a.toNat 0) w
  else
    let x : DWord :=
      if a < 0x8000 then
        let c := (((d.view t).lane (64 * k + a / 512)).ctx (a % 512 / 2))
        BitVec.ofNat 64 (if a % 2 = 0 then bits c 0 64 else bits c 64 64)
      else tget (d.cl k).memDefault (d.cl k).mem a
    uStep d w { t.put k ti w.a.toNat x with addrErr := false }

/-- A word of cluster memory outside the contexts is written; of an inactive table set it counts as written (R140, R142). -/
def Cluster.memPut (c : Cluster) (a : Nat) (v : DWord) : Cluster :=
  { c with
    mem := tput c.memDefault c.mem a v
    bank := if 0x10000 ≤ a && a < 0x1CC00 then
        tmod (fun _ => 0) c.bank ((a - 0x10000) / 768) fun b => b ||| (1#768 <<< ((a - 0x10000) % 768))
      else c.bank }

/-- STX: the cluster memory word at B ← A; contexts are visible state, the rest is written at once (R142, R148). -/
def opStx : UOp := fun d k ti t w =>
  let a := (d.operand k ti t w.b.toNat).toNat
  let v := d.operand k ti t w.a.toNat
  if !memOk a then uAddrErr d k t w
  else if a < 0x8000 then uStep d w { t with shadow := t.shadow ++ [.mem k a v], addrErr := false }
  else uStep (d.modCl k fun c => c.memPut a v) w { t with addrErr := false }

/-- HBMRD: posts a 64-byte read at B. -/
def opHbmrd : UOp := fun d k ti t w =>
  uStep d w { t with posted := t.posted ++ [((d.operand k ti t w.b.toNat).toNat, none)] }

/-- HBMWR: posts a 64-byte write of the service buffer at B. -/
def opHbmwr : UOp := fun d k ti t w =>
  uStep d w { t with posted := t.posted ++
    [((d.operand k ti t w.b.toNat).toNat, some ((t.buf ++ List.replicate 64 0).take 64))] }

/-- HBMSYNC: the routine leaves the engine until its posted operations complete. -/
def opHbmsync : UOp := fun d _ _ t w => uEnd d w { t with suspended := true }

/-- SIGF: the fold, and STEP + 1. -/
def opSigf : UOp := fun d k ti t w =>
  uStep d w { t with sig := sigFold t.sig (d.operand k ti t w.a.toNat), step := t.step + 1 }

/-- MBOX: A to the requester of the level. -/
def opMbox : UOp := fun d k ti t w =>
  uStep (d.modCl k fun c => { c with mbox := tput (fun _ => 0) c.mbox (ti - 64) (d.operand k ti t w.a.toNat) }) w t

/-- SELL: SEL ← B, of the width that the model gives SEL (DESIGN CHOICE, log entry 75). -/
def opSell : UOp := fun d k ti t w => uStep d w { t with sel := (d.operand k ti t w.b.toNat).toNat % 128 }

/-- FLIP of SEL's generators in mask B, in the shadow. -/
def opFlip : UOp := fun d k ti t w =>
  uStep d w { t with shadow := t.shadow ++ [.flip k t.sel ((d.operand k ti t w.b.toNat).toNat % 64)] }

/-- INVC of lane SEL, in the shadow. -/
def opInvc : UOp := fun d k ti t w =>
  uStep d w { t with shadow := t.shadow ++ (match laneOf k ti t with | none => [] | some L => [.inval L]) }

/-- FETCHQ of B lines from lane SEL's PC, in the shadow. -/
def opFetchq : UOp := fun d k ti t w =>
  let n := (d.operand k ti t w.b.toNat).toNat % 128
  uStep d w { t with shadow := t.shadow ++ (match laneOf k ti t with | none => [] | some L => [.fetch L n]) }

/-- RETI: the service routine ends. -/
def opReti : UOp := fun d _ _ t w => uEnd d w t

/-! ### The rows -/

/-- NOP (R141). -/
def execUNop (k : Clu) (w : Micro) (s : State) : Result := s.on fun d => d.uop k 0x00 w opNop
/-- MOV (R141). -/
def execUMov (k : Clu) (w : Micro) (s : State) : Result := s.on fun d => d.uop k 0x01 w opMov
/-- ADD (R141). -/
def execUAdd (k : Clu) (w : Micro) (s : State) : Result := s.on fun d => d.uop k 0x02 w opAdd
/-- SUB (R141). -/
def execUSub (k : Clu) (w : Micro) (s : State) : Result := s.on fun d => d.uop k 0x03 w opSub
/-- AND (R141). -/
def execUAnd (k : Clu) (w : Micro) (s : State) : Result := s.on fun d => d.uop k 0x04 w (opLogic fun a b => a &&& b)
/-- OR (R141). -/
def execUOr (k : Clu) (w : Micro) (s : State) : Result := s.on fun d => d.uop k 0x05 w (opLogic fun a b => a ||| b)
/-- XOR (R141). -/
def execUXor (k : Clu) (w : Micro) (s : State) : Result := s.on fun d => d.uop k 0x06 w (opLogic fun a b => a ^^^ b)
/-- SHL by B mod 64 (R141). -/
def execUShl (k : Clu) (w : Micro) (s : State) : Result :=
  s.on fun d => d.uop k 0x07 w (opPlain fun a b => a <<< (b.toNat % 64))
/-- SHR by B mod 64, logical (R141). -/
def execUShr (k : Clu) (w : Micro) (s : State) : Result :=
  s.on fun d => d.uop k 0x08 w (opPlain fun a b => a >>> (b.toNat % 64))
/-- SAR by B mod 64, arithmetic (R141). -/
def execUSar (k : Clu) (w : Micro) (s : State) : Result :=
  s.on fun d => d.uop k 0x09 w (opPlain fun a b => a.sshiftRight (b.toNat % 64))
/-- LDI (R141). -/
def execULdi (k : Clu) (w : Micro) (s : State) : Result := s.on fun d => d.uop k 0x0A w opLdi
/-- CMP (R141). -/
def execUCmp (k : Clu) (w : Micro) (s : State) : Result := s.on fun d => d.uop k 0x0B w opCmp
/-- TST (R141). -/
def execUTst (k : Clu) (w : Micro) (s : State) : Result := s.on fun d => d.uop k 0x0C w opTst
/-- MIN, signed (R141). -/
def execUMin (k : Clu) (w : Micro) (s : State) : Result := s.on fun d => d.uop k 0x0D w (opPlain minSigned)
/-- MAX, signed (R141). -/
def execUMax (k : Clu) (w : Micro) (s : State) : Result := s.on fun d => d.uop k 0x0E w (opPlain maxSigned)
/-- SEXT (R141, R140). -/
def execUSext (k : Clu) (w : Micro) (s : State) : Result := s.on fun d => d.uop k 0x0F w opSext
/-- FLD (R141, R140). -/
def execUFld (k : Clu) (w : Micro) (s : State) : Result := s.on fun d => d.uop k 0x10 w opFld
/-- NEXTI (R141). -/
def execUNexti (k : Clu) (w : Micro) (s : State) : Result := s.on fun d => d.uop k 0x11 w opNexti
/-- ENDT (R141). -/
def execUEndt (k : Clu) (w : Micro) (s : State) : Result := s.on fun d => d.uop k 0x12 w opEndt
/-- JPC (R141). -/
def execUJpc (k : Clu) (w : Micro) (s : State) : Result := s.on fun d => d.uop k 0x13 w opJpc
/-- PUSHL (R141, R115, R126, R127). -/
def execUPushl (k : Clu) (w : Micro) (s : State) : Result := s.on fun d => d.uop k 0x14 w opPushl
/-- ENDL (R141, R116). -/
def execUEndl (k : Clu) (w : Micro) (s : State) : Result := s.on fun d => d.uop k 0x15 w opEndl
/-- PUSHC (R141, R115). -/
def execUPushc (k : Clu) (w : Micro) (s : State) : Result := s.on fun d => d.uop k 0x16 w opPushc
/-- POPC (R141, R115). -/
def execUPopc (k : Clu) (w : Micro) (s : State) : Result := s.on fun d => d.uop k 0x17 w opPopc
/-- PERQ (R141). -/
def execUPerq (k : Clu) (w : Micro) (s : State) : Result := s.on fun d => d.uop k 0x18 w (opEnq .period)
/-- CANQ (R141). -/
def execUCanq (k : Clu) (w : Micro) (s : State) : Result := s.on fun d => d.uop k 0x19 w (opEnq .cand)
/-- CTXQ (R141). -/
def execUCtxq (k : Clu) (w : Micro) (s : State) : Result := s.on fun d => d.uop k 0x1A w (opEnq .ctx)
/-- MATQ (R141). -/
def execUMatq (k : Clu) (w : Micro) (s : State) : Result := s.on fun d => d.uop k 0x1B w (opEnq .mat)
/-- FIREQ (R141). -/
def execUFireq (k : Clu) (w : Micro) (s : State) : Result := s.on fun d => d.uop k 0x1C w (opEnq .fire)
/-- MEASQ (R141). -/
def execUMeasq (k : Clu) (w : Micro) (s : State) : Result := s.on fun d => d.uop k 0x1D w (opEnq .meas)
/-- WAITQ (R141). -/
def execUWaitq (k : Clu) (w : Micro) (s : State) : Result := s.on fun d => d.uop k 0x1E w (opEnqEnd .wait)
/-- HALTQ (R141). -/
def execUHaltq (k : Clu) (w : Micro) (s : State) : Result := s.on fun d => d.uop k 0x1F w (opEnqEnd .halt)
/-- STOPL (R141, R109). -/
def execUStopl (k : Clu) (w : Micro) (s : State) : Result := s.on fun d => d.uop k 0x20 w opStopl
/-- BR (R143, R140). -/
def execUBr (k : Clu) (w : Micro) (s : State) : Result := s.on fun d => d.uop k 0x21 w opBr
/-- CALLU (R143). -/
def execUCallu (k : Clu) (w : Micro) (s : State) : Result := s.on fun d => d.uop k 0x22 w opCallu
/-- RETU (R143). -/
def execURetu (k : Clu) (w : Micro) (s : State) : Result := s.on fun d => d.uop k 0x23 w opRetu
/-- TRAP (R156). -/
def execUTrap (k : Clu) (w : Micro) (s : State) : Result := s.on fun d => d.uop k 0x24 w opTrap
/-- LDX (R142). -/
def execULdx (k : Clu) (w : Micro) (s : State) : Result := s.on fun d => d.uop k 0x28 w opLdx
/-- STX (R142). -/
def execUStx (k : Clu) (w : Micro) (s : State) : Result := s.on fun d => d.uop k 0x29 w opStx

/-- The word passes parity and would execute with an HBM address of 64 bytes outside the 16 GiB of HBM (R25). -/
def Dev.hbmOutside (d : Dev) (k op : Nat) (w : Micro) : Bool :=
  match d.onEngine k with
  | none => false
  | some ti =>
    (d.cl k).word (d.cl k).upc == microWord op w && !evenParity (microWord op w) &&
      decide (hbmSize < (d.operand k ti ((d.cl k).thread ti) w.b.toNat).toNat + 64)

/-- HBMRD (R141); the spec gives no HBM outside 16 GiB. -/
def execUHbmrd (k : Clu) (w : Micro) (s : State) : Result :=
  if s.toDev.hbmOutside k 0x2A w then .fault .hbmAddress else s.on fun d => d.uop k 0x2A w opHbmrd
/-- HBMWR (R141); the spec gives no HBM outside 16 GiB. -/
def execUHbmwr (k : Clu) (w : Micro) (s : State) : Result :=
  if s.toDev.hbmOutside k 0x2B w then .fault .hbmAddress else s.on fun d => d.uop k 0x2B w opHbmwr
/-- HBMSYNC (R141). -/
def execUHbmsync (k : Clu) (w : Micro) (s : State) : Result := s.on fun d => d.uop k 0x2C w opHbmsync

/-- A thread's posted operations in order: a write stores its bytes, the last read fills the buffer; `rd` reads a byte. -/
def hbmPost (rd : List Host.Cell → Nat → Byte) (mem : List Host.Cell) (buf : List Byte) : List (Nat × Option (List Byte)) → List Host.Cell × List Byte
  | [] => (mem, buf)
  | (a, none) :: r => hbmPost rd mem ((List.range 64).map fun i => rd mem (a + i)) r
  | (a, some b) :: r => hbmPost rd (writeBytes hbmDefault hbmSize mem a b) buf r

/-- The posted operations of the service thread of a level complete: POISON is set for poisoned data and the routine
may resume (R141). -/
def execHbmsyncComplete (k : Clu) (level : Fin 3) (poison : Bool) (s : State) : Result :=
  let t := (s.toDev.cl k).thread (64 + level)
  if t.posted.isEmpty && !t.suspended then .next s
  else
    let r := hbmPost s.toDev.hbmByte s.hbm t.buf t.posted
    let bad := poison || t.posted.any fun p => p.2.isNone &&
      (s.poison.any fun x => decide (p.1 / 8 ≤ x) && decide (x < (p.1 + 64) / 8))
    let d := s.toDev.setThread k (64 + level) { t with buf := r.2, posted := [], suspended := false, poison := bad }
    let d := d.stickIf bad (SEQ_STAT.POISON k)
    .next { s with toDev := d, hbm := r.1 }

/-- SIGF (R141, R313). -/
def execUSigf (k : Clu) (w : Micro) (s : State) : Result := s.on fun d => d.uop k 0x2D w opSigf
/-- MBOX (R141). -/
def execUMbox (k : Clu) (w : Micro) (s : State) : Result := s.on fun d => d.uop k 0x2E w opMbox
/-- SELL (R141). -/
def execUSell (k : Clu) (w : Micro) (s : State) : Result := s.on fun d => d.uop k 0x2F w opSell
/-- FLIP (R141, R70). -/
def execUFlip (k : Clu) (w : Micro) (s : State) : Result := s.on fun d => d.uop k 0x30 w opFlip
/-- INVC (R141). -/
def execUInvc (k : Clu) (w : Micro) (s : State) : Result := s.on fun d => d.uop k 0x31 w opInvc
/-- FETCHQ (R141). -/
def execUFetchq (k : Clu) (w : Micro) (s : State) : Result := s.on fun d => d.uop k 0x32 w opFetchq
/-- RETI (R141). -/
def execUReti (k : Clu) (w : Micro) (s : State) : Result := s.on fun d => d.uop k 0x33 w opReti

/-! ### Dispatch (R145) -/

/-- The decode thread of a lane waits for a turn (R145). While priming, up to 8 instructions are decoded (R131). -/
def Dev.decodeWaits (d : Dev) (L : Nat) : Bool :=
  let l := d.lane L
  !l.asleep && decide (l.queued < 16) && (l.primeT0.isNone || decide (l.decoded < 8))
    && l.cache.contains (d.get (PROG_PC.PC L) / 16)

/-- The lane is PRIMING, ARMED or RUNNING: its decode thread may run (R145). -/
def Dev.decodes (d : Dev) (L : Nat) : Bool := d.progState L == 1 || d.progState L == 3 || d.progState L == 4

/-- The next waiting lane position after the last one served, in lane order (R145). -/
def Dev.nextLane (d : Dev) (k : Nat) : Option Nat :=
  let c := d.cl k
  (List.range 64).findSome? fun i =>
    let j := (c.lastLane + 1 + i) % 64
    if d.decodes (64 * k + j) && ((c.thread j).resume.isSome || d.decodeWaits (64 * k + j)) then some j else none

/-- A service thread that was preempted and may resume. -/
def Thread.preempted (t : Thread) : Bool := t.resume.isSome && !t.suspended

/-- Level `lv` has a routine to run: a preempted one, or a request while no load quiesces (R145, R153). -/
def Dev.levelReady (d : Dev) (k lv : Nat) : Bool :=
  let c := d.cl k
  let mine := c.active == some (64 + lv)
  let other := ([0, 1, 2].any fun j => j != lv && (c.thread (64 + j)).mustCommit)
    || (c.threads.any fun x => decide (x.1 < 64) && x.2.mustCommit && d.decodes (64 * k + x.1))
  if mine then false
  else if (c.thread (64 + lv)).preempted then !other
  else if (c.thread (64 + lv)).suspended || d.get (SEQ_LOAD_STAT.STATE k) != 0 || other then false
  else if lv = 2 then !c.pend2.isEmpty else if lv = 1 then c.pend1.isSome else c.pend0.isSome

/-- A thread takes the engine at an address; a word there that fails parity is a machine check when it executes. -/
def Dev.engage (d : Dev) (k ti upc : Nat) (t : Thread) : Dev :=
  let d := (d.setThread k ti { t with resume := none }).modCl k fun c => { c with active := some ti, upc, atDispatch := false }
  d.set (SEQ_STAT.ACTIVE k) (if ti < 64 then 1 else ti - 62)

/-- Address of a service vector of the image (R144, R150). -/
def Cluster.vectorAt (c : Cluster) (v : Nat) : Nat := tget (fun _ => 0) c.vectors v % 2048

/-- Run level `lv`: resume its preempted routine, from its vector where it must restart, or start its oldest request
(R145, R147, R149). -/
def Dev.runLevel (d : Dev) (k lv : Nat) : Dev :=
  let c := d.cl k
  let t := c.thread (64 + lv)
  if t.preempted then
    if t.restart then
      (d.bump (SEQ_SVC_CNT.RESTARTS k)).engage k (64 + lv) (c.vectorAt t.vector)
        { t with restart := false, mustCommit := true, shadow := [] }
    else d.engage k (64 + lv) (t.resume.getD 0) t
  else if lv = 2 then
    match c.pend2 with
    | [] => d
    | (v, j, t0) :: r =>
      let d := (d.setCl k { c with pend2 := r }).showReq k
      let d := d.maxUp (SEQ_LAT_MAX.CYCLES k) (d.up / 4 - t0 / 4)
      d.engage k 66 (c.vectorAt v) { t with vector := v, req := BitVec.ofNat 64 j, sel := j, shadow := [] }
  else
    let v := (if lv = 1 then c.pend1 else c.pend0).getD 0
    let d := (d.setCl k (if lv = 1 then { c with pend1 := none } else { c with pend0 := none })).showReq k
    d.engage k (64 + lv) (c.vectorAt v) { t with vector := v, shadow := [], sig := 0, step := 0 }

/-- One turn of a decode thread: resumed where it was preempted, or started at the dispatch entry of the instruction
at its PC; a restarted one runs to its next COMMIT with no service routine dispatched in between (R149). An invalid entry stops
the program with OPCODE, an entry beyond the region with RANGE, a poisoned one with POISON (R141, R105, R107), when the
program comes there (R137). -/
def Dev.runDecode (d : Dev) (k j : Nat) (iw : BitVec 128) : Dev :=
  let c := d.cl k
  let L := 64 * k + j
  let t := c.thread j
  let d := d.modCl k fun c => { c with lastLane := j }
  if t.resume.isSome && !t.restart then d.engage k j (t.resume.getD 0) t
  else
    let rest : Thread := { t with resume := none, restart := false, shadow := [] }
    if d.evsEntries L ≤ d.get (PROG_PC.PC L) then (d.setThread k j rest).decodeStop L 5
    else if d.evsPoison L (16 * d.get (PROG_PC.PC L)) 16 then (d.setThread k j rest).decodeStop L 2
    else
      let e := tget (fun _ => 0) c.dispatch (iwOpcode iw)
      let d := if t.restart then d.bump (SEQ_SVC_CNT.RESTARTS k)
        else d.modLane L fun l => { l with decoded := l.decoded + 1 }
      if e / 0x8000 % 2 = 0 then (d.setThread k j rest).decodeStop L 3
      else d.engage k j (e % 2048) { rest with iw, mustCommit := t.restart }

/-- A dispatch point, or an idle micro-cycle (R145): the highest ready level above the routine on the engine while the
budget allows or no decode thread waits; else that routine goes on; else the next waiting lane takes a turn. -/
def Dev.dispatch (d : Dev) (k : Nat) (entry : Nat → BitVec 128) : Dev :=
  let c := d.cl k
  if d.on (CL_STATE.MCHK k) || d.on (CL_STATE.QUIESCED k) || c.halted || (c.active.isSome && !c.atDispatch) then d
  else
    let now : Int := match c.active with | none => -1 | some ti => levelOf ti
    let waits := d.nextLane k
    let budget := decide (d.svcWindow k ≤ d.get (SEQ_CTRL.SVC_THRESH k)) || waits.isNone
    let h := ([2, 1, 0] : List Nat).find? fun (lv : Nat) => decide (now < (lv : Int)) && d.levelReady k lv
    match h, budget with
    | some lv, true => d.runLevel k lv
    | _, _ =>
      match c.active with
      | some ti =>
        if 64 ≤ ti && budget then d.engage k ti ((c.thread ti).resume.getD 0) (c.thread ti)
        else
          let d := d.modCl k fun c => { c with active := none, atDispatch := false }
          match waits with
          | some j => d.runDecode k j (entry (64 * k + j))
          | none => d.set (SEQ_STAT.ACTIVE k) 0
      | none =>
        match waits with
        | some j => d.runDecode k j (entry (64 * k + j))
        | none => d

/-- The EVS entry at a lane's PC, from HBM (R104). -/
def State.entryAt (s : State) (L : Nat) : BitVec 128 := s.entryOf L (s.toDev.get (PROG_PC.PC L))

/-- ENGINE_DISPATCH (R145). -/
def execEngineDispatch (k : Clu) (s : State) : Result := s.on fun d => d.dispatch k s.entryAt

end Sys2Proof.Machine
end

