-- ==== Sys2Proof/Machine/Bist.lean ====
section
/-! DEFINITION. Background self-test (12): targets and their order, slices and their verdicts, findings, repairs and
repair records, the march of a control store, and the commands of the page (R302 to R304, R309 to R326). -/

namespace Sys2Proof.Machine

/-- The self-test page. -/
abbrev bistPage : Page := .dev 5

/-- Sessions that own the page. -/
def Dev.bistOwner (d : Dev) : List Nat := optL (d.owner bistPage)

/-- A source of the page that concerns no session in particular is set in every session's copy. -/
def Dev.bistIrqEvery (d : Dev) (bit : Nat) : Dev :=
  d.irqAll bistPage (d.sess.filterMap fun ((s, x) : Nat × Session) => if x.live then some s else none) bit

/-! ### Targets (R309, R315) -/

/-- The target at a place of the rotation. -/
def targetAt (n : Nat) : Target :=
  let t := fun (ty k inst set : Nat) => ({ ty, cluster := k, inst, set, trunk := false } : Target)
  if n < 1024 then t 0 (n / 64) (n % 64) 0
  else if n < 3072 then t 1 ((n - 1024) / 128) ((n - 1024) % 128 / 2) (n % 2)
  else if n < 5248 then t 2 ((n - 3072) / 136) ((n - 3072) % 136 / 2) (n % 2)
  else if n < 5264 then t 4 (n - 5248) 0 0
  else if n < 6352 then t 5 ((n - 5264) / 68) ((n - 5264) % 68) 0
  else if n < 6896 then t 6 ((n - 6352) / 34) ((n - 6352) % 34) 0
  else { ty := 6, cluster := 0, inst := 127, set := 0, trunk := true }

/-- The target that TYPE, CLUSTER, TRUNK, INSTANCE and SET name, where there is one. -/
def targetOf (ty k : Nat) (trunk : Bool) (inst set : Nat) : Option Target :=
  if trunk then (if ty = 6 then some (targetAt 6896) else none)
  else
    let bound := [64, 64, 68, 0, 1, 68, 34].getD ty 0
    if bound ≤ inst || 16 ≤ k then none
    else some { ty, cluster := k, inst, set := if ty = 1 || ty = 2 then set else 0, trunk := false }

/-- What the controller keeps of a target. -/
def Dev.tgtInfo (d : Dev) (t : Target) : TgtInfo := tget (fun _ => {}) d.bist.info t.key

/-- The lane position a channel serves, as a logical channel. -/
def Dev.laneOfPhys (d : Dev) (k p : Nat) : Option Nat :=
  let r := d.get (CH_PHYS_STAT.ROLE k p)
  if r = 1 || r = 2 then some (64 * k + d.get (CH_PHYS_STAT.LANE k p)) else none

/-- The session that holds the lane of a region (R318). -/
def Dev.tgtHolder (d : Dev) (t : Target) : List Nat :=
  if t.trunk then []
  else if t.ty ≤ 1 then d.holderL (64 * t.cluster + t.inst)
  else if t.ty = 2 then (match d.laneOfPhys t.cluster t.inst with | none => [] | some L => d.holderL L)
  else []

/-- Word width of a region (R318). -/
def wordWidth (ty : Nat) : Nat := if ty ≤ 2 then 72 else if ty = 3 then 24 else if ty = 4 then 40 else 0

/-- ADDR of a self-test message about a target: BITADDR, SET, TYPE, INSTANCE and CLUSTER (R318, R329). -/
def bistAddr (t : Target) (word bit : Nat) : Nat :=
  (if t.ty < 5 then (word * wordWidth t.ty + bit) % 2 ^ 17 else 0) + 2 ^ 17 * t.set + 2 ^ 18 * t.ty + 2 ^ 21 * t.inst
    + 2 ^ 28 * t.cluster

/-- A self-test message to the device ring and to the holder of the region (R318). -/
def Dev.bistMsg (d : Dev) (kind sev : Nat) (t : Target) (word bit : Nat) : Dev :=
  d.raise 5 kind sev (bistAddr t word bit) (d.tgtHolder t)

/-- An entry of the log of 64, newest first; the holder of the region and the page's owner learn of it (R318). -/
def Dev.bistLog (d : Dev) (f : Finding) : Dev :=
  let d := { d with bist := { d.bist with log := (f :: d.bist.log).take 64 } }
  d.irqAll bistPage (d.tgtHolder f.tgt ++ d.bistOwner).eraseDups 0

/-! ### Slices (R310, R311) -/

/-- The steps of a slice: 1 SAVE, 2 TEST or 3 RESTORE, and the T0 that each takes (R311). -/
def sliceSteps (ty : Nat) : List (Nat × Nat) :=
  let n := fun (k phase t0 : Nat) => List.replicate k (phase, t0)
  match ty with
  | 0 => n 1 1 2048 ++ n 16 2 2560 ++ n 1 3 2048
  | 1 => n 8 2 5120 ++ n 1 3 256
  | 2 => n 10 2 3072 ++ n 1 2 3200
  | 4 => n 2 2 4096 ++ n 1 3 128
  | 5 => n 1 1 640 ++ n 17 2 0 ++ n 1 3 640
  | _ => n 2 1 4800 ++ n 14 2 2560 ++ n 4 2 1600 ++ n 2 3 4800

/-- N_exp (R309). -/
def sliceLen (ty : Nat) : Nat := (sliceSteps ty).length

/-- A controller asks for BIST_SAVE, BIST_TEST or BIST_RESTORE of a cluster's micro-engine, which refuses it in machine check
(R144, R158). -/
def Dev.bistRoutine (d : Dev) (t : Target) (phase : Nat) : Dev :=
  if t.trunk || d.on (CL_STATE.MCHK t.cluster) then d else (d.modCl t.cluster fun c => { c with pend0 := some (2 + phase) }).showReq t.cluster

/-- The TMU of a target is held in TEST, by grant of the pool or as a spare. -/
def Dev.tmuTaken (d : Dev) (t : Target) : Dev :=
  if t.ty = 6 && !t.trunk && d.tmuState t.cluster t.inst != 6 then
    let was := d.get (TMU_STAT.ROLE t.cluster t.inst)
    let d := d.maintHold t.cluster t.inst true
    if was = 3 then d.set (TMU_STAT.ROLE t.cluster t.inst) 3 else d
  else d

/-- A TMU returns from TEST through RAMP_LOCK (R166, R186, R311). -/
def Dev.tmuReturn (d : Dev) (t : Target) : Dev :=
  if t.ty = 6 && !t.trunk then
    let d := (d.maintFree t.cluster t.inst).modTmu t.cluster t.inst fun x => { x with rampT0 := d.up }
    (d.set (TMU_STAT.STATE t.cluster t.inst) 5).set (TMU_STAT.LOCKED t.cluster t.inst) 0
  else d

/-- The slice leaves its slot and its unit is free; a temperature update of the channel that has waited is made (R312). -/
def Dev.sliceFree (d : Dev) (i : Nat) (sl : Slice) : Dev :=
  let d := ((d.setSlice i none).bistMark sl.tgt false).tmuReturn sl.tgt
  if sl.update && sl.tgt.ty = 2 then d.installPhys sl.tgt.cluster sl.tgt.inst else d

/-! ### Repair (R319) -/

/-- The records that name a region's spares are those in force, those waiting to be written and those waiting for
their slice. -/
def Bist.repairs (b : Bist) : List RepairRec := b.recs0 ++ b.recs1 ++ b.writeQ ++ b.repairQ

/-- A region has a spare free. -/
def Bist.spareFree (b : Bist) (t : Target) (column : Bool) (n : Nat) : Bool :=
  !b.repairs.any fun r => r.tgt == t && r.column == column && r.spare == n

/-- The spare rows of a region that are free: 2, and 4 of a control store (R319). -/
def Bist.freeRows (b : Bist) (t : Target) : List Nat :=
  (List.range (if t.ty = 4 then 4 else 2)).filter fun n => b.spareFree t false n

/-- The failing bits of a slice by word, lowest bit first in each word. -/
def badWords (bad : List (Nat × BadBit)) : List Nat := (bad.map fun b => b.2.word.toNat).eraseDups

/-- The repairs that cover every failing bit: a spare row where one row fails, the spare column where one bit position
fails in several, the other kind where the first is exhausted, and rows for what no column covers; none where the
spares do not cover them all (R319). -/
def Bist.plan (b : Bist) (t : Target) (bad : List (Nat × BadBit)) : Option (List RepairRec) :=
  let rows := (bad.map fun x => x.2.word.toNat / 8).eraseDups
  let bits := (bad.map fun x => x.2.bit.toNat).eraseDups
  let free := b.freeRows t
  let byRows : Option (List RepairRec) := if rows.length ≤ free.length then
      some ((free.zip rows).map fun (n, r) => { tgt := t, spare := n, failed := r }) else none
  let byCol : Option (List RepairRec) := if bits.length ≤ 1 && !(bad.any fun x => x.2.multi) && b.spareFree t true 0 then
      some (bits.map fun x => { tgt := t, column := true, failed := x }) else none
  if rows.length ≤ 1 then byRows.or byCol else byCol.or byRows

/-- A repair has come into force: message, log entry and interrupt (R319). -/
def Dev.repairDone (d : Dev) (r : RepairRec) (step : Nat) (sig : DWord) : Dev :=
  let word := if r.column then 0 else 8 * r.failed
  let bit := if r.column then r.failed else 0
  let d := d.bistMsg 0x52 1 r.tgt word bit
  (d.bistLog { tgt := r.tgt, word, bit, multi := false, verdict := 4, step, sig }).bistIrqEvery 2

/-- Repairs of the region whose records are written come into force (R319). -/
def Dev.applyRepairs (d : Dev) (t : Target) (step : Nat) (sig : DWord) : Dev :=
  let due := d.bist.repairQ.filter fun r => r.tgt == t && !d.bist.writeQ.any fun w => { w with seq := 0 } == r
  let d := { d with bist := { d.bist with repairQ := d.bist.repairQ.filter fun r => !due.contains r } }
  due.foldl (fun d r => d.repairDone r step sig) d

/-- A record is queued for the NVM. -/
def Dev.queueRecord (d : Dev) (r : RepairRec) : Dev :=
  d.nvmAsk 1 fun d => { d with bist := { d.bist with writeQ := d.bist.writeQ ++ [r] } }

/-! ### Confirmed failures (R318 to R321) -/

/-- The lowest failing bit of a word among those recorded, the step that met it, and whether the word has others. -/
def lowestBad (bad : List (Nat × BadBit)) (w : Nat) : Nat × Nat × Bool :=
  let here := bad.filter fun x => x.2.word.toNat == w
  let low := here.foldl (fun m x => min m x.2.bit.toNat) 127
  (low, ((here.find? fun x => x.2.bit.toNat == low).map Prod.fst).getD 0,
    (here.any fun x => x.2.multi) || (here.any fun x => x.2.bit.toNat != low))

/-- A log entry for a word with the given verdict, and its message. -/
def Dev.wordFinding (d : Dev) (t : Target) (bad : List (Nat × BadBit)) (sig : DWord) (w verdict kind sev : Nat) : Dev :=
  let (bit, step, multi) := lowestBad bad w
  (d.bistLog { tgt := t, word := w, bit, multi, verdict, step, sig }).bistMsg kind sev t w bit

/-- A failing word that no spare covers (R320). -/
def Dev.exhausted (d : Dev) (t : Target) (bad : List (Nat × BadBit)) (sig : DWord) (w : Nat) : Dev :=
  let ok := bad.all fun x => x.2.word.toNat != w || x.2.correctable
  let d := d.wordFinding t bad sig w 5 0x53 (if t.ty = 4 || (t.ty = 0 && !ok) then 3 else 2)
  let L := 64 * t.cluster + t.inst
  match t.ty with
  | 0 => if ok then d else d.modLane L fun l => { l with badCtx := (w :: l.badCtx).eraseDups }
  | 1 => if ok then d else d.modLane L fun l => { l with retired := ((16 * t.set + w / 32) :: l.retired).eraseDups }
  | 2 => (d.chUnusable t.cluster t.inst (!ok) true).bistIrqEvery 3
  | 3 => (d.tmuUnusable t.cluster t.inst true).bistIrqEvery 3
  | _ => d.modCl t.cluster fun c => { c with csBad := (w :: c.csBad).eraseDups }

/-- A confirmed memory failure: reported word by word, then repaired, or each word exhausted (R318 to R320). -/
def Dev.memoryFailure (d : Dev) (t : Target) (bad : List (Nat × BadBit)) (sig : DWord) : Dev × List RepairRec :=
  let words := badWords bad
  let d := words.foldl (fun d w => d.wordFinding t bad sig w 1 0x50 1) d
  match d.bist.plan t bad with
  | some rs => (rs.foldl Dev.queueRecord d, rs)
  | none => (words.foldl (fun d w => d.exhausted t bad sig w) d, [])

/-- The one generator to whose fine path every recorded failure is confined (R321). -/
def fineOnly (bad : List (Nat × BadBit)) : Option Nat :=
  match bad with
  | [] => none
  | x :: r => match x.2.fine with
    | none => none
    | some e => if r.all fun y => y.2.fine == some e then some e.val else none

/-- A confirmed failure of a channel, a TMU or the reference TMU: out of service, with a unit record (R321). -/
def Dev.unitFailure (d : Dev) (t : Target) (bad : List (Nat × BadBit)) (sig : DWord) : Dev :=
  let step := (bad.map Prod.fst).headD 0
  let d := (d.bistLog { tgt := t, word := 0, bit := 0, multi := false, verdict := 6, step, sig }).bistMsg 0x54 2 t 0 0
  let d := d.bistIrqEvery 3
  if t.trunk then
    let d : Dev := { d with dirum := { d.dirum with refBad := true } }
    (let d := d.outerLoop; d.refinLost d.tb.word).queueRecord { tgt := t }
  else if t.ty = 6 then (d.tmuUnusable t.cluster t.inst true).queueRecord { tgt := t }
  else match fineOnly bad with
    | some e =>
      let d := d.modPh t.cluster t.inst fun x => { x with bistEgBad := x.bistEgBad ||| 2 ^ e }
      (d.egBad t.cluster t.inst (2 ^ e) false).queueRecord { tgt := t, egBad := 2 ^ e }
    | none => (d.chUnusable t.cluster t.inst false true).queueRecord { tgt := t }

/-- A confirmed FAIL (R317). A TMU whose failing bits all lie in the march of its code-density tables, the last four
TEST steps, has failed in those tables only. -/
def Dev.confirmed (d : Dev) (t : Target) (bad : List (Nat × BadBit)) (sig : DWord) : Dev :=
  let cd := !bad.isEmpty && bad.all fun x => decide (16 < x.1)
  if t.ty = 5 || (t.ty = 6 && (t.trunk || !cd)) then d.unitFailure t bad sig
  else
    let parts := if t.ty = 6 then [0, 1].map fun i =>
        (({ t with ty := 3, set := i } : Target), bad.filter fun x => (x.2.fine.map Fin.val).getD 0 == i)
      else [(t, bad)]
    parts.foldl (fun d (p, bits) =>
      if bits.isEmpty && t.ty = 6 then d
      else
        let bits := if bits.isEmpty then
            [(sliceLen t.ty, { word := 0, bit := 0, multi := false, correctable := true, fine := none })] else bits
        let (d, rs) := d.memoryFailure p bits sig
        { d with bist := { d.bist with repairQ := d.bist.repairQ ++ rs } }) d

/-! ### Commands of the page (R315, R325, R326) -/

/-- The command ends: 0 OK, 1 PERM, 2 INVALID, 3 BUSY, 4 FAIL. -/
def Dev.bistEnd (d : Dev) (result : Nat) : Dev :=
  let d := ((d.set BIST_CMD_STAT.STATE 3).set BIST_CMD_STAT.RESULT result).stick BIST_CMD_STAT.DONE
  { d.irqAll bistPage d.bistOwner 4 with bist := { d.bist with cmd := none } }

/-- Self-test has taken the unit of a target out of service. -/
def Dev.bistTook (d : Dev) (t : Target) : Bool :=
  if t.trunk then d.dirum.refBad
  else if t.ty = 6 then d.get (TMU_STAT.ROLE t.cluster t.inst) == 3 && (d.tmu t.cluster t.inst).byBist
  else
    (d.on (CH_PHYS_STAT.UNUSABLE t.cluster t.inst) && (d.ph t.cluster t.inst).byBist)
      || (d.ph t.cluster t.inst).bistEgBad != 0

/-- Two passes return a unit to use: a unit record with CANCEL, and the unit free again (R326). -/
def Dev.unitCancel (d : Dev) (t : Target) : Dev :=
  let d := (d.queueRecord { tgt := { t with ty := if t.ty = 6 then 6 else 5, set := 0 }, cancel := true }).genUp
  if t.trunk then { d with dirum := { d.dirum with refBad := false } }
  else if t.ty = 6 then
    let d := d.modTmu t.cluster t.inst fun x => { x with byBist := false }
    ((d.set (TMU_STAT.ROLE t.cluster t.inst) (b2n (d.posOf t.cluster t.inst).isSome)).set
      (PAGE_STAT.UNUSABLE (tmuPg t.cluster t.inst)) 0)
  else
    let x := d.ph t.cluster t.inst
    let d := d.set (CH_PHYS_STAT.EG_BAD t.cluster t.inst)
      (d.get (CH_PHYS_STAT.EG_BAD t.cluster t.inst) &&& (63 - x.bistEgBad))
    let d := if x.byBist then
        (d.set (CH_PHYS_STAT.UNUSABLE t.cluster t.inst) 0).set (PAGE_STAT.UNUSABLE (chPg t.cluster t.inst)) 0 else d
    d.setPh t.cluster t.inst { x with byBist := false, bistEgBad := 0 }

/-- A slice of the command's target has its verdict: RUN ends with it, CLEAR_UNIT after two passes or another verdict
(R326). -/
def Dev.cmdVerdict (d : Dev) (t : Target) (v : Nat) : Dev :=
  match d.bist.cmd with
  | none => d
  | some c =>
    if c.tgt != t || d.get BIST_CMD_STAT.STATE != 2 then d
    else if c.op = 1 then d.bistEnd (if v = 0 then 0 else 4)
    else if c.op != 2 then d
    else if v != 0 then d.bistEnd 4
    else if c.passes = 0 then
      { d.set BIST_CMD_STAT.STATE 1 with bist := { d.bist with cmd := some { c with passes := 1 } } }
    else (d.unitCancel t).bistEnd 0

/-- A write of BIST_CMD with GO (R315, R325, R326): RUN takes any target, CLEAR_UNIT one that self-test has taken out of
service and a writer of attribute M, COMPACT starts compaction; any other OP is INVALID. -/
def Dev.bistGo (d : Dev) (ss : Nat) (val : Word) : Dev :=
  let op := wfield val 0 3
  let tgt := targetOf (wfield val 3 3) (wfield val 6 4) (wbit val 10) (wfield val 11 7) (wfield val 18 1)
  let busy := d.bist.cmd.isSome
  let reject := fun (r : Nat) => if busy then
      ((d.set BIST_CMD_STAT.RESULT r).stick BIST_CMD_STAT.DONE |>.irqAll bistPage d.bistOwner 4).askAgain 0xD150 ss val
    else d.bistEnd r
  let accept := fun (t : Target) (st : Nat) =>
    ({ d.set BIST_CMD_STAT.STATE st with bist := { d.bist with cmd := some { op, tgt := t, session := ss } } } : Dev)
  if op = 0 || 3 < op then reject 2
  else if busy then reject 3
  else if op = 3 then ((accept (targetAt 0) 2).nvmAsk 1 fun d => { d with bist := { d.bist with compact := true } }).set
    BIST_REPAIR_STAT2.COMPACTING 1
  else if op = 2 && d.attr ss != 2 then reject 1
  else match tgt with
    | none => reject 2
    | some t => if op = 2 && !d.bistTook t then reject 2 else accept t 1

/-- A command may have ended: a GO that met it in this fabric cycle starts again (R20). -/
def Dev.bistAgain (d : Dev) : Dev := if d.bist.cmd.isSome then d else d.startAgain 0xD150 fun d ss val => d.bistGo ss val

/-- A write of BIST_CMD by the page's owner. -/
def Dev.bistCmdWrite (d : Dev) (ss : Nat) (val : Word) : Dev :=
  d.cmdWrite ss bistPage 0x150 val (wbit val 31) fun d => d.bistGo ss val

/-- BIST_RUN (R315). -/
def execBistRun (ss : Sess) (val : Word) (s : State) : Result := s.on fun d => d.bistCmdWrite ss val

/-- BIST_CLEAR_UNIT (R326). -/
def execBistClearUnit (ss : Sess) (val : Word) (s : State) : Result := s.on fun d => d.bistCmdWrite ss val

/-- BIST_COMPACT (R325). -/
def execBistCompact (ss : Sess) (val : Word) (s : State) : Result := s.on fun d => d.bistCmdWrite ss val

/-- BIST_INVALID_CMD (R326). -/
def execBistInvalidCmd (ss : Sess) (val : Word) (s : State) : Result := s.on fun d => d.bistCmdWrite ss val

/-- A session reset ends the session's command (R358). -/
def Dev.bistSessionEnd (d : Dev) (ss : Nat) : Dev :=
  match d.bist.cmd with
  | none => d
  | some c => if c.session = ss then { d.set BIST_CMD_STAT.STATE 0 with bist := { d.bist with cmd := none } } else d

/-! ### Verdicts (R314, R317) -/

/-- A valid slice: its counts, what is kept of the target, and the failure it confirms, refutes or finds. -/
def Dev.sliceValid (d : Dev) (sl : Slice) (pass : Bool) (sig : DWord) : Dev :=
  let t := sl.tgt
  let d := d.wrapUp (if pass then BIST_CNT0.PASS else BIST_CNT1.FAIL)
  let d := d.modTgt t fun x => { x with aborts := 0, last := b2n !pass, suspect := false, validT0 := some d.up }
  let old := (d.bist.confirm.find? fun c => c.1 == t).map Prod.snd
  let rest := d.bist.confirm.filter fun c => c.1 != t
  let d := match old, pass with
    | none, true => d
    | none, false => { d with bist := { d.bist with confirm := d.bist.confirm ++ [(t, sl.bad)] } }
    | some bad, true =>
      let w := (badWords bad).headD 0
      let (bit, step, multi) := if bad.isEmpty then (0, 0, false) else lowestBad bad w
      let d : Dev := { d with bist := { d.bist with confirm := rest } }
      let d := d.modTgt t fun x => { x with last := 3 }
      (d.bistLog { tgt := t, word := w, bit, multi, verdict := 3, step, sig }).bistMsg 0x51 1 t w bit
    | some bad, false =>
      let d : Dev := { d with bist := { d.bist with confirm := rest } }
      d.confirmed t (if sl.bad.isEmpty then bad else sl.bad) sig
  (d.cmdVerdict t (b2n !pass)).bistAgain

/-- SIG_OUT (12, Validity). -/
def Slice.sigOut (sl : Slice) : DWord := (sl.sig.rotateLeft 1) ^^^ BitVec.ofNat 64 sl.step

/-- EVAL: the unit is free, and the slice is judged (R314). -/
def Dev.sliceEval (d : Dev) (i : Nat) (sl : Slice) : Dev :=
  let d := d.sliceFree i sl
  d.sliceValid sl (sl.sigOut == Config.goodSig sl.tgt.key) sl.sigOut

/-- The restore of a slice that was aborted is complete. -/
def Dev.abortDone (d : Dev) (i : Nat) (sl : Slice) : Dev :=
  let d := d.sliceFree i sl
  let d := if sl.counted then d else d.sliceAborted sl true
  (d.cmdVerdict sl.tgt 2).bistAgain

/-! ### Steps (R310 to R313) -/

/-- The HBM copy of a TMU's tables came back poisoned: the factory set takes its place (R313). -/
def Dev.saveLost (d : Dev) (t : Target) : Dev :=
  if t.ty != 6 || t.trunk then d
  else
    let d := d.modTmu t.cluster t.inst fun x => { x with cdUser := [], cdMade := [], cdTu := [] }
    (d.installTmu t.cluster t.inst).bistMsg 0x56 1 t 0 0

/-- What the end of a restore brings: an edge cache is invalid, repairs of the region come into force (R310, R319). -/
def Dev.restored (d : Dev) (sl : Slice) : Dev :=
  let t := sl.tgt
  let d := if t.ty = 1 then d.modLane (64 * t.cluster + t.inst) fun l => { l with cache := [], resident := [] } else d
  let d := d.applyRepairs t sl.step sl.sig
  if t.ty = 6 && !t.trunk then
    (d.applyRepairs { t with ty := 3 } sl.step sl.sig).applyRepairs { t with ty := 3, set := 1 } sl.step sl.sig
  else d

/-- The copy-and-FLIP of a table slice: the other set comes into force where the slice's own was, else its own, with the same
content and its repairs (R310, R319). What stands in the inactive set from then on is no one's: its words are free values (R142). -/
def Dev.sliceFlip (d : Dev) (sl : Slice) : Dev :=
  let t := sl.tgt
  let set := if sl.flipFirst then 1 - t.set else t.set
  let (w, d) := d.draw
  let d := d.modCl t.cluster fun c => { c with
    bank := tput (fun _ => 0) c.bank t.inst 0
    mem := (List.range 768).foldl (fun m i =>
      tput c.memDefault m (0x10000 + 768 * t.inst + i) (Config.marchWord w.toNat i)) c.mem }
  (d.modPh t.cluster t.inst fun x => { x with setInForce := 63 * set }).applyRepairs t sl.step sl.sig

/-- The set is in force for one of the channel's generators. -/
def Dev.setServes (d : Dev) (t : Target) : Bool :=
  t.ty == 2 && (List.range 6).any fun g => (d.ph t.cluster t.inst).setInForce / 2 ^ g % 2 == t.set

/-- Place of the copy-and-FLIP among the steps of a table slice: the first where the set was in force at its start,
else the last (R310). -/
def Slice.flipStep (sl : Slice) : Nat := if sl.flipFirst then 1 else 11

/-- A step of a running slice is complete: SIG, STEP and the failing bit are recorded. -/
def Slice.fold (sl : Slice) (data : DWord) (bad : Option BadBit) (now : Nat) : Slice :=
  { sl with
    sig := (sl.sig.rotateLeft 1) ^^^ data, step := sl.step + 1, stepT0 := now
    bad := sl.bad ++ (match bad with | none => [] | some b => [(sl.step + 1, b)]) }

/-- A control-store verify has found a failing word: the cluster enters machine check at once (R322). -/
def Dev.csVerifyFail (d : Dev) (k upc : Nat) : Dev := d.machineCheck k upc 0 0 0 ((d.cl k).word upc).toNat

/-- The checkpoint after a step of a running slice (R311, R312): a waiting request aborts it, unless only its restore or
its judgement is left to come; after the last step comes EVAL. -/
def Dev.checkpoint (d : Dev) (i : Nat) (sl : Slice) : Dev :=
  let n := sliceLen sl.tgt.ty
  if n ≤ sl.step then d.sliceEval i sl
  else if sl.abort && sl.phase != 3 then
    let sl := { sl with phase := 5, left := restoreSteps sl.tgt.ty }
    if sl.left = 0 then d.abortDone i sl else (d.setSlice i (some sl)).bistRoutine sl.tgt 3
  else
    let next := ((sliceSteps sl.tgt.ty).getD sl.step (2, 0)).1
    let d := if next != sl.phase then d.bistRoutine sl.tgt next else d
    d.setSlice i (some { sl with phase := next })

/-- A step of the slice in slot `i` ends, no sooner than R311 gives it. A failing word of a control-store verify, or at
its end a signature that differs, is a machine check (R322). -/
def Dev.sliceStep (d : Dev) (i : Nat) (data : DWord) (bad : Option BadBit) (poison : Bool) : Dev :=
  match d.slice i with
  | none => d
  | some sl =>
    let t := sl.tgt
    let len := ((sliceSteps t.ty).getD (if sl.phase = 5 then sliceLen t.ty - 1 else sl.step) (0, 0)).2
    let len := if sl.phase = 5 && t.ty = 2 then 0 else len
    if d.up < sl.stepT0 + len then d
    else
      let restoring := sl.phase = 3 || sl.phase = 5
      let d := if restoring && poison then d.saveLost t else d
      if sl.phase = 5 then
        let sl := { sl with left := sl.left - 1, stepT0 := d.up }
        if sl.left = 0 then (if t.ty = 2 then d else d.restored sl).abortDone i sl else d.setSlice i (some sl)
      else
        let flip := t.ty = 2 && sl.step + 1 = sl.flipStep
        let sl := sl.fold data (if sl.phase = 2 then bad else none) d.up
        match t.ty, sl.bad with
        | 4, b :: _ => (d.setSlice i (some sl)).csVerifyFail t.cluster b.2.word.toNat
        | _, _ =>
          let d := if flip then d.sliceFlip sl else d
          let last := sliceLen t.ty ≤ sl.step
          if t.ty = 4 && last && sl.sigOut != Config.goodSig t.key then
            (d.setSlice i (some sl)).csVerifyFail t.cluster 0
          else (if sl.phase = 3 && last then d.restored sl else d).checkpoint i sl

/-! ### Starting slices (R302 to R304, R309, R315, R316) -/

/-- Plinth's limit on concurrent slices: 0 while it plans to trip or to enter DEEP, 1 while it throttles (R316). -/
def Dev.plinthLimit (d : Dev) : Nat :=
  if d.pln.going == some .deep || d.pln.st == .deep || d.pln.tripped then 0 else if d.on PWR_STAT.THROTTLE then 1 else 2

/-- BIST_STAT.CONC_LIMIT (R316). -/
def Dev.concLimit (d : Dev) : Nat := min (min 2 (d.get BIST_CTRL.MAX_CONC)) d.plinthLimit

/-- Slices running (BIST_STAT.ACTIVE). -/
def Dev.slicesOn (d : Dev) : Nat := ([0, 1].filter fun i => (d.slice i).isSome).length

/-- The cluster has a slice. -/
def Dev.sliceIn (d : Dev) (k : Nat) : Bool :=
  [0, 1].any fun i => (d.slice i).any fun sl => sl.tgt.cluster == k && !sl.tgt.trunk

/-- A slice may be taken on the target now: its condition in R309 holds, its cluster is powered, has no other slice and
is not in machine check, Caliper does not hold the unit, and no service request reaches it in this fabric cycle (R302, R303,
R309, R315, R316). -/
def Dev.eligible (d : Dev) (t : Target) : Bool :=
  let k := t.cluster
  if t.trunk then
    (!d.on DIRUM_CTRL.STAMP_EN || d.get TB_STAT.SRC_STATE == 0) && [0, 1].all fun i => !(d.slice i).any fun sl => sl.tgt.trunk
  else d.powered k && !d.sliceIn k && !d.on (CL_STATE.MCHK k) && !d.servedNow t && match t.ty with
    | 0 => true
    | 1 =>
      let L := 64 * k + t.inst
      (d.lane L).holder.isNone || d.progState L == 0 || d.progState L == 6 || d.progState L == 7
    | 2 => !d.on (CH_PHYS_STAT.CAL_ACTIVE k t.inst)
    | 4 => d.on (SEQ_STAT.IMAGE_VALID k) && d.get (SEQ_LOAD_STAT.STATE k) == 0
    | 5 => d.get (CH_PHYS_STAT.ROLE k t.inst) == 0 && !d.on (CH_PHYS_STAT.CAL_ACTIVE k t.inst)
    | _ =>
      d.tmuState k t.inst == 6 || (d.tmuState k t.inst == 0 && d.get (TMU_STAT.ROLE k t.inst) == 0)

/-- A TMU in service is asked for through the maintenance queue, one at a time in a cluster (R296, R309). -/
def Dev.bistAsk (d : Dev) (t : Target) : Dev :=
  let k := t.cluster
  let asked := (d.cl k).queue.any fun q => match q.src with | .maint _ true => true | _ => false
  let held := (List.range 34).any fun u => d.tmuState k u == 6
  if t.ty != 6 || t.trunk || !d.powered k || d.get (TMU_STAT.ROLE k t.inst) != 1 || asked || held then d
  else d.poolRequest k {
    id := 0, src := .maint (some t.inst) true, session := 0, lane := 0, stopLane := 0, ts := tq d.epoch, start := .event,
    stop := .event, stopN := 1, timeout := 0, ring := 0, ctx := 0, hop := 0, eligible := some d.epoch }

/-- The rotation moves on; at its end a cycle is complete (R315). -/
def Dev.rotate (d : Dev) : Dev :=
  if d.bist.rot < 6896 then { d with bist := { d.bist with rot := d.bist.rot + 1 } }
  else
    let ms := (d.up - d.bist.cycleT0) / msT0
    let d := (d.stick BIST_STAT.CYCLE_DONE).set BIST_CYCLE_TIME.MS (min ms 0xFFFFFFFF)
    { d with bist := { d.bist with rot := 0, cycleT0 := d.up } }

/-- BIST_CTRL.ROTATE: the controller asks the Pointing Engine for a rotation of the lane that a channel serves, one lane
at a time, where its cluster has two free usable spares (R310). -/
def Dev.bistRotation (d : Dev) (t : Target) : Dev :=
  let moving := d.clusters.any fun ((_, c) : Nat × Cluster) =>
    (c.swap.any fun w => w.kind == .rotation) || c.swapQ.any fun x => x.2 == .rotation
  if t.ty != 5 || t.trunk || !d.on BIST_CTRL.ROTATE || !d.canSwap || moving || decide (d.freeSpares t.cluster < 2) then d
  else match d.laneOfPhys t.cluster t.inst with
    | some L => d.swapQueue L .rotation
    | none => d

/-- The next target in rotation whose condition holds; the ones passed over show SKIPPED, a TMU in service among them is
asked for, and the lane of a serving channel may be rotated away (R310, R315). -/
def Dev.nextInRotation (d : Dev) : Nat → Option Target × Dev
  | 0 => (none, d)
  | n + 1 =>
    let t := targetAt d.bist.rot
    if d.eligible t then (some t, d.rotate)
    else Dev.nextInRotation ((((d.modTgt t fun x => { x with skipped := true }).bistAsk t).bistRotation t).rotate) n

/-- Targets in the order in which they come before the rotation: the command's, repairs whose records are written,
confirmations, forced attempts, SUSPECT targets, and TMUs that the pool has granted (R304, R315, R317, R319). -/
def Dev.firstTargets (d : Dev) : List Target :=
  let b := d.bist
  let back := d.on BIST_CTRL.ENABLE && d.on (PAGE_CTRL.ENABLE bistPage.base)
  let cmd := match b.cmd with | some c => if c.op ≤ 2 && d.get BIST_CMD_STAT.STATE == 1 then [c.tgt] else [] | none => []
  let repair := (b.repairQ.filter fun r => !b.writeQ.any fun w => { w with seq := 0 } == r).map fun r =>
    if r.tgt.ty = 3 then { r.tgt with ty := 6, set := 0 } else r.tgt
  let held := d.regs.filterMap fun ((key, _) : Nat × Word) =>
    let o := (key - 0x1000000) % 0x100000
    if 0x1000000 ≤ key && key < 0x2000000 && 0xC0000 ≤ o && o % 0x1000 = 0x100
      && d.tmuState ((key - 0x1000000) / 0x100000) ((o - 0xC0000) / 0x1000) == 6 then
      targetOf 6 ((key - 0x1000000) / 0x100000) false ((o - 0xC0000) / 0x1000) 0 else none
  cmd ++ if !back then [] else repair ++ b.confirm.map Prod.fst
    ++ (b.info.filterMap fun ((n, x) : Nat × TgtInfo) => if x.aborts = 16 then some (targetAt n) else none)
    ++ (b.info.filterMap fun ((n, x) : Nat × TgtInfo) => if x.suspect then some (targetAt n) else none)
    ++ held

/-- The unit that a CLEAR_UNIT tests may be one out of service. -/
def Dev.cmdEligible (d : Dev) (t : Target) : Bool :=
  let out := t.ty == 6 && !t.trunk && d.powered t.cluster && !d.sliceIn t.cluster
    && d.get (TMU_STAT.ROLE t.cluster t.inst) == 3 && (d.tmuState t.cluster t.inst == 0 || d.tmuState t.cluster t.inst == 5)
  (match d.bist.cmd with | some c => c.tgt == t && c.op == 2 && out | none => false) || d.eligible t

/-- The target of the next slice. -/
def Dev.nextTarget (d : Dev) : Option Target × Dev :=
  let d := match d.bist.cmd with | some c => if d.eligible c.tgt then d else d.bistAsk c.tgt | none => d
  match d.firstTargets.find? d.cmdEligible with
  | some t => (some t, d)
  | none =>
    if d.on BIST_CTRL.ENABLE && d.on (PAGE_CTRL.ENABLE bistPage.base) then d.nextInRotation 6897 else (none, d)

/-- The first period boundary from now on of the lane that a region belongs to, as T0 passed: a forced attempt starts there;
without a program that runs it starts at once (R304). -/
def Dev.forcedStart (d : Dev) (t : Target) : Nat :=
  let L := 64 * t.cluster + t.inst
  if t.trunk || 2 ≤ t.ty || d.progState L != 4 then d.up else d.up + (((d.lane L).p + tq 1 - 1) / tq 1 - d.epoch)

/-- A slice begins in a slot (R304, R310). -/
def Dev.sliceBegin (d : Dev) (i : Nat) (t : Target) : Dev :=
  let forced := (d.tgtInfo t).aborts == 16
  let first := ((sliceSteps t.ty).headD (2, 0)).1
  let sl : Slice := {
    tgt := t, forced, phase := first, flipFirst := d.setServes t
    stepT0 := if forced then d.forcedStart t else d.up
    startCyc := if forced then none else some d.cycle
    slotWas := tget (fun _ => 0) d.bist.slotT0 i, lastWas := d.bist.lastStart
    sig := Config.bistSeed t.ty ^^^ BitVec.ofNat 64 (sliceLen t.ty * 2 ^ 40) }
  let d := d.modTgt t fun x => { x with skipped := false }
  let d := ((d.tmuTaken t).setSlice i (some sl)).bistMark t true
  let d := d.bistRoutine t first
  let d : Dev := { d with bist := { d.bist with
    slotT0 := tput (fun _ => 0) d.bist.slotT0 i (d.up + 1), lastStart := some d.up } }
  let d := match d.bist.cmd with
    | some c => if c.tgt == t && d.get BIST_CMD_STAT.STATE == 1 then d.set BIST_CMD_STAT.STATE 2 else d
    | none => d
  if forced then
    ((d.wrapUp BIST_CNT1.FORCED).bistMsg 0x55 0 t 0 0).irqAll bistPage (d.tgtHolder t) 1
  else d

/-- A slot may start a slice: GAP_US since its last start, 2 µs since any, fewer slices than CONC_LIMIT, the device
READY (R315, R316). -/
def Dev.slotReady (d : Dev) (i : Nat) : Bool :=
  let gap := usT0 * max 20 (d.get BIST_CTRL.GAP_US)
  let last := tget (fun _ => 0) d.bist.slotT0 i
  (d.slice i).isNone && d.ready bistPage && decide (d.slicesOn < d.concLimit)
    && (last == 0 || decide (last - 1 + gap ≤ d.up))
    && (match d.bist.lastStart with | none => true | some t => decide (t + 2 * usT0 ≤ d.up))

/-- The choice of a target: a channel or a TMU that Caliper has acquired in this fabric cycle goes to the slice, and Caliper's
start is taken back (R302). -/
def Dev.sliceChoice (d : Dev) : Option Target × Dev :=
  match (d.undoKey calStartKey).nextTarget with
  | (some t, e) => if 5 ≤ t.ty && !d.cmdEligible t then (some t, e) else d.nextTarget
  | (none, _) => d.nextTarget

/-- A slot starts a slice on the next target (R315). -/
def Dev.sliceStart (d : Dev) (i : Nat) : Dev :=
  if !d.slotReady i then d
  else match d.sliceChoice with
    | (some t, d) => d.sliceBegin i t
    | (none, d) => d

/-- SLICE_START (R315). -/
def execSliceStart (i : Fin 2) (s : State) : Result := s.on fun d => d.sliceStart i

/-! ### The control store (R322) -/

/-- The march of a control store after a parity failure ends: a failure is repaired and recorded, none is TRANSIENT;
the array is zero, and software may load an image. -/
def Dev.csMarch (d : Dev) (k : Nat) (bad : List BadBit) : Dev :=
  if !d.on (CL_STATE.MCHK k) || !(d.cl k).march then d
  else
    let t : Target := { ty := 4, cluster := k, inst := 0, set := 0, trunk := false }
    let d := d.modCl k fun c => { c with march := false, cs := [] }
    let d := d.set (SEQ_STAT.IMAGE_VALID k) 0
    let d := if bad.isEmpty then
        let upc := d.get (SEQ_MCHK_INFO.UPC k)
        (d.bistLog { tgt := t, word := upc, bit := 0, multi := false, verdict := 3, step := 0, sig := 0 }).bistMsg 0x51 1 t upc 0
      else
        let (d, rs) := d.memoryFailure t (bad.map fun b => (0, b)) 0
        rs.foldl (fun d r => d.repairDone r 0 0) d
    d.bistIrqEvery 2

/-- CS_MARCH_DONE (R322). -/
def execCsMarchDone (k : Clu) (bad : List BadBit) (s : State) : Result := s.on fun d => d.csMarch k bad

/-! ### Repair records (R323 to R325) -/

/-- The 16 bytes of a record (R323). -/
def RepairRec.bytes (r : RepairRec) : List Byte :=
  let t := r.tgt
  let lo := t.ty + 8 * b2n r.column + 16 * t.cluster + 256 * b2n t.trunk + 512 * t.inst + 65536 * t.set + 131072 * r.spare
    + 2 ^ 20 * r.failed + 2 ^ 32 * r.egBad + 2 ^ 63 * b2n r.cancel
  let head := leBytes 8 lo ++ leBytes 4 r.seq
  head ++ leBytes 4 (crc32 head)

/-- A record read back from its 16 bytes; none where its CRC fails (R324). -/
def recordOf (b : List Byte) : Option RepairRec :=
  let lo := leNat (b.take 8)
  if crc32 (b.take 12) != leNat (b.drop 12) then none
  else some {
    tgt := { ty := lo % 8, cluster := lo / 16 % 16, trunk := lo / 256 % 2 == 1, inst := lo / 512 % 128, set := lo / 65536 % 2 }
    column := lo / 8 % 2 == 1, spare := lo / 131072 % 8, failed := lo / 2 ^ 20 % 4096, egBad := lo / 2 ^ 32 % 64
    cancel := lo / 2 ^ 63 % 2 == 1, seq := leNat ((b.drop 8).take 4) }

/-- Base address of a copy in NVM, and the records that it holds. -/
abbrev copyBase (n : Nat) : Nat := 0x40000 + 0x80000 * n
abbrev copyRecords : Nat := 32768

/-- Highest SEQ in either copy. -/
def Bist.topSeq (b : Bist) : Nat := (b.recs0 ++ b.recs1).foldl (fun m r => max m r.seq) 0

/-- A copy has failed to read back: COPY_LOST and its message (R325). -/
def Dev.copyLost (d : Dev) (n : Nat) : Dev := (d.stick BIST_REPAIR_STAT2.COPY_LOST).raise 5 0x57 2 n []

/-- Records written in copy `n`. -/
abbrev usedFld (n : Nat) : Fld := if n = 0 then BIST_REPAIR_STAT.USED0 else BIST_REPAIR_STAT.USED1

/-- Records that stand in a copy. -/
def Dev.copyRecs (d : Dev) (n : Nat) (rs : List RepairRec) : Dev :=
  { d with bist := if n = 0 then { d.bist with recs0 := rs } else { d.bist with recs1 := rs } }

/-- One record appended to copy `n` and read back. -/
def State.appendRecord (s : State) (n : Nat) (r : RepairRec) (ok : Bool) : State :=
  let d := s.toDev
  let used := d.get (usedFld n)
  let at_ := copyBase n + 16 * used
  if copyRecords ≤ used then { s with toDev := d.copyLost n }
  else
    let d := d.set (usedFld n) (used + 1)
    let old := if n = 0 then d.bist.recs0 else d.bist.recs1
    if ok then { s with
        toDev := d.copyRecs n (old ++ [r])
        nvm := writeBytes nvmDefault nvmSize s.nvm at_ r.bytes }
    else { s with
        toDev := { d.copyLost n with free := d.free + 1 }
        nvm := writeBytes nvmDefault nvmSize s.nvm at_ ((Config.failedWrite d.free r.bytes).take 16) }

/-- The record at the head of the queue reaches copy 0, and then copy 1; few erased records start a compaction
(R324, R325). It waits for an operation of another block to end (R28). -/
def State.recordWritten (s : State) (ok : Bool) : State :=
  let b := s.toDev.bist
  match b.writeQ with
  | [] => s
  | r :: rest =>
    if b.compact || !s.nvmMay 1 then s
    else if !b.inCopy0 then
      let r := { r with seq := b.topSeq + 1 }
      let s := s.appendRecord 0 r ok
      { s with bist := { s.bist with writeQ := r :: rest, inCopy0 := true } }
    else
      let s := s.appendRecord 1 r ok
      let s := { s with bist := { s.bist with writeQ := rest, inCopy0 := false } }
      if copyRecords < s.toDev.get BIST_REPAIR_STAT.USED0 + 64 || copyRecords < s.toDev.get BIST_REPAIR_STAT.USED1 + 64 then
        { s with toDev := { s.toDev.set BIST_REPAIR_STAT2.COMPACTING 1 with bist := { s.bist with compact := true } } }
      else { s with toDev := ({ s.toDev with nvmCur := none } : Dev).nvmPin }

/-- REPAIR_RECORD_WRITTEN (R324). -/
def execRepairRecordWritten (ok : Bool) (s : State) : Result := .next (s.recordWritten ok)

/-- Two records name the same unit, or the same spare of the same region. -/
def RepairRec.same (a b : RepairRec) : Bool :=
  a.tgt == b.tgt && (decide (5 ≤ a.tgt.ty) || (a.column == b.column && a.spare == b.spare))

/-- The union of both copies: for each spare and each unit the record of the highest SEQ; a generator's unit records add
up until one cancels them; a cancelled unit has none (R324, R325). -/
def Bist.live (b : Bist) : List RepairRec :=
  let all := (b.recs0 ++ b.recs1).eraseDups
  all.filter fun r =>
    if 5 ≤ r.tgt.ty then !r.cancel && !all.any fun x => x.same r && x.cancel && decide (r.seq < x.seq)
    else !all.any fun x => x.same r && decide (r.seq < x.seq)

/-- A copy erased and written with the given records, and read back. -/
def State.writeCopy (s : State) (n : Nat) (rs : List RepairRec) (ok : Bool) : State :=
  let bytes := (rs.map RepairRec.bytes).flatten
  let nvm := clearBytes s.nvm (copyBase n) (16 * copyRecords)
  if ok then { s with
      toDev := (s.toDev.copyRecs n rs).set (usedFld n) rs.length
      nvm := writeBytes nvmDefault nvmSize nvm (copyBase n) bytes }
  else { s with
      toDev := { (s.toDev.copyRecs n []).copyLost n with free := s.free + 1 }
      nvm := writeBytes nvmDefault nvmSize nvm (copyBase n) ((Config.failedWrite s.free bytes).take bytes.length) }

/-- Compaction: the live records under new SEQ values into copy 1, and where that reads back into copy 0 (R325). -/
def State.compacted (s : State) (ok0 ok1 : Bool) : State :=
  if !s.bist.compact || !s.nvmMay 1 then s
  else
    let top := s.toDev.bist.topSeq
    let live := s.toDev.bist.live
    let rs := (live.zip (List.range live.length)).map fun (r, i) => { r with seq := top + 1 + i }
    let s := s.writeCopy 1 rs ok1
    let s := if ok1 then s.writeCopy 0 rs ok0 else s
    let s := { s with toDev := { s.toDev.set BIST_REPAIR_STAT2.COMPACTING 0 with bist := { s.bist with compact := false } } }
    let s := { s with toDev := s.toDev.nvmPin }
    match s.bist.cmd with
    | some c => if c.op = 3 then { s with toDev := (s.toDev.bistEnd (if ok0 && ok1 then 0 else 4)).bistAgain } else s
    | none => s

/-- COMPACTION_DONE (R325). -/
def execCompactionDone (ok0 ok1 : Bool) (s : State) : Result := .next (s.compacted ok0 ok1)

/-! ### What a read shows -/

/-- BIST_SLICE of a slot. -/
def Dev.bistSlice (d : Dev) (i : Nat) : Word :=
  match d.slice i with
  | none => 0
  | some sl =>
    let t := sl.tgt
    BitVec.ofNat 32 (sl.phase + 8 * t.ty + 64 * t.cluster + 1024 * b2n t.trunk + 2048 * t.inst + 2 ^ 18 * b2n sl.forced
      + 2 ^ 19 * sl.step + 2 ^ 27 * t.set)

/-- The computed fields of BIST_STAT. -/
def Dev.bistStat (d : Dev) : Word :=
  let suspects := (d.bist.info.filter fun ((_, x) : Nat × TgtInfo) => x.suspect).length
  BitVec.ofNat 32 (d.slicesOn + 4 * d.concLimit + 16 * d.get BIST_STAT.CYCLE_DONE + 32 * min 63 suspects
    + 2048 * min 63 d.bist.confirm.length)

/-- BIST_LOG_DATA0 and BIST_LOG_DATA1 of the entry that a session selects, and its signature. -/
def Dev.bistLogWord (d : Dev) (ss w : Nat) : Word :=
  match d.bist.log[d.get (BIST_LOG_SEL.ENTRY ss)]? with
  | none => 0
  | some f =>
    let t := f.tgt
    if w = 0 then BitVec.ofNat 32 (t.ty + 8 * b2n t.trunk + 16 * t.cluster + 256 * t.inst + 2 ^ 15 * t.set + 2 ^ 16 * f.word)
    else if w = 1 then BitVec.ofNat 32 (f.bit + 128 * b2n f.multi + 256 * f.verdict + 2048 * f.step)
    else if w = 2 then BitVec.ofNat 32 f.sig.toNat
    else BitVec.ofNat 32 (f.sig.toNat / 2 ^ 32)

/-- BIST_TGT_INFO of the target that a session selects. -/
def Dev.bistTgtWord (d : Dev) (ss : Nat) : Word :=
  match targetOf (d.get (BIST_TGT_SEL.TYPE ss)) (d.get (BIST_TGT_SEL.CLUSTER ss)) (d.on (BIST_TGT_SEL.TRUNK ss))
      (d.get (BIST_TGT_SEL.INSTANCE ss)) (d.get (BIST_TGT_SEL.SET ss)) with
  | none => 0
  | some t =>
    let x := d.tgtInfo t
    let age := match x.validT0 with | none => 0xFFFF | some v => min 0xFFFF ((d.up - v) / secT0)
    BitVec.ofNat 32 (x.aborts + 32 * x.last + 256 * b2n x.suspect + 512 * b2n x.skipped + 65536 * age)

end Sys2Proof.Machine
end

