-- ==== Sys2Proof/Machine/Faults.lean ====
section
/-! DEFINITION. The fault collector (13): collection and order, the device ring and the mirrors, the window, sticky bits
and injection (R327 to R344). A block raises its messages with `Dev.raise` (Machine/Ops.lean). -/

namespace Sys2Proof.Machine

/-- The fault collector page. -/
abbrev fltPage : Page := .dev 6

/-- The 64 bits of a message (R327). -/
def Msg.word (m : Msg) : DWord :=
  BitVec.ofNat 64 (m.source * 2 ^ 52 + m.kind % 256 * 2 ^ 44 + m.sev % 8 * 2 ^ 41 + b2n m.inj * 2 ^ 40
    + m.addr.toNat * 2 ^ 8 + m.seq % 256)

/-! ### Collection (R334, R335) -/

/-- The order of delivery: earlier fabric cycle, higher severity, lower source, real before injected (R334). -/
def Msg.before (a b : Msg) : Bool :=
  let k := fun (m : Msg) => ((m.cycle * 8 + (7 - m.sev)) * 4096 + m.source) * 2 + b2n m.inj
  decide (k a ≤ k b)

/-- The messages that the collector has not taken, in the order of delivery. -/
def Dev.fltWaiting (d : Dev) : List Msg :=
  ordSort Msg.before ((d.flt.sources.filterMap fun ((_, x) : Nat × Source) => x.buf) ++ d.flt.injected)

/-- The collector takes a message into its queue. -/
def Dev.fltTake (d : Dev) (m : Msg) : Dev :=
  let d := if m.inj then
      let d : Dev := { d with flt := { d.flt with injected := d.flt.injected.filter fun x => x != m } }
      m.dest.foldl (fun d s => d.set (FLT_INJ_CTRL.BUSY s) 0) d
    else d.setSource m.source { d.source m.source with buf := none }
  { d with flt := { d.flt with queue := d.flt.queue ++ [m] } }

/-- Up to 8 messages in a fabric cycle, while the queue of 4,096 has room (R335). -/
def Dev.faultCollect (d : Dev) : Dev :=
  let had := if d.flt.took.1 = d.cycle then d.flt.took.2 else 0
  let l := d.fltWaiting.take (min (8 - had) (4096 - d.flt.queue.length))
  let d := l.foldl Dev.fltTake d
  { d with flt := { d.flt with took := (d.cycle, had + l.length) } }

/-- FAULT_COLLECT (R335). -/
def execFaultCollect (s : State) : Result := s.on Dev.faultCollect

/-! ### The rings (R336, R337, R343, R344) -/

/-- Messages that the device ring and a mirror hold, and their places in HBM (R336). -/
abbrev devRingSize : Nat := 2097152
abbrev mirrorSize : Nat := 32768
abbrev devRingBase : Nat := 0x3E2000000
abbrev mirrorBase (ss : Nat) : Nat := 0x3E3000000 + 0x40000 * ss

/-- A session's mirror. -/
def Dev.mirror (d : Dev) (ss : Nat) : FltRing := tget (fun _ => {}) d.flt.mirrors ss

def Dev.setMirror (d : Dev) (ss : Nat) (r : FltRing) : Dev :=
  { d with flt := { d.flt with mirrors := tput (fun _ => {}) d.flt.mirrors ss r } }

/-- Messages in a ring, modulo 2^32. -/
def FltRing.held (r : FltRing) : Nat := (r.head + 2 ^ 32 - r.tail) % 2 ^ 32

/-- The message finds room: with 64 or fewer free places only a real UNCOR or MCHK (R337). -/
def FltRing.room (r : FltRing) (size : Nat) (m : Msg) : Bool :=
  decide (r.held + 64 < size) || (decide (r.held < size) && !m.inj && decide (3 ≤ m.sev))

/-- The ring with one message more, or one lost. -/
def FltRing.take (r : FltRing) (fits : Bool) (cycle : Nat) : FltRing :=
  if fits then { r with head := (r.head + 1) % 2 ^ 32 }
  else { r with lost := satAdd 0xFFFF r.lost 1, lostBit := true, lostCyc := some cycle }

/-- What a message that reached or missed a session's mirror raises (R337, R343, R344). -/
def Dev.mirrorIrq (d : Dev) (ss : Nat) (m : Msg) (fits : Bool) : Dev :=
  if !fits then d.irqAt fltPage ss 1
  else
    let d := if d.get (FLT_IRQ_CFG.SEV ss) ≤ m.sev then d.irqAt fltPage ss 0 else d
    if m.sev = 4 then d.irqAt fltPage ss 3 else d

/-- The bytes that a ring write leaves: the message, or a free value where the write fails. -/
def Dev.fltBytes (d : Dev) (m : Msg) (ok : Bool) : List Byte :=
  leBytes 8 (if ok then m.word.toNat else d.draw.1.toNat)

/-- One message into a session's mirror. -/
def State.mirrorWrite (s : State) (m : Msg) (ok : Bool) (ss : Nat) : State :=
  if !(s.toDev.sn ss).live then s
  else
    let r := s.toDev.mirror ss
    let fits := r.room mirrorSize m
    let at_ := mirrorBase ss + 8 * (r.head % mirrorSize)
    { s with
      toDev := (s.toDev.setMirror ss (r.take fits s.toDev.cycle)).mirrorIrq ss m fits
      hbm := if fits then writeBytes hbmDefault hbmSize s.hbm at_ (s.toDev.fltBytes m ok) else s.hbm }

/-- One message into the device ring; its owner learns of one of his severity, an injected one only if it is his own. -/
def State.devRingWrite (s : State) (m : Msg) (ok : Bool) : State :=
  let r := s.flt.device
  let fits := r.room devRingSize m
  let d : Dev := { s.toDev with flt := { s.flt with device := r.take fits s.toDev.cycle } }
  let d := match d.owner fltPage with
    | none => d
    | some o =>
      if fits && decide (d.get (FLT_IRQ_CFG.SEV o) ≤ m.sev) && (!m.inj || m.dest.contains o) then d.irqAt fltPage o 2 else d
  { s with
    toDev := d
    hbm := if fits then writeBytes hbmDefault hbmSize s.hbm (devRingBase + 8 * (r.head % devRingSize)) (d.fltBytes m ok)
      else s.hbm }

/-- Device-class tokens up to now, in sixteenths of a byte: DEV_CAP GB/s into a bucket of 4 KiB (R299). -/
def Dev.devBucket (d : Dev) : Nat :=
  min 65536 (d.sched.devTokens + 5 * max 1 (min 32 (d.get HBM_SCHED_CFG.DEV_CAP)) * (d.up - d.sched.devT0))

/-- A transfer of the device class of `n` bytes takes its tokens, where the bucket holds them (R299). -/
def Dev.devSpend (d : Dev) (n : Nat) : Option Dev :=
  if d.devBucket < 16 * n then none
  else some { d with sched := { d.sched with
    devTokens := d.devBucket - 16 * n, devT0 := d.up
    bytes := tmod (fun _ => 0) d.sched.bytes 81 fun x => (x + n) % 2 ^ 64 } }

/-- The first message of the queue goes to the device ring and to the mirrors of its recipients; a failed write of the
collector's own shows in RING_ERR alone, and its bytes are a free value (R336, R337, R339). It waits while the device
class is at its cap (R299, R335). -/
def State.faultRingWrite (s : State) (ok : Bool) : State :=
  match s.flt.queue with
  | [] => s
  | m :: rest => match s.toDev.devSpend (8 + 8 * m.dest.length) with
    | none => s
    | some d =>
    let s : State := { s with toDev := { d with flt := { d.flt with queue := rest } } }
    let s := s.devRingWrite m ok
    let s := m.dest.foldl (fun s ss => s.mirrorWrite m ok ss) s
    if ok then s else { s with toDev := s.toDev.draw.2.stick FLT_STAT.RING_ERR }

/-- FAULT_RING_WRITE (R337). -/
def execFaultRingWrite (ok : Bool) (s : State) : Result := .next (s.faultRingWrite ok)

/-! ### The window (R338) -/

/-- The session's window shows the device ring. -/
def Dev.fltDevice (d : Dev) (ss : Nat) : Bool :=
  d.on (FLT_WIN_SEL.RING ss) && d.owner fltPage == some ss && d.attr ss == 2

/-- The ring that a session has selected. -/
def Dev.fltRing (d : Dev) (ss : Nat) : FltRing := if d.fltDevice ss then d.flt.device else d.mirror ss

/-- It changes. -/
def Dev.setFltRing (d : Dev) (ss : Nat) (r : FltRing) : Dev :=
  if d.fltDevice ss then { d with flt := { d.flt with device := r } } else d.setMirror ss r

/-- A selection that the session may no longer have returns to its own mirror (R338). -/
def Dev.fltSelCheck (d : Dev) (ss : Nat) : Dev :=
  if d.on (FLT_WIN_SEL.RING ss) && !d.fltDevice ss then d.set (FLT_WIN_SEL.RING ss) 0 else d

/-- A write of FLT_TAIL releases messages up to the new count, or is discarded (R338). -/
def Dev.fltTailWrite (d : Dev) (ss : Nat) (val : Word) : Dev :=
  d.hostWrite ss fltPage 0x110 [val] .any false fun d =>
    let r := d.fltRing ss
    if (val.toNat + 2 ^ 32 - r.tail) % 2 ^ 32 ≤ r.held then d.setFltRing ss { r with tail := val.toNat }
    else d.discard ss fltPage 0x110

/-- FLT_TAIL_WRITE (R338). -/
def execFltTailWrite (ss : Sess) (val : Word) (s : State) : Result := s.on fun d => d.fltTailWrite ss val

/-- A write of FLT_WIN_SEL: the device ring only for the page's owner with attribute M (R338). -/
def Dev.fltWinSelWrite (d : Dev) (ss : Nat) (val : Word) : Dev :=
  d.hostWrite ss fltPage 0x108 [val] .any false fun d =>
    if wbit val 0 && !(d.isOwn ss (d.owner fltPage) && d.attr ss == 2) then d.discard ss fltPage 0x108
    else d.plainWrite ss fltPage 0x108 val

/-- FLT_WIN_SEL_WRITE (R338). -/
def execFltWinSelWrite (ss : Sess) (val : Word) (s : State) : Result := s.on fun d => d.fltWinSelWrite ss val

/-- A write of FLT_LOST clears the count or the bit of the selected ring, but for a loss of this fabric cycle (R20). -/
def Dev.fltLostWrite (d : Dev) (ss : Nat) (val : Word) : Dev :=
  d.hostWrite ss fltPage 0x114 [val] .any false fun d =>
    let r := d.fltRing ss
    if r.lostCyc == some d.cycle then d
    else d.setFltRing ss { r with
      lost := if wfield val 0 16 = 0 then r.lost else 0, lostBit := r.lostBit && !wbit val 16 }

/-- A write of FLT_IRQ_CFG; values above 4 are taken as 4. -/
def Dev.fltIrqCfgWrite (d : Dev) (ss : Nat) (val : Word) : Dev :=
  d.hostWrite ss fltPage 0x100 [val] .any false fun d =>
    let d := d.plainWrite ss fltPage 0x100 val
    d.set (FLT_IRQ_CFG.SEV ss) (min 4 (d.get (FLT_IRQ_CFG.SEV ss)))

/-! ### Sticky bits (R340) -/

/-- A write of a sticky word by the page's owner (R340). -/
def Dev.fltStickyClear (d : Dev) (ss : Nat) (inj : Bool) (w : Nat) (val : Word) : Dev :=
  let off := (if inj then 0x300 else 0x200) + 4 * w
  d.hostWrite ss fltPage off [val] .owner false fun d => d.plainWrite ss fltPage off val

/-- FLT_STICKY_CLEAR (R340). -/
def execFltStickyClear (ss : Sess) (inj : Bool) (w : Fin 64) (val : Word) (s : State) : Result :=
  s.on fun d => d.fltStickyClear ss inj w val

/-- FLT_STICKY_SUM and FLT_STICKY_INJ_SUM. -/
def Dev.stickySum (d : Dev) (inj : Bool) : Nat :=
  (List.range 64).foldl (fun n w =>
    if d.reg (if inj then FLT_STICKY_INJ w else FLT_STICKY w) = 0 then n else n + 2 ^ w) 0

/-! ### Injection (R342, R343) -/

/-- The severity that R332 gives a kind; none for a kind that it does not list. -/
def kindSev (kind : Nat) : Option Nat :=
  let t : List (Nat × List Nat) := [
    (0, [0x01, 0x02, 0x14, 0x15, 0x21, 0x22, 0x2A, 0x32, 0x39, 0x3A, 0x43, 0x44, 0x4A, 0x55, 0x60, 0x62, 0x68, 0x69]),
    (1, [0x13, 0x30, 0x40, 0x41, 0x42, 0x50, 0x51, 0x52, 0x56, 0x58, 0x70]),
    (2, [0x11, 0x12, 0x20, 0x31, 0x45, 0x46, 0x48, 0x49, 0x53, 0x54, 0x57, 0x61]),
    (3, [0x18, 0x38, 0x59, 0x71]), (4, [0x10, 0x28, 0x29])]
  (t.find? fun x => x.2.contains kind).map Prod.fst

/-- The message in FLT_INJ_MSG may be injected (R342). -/
def injectOk (src kind sev : Nat) : Bool :=
  decide (src < 2048) && srcOk src && (kindSev kind == some sev || (kind == 0x53 && sev == 3))

/-- FLT_INJ_CTRL.GO (R342, R343). -/
def Dev.faultInject (d : Dev) (ss : Nat) : Dev :=
  let m := d.reg64 (FLT_INJ_MSG ss)
  let src := m / 2 ^ 52 % 4096
  let kind := m / 2 ^ 44 % 256
  let sev := m / 2 ^ 41 % 8
  if d.flt.injected.any fun x => x.dest == [ss] then d.set (FLT_INJ_CTRL.ERR ss) 1
  else if !injectOk src kind sev then d.set (FLT_INJ_CTRL.ERR ss) 2
  else
    let x := d.source src
    let msg : Msg := {
      source := src, kind, sev, inj := true, addr := BitVec.ofNat 32 (m / 256), seq := x.injSeq, cycle := d.cycle
      dest := [ss] }
    let d := (d.setSource src { x with injSeq := (x.injSeq + 1) % 256 }).markSource src sev true
    let d := (d.set (FLT_INJ_CTRL.ERR ss) 0).set (FLT_INJ_CTRL.BUSY ss) 1
    { d with flt := { d.flt with injected := d.flt.injected ++ [msg] } }

/-- A write of FLT_INJ_CTRL. -/
def Dev.fltInjCtrlWrite (d : Dev) (ss : Nat) (val : Word) : Dev :=
  d.cmdWrite ss fltPage 0x148 val (wbit val 0) fun d => d.faultInject ss

/-- FAULT_INJECT (R342). -/
def execFaultInject (ss : Sess) (val : Word) (s : State) : Result := s.on fun d => d.fltInjCtrlWrite ss val

/-! ### Resets (R339) -/

/-- A BLOCK_RESET of the page: rings, counters and sticky arrays; what waits in buffers and the queue stays. -/
def Dev.fltBlockReset (d : Dev) : Dev :=
  let keep := d.flt.sources.filterMap fun ((n, x) : Nat × Source) =>
    match x.buf with | none => none | some m => some (n, ({ buf := some m } : Source))
  { d with
    flt := { d.flt with sources := keep, device := {}, mirrors := [], srcLost := 0 }
    regs := d.regs.filter fun ((key, _) : Nat × Word) => !(0x6200 ≤ key && key < 0x6400) }

/-- A session reset empties its mirror (R339). -/
def Dev.fltSessionEnd (d : Dev) (ss : Nat) : Dev := d.setMirror ss {}

/-! ### What a read shows -/

/-- FLT_SRC_INFO of the source that a session selects. -/
def Dev.fltSrcInfo (d : Dev) (ss : Nat) : Word :=
  let x := d.source (d.get (FLT_SRC_SEL.SOURCE ss))
  BitVec.ofNat 32 (x.seq + 2 ^ 8 * x.injSeq + 2 ^ 16 * x.lost + 2 ^ 24 * x.lastSev)

/-- FLT_WIN: the message with count tail + i of the selected ring, or zero at or beyond the head (R338). -/
def State.fltWin (s : State) (ss i : Nat) : Nat :=
  let r := s.toDev.fltRing ss
  if r.held ≤ i then 0
  else
    let n := (r.tail + i) % 2 ^ 32
    let a := if s.toDev.fltDevice ss then devRingBase + 8 * (n % devRingSize) else mirrorBase ss + 8 * (n % mirrorSize)
    leNat (readBytes hbmDefault s.hbm a 8)

end Sys2Proof.Machine
end

