-- ==== Sys2Proof/Machine/Rings.lean ====
section
/-! DEFINITION. Result rings (R365 to R370) and the HBM scheduler that writes their records (R297 to R301). -/

namespace Sys2Proof.Machine

/-- The ring manager's page. -/
abbrev ringPage : Page := .dev 10

/-! ### Ring interrupts (R370) -/

/-- The visible count. -/
def Ring.visible (r : Ring) : Nat := if r.dma then r.drain else r.head

/-- A message on the ring's vector, one in a fabric cycle; the count is marked. -/
def Dev.ringMsg (d : Dev) (n : Nat) (r : Ring) : Dev :=
  let sent := r.msgCyc == some d.cycle
  let d := d.setRing n (some { r with mark := r.visible, firstT0 := none, msgCyc := some d.cycle })
  if sent then d else d.msix r.owner r.vec true

/-- The visible count has moved: the threshold is reached, or the first record beyond the mark is seen (R370). -/
def Dev.ringNote (d : Dev) (n : Nat) : Dev :=
  match d.ring n with
  | none => d
  | some r =>
    let ahead := (r.visible + 2 ^ 32 - r.mark) % 2 ^ 32
    if !r.irqEn || ahead = 0 then d
    else if 2 ^ r.threshLog2 ≤ ahead || r.coalesce = 0 then d.ringMsg n r
    else d.setRing n (some { r with firstT0 := some (r.firstT0.getD d.up) })

/-- COALESCE_US have passed since the first record beyond the mark (R370). -/
def Dev.ringCoalesce (d : Dev) (n : Nat) : Dev :=
  match d.ring n with
  | none => d
  | some r => match r.firstT0 with
    | none => d
    | some t => if r.irqEn && r.visible != r.mark && decide (t + usT0 * r.coalesce ≤ d.up) then d.ringMsg n r else d

/-- RING_COALESCE_EXPIRE (R370). -/
def execRingCoalesceExpire (n : BitVec 20) (s : State) : Result := s.on fun d => d.ringCoalesce n.toNat

/-! ### Descriptors (R365, R366) -/

/-- The rings that exist, by number. -/
def Dev.ringList (d : Dev) : List (Nat × Ring) := d.rings.filterMap fun ((n, r) : Nat × Option Ring) => r.map fun r => (n, r)

/-- The rings of a session. -/
def Dev.ringsOf (d : Dev) (ss : Nat) : List (Nat × Ring) := d.ringList.filter fun x => x.2.owner == ss

/-- The lowest free descriptor; descriptor 0 never exists (R366). -/
def Dev.freeDesc (d : Dev) : Option Nat :=
  let n := ((List.range (d.rings.length + 1)).map (· + 1)).find? fun n => (d.ring n).isNone
  n.filter fun n => decide (n < 1048576)

/-- The whole of [a, a + n) of a session's window lies in one RING allocation. -/
def Dev.inRingAlloc (d : Dev) (ss a n : Nat) : Bool :=
  d.pe.allocs.any fun x => x.session == ss && x.kind == 1 && decide (x.window * granule ≤ a)
    && decide (a + n ≤ (x.window + x.count) * granule)

/-- RING_RESULT.ERR and the ring number of a session; a failure keeps the number. -/
def Dev.ringErr (d : Dev) (ss err : Nat) : Dev := d.set (RING_RESULT.ERR ss) err

/-- CREATE (R366): 1 FULL, 2 BASE, 3 PARAM. -/
def Dev.ringCreate (d : Dev) (ss : Nat) : Dev :=
  let base := d.get (RING_BASE.BASE ss) * 4096
  let size := d.get (RING_PARAM.SIZE_LOG2 ss)
  let thresh := d.get (RING_PARAM.THRESH_LOG2 ss)
  let r : Ring := {
    sizeLog2 := size, owner := ss, base, dma := d.on (RING_PARAM.MODE ss), vec := d.get (RING_PARAM.VEC ss)
    irqEn := d.on (RING_PARAM.IRQ_EN ss), coalesce := d.get (RING_PARAM.COALESCE_US ss), threshLog2 := thresh
    host := d.get (RING_HOST.HOST ss) * 64 }
  match d.freeDesc with
  | none => d.ringErr ss 1
  | some n =>
    if d.get SESS_RING_MAX.RINGS ≤ (d.ringsOf ss).length then d.ringErr ss 1
    else if !d.inRingAlloc ss base (16 * 2 ^ size) then d.ringErr ss 2
    else if size < 8 || 27 < size || size < thresh then d.ringErr ss 3
    else ((d.setRing n (some r)).set (RING_RESULT.RING_ID ss) n).ringErr ss 0

/-- A ring without granted records leaves its descriptor; records that wait for it are dropped (R366, R180). -/
def Dev.ringFree (d : Dev) (n : Nat) : Dev :=
  match d.ring n with
  | none => d
  | some r => ((d.setRing n none).set (RING_RESULT.PENDING r.owner) 0).serveAll

/-- Credits of this fabric cycle are not granted after all, and their records are dropped: DESTROY takes effect first (R366,
R180). -/
def Dev.creditsBack (d : Dev) (n : Nat) : Dev :=
  (List.range 16).foldl (fun d k =>
    let late := fun (x : Xfer) => x.since == d.cycle && (match x.what with | .record _ m _ => m == n | _ => false)
    let l := tget (fun _ => []) d.sched.wait k
    (l.filter late).foldl (fun (d : Dev) _ =>
      match d.ring n with
      | none => d
      | some r =>
        let d := d.setRing n (some { r with out := r.out - 1 })
        (d.modCl k fun c => { c with resultBuf := c.resultBuf - 1 }).recordBad k n r.owner)
      { d with sched := { d.sched with wait := tput (fun _ => []) d.sched.wait k (l.filter fun x => !late x) } }) d

/-- DESTROY of an owned ring: no new credits, and freed once the granted records are written (R366); 4 PERM. -/
def Dev.ringDestroy (d : Dev) (ss n : Nat) : Dev :=
  match d.ring n with
  | none => d.ringErr ss 4
  | some r =>
    if r.owner != ss then d.ringErr ss 4
    else
      let d := ((d.setRing n (some { r with dying := true })).set (RING_RESULT.PENDING ss) 1).ringErr ss 0
      let d := d.creditsBack n
      if (d.ring n).all fun r => r.out == 0 then d.ringFree n else d

/-- A write of RING_CTRL; while one is PENDING it is discarded with ERR BUSY. -/
def Dev.ringCtrlWrite (d : Dev) (ss : Nat) (val : Word) : Dev :=
  d.cmdWrite ss ringPage 0x114 val (wbit val 0 || wbit val 1) fun d =>
    if d.on (RING_RESULT.PENDING ss) then d.ringErr ss 5
    else
      let d := if wbit val 0 then d.ringCreate ss else d
      if wbit val 1 then d.ringDestroy ss (d.get (RING_SEL.RING ss)) else d

/-- RING_CREATE (R366). -/
def execRingCreate (ss : Sess) (s : State) : Result := s.on fun d => d.ringCtrlWrite ss 1

/-- RING_DESTROY (R366). -/
def execRingDestroy (ss : Sess) (s : State) : Result := s.on fun d => d.ringCtrlWrite ss 2

/-- RING_DESTROY_DONE (R366). -/
def execRingDestroyDone (n : BitVec 20) (s : State) : Result := s.on fun d =>
  match d.ring n.toNat with
  | none => d
  | some r => if r.dying && r.out == 0 then d.ringFree n.toNat else d

/-! ### The doorbell (R369) -/

/-- The high word of RING_DB is written: TAIL of the ring in the low word moves forward, or the write is discarded. -/
def Dev.ringDbWrite (d : Dev) (ss : Nat) (val : Word) : Dev :=
  d.hostWrite ss ringPage 0x144 [val] .any false fun d =>
    let n := (tget (fun _ => 0) d.hold (RING_DB ss)).toNat % 2 ^ 20
    match d.ring n with
    | none => d.discard ss ringPage 0x144
    | some r =>
      if r.owner != ss || decide ((r.visible + 2 ^ 32 - r.tail) % 2 ^ 32 < (val.toNat + 2 ^ 32 - r.tail) % 2 ^ 32) then
        d.discard ss ringPage 0x144
      else (d.setRing n (some { r with tail := val.toNat })).serveAll

/-- RING_DB_WRITE (R369). -/
def execRingDbWrite (ss : Sess) (val : Word) (s : State) : Result := s.on fun d => d.ringDbWrite ss val

/-! ### The HBM scheduler (R297 to R301) -/

/-- HBM words that are no longer poisoned once they are written again whole (R26). -/
def Dev.unpoison (d : Dev) (a n : Nat) : Dev :=
  { d with poison := d.poison.filter fun x => decide (8 * x < a) || decide (a + n < 8 * x + 8) }

/-- What the SEC-DED check of a transfer reports to the sessions concerned; an uncorrectable word is marked (R26). -/
def Dev.eccReport (d : Dev) (e : EccOutcome) (dest : List Nat) : Dev :=
  match e with
  | .clean => d
  | .corrected a w => d.raise 13 0x58 1 (a.toNat / 8 + 2 ^ 31 * b2n w) dest
  | .uncorrectable a w =>
    ({ d with poison := a.toNat / 8 :: d.poison.filter fun x => x != a.toNat / 8 } : Dev).raise 13 0x59 3
      (a.toNat / 8 + 2 ^ 31 * b2n w) dest

/-- Bytes transferred by a flow or class. -/
def Dev.flowBytes (d : Dev) (f n : Nat) : Dev :=
  { d with sched := { d.sched with bytes := tmod (fun _ => 0) d.sched.bytes f fun x => (x + n) % 2 ^ 64 } }

/-- Transfers in wait under a key of the scheduler. -/
def HbmSched.at (s : HbmSched) (f : Nat) : List Xfer := tget (fun _ => []) s.wait f

/-- A program of the cluster is at work, or primed (R298). -/
def Dev.floorActive (d : Dev) (k : Nat) : Bool := (d.lanesOf k).any fun L => d.progBusy L

/-- Floor tokens of a cluster, in fifths of a byte, counted up to now: 12.8 bytes for each fabric cycle, up to
FLOOR_DEPTH lines, none while no lane is at work (R298). -/
def Dev.floorAccrue (d : Dev) (k : Nat) : Dev :=
  let cap := 5 * 256 * max 1 (d.get HBM_SCHED_CFG.FLOOR_DEPTH)
  d.modCl k fun c => { c with
    floorTokens := if d.floorActive k then min cap (c.floorTokens + 64 * (d.cycle - c.floorCyc)) else 0
    floorCyc := d.cycle }

/-- The edge fetches of cluster `k` that have arrived go to the floor class while it holds 256 tokens for each, else to
its flow (R298). -/
def Dev.floorSort (d : Dev) (k : Nat) : Dev :=
  (d.sched.at (100 + k)).foldl (fun d x =>
    if 1280 ≤ (d.cl k).floorTokens then
      (d.modCl k fun c => { c with floorTokens := c.floorTokens - 1280 }).hbmQueue (120 + k) x
    else d.hbmQueue k x)
    { d with sched := { d.sched with wait := terase d.sched.wait (100 + k) } }

/-- Quantum of a flow, in bytes (R299). -/
def Dev.quantum (d : Dev) (f : Nat) : Nat :=
  64 * max 4 (if f < 16 then d.get HBM_QUANTUM_CL.Q else if f < 80 then d.get (HBM_QUANTUM_SESS.Q (f - 16))
    else d.get HBM_QUANTUM_MAINT.Q)

/-- Deficit round-robin over the flows: the flow that is granted, and the scheduler at that point (R299). -/
def Dev.drr (d : Dev) (s : HbmSched) : Nat → Option (Nat × HbmSched)
  | 0 => none
  | n + 1 =>
    let f := s.ptr
    match s.at f with
    | x :: _ =>
      if x.size ≤ tget (fun _ => 0) s.deficit f then some (f, s)
      else Dev.drr d (turn s) n
    | [] => Dev.drr d (turn { s with deficit := terase s.deficit f }) n
where
  /-- The pointer advances; past flow 0 every waiting flow gains its quantum. -/
  turn (s : HbmSched) : HbmSched :=
    let p := (s.ptr + 1) % 81
    if p != 0 then { s with ptr := p }
    else { s with
      ptr := 0
      deficit := (List.range 81).foldl (fun t g =>
        if (s.at g).isEmpty then t else tmod (fun _ => 0) t g (· + d.quantum g)) s.deficit }

/-- The transfer that a grant opportunity takes: the floor class round-robin by cluster, then the flows; with its key and
the scheduler without it (R299). -/
def Dev.hbmPick (d : Dev) : Option (Nat × Xfer × HbmSched) :=
  let s := d.sched
  let floor := ((List.range 16).map fun i => (s.floorPtr + i) % 16).find? fun k => !(s.at (120 + k)).isEmpty
  match floor with
  | some k => match s.at (120 + k) with
    | [] => none
    | x :: r => some (120 + k, x, { s with wait := tput (fun _ => []) s.wait (120 + k) r, floorPtr := (k + 1) % 16 })
  | none => match d.drr s 330 with
    | none => none
    | some (f, s) => match s.at f with
      | [] => none
      | x :: r => some (f, x, { s with
          wait := tput (fun _ => []) s.wait f r, deficit := tmod (fun _ => 0) s.deficit f (· - x.size) })

/-- Sessions that a transfer concerns (R26). -/
def Dev.xferDest (d : Dev) (x : Xfer) : List Nat :=
  match x.what with
  | .record _ n _ => (d.ring n).toList.map Ring.owner
  | .fetch L _ => d.holderL L

/-- A record is written at its ring's HEAD, or its write fails and its number is consumed as for a dropped record
(R301, R365, R367). -/
def State.recordWrite (s : State) (k n : Nat) (body : BitVec 128) (ok : Bool) : State :=
  let d := s.toDev.modCl k fun c => { c with resultBuf := c.resultBuf - 1 }
  match d.ring n with
  | none => { s with toDev := d }
  | some r =>
    if !ok then { s with toDev := (d.setRing n (some { r with out := r.out - 1, ovr := true })).serveAll }
    else
      let d := d.setRing n (some { r with out := r.out - 1, head := (r.head + 1) % 2 ^ 32 })
      let d := if r.dma then d else d.ringNote n
      match d.bar2At r.owner (r.base + 16 * (r.head % 2 ^ r.sizeLog2)) with
      | none => { s with toDev := d.serveAll }
      | some a => { s with
          toDev := (d.unpoison a 16).serveAll
          hbm := writeBytes hbmDefault hbmSize s.hbm a (leBytes 16 body.toNat) }

/-- The data of a lane's line fetch: poisoned, it stops the program, and the controller's report stands (R26, R107). -/
def Dev.fetchGrant (d : Dev) (e : EccOutcome) (L line : Nat) : Dev :=
  if !d.progBusy L then d
  else match e with
    | .uncorrectable _ _ => d.progFault L 2 (tq d.epoch)
    | _ =>
      if decide (16 * line < d.evsEntries L) && d.evsPoison L (256 * line) 256 then d.poisonStop L (256 * line) else d

/-- HBM_GRANT: one transfer moves, and its SEC-DED check is reported (R26, R297 to R301). -/
def State.hbmGrant (s : State) (e : EccOutcome) : State :=
  let d := (List.range 16).foldl (fun d k => (d.floorAccrue k).floorSort k) s.toDev
  match d.hbmPick with
  | none => { s with toDev := d }
  | some (f, x, sched) =>
    let cls := if 120 ≤ f then 82 else f
    let late := min 0xFFFF (d.cycle - x.since)
    let d : Dev := { d with sched := { sched with waitMax := tmod (fun _ => 0) sched.waitMax cls (max late) } }
    let d := (d.flowBytes cls x.size).eccReport e (d.xferDest x)
    match x.what with
    | .record k n body =>
      State.recordWrite { s with toDev := d } k n body (match e with | .uncorrectable _ _ => false | _ => true)
    | .fetch L line => { s with toDev := d.fetchGrant e L line }

/-- HBM_GRANT (R299). -/
def execHbmGrant (e : EccOutcome) (s : State) : Result := .next (s.hbmGrant e)

/-- The clamped fields of HBM_SCHED_CFG and the quanta, on a write by the page's owner. -/
def Dev.hbmCfgWrite (d : Dev) (ss off : Nat) (val : Word) : Dev :=
  d.hostWrite ss (.dev 13) off [val] .owner false fun d =>
    let d := d.plainWrite ss (.dev 13) off val
    if off = 0x100 then
      let d := d.set HBM_SCHED_CFG.FLOOR_DEPTH (max 1 (d.get HBM_SCHED_CFG.FLOOR_DEPTH))
      d.set HBM_SCHED_CFG.DEV_CAP (max 1 (min 32 (d.get HBM_SCHED_CFG.DEV_CAP)))
    else d.setReg (0xD000 + off) (BitVec.ofNat 32 (max 4 (d.reg (0xD000 + off)).toNat))

/-- A session may read the figures of the flow that it selects: none of another session's, unless it owns the page. -/
def Dev.flowShown (d : Dev) (ss f : Nat) : Bool :=
  decide (f < 83) && (decide (f < 16) || decide (80 ≤ f) || f == 16 + ss || d.owner (.dev 13) == some ss)

/-- HBM_FLOW_BYTES of the flow that a session selects. -/
def Dev.flowBytesShown (d : Dev) (ss : Nat) : Nat :=
  let f := d.get (HBM_FLOW_SEL.FLOW ss)
  if d.flowShown ss f then tget (fun _ => 0) d.sched.bytes f else 0

/-- HBM_FLOW_WAIT_MAX of it. -/
def Dev.flowWaitShown (d : Dev) (ss : Nat) : Nat :=
  let f := d.get (HBM_FLOW_SEL.FLOW ss)
  if d.flowShown ss f then tget (fun _ => 0) d.sched.waitMax f else 0

/-- A write of HBM_FLOW_WAIT_MAX with any bit set clears it for the selected flow. -/
def Dev.flowWaitWrite (d : Dev) (ss : Nat) (val : Word) : Dev :=
  d.hostWrite ss (.dev 13) 0x120 [val] .any false fun d =>
    let f := d.get (HBM_FLOW_SEL.FLOW ss)
    if wfield val 0 16 = 0 || !d.flowShown ss f then d
    else { d with sched := { d.sched with waitMax := terase d.sched.waitMax f } }

/-! ### DMA drains (R368) -/

/-- A ring has records to copy: DMA mode, DRAIN behind HEAD, room in the host ring. -/
def Ring.copies (r : Ring) : Bool :=
  r.dma && r.drain != r.head && decide ((r.drain + 2 ^ 32 - r.tail) % 2 ^ 32 < 2 ^ r.sizeLog2)

/-- The ring of a session whose turn it is: round-robin, one batch each. -/
def Dev.drainNext (d : Dev) (ss : Nat) : Option Nat :=
  let l := (d.ringsOf ss).filter fun x => x.2.copies
  ((l.find? fun x => decide ((d.sn ss).lastDrain < x.1)).or l.head?).map Prod.fst

/-- A batch: at most 256 records, none across the end of the host ring; the status word follows. Poisoned data is
copied with EP set and reported to the owner (R368, R348). -/
def State.drainBatch (s : State) (n : Nat) : State :=
  match s.toDev.ring n with
  | none => s
  | some r =>
    let d := s.toDev
    let x := d.sn r.owner
    let size := 2 ^ r.sizeLog2
    if !r.copies || !x.live || !x.bme || x.d3 || d.drainNext r.owner != some n then s
    else
      let i := r.drain % size
      let left := (r.head + 2 ^ 32 - r.drain) % 2 ^ 32
      let room := size - (r.drain + 2 ^ 32 - r.tail) % 2 ^ 32
      let m := min (min left room) (min 256 (size - i))
      let bytes := d.bar2Bytes s.hbm r.owner (r.base + 16 * i) (16 * m)
      let at_ := d.bar2At r.owner (r.base + 16 * i)
      let ep := match at_ with | none => false | some a => d.poisoned a (16 * m)
      let drain := (r.drain + m) % 2 ^ 32
      let d := d.setSn r.owner { x with lastDrain := n }
      let d := match at_, ep with
        | some a, true => d.raise 13 0x59 3 (a / 8) [r.owner]
        | _, _ => d
      let d : Dev := { d with out := d.out ++ [.write r.owner (r.host + 16 * i) bytes ep,
        .write r.owner (r.host + 16 * size) (leBytes 8 drain) false] }
      { s with toDev := ((((d.setRing n (some { r with drain })).flowBytes (16 + r.owner) (16 * m)).ringNote n).serveAll) }

/-- DRAIN_BATCH (R368). -/
def execDrainBatch (n : BitVec 20) (s : State) : Result := .next (s.drainBatch n.toNat)

/-! ### What a read shows -/

/-- The descriptor that a session's RING_SEL names; zero unless it owns the ring. -/
def Dev.descOf (d : Dev) (ss : Nat) : List Word :=
  match d.ring (d.get (RING_SEL.RING ss)) with
  | none => []
  | some r => if r.owner = ss then r.desc else []

/-- RING_STAT.FREE. -/
def Dev.freeDescs (d : Dev) : Nat := 1048575 - d.ringList.length

end Sys2Proof.Machine
end

