-- ==== Sys2Proof/Machine/Sessions.lean ====
section
/-! DEFINITION. Links, functions and sessions (R345 to R348, R357, R358), the BAR2 window (R360), MSI-X masking (R363)
and the completion limit (R308). -/

namespace Sys2Proof.Machine

/-- The session table page. -/
abbrev sessPage : Page := .dev 9

/-! ### Links and functions (R345, R346) -/

/-- A port is two links of up to 4 lanes. -/
def Dev.split (d : Dev) (p : Nat) : Bool := d.boot.bifurcated.contains p

/-- The link exists with the port's configuration. -/
def Dev.hasLink (d : Dev) (p h : Nat) : Bool := h == 0 || d.split p

/-- A link; links are numbered 2 × port + link. -/
def Dev.link (d : Dev) (p h : Nat) : Link := tget (fun _ => {}) d.links (2 * p + h)

/-- It changes. -/
def Dev.setLink (d : Dev) (p h : Nat) (x : Link) : Dev := { d with links := tput (fun _ => {}) d.links (2 * p + h) x }

/-- Session number of the PF of a link (R346). -/
def Dev.pfOf (d : Dev) (p h : Nat) : Nat := 32 * p + (if d.split p then 16 * h else 0)

/-- VFs that a link can have. -/
def Dev.maxVfs (d : Dev) (p : Nat) : Nat := if d.split p then 15 else 31

/-- The session is that of a PF. -/
def Dev.isPf (d : Dev) (ss : Nat) : Bool := ss % (d.maxVfs (ss / 32) + 1) == 0

/-- A PF comes into existence at link-up with attribute M, and its VFs have NS, as after a conventional reset (R346,
R357). The link trains once PERST_N is high and phase 0 has completed (R402). -/
def Dev.linkUp (d : Dev) (p h : Nat) : Dev :=
  if !d.hasLink p h || (d.link p h).up || !d.boot.perst.contains p || !d.boot.done.contains 0 then d
  else
    let pf := d.pfOf p h
    let d := (d.setLink p h { up := true }).modSn pf fun x => { x with live := true, attr := 2 }
    (List.range (d.maxVfs p)).foldl (fun d i => d.modSn (pf + 1 + i) fun x => { x with attr := 0 }) d

/-- LINK_UP (R346). -/
def execLinkUp (port link : Fin 2) (s : State) : Result := s.on fun d => d.linkUp port link

/-! ### Session reset (R358) -/

/-- Caliper forgets whose a command was. -/
def Dev.calForget (d : Dev) (ss : Nat) : Dev :=
  let mine := fun (o : Option Nat) => if o = some ss then none else o
  { d with cal := { d.cal with
    jobs := d.cal.jobs.map fun ((k, j) : Nat × CalJob) => (k, { j with cmd := { j.cmd with session := mine j.cmd.session } })
    store := d.cal.store.map fun x => { x with session := mine x.session } } }

/-- Lanes that a session holds. -/
def Dev.lanesHeld (d : Dev) (ss : Nat) : List Nat :=
  d.lanes.filterMap fun ((L, l) : Nat × Lane) => if l.holder = some ss then some L else none

/-- The reset of a session begins: its requests end, its lanes are released, its rings refuse credits; the rest follows
as it completes (R358). -/
def Dev.sessReset (d : Dev) (ss : Nat) : Dev :=
  let x := d.sn ss
  if x.resetting then d
  else
    let d := d.setSn ss { x with resetting := true, resetT0 := d.up, bme := false, msixEn := false, fnMask := false }
    let d : Dev := { d with
      pe := { d.pe with queue := d.pe.queue.filter (fun r => r.session != ss), plans := terase d.pe.plans ss }
      nvmQ := d.nvmQ.filter fun c => c.session != ss }
    let d := (if d.calPending ss then (d.calAbort ss).calForget ss else d).bistSessionEnd ss
    let d := (d.lanesHeld ss).foldl (fun d L => d.askRelease L d.up) (d.loopWithdraw ss)
    (d.ringsOf ss).foldl (fun d ((n, r) : Nat × Ring) => d.setRing n (some { r with dying := true })) d

/-- FUNCTION_LEVEL_RESET (R358). -/
def execFunctionLevelReset (ss : Sess) (s : State) : Result :=
  s.on fun d => if (d.sn ss).live then d.sessReset ss else d

/-- A function ceases to exist, and its session is reset. -/
def Dev.funcEnd (d : Dev) (ss : Nat) : Dev :=
  if (d.sn ss).live then (d.modSn ss fun x => { x with live := false, d3 := false }).sessReset ss else d

/-- VF Enable and NumVFs change: VFs come into existence or cease (R346, R358). -/
def Dev.vfChange (d : Dev) (p h : Nat) (en : Bool) (num : Nat) (ari : Bool) : Dev :=
  if !d.hasLink p h || !(d.link p h).up then d
  else
    let top := d.maxVfs p
    let n := if en then min num (if ari then top else 7) else 0
    let d := d.setLink p h { d.link p h with vfEn := en, numVfs := num }
    (List.range top).foldl (fun d i =>
      let ss := d.pfOf p h + 1 + i
      if i < n then (if (d.sn ss).live then d else d.modSn ss fun x => { x with live := true }) else d.funcEnd ss) d

/-- VF_ENABLE_CHANGE (R346). -/
def execVfEnableChange (port link : Fin 2) (en : Bool) (numVfs : BitVec 16) (ari : Bool) (s : State) : Result :=
  s.on fun d => d.vfChange port link en numVfs.toNat ari

/-- A conventional reset of a link, or link-down: every session of it is reset and its functions cease (R346, R358). -/
def Dev.linkDown (d : Dev) (p h : Nat) : Dev :=
  if !d.hasLink p h || !(d.link p h).up then d
  else (List.range (d.maxVfs p + 1)).foldl (fun d i => d.funcEnd (d.pfOf p h + i)) (d.setLink p h {})

/-- LINK_DOWN (R358). -/
def execLinkDown (port link : Fin 2) (s : State) : Result := s.on fun d => d.linkDown port link

/-- A write of SESS_CTRL by a session of attribute M for a session that exists (R357, R358). -/
def Dev.sessCtrlWrite (d : Dev) (ss : Nat) (val : Word) : Dev :=
  d.hostWrite ss sessPage 0x110 [val] .attrM false fun d =>
    let t := d.get (SESS_SEL.TARGET ss)
    if !(d.sn t).live then d.discard ss sessPage 0x110 else if wbit val 0 then d.sessReset t else d

/-- SESS_CTRL_RESET (R358). -/
def execSessCtrlReset (ss : Sess) (s : State) : Result := s.on fun d => d.sessCtrlWrite ss 1

/-- Bases of the pages that a session owns. -/
def Dev.pagesOf (d : Dev) (ss : Nat) : List Nat :=
  d.regs.filterMap fun ((key, _) : Nat × Word) =>
    let b := key - 0x10
    if 0x10 ≤ key && key < 0x4000000 && key % 0x1000 = 0x10 && d.on (PAGE_OWNER.OWNED b) && d.get (PAGE_OWNER.SESSION b) = ss then
      some b
    else none

/-- A page loses its owner, LOCK included; a session that showed the device ring as its owner no longer does (R338,
R353). -/
def Dev.pageFree (d : Dev) (base : Nat) : Dev :=
  let o := d.get (PAGE_OWNER.SESSION base)
  let d := d.setReg (PAGE_OWNER base) 0
  if base = fltPage.base then d.fltSelCheck o else d

/-- A session's lock groups, without members since its lanes are released. -/
def Dev.groupsDrop (d : Dev) (ss : Nat) : Dev :=
  ((d.lgs.filter fun ((_, g) : Nat × LockGroup) => g.owner == some ss).map Prod.fst).foldl (fun d g =>
    (((d.modLg g fun x => { x with owner := none, attr := 0, members := [] }).groupIdle g).clearGcols g)) d

/-- Every per-session copy of a session returns to its reset value. -/
def Dev.copiesReset (d : Dev) (ss : Nat) : Dev :=
  let keep := fun (key : Nat) => key / 0x4000000 != ss + 1
  { d with
    regs := d.regs.filter fun ((key, _) : Nat × Word) => keep key
    hold := d.hold.filter fun ((key, _) : Nat × Word) => keep key
    capt := d.capt.filter fun ((key, _) : Nat × Option Word) => keep key
    fresh := d.fresh.filter fun ((key, _) : Nat × (Nat × Word)) => keep key }

/-- The reset has released every lane and its rings have written their granted records. -/
def Dev.resetReady (d : Dev) (ss : Nat) : Bool :=
  (d.sn ss).resetting && (d.lanesHeld ss).isEmpty && (d.ringsOf ss).all fun x => x.2.out == 0

/-- SESSION_RESET_DONE (R358): lock groups, Armature objects, pages, rings, HBM, mirror, register copies and MSI-X table
are given up, and RESETTING clears. The attribute stays (R357). -/
def State.sessionResetDone (s : State) (ss : Nat) : State :=
  if !s.toDev.resetReady ss then s
  else
    let d := (s.toDev.groupsDrop ss).armRelease ss
    let d := (d.pagesOf ss).foldl Dev.pageFree d
    let d := ((d.ringsOf ss).map Prod.fst).foldl Dev.ringFree d
    let mine := d.pe.allocs.filter fun a => a.session == ss
    let d := ((mine.foldl Dev.allocDrop d).fltSessionEnd ss).copiesReset ss
    let d := d.modSn ss fun x => { live := x.live, attr := x.attr, d3 := x.d3 }
    mine.foldl State.allocClear { s with toDev := d }

/-- SESSION_RESET_DONE (R358). -/
def execSessionResetDone (ss : Sess) (s : State) : Result := .next (s.sessionResetDone ss)

/-! ### The BAR2 window (R359, R360) -/

/-- A byte of [a, a + n) of a session's window lies in an unmapped granule. -/
def Dev.bar2Misses (d : Dev) (ss a : Nat) : Nat → Bool
  | 0 => false
  | n + 1 => (d.bar2At ss a).isNone || d.bar2Misses ss (a + 1) n

/-- An access to an unmapped granule is counted (R360). -/
def Dev.missIf (d : Dev) (ss : Nat) (c : Bool) : Dev := if c then d.bump (SESS_BAR2_MISS.COUNT ss) else d

/-- A BAR2 read (R360). -/
def State.bar2Read (s : State) (ss a n : Nat) : State :=
  let d := s.toDev
  if !d.acts ss then { s with toDev := { d with out := d.out ++ [.unsupported ss] } }
  else
    let bad := d.bar2Poison ss a n
    let d : Dev := { d with reply := d.bar2Bytes s.hbm ss a n, replyEp := bad.isSome }
    let d := (d.missIf ss (d.bar2Misses ss a n)).flowBytes (16 + ss) n
    { s with toDev := match bad with | none => d | some x => d.raise 13 0x59 3 (x / 8) [ss] }

/-- BAR2_READ (R360). -/
def execBar2Read (ss : Sess) (addr : BitVec 34) (len : Nat) (s : State) : Result := .next (s.bar2Read ss addr.toNat len)

/-- Bytes of a BAR2 write stored where their granules are mapped. -/
def Dev.bar2Store (d : Dev) (hbm : List Host.Cell) (ss a : Nat) : List Byte → List Host.Cell
  | [] => hbm
  | b :: bs => d.bar2Store (match d.bar2At ss a with
      | none => hbm
      | some x => writeByte hbmDefault hbmSize hbm x b) ss (a + 1) bs

/-- A poisoned HBM word that a BAR2 write covers whole, in a window granule, is poisoned no longer (R26). -/
def Dev.bar2Heals (d : Dev) (ss a n x : Nat) : Bool :=
  d.pe.allocs.any fun r => r.session == ss && decide (r.base * granule ≤ 8 * x)
    && decide (8 * x < (r.base + r.count) * granule)
    && decide (a + r.base * granule ≤ 8 * x + r.window * granule)
    && decide (8 * x + 8 + r.window * granule ≤ a + n + r.base * granule)

/-- A BAR2 write (R360, R26). A poisoned one is discarded and reported by the port. -/
def State.bar2Write (s : State) (ss a : Nat) (bytes : List Byte) (ep : Bool) : State :=
  let d := s.toDev
  if !d.acts ss then s
  else if ep then { s with toDev := d.raise (16 + ss / 32) 0x71 3 ss [ss] }
  else
    let n := bytes.length
    let d' := (d.missIf ss (d.bar2Misses ss a n)).flowBytes (16 + ss) n
    { s with
      toDev := { d' with poison := d'.poison.filter fun x => !d.bar2Heals ss a n x }
      hbm := d.bar2Store s.hbm ss a bytes }

/-- BAR2_WRITE (R360). -/
def execBar2Write (ss : Sess) (addr : BitVec 34) (bytes : List Byte) (ep : Bool) (s : State) : Result :=
  .next (s.bar2Write ss addr.toNat bytes ep)

/-! ### MSI-X masking (R363, R347) -/

/-- Vectors whose masking has ended send what is still due, and their pending bits clear. -/
def Dev.msixFlush (d : Dev) (ss : Nat) : Dev :=
  let x := d.sn ss
  if !x.live || !x.msixEn || x.fnMask || !x.bme || x.d3 then d
  else x.vecs.foldl (fun d ((v, e) : Nat × MsixVec) =>
    if !e.pending || e.masked then d
    else
      let d := if d.irqP ss v || e.owed then { d with out := d.out ++ [.msix ss v] } else d
      d.modSn ss fun x => { x with
        vecs := tput (fun _ => {}) x.vecs v { e with pending := false, owed := false } }) d

/-- Vector control of the function's MSI-X table is written. -/
def Dev.vecMask (d : Dev) (ss v : Nat) (masked : Bool) : Dev :=
  (d.modSn ss fun x => { x with vecs := tmod (fun _ => {}) x.vecs v fun e => { e with masked } }).msixFlush ss

/-- A masking of the function changes (R363). The table lies in BAR0; the other three are configuration registers, which
D3hot leaves accessible. -/
def Dev.msixChange (d : Dev) (ss : Nat) (c : MsixChange) : Dev :=
  if !(d.sn ss).live || (d.sn ss).resetting then d
  else match c with
    | .vector v m => if (d.sn ss).d3 then d
      else if d.waits ss then d.stall ss (0x3000000 + 16 * v + 12) [BitVec.ofNat 32 (b2n m)] else d.vecMask ss v m
    | .functionMask on => (d.modSn ss fun x => { x with fnMask := on }).msixFlush ss
    | .msixEnable on => (d.modSn ss fun x => { x with msixEn := on }).msixFlush ss
    | .busMaster on => (d.modSn ss fun x => { x with bme := on }).msixFlush ss

/-- MSIX_MASK_CHANGE (R363). -/
def execMsixMaskChange (ss : Sess) (c : MsixChange) (s : State) : Result := s.on fun d => d.msixChange ss c

/-- D3HOT_TRANSITION (R347): BAR decoding and messages stop, and resume with what is still due. -/
def execD3hotTransition (ss : Sess) (d3 : Bool) (s : State) : Result := s.on fun d =>
  if !(d.sn ss).live then d else (d.modSn ss fun x => { x with d3 }).msixFlush ss

/-- AER_ERROR (R347): PCIE_AER_CORR or PCIE_AER_UNCOR of the port to the function's session. -/
def execAerError (port : Fin 2) (func : BitVec 6) (uncor : Bool) (s : State) : Result := s.on fun d =>
  d.raise (16 + port) (if uncor then 0x71 else 0x70) (if uncor then 3 else 1) func.toNat [func.toNat]

/-- The first read of that address that waits behind the session's loop check is not performed any more. -/
def dropStalled (ss addr : Nat) : List Stalled → List Stalled
  | [] => []
  | x :: t => if x.ss = ss && x.addr = addr && x.vals.isEmpty then t else x :: dropStalled ss addr t

/-- The first read of that address that waits is within SESS_CPL_LIMIT of its arrival: its data can still come in time (R308,
R288). -/
def Dev.cplInTime (d : Dev) (ss addr : Nat) : Bool :=
  match d.stalled.find? fun x => x.ss == ss && x.addr == addr && x.vals.isEmpty with
  | none => false
  | some x => decide (d.up / 4 ≤ (x.t0 + usT0 * max 64 (d.get SESS_CPL_LIMIT.US)) / 4)

/-- CPL_LIMIT_EXPIRE (R308): the access is not performed and completes with Completer Abort. -/
def execCplLimitExpire (ss : Sess) (addr : BitVec 26) (s : State) : Result := s.on fun d =>
  if !d.acts ss || d.cplInTime ss addr.toNat then d
  else
    let d : Dev := { d with stalled := dropStalled ss addr.toNat d.stalled, out := d.out ++ [.completerAbort ss] }
    (d.bump (SESS_CPL_EXPIRED.COUNT ss)).raise 9 0x02 0 addr.toNat [ss]

/-! ### What a read shows (R364, R357) -/

/-- The page makes P true for the session. -/
def Dev.pageP (d : Dev) (ss : Nat) (pg : Page) : Bool :=
  let key := if pg.perIrq then sessKey ss + PAGE_IRQ_STAT pg.base else PAGE_IRQ_STAT pg.base
  (pg.perIrq || d.owner pg == some ss) && (d.reg key &&& d.reg (key - 4)) != 0

/-- A page of cluster `k` by its index (R364). -/
def clPageAt (k : Clu) (i : Nat) : Option Page :=
  if i = 0 then some (.ctl k) else if i = 1 then some (.seq k) else if i = 2 then some (.arm k)
  else if i = 3 then some (.pool k) else if i = 4 then some (.freq k)
  else if i < 8 then none
  else if h : i - 8 < 68 then some (.ch k ⟨i - 8, h⟩)
  else if i < 80 then none
  else if h : i - 80 < 34 then some (.tmu k ⟨i - 80, h⟩)
  else none

/-- Bits set where `p` holds, as a word. -/
def bitWord (n : Nat) (p : Nat → Bool) : Word :=
  BitVec.ofNat 32 ((List.range n).foldl (fun x i => if p i then x + 2 ^ i else x) 0)

/-- SESS_IRQ_DEV. -/
def Dev.irqDev (d : Dev) (ss : Nat) : Word := bitWord 15 fun i => if h : i < 15 then d.pageP ss (.dev ⟨i, h⟩) else false

/-- SESS_IRQ_CL[k][w]. -/
def Dev.irqCl (d : Dev) (ss : Nat) (k : Clu) (w : Nat) : Word :=
  bitWord 32 fun b => match clPageAt k (32 * w + b) with | none => false | some pg => d.pageP ss pg

/-- SESS_SELF. -/
def Dev.sessSelf (d : Dev) (ss : Nat) : Word :=
  let p := ss / 32
  BitVec.ofNat 32 (ss + 64 * d.attr ss + 256 * b2n (d.isPf ss) + 512 * p + 1024 * (if d.split p then ss / 16 % 2 else 0))

/-- SESS_INFO of the session that the reader selects. -/
def Dev.sessInfo (d : Dev) (ss : Nat) : Word :=
  let x := d.sn (d.get (SESS_SEL.TARGET ss))
  BitVec.ofNat 32 (b2n x.live + 2 * b2n x.bme + 4 * b2n x.msixEn + 8 * (if d.retired then 0 else x.attr) + 32 * b2n x.resetting)

end Sys2Proof.Machine
end

