-- ==== Sys2Proof/Machine/Nvm.lean ====
section
/-! DEFINITION. The host's commands on the NVM: READ and CHECK (R373, R28, R307). -/

namespace Sys2Proof.Machine

/-- The NVM page. -/
abbrev nvmPage : Page := .dev 11

/-- A command of the session is queued or running. -/
def Dev.nvmWaits (d : Dev) (ss : Nat) : Bool := d.nvmQ.any fun c => c.session == ss

/-- The range that R373 gives an OP. -/
def nvmRangeOk (op addr len : Nat) : Bool :=
  addr % 4 == 0 && len % 4 == 0 && decide (4 ≤ len) && decide (len ≤ if op = 1 then 256 else 0x1000000)
    && decide (addr + len ≤ nvmSize)

/-- A command ends: DONE, its ERR and the session's interrupt. -/
def Dev.nvmEnd (d : Dev) (ss err : Nat) : Dev :=
  ((d.set (NVM_CMD_STAT.ERR ss) err).stick (NVM_CMD_STAT.DONE ss)).irqAt nvmPage ss 0

/-- GO: BUSY, INVALID and RANGE are judged at once; otherwise the command is queued in arrival order (R373, R307). A GO that
meets the completion of the session's command in its fabric cycle starts again (R20). -/
def Dev.nvmGo (d : Dev) (ss : Nat) : Dev :=
  let op := d.get (NVM_CMD.OP ss)
  let addr := d.get (NVM_ADDR.ADDR ss)
  let len := d.get (NVM_LEN.BYTES ss)
  if d.nvmWaits ss then (d.nvmEnd ss 2).askAgain 0xB10C ss 0
  else if op = 0 || op = 3 then (d.set (NVM_CMD_STAT.STATE ss) 3).nvmEnd ss 3
  else if !nvmRangeOk op addr len then (d.set (NVM_CMD_STAT.STATE ss) 3).nvmEnd ss 1
  else
    let d := d.nvmAsk 3 fun d => { d with nvmQ := d.nvmQ ++ [{ session := ss, op, addr, len }] }
    d.set (NVM_CMD_STAT.STATE ss) 1

/-- A write of NVM_CMD (R373). -/
def Dev.nvmCmdWrite (d : Dev) (ss : Nat) (val : Word) : Dev :=
  d.cmdWrite ss nvmPage 0x10C val (wbit val 31) fun d => d.nvmGo ss

/-- NVM_READ (R373). -/
def execNvmRead (ss : Sess) (val : Word) (s : State) : Result := s.on fun d => d.nvmCmdWrite ss val

/-- NVM_CHECK (R373). -/
def execNvmCheck (ss : Sess) (val : Word) (s : State) : Result := s.on fun d => d.nvmCmdWrite ss val

/-- NVM_INVALID_CMD (R373). -/
def execNvmInvalidCmd (ss : Sess) (val : Word) (s : State) : Result := s.on fun d => d.nvmCmdWrite ss val

/-- NVM_DATA of a session: the bytes read, little-endian; words beyond them read zero. -/
def Dev.nvmData (d : Dev) (ss : Nat) (bytes : List Byte) : Dev :=
  (List.range 64).foldl (fun d w =>
    d.setReg (NVM_DATA ss w) (BitVec.ofNat 32 (leNat ((bytes.drop (4 * w)).take 4)))) d

/-- `n` words of free values. -/
def Dev.drawBytes (d : Dev) : Nat → List Byte × Dev
  | 0 => ([], d)
  | n + 1 =>
    let (x, d) := d.draw
    let (l, d) := d.drawBytes n
    (leBytes 4 x.toNat ++ l, d)

/-- The data or the CRC of a completed command; after a read error neither is valid: free values (R373). -/
def Dev.nvmResult (d : Dev) (nvm : List Host.Cell) (c : NvmCmd) (readErr : Bool) : Dev :=
  if c.op = 1 then
    let r : List Byte × Dev :=
      if readErr then d.drawBytes (c.len / 4) else ((List.range c.len).map fun i => d.nvmByte nvm (c.addr + i), d)
    r.2.nvmData c.session r.1
  else
    let r : Nat × Dev :=
      if readErr then ((d.draw).1.toNat, (d.draw).2) else (crc32 ((List.range c.len).map fun i => d.nvmByte nvm (c.addr + i)), d)
    r.2.set (NVM_RESULT.CRC c.session) r.1

/-- NVM_CMD_DONE: the host command at the head of the queue completes; it does not while the NVM performs another
requester's operation (R373, R28). -/
def execNvmCmdDone (readErr : Bool) (s : State) : Result :=
  s.on fun d =>
    match d.nvmQ with
    | [] => d
    | c :: rest =>
      if !d.nvmMay 3 then d
      else
        let d := ({ d with nvmQ := rest, nvmCur := none } : Dev).nvmResult s.nvm c readErr
        let d := (d.set (NVM_CMD_STAT.STATE c.session) 3).nvmEnd c.session (if readErr then 4 else 0)
        d.nvmPin.startAgain 0xB10C fun d ss _ => d.nvmGo ss

/-- What NVM_CMD_STAT shows: 2 running for the command at the head (R373). -/
def Dev.nvmCmdStat (d : Dev) (ss : Nat) : Word :=
  let w := d.reg (NVM_CMD_STAT ss)
  match d.nvmQ with
  | [] => w
  | c :: _ => if c.session = ss && d.nvmServing == some 3 then (NVM_CMD_STAT.STATE ss).into w 2 else w

/-- What NVM_STAT shows: the operation in progress with its requester, and the host commands queued (R373). -/
def Dev.nvmStat (d : Dev) : Word :=
  let op := match d.nvmServing with
    | some r => 1 + 2 * r
    | none => 0
  BitVec.ofNat 32 (op + 8 * d.nvmQ.length)

end Sys2Proof.Machine
end

