-- ==== Sys2Proof/Machine/Debug.lean ====
section
/-! DEFINITION. The debug level: authentication, lockout, rise and drop (R377, R378, R380). -/

namespace Sys2Proof.Machine

/-- The security page. -/
abbrev secPage : Page := .dev 7

/-- Sessions that exist. -/
def Dev.liveSessions (d : Dev) : List Nat := (List.range 64).filter fun ss => (d.sn ss).live

/-- VDD_AON is present: the TAP and the always-on island have power (R381, R383). -/
def Dev.aonPower (d : Dev) : Bool := d.boot.rails.contains .aon

/-- A rise of this fabric cycle is refused after all: the level is as before, and DEBUG is not set (R380). DESIGN CHOICE, log
entry 60: an MSI-X message that it has sent stays sent. -/
def Dev.unrise (d : Dev) : Dev :=
  match d.sec.rose with
  | none => d
  | some (c, level, told) =>
    if c != d.cycle then d
    else
      let d := told.foldl (fun (d : Dev) ss => d.set ⟨sessKey ss + PAGE_IRQ_STAT 0x7000, 0, 1⟩ 0) d
      { d.set SEC_STAT.DBG_LEVEL level with sec := { d.sec with rose := none } }

/-- The level drops to OFF with a cause; halted clusters resume (R380). A rise of the same fabric cycle is refused, also one
that came before the drop. -/
def Dev.dbgDrop (d : Dev) (cause : Nat) : Dev :=
  let d := d.unrise
  let d : Dev := { d with sec := { d.sec with dropCyc := some d.cycle } }
  if d.get SEC_STAT.DBG_LEVEL = 0 then d
  else
    let d := { d.set SEC_STAT.DBG_LEVEL 0 with
      clusters := d.clusters.map fun ((k, c) : Nat × Cluster) => (k, { c with halted := false, stepped := false }) }
    d.raise 7 0x69 0 cause []

/-- A level rises, and every session learns of it (R379). INTRUSIVE is refused after LOCK and in DEEP, every rise in the
fabric cycle of a drop (R377, R380, R381). A request for a level not above the present one changes nothing. -/
def Dev.dbgRise (d : Dev) (level : Nat) : Dev :=
  if level ≤ d.get SEC_STAT.DBG_LEVEL || d.sec.dropCyc == some d.cycle || (level == 2 && (d.sec.locked || d.pln.st == .deep))
  then d
  else
    let told := d.liveSessions.filter fun ss => !d.on ⟨sessKey ss + PAGE_IRQ_STAT 0x7000, 0, 1⟩
    let d : Dev := { d with sec := { d.sec with rose := some (d.cycle, d.get SEC_STAT.DBG_LEVEL, told) } }
    (d.set SEC_STAT.DBG_LEVEL level).irqAll secPage d.liveSessions 0

/-- Lifecycle states in which the port can be opened: not RETIRED, which a lost configuration runs as; and not in
recovery mode (R377, R398, R401). -/
def Dev.dbgOpen (d : Dev) : Bool := d.aonPower && !d.retired && !d.pln.recovery

/-- An instruction other than EXTEST, CLAMP and HIGHZ is in the register: the boundary cells and the high impedance let
go of the pins (15). -/
def Security.irLoad (x : Security) (code : Nat) : Security :=
  { x with ir := BitVec.ofNat 8 code, driving := false, highz := false }

/-- The 42 bytes of a challenge: nonce, ID_SERIAL and lifecycle, the numbers little-endian (R377). -/
def Dev.challengeBytes (d : Dev) (nonce : List Byte) : List Byte :=
  nonce ++ leBytes 8 (d.reg64 ID_SERIAL) ++ leBytes 2 (d.get SEC_STAT.LIFECYCLE)

/-- T0 in 10 s. -/
abbrev nonceLife : Nat := 10 * secT0

/-- DBG_CHALLENGE: level 0 drops the level; 1 and 2 return a nonce, unless a lockout is in force; another level asks
for nothing (R377, R378, R380). -/
def Dev.challenge (d : Dev) (level : Nat) : Dev :=
  let d : Dev := { d with sec := { d.sec.irLoad 0x11 with nonce := none }, tdo := [] }
  if level = 0 then d.dbgDrop 0
  else if 2 < level || d.on SEC_STAT.LOCKOUT then d
  else
    let (n, d) := d.drawBytes 8
    let bytes := d.challengeBytes n
    { d with sec := { d.sec with nonce := some { bytes, level, t0 := d.up } }, tdo := bytes }

/-- An instruction that is not available acts as BYPASS: its code is in the register, one bit of 0 is shifted. -/
def Dev.asBypass (d : Dev) (code : Nat) : Dev :=
  if d.aonPower then { d with sec := d.sec.irLoad code, tdo := [0] } else d

/-- DBG_CHALLENGE (R377). -/
def execDbgChallenge (level : Byte) (s : State) : Result :=
  s.on fun d => if d.dbgOpen then d.challenge level.toNat else d.asBypass 0x11

/-- The owner's hash: SEC_OWNER_KEY, bytes 4w to 4w + 3 in word w, as the big-endian number that a digest is. -/
def Dev.ownerHash (d : Dev) : Nat :=
  ((List.range 12).flatMap fun w => leBytes 4 (d.reg (SEC_OWNER_KEY w)).toNat).foldl (fun n b => 256 * n + b.toNat) 0

/-- The response meets the table of R377. -/
def Dev.responseOk (d : Dev) (n : Nonce) (key sig : List Byte) : Bool :=
  let keyed := fun (hash : Nat) => Config.sha384 key == hash && Config.ecdsaOk key n.bytes sig
  let lc := d.get SEC_STAT.LIFECYCLE
  if lc = 0 then n.level == 1 || keyed Config.vendorHash
  else if lc = 1 then n.level == 1 || d.on SEC_DBG_CTRL.ALLOW
  else if lc = 2 then keyed d.ownerHash && (n.level == 1 || d.on SEC_DBG_CTRL.ALLOW)
  else false

/-- The lockout time after `n` consecutive failures, in seconds (R378). -/
def lockoutS (n : Nat) : Nat := if n < 3 then 0 else min 3600 (60 * 2 ^ min (n - 3) 6)

/-- A failed response (R378). -/
def Dev.authFail (d : Dev) : Dev :=
  let d := (d.bump SEC_AUTH.FAILS).raise 7 0x68 0 0 []
  let t := lockoutS (d.get SEC_AUTH.FAILS)
  if t = 0 then d
  else { d.set SEC_STAT.LOCKOUT 1 with sec := { d.sec with lockT0 := some d.up, lockS := t } }

/-- DBG_RESPONSE: the nonce is used up; without one in date the response fails (R377, R378). -/
def Dev.response (d : Dev) (key sig : List Byte) : Dev :=
  let n := d.sec.nonce
  let d : Dev := { d with sec := { d.sec.irLoad 0x12 with nonce := none }, tdo := [] }
  match n with
  | none => d.authFail
  | some n =>
    if n.t0 + nonceLife ≤ d.up || !d.responseOk n key sig then d.authFail
    else (d.set SEC_AUTH.FAILS 0).dbgRise n.level

/-- DBG_RESPONSE (R377). -/
def execDbgResponse (key sig : List Byte) (s : State) : Result :=
  s.on fun d => if d.dbgOpen then d.response key sig else d.asBypass 0x12

/-- NONCE_EXPIRE: 10 s after it was read (R377). -/
def execNonceExpire (s : State) : Result := s.on fun d =>
  match d.sec.nonce with
  | none => d
  | some n => if n.t0 + nonceLife ≤ d.up then { d with sec := { d.sec with nonce := none } } else d

/-- The lockout has run out. -/
def Dev.lockoutOver (d : Dev) : Bool := d.sec.lockT0.all fun t => decide (t + d.sec.lockS * secT0 ≤ d.up)

/-- AUTH_LOCKOUT_EXPIRE (R378). -/
def execAuthLockoutExpire (s : State) : Result := s.on fun d =>
  if d.lockoutOver then { d.set SEC_STAT.LOCKOUT 0 with sec := { d.sec with lockT0 := none } } else d

/-- SEC_AUTH.LOCK_S: seconds of lockout left (R378). -/
def Dev.lockLeft (d : Dev) : Nat :=
  match d.sec.lockT0 with
  | none => 0
  | some t => min 4095 ((t + d.sec.lockS * secT0 - d.up + secT0 - 1) / secT0)

end Sys2Proof.Machine
end

