-- ==== Sys2Proof/Machine/Power.lean ====
section
/-! DEFINITION. Power: gating and waking of clusters (R22, R29, R231, R382), the power states and their transitions
(R383 to R385, R388), and what a loss of power leaves of the state (R384, R395, R404). -/

namespace Sys2Proof.Machine

/-- The power and Plinth mailbox page. -/
abbrev pwrPage : Page := .dev 8

/-! ### Lane outputs (R90, R414, R417, R418) -/

/-- How strongly the lane outputs drive their balls. -/
inductive Drive where
  | full | hold | unpowered
  deriving DecidableEq, Repr

/-- Full swing while RESET_N is low and in ACTIVE, hold drive in DROWSE with the same sign, nothing in DEEP, in OFF and without
VDD_IO (R396, R414, R418). -/
def Dev.drive (d : Dev) : Drive :=
  if !d.boot.rails.contains .aon || !d.boot.rails.contains .io || d.pln.st == .deep then .unpowered
  else if d.boot.resetN && d.pln.st == .drowse then .hold
  else .full

/-! ### Clusters (R382) -/

/-- PWR_STAT.GATED shows the clusters that are gated. -/
def Dev.showGated (d : Dev) : Dev :=
  d.set PWR_STAT.GATED (bitWord 16 fun k => d.get (CL_STATE.PWR k) == 0).toNat

/-- A cluster is idle (R382). A TMU that has been declared UNUSABLE is not in service and does not count. -/
def Dev.clusterIdle (d : Dev) (k : Nat) : Bool :=
  (d.lanesOf k).isEmpty && (d.run k).isNone && !d.sliceIn k && d.freqState k == 0
    && (List.range 34).all fun t => d.tmuState k t == 0 || d.get (TMU_STAT.ROLE k t) == 3

/-- Gating of cluster `k` is decided: its slices abort (R382, R313). A wake request of the same fabric cycle wins. -/
def Dev.gatingBegin (d : Dev) (k : Nat) : Dev :=
  if d.get (CL_STATE.PWR k) != 2 || tget (fun _ => 0) d.pln.wakeCyc k == d.cycle + 1 then d
  else
    let d := (d.slicesStop k).set (CL_STATE.PWR k) 3
    { d with pln := { d.pln with gateCyc := tput (fun _ => 0) d.pln.gateCyc k (d.cycle + 1) } }

/-- The power of a gated cluster returns; its pages answer once its tree is aligned (R29, R382). -/
def Dev.wakeBegin (d : Dev) (k : Nat) : Dev :=
  if d.get (CL_STATE.PWR k) = 0 then (d.set (CL_STATE.PWR k) 1).showGated else d

/-- A wake request for cluster `k`: it wins over a gating of its fabric cycle, and waits for the end of an earlier one.
While a Plinth image starts, no cluster is woken: the request waits (R382, R392). -/
def Dev.wakeAsk (d : Dev) (k : Nat) : Dev :=
  let d : Dev := { d with pln := { d.pln with wakeCyc := tput (fun _ => 0) d.pln.wakeCyc k (d.cycle + 1) } }
  let later : Dev := { d with pln := { d.pln with wakeAfter := d.pln.wakeAfter.filter (fun j => j != k) ++ [k] } }
  match d.get (CL_STATE.PWR k) with
  | 0 => if d.pln.running then d.wakeBegin k else later
  | 3 => if tget (fun _ => 0) d.pln.gateCyc k == d.cycle + 1 then d.set (CL_STATE.PWR k) 2 else later
  | _ => d

/-- Gating is complete, once the restores of the cluster's slices are (R313): the tree is no longer aligned and the cluster's
events are lost (R29, R231); a wake that was asked for meanwhile begins. -/
def Dev.gatingDone (d : Dev) (k : Nat) : Dev :=
  if d.get (CL_STATE.PWR k) != 3 || d.sliceIn k then d
  else
    let d := ((d.set (CL_STATE.PWR k) 0).set (CL_STATE.TREE_ALIGNED k) 0).genUp
    let d := d.modCl k fun c => { c with events := [], stage := [], treeTo := none }
    let d := (d.set (TB_TREE_PHASE.SLEWING k) 0).showGated
    let d := (d.lanesOf k).foldl (fun d L => d.cutCands L fun _ => true) d
    if d.pln.wakeAfter.contains k && d.pln.running then
      ({ d with pln := { d.pln with wakeAfter := d.pln.wakeAfter.filter fun j => j != k } } : Dev).wakeBegin k
    else d

/-- CLUSTER_GATE_DONE (R382). -/
def execClusterGateDone (k : Clu) (s : State) : Result := s.on fun d => d.gatingDone k

/-- The start sequence left the cluster out of service (R400). -/
def Dev.clFailed (d : Dev) (k : Nat) : Bool := d.get BOOT_CL_FAIL.CLUSTERS / 2 ^ k % 2 == 1

/-- Caliper aligns the tree of a cluster: what it measures is a free value (R29, R245). -/
def Dev.treeFree (d : Dev) (k : Nat) : Dev :=
  if d.on (CL_STATE.TREE_ALIGNED k) then d
  else
    let (x, d) := d.draw
    let (y, d) := d.draw
    let d := d.modCl k fun c => { c with treeMeasT0 := d.up, treeMeasTemp := c.temp }
    d.treeAccept k (x.toNat % 4096) (y.toNat % 255 - 127)

/-- CLUSTER_WAKE_DONE: READY with the tree aligned (R382, R29). -/
def Dev.wakeDone (d : Dev) (k : Nat) : Dev :=
  if d.get (CL_STATE.PWR k) != 1 then d
  else
    let d := if d.clFailed k then d else d.treeFree k
    (((d.set (CL_STATE.PWR k) 2).modCl k fun c => { c with idleT0 := 0 }).genUp.showGated.calPump 32).wakeCal

/-- CLUSTER_WAKE_DONE (R382). -/
def execClusterWakeDone (k : Clu) (s : State) : Result := s.on fun d => d.wakeDone k

/-! ### What power and reset leave (R384, R395, R404) -/

/-- Registers that belong to the always-on island, or show what the NVM holds: the security block, Plinth, the sensors,
and Patina's counters and model. -/
def aonReg (key : Nat) : Bool :=
  let o := key % 0x1000
  ((key - o == 0x7000 || key - o == 0x8000 || key - o == 0xE000) && decide (0x100 ≤ o))
    || key == TB_PATINA_A || key == TB_PATINA_B || key == TB_PATINA_STAT || key == TB_OP_HOURS

/-- Registers after each listed one has passed `f`. -/
def Dev.keepRegs (d : Dev) (f : Nat → Word → Option Word) : Tbl Word :=
  d.regs.foldl (fun t (kw : Nat × Word) => match f kw.1 kw.2 with | none => t | some v => tput regReset t kw.1 v) []

/-- Everything but the always-on island, the NVM's content and what has left the device is as at power-on (R395). -/
def Dev.cold (d : Dev) : Dev :=
  let c := d.cal
  let d' : Dev := {
    epoch := d.epoch, up := d.up, free := d.free, options := d.options
    regs := d.keepRegs fun key w => if aonReg key then some w else none
    tb := { word := d.tb.word, pllEver := d.tb.pllEver, patinaT0 := d.tb.patinaT0, patina := d.tb.patina,
            patinaSeq := d.tb.patinaSeq, patinaPos := d.tb.patinaPos }
    cal := { bankA := c.bankA, bankB := c.bankB }
    bist := { recs0 := d.bist.recs0, recs1 := d.bist.recs1 }
    sec := { d.sec with prep := none }
    pln := { d.pln with
      mbox := match d.pln.mbox with | some (b, none) => some (b, none) | _ => none
      gateCyc := [], wakeCyc := [], wakeAfter := []
      held := d.pln.held.filter fun h => match h.1 with | .session _ => false | _ => true }
    boot := d.boot, out := d.out, smb := d.smb, tdo := d.tdo }
  d'.set TB_STAT.PATINA_FIT_OK (d.get TB_STAT.PATINA_FIT_OK)

/-- Registers that the wake from DEEP restores from the Caliper workspace, the staging slots and the always-on island
(R404): path delays and table temperatures, usability, images, and what the start sequence had lost. -/
def deepReg (key : Nat) (w : Word) : Option Word :=
  if aonReg key then some w
  else if 0x4000000 ≤ key then none
  else if key == BOOT_CL_FAIL then some w
  else if key == BOOT_STAT then some (w &&& 0x180)
  else match placeOf key with
    | .page (.ch _ _) o =>
      if o = 0x00C then some (w &&& 0x8) else if o = 0x200 then some (w &&& 0x3FE400)
      else if o = 0x204 || o = 0x208 || o = 0x20C || o = 0x220 then some w else none
    | .page (.tmu _ _) o =>
      if o = 0x00C then some (w &&& 0x8) else if o = 0x100 then some ((w &&& 0x3) ||| 0x280)
      else if o = 0x128 || o = 0x12C then some w else none
    | .page (.seq _) o => if o = 0x104 then some (w &&& 0x1) else if o = 0x108 || o = 0x10C then some w else none
    | _ => none

/-- A TMU's role without power: UNUSABLE stays, any other is a spare until the start sequence places it. -/
def deepRole (key : Nat) (w : Word) : Word :=
  match placeOf key with
  | .page (.tmu _ _) o => if o = 0x100 && w &&& 0x3 != 3 then w &&& ~~~ 0x3 else w
  | _ => w

/-- What DEEP leaves: the device is cold, but tables, images and the device fault ring are held in HBM's self-refresh
(R384, R404), and NVM work goes on under Plinth. -/
def Dev.deepLoss (d : Dev) : Dev :=
  let d' := d.cold
  let d' : Dev := { d' with
    regs := d.keepRegs fun key w => (deepReg key w).map (deepRole key)
    phys := d.phys.map fun ((key, x) : Nat × Phys) =>
      (key, { x with pdTo := none, achTo := none, pathTo := none, launches := [] })
    tmus := d.tmus.filterMap fun ((key, x) : Nat × Tmu) =>
      let y : Tmu := { cd := x.cdTo.getD x.cd, cdUser := x.cdUser, cdTu := x.cdTu, cdMade := x.cdMade, path := x.path,
                       pathUser := x.pathUser, byBist := x.byBist }
      if y = {} then none else some (key, y)
    clusters := d.clusters.filterMap fun ((key, c) : Nat × Cluster) =>
      let y : Cluster := { cs := c.cs, dispatch := c.dispatch, vectors := c.vectors, csBad := c.csBad, temp := c.temp }
      if y = {} then none else some (key, y)
    cal := { bankA := d.cal.bankA, bankB := d.cal.bankB, info := d.cal.info,
             store := d.cal.store }
    bist := { recs0 := d.bist.recs0, recs1 := d.bist.recs1, writeQ := d.bist.writeQ, inCopy0 := d.bist.inCopy0 }
    flt := { device := d.flt.device } }
  d'.set TB_STAT.PATINA_FIT_OK (d.get TB_STAT.PATINA_FIT_OK)

/-! ### Transitions (R383, R384) -/

/-- PWR_STAT shows the state and whether a transition is in progress. -/
def Dev.showPower (d : Dev) : Dev :=
  (d.set PWR_STAT.STATE (match d.pln.st with | .active => 0 | .drowse => 1 | .deep => 2)).set PWR_STAT.TRANSITION
    (b2n d.pln.going.isSome)

/-- A transition begins. -/
def Dev.goTo (d : Dev) (p : PowerState) : Dev := ({ d with pln := { d.pln with going := some p } } : Dev).showPower

/-- A wake from DEEP begins: BOOT_TIME counts from here. -/
def Dev.deepLeave (d : Dev) (p : PowerState) : Dev := ({ d with boot := { d.boot with t1 := d.up } } : Dev).goTo p

/-- The trip log keeps the last 16 records (R388). -/
def Dev.logTrip (d : Dev) (cause what : Nat) (value : Int) : Dev :=
  let r : TripRec := { opSeconds := d.pln.opSeconds, cause, what, value }
  { d with pln := { d.pln with tripLog := (r :: d.pln.tripLog).take 16 } }

/-- The entry of DEEP begins: slices abort and an INTRUSIVE level drops (R384). -/
def Dev.deepBegin (d : Dev) : Dev :=
  let d := [0, 1].foldl Dev.sliceStop d
  (if d.get SEC_STAT.DBG_LEVEL = 2 then d.dbgDrop 1 else d).goTo .deep

/-- A trip is told to every session that holds a lane, and logged at once (R384, R388). `cause` is 0 temperature,
1 supply, 2 command. -/
def Dev.tripNote (d : Dev) (cause what : Nat) (value : Int) : Dev :=
  (d.raise 8 0x61 2 (what % 64 + 64 * cause) d.holdersAll).logTrip cause what value

/-- A commanded entry: the record's sensor and value are not stated, and stay free. -/
def Dev.deepCommanded (d : Dev) : Dev :=
  let (x, d) := d.draw
  let (y, d) := d.draw
  (d.tripNote 2 (x.toNat % 64) y.toInt).deepBegin

/-- A program at work or a frequency gate that is not IDLE refuses DROWSE without FORCE (R383). -/
def Dev.workOn (d : Dev) : Bool :=
  ((List.range 1024).any fun L => d.progBusy L) || (List.range 16).any fun k => d.freqState k != 0

/-- DROWSE begins: with FORCE programs stop and gates abort; slices abort (R383). -/
def Dev.drowseBegin (d : Dev) : Dev :=
  let d := ((List.range 1024).filter fun L => d.progBusy L).foldl (fun d L => d.askStop L (tq (d.epoch + 16)) 0) d
  let d := (List.range 16).foldl Dev.freqAbort d
  ((List.range 16).foldl Dev.slicesStop d).goTo .drowse

/-- All clusters are woken. -/
def Dev.wakeAll (d : Dev) : Dev := (List.range 16).foldl Dev.wakeAsk d

/-- PWR_STAT.ERR. -/
def Dev.pwrErr (d : Dev) (e : Nat) : Dev := d.set PWR_STAT.ERR e

/-- The state that a request asks for: in RETIRED, ACTIVE is taken as DROWSE (R376). -/
def Dev.powerTarget (d : Dev) (target : Nat) : Nat := if d.retired && target = 0 then 1 else target

/-- A request is decided against the state in force (R383, R385). -/
def Dev.powerTry (d : Dev) (target : Nat) (force : Bool) : Dev :=
  let t := d.powerTarget target
  let now := match d.pln.st with | .active => 0 | .drowse => 1 | .deep => 2
  if 2 < t then d.pwrErr 3
  else if t = now then
    let d := d.pwrErr 0
    if t = 0 then d.wakeAll else d
  else if t = 2 then
    if !force && !d.holdersAll.isEmpty then d.pwrErr 1 else (d.pwrErr 0).deepCommanded
  else match d.pln.st with
    | .active => if !force && d.workOn then d.pwrErr 1 else (d.pwrErr 0).drowseBegin
    | .drowse => ((d.pwrErr 0).goTo .active).wakeAll
    | .deep => (d.pwrErr 0).deepLeave (if t = 0 then .active else .drowse)

/-- The order of the deciding: a trip, the SMBus, sessions (R385). -/
def PowerWho.rank : PowerWho → Nat
  | .trip => 0
  | .smbus => 1
  | .session _ => 2

/-- A request is decided, a trip without any condition (R383). -/
def Dev.powerDecide (d : Dev) (who : PowerWho) (target : Nat) (force : Bool) : Dev :=
  match who with
  | .trip => if d.pln.st = .deep then d else d.deepBegin
  | _ => d.powerTry target force

/-- Its place among the requests of one fabric cycle: sessions stand in the order of R19 (R385). -/
def Dev.powerPlace (d : Dev) (who : PowerWho) : Nat := match who with | .session ss => 2 + d.rank ss | w => w.rank

/-- A request is taken. -/
def Dev.powerTake (d : Dev) (who : PowerWho) (target : Nat) (force : Bool) : Dev :=
  ({ d with pln := { d.pln with askCyc := some (d.cycle, d.powerPlace who) } } : Dev).trackedAt powerKey fun d =>
    d.powerDecide who target force

/-- A request of this fabric cycle that has been taken gives way to one that stands before it (R385). -/
def Dev.powerYield (d : Dev) (place : Nat) : Dev :=
  match d.pln.askCyc with
  | some (c, q) => if c = d.cycle && place < q then d.undoKey powerKey else d
  | none => d

/-- A request arrives: of several in one fabric cycle the first in the order is taken, and the others are refused with
SUPERSEDED; it is held during a transition and while a Plinth image starts (R385, R392). -/
def Dev.powerAsk (d : Dev) (who : PowerWho) (target : Nat) (force : Bool) : Dev :=
  match d.pln.askCyc.filter fun x => x.1 == d.cycle with
  | some (_, q) =>
    if d.powerPlace who < q then ((d.powerYield (d.powerPlace who)).powerTake who target force).pwrErr 2
    else if who.rank = 0 then d else d.pwrErr 2
  | none =>
    if d.pln.going.isSome || !d.pln.running then
      { d with pln := { d.pln with
          held := ordIns (fun a b => decide (a.1.rank ≤ b.1.rank)) (who, target, force) d.pln.held } }
    else d.powerTake who target force

/-- Held requests are decided, until one of them begins a transition (R385). -/
def Dev.powerHeld (d : Dev) : Nat → Dev
  | 0 => d
  | n + 1 =>
    match d.pln.held with
    | [] => d
    | (who, target, force) :: rest =>
      if d.pln.going.isSome || !d.pln.running then d
      else Dev.powerHeld (({ d with pln := { d.pln with held := rest } } : Dev).powerDecide who target force) n

/-- A write of PWR_REQ (R383, R385). -/
def Dev.pwrReqWrite (d : Dev) (ss : Nat) (val : Word) : Dev :=
  d.cmdWrite ss pwrPage 0x104 val (wbit val 3) fun d =>
    d.powerAsk (.session ss) (d.get PWR_REQ.TARGET) (d.on PWR_REQ.FORCE)

/-- POWER_REQUEST (R385). -/
def execPowerRequest (ss : Sess) (val : Word) (s : State) : Result := s.on fun d => d.pwrReqWrite ss val

/-- Everything that DROWSE waits for has ended: programs, gates, measurements with their records, and the restores of slices
(R383, R313). -/
def Dev.drowseReady (d : Dev) : Bool :=
  !d.workOn && (List.range 16).all fun k => !d.sliceIn k &&
    (d.cl k).waitRec.isEmpty && (List.range 34).all fun t => d.tmuState k t == 0 || 5 ≤ d.tmuState k t

/-- Every cluster is gated. -/
def Dev.gateAll (d : Dev) : Dev :=
  (List.range 16).foldl (fun d k =>
    if d.get (CL_STATE.PWR k) = 0 then d else (d.set (CL_STATE.PWR k) 3).gatingDone k)
    { d with pln := { d.pln with wakeAfter := [] } }

/-- A transition has completed: the interrupt, and the requests held (R383, R385). -/
def Dev.powerDone (d : Dev) (st : PowerState) : Dev :=
  let d : Dev := { d with pln := { d.pln with st, going := none } }
  (d.showPower.irqOwner pwrPage 0).powerHeld d.pln.held.length

/-- The collector takes every message that is buffered into its queue. -/
def Dev.collectAll (d : Dev) : Nat → Dev
  | 0 => d
  | n + 1 => Dev.collectAll d.faultCollect n

/-- The collector's queue goes to the rings. -/
def State.drainFaults (s : State) : State :=
  let s : State := { s with toDev := s.toDev.collectAll (s.toDev.fltWaiting.length + 1) }
  let q := s.flt.queue
  let s : State := { s with toDev := { s.toDev with flt := { s.flt with queue := [] } } }
  q.foldl (fun s m => m.dest.foldl (fun s ss => s.mirrorWrite m true ss) (s.devRingWrite m true)) s

/-- Bytes of HBM that sessions could use (R25). -/
abbrev hbmOpen : Nat := 0x3E0000000

/-- DEEP is entered: the queue drains into the rings, the summaries are captured, the island takes over EPOCH_COARSE,
sessions, links and gated domains go, and the allocatable HBM is freed (R384, R372, R45). -/
def State.deepEntry (s : State) : State :=
  let s := s.drainFaults
  let d := s.toDev.pllStops
  let sum : DWord × DWord := (BitVec.ofNat 64 (d.stickySum false), BitVec.ofNat 64 (d.stickySum true))
  let early := !d.boot.done.contains 8
  let d := d.deepLoss
  let d : Dev := { d with
    pln := { d.pln with deepSum := some sum, st := .deep, going := none, full := d.pln.full || early }
    boot := { d.boot with done := d.boot.done.filter fun p => p == 1 || p == 2 || p == 4 } }
  { s with toDev := d.showPower.powerHeld d.pln.held.length, hbm := clearBytes s.hbm 0 hbmOpen }

/-- POWER_TRANSITION_DONE (R383 to R385): each transition completes once what it waits for has happened. A wake from
DEEP has the new state as its own and completes with READY. -/
def execPowerTransitionDone (s : State) : Result :=
  let d := s.toDev
  let on := (List.range 16).all fun k => d.get (CL_STATE.PWR k) == 2
  match d.pln.going, d.pln.st with
  | some .deep, .active | some .deep, .drowse => .next (if d.slicesOn = 0 then s.deepEntry else s)
  | some .drowse, .active => if d.drowseReady then s.on fun d => d.gateAll.powerDone .drowse else .next s
  | some .drowse, .drowse => if d.on BOOT_STAT.READY then s.on fun d => d.powerDone .drowse else .next s
  | some .active, .drowse => if on then s.on fun d => d.powerDone .active else .next s
  | some .active, .active => if on && d.on BOOT_STAT.READY then s.on fun d => d.powerDone .active else .next s
  | _, _ => .next s

end Sys2Proof.Machine
end

