-- ==== Sys2Proof/Machine/Lifecycle.lean ====
section
/-! DEFINITION. The lifecycle (R374 to R376), the security page's control registers (R377, R380) and the attributes of
sessions (R357, R376). -/

namespace Sys2Proof.Machine

/-! ### The security page (R374, R377, R380) -/

/-- A write of a session that acts reaches the security page: it comes between a TARGET write and its GO (R374). -/
def Dev.secTouch (d : Dev) (ss : Nat) : Dev := 
  if d.acts ss && !d.waits ss then { d with sec := { d.sec with prep := none } } else d

/-- The moves that R374 permits to a session: forward, to SECURED with an owner key; VENDOR to OPEN is the factory's. -/
def Dev.lcMay (d : Dev) (t : Nat) : Bool :=
  let lc := d.get SEC_STAT.LIFECYCLE
  let keyed := (List.range 12).any fun w => d.reg (SEC_OWNER_KEY w) != 0
  (lc == 1 && (t == 2 && keyed || t == 3)) || (lc == 2 && t == 3)

/-- GO with the TARGET of the write before it starts the transition; any other GO is discarded with LC_ERR (R374). A
transition that is being recorded permits no second one. -/
def Dev.lcGo (d : Dev) (prep : Option Nat) (t : Nat) : Dev :=
  if prep == some t && d.lcMay t && !d.on SEC_STAT.LC_BUSY then
    d.nvmAsk 0 fun d => { d.set SEC_STAT.LC_BUSY 1 with sec := { d.sec with target := some t } }
  else
    let d := d.stick SEC_STAT.LC_ERR
    if prep == some t && d.on SEC_STAT.LC_BUSY then d.askAgain (0xF104 + t) 0 0 else d

/-- A write of SEC_LC_CTRL (R374). -/
def Dev.lcCtrlWrite (d : Dev) (ss : Nat) (val : Word) : Dev :=
  let prep := d.sec.prep
  let t := wfield val 0 2
  (d.secTouch ss).hostWrite ss secPage 0x104 [val] .ownM (wbit val 2) fun d =>
    let d := d.plainWrite ss secPage 0x104 val
    if wbit val 2 then d.lcGo prep t else { d with sec := { d.sec with prep := some t } }

/-- LC_TARGET_WRITE (R374). -/
def execLcTargetWrite (ss : Sess) (val : Word) (s : State) : Result := s.on fun d => d.lcCtrlWrite ss val

/-- LIFECYCLE_GO (R374). -/
def execLifecycleGo (ss : Sess) (val : Word) (s : State) : Result := s.on fun d => d.lcCtrlWrite ss val

/-- A write of SEC_DBG_CTRL: ALLOW as written, LOCK until the next power-on, CLOSE drops the level (R377, R380). -/
def Dev.dbgCtrlWrite (d : Dev) (ss : Nat) (val : Word) : Dev :=
  (d.secTouch ss).cmdWrite ss secPage 0x108 val (wbit val 1 || wbit val 2) fun d =>
    let d : Dev := if wbit val 1 then
        { d.set SEC_DBG_CTRL.LOCK 1 with sec := { d.sec with locked := true } } else d
    if wbit val 2 then d.dbgDrop 0 else d

/-- DBG_LOCK (R377). -/
def execDbgLock (ss : Sess) (val : Word) (s : State) : Result := s.on fun d => d.dbgCtrlWrite ss val

/-- DBG_CLOSE (R380). -/
def execDbgClose (ss : Sess) (val : Word) (s : State) : Result := s.on fun d => d.dbgCtrlWrite ss val

/-- A write of SEC_OWNER_KEY, in OPEN only (15, SEC_OWNER_KEY). -/
def Dev.ownerKeyWrite (d : Dev) (ss off : Nat) (val : Word) : Dev :=
  (d.secTouch ss).hostWrite ss secPage off [val] .ownM false fun d =>
    if d.get SEC_STAT.LIFECYCLE = 1 then d.plainWrite ss secPage off val else d.discard ss secPage off

/-! ### A lifecycle state takes effect (R375) -/

/-- The state that a start reads: the valid copy with the higher sequence number (R375). -/
def Security.stored (x : Security) : Option (Nat × Nat) :=
  match x.lc0, x.lc1 with
  | none, c => c
  | c, none => c
  | some a, some b => if a.1 < b.1 then some b else some a

/-- Both copies of the record hold the new state, with the next sequence number. -/
def Security.record (x : Security) (t : Nat) : Security :=
  let q := (x.stored.getD (0, 0)).1 + 1
  { x with lc0 := some (q, t), lc1 := some (q, t), target := none, prep := none }

/-- Attributes above the highest that SECURED allows a VF are lowered; in RETIRED every attribute is (R375, R376). -/
def Dev.attrsLower (d : Dev) (t : Nat) : Dev :=
  if t = 3 then { d with sess := d.sess.map fun ((ss, x) : Nat × Session) => (ss, { x with attr := 0 }) }
  else if t = 2 then
    { d with sess := d.sess.map fun ((ss, x) : Nat × Session) =>
      (ss, if d.isPf ss then x else { x with attr := min 1 x.attr }) }
  else d

/-- Both user banks are invalidated, as RESTORE_FACTORY does (R257, R375). -/
def State.banksEnd (s : State) : State :=
  let c := s.cal
  let zero := fun (m : List Host.Cell) (isB : Bool) => writeBytes nvmDefault nvmSize m (bankBase isB + 0x20) (leBytes 4 0)
  let nvm := if c.bankA.valid then zero s.nvm false else s.nvm
  let nvm := if c.bankB.valid then zero nvm true else nvm
  let d := if c.store.isSome then s.toDev.storeEnd 6 else s.toDev
  { s with toDev := ((d.setBank false {}).setBank true {}).showBanks.toFactory, nvm }

/-- Entry to RETIRED: every session is reset, the banks and the owner key go (R375); ACTIVE gives way to DROWSE
(R376, R381). -/
def State.retire (s : State) : State :=
  let d := s.toDev.liveSessions.foldl Dev.sessReset s.toDev
  let s := ({ s with toDev := d } : State).banksEnd
  let d := (List.range 12).foldl (fun (d : Dev) w => d.setReg (SEC_OWNER_KEY w) 0) s.toDev
  let d : Dev := if d.pln.st != .active then d
    else if d.pln.going.isSome then { d with pln := { d.pln with held := (.smbus, 1, true) :: d.pln.held } }
    else d.drowseBegin
  { s with toDev := d }

/-- A GO that met the transition in the fabric cycle of its end starts again, as the new state permits (R20, R374). -/
def Dev.lcAgain (d : Dev) (t : Nat) : Dev := d.startAgain (0xF104 + t) fun d _ _ => d.lcGo (some t) t

/-- LIFECYCLE_RECORD_DONE (R375): both copies are written, and the new state takes effect; it waits for an operation of
another block to end (R28). -/
def State.lcDone (s : State) : State :=
  match s.sec.target with
  | none => s
  | some t =>
    if !s.nvmMay 0 then s else
    let d : Dev := { s.toDev with sec := s.sec.record t }
    let d := (((d.set SEC_STAT.LIFECYCLE t).set SEC_STAT.LC_BUSY 0).dbgDrop 2).attrsLower t
    let d := d.liveSessions.foldl Dev.fltSelCheck d
    let d := (((d.irqAll secPage d.liveSessions 1).nvmPin).lcAgain 2).lcAgain 3
    if t = 3 then ({ s with toDev := d } : State).retire else { s with toDev := d }

/-- LIFECYCLE_RECORD_DONE (R375). -/
def execLifecycleRecordDone (s : State) : Result := .next s.lcDone

/-! ### Attributes (R357, R376) -/

/-- The lifecycle lets session `t` hold attribute `a` (R376). -/
def Dev.attrMay (d : Dev) (t a : Nat) : Bool :=
  decide (a < 3) && !d.retired && !(d.get SEC_STAT.LIFECYCLE == 2 && a == 2 && !d.isPf t)

/-- A write of SESS_ATTR_SET (R357, R376). -/
def Dev.attrSetWrite (d : Dev) (ss : Nat) (val : Word) : Dev :=
  d.hostWrite ss sessPage 0x10C [val] .attrM false fun d =>
    let t := d.get (SESS_SEL.TARGET ss)
    let a := wfield val 0 2
    if !(d.sn t).live || !d.attrMay t a then d.discard ss sessPage 0x10C
    else (d.modSn t fun x => { x with attr := a, attrWas := some (d.cycle, x.attr) }).fltSelCheck t

/-- SESS_ATTR_SET (R357). -/
def execSessAttrSet (ss : Sess) (val : Word) (s : State) : Result := s.on fun d => d.attrSetWrite ss val

end Sys2Proof.Machine
end

