-- ==== Sys2Proof/Machine/Reset.lean ====
section
/-! DEFINITION. Supplies and resets (R393 to R398), what an interrupted NVM operation leaves (R397), and the start and
restart of Plinth's firmware (R392, R398). -/

namespace Sys2Proof.Machine

/-! ### An NVM operation in progress is cut short (R256, R257, R397) -/

/-- A user bank is invalidated by a write of its INVALID word (R257). -/
def State.bankZero (s : State) (isB : Bool) : State :=
  { s with
    toDev := s.toDev.setBank isB {}
    nvm := writeBytes nvmDefault nvmSize s.nvm (bankBase isB + 0x20) (leBytes 4 0) }

/-- A store leaves its bank invalid; of an invalidation, the write in progress completes (R256, R257, R397). -/
def State.storeCut (s : State) : State :=
  match s.cal.store with
  | none => s
  | some st =>
    let c := s.cal
    if st.restore then
      if c.bankA.valid && (!c.bankB.valid || c.bInForce) then s.bankZero false
      else if c.bankB.valid then s.bankZero true else s
    else
      let base := bankBase st.bankB
      let body := bankBytes st.body
      let bytes := (Config.failedWrite s.free body).take (min bankMax body.length)
      { s with
        toDev := { s.toDev.setBank st.bankB {} with free := s.free + 1 }
        nvm := writeBytes nvmDefault nvmSize (clearBytes s.nvm base 0x1000000) (base + 0x10000) bytes }

/-- The lifecycle record: the copy that is not in force may have been completed; which, is not known before (R375). -/
def Dev.lcCut (d : Dev) : Dev :=
  match d.sec.target with
  | none => d
  | some t =>
    let (x, d) := d.draw
    let new := ((d.sec.stored.getD (0, 0)).1 + 1, t)
    let keep0 := match d.sec.lc0, d.sec.lc1 with
      | some a, some b => decide (b.1 ≤ a.1)
      | some _, none => true
      | none, _ => false
    let sec := { d.sec with target := none, prep := none }
    let sec := if x.toNat % 2 = 0 then sec else if keep0 then { sec with lc1 := some new } else { sec with lc0 := some new }
    { d.set SEC_STAT.LC_BUSY 0 with sec }

/-- The repair record in progress is completed in its copy; of a compaction, copy 1 may have been erased (R325, R397). -/
def State.recordCut (s : State) : State :=
  if s.bist.compact then
    let (x, d) := s.toDev.draw
    if x.toNat % 2 = 0 then { s with toDev := d } else ({ s with toDev := d } : State).writeCopy 1 [] true
  else s.recordWritten true

/-- The operation in progress completes, and the sequences to which operations belonged are abandoned (R28, R397). -/
def State.nvmCut (s : State) : State :=
  let s := if s.toDev.nvmServing == some 1 then s.recordCut else s
  ({ s with toDev := s.toDev.lcCut } : State).storeCut

/-! ### The internal device reset (R394, R395, R398) -/

/-- The internal reset is held: everything but the always-on island is as at power-on, and HBM is lost (R394, R395). In
DEEP the device stays in DEEP, and its wake runs the full sequence. -/
def State.devReset (s : State) : State :=
  let s := s.nvmCut
  let d := s.toDev.pllStops.cold
  let deep := d.pln.st == .deep
  let d : Dev := { d with
    boot := { d.boot with released := false, done := [] }
    pln := { d.pln with full := d.pln.full || deep, going := if deep then d.pln.going else none } }
  let d := d.set TB_STAT.PLL_LOCK 0
  { s with toDev := d.showPower, hbm := [] }

/-! ### Readiness of the device pages (R351, R402) -/

/-- The phase of the start sequence that makes a device page ready. -/
def readyPhase (n : Nat) : Nat :=
  if n = 11 then 1 else if n = 6 || n = 10 || n = 13 then 3 else if n = 3 || n = 4 || n = 5 || n = 12 then 8 else 0

/-- BOOT_STAT.PHASE and READY, and PAGE_STAT.READY of the device pages, show the phases done. The time base page is not
ready while the master PLL is not locked (R406). -/
def Dev.showBoot (d : Dev) : Dev :=
  let ph := ((List.range 9).find? fun n => !d.boot.done.contains n).getD 9
  let d := (d.set BOOT_STAT.PHASE ph).set BOOT_STAT.READY (b2n (ph == 9))
  (List.range 15).foldl (fun d n =>
    d.set (PAGE_STAT.READY (0x1000 * n)) (b2n (d.boot.done.contains (readyPhase n) && (n != 1 || d.on TB_STAT.PLL_LOCK)))) d

/-- t1: the internal reset is released, DEVID and the port configuration are latched, and the start sequence runs from
phase 0 (R394, R399, BOOT_STAT.CAUSE). -/
def Dev.release (d : Dev) (cause : Nat) : Dev :=
  let d : Dev := { d with boot := { d.boot with
    released := true, first := false, t1 := d.up, done := [], csLoaded := [], bifurcated := d.boot.x4 } }
  ((d.set DIRUM_ID.DEVID d.boot.devid).set BOOT_STAT.CAUSE cause).showBoot

/-- t1 comes once RESET_N is high and Plinth's supply check has passed, with Plinth running (R393, R394, R398). A device
in DEEP waits for its wake. -/
def Dev.tryRelease (d : Dev) : Dev :=
  if d.boot.resetN && d.boot.supplyOk && d.pln.running && !d.pln.recovery && !d.boot.released && d.pln.st != .deep then
    d.release (if d.boot.first then 0 else 1)
  else d

/-! ### Plinth's firmware starts (R392, R398) -/

/-- The valid image with the higher SEQ, image A where both have the same (R392). -/
def Plinth.pick (p : Plinth) : Option Bool :=
  if p.fwA.valid && (!p.fwB.valid || decide (p.fwB.seq ≤ p.fwA.seq)) then some false
  else if p.fwB.valid then some true else none

/-- The image of a number. -/
def Plinth.image (p : Plinth) (isB : Bool) : FwImage := if isB then p.fwB else p.fwA

/-- The registers show the image started. -/
def Dev.showImage (d : Dev) : Dev :=
  (d.set PLN_FW.RUNNING (b2n d.pln.imageB)).set PLN_FW_VERSION.VERSION (d.pln.image d.pln.imageB).version

/-- An image starts; until it reports itself running, Plinth is restarting (R392). -/
def Dev.imageStart (d : Dev) (isB : Bool) (again : Bool) : Dev :=
  ({ d with pln := { d.pln with
    imageB := isB, running := false, recovery := false, triedOther := again, startT0 := d.up
    raiseMin := if again then none else d.pln.raiseMin } } : Dev).showImage

/-- Recovery mode: no image runs, and the internal reset is held (R398). -/
def State.recover (s : State) : State :=
  let s := if s.toDev.boot.released then s.devReset else s
  { s with pln := { s.pln with running := false, recovery := true } }

/-- Plinth starts its firmware, with the Patina log as the NVM holds it (R392, R41). -/
def State.plinthStart (s : State) : State :=
  match s.pln.pick with
  | none => s.recover
  | some b => let s := s.patinaLoad; { s with toDev := s.toDev.imageStart b false }

/-- PLINTH_RESTART: a running Plinth restarts (R392). -/
def execPlinthRestart (s : State) : Result :=
  if s.toDev.boot.aonOut && s.toDev.pln.running then .next s.plinthStart else .next s

/-- T0 in 100 ms. -/
abbrev startLimit : Nat := 100 * msT0

/-- FW_START_TIMEOUT: the other image, told by PLINTH_FW_SWITCH, or recovery mode (R392, R398). -/
def State.startTimeout (s : State) : State :=
  let p := s.pln
  if !s.toDev.boot.aonOut || p.running || p.recovery || decide (s.up < p.startT0 + startLimit) then s
  else if p.triedOther || !(p.image (!p.imageB)).valid then s.recover
  else
    let d := s.toDev.imageStart (!p.imageB) true
    { s with toDev := (d.stick PLN_FW.SWITCHED).raise 8 0x62 0 (b2n d.pln.imageB) [] }

/-- FW_START_TIMEOUT (R392). -/
def execFwStartTimeout (s : State) : Result := .next s.startTimeout

/-- Clusters whose wake was asked for meanwhile wake. -/
def Dev.wakeWaiting (d : Dev) : Dev :=
  let ks := d.pln.wakeAfter.filter fun k => d.get (CL_STATE.PWR k) == 0
  ks.foldl Dev.wakeBegin { d with pln := { d.pln with wakeAfter := d.pln.wakeAfter.filter fun k => !ks.contains k } }

/-- IMAGE_RUNNING (R391, R392): the restart ends, MIN_VERSION follows a commit, wakes and power requests held are taken
up, and t1 may come. -/
def Dev.imageRunning (d : Dev) : Dev :=
  if !d.boot.aonOut || d.pln.running || d.pln.recovery || decide (d.pln.startT0 + startLimit < d.up) then d
  else
    let d := match d.pln.raiseMin with
      | some v => if d.get SEC_STAT.LIFECYCLE = 2 then d.set PLN_FW.MIN_VERSION (min v 0xFFFF) else d
      | none => d
    let d : Dev := { d with pln := { d.pln with running := true, raiseMin := none } }
    let d := d.wakeWaiting
    (d.powerHeld d.pln.held.length).tryRelease

/-- IMAGE_RUNNING (R392). -/
def execImageRunning (s : State) : Result := s.on Dev.imageRunning

/-! ### Supplies (R393, R383) -/

/-- Registers whose content the NVM holds: owner key, FAILS, LIFECYCLE, MIN_VERSION, and Patina's. -/
def nvmReg (key : Nat) (w : Word) : Option Word :=
  if key == SEC_STAT then some (w &&& 3) else if key == SEC_AUTH then some (w &&& 0xFF)
  else if 0x7140 ≤ key && key < 0x7170 then some w
  else if key == PLN_FW then some (w &&& 0xFFFF0000)
  else if key == TB_PATINA_A || key == TB_PATINA_B || key == TB_PATINA_STAT || key == TB_OP_HOURS then some w
  else none

/-- OFF: the state, the epoch and every session are lost; the NVM holds (R383). A lockout in progress restarts with power
(R378). -/
def State.powerOff (s : State) : State :=
  let s := s.nvmCut.patinaCut
  let d := s.toDev
  let d' : Dev := {
    up := d.up, free := d.free, options := d.options, regs := d.keepRegs nvmReg
    cal := { bankA := d.cal.bankA, bankB := d.cal.bankB }
    bist := { recs0 := d.bist.recs0, recs1 := d.bist.recs1 }
    sec := { lc0 := d.sec.lc0, lc1 := d.sec.lc1, lockT0 := d.sec.lockT0, lockS := d.sec.lockS }
    pln := { tripLog := d.pln.tripLog, fwA := d.pln.fwA, fwB := d.pln.fwB, raiseMin := d.pln.raiseMin,
             opSeconds := d.pln.opSeconds }
    boot := { rails := d.boot.rails, resetN := d.boot.resetN, perst := d.boot.perst, devid := d.boot.devid, x4 := d.boot.x4 }
    out := d.out }
  { s with toDev := d'.set TB_STAT.PATINA_FIT_OK (d.get TB_STAT.PATINA_FIT_OK), hbm := [] }

/-- All eight supplies. -/
def allRails : List Rail := [.aon, .xo, .nvm, .core, .tim, .ana, .io, .hbm]

/-- Every supply is in its window. -/
def Dev.railsIn (d : Dev) : Bool := allRails.all fun r => d.boot.rails.contains r

/-- A supply enters or leaves its window; the check of R393 counts from the moment at which the last has entered, and
begins anew before t1 when one leaves. Without VDD_AON the device is OFF (R383, R393). -/
def State.supply (s : State) (r : Rail) (inW : Bool) : State :=
  let b := s.toDev.boot
  let rest := b.rails.filter fun x => x != r
  let b := { b with rails := if inW then rest ++ [r] else rest, supplyOk := b.supplyOk && (inW || b.released) }
  let s := { s with boot := b }
  if !inW && r == .aon then s.powerOff
  else if inW && s.toDev.railsIn then { s with boot := { s.boot with supplyT0 := s.up } } else s

/-- SUPPLY_CHANGE (R393). -/
def execSupplyChange (rail : Rail) (inWindow : Bool) (s : State) : Result := .next (s.supply rail inWindow)

/-- SUPPLY_CHECK_PASS (R393): every supply has been in its window for 1 ms. -/
def Dev.supplyPass (d : Dev) : Dev :=
  if d.boot.aonOut && d.pln.running && d.railsIn && decide (d.boot.supplyT0 + msT0 ≤ d.up) then
    ({ d with boot := { d.boot with supplyOk := true } } : Dev).tryRelease
  else d

/-- SUPPLY_CHECK_PASS (R393). -/
def execSupplyCheckPass (s : State) : Result := s.on Dev.supplyPass

/-! ### The reset inputs (R394 to R397) -/

/-- AON_RST_N is released: EPOCH_COARSE starts at 0, Plinth starts and samples its SMBus address, the debug level and
LOCK start afresh and a lockout begins anew (R44, R371, R378, R380, R394). -/
def State.aonRelease (s : State) (devid : BitVec 12) : State :=
  let d := s.toDev
  if d.boot.aonOut || !d.boot.rails.contains .aon || !d.boot.rails.contains .xo then s
  else
    let up := 4 * ((d.up + 3) / 4)
    let d : Dev := { d with
      epoch := 0, up
      boot := { d.boot with aonOut := true, first := true, smbAddr := 0x60 + devid.toNat % 16, supplyT0 := up }
      sec := { d.sec with lockT0 := d.sec.lockT0.map fun _ => up } }
    let d := if d.sec.lockT0.isSome then d.set SEC_STAT.LOCKOUT 1 else d
    ({ s with toDev := { d with pln := { d.pln with opT0 := up } } } : State).plinthStart

/-- AON_RST_RELEASE (R394). -/
def execAonRstRelease (devid : BitVec 12) (s : State) : Result := .next (s.aonRelease devid)

/-- RESET_N_ASSERT (R395 to R397, R403): all but the always-on island is reset at once; requests held are decided. -/
def State.resetAssert (s : State) : State :=
  if !s.toDev.boot.resetN then s
  else
    let s := s.devReset
    let st := if s.pln.st == .deep then .deep else .active
    let d : Dev := { s.toDev with
      boot := { s.boot with resetN := false, supplyOk := s.boot.supplyOk && s.toDev.railsIn }, pln := { s.pln with st } }
    { s with toDev := d.showPower.powerHeld d.pln.held.length }

/-- RESET_N_ASSERT (R403). -/
def execResetNAssert (s : State) : Result := .next s.resetAssert

/-- RESET_N rises, with the strapping pins as they stand (R394); EXTEST, CLAMP and HIGHZ act as BYPASS from here (15). -/
def Dev.resetRelease (d : Dev) (devid : BitVec 12) (p0 p1 : Bool) : Dev :=
  if d.boot.resetN then d
  else
    let x4 := (if p0 then [0] else []) ++ (if p1 then [1] else [])
    ({ d with boot := { d.boot with resetN := true, devid := devid.toNat, x4 },
              sec := { d.sec with driving := false, highz := false } } : Dev).tryRelease

/-- RESET_N_RELEASE (R394). -/
def execResetNRelease (devid : BitVec 12) (p0x4x4 p1x4x4 : Bool) (s : State) : Result :=
  s.on fun d => d.resetRelease devid p0x4x4 p1x4x4

/-- PERST_RELEASE (R402): the port may train its links; a link comes up by LINK_UP once phase 0 has completed. -/
def execPerstRelease (port : Fin 2) (s : State) : Result := s.on fun d =>
  if d.boot.perst.contains port then d else { d with boot := { d.boot with perst := d.boot.perst ++ [port.val] } }

end Sys2Proof.Machine
end

