-- ==== Sys2Proof/Machine/Image.lean ====
section
/-! DEFINITION. Control-store images: their layout (R150) and the loader's checks (R151). Paths are followed one word
per step over nodes of the image's graph, as sets, so a cycle shows as a path that never ends. -/

namespace Sys2Proof.Machine

/-- A little-endian number at byte `a`. -/
def imgNat (b : List Byte) (a n : Nat) : Nat := leNat ((b.drop a).take n)

abbrev imgMagic (b : List Byte) : Nat := imgNat b 0 4
abbrev imgWords (b : List Byte) : Nat := imgNat b 6 2
abbrev imgId (b : List Byte) : Nat := imgNat b 8 4
abbrev imgCrc (b : List Byte) : Nat := imgNat b 12 4
abbrev imgDispatch (b : List Byte) (i : Nat) : Nat := imgNat b (0x10 + 2 * i) 2
abbrev imgCost (b : List Byte) (i : Nat) : Nat := imgNat b (0x90 + i) 1
abbrev imgVector (b : List Byte) (i : Nat) : Nat := imgNat b (0xA0 + 2 * i) 2
/-- Length of an image with the header's WORDS. -/
abbrev imgLen (b : List Byte) : Nat := 512 + 8 * imgWords b
abbrev imgMAGIC : Nat := 0x43533130

/-- Word `w` of the image with its three upper bytes. -/
def imgWord64 (b : List Byte) (w : Nat) : Nat := imgNat b (0x200 + 8 * w) 8

/-- Word `w`; zero at and above WORDS (R155). -/
def imgWord (b : List Byte) (w : Nat) : BitVec 40 :=
  if w < imgWords b then BitVec.ofNat 40 (imgWord64 b w) else 0

/-! ### The micro-ops as the loader sees them (R139 to R141) -/

/-- Micro-ops that do not exist. -/
def opReserved (o : Nat) : Bool := (0x25 ≤ o && o ≤ 0x27) || 0x34 ≤ o
/-- A is a destination. -/
def usesDest (o : Nat) : Bool := (1 ≤ o && o ≤ 0x0A) || (0x0D ≤ o && o ≤ 0x10) || o == 0x28
/-- A is used at all. -/
def usesA (o : Nat) : Bool :=
  usesDest o || o == 0x0B || o == 0x0C || o == 0x21 || o == 0x22 || o == 0x24 || o == 0x29 || o == 0x2D || o == 0x2E
/-- B is used. -/
def usesB (o : Nat) : Bool :=
  (1 ≤ o && o ≤ 0x0E) || o == 0x10 || o == 0x11 || o == 0x13 || o == 0x21 || (0x28 ≤ o && o ≤ 0x2B) || o == 0x2F
    || o == 0x30 || o == 0x32
/-- C is used. -/
def usesC (o : Nat) : Bool := o == 0x0A || o == 0x0F || o == 0x10 || (0x20 ≤ o && o ≤ 0x22)
/-- A destination that may be written (R139). -/
def destOk (a : Nat) : Bool :=
  a < 0x10 || a == 0x10 || a == 0x12 || a == 0x13 || a == 0x16 || a == 0x17 || a == 0x1B
/-- Class D: decode routines only. -/
def classD (o : Nat) : Bool := (0x11 ≤ o && o ≤ 0x13) || o == 0x15 || (0x17 ≤ o && o ≤ 0x20)
/-- Class S: service routines only. -/
def classS (o : Nat) : Bool := 0x28 ≤ o && o ≤ 0x33
/-- Micro-ops that end the turn. -/
def turnEnds (o : Nat) : Bool :=
  (0x11 ≤ o && o ≤ 0x13) || o == 0x15 || o == 0x17 || (0x1E ≤ o && o ≤ 0x20)

/-- A word breaks a rule of its micro-op (MICROOP of R151, less the class). -/
def microBad (x : BitVec 40) : Bool :=
  let o := opOf x
  let w := Micro.ofWord x
  opReserved o || (usesDest o && !destOk w.a.toNat) || (!usesA o && w.a != 0) || (!usesB o && w.b != 0)
    || (!usesC o && w.c != 0) || (o == 0x21 && !(0x80 ≤ w.b.toNat && w.b.toNat ≤ 0x8E))

/-- Shadow writes of a word (R148). -/
def shadowWrites (x : BitVec 40) : Nat :=
  let o := opOf x
  let a := (Micro.ofWord x).a.toNat
  if usesDest o && 0x10 ≤ a && a != 0x1B then 1
  else if (0x11 ≤ o && o ≤ 0x1F && o != 0x12) || o == 0x29 || (0x30 ≤ o && o ≤ 0x32) then 1
  else 0

/-! ### Paths -/

/-- A place on a path: the word, what LINK holds, and whether a micro-call is open. -/
structure Node where
  at_ : Nat
  link : Option Nat
  open_ : Bool
  deriving DecidableEq, Repr

/-- Where a path may go on, both outcomes of every BR included; a RETU with nothing in LINK, a TRAP and a word that leaves the engine for good end it. -/
def Node.succ (b : List Byte) (n : Node) : List Node :=
  let x := imgWord b n.at_
  let o := opOf x
  let w := Micro.ofWord x
  let next : Node := { n with at_ := w.next.toNat }
  if turnEnds o || o == 0x33 || o == 0x24 then []
  else if o = 0x21 then
    [next, { n with at_ := uTarget w }]
  else if o = 0x22 then [{ at_ := uTarget w, link := some w.next.toNat, open_ := true }]
  else if o = 0x23 then (match n.link with | none => [] | some l => [{ at_ := l, link := some l, open_ := false }])
  else [next]

/-- The set of places one word further. -/
def stepAll (b : List Byte) (ns : List Node) : List Node := (ns.flatMap fun n => n.succ b).eraseDups

/-- Every place reachable from `todo`; `fuel` bounds the number of rounds. -/
def reach (b : List Byte) : Nat → List Node → List Node → List Node
  | 0, _, seen => seen
  | fuel + 1, todo, seen =>
    match (stepAll b todo).filter fun n => !seen.contains n with
    | [] => seen
    | new => reach b fuel new (seen ++ new)

/-- Places reachable from an entry. A node has at most one of 2,048 links and two states for each of 2,048 words. -/
def reachFrom (b : List Byte) (es : List Nat) : List Node :=
  let start := es.map fun e => ({ at_ := e, link := none, open_ := false } : Node)
  reach b 0x800000 start start

/-- After `n` words, paths from `ns` are still going that have not met a word with `stop`. -/
def goesOn (b : List Byte) (stop : BitVec 40 → Bool) : Nat → List Node → Bool
  | 0, ns => !ns.isEmpty
  | n + 1, ns =>
    if ns.isEmpty then false else goesOn b stop n (stepAll b (ns.filter fun x => !stop (imgWord b x.at_)))

/-- Paths to the next COMMIT word with the shadow writes on them: more than 32 on one. -/
def tooManyWrites (b : List Byte) : Nat → List (Node × Nat) → Bool
  | 0, _ => false
  | n + 1, ns =>
    let ns := (ns.map fun x => (x.1, x.2 + shadowWrites (imgWord b x.1.at_))).eraseDups
    if ns.isEmpty then false
    else if ns.any fun x => decide (32 < x.2) then true
    else tooManyWrites b n ((ns.filter fun x => !(imgWord b x.1.at_).getLsbD 11).flatMap fun x =>
      (x.1.succ b).map fun y => (y, x.2))

/-- Entries of the image: decode and service. -/
def imgDecodeEntries (b : List Byte) : List Nat := (List.range 14).map fun i => imgDispatch b (i + 1) % 2048
def imgServiceEntries (b : List Byte) : List Nat := (List.range 6).map fun i => imgVector b i % 2048

/-- Default decode costs of opcodes 0x00 to 0x0F; 0 where the opcode is reserved (04, Decode cost). -/
def defaultCosts : List Nat := [0, 2, 2, 2, 3, 2, 4, 3, 1, 3, 2, 4, 2, 2, 2, 0]

/-! ### The checks (R151) -/

/-- The first word below `n` that satisfies `p`. -/
def firstWord (n : Nat) (p : Nat → Bool) : Option Nat := (List.range n).find? p

/-- HEADER: MAGIC, FORMAT, WORDS, a reserved byte, or the length. -/
def headerBad (b : List Byte) (nvm : Bool) (len : Nat) : Bool :=
  imgMagic b != imgMAGIC || imgNat b 4 2 != 1 || imgWords b == 0 || 2048 < imgWords b
    || ((b.drop 0xC0).take 320).any (fun x => x != 0)
    || (if nvm then 0x10000 < imgLen b else len != imgLen b)

/-- The loader's result on an image: the ERR of the first failing check and the word, where the check has one. -/
def checkImage (b : List Byte) (nvm : Bool) (len : Nat) : Option (Nat × Option Nat) :=
  let n := imgWords b
  let word := imgWord b
  let dec := reachFrom b (imgDecodeEntries b)
  let svc := reachFrom b (imgServiceEntries b)
  let all := dec ++ svc
  let starts := ((imgDecodeEntries b ++ imgServiceEntries b).map fun e => ({ at_ := e, link := none, open_ := false } : Node))
  let irq := fun (x : BitVec 40) => x.getLsbD 12
  let com := fun (x : BitVec 40) => x.getLsbD 11
  let afterIrq := (starts ++ stepAll b (all.filter fun x => irq (word x.at_))).eraseDups
  let afterCom := (starts ++ stepAll b (all.filter fun x => com (word x.at_))).eraseDups
  if headerBad b nvm len then some (3, none)
  else if crc32 ((b.drop 0x10).take (imgLen b - 0x10)) != imgCrc b then some (4, none)
  else match firstWord n (fun w => evenParity (word w) || 2 ^ 40 ≤ imgWord64 b w) with
  | some w => some (5, some w)
  | none =>
  match firstWord n (fun w => microBad (word w) || (classS (opOf (word w)) && dec.any fun x => x.at_ == w)
      || (classD (opOf (word w)) && svc.any fun x => x.at_ == w)) with
  | some w => some (6, some w)
  | none =>
  match firstWord n (fun w =>
      let m := Micro.ofWord (word w)
      n ≤ m.next.toNat || ((opOf (word w) == 0x21 || opOf (word w) == 0x22) && n ≤ uTarget m)) with
  | some w => some (7, some w)
  | none =>
  if (List.range 64).any (fun i =>
      let e := imgDispatch b i
      if 1 ≤ i && i ≤ 0x0E then e / 0x8000 == 0 || n ≤ e % 2048 else e / 0x8000 == 1)
    || (List.range 16).any (fun i =>
      let e := imgVector b i
      if i < 6 then e / 0x8000 == 0 || n ≤ e % 2048 else e / 0x8000 == 1) then some (8, none)
  else if goesOn b irq 512 afterIrq then some (9, none)
  else if (List.range 14).any (fun i =>
      defaultCosts.getD (i + 1) 0 < imgCost b (i + 1)
        || goesOn b (fun x => turnEnds (opOf x)) (imgCost b (i + 1))
            [{ at_ := imgDispatch b (i + 1) % 2048, link := none, open_ := false }]) then some (10, none)
  else match firstWord n (fun w =>
      let o := opOf (word w)
      ((turnEnds o || o == 0x33 || o == 0x2C) && !irq (word w)) || ((turnEnds o || o == 0x33) && !com (word w))) with
  | some w => some (11, some w)
  | none =>
  if goesOn b com 512 afterCom || tooManyWrites b 512 (afterCom.map fun x => (x, 0)) then some (11, none)
  else match all.find? (fun x =>
      (opOf (word x.at_) == 0x22 && x.open_) || (opOf (word x.at_) == 0x23 && x.link.isNone)) with
  | some x => some (12, some x.at_)
  | none => none

end Sys2Proof.Machine
end

