-- ==== Sys2Proof/Machine/SeqLoad.lean ====
section
/-! DEFINITION. Loading a control store (R151 to R155) and clearing a machine check (R158). -/

namespace Sys2Proof.Machine

/-- A load ends with a result and, where there is one, the failing word: DONE, the interrupt, and QUIESCED clear
(R152, R154). -/
def Dev.loadEnd (d : Dev) (k : Nat) (err : Nat) (word : Option Nat) : Dev :=
  let d := d.modCl k fun c => { c with load := none }
  let d := ((d.set (SEQ_LOAD_STAT.STATE k) 0).set (SEQ_LOAD_STAT.ERR k) err).set (SEQ_LOAD_STAT.WORD k) (word.getD 0)
  let d := ((d.stick (SEQ_LOAD_STAT.DONE k)).set (SEQ_STAT.LOADING k) 0).set (CL_STATE.QUIESCED k) 0
  if h : k < 16 then d.irqOwner (.seq ⟨k, h⟩) 0 else d

/-- A LOAD that is refused before it begins. -/
def Dev.loadRefused (d : Dev) (k err : Nat) : Dev :=
  let d := (d.set (SEQ_LOAD_STAT.ERR k) err).stick (SEQ_LOAD_STAT.DONE k)
  if h : k < 16 then d.irqOwner (.seq ⟨k, h⟩) 0 else d

/-- Lanes of cluster `k` whose program a load must see stopped: PRIMING, ARMED, RUNNING or WAITING (R151). -/
def Dev.loadBusy (d : Dev) (k : Nat) : List Nat :=
  ((List.range 64).map fun j => 64 * k + j).filter fun L =>
    let st := d.progState L
    st == 1 || st == 3 || st == 4 || st == 5

/-- FORCE stops every such program, as a STOP with the write's origin; a member with LG_HOLD stops its group. One message
with the first such lane's position goes to every session that owns one: the source holds one message at a time (R153,
R333). -/
def Dev.forceStop (d : Dev) (k : Nat) : Dev :=
  let Ls := d.loadBusy k
  let d := match Ls with
    | [] => d
    | L :: _ => d.raise (256 + 112 * k + 103) 0x2A 0 (L % 64) (Ls.flatMap d.holderL)
  Ls.foldl (fun d L =>
    let t := tq (d.epoch + 16)
    let d := d.askStop L t 0
    match d.groupOf L with
    | none => d
    | some g => if d.on (PROG_CTRL.LG_HOLD L) then d.groupStop g (t + tq (d.lg g).lat) 8 (some L) else d) d

/-- LOAD: PERM and BUSY are judged at once; otherwise the cluster is QUIESCING (R151 to R153). A LOAD that meets the end of a
load in its fabric cycle starts again (R20). -/
def Dev.loadCmd (d : Dev) (ss k : Nat) : Dev :=
  let force := d.on (SEQ_LOAD_CTRL.FORCE k)
  if force && d.attr ss != 2 then d.loadRefused k 15
  else if (d.cl k).load.isSome then (d.loadRefused k 1).askAgain (SEQ_LOAD_CTRL k) ss 0
  else if (!force && !(d.loadBusy k).isEmpty) then d.loadRefused k 1
  else
    let l : Load := { force, fromNvm := d.on (SEQ_LOAD_CTRL.SRC k), slot := d.get (SEQ_LOAD_CTRL.SLOT k),
                      offset := 64 * d.get (SEQ_LOAD_SRC.OFFSET k), len := d.get (SEQ_LOAD_LEN.BYTES k), session := some ss }
    let d := (d.modCl k fun c => { c with load := some l }).set (SEQ_LOAD_STAT.STATE k) 1
    if force then d.forceStop k else d

/-- A load ends, and one that was asked for in the same fabric cycle begins (R20). -/
def Dev.loadOver (d : Dev) (k : Nat) (err : Nat) (word : Option Nat) : Dev :=
  (d.loadEnd k err word).startAgain (SEQ_LOAD_CTRL k) fun d ss _ => d.loadCmd ss k

/-- A write of SEQ_LOAD_CTRL: a writer that does not own the page is refused with PERM and the write is discarded
(R151, R353); otherwise LOAD, or ABORT in QUIESCING. -/
def Dev.loadCtrlWrite (d : Dev) (ss : Nat) (k : Clu) (val : Word) : Dev :=
  let pg : Page := .seq k
  let d := if wbit val 0 && d.acts ss && !d.waits ss && !d.gated pg && !d.isOwn ss (d.owner pg) then d.loadRefused k 15 else d
  d.cmdWrite ss pg 0x11C val (wbit val 0 || wbit val 2) fun d =>
    let d := if wbit val 0 then d.loadCmd ss k else d
    if wbit val 2 && d.get (SEQ_LOAD_STAT.STATE k) == 1 then d.loadEnd k 14 none else d

/-- No service routine stands between its start and its RETI, and no decode turn is on the engine (R153). -/
def Cluster.atRest (c : Cluster) : Bool :=
  c.active.isNone && c.threads.all fun x => decide (x.1 < 64) || (x.2.resume.isNone && !x.2.suspended)

/-- Every program and service routine has reached its boundary (R153): QUIESCED, and the copy begins. -/
def Dev.quiesceComplete (d : Dev) (k : Nat) : Dev :=
  if d.get (SEQ_LOAD_STAT.STATE k) != 1 || !(d.loadBusy k).isEmpty || !(d.cl k).atRest then d
  else ((d.set (CL_STATE.QUIESCED k) 1).set (SEQ_LOAD_STAT.STATE k) 2).set (SEQ_STAT.LOADING k) 1

/-- QUIESCE_COMPLETE (R153). -/
def execQuiesceComplete (k : Clu) (s : State) : Result := s.on fun d => d.quiesceComplete k

/-- Base of NVM slot `n` of the default images (R27), and of cluster `k`'s staging slot (R25, R152). -/
abbrev nvmSlot (n : Nat) : Nat := 0x140000 + 0x10000 * n
abbrev stagingSlot (k : Nat) : Nat := 0x3F0000000 + 0x100000 * k

/-- The bytes of a load's source: an NVM slot with the length of its header, or the owner's BAR2 window (R152). -/
def State.loadSource (s : State) (l : Load) : List Byte :=
  if l.fromNvm then
    let h := readBytes nvmDefault s.nvm (nvmSlot l.slot) 16
    readBytes nvmDefault s.nvm (nvmSlot l.slot) (min (imgLen h) 0x10000)
  else match l.session with
    | none => []
    | some ss => s.toDev.bar2Bytes s.hbm ss l.offset l.len

/-- The sources in BAR2 windows of loads that have just begun are taken as they stand: a write made after LOAD cannot change
what is checked (R152). -/
def State.latchLoads (s : State) : State :=
  (List.range 16).foldl (fun s k => match (s.toDev.cl k).load with
    | none => s
    | some l =>
      if l.latched || l.fromNvm then s
      else { s with toDev := s.toDev.modCl k fun c => { c with load := some { l with image := s.loadSource l, latched := true } } }) s

/-- SEQ_LOAD (R151 to R153). -/
def execSeqLoad (ss : Sess) (k : Clu) (val : Word) (s : State) : Result :=
  .next (s.upd fun d => d.loadCtrlWrite ss k val).latchLoads

/-- SEQ_LOAD_ABORT (R151). -/
def execSeqLoadAbort (ss : Sess) (k : Clu) (val : Word) (s : State) : Result :=
  .next (s.upd fun d => d.loadCtrlWrite ss k val).latchLoads

/-- The HBM controller reports poisoned data in a load's source to the session (R26). -/
def Dev.loadPoison (d : Dev) (l : Load) : Dev :=
  match l.session with
  | none => d
  | some ss =>
    let a := ((d.bar2Poison ss l.offset l.len).or (d.bar2At ss l.offset)).getD 0
    d.raise 13 0x59 3 (a / 8) [ss]

/-- The copy into the staging slot is done: a poisoned read, a range outside the window, or an NVM slot without MAGIC
fails the load with SOURCE; otherwise checking begins (R151, R152). A read is poisoned where the command says so or HBM
data is marked (R26). -/
def execLoadCopyDone (k : Clu) (poison : Bool) (s : State) : Result :=
  match (s.toDev.cl k).load with
  | none => .next s
  | some l =>
    if s.toDev.get (SEQ_LOAD_STAT.STATE k) != 2 then .next s
    else
      let b := if l.latched then l.image else s.loadSource l
      let outside := !l.fromNvm && decide (0x400000000 < l.offset + l.len)
      let marked := match l.session with
        | none => false
        | some ss => !l.fromNvm && !outside && (s.toDev.bar2Poison ss l.offset l.len).isSome
      if !l.fromNvm && !outside && (poison || marked) then .next (s.upd fun d => (d.loadPoison l).loadOver k 2 none).latchLoads
      else if poison || outside || (l.fromNvm && imgMagic b != imgMAGIC) then .next (s.upd fun d => d.loadOver k 2 none).latchLoads
      else
        let d := (s.toDev.modCl k fun c => { c with load := some { l with image := b } }).set (SEQ_LOAD_STAT.STATE k) 3
        .next { s with toDev := d, hbm := writeBytes hbmDefault hbmSize s.hbm (stagingSlot k) b }

/-- The loader's checks are done: the first failure ends the load, else installing begins (R151). -/
def Dev.loadCheck (d : Dev) (k : Nat) : Dev :=
  match (d.cl k).load with
  | none => d
  | some l =>
    if d.get (SEQ_LOAD_STAT.STATE k) != 3 then d
    else match checkImage l.image l.fromNvm l.len with
      | some (err, w) => d.loadOver k err w
      | none => d.set (SEQ_LOAD_STAT.STATE k) 4

/-- LOAD_CHECK_DONE (R151). -/
def execLoadCheckDone (k : Clu) (s : State) : Result := .next (s.upd fun d => d.loadCheck k).latchLoads

/-- The image's words and entries go into force (R155). -/
def Dev.install (d : Dev) (k : Nat) (b : List Byte) : Dev :=
  d.modCl k fun c => { c with
    cs := (List.range (imgWords b)).foldl (fun t w => tput (fun _ => 0) t w (imgWord b w)) []
    dispatch := (List.range 64).foldl (fun t i => tput (fun _ => 0) t i (imgDispatch b i)) []
    vectors := (List.range 16).foldl (fun t i => tput (fun _ => 0) t i (imgVector b i)) []
    threads := c.threads.map fun x => (x.1, { x.2 with shadow := [], resume := none, suspended := false, restart := false, mustCommit := false })
    active := none, atDispatch := false }

/-- A word of the array fails its read-back: VERIFY, and a machine check of cause PARITY, which takes the place of another
that stands, so that self-test repairs the array; what the array holds there is a free value (R155). -/
def Dev.installBad (d : Dev) (k w : Nat) : Dev :=
  let (x, d) := d.draw
  let d := d.modCl k fun c => { c with cs := tput (fun _ => 0) c.cs w (BitVec.ofNat 40 x.toNat) }
  let d := (d.loadEnd k 13 (some w)).set (SEQ_STAT.IMAGE_VALID k) 0
  let d :=
    if d.on (CL_STATE.MCHK k) then
      let d := d.modCl k fun c => { c with march := true }
      let d := ((d.set (SEQ_MCHK_INFO.UPC k) w).set (SEQ_MCHK_INFO.THREAD k) 0).set (SEQ_MCHK_INFO.CAUSE k) 0
      (d.set (SEQ_MCHK_INFO.VALID k) 1).set (SEQ_MCHK_WORD.WORD k) (x.toNat % 2 ^ 40)
    else d.machineCheck k w 0 0 0 (x.toNat % 2 ^ 40)
  d.startAgain (SEQ_LOAD_CTRL k) fun d ss _ => d.loadCmd ss k

/-- All 2,048 words are written and read back: the load ends in success and clears a machine check of any cause
(R155, R158). -/
def Dev.loadInstall (d : Dev) (k : Nat) (bad : Option Nat) : Dev :=
  match (d.cl k).load with
  | none => d
  | some l =>
    if d.get (SEQ_LOAD_STAT.STATE k) != 4 then d
    else
      let d := d.install k l.image
      match bad with
      | some w => d.installBad k w
      | none =>
        let d := ((d.set (SEQ_IMG_ID.ID k) (imgId l.image)).set (SEQ_IMG_CRC.CRC k) (imgCrc l.image)).set
          (SEQ_STAT.IMAGE_VALID k) 1
        let d := if d.on (CL_STATE.MCHK k) then d.machineCheckEnd k else d
        d.loadOver k 0 none

/-- A write of SEQ_CTRL: SVC_THRESH above 512 is taken as 512 (R145). -/
def Dev.seqCtrlPlain (d : Dev) (ss : Nat) (k : Clu) (val : Word) : Dev :=
  let d := d.plainWrite ss (.seq k) 0x100 val
  d.set (SEQ_CTRL.SVC_THRESH k) (min (d.get (SEQ_CTRL.SVC_THRESH k)) 512)

/-- MCHK_CLR clears a machine check of cause FIFO or TIMEBASE once its cause is gone; otherwise it is discarded with a
NOTE (R158, R405). -/
def Dev.mchkClr (d : Dev) (ss : Nat) (k : Clu) : Dev :=
  let cause := d.get (SEQ_MCHK_INFO.CAUSE k)
  if d.on (CL_STATE.MCHK k) && (cause == 1 || cause == 2) && d.get (CL_STATE.FIFO_ERR k) == 0 && d.on TB_STAT.PLL_LOCK
  then d.machineCheckEnd k
  else d.discard ss (.seq k) 0x100

/-- A write of SEQ_CTRL. -/
def Dev.seqCtrlWrite (d : Dev) (ss : Nat) (k : Clu) (val : Word) : Dev :=
  d.hostWrite ss (.seq k) 0x100 [val] .owner (wbit val 10) fun d =>
    let d := d.seqCtrlPlain ss k val
    if wbit val 10 then d.mchkClr ss k else d

/-- MCHK_CLR (R158). -/
def execMchkClr (ss : Sess) (k : Clu) (val : Word) (s : State) : Result := s.on fun d => d.seqCtrlWrite ss k val

end Sys2Proof.Machine
end

