-- ==== Sys2Proof/Machine/Boot.lean ====
section
/-! DEFINITION. The start sequence (R399 to R403), the wake from DEEP (R404), the return of a cluster that the start
left out (R400), and what follows a loss of the master PLL (R37, R403, R406, R407) or a crossing error (R23). -/

namespace Sys2Proof.Machine

/-! ### Phases (R399) -/

/-- The phases that must be complete before phase `n` starts. -/
def phaseAfter (n : Nat) : List Nat :=
  match n with
  | 0 => [] | 1 => [0] | 2 => [1] | 3 => [0] | 4 => [2] | 5 => [2, 3] | 6 => [4, 5] | 7 => [6] | _ => [7]

/-- Phase `n` runs: t1 has passed, what comes before it is complete and it is not; after a failure of HBM the sequence
stops after phase 2 (R399, R401). -/
def Dev.phaseRuns (d : Dev) (n : Nat) : Bool :=
  d.boot.released && !d.boot.done.contains n && (phaseAfter n).all (fun m => d.boot.done.contains m)
    && (!d.on BOOT_STAT.HBM_FAIL || decide (n ≤ 2))

/-- Phase `n` is complete. -/
def Dev.phaseEnd (d : Dev) (n : Nat) : Dev := ({ d with boot := { d.boot with done := d.boot.done ++ [n] } } : Dev).showBoot

/-- Phase 0: the master PLL has locked from the oscillator; a selection of REFIN made before acts from here (R31, R32,
R403). -/
def Dev.pllUp (d : Dev) : Dev :=
  let d : Dev := { d.set TB_STAT.PLL_LOCK 1 with
    tb := { d.tb with pllEver := true, pllLostT0 := none, relockCyc := some d.cycle, word := d.getInt TB_AGE_ADJ.ADJ } }
  let st := if !d.on TB_REF_SEL.SRC then 0 else if d.on TB_STAT.REFIN_PRESENT then 2 else 1
  d.srcState st

/-- PHASE_PLL_DONE (R399, R44). -/
def execPhasePllDone (s : State) : Result := s.on fun d => if d.phaseRuns 0 then d.pllUp.phaseEnd 0 else d

/-- Phase 1: the lifecycle from the valid copy with the higher sequence number; with neither valid, CONFIG_LOST, and the
device runs as RETIRED (R375, R401). A RETIRED device has no owner key and starts in DROWSE (R376). -/
def Dev.configRead (d : Dev) : Dev :=
  let d := match d.sec.stored with
    | some (_, t) =>
      let d := (d.set SEC_STAT.LIFECYCLE t).set BOOT_STAT.CONFIG_LOST 0
      if t = 3 then (List.range 12).foldl (fun (d : Dev) w => d.setReg (SEC_OWNER_KEY w) 0) d else d
    | none => (d.set SEC_STAT.LIFECYCLE 3).set BOOT_STAT.CONFIG_LOST 1
  if d.retired && d.pln.st == .active then ({ d with pln := { d.pln with st := .drowse } } : Dev).showPower else d

/-- PHASE_CONFIG_DONE (R401). -/
def execPhaseConfigDone (s : State) : Result := s.on fun d => if d.phaseRuns 1 then d.configRead.phaseEnd 1 else d

/-- The records of copy `n` that hold a listed byte, in order, with their places; an erased record is not valid. -/
def copyPlaces (nvm : List Host.Cell) (n : Nat) : List Nat :=
  ((nvm.filter fun c => decide (copyBase n ≤ c.1) && decide (c.1 < copyBase n + 16 * copyRecords)).map
    fun c => (c.1 - copyBase n) / 16).eraseDups

/-- The valid records of copy `n` (R324). -/
def copyRead (nvm : List Host.Cell) (n : Nat) : List RepairRec :=
  (copyPlaces nvm n).filterMap fun i => recordOf (readBytes nvmDefault nvm (copyBase n + 16 * i) 16)

/-- A unit record takes its unit out of service (R321). -/
def Dev.unitOut (d : Dev) (r : RepairRec) : Dev :=
  let k := r.tgt.cluster
  let n := r.tgt.inst
  if r.tgt.trunk then { d with dirum := { d.dirum with refBad := true } }
  else if r.tgt.ty = 6 then
    ((d.set (TMU_STAT.ROLE k n) 3).set (PAGE_STAT.UNUSABLE (tmuPg k n)) 1).modTmu k n fun x => { x with byBist := true }
  else if r.egBad ≠ 0 then
    (d.set (CH_PHYS_STAT.EG_BAD k n) (d.get (CH_PHYS_STAT.EG_BAD k n) ||| r.egBad)).modPh k n fun x =>
      { x with bistEgBad := x.bistEgBad ||| r.egBad }
  else
    ((d.set (CH_PHYS_STAT.UNUSABLE k n) 1).set (PAGE_STAT.UNUSABLE (chPg k n)) 1).modPh k n fun x => { x with byBist := true }

/-- Phase 2: the union of both copies of the repair records is in force; with no valid record, REPAIR_LOST (R324,
R401). -/
def Dev.repairsRead (d : Dev) (nvm : List Host.Cell) : Dev :=
  let last := fun (n : Nat) => (copyPlaces nvm n).foldl (fun m i => max m (i + 1)) 0
  let r0 := copyRead nvm 0
  let r1 := copyRead nvm 1
  let d : Dev := { d with bist := { d.bist with recs0 := r0, recs1 := r1 } }
  let d := (d.set BIST_REPAIR_STAT.USED0 (last 0)).set BIST_REPAIR_STAT.USED1 (last 1)
  let d := d.set BOOT_STAT.REPAIR_LOST (b2n (r0.isEmpty && r1.isEmpty))
  (d.bist.live.filter fun r => decide (5 ≤ r.tgt.ty)).foldl Dev.unitOut d

/-- PHASE_REPAIR_DONE (R324, R401). -/
def execPhaseRepairDone (s : State) : Result :=
  s.on fun d => if d.phaseRuns 2 then (d.repairsRead s.nvm).phaseEnd 2 else d

/-- Bytes of HBM that are not the Caliper workspace's: the device region, at phase 3 (R25, R399). -/
def clearDevice (m : List Host.Cell) : List Host.Cell :=
  clearBytes (clearBytes m 0x3E0000000 0x4000000) 0x3EC000000 0x14000000

/-- PHASE_HBM_DONE: the device region is zero, except the Caliper workspace; or HBM_FAIL (R399, R401). -/
def execPhaseHbmDone (ok : Bool) (s : State) : Result :=
  if !s.toDev.phaseRuns 3 then .next s
  else if ok then .next { s with toDev := s.toDev.phaseEnd 3, hbm := clearDevice s.hbm }
  else s.on fun d => d.set BOOT_STAT.HBM_FAIL 1

/-- The tables of a record of the user bank in force (R254, R256). -/
def Dev.bankApply (d : Dev) (r : BankRec) : Dev :=
  let u := r.unit
  let d := d.modInfo u fun x => { x with stored := true }
  let idx := (List.range r.vals.length).zip r.vals
  if u.tmu then
    d.modTmu u.cluster u.unit fun x =>
      if u.part = 6 then
        { x with pathUser := tput (fun _ => none) x.pathUser u.sub (some (r.vals.getD 0 0, r.tu, r.made)) }
      else
        { x with
          cdUser := idx.foldl (fun t (q : Nat × Int) => tput (fun _ => 0) t (4096 * u.part + q.1) q.2.toNat) x.cdUser
          cdTu := tput (fun _ => 0) x.cdTu u.part r.tu, cdMade := tput (fun _ => 0) x.cdMade u.part (r.made + 1) }
  else
    d.modPh u.cluster u.unit fun x =>
      if u.part = 6 then
        { x with userPath := tput (fun _ => none) x.userPath u.sub (some
          { drv := r.vals.getD 0 0, den := r.vals.getD 1 0, cmp := r.vals.getD 2 0, tu := r.tu, made := r.made }) }
      else
        { x with
          userAch := (idx.take 64).foldl (fun t (q : Nat × Int) => tput (fun _ => 0) t (64 * u.part + q.1) q.2) x.userAch
          userPd := (idx.drop 64).foldl (fun t (q : Nat × Int) => tput (fun _ => 0) t (256 * u.part + q.1 - 64) q.2) x.userPd
          userMask := x.userMask ||| 2 ^ u.part, tu := tput (fun _ => 0) x.tu u.part r.tu
          made := tput (fun _ => 0) x.made u.part r.made }

/-- The units of a cluster whose factory section failed in both copies are UNUSABLE (R256). -/
def Dev.sectionLost (d : Dev) (k : Nat) : Dev :=
  let d := d.raise 3 0x45 2 k []
  let d := (List.range 68).foldl (fun d p =>
    (d.set (CH_PHYS_STAT.UNUSABLE k p) 1).set (PAGE_STAT.UNUSABLE (chPg k p)) 1) d
  (List.range 34).foldl (fun d t => (d.set (TMU_STAT.ROLE k t) 3).set (PAGE_STAT.UNUSABLE (tmuPg k t)) 1) d

/-- Every user table leaves its unit. -/
def Dev.tablesOut (d : Dev) : Dev :=
  { d with
    phys := d.phys.map fun ((key, x) : Nat × Phys) => (key, { x with
      userPd := [], userAch := [], userMask := 0, tu := [], userPath := [], made := [] })
    tmus := d.tmus.map fun ((key, x) : Nat × Tmu) => (key, { x with cdUser := [], cdMade := [], cdTu := [], pathUser := [] }) }

/-- Phase 4: factory sections from copy 0, else copy 1, else lost, where `bad` names the sections that fail their CRC, those
of copy 1 with true; the valid user bank with the higher SEQ (R255, R256). -/
def Dev.calRead (d : Dev) (bad : List (Bool × Nat)) : Dev :=
  let c := d.cal
  let one := (List.range 16).filter fun k => bad.contains (false, k) && !bad.contains (true, k)
  let none_ := (List.range 16).filter fun k => bad.contains (false, k) && bad.contains (true, k)
  let d := (d.set CAL_STAT.FACTORY_COPY (b2n !one.isEmpty)).set CAL_STAT.FACTORY_LOST (b2n !none_.isEmpty)
  let d := none_.foldl Dev.sectionLost d.tablesOut
  let bank := if c.bInForce then c.bankB else c.bankA
  let d := d.set CAL_STAT.BANK (if c.bInForce then 2 else if c.bankA.valid then 1 else 0)
  (if bank.valid then bank.body.foldl Dev.bankApply d else d).showBanks

/-- The user banks as the NVM holds them (R255). -/
def State.banksRead (s : State) : Dev :=
  { s.toDev with cal := { s.cal with
    bankA := bankRead s.nvm false s.cal.bankA, bankB := bankRead s.nvm true s.cal.bankB } }

/-- PHASE_CAL_DONE (R255, R256). -/
def execPhaseCalDone (s : State) (bad : List (Bool × Clu) := []) : Result :=
  if s.toDev.phaseRuns 4 then
    .next { s with toDev := (s.banksRead.calRead (bad.map fun q => (q.1, q.2.val))).phaseEnd 4 }
  else .next s

/-- The image of a control-store slot of the NVM, where it passes the loader's checks (R151, R400). -/
def State.slotImage (s : State) (slot : Nat) : Option (List Byte) :=
  let b := s.loadSource { force := false, fromNvm := true, slot, offset := 0, len := 0, session := none }
  if (checkImage b true b.length).isNone then some b else none

/-- An image goes into force in a cluster. -/
def Dev.imageIn (d : Dev) (k : Nat) (b : List Byte) : Dev :=
  let d := d.install k b
  let d := ((d.set (SEQ_IMG_ID.ID k) (imgId b)).set (SEQ_IMG_CRC.CRC k) (imgCrc b)).set (SEQ_STAT.IMAGE_VALID k) 1
  let d := if d.on (CL_STATE.MCHK k) then d.machineCheckEnd k else d
  d.set BOOT_CL_FAIL.CLUSTERS (d.get BOOT_CL_FAIL.CLUSTERS &&& (0xFFFF - 2 ^ k))

/-- No image installs: the cluster is left out of service (R400). -/
def Dev.clusterOut (d : Dev) (k : Nat) : Dev :=
  let d := d.set BOOT_CL_FAIL.CLUSTERS (d.get BOOT_CL_FAIL.CLUSTERS ||| 2 ^ k)
  (d.set (SEQ_STAT.IMAGE_VALID k) 0).irqAll (.dev 0) d.liveSessions 1

/-- The listed clusters load slot 0, or slot 1 where that fails a check (R400). -/
def State.loadDefault (s : State) (ks : List Nat) : State :=
  match (s.slotImage 0).or (s.slotImage 1) with
  | none => { s with toDev := ks.foldl Dev.clusterOut s.toDev }
  | some b => { s with
      toDev := ks.foldl (fun d k => d.imageIn k b) s.toDev
      hbm := ks.foldl (fun m k => writeBytes hbmDefault hbmSize m (stagingSlot k) b) s.hbm }

/-- A cluster's image has not passed VERIFY, and self-test has its array still to march (R322, R400). -/
def Dev.awaitsMarch (d : Dev) (k : Nat) : Bool := d.on (CL_STATE.MCHK k) && (d.cl k).march

/-- Clusters that load in phase 5: every one that has not, and whose array is in order; after the march that follows a VERIFY
failure a cluster loads once more (R400). -/
def Dev.loadsDefault (d : Dev) : List Nat :=
  (List.range 16).filter fun k => !d.boot.csLoaded.contains k && !d.awaitsMarch k

/-- PHASE_CSTORE_DONE (R400): `verify` names the clusters whose array fails its read-back, and the word; they enter machine
check, and the phase completes once they have loaded again. -/
def execPhaseCstoreDone (s : State) (verify : List (Clu × BitVec 11) := []) : Result :=
  if !s.toDev.phaseRuns 5 then .next s
  else
    let ks := s.toDev.loadsDefault
    let s := s.loadDefault ks
    let bad := verify.filter fun x => ks.contains x.1.val && s.toDev.on (SEQ_STAT.IMAGE_VALID x.1)
    let d := bad.foldl (fun d x => d.installBad x.1 x.2.toNat) s.toDev
    let d : Dev := { d with boot := { d.boot with
      csLoaded := d.boot.csLoaded ++ ks.filter fun k => !bad.any fun x => x.1.val == k } }
    .next { s with toDev := if d.boot.csLoaded.length < 16 then d else d.phaseEnd 5 }

/-- The TMUs of a cluster that are in use go through ramp-lock (R173). -/
def Dev.rampBegin (d : Dev) (k : Nat) : Dev :=
  (List.range 34).foldl (fun d t =>
    if d.get (TMU_STAT.ROLE k t) = 3 then d
    else ((d.set (TMU_STAT.STATE k t) 5).set (TMU_STAT.LOCKED k t) 0).modTmu k t fun x => { x with rampT0 := d.up }) d

/-- A cluster is woken, or stays gated with its tables and tree measured: tables in force at the present temperature, and
the tree aligned where there is power (R247, R245, R29). One without an image only has power (R400). -/
def Dev.clusterUp (d : Dev) (on : Bool) (k : Nat) : Dev :=
  let d := d.set (CL_STATE.PWR k) (if on then 2 else 0)
  let d := d.modCl k fun c => { c with idleT0 := 0 }
  if d.clFailed k then d
  else
    let d := ((d.set (CL_STATE.TREE_ALIGNED k) 0).installCluster k).treeFree k
    (if on then d else d.set (CL_STATE.TREE_ALIGNED k) 0).rampBegin k

/-- Clusters that phases 6 to 8 do not skip. -/
def Dev.goodClusters (d : Dev) : List Nat := (List.range 16).filter fun k => !d.clFailed k

/-- PHASE_TREES_DONE (R399): in DROWSE, which RETIRED starts in, clusters stay gated. -/
def execPhaseTreesDone (s : State) : Result := s.on fun d =>
  if d.phaseRuns 6 then (((List.range 16).foldl (fun d k => d.clusterUp (d.pln.st == .active) k) d).showGated).phaseEnd 6 else d

/-- The TMUs of a cluster that have not locked yet lock, with settings that the silicon finds (R173). -/
def Dev.rampAll (d : Dev) (k : Nat) : Dev :=
  (List.range 34).foldl (fun d t =>
    if d.tmuState k t != 5 || d.get (TMU_STAT.ROLE k t) == 3 then d
    else
      let (x, d) := d.draw
      let d := (d.set (TMU_IDAC.IDAC k t 0) (x.toNat % 1024)).set (TMU_IDAC.IDAC k t 1) (x.toNat / 1024 % 1024)
      (d.set (TMU_STAT.LOCKED k t) 1).set (TMU_STAT.STATE k t) 0) d

/-- PHASE_RAMP_DONE (R399, R173). -/
def execPhaseRampDone (s : State) : Result := s.on fun d =>
  if d.phaseRuns 7 then (d.goodClusters.foldl Dev.rampAll d).phaseEnd 7 else d

/-- TMUs come into service by rank: the first 32 take positions 0 to 31 (R268). -/
def Dev.poolPlace (d : Dev) (k : Nat) : Dev :=
  (List.range 32).foldl (fun d q => match d.tmuSpares k with | [] => d | t :: _ => d.posGive k q t) d

/-- READY: its time, and the interrupt of every session (R399, R402). -/
def Dev.bootReady (d : Dev) : Dev :=
  let d := d.phaseEnd 8
  (d.set BOOT_TIME.US (min ((d.up - d.boot.t1) / usT0) 0xFFFFFFFF)).irqAll (.dev 0) d.liveSessions 0

/-- PHASE_PLACE_DONE (R399, R402, R268). -/
def execPhasePlaceDone (s : State) : Result := s.on fun d =>
  if d.phaseRuns 8 then (d.goodClusters.foldl Dev.poolPlace d).bootReady.wakeCal else d

/-! ### A cluster that the start left out returns (R400) -/

/-- A successful load clears the cluster's bit, and the cluster runs phases 6 to 8 by itself: tables and tree at once,
then ramp-lock, and TMUs take positions as they lock. -/
def Dev.rejoin (d : Dev) (k : Nat) : Dev :=
  if !d.clFailed k || !d.on (SEQ_STAT.IMAGE_VALID k) then d
  else
    let d := d.set BOOT_CL_FAIL.CLUSTERS (d.get BOOT_CL_FAIL.CLUSTERS &&& (0xFFFF - 2 ^ k))
    if d.boot.done.contains 6 then d.clusterUp (d.powered k) k else d

/-- LOAD_INSTALL_DONE (R155, R400). -/
def execLoadInstallDone (k : Clu) (bad : Option (BitVec 11)) (s : State) : Result :=
  .next (s.upd fun d => (d.loadInstall k (bad.map BitVec.toNat)).rejoin k).latchLoads

/-! ### Wake from DEEP (R404) -/

/-- The device leaves DEEP: OBSERVE drops, what was kept for DEEP ends, and HW_TRIP shows a hardware trip (R380, R387,
R389, R372). -/
def Dev.deepExit (d : Dev) (st : PowerState) : Dev :=
  let d := if d.get SEC_STAT.DBG_LEVEL = 1 then d.dbgDrop 1 else d
  let d := d.stickIf d.pln.hwTripped PWR_STAT.HW_TRIP
  ({ d with pln := { d.pln with
    st, going := some st, tripped := false, hwTripped := false, full := false, coolT0 := none, belowT0 := none, deepSum := none
    deepCl := List.range 16 } } : Dev).showPower

/-- The short sequence: phases 0, 3 and 5 to 8 with what DEEP has kept; a cluster without a valid image goes through
R400 (R404). -/
def State.wakeShort (s : State) (on : Bool) : State :=
  let t1 := s.boot.t1
  let d := (s.toDev.release 3).pllUp
  let d : Dev := { d with boot := { d.boot with done := [0, 1, 2, 3, 4] } }
  let s := ({ s with toDev := d } : State).loadDefault ((List.range 16).filter fun k => !s.toDev.on (SEQ_STAT.IMAGE_VALID k))
  let d := (List.range 16).foldl (fun d k => d.clusterUp on k) (s.toDev.phaseEnd 5)
  let d := (d.showGated.phaseEnd 6)
  let d := (d.goodClusters.foldl Dev.rampAll d).phaseEnd 7
  let d := (({ d with boot := { d.boot with t1 } } : Dev).goodClusters.foldl Dev.poolPlace d).bootReady
  { s with toDev := d.wakeCal }

/-- DEEP_WAKE (R404): the short sequence; the full one after a hardware trip, a reset or a trip before READY; phases 4
to 8 where a workspace table or a staging image fails its check. With RESET_N low the sequence waits for t1. -/
def State.deepWake (s : State) (ok : Bool) : State :=
  match s.pln.st, s.pln.going with
  | .deep, some g =>
    if g == .deep || !s.pln.running then s
    else
      let on := g == .active && !s.toDev.retired
      let hw := s.pln.hwTripped
      let full := hw || s.pln.full
      let t1 := s.boot.t1
      let d := s.toDev.deepExit (if on then .active else .drowse)
      if !d.boot.resetN || !d.boot.supplyOk then { s with toDev := d }
      else if full then { s with toDev := d.release (if hw then 2 else 3) }
      else if ok then ({ s with toDev := d } : State).wakeShort on
      else
        let d := (d.release 3).pllUp
        { s with toDev := ({ d with boot := { d.boot with done := [0, 1, 2, 3], t1 } } : Dev).showBoot }
  | _, _ => s

/-- DEEP_WAKE (R404). -/
def execDeepWake (ok : Bool) (s : State) : Result := .next (s.deepWake ok)

/-! ### Loss of the master PLL (R37, R403, R406, R407) -/

/-- PLL_LOCK_LOSS: the message, the island carries the count, and the time base restarts from the oscillator; every
powered cluster stops, or before READY the sequence restarts at phase 0 (R37, R403, R406). -/
def Dev.pllLoss (d : Dev) : Dev :=
  if !d.on TB_STAT.PLL_LOCK then d
  else
    let st := d.get TB_STAT.SRC_STATE
    let d := d.pllStops.set TB_STAT.PLL_LOCK 0
    let word := d.tb.word
    let d := (d.raise 1 0x10 4 0 d.holdersAll).set (PAGE_STAT.READY 0x1000) 0
    if !d.boot.done.contains 8 then
      ({ d with boot := { d.boot with done := d.boot.done.filter (fun n => 1 ≤ n && n ≤ 4), csLoaded := [] } } : Dev).showBoot
    else
      let d := ((List.range 16).filter fun k => d.powered k).foldl (fun d k =>
        d.machineCheck k (d.cl k).upc ((d.cl k).active.getD 0) 2 0 0) d
      let d := if st = 2 || st = 3 || st = 5 then d.enterHoldover word
        else { d.srcState 0 with tb := { d.tb with word := d.getInt TB_AGE_ADJ.ADJ } }
      { d with tb := { d.tb with pllLostT0 := some d.up } }

/-- PLL_LOCK_LOSS (R37). -/
def execPllLockLoss (s : State) : Result := s.on Dev.pllLoss

/-- T0 in 10 ms. -/
abbrev relockLimit : Nat := 10 * msT0

/-- PLL_RELOCK (R406): trees are to be measured again, and a time base in HOLDOVER reverts; a REFIN lost in the same
fabric cycle counts as lost here (R407). -/
def Dev.pllBack (d : Dev) (ref : RefIn) : Dev :=
  match d.tb.pllLostT0 with
  | none => d
  | some t =>
    if d.tb.pllDead || decide (t + relockLimit < d.up) then d
    else
      let d : Dev := { d.set TB_STAT.PLL_LOCK 1 with
        tb := { d.tb with pllLostT0 := none, relockCyc := some d.cycle }, pln := { d.pln with followRef := 0 } }
      let d := d.showBoot
      let d := (List.range 16).foldl (fun d k => d.set (CL_STATE.TREE_ALIGNED k) 0) d
      if d.get TB_STAT.SRC_STATE != 4 then d
      else if d.tb.refLostCyc == some d.cycle then
        { d.refLossNote with tb := { d.tb with lossT0 := d.up, revertReq := true } }
      else if d.on TB_STAT.REFIN_PRESENT then d.revert ref.phase
      else if d.qualifies ref then (d.set TB_STAT.REFIN_PRESENT 1).revert ref.phase
      else { d with tb := { d.tb with revertReq := true } }

/-- PLL_RELOCK (R406, R407). -/
def execPllRelock (ref : RefIn) (s : State) : Result := s.on fun d => d.pllBack ref

/-- PLL_RELOCK_TIMEOUT (R406): without lock for 10 ms, only RESET_N restarts the device. -/
def execPllRelockTimeout (s : State) : Result := s.on fun d =>
  match d.tb.pllLostT0 with
  | none => d
  | some t => if t + relockLimit ≤ d.up then { d with tb := { d.tb with pllDead := true } } else d

/-! ### A crossing FIFO fails (R23) -/

/-- Events in FIFO 0 or 1 of cluster `k` in the present fabric cycle are not delivered: on lines that the cluster drives
on their way out, of global inputs on their way in. -/
def Dev.fifoDrop (d : Dev) (k fifo : Nat) : Dev :=
  let now := d.ecyc
  if fifo = 0 then
    { d with gStage := d.gStage.filter fun x =>
      let at_ := x.at_ - 3 - d.slow 0 k - d.slow 1 k
      let mine := match (d.line x.src).driver with | some (j, _) => j == k | none => false
      !(mine && decide (at_ ≤ now) && decide (now ≤ at_ + d.slow 0 k)) }
  else if fifo = 1 then
    d.modCl k fun c => { c with stage := c.stage.filter fun x =>
      let at_ := x.at_ - 2 - d.slow 2 k
      !(x.glob && decide (192 ≤ x.src) && decide (at_ ≤ now) && decide (now ≤ at_ + d.slow 2 k)) }
  else d

/-- CROSSING_FIFO_ERROR (R23): FIFO_ERR, an UNCOR message, and the sequencer stops as for a machine check of cause
FIFO. In a cluster that is not powered nothing happens: its FIFOs hold nothing (DESIGN CHOICE, log entry 60). -/
def Dev.fifoError (d : Dev) (k : Clu) (fifo : Nat) : Dev :=
  if !d.powered k then d
  else
    let d := d.stick ⟨CL_STATE k, 24 + fifo, 1⟩
    let d := d.raise (256 + 112 * k + 107) 0x18 3 (d.get (CL_STATE.FIFO_ERR k)) (d.holdersIn k)
    (d.fifoDrop k fifo).machineCheck k (d.cl k).upc ((d.cl k).active.getD 0) 1 0 0

/-- CROSSING_FIFO_ERROR (R23). -/
def execCrossingFifoError (k : Clu) (fifo : Fin 3) (s : State) : Result := s.on fun d => d.fifoError k fifo

end Sys2Proof.Machine
end

