-- ==== Sys2Proof/Machine/Plinth.lean ====
section
/-! DEFINITION. Plinth's loop: sampling, filtering and its decisions (R246, R259, R382, R386 to R389), the hardware trip
(R387), and the registers that set them. -/

namespace Sys2Proof.Machine

/-- The sensors page. -/
abbrev sensPage : Page := .dev 14

/-! ### Sampling and filtering (R386) -/

/-- Nominal supplies in mV, in the order of SENS_SEL 49 to 56: VDD_CORE, VDD_TIM, VDD_ANA, VDD_IO, VDD_AON, VDD_XO,
VDD_NVM (17, R412), HBM. The last is PRESUMED: log entry 46. -/
def nominal : List Int := [750, 850, 1200, 1200, 800, 1800, 1800, 1100]

/-- The raw samples by number: sensors 0 to 47, the oscillator 48, supplies 49 to 56. -/
def samplesAll (x : Samples) : List Int :=
  ((List.range 48).map fun i => (x.temps.getD i 0).toInt) ++ [x.osc.toInt]
    ++ (List.range 8).map fun i => ((x.supplies.getD i 0).toNat : Int)

/-- A raw value in the filter's unit, 1/1,024 °C or 1/1,024 mV. -/
def filtUnit (n : Nat) (raw : Int) : Int := if n < 49 then 16 * raw else 1024 * raw

/-- The raw and the filtered value of a sensor or supply. -/
def Dev.rawOf (d : Dev) (n : Nat) : Int := tget (fun _ => 0) d.pln.raw n
def Dev.filtOf (d : Dev) (n : Nat) : Int := tget (fun _ => 0) d.pln.filt n

/-- The filtered value as SENS_DATA and the SMBus report it: 1/64 °C or mV (R386). -/
def Dev.sensOut (d : Dev) (n : Nat) : Int := rdiv (d.filtOf n) (if n < 49 then 16 else 1024)

/-- One sample passes its filter, y ← y + (x − y) / 2^K; the first sets it (R386). -/
def Dev.sample (d : Dev) (n : Nat) (raw : Int) : Dev :=
  let x := filtUnit n raw
  let k := if n < 49 then d.get PLN_FILT.KT else d.get PLN_FILT.KS
  let y := d.filtOf n
  let y := if d.pln.primed then y + rdiv (x - y) (2 ^ k) else x
  { d with pln := { d.pln with
    raw := tput (fun _ => 0) d.pln.raw n raw, filt := tput (fun _ => 0) d.pln.filt n y } }

/-- All samples of an iteration. -/
def Dev.sampleAll (d : Dev) (x : Samples) : Dev :=
  let l := samplesAll x
  let d := ((List.range l.length).zip l).foldl (fun d (q : Nat × Int) => d.sample q.1 q.2) d
  { d with pln := { d.pln with primed := true } }

/-! ### Faulty sensors and cluster temperatures (R246, R386) -/

/-- Sensor `n` is marked faulty. -/
def Dev.faulty (d : Dev) (n : Nat) : Bool := d.get SENS_FAULTY.FAULTY / 2 ^ n % 2 == 1

/-- The middle of three. -/
def median3 (a b c : Int) : Int := max (min a b) (min (max a b) c)

/-- Median of the raw values of a cluster's three sensors. -/
def Dev.rawMedian (d : Dev) (k : Nat) : Int := median3 (d.rawOf (3 * k)) (d.rawOf (3 * k + 1)) (d.rawOf (3 * k + 2))

/-- A code at either end of the sensor's range. -/
def endCode (raw : Int) : Bool := raw == 0x7FFF || raw == -0x8000

/-- One sensor's comparison with its cluster: 400 iterations in a row more than 5 °C from the median mark it faulty, an
end code at once (R386). -/
def Dev.judgeSensor (d : Dev) (n : Nat) : Dev :=
  let raw := d.rawOf n
  let odd := decide (320 < (raw - d.rawMedian (n / 3)).natAbs)
  let c := if odd then min 400 (tget (fun _ => 0) d.pln.odd n + 1) else 0
  let d : Dev := { d with pln := { d.pln with odd := tput (fun _ => 0) d.pln.odd n c } }
  if (c = 400 || endCode raw) && !d.faulty n then d.stick ⟨SENS_FAULTY + 4 * (n / 32), n % 32, 1⟩ else d

/-- Sensors of cluster `k` that are in use. -/
def Dev.goodSensors (d : Dev) (k : Nat) : List Nat := [3 * k, 3 * k + 1, 3 * k + 2].filter fun n => !d.faulty n

/-- The temperature of a cluster in 1/1,024 °C: the median of three, the mean of two, or the remaining one; with none left
it stays as it was (R246). -/
def Dev.clusterTemp (d : Dev) (k : Nat) : Int :=
  match d.goodSensors k with
  | [a, b, c] => median3 (d.filtOf a) (d.filtOf b) (d.filtOf c)
  | [a, b] => rdiv (d.filtOf a + d.filtOf b) 2
  | [a] => d.filtOf a
  | _ => 16 * (d.cl k).temp

/-- The temperatures that the tables follow, in 1/64 °C. -/
def Dev.tempsSet (d : Dev) : Dev :=
  (List.range 16).foldl (fun d k =>
    let t := rdiv (d.clusterTemp k) 16
    if (d.cl k).temp = t then d
    else (d.modCl k fun c => { c with temp := t }).modRun k fun r => { r with moved := r.moved || decide (64 < (t - r.temp0).natAbs) }) d

/-! ### Decisions (R387 to R389, R382, R259) -/

/-- A threshold in 1/4 °C in the filter's unit. -/
def quarter (x : Nat) : Int := 256 * (x : Int)

/-- A supply lies outside its window about nominal (R387). -/
def Dev.supplyOutside (d : Dev) (i : Nat) : Bool :=
  let nom := 1024 * nominal.getD i 0
  decide (nom * (d.get PLN_SUP_WIN.PCT : Int) < 100 * ((d.filtOf (49 + i) - nom).natAbs : Int))

/-- Iterations in a row that each supply has been outside. -/
def Dev.countSupplies (d : Dev) : Dev :=
  (List.range 8).foldl (fun d i =>
    let c := if d.supplyOutside i then min 4 (tget (fun _ => 0) d.pln.supOut i + 1) else 0
    { d with pln := { d.pln with supOut := tput (fun _ => 0) d.pln.supOut i c } }) d

/-- Why the iteration trips: cause and sensor or supply, by its SENS_SEL number (R387). -/
def Dev.tripCause (d : Dev) : Option (Nat × Nat) :=
  match (List.range 48).find? fun n => !d.faulty n && decide (quarter (d.get PLN_THRESH.TRIP) ≤ d.filtOf n) with
  | some n => some (0, n)
  | none => ((List.range 8).find? fun i => tget (fun _ => 0) d.pln.supOut i == 4).map fun i => (1, 49 + i)

/-- A trip: told, logged, and DEEP asked for without any condition (R384, R387, R388). -/
def Dev.trip (d : Dev) (cause n : Nat) : Dev :=
  let d := (d.powerYield 0).tripNote cause n (d.filtOf n)
  ({ d with pln := { d.pln with tripped := true } } : Dev).powerAsk .trip 2 true

/-- The sensor that gives a cluster its temperature. -/
def Dev.hotSensor (d : Dev) (k : Nat) : Nat :=
  ((d.goodSensors k).find? fun n => d.filtOf n == d.clusterTemp k).getD (((d.goodSensors k).head?).getD (3 * k))

/-- Throttling begins at THROTTLE in any cluster, and ends when every cluster has been below RESUME for 1 s (R387). -/
def Dev.throttle (d : Dev) : Dev :=
  if !d.on PWR_STAT.THROTTLE then
    match (List.range 16).find? fun k => decide (quarter (d.get PLN_THRESH.THROTTLE) ≤ d.clusterTemp k) with
    | none => d
    | some k =>
      let d := (d.set PWR_STAT.THROTTLE 1).irqOwner pwrPage 1
      let d : Dev := { d with pln := { d.pln with coolT0 := none } }
      if d.pln.st = .deep then d else d.raise 8 0x60 0 (d.hotSensor k) []
  else
    let cool := (List.range 16).all fun k => decide (d.clusterTemp k < quarter (d.get PLN_THRESH.RESUME))
    let since := if cool then some (d.pln.coolT0.getD d.up) else none
    let d : Dev := { d with pln := { d.pln with coolT0 := since } }
    match since with
    | none => d
    | some t => if t + secT0 ≤ d.up then
        (({ d with pln := { d.pln with coolT0 := none } } : Dev).set PWR_STAT.THROTTLE 0).calPump 32 else d

/-- The automatic wake from DEEP, to DROWSE: AUTO_WAKE set, every sensor in use below RESUME for WAKE_S, and no hardware
trip (R389). -/
def Dev.autoWake (d : Dev) : Dev :=
  if d.pln.st != .deep || d.pln.going.isSome || d.pln.hwTripped then d
  else
    let cool := (List.range 48).all fun n => d.faulty n || decide (d.filtOf n < quarter (d.get PLN_THRESH.RESUME))
    let since := if cool then some (d.pln.belowT0.getD d.up) else none
    let d : Dev := { d with pln := { d.pln with belowT0 := since } }
    match since with
    | none => d
    | some t => if d.on PLN_CFG.AUTO_WAKE && t + d.get PLN_CFG.WAKE_S * secT0 ≤ d.up then d.deepLeave .drowse else d

/-- Caliper or a self-test command needs the cluster (R382). -/
def Dev.clusterNeeded (d : Dev) (k : Nat) : Bool :=
  ((d.cal.queue ++ d.cal.auto).any fun c => c.slot == k)
    || (match d.bist.cmd with | none => false | some c => c.op != 3 && !c.tgt.trunk && c.tgt.cluster == k)

/-- The device is in ACTIVE with no transition: clusters are gated and woken one by one. -/
def Dev.gatingOn (d : Dev) : Bool := d.pln.st == .active && d.pln.going.isNone && d.boot.done.contains 8

/-- Gated clusters that Caliper or self-test needs wake (R382). -/
def Dev.needWake (d : Dev) : Dev :=
  if !d.gatingOn then d
  else (List.range 16).foldl (fun d k =>
    if d.get (CL_STATE.PWR k) == 0 && d.clusterNeeded k && !d.clFailed k then d.wakeAsk k else d) d

/-- Idle clusters are gated: with AUTO_GATE after GATE_MS, with ENABLE of the control page clear at once (R382, R352). -/
def Dev.gateIdle (d : Dev) : Dev :=
  if !d.gatingOn then d
  else (List.range 16).foldl (fun d k =>
    if d.get (CL_STATE.PWR k) != 2 then d
    else if !d.clusterIdle k || d.clusterNeeded k then d.modCl k fun c => { c with idleT0 := 0 }
    else
      let since := if (d.cl k).idleT0 = 0 then d.up else (d.cl k).idleT0 - 1
      let d := d.modCl k fun c => { c with idleT0 := since + 1 }
      if !d.on (PAGE_CTRL.ENABLE (clu k)) || (d.on PLN_CFG.AUTO_GATE && since + d.get PLN_CFG.GATE_MS * msT0 ≤ d.up)
      then d.gatingBegin k else d) d

/-- Tu of the oldest user table of a cluster, of a generator, a route, an interpolator or a TMU path, in 1/64 °C (R259). -/
def Dev.oldestTu (d : Dev) (k : Nat) : Option Int :=
  let chs := d.phys.flatMap fun ((key, x) : Nat × Phys) =>
    if key / 68 != k then []
    else (((List.range 6).filter fun e => x.hasUser e).map fun e => (tget (fun _ => 0) x.made e, x.tuOf e))
      ++ x.userPath.filterMap fun ((_, v) : Nat × Option PathSet) => v.map fun q => (q.made, q.tu)
  let tmus := d.tmus.flatMap fun ((key, x) : Nat × Tmu) =>
    if key / 34 != k then []
    else (x.cdMade.map fun ((i, m) : Nat × Nat) => (m - 1, tget (fun _ => 0) x.cdTu i))
      ++ x.pathUser.filterMap fun ((_, v) : Nat × Option (Int × Int × Nat)) => v.map fun q => (q.2.2, q.2.1)
  ((chs ++ tmus).foldl (fun (best : Option (Nat × Int)) q =>
    match best with | none => some q | some b => if q.1 < b.1 then some q else best) none).map Prod.snd

/-- Plinth queues automatic Caliper runs where a cluster's temperature has moved by TEMP_DELTA (R259); throttling suspends
them (R387). -/
def Dev.autoCal (d : Dev) : Dev :=
  if !d.on CAL_CTRL.AUTO || d.on PWR_STAT.THROTTLE || !d.boot.done.contains 8 || d.pln.st == .deep then d
  else
    let ks := (List.range 16).filter fun k => !d.autoWaits k && !d.clFailed k && d.powered k && (match d.oldestTu k with
      | none => false
      | some tu => decide (16 * d.get CAL_CTRL.TEMP_DELTA ≤ ((d.cl k).temp - tu).natAbs))
    d.autoQueue ks

/-- Plinth's operating time in whole seconds, and TB_OP_HOURS (R40). -/
def Dev.opTime (d : Dev) : Dev :=
  let n := (d.up - d.pln.opT0) / secT0
  let d : Dev := { d with pln := { d.pln with opSeconds := d.pln.opSeconds + n, opT0 := d.pln.opT0 + n * secT0 } }
  d.set TB_OP_HOURS.HOURS (d.pln.opSeconds / 3600 % 0x100000000)

/-- An iteration is due. -/
def Dev.iterDue (d : Dev) : Bool :=
  d.pln.running && (d.pln.iterT0 == 0 || decide (d.pln.iterT0 - 1 + d.get PLN_CFG.PERIOD_US * usT0 ≤ d.up))

/-- One iteration: sample, filter and decide, in the order trip, throttle, wake, gate, Caliper; a trip ends it (R386). The
Patina log has a command of its own, PATINA_APPEND. -/
def Dev.iteration (d : Dev) (x : Samples) : Dev :=
  if !d.iterDue then d
  else
    let d : Dev := { d with pln := { d.pln with iterT0 := d.up + 1 } }
    let d := d.opTime.sampleAll x
    let d := ((List.range 48).foldl Dev.judgeSensor d).tempsSet.countSupplies
    match (if d.pln.st == .deep || d.pln.going == some .deep || d.pln.tripped then none else d.tripCause) with
    | some (cause, n) => d.trip cause n
    | none => d.throttle.autoWake.needWake.gateIdle.autoCal

/-- PLINTH_ITERATION (R386 to R389). -/
def execPlinthIteration (x : Samples) (s : State) : Result := s.on fun d => d.iteration x

/-- HARDWARE_TRIP (R387): power goes from all but the always-on island, without orderly steps; the wake shows HW_TRIP. What
FAULTS returns until then is not stated: free values. -/
def State.hardTrip (s : State) (what : Nat) : State :=
  if !s.toDev.boot.aonOut then s
  else
    let s := s.devReset
    let d := s.toDev.logTrip (if what < 48 then 0 else 1) what (s.toDev.filtOf what)
    let (x, d) := d.draw
    let (y, d) := d.draw
    let d : Dev := { d with pln := { d.pln with
      st := .deep, going := none, hwTripped := true, tripped := true, full := true, deepSum := some (x, y) } }
    { s with toDev := d.showPower.powerHeld d.pln.held.length }

/-- HARDWARE_TRIP (R387). -/
def execHardwareTrip (what : BitVec 6) (s : State) : Result := .next (s.hardTrip what.toNat)

/-! ### Registers (15) -/

/-- A write of PLN_CFG, PLN_THRESH, PLN_FILT or PLN_SUP_WIN, with its values taken into range. -/
def Dev.plnWrite (d : Dev) (ss off : Nat) (val : Word) : Dev :=
  d.hostWrite ss pwrPage off [val] .ownPwr false fun d =>
    let d := d.plainWrite ss pwrPage off val
    if off = 0x108 then
      let d := d.set PLN_CFG.PERIOD_US (max 100 (min 1000 (d.get PLN_CFG.PERIOD_US)))
      (d.set PLN_CFG.GATE_MS (max 1 (d.get PLN_CFG.GATE_MS))).set PLN_CFG.WAKE_S (max 1 (d.get PLN_CFG.WAKE_S))
    else if off = 0x10C then
      let t := d.get PLN_THRESH.THROTTLE
      let d := if d.get PLN_THRESH.RESUME < t then d else d.set PLN_THRESH.RESUME (t - 4)
      d.set PLN_THRESH.TRIP (min 428 (d.get PLN_THRESH.TRIP))
    else if off = 0x110 then
      (d.set PLN_FILT.KT (min 10 (d.get PLN_FILT.KT))).set PLN_FILT.KS (min 10 (d.get PLN_FILT.KS))
    else d.set PLN_SUP_WIN.PCT (min 7 (d.get PLN_SUP_WIN.PCT))

/-- A write of one word of SENS_FAULTY: sensors written 1 return to use, and their comparisons begin anew (R386). The low
word is held until the high word is written (R10). -/
def Dev.sensFaultyWord (d : Dev) (ss off : Nat) (val : Word) : Dev :=
  d.hostWrite ss sensPage off [val] .owner false fun d =>
    let was := d.get SENS_FAULTY.FAULTY
    let d := d.plainWrite ss sensPage off val
    let back := (List.range 48).filter fun n => was / 2 ^ n % 2 == 1 && !d.faulty n
    { d with pln := { d.pln with odd := back.foldl (fun t n => tput (fun _ => 0) t n 0) d.pln.odd } }

/-- SENS_FAULTY_WRITE (R386). -/
def execSensFaultyWrite (ss : Sess) (val : DWord) (s : State) : Result := s.on fun d =>
  (d.sensFaultyWord ss 0x108 (val.setWidth 32)).sensFaultyWord ss 0x10C ((val >>> 32).setWidth 32)

end Sys2Proof.Machine
end

