-- ==== Sys2Proof/Machine/Mailbox.lean ====
section
/-! DEFINITION. The Plinth mailbox (R390) and Plinth's firmware images (R391). -/

namespace Sys2Proof.Machine

/-! ### Requests and replies (R390) -/

/-- A reply goes to its path: the SMBus, or the response registers with DONE and the owner's interrupt. -/
def Dev.mboxAnswer (d : Dev) (who : Option Nat) (req : List Byte) (status : Nat) (payload : List Byte) : Dev :=
  let bytes := [req.getD 0 0 + 0x80, req.getD 1 0, BitVec.ofNat 8 status] ++ payload
  match who with
  | none => { d with pln := { d.pln with mboxRsp := bytes } }
  | some _ =>
    let d := (List.range 64).foldl (fun d w =>
      d.setReg (PLN_MBOX_RSP w) (BitVec.ofNat 32 (leNat ((bytes.drop (4 * w)).take 4)))) d
    ((d.set PLN_MBOX_CTRL.RSP_LEN bytes.length).stick PLN_MBOX_CTRL.DONE).irqOwner pwrPage 2

/-- A request of the SMBus takes the mailbox; a session's request in wait receives BUSY (R390). -/
def Dev.mboxFromSmb (d : Dev) (req : List Byte) : Dev :=
  let d := match d.pln.mbox with
    | some (old, some ss) => d.mboxAnswer (some ss) old 1 []
    | _ => d
  { d with pln := { d.pln with mbox := some (req, none), mboxRsp := [] } }

/-- GO: the first LEN bytes of the request registers; while a request waits, the session receives BUSY (R390). -/
def Dev.mboxGo (d : Dev) (ss : Nat) : Dev :=
  let req := ((List.range 64).flatMap fun w => leBytes 4 (d.reg (PLN_MBOX_REQ w)).toNat).take (d.get PLN_MBOX_CTRL.LEN)
  if d.pln.mbox.isSome then (d.mboxAnswer (some ss) req 1 []).askAgain 0xE120 ss 0
  else { d with pln := { d.pln with mbox := some (req, some ss) } }

/-- A write of PLN_MBOX_CTRL: GO submits the first LEN bytes of the request registers; while a request waits, the session
receives BUSY (R390). -/
def Dev.mboxCtrlWrite (d : Dev) (ss : Nat) (val : Word) : Dev :=
  d.cmdWrite ss pwrPage 0x120 val (wbit val 8) fun d => d.mboxGo ss

/-- Plinth serves its mailbox: while an image runs, and in recovery mode. -/
def Dev.mboxServes (d : Dev) : Bool := d.pln.running || d.pln.recovery

/-- The request in wait where it has the given OP, once Plinth serves it. -/
def Dev.mboxTake (d : Dev) (op : Nat) : Option (List Byte × Option Nat) :=
  match d.pln.mbox with
  | some (req, who) => if d.mboxServes && (req.getD 0 0).toNat == op then some (req, who) else none
  | none => none

/-- The request in wait is answered; a GO that met it in this fabric cycle submits again (R20). -/
def Dev.mboxEnd (d : Dev) (who : Option Nat) (req : List Byte) (status : Nat) (payload : List Byte) : Dev :=
  (({ d with pln := { d.pln with mbox := none } } : Dev).mboxAnswer who req status payload).startAgain 0xE120
    fun d ss _ => d.mboxGo ss

/-- MBOX_INVALID_OP: an OP that the table does not have (R390). -/
def execMboxInvalidOp (s : State) : Result := s.on fun d =>
  match d.pln.mbox with
  | some (req, who) =>
    let op := (req.getD 0 0).toNat
    if d.mboxServes && (op == 0 || decide (6 < op)) then d.mboxEnd who req 2 [] else d
  | none => d

/-- GET_STATE (R390): one byte for each. The cause of a trip that has not happened is not stated: a free value. -/
def Dev.mboxState (d : Dev) : Dev :=
  match d.mboxTake 1 with
  | none => d
  | some (req, who) =>
    let (x, d) := d.draw
    let cause := match d.pln.tripLog with | r :: _ => r.cause | [] => x.toNat % 256
    let b := fun (n : Nat) => BitVec.ofNat 8 n
    d.mboxEnd who req 0 [b (d.get SEC_STAT.LIFECYCLE), b (d.get SEC_STAT.DBG_LEVEL), b (d.get PWR_STAT.STATE),
      b (d.get PWR_STAT.THROTTLE), b cause]

/-- MBOX_GET_STATE (R390). -/
def execMboxGetState (s : State) : Result := s.on Dev.mboxState

/-- TRIP_LOG (R388, R390): index 0 is the newest record; one that the log does not hold is INVALID. -/
def Dev.mboxTrips (d : Dev) : Dev :=
  match d.mboxTake 4 with
  | none => d
  | some (req, who) =>
    match req[2]? with
    | none => d.mboxEnd who req 2 []
    | some i => match d.pln.tripLog[i.toNat]? with
      | none => d.mboxEnd who req 2 []
      | some r => d.mboxEnd who req 0 (leBytes 24 (Config.tripRecord r.opSeconds r.cause r.what r.value))

/-- MBOX_TRIP_LOG (R388, R390). -/
def execMboxTripLog (s : State) : Result := s.on Dev.mboxTrips

/-- PATINA_READ (R40, R390). -/
def Dev.mboxPatina (d : Dev) (nvm : List Host.Cell) : Dev :=
  match d.mboxTake 5 with
  | none => d
  | some (req, who) =>
    let i := leNat ((req.drop 2).take 4)
    if d.retired then d.mboxEnd who req 3 []
    else if req.length < 6 || 65536 ≤ i then d.mboxEnd who req 2 []
    else d.mboxEnd who req 0 (readBytes nvmDefault nvm (patinaBase + 32 * i) 32)

/-- MBOX_PATINA_READ (R390). -/
def execMboxPatinaRead (s : State) : Result := s.on fun d => d.mboxPatina s.nvm

/-- SET_WAKE (R390): in SECURED a session needs attribute M. -/
def Dev.mboxWake (d : Dev) : Dev :=
  match d.mboxTake 6 with
  | none => d
  | some (req, who) =>
    let low := match who with | none => false | some ss => d.get SEC_STAT.LIFECYCLE == 2 && d.attr ss != 2
    if d.retired || low then d.mboxEnd who req 3 []
    else match req[2]?, req[3]? with
      | some a, some w =>
        let d := (d.set PLN_CFG.AUTO_WAKE (b2n (a != 0))).set PLN_CFG.WAKE_S (max 1 w.toNat)
        d.mboxEnd who req 0 []
      | _, _ => d.mboxEnd who req 2 []

/-- MBOX_SET_WAKE (R390). -/
def execMboxSetWake (s : State) : Result := s.on Dev.mboxWake

/-! ### Firmware images (R391) -/

/-- Base of an image in NVM, and its size (R27). -/
def fwBase (isB : Bool) : Nat := if isB then 0x540000 else 0x440000
abbrev fwSize : Nat := 0x100000

/-- Plinth knows of an image. -/
def Plinth.setImage (p : Plinth) (isB : Bool) (x : FwImage) : Plinth := if isB then { p with fwB := x } else { p with fwA := x }

/-- FW_STAGE: the first chunk erases the image that is not running, each is written at its offset (R390, R391); the request waits
for another block's NVM operation (R28). A worn sector holds free values instead (R426). -/
def State.fwStage (s : State) (ok : Bool) : State :=
  match s.toDev.mboxTake 2 with
  | none => s
  | some (req, who) =>
    let off := leNat ((req.drop 2).take 4)
    let data := req.drop 6
    if s.toDev.retired then { s with toDev := s.toDev.mboxEnd who req 3 [] }
    else if data.isEmpty || 240 < data.length || fwSize < off + data.length then
      { s with toDev := s.toDev.mboxEnd who req 2 [] }
    else if !s.toDev.plinthMay then s
    else
      let isB := !s.pln.imageB
      let nvm := if s.pln.staging then s.nvm else clearBytes s.nvm (fwBase isB) fwSize
      let d : Dev := { s.toDev with pln := { s.pln.setImage isB {} with staging := true }, free := s.free + b2n !ok }
      let put := if ok then data else (Config.failedWrite s.free data).take data.length
      { s with toDev := d.mboxEnd who req 0 [], nvm := writeBytes nvmDefault nvmSize nvm (fwBase isB + off) put }

/-- MBOX_FW_STAGE (R391). -/
def execMboxFwStage (s : State) (ok : Bool := true) : Result := .next (s.fwStage ok)

/-- The image staged passes: MAGIC, LENGTH, CRC, signature, and in SECURED its VERSION (R391). -/
def State.fwOk (s : State) (isB : Bool) : Bool :=
  let base := fwBase isB
  let word := fun (o : Nat) => leNat (readBytes nvmDefault s.nvm (base + o) 4)
  let len := word 0xC
  let body := if len ≤ fwSize - 256 then readBytes nvmDefault s.nvm (base + 0x100) len else []
  word 0 == 0x504C4E46 && decide (len ≤ fwSize - 256) && crc32 body == word 0x10
    && Config.fwSigned (readBytes nvmDefault s.nvm base 0x14 ++ body) (readBytes nvmDefault s.nvm (base + 0x14) 96)
    && (s.toDev.get SEC_STAT.LIFECYCLE != 2 || decide (s.toDev.get PLN_FW.MIN_VERSION ≤ word 4))

/-- FW_COMMIT: an image that passes gets the next SEQ and starts; another leaves the running one in force (R391). Where the
sector that takes SEQ is worn, the read-back fails and the reply is VERIFY (R426). -/
def State.fwCommit (s : State) (ok : Bool) : State :=
  match s.toDev.mboxTake 3 with
  | none => s
  | some (req, who) =>
    let isB := !s.pln.imageB
    if s.toDev.retired then { s with toDev := s.toDev.mboxEnd who req 3 [] }
    else if !s.toDev.plinthMay then s
    else
      let s : State := { s with pln := { s.pln with staging := false } }
      if !s.fwOk isB then { s with toDev := s.toDev.mboxEnd who req 4 [] }
      else
        let version := leNat (readBytes nvmDefault s.nvm (fwBase isB + 4) 4)
        let seq := (s.pln.image s.pln.imageB).seq + 1
        if !ok then
          { s with
            toDev := { s.toDev.mboxEnd who req 4 [] with free := s.free + 1 }
            nvm := writeBytes nvmDefault nvmSize s.nvm (fwBase isB + 8) ((Config.failedWrite s.free (leBytes 4 seq)).take 4) }
        else
        let secured := s.toDev.get SEC_STAT.LIFECYCLE == 2
        let d : Dev := { s.toDev with pln := { s.pln.setImage isB { valid := true, version, seq } with
          raiseMin := if secured then some version else none } }
        let d := d.mboxEnd who req 0 (BitVec.ofNat 8 (b2n isB) :: leBytes 4 version)
        { s with toDev := d.imageStart isB false, nvm := writeBytes nvmDefault nvmSize s.nvm (fwBase isB + 8) (leBytes 4 seq) }

/-- MBOX_FW_COMMIT (R391). -/
def execMboxFwCommit (s : State) (ok : Bool := true) : Result := .next (s.fwCommit ok)

end Sys2Proof.Machine
end

