-- ==== Sys2Proof/Machine/View.lean ====
section
/-! DEFINITION. What a read of BAR0 shows (R349 to R354): the common registers, the registers that show typed state, the
views that R22, R353, R4 and the chapters limit, and the windows without a common layout. -/

namespace Sys2Proof.Machine

/-! ### Common registers (R351) -/

/-- PAGE_STAT.BUSY: the block has work in progress (R351, R352). DESIGN CHOICE, log entry 12: what counts as work. -/
def Dev.pageBusy (d : Dev) (pg : Page) : Bool :=
  match pg with
  | .dev n =>
    if n.val = 3 then !d.cal.queue.isEmpty || !d.cal.auto.isEmpty || !d.cal.jobs.isEmpty || d.cal.store.isSome
    else if n.val = 4 then !d.pe.queue.isEmpty
    else if n.val = 5 then d.slicesOn != 0 || d.bist.cmd.isSome || !d.bist.writeQ.isEmpty
    else if n.val = 6 then !d.flt.queue.isEmpty
    else if n.val = 7 then d.on SEC_STAT.LC_BUSY
    else if n.val = 8 then d.pln.going.isSome || d.pln.mbox.isSome
    else if n.val = 10 then d.ringList.any fun x => x.2.out != 0
    else if n.val = 11 then !d.nvmQ.isEmpty
    else if n.val = 13 then d.sched.wait.any fun (x : Nat × List Xfer) => !x.2.isEmpty
    else false
  | .ctl k => d.get (CL_STATE.PWR k) % 2 == 1
  | .seq k => (d.cl k).load.isSome || (d.cl k).active.isSome || (d.lanesOf k).any fun L => d.progBusy L
  | .arm k => !(d.cl k).stage.isEmpty || !(d.cl k).events.isEmpty
  | .pool k => !(d.cl k).queue.isEmpty || decide ((d.idlePos k).length < d.validPos k)
  | .freq k => d.freqState k != 0
  | .ch k p => decide (p.val < 64) && d.progBusy (64 * k + p)
  | .tmu k t => d.tmuState k t != 0

/-- PAGE_OWNER: of a claimable page as recorded, of channel pages 0 to 63 the holder, else nothing (R353). -/
def Dev.ownerWord (d : Dev) (pg : Page) : Word :=
  match pg with
  | .ch k p =>
    match (if p.val < 64 then (d.lane (64 * k + p)).holder else none) with
    | none => 0
    | some s => BitVec.ofNat 32 (s + 256 * (d.lane (64 * k + p)).attr + 1024)
  | _ => if pg.claimable then d.reg (PAGE_OWNER pg.base) else 0

/-- Key of PAGE_IRQ_EN or PAGE_IRQ_STAT in a session's view (R362). -/
def irqRegKey (ss : Nat) (pg : Page) (off : Nat) : Nat :=
  if pg.perIrq then sessKey ss + (pg.base + off) else pg.base + off

/-- A common register (R351, R352, R22). -/
def Dev.commonWord (d : Dev) (ss : Nat) (pg : Page) (off : Nat) : Word :=
  if off = 8 then (if pg.fixedCtrl then 1 else d.reg (PAGE_CTRL pg.base))
  else if off = 0xC then
    (PAGE_STAT.BUSY 0).into ((PAGE_STAT.READY 0).into (d.reg (PAGE_STAT pg.base)) (b2n (d.ready pg))) (b2n (d.pageBusy pg))
  else if off = 0x10 then d.ownerWord pg
  else if off = 0x18 || off = 0x1C then d.reg (irqRegKey ss pg off)
  else d.reg (pg.base + off)

/-! ### Device pages -/

/-- The low or the high word of a 64-bit value. -/
def half (high : Bool) (v : Nat) : Word := BitVec.ofNat 32 (if high then v / 0x100000000 else v)

/-- The lock-group registers and EPOCH_COARSE (R44, R49). -/
def Dev.tbView (d : Dev) (ss off : Nat) : Option Word :=
  let g := d.lg (d.lgSel ss)
  if off = 0x110 || off = 0x114 then some (half (off == 0x114) d.epoch)
  else if off = 0x184 then some (BitVec.ofNat 32 (g.word (d.get (TB_LG_SEL.WORD ss))))
  else if off = 0x188 then some (BitVec.ofNat 32 (4 * g.startMode + 256 * g.ctx))
  else if off = 0x18C then some (d.lgStat ss)
  else if off = 0x190 || off = 0x194 then some (half (off == 0x194) g.startReg)
  else none

/-- What CAL_UNIT_INFO shows of a TMU's paths together: the result of the last run of one, the most failures of any, and
whether all are stored (log entry 79). -/
def Dev.tmuPathInfo (d : Dev) (u : CalUnit) : UnitInfo :=
  let all := d.cal.info.filter fun ((n, _) : Nat × UnitInfo) => n / 16384 == u.key && n % 16384 != 16383
  { last := (d.unitInfo { u with sub := 16383 }).last
    fails := all.foldl (fun m q => max m q.2.fails) 0
    stored := (d.tmu u.cluster u.unit).pathUser.all fun q => (d.unitInfo { u with sub := q.1 }).stored }

/-- The newest of a TMU's user path values: its Tu (log entry 79). -/
def Tmu.pathNewest (x : Tmu) : Option (Int × Nat) :=
  x.pathUser.foldl (fun (b : Option (Int × Nat)) q => match q.2, b with
    | some v, some y => if y.2 ≤ v.2.2 then some (v.2.1, v.2.2) else b
    | some v, none => some (v.2.1, v.2.2)
    | none, _ => b) none

/-- CAL_UNIT_INFO of the unit that a session selects; of a spare's path set, that of its present route. -/
def Dev.unitWord (d : Dev) (ss : Nat) : Word :=
  let u : CalUnit := { cluster := d.get (CAL_UNIT_SEL.CLUSTER ss), tmu := d.on (CAL_UNIT_SEL.TMU ss),
                       unit := d.get (CAL_UNIT_SEL.UNIT ss), part := d.get (CAL_UNIT_SEL.PART ss) }
  let u := if !u.tmu && u.part = 6 then { u with sub := d.routeLane u.cluster u.unit } else u
  let i := if u.tmu && u.part = 6 then d.tmuPathInfo u else d.unitInfo u
  let (user, tu, made) : Bool × Int × Bool :=
    if u.tmu then
      let x := d.tmu u.cluster u.unit
      if u.part = 6 then (x.pathNewest.isSome, (x.pathNewest.map Prod.fst).getD 0, decide (u.unit < 34))
      else (tget (fun _ => 0) x.cdMade u.part != 0, tget (fun _ => 0) x.cdTu u.part, decide (u.unit < 34 && u.part < 2))
    else if u.part = 7 then (false, 0, false)
    else
      let x := d.ph u.cluster u.unit
      let made := decide (u.unit < 68) && d.get (CH_PHYS_STAT.CAL_SRC u.cluster u.unit) != 0
      if u.part = 6 then ((x.pathOf u.sub).isSome, ((x.pathOf u.sub).map PathSet.tu).getD 0, made)
      else (x.hasUser u.part, x.tuOf u.part, made)
  BitVec.ofNat 32 ((if user then 2 else if made then 1 else 0) + 4 * i.fails + 16 * i.last
    + 256 * (if user then (BitVec.ofInt 16 tu).toNat else 0) + 2 ^ 24 * b2n (user && i.stored))

/-- PE_PLAN_DATA of the lane that a session selects in its last Maquette (R273). -/
def Dev.planWord (d : Dev) (ss : Nat) : Word :=
  match (tget (fun _ => ({} : Plan)) d.pe.plans ss).lanes.find? fun x => x.lane == d.get (PE_PLAN_SEL.LCH ss) with
  | none => BitVec.ofNat 32 (31 * 256)
  | some x =>
    BitVec.ofNat 32 (x.phys + 128 * b2n (decide (64 ≤ x.phys)) + 256 * x.result + 2 ^ 13 * x.tmuMin + 2 ^ 17 * b2n x.classMet)

/-- PE_LANE_INFO of the lane that a session selects (10). -/
def Dev.laneWord (d : Dev) (ss : Nat) : Word :=
  let L := d.get (PE_LANE_SEL.LCH ss)
  let l := d.lane L
  let moving := (d.cl (L / 64)).swap.any fun w => w.lane == L % 64
  match l.holder with
  | none => 0
  | some h =>
    let st := if l.unplaced then 2 else if moving then 3 else 1
    BitVec.ofNat 32 (st + 4 * h + 256 * b2n l.classMet + 512 * l.cls + 2048 * l.tmuForce
      + 2 ^ 15 * b2n (decide (l.tmuForce < l.tmuMin)) + 2 ^ 16 * l.egMask)

/-- UNPLACED lanes that satisfy `p`. -/
def Dev.unplacedCount (d : Dev) (p : Nat → Bool) : Nat :=
  (d.lanes.filter fun ((L, l) : Nat × Lane) => l.unplaced && p L).length

/-- The ring that a session's window shows (R337, R338). -/
def Dev.fltView (d : Dev) (ss off : Nat) : Option Word :=
  let r := d.fltRing ss
  if off = 0x104 then some (FLT_STAT.QUEUED.into (d.reg FLT_STAT) (min 4095 d.flt.queue.length))
  else if off = 0x10C then some (BitVec.ofNat 32 r.head)
  else if off = 0x110 then some (BitVec.ofNat 32 r.tail)
  else if off = 0x114 then some (BitVec.ofNat 32 (r.lost + 65536 * b2n r.lostBit))
  else if off = 0x118 then some (BitVec.ofNat 32 d.flt.srcLost)
  else if off = 0x120 || off = 0x124 then some (half (off == 0x124) (d.stickySum false))
  else if off = 0x128 || off = 0x12C then some (half (off == 0x12C) (d.stickySum true))
  else if off = 0x154 then some (d.fltSrcInfo ss)
  else none

/-- Rights of a session on the selected line (R222): an owner, or SHARE with an attribute not below the line's. -/
def Dev.lineReadable (d : Dev) (ss L : Nat) : Bool :=
  let o := (d.line L).own
  d.isOwn ss o.owner || (o.owner.isSome && o.share && decide (o.attr ≤ d.attrHeld ss))

/-- The global Armature's registers (08). -/
def Dev.glView (d : Dev) (ss off : Nat) : Option Word :=
  let L := d.get (GL_SEL.LINE ss)
  let x := d.line L
  if off = 0x10C then
    let lg := match x.lg with | none => 0 | some g => 1024 + 2048 * g
    if d.lineReadable ss L then
      let drv := match x.driver with | none => 0 | some (k, o) => 2 ^ 17 + 2 ^ 18 * k + 2 ^ 22 * o
      some (BitVec.ofNat 32 (x.own.owner.getD 0 + 64 * b2n x.own.owner.isSome + 128 * x.own.attr + 512 * b2n x.own.share
        + lg + drv))
    else some (BitVec.ofNat 32 lg)
  else if off = 0x114 then some (if d.lineReadable ss L then BitVec.ofNat 32 x.events else 0)
  else if 0x200 ≤ off && off < 0x400 then
    let c := (off - 0x200) / 4
    some (if d.isOwn ss (d.gcolOwn c).owner then d.reg (GM_COL_STAT c) else 0)
  else if 0x400 ≤ off && off < 0x800 then
    let n := (off - 0x400) / 4
    some (if d.isOwn ss (d.gcolOwn (n / 2)).owner then tget (fun _ => 0) d.gmx n else 0)
  else none

/-- The registers of a device page that show typed state; `none` where the register itself is read. -/
def State.devView (s : State) (ss n off : Nat) : Option Word :=
  let d := s.toDev
  if n = 1 then d.tbView ss off
  else if n = 3 then (if off = 0x144 then some (d.unitWord ss) else none)
  else if n = 4 then
    if off = 0x104 then some (PE_STAT.UNPLACED.into (d.reg PE_STAT) (d.unplacedCount fun _ => true))
    else if off = 0x150 then some (d.planWord ss)
    else if off = 0x158 then some (d.laneWord ss)
    else none
  else if n = 5 then
    if off = 0x104 then some d.bistStat
    else if off = 0x110 || off = 0x114 then some (d.bistSlice ((off - 0x110) / 4))
    else if 0x124 = off || off = 0x128 then some (d.bistLogWord ss ((off - 0x124) / 4))
    else if off = 0x130 || off = 0x134 then some (d.bistLogWord ss (2 + (off - 0x130) / 4))
    else if off = 0x164 then some (d.bistTgtWord ss)
    else none
  else if n = 6 then
    if 0x800 ≤ off then some (half (off % 8 == 4) (s.fltWin ss ((off - 0x800) / 8))) else d.fltView ss off
  else if n = 7 then (if off = 0x10C then some (SEC_AUTH.LOCK_S.into (d.reg SEC_AUTH) d.lockLeft) else none)
  else if n = 9 then
    if off = 0x100 then some (d.sessSelf ss)
    else if off = 0x108 then some (d.sessInfo ss)
    else if off = 0x120 then some (d.irqDev ss)
    else if h : (off - 0x140) / 16 < 16 then
      if 0x140 ≤ off then some (d.irqCl ss ⟨(off - 0x140) / 16, h⟩ ((off - 0x140) / 4 % 4)) else none
    else none
  else if n = 10 then
    if 0x120 ≤ off && off < 0x140 then
      some (if off = 0x120 then (d.descOf ss).getD 0 0 else (d.sn ss).descCap.getD ((off - 0x120) / 4) 0)
    else if off = 0x148 then some (BitVec.ofNat 32 d.freeDescs)
    else none
  else if n = 11 then
    if off = 0x100 then some d.nvmStat else if off = 0x110 then some (d.nvmCmdStat ss) else none
  else if n = 12 then d.glView ss off
  else if n = 13 then
    if off = 0x118 || off = 0x11C then some (half (off == 0x11C) (d.flowBytesShown ss))
    else if off = 0x120 then some (BitVec.ofNat 32 (min 0xFFFF (d.flowWaitShown ss)))
    else none
  else if n = 14 then
    if off = 0x104 then
      let i := d.get (SENS_SEL.SENSOR ss)
      some (BitVec.ofNat 32 (if i < 57 then
        (BitVec.ofInt 16 (d.sensOut i)).toNat + 65536 * (BitVec.ofInt 16 (d.rawOf i)).toNat else 0))
    else none
  else none

/-! ### Cluster pages -/

/-- Arbiter and pool registers (06, 11). -/
def Dev.poolView (d : Dev) (k off : Nat) : Option Word :=
  if off = 0x104 then
    some (BitVec.ofNat 32 (d.validPos k + 64 * (d.validPos k - (d.idlePos k).length) + 4096 * (d.tmuSpares k).length
      + 16384 * d.get (TMU_POOL_STAT.RING_ERR k)))
  else if off = 0xA04 then
    let held := ((List.range 32).filter fun q => match d.posTmu k q with
      | none => false | some t => d.get (TMU_STAT.ROLE k t) == 2).length
    let aged := ((d.cl k).queue.filter fun r => r.aged).length
    some (BitVec.ofNat 32 ((d.idlePos k).length + 64 * d.unmet k + 4096 * min 3 held + 16384 * min 63 aged))
  else if 0xB40 ≤ off && off < 0xC40 then
    let j := (off - 0xB40) / 4
    let queued := ((d.cl k).queue.filter fun r => r.queue == j).length
    some (BitVec.ofNat 32 (d.inUse k j + 64 * queued + 4096 * d.tmuMin k j))
  else none

/-- Armature control registers: the selected object and the counts of the selected column, which read zero to sessions
that do not own it (08). -/
def Dev.armView (d : Dev) (ss k off : Nat) : Option Word :=
  if off = 0x110 then
    let i := d.get (ARM_OWN_SEL.INDEX ss k)
    let column := d.on (ARM_OWN_SEL.COLUMN ss k)
    let o := if column then d.colOwn k i else d.rowOwn k i
    let lane := if column then decide (i < 256) else decide (i < 128)
    some (BitVec.ofNat 32 (o.owner.getD 0 + 64 * b2n o.owner.isSome + 128 * o.attr + 512 * b2n (!column && o.share)
      + 1024 * b2n lane))
  else if off = 0x11C || off = 0x120 then
    let c := d.get (ARM_CNT_SEL.COLUMN ss k)
    if 256 ≤ c && c < 384 && d.isOwn ss (d.colOwn k c).owner then
      let x := tget (fun _ => ({} : ColCnt)) (d.cl k).cnt c
      some (BitVec.ofNat 32 (if off = 0x11C then x.merge + 65536 * x.events else x.discard))
    else some 0
  else none

/-- The selected entry of a channel's tables (R68, R69); generators 6 and 7 read zeros. -/
def Dev.tblWord (d : Dev) (ss k p : Nat) (second : Bool) : Word :=
  let x := d.ph k p
  let e := d.get (CH_TBL_SEL.EG ss k p)
  let i := d.get (CH_TBL_SEL.INDEX ss k p)
  if 6 ≤ e then 0
  else if d.on (CH_TBL_SEL.TABLE ss k p) then
    (if second then 0 else BitVec.ofNat 32 (BitVec.ofInt 16 (tget (fun _ => 0) x.pd (256 * e + i))).toNat)
  else if 64 ≤ i then 0
  else
    let m := if d.get (CH_PHYS_STAT.CAL_SRC k p) = 0 then 0 else (Config.factoryMask (68 * k + p) e i).toNat
    if second then BitVec.ofNat 32 (m / 2 ^ 32 + 256 * (BitVec.ofInt 16 (tget achievedDefault x.achieved (64 * e + i))).toNat)
    else BitVec.ofNat 32 m

/-- Minutes since the channel's last user calibration; 0xFFFF where there is none (R247). DESIGN CHOICE, log entry 73: a
calibrated channel's count saturates at 0xFFFE, so that 0xFFFF stands for none alone. -/
def Dev.chAge (d : Dev) (k p : Nat) : Nat :=
  if (d.ph k p).userMask = 0 then 0xFFFF
  else min 0xFFFE ((d.opNow - (d.ph k p).made.foldl (fun m q => max m q.2) 0) / 60)

/-- Channel-page registers that show typed state (03, 04, 09). -/
def Dev.chView (d : Dev) (ss k p off : Nat) : Option Word :=
  let L := 64 * k + p
  if 64 ≤ p && off < 0x200 then some 0
  else if off = 0x110 && (d.lane L).freeT0.isSome then some (regReset (LANE_SERVED L))
  else if off = 0x114 then some ((LANE_STAT.CMP_LEVEL L).into (d.reg (LANE_STAT L)) (b2n (d.cmpLevel L (d.lane L).cmp)))
  else if 0x1C4 ≤ off && off < 0x1D4 then
    some (BitVec.ofNat 32 (bits (if off = 0x1C4 then (d.lane L).ctx (d.get (PROG_CTX_SEL.INDEX L)) else (d.lane L).ctxCap)
      (8 * (off - 0x1C4)) 32))
  else if off = 0x214 || off = 0x218 then some (d.tblWord ss k p (off == 0x218))
  else if off = 0x220 then some ((CH_CAL_INFO.CAL_AGE k p).into (d.reg (CH_CAL_INFO k p)) (d.chAge k p))
  else none

/-- TMU-page registers that show typed state (06). -/
def Dev.tmuView (d : Dev) (ss k t off : Nat) : Option Word :=
  if off = 0x100 then
    some ((TMU_STAT.RECENT_FAULTS k t).into (d.reg (TMU_STAT k t)) (min 15 (d.recentFaults k t)))
  else if off = 0x124 then
    let n := 4096 * d.get (TMU_CD_SEL.INTERP ss k t) + d.get (TMU_CD_SEL.INDEX ss k t)
    some (BitVec.ofNat 32 (tget (fun _ => 0) (d.tmu k t).cd n % 2 ^ 18))
  else if off = 0x128 || off = 0x12C then
    let i := (off - 0x128) / 4
    some ((TMU_CD_INFO.CAL_AGE k t i).into (d.reg (TMU_CD_INFO k t i)) (d.cdAge k t i))
  else if off = 0x134 then
    let p := d.get (TMU_PATH_SEL.PHYS ss k t)
    let i := d.get (TMU_PATH_SEL.SIDE ss k t)
    some (BitVec.ofNat 32 (if p < 68 then (d.tmu k t).pathAt i (some p) % 2 ^ 13 else 0))
  else none

/-- Frequency results as the last capture holds them (R204). -/
def Dev.freqView (d : Dev) (ss k off : Nat) : Option Word :=
  let f := d.fq k
  if off = 0x140 then some ((d.freqSet k).1.getD 0 0)
  else if 0x144 ≤ off && off ≤ 0x184 then some (tget (fun _ => 0) f.capture off)
  else if 0x1A4 ≤ off && off < 0x1B4 then
    some (BitVec.ofNat 32 (f.accCap.getD (d.get (FREQ_ACC_SEL.ACC ss k)) 0 / 2 ^ (8 * (off - 0x1A4))))
  else none

/-- The registers of a page that show typed state; `none` where the register itself is read. -/
def State.view (s : State) (ss : Nat) (pg : Page) (off : Nat) : Option Word :=
  let d := s.toDev
  match pg with
  | .dev n => s.devView ss n off
  | .ctl k =>
    if off = 0x104 then
      let w := (CL_STATE.TMU_SPARES_FREE k).into (d.reg (CL_STATE k)) (d.tmuSpares k).length
      let w := (CL_STATE.SPARES_FREE k).into w (d.freeSpares k)
      some ((CL_STATE.UNPLACED k).into w (d.unplacedCount fun L => L / 64 == k))
    else none
  | .seq k => if off = 0x130 then some ((SEQ_SVC_CNT.WINDOW k).into (d.reg (SEQ_SVC_CNT k)) (d.svcWindow k)) else none
  | .arm k => d.armView ss k off
  | .pool k => d.poolView k off
  | .freq k => d.freqView ss k off
  | .ch k p => d.chView ss k p off
  | .tmu k t => d.tmuView ss k t off

/-- A gated cluster answers with PAGE_ID, PAGE_STAT and its control registers; the rest reads zero (R22). -/
def Dev.shadowed (d : Dev) (pg : Page) (off : Nat) : Bool :=
  d.gated pg && !(off == 0 || off == 0xC || (match pg with | .ctl _ => off == 0x100 || off == 0x104 | _ => false))

/-- What a read of a page shows: zero behind an absent capability (R4), in a gated cluster (R22) and at offsets that name
no register (R350). -/
def State.pageWord (s : State) (ss : Nat) (pg : Page) (off : Nat) : Word :=
  let d := s.toDev
  if !d.present pg || d.absent pg off || d.shadowed pg off then 0
  else if off < 0x20 then d.commonWord ss pg off
  else match s.view ss pg off with
    | some w => w
    | none => match rowOf pg off with
      | none => if pg.base = 0 && 0x200 ≤ off && off < 0x300 then
          BitVec.ofNat 32 (capWord (capIds d.opts) ((off - 0x200) / 16) ((off - 0x200) / 4 % 4)) else 0
      | some r => d.reg (r.key pg off ss)

/-! ### Windows -/

/-- The Armature matrix window: a word reads zero to sessions that do not own its column (08). -/
def Dev.mxView (d : Dev) (ss : Nat) (k : Clu) (off : Nat) : Word :=
  let c := off / 32
  if !d.powered k || !d.isOwn ss (d.colOwn k c).owner then 0 else d.mxRaw k c (off / 4 % 8)

/-- The control-store window: the words in force, zero while an image is installed (05). -/
def Dev.csView (d : Dev) (k : Clu) (off : Nat) : Word :=
  if !d.powered k || d.get (SEQ_LOAD_STAT.STATE k) = 4 then 0
  else half (off % 8 == 4) (tget (fun _ => (0 : BitVec 40)) (d.cl k).cs (off / 8)).toNat

/-- The MSI-X table: address and data as written, vector control from the vector's mask (R363). -/
def Dev.msixView (d : Dev) (ss off : Nat) : Word :=
  if 0x200 ≤ off then 0
  else if off % 16 = 12 then BitVec.ofNat 32 (b2n (tget (fun _ => ({} : MsixVec)) (d.sn ss).vecs (off / 16)).masked)
  else d.reg (sessKey ss + (0x3000000 + off))

/-- The MSI-X pending bit array. -/
def Dev.pbaView (d : Dev) (ss off : Nat) : Word :=
  if off = 0 then bitWord 32 fun v => (tget (fun _ => ({} : MsixVec)) (d.sn ss).vecs v).pending else 0

/-- What a 32-bit read of BAR0 shows to session `ss` (R349 to R353). -/
def State.readReg (s : State) (ss addr : Nat) : Word :=
  match placeOf addr with
  | .page pg off => s.pageWord ss pg off
  | .mx k off => s.toDev.mxView ss k off
  | .cs k off => s.toDev.csView k off
  | .msixTable off => s.toDev.msixView ss off
  | .msixPba off => s.toDev.pbaView ss off
  | .reserved => 0

end Sys2Proof.Machine
end

