-- ==== Sys2Proof/Machine/Pages.lean ====
section
/-! DEFINITION. Register pages: PAGE_CTRL and PAGE_OWNER (R352, R353, R376), BLOCK_RESET (R21), the write of any BAR0
register by any path (R349 to R354) and the read with what it captures (R10, R204). -/

namespace Sys2Proof.Machine

/-! ### PAGE_CTRL (R352, R21, R22) -/

/-- The gate of a write of PAGE_CTRL: its owner writes it; on fixed pages it is discarded; a gated cluster takes only
ENABLE of its control page (R352, R22). The write waits as any access does (R226). -/
def Dev.ctrlGate (d : Dev) (ss : Nat) (pg : Page) (val : Word) (enable : Bool) (f : Dev → Dev) : Dev :=
  let wakes := enable && (match pg with | .ctl _ => true | _ => false)
  if !d.acts ss then d
  else if d.waits ss then d.stall ss (pg.base + 8) [val]
  else if tget (fun _ => none) d.pageReset pg.base == some d.cycle then d
  else if d.closed pg 8 || pg.fixedCtrl || !d.present pg || !d.may ss pg .owner || (d.gated pg && !wakes) then
    d.discard ss pg 8
  else f d

/-- ENABLE as written; on a cluster control page setting it requests the wake, and clearing it lets Plinth gate the
cluster once it is idle (R352, R382). -/
def Dev.enableSet (d : Dev) (pg : Page) (en : Bool) : Dev :=
  let d := if en || d.quiesced pg then d else d.uncommand pg
  let d := d.set (PAGE_CTRL.ENABLE pg.base) (b2n en)
  match pg with
  | .ctl k => if en then d.wakeAsk k else d
  | _ => d

/-- QUIESCE as written; it takes effect before the commands of its fabric cycle (R352). -/
def Dev.quiesceSet (d : Dev) (pg : Page) (on : Bool) : Dev :=
  let d := if !on || d.quiesced pg then d else d.uncommand pg
  d.set (PAGE_CTRL.QUIESCE pg.base) (b2n on)

/-- The RW bits of one listed register at their reset values (R352): ENABLE, QUIESCE and PAGE_IRQ_EN of the common
registers; LOCK belongs to the ownership and SEC_OWNER_KEY to the protected record. -/
def resetWord (pg : Page) (off : Nat) (w : Word) : Word :=
  if off = 8 then 1
  else if off = 0x18 then 0
  else if off < 0x20 || (pg.base = 0x7000 && 0x140 ≤ off) then w
  else match rowOf pg off with
    | none => w
    | some r =>
      let rw := BitVec.ofNat 32 r.rw
      (w &&& ~~~ rw) ||| (BitVec.ofNat 32 (pageReset pg off) &&& rw)

/-- The page's RW registers, every session's copies included, at their reset values (R352). -/
def Dev.rwReset (d : Dev) (pg : Page) : Dev :=
  let mine := fun (key : Nat) => decide (pg.base ≤ key % 0x4000000) && decide (key % 0x4000000 < pg.base + 0x1000)
  let d := (d.regs.filter fun ((key, _) : Nat × Word) => mine key).foldl (fun (d : Dev) (x : Nat × Word) =>
    d.setReg x.1 (resetWord pg (x.1 % 0x4000000 - pg.base) x.2)) d
  { d with hold := d.hold.filter fun ((key, _) : Nat × Word) => !mine key }

/-- A source of REFIN as a device without a measurement in hand meets it: free values (R32). -/
def Dev.freeRef (d : Dev) : RefIn × Dev :=
  let (x, d) := d.draw
  let (y, d) := d.draw
  ({ presentMs := x.toNat % 2 ^ 32, phase := y.toInt }, d)

/-- BLOCK_RESET: the page's writes of the same fabric cycle are discarded (R21). Beyond the RW registers, the time base takes the change of SRC as a selection (02), the fault
collector empties its rings (R339), the security page has been written (R374). -/
def Dev.blockReset (d : Dev) (ss : Nat) (pg : Page) : Dev :=
  let d := d.unwritePage pg
  let d : Dev := { d with pageReset := tput (fun _ => none) d.pageReset pg.base (some d.cycle) }
  match pg with
  | .dev n =>
    if n.val = 1 then
      let src := d.get TB_REF_SEL.SRC
      let freq := d.get TB_REF_SEL.FREQ
      let d := d.slewSettle.rwReset pg
      let d : Dev := if d.get TB_STAT.SRC_STATE ≤ 1 then { d with tb := { d.tb with word := 0 } } else d
      if src = 0 then d
      else
        let (ref, d) := d.freeRef
        d.refSelect src freq ref
    else if n.val = 6 then (d.rwReset pg).fltBlockReset
    else if n.val = 7 then (d.secTouch ss).rwReset pg
    else d.rwReset pg
  | _ => d.rwReset pg

/-- The word of a write of PAGE_CTRL that sets ENABLE and QUIESCE so. -/
def ctrlWord (en quiesce : Bool) : Word := BitVec.ofNat 32 (b2n en + 2 * b2n quiesce)

/-- PAGE_ENABLE_WRITE (R352, R22). -/
def execPageEnableWrite (ss : Sess) (pg : Page) (en : Bool) (s : State) : Result :=
  s.on fun d => d.ctrlGate ss pg (ctrlWord en (d.on (PAGE_CTRL.QUIESCE pg.base))) true fun d =>
    d.tracked pg fun d => d.enableSet pg en

/-- PAGE_QUIESCE_WRITE (R352). -/
def execPageQuiesceWrite (ss : Sess) (pg : Page) (on : Bool) (s : State) : Result :=
  s.on fun d => d.ctrlGate ss pg (ctrlWord (d.on (PAGE_CTRL.ENABLE pg.base)) on) false fun d =>
    d.tracked pg fun d => d.quiesceSet pg on

/-- BLOCK_RESET (R352, R21). -/
def execBlockReset (ss : Sess) (pg : Page) (s : State) : Result :=
  s.on fun d => d.ctrlGate ss pg 4 false fun d => d.blockReset ss pg

/-- A write of the whole word: BLOCK_RESET, or ENABLE and QUIESCE; a gated cluster's control page takes ENABLE alone. -/
def Dev.ctrlWrite (d : Dev) (ss : Nat) (pg : Page) (val : Word) : Dev :=
  if wbit val 2 then d.ctrlGate ss pg val false fun d => d.blockReset ss pg
  else d.ctrlGate ss pg val true fun d => d.tracked pg fun d =>
    let d := d.enableSet pg (wbit val 0)
    if d.gated pg then d else d.quiesceSet pg (wbit val 1)

/-! ### PAGE_OWNER (R353, R376) -/

/-- The lifecycle lets the session claim the page: in SECURED a device page takes attribute M, a cluster page S or M; in
RETIRED none (R376). -/
def Dev.claimMay (d : Dev) (ss : Nat) (pg : Page) : Bool :=
  let lc := d.get SEC_STAT.LIFECYCLE
  if d.retired then false
  else if lc = 2 then decide ((if pg.clu?.isSome then 1 else 2) ≤ d.attrHeld ss)
  else true

/-- CLAIM of an unowned claimable page; `none` where the claim is discarded (R353). Claims of one fabric cycle take effect
in the order of R19: one that comes before the claim that took the page has it, and the other is discarded. The page's sources
may make P true for the new owner (R363). -/
def Dev.claim (d : Dev) (ss : Nat) (pg : Page) : Option Dev :=
  let key := PAGE_OWNER pg.base
  let x := tget (fun _ => (0, 0, 0)) d.ports key
  let before := x.1 == d.cycle && decide (d.rank ss < x.2.1) && d.owner pg == some x.2.2.toNat
  if pg.claimable && ((d.owner pg).isNone || before) && d.claimMay ss pg then
    let d := if before then d.discard x.2.2.toNat pg 0x10 else d
    let e := (d.setReg key (BitVec.ofNat 32 (ss + 256 * d.attrHeld ss + 1024))).wrote ss key (BitVec.ofNat 32 ss)
    some (if d.irqP ss pg.vec then e else e.irqAfterWrite ss pg.vec)
  else none

/-- RELEASE by the owner, unless LOCK is set (R353). -/
def Dev.releasePage (d : Dev) (ss : Nat) (pg : Page) : Option Dev :=
  if pg.claimable && (d.owner pg).isSome && d.isOwn ss (d.owner pg) && !d.on (PAGE_OWNER.LOCK pg.base) then
    some (d.pageFree pg.base)
  else none

/-- LOCK by an owner of present attribute M (R353, R357). -/
def Dev.lockPage (d : Dev) (ss : Nat) (pg : Page) (lock : Bool) : Option Dev :=
  if pg.claimable && (d.owner pg).isSome && d.may ss pg .ownM then some (d.set (PAGE_OWNER.LOCK pg.base) (b2n lock)) else none

/-- The word of a write of PAGE_OWNER that sets a command bit and leaves LOCK as it is. -/
def Dev.ownerCmdWord (d : Dev) (pg : Page) (bit : Nat) : Word :=
  BitVec.ofNat 32 (2 ^ bit + 2 ^ 31 * b2n (pg.claimable && d.on (PAGE_OWNER.LOCK pg.base)))

/-- An ownership command passes the gate of the page; one without effect is discarded with REG_DISCARD (R353, R402). -/
def Dev.ownerCmd (d : Dev) (ss : Nat) (pg : Page) (val : Word) (f : Dev → Option Dev) : Dev :=
  d.hostWrite ss pg 0x10 [val] .any false fun d => (f d).getD (d.discard ss pg 0x10)

/-- PAGE_CLAIM (R353, R376). -/
def execPageClaim (ss : Sess) (pg : Page) (s : State) : Result := s.on fun d => d.ownerCmd ss pg (d.ownerCmdWord pg 11) fun d => d.claim ss pg

/-- PAGE_RELEASE (R353). -/
def execPageRelease (ss : Sess) (pg : Page) (s : State) : Result :=
  s.on fun d => d.ownerCmd ss pg (d.ownerCmdWord pg 12) fun d => d.releasePage ss pg

/-- PAGE_LOCK_WRITE (R353). -/
def execPageLockWrite (ss : Sess) (pg : Page) (lock : Bool) (s : State) : Result :=
  s.on fun d => d.ownerCmd ss pg (if lock then 0x80000000 else 0) fun d => d.lockPage ss pg lock

/-- A write of the whole word: CLAIM, then RELEASE, then LOCK where it differs; any part that has no effect is discarded. -/
def Dev.ownerWrite (d : Dev) (ss : Nat) (pg : Page) (val : Word) : Dev :=
  d.hostWrite ss pg 0x10 [val] .any false fun d =>
    let part := fun (on : Bool) (f : Dev → Option Dev) (acc : Dev × Bool) =>
      if on then (match f acc.1 with | some d => (d, acc.2) | none => (acc.1, true)) else acc
    let acc := part (wbit val 11) (fun d => d.claim ss pg) (d, false)
    let acc := part (wbit val 12) (fun d => d.releasePage ss pg) acc
    let locked := pg.claimable && acc.1.on (PAGE_OWNER.LOCK pg.base)
    let acc := part (wbit val 31 != locked) (fun d => d.lockPage ss pg (wbit val 31)) acc
    if acc.2 then acc.1.discard ss pg 0x10 else acc.1

/-! ### Common registers -/

/-- A write of PAGE_IRQ_EN or PAGE_IRQ_STAT in the session's view, and the message that may follow (R362, R363). -/
def Dev.irqWrite (d : Dev) (ss : Nat) (pg : Page) (off : Nat) (val : Word) : Dev :=
  d.hostWrite ss pg off [val] (if pg.perIrq then .any else .owner) false fun d =>
    let key := irqRegKey ss pg off
    let w := if off = 0x18 then val else d.reg key &&& ~~~ (val &&& ~~~ d.freshBits key)
    (d.setReg key w).irqAfterWrite ss pg.vec

/-- PAGE_FLT: the owner clears its bits (R341). -/
def Dev.fltWrite (d : Dev) (ss : Nat) (pg : Page) (val : Word) : Dev :=
  d.hostWrite ss pg 0x14 [val] .owner false fun d =>
    let key := PAGE_FLT pg.base
    d.setReg key (d.reg key &&& ~~~ (val &&& ~~~ d.freshBits key))

/-- A write of a common register (R351). PAGE_ID, PAGE_FEAT and PAGE_STAT hold no writable bit. -/
def Dev.commonWrite (d : Dev) (ss : Nat) (pg : Page) (off : Nat) (val : Word) : Dev :=
  if off = 8 then d.ctrlWrite ss pg val
  else if off = 0x10 then d.ownerWrite ss pg val
  else if off = 0x14 then d.fltWrite ss pg val
  else if off = 0x18 || off = 0x1C then d.irqWrite ss pg off val
  else d.hostWrite ss pg off [val] .any false fun d => d

/-! ### Registers without behaviour of their own -/

/-- No bit of the register can be written. -/
def Row.fixed (r : Row) : Bool := r.rw == 0 && r.w1c == 0 && r.clr.isEmpty && r.cmd == 0

/-- A write of a register that has no behaviour of its own: by whom its chapter lets write it; of a read-only register
nothing changes; a reserved offset discards it (R350, R353). -/
def Dev.regWrite (d : Dev) (ss : Nat) (pg : Page) (off : Nat) (val : Word) : Dev :=
  match rowOf pg off with
  | none => if d.acts ss then d.discard ss pg off else d
  | some r =>
    if r.fixed then d.hostWrite ss pg off [val] .any false fun d => d
    else d.hostWrite ss pg off [val] r.who false fun d => d.plainWrite ss pg off val

/-- A register with values that are taken into range as they are written. -/
def Dev.rangeWrite (d : Dev) (ss : Nat) (pg : Page) (off : Nat) (val : Word) (f : Dev → Dev) : Dev :=
  d.hostWrite ss pg off [val] (whoOf pg off) false fun d => f (d.plainWrite ss pg off val)

/-- BIST_CTRL: MAX_CONC 3 is taken as 2, GAP_US below 20 as 20 (12). -/
def Dev.bistCtrl (d : Dev) : Dev :=
  (d.set BIST_CTRL.MAX_CONC (min 2 (d.get BIST_CTRL.MAX_CONC))).set BIST_CTRL.GAP_US (max 20 (d.get BIST_CTRL.GAP_US))

/-- TMU_ARB_CFG with its values taken into range (11). -/
def Dev.arbCfg (d : Dev) (k : Nat) : Dev :=
  let d := d.set (TMU_ARB_CFG.AGE k) (max 1 (min 64 (d.get (TMU_ARB_CFG.AGE k))))
  let d := d.set (TMU_ARB_CFG.FREQ_W k) (max 1 (d.get (TMU_ARB_CFG.FREQ_W k)))
  let d := d.set (TMU_ARB_CFG.MAINT_W k) (max 1 (d.get (TMU_ARB_CFG.MAINT_W k)))
  d.set (TMU_ARB_CFG.MAINT_MAX k) (max 1 (min 2 (d.get (TMU_ARB_CFG.MAINT_MAX k))))

/-! ### The router -/

/-- Registers of the time base page (02). -/
def Dev.tbWrite (d : Dev) (ss : Sess) (off : Nat) (val : Word) : Dev :=
  if off = 0x100 then let (r, d) := d.freeRef; d.refRevertWrite ss val r
  else if off = 0x108 then let (r, d) := d.freeRef; d.refSelWrite ss val r
  else if off = 0x10C then d.ageAdjWrite ss val
  else if off = 0x120 || off = 0x128 then d.tbRangeWrite ss off val
  else if off = 0x124 then let (r, d) := d.freeRef; d.refQualWrite ss val r
  else if off = 0x184 then d.lgMembers ss val
  else if off = 0x188 then if d.holdsStarts && wbit val 4 then d.holdStart (.lgGo ss val) else d.lgCtrlWrite ss val
  else if off = 0x18C then d.lgStatWrite ss val
  else if off = 0x190 then d.lgStartWrite ss false val
  else if off = 0x194 then d.lgStartWrite ss true val
  else d.regWrite ss tbPage off val

/-- Registers of the security page: a write of any of them comes between TARGET and GO (R374). -/
def Dev.secWrite (d : Dev) (ss : Nat) (off : Nat) (val : Word) : Dev :=
  if off = 0x104 then d.lcCtrlWrite ss val
  else if off = 0x108 then d.dbgCtrlWrite ss val
  else if 0x140 ≤ off && off < 0x170 then d.ownerKeyWrite ss off val
  else (d.secTouch ss).regWrite ss secPage off val

/-- Registers of the fault collector's page (13). -/
def Dev.collectorWrite (d : Dev) (ss : Nat) (off : Nat) (val : Word) : Dev :=
  if off = 0x100 then d.fltIrqCfgWrite ss val
  else if off = 0x108 then d.fltWinSelWrite ss val
  else if off = 0x110 then d.fltTailWrite ss val
  else if off = 0x114 then d.fltLostWrite ss val
  else if off = 0x148 then d.fltInjCtrlWrite ss val
  else if 0x200 ≤ off && off < 0x400 then d.fltStickyClear ss (decide (0x300 ≤ off)) (off % 0x100 / 4) val
  else d.regWrite ss fltPage off val

/-- Registers of the global Armature's page (08). -/
def Dev.glWrite (d : Dev) (ss : Nat) (off : Nat) (val : Word) : Dev :=
  if off = 0x104 then d.glCtrl ss val
  else if 0x200 ≤ off && off < 0x400 then
    d.hostWrite ss glPage off [val] .any false fun d =>
      if d.isOwn ss (d.gcolOwn ((off - 0x200) / 4)).owner then d.plainWrite ss glPage off val else d.glErr ss 1
  else if 0x400 ≤ off && off < 0x800 then d.globalMatrixWrite ss ((off - 0x400) / 8) (off / 4 % 2) val
  else d.regWrite ss glPage off val

/-- Registers of the device pages. -/
def Dev.devWrite (d : Dev) (ss : Sess) (n : Fin 15) (off : Nat) (val : Word) : Dev :=
  let plain := d.regWrite ss (.dev n) off val
  match n.val with
  | 1 => d.tbWrite ss off val
  | 2 => if off = 0x104 then d.dirumCtrlWrite ss val else plain
  | 3 =>
    if off = 0x100 || off = 0x104 then d.calRangeWrite ss off val
    else if off = 0x120 then d.calCmdWrite ss val else plain
  | 4 => if off = 0x100 then d.peCfgWrite ss val else if off = 0x140 then d.peReqWrite ss val else plain
  | 5 =>
    if off = 0x100 then d.rangeWrite ss bistPage off val Dev.bistCtrl
    else if off = 0x150 then d.bistCmdWrite ss val else plain
  | 6 => d.collectorWrite ss off val
  | 7 => d.secWrite ss off val
  | 8 =>
    if off = 0x104 then d.pwrReqWrite ss val
    else if 0x108 ≤ off && off ≤ 0x114 then d.plnWrite ss off val
    else if off = 0x120 then d.mboxCtrlWrite ss val else plain
  | 9 =>
    if off = 0x10C then d.attrSetWrite ss val
    else if off = 0x110 then d.sessCtrlWrite ss val
    else if off = 0xF00 then d.rangeWrite ss sessPage off val fun d => d.set SESS_CPL_LIMIT.US (max 64 (d.get SESS_CPL_LIMIT.US))
    else plain
  | 10 =>
    if off = 0x114 then d.ringCtrlWrite ss val else if off = 0x144 then d.ringDbWrite ss val else plain
  | 11 => if off = 0x10C then d.nvmCmdWrite ss val else plain
  | 12 => d.glWrite ss off val
  | 13 =>
    if off = 0x120 then d.flowWaitWrite ss val
    else if off = 0x110 || (rowOf (.dev n) off).isNone || off = 0x118 || off = 0x11C then plain
    else d.hbmCfgWrite ss off val
  | 14 => if off = 0x108 || off = 0x10C then d.sensFaultyWord ss off val else plain
  | _ => plain

/-- A word of an event slot's registers; a 64-bit register takes effect with its high word, and its low word too is
discarded with PERM where the session may not write the slot (R10, R183). -/
def Dev.slotWrite (d : Dev) (ss k off : Nat) (val : Word) : Dev :=
  let pg := poolPage k
  let s := (off - 0x200) / 0x40
  let wide := (tget (fun _ => 0) d.hold (pg.base + off - 4)).setWidth 64 ||| (val.setWidth 64 <<< 32)
  match (off - 0x200) % 0x40 with
  | 0 => d.slotCfgWrite ss k s .cfg (val.setWidth 64)
  | 4 => d.slotCfgWrite ss k s .tag (val.setWidth 64)
  | 8 => d.slotCfgWrite ss k s .ring (val.setWidth 64)
  | 0x10 => d.slotCfgWrite ss k s .ofs wide
  | 0x18 => d.slotCfgWrite ss k s .tmo wide
  | 0x1C => d.slotCfgWrite ss k s .stat (val.setWidth 64)
  | 0xC | 0x14 =>
    if d.slotOwner k s ss then d.regWrite ss pg off val
    else d.hostWrite ss pg off [val] .any false fun d => d.stick (TMU_SLOT_STAT.PERM k s)
  | _ => d.regWrite ss pg off val

/-- A write of the counts of the selected column: by its owner, of the columns that have counts (08). -/
def Dev.cntWrite (d : Dev) (ss k off : Nat) (val : Word) : Dev :=
  d.hostWrite ss (armPage k) off [val] .any false fun d =>
    let c := d.get (ARM_CNT_SEL.COLUMN ss k)
    if wfield val 0 16 = 0 || c < 256 || 384 ≤ c then d
    else if !d.isOwn ss (d.colOwn k c).owner then d.armErr ss k 1 c true
    else d.modCnt k c fun x => if off = 0x11C then { x with merge := 0 } else { x with discard := 0 }

/-- A word of a trigger slot's registers (R225). -/
def Dev.trigWord (d : Dev) (ss L off : Nat) (val : Word) : Dev :=
  let pg := lanePage L
  let n := (off - 0x140) / 0x20
  match (off - 0x140) % 0x20 with
  | 0 => d.trigWrite ss L n .cfg (val.setWidth 64)
  | 8 => d.trigWrite ss L n .delay
      ((tget (fun _ => 0) d.hold (pg.base + off - 4)).setWidth 64 ||| (val.setWidth 64 <<< 32))
  | 0x10 => d.trigWrite ss L n .refract (val.setWidth 64)
  | _ => d.regWrite ss pg off val

/-- Registers of a channel page; pages 64 to 67 have no lane registers (03, 04). -/
def Dev.chWrite (d : Dev) (ss : Sess) (k : Clu) (p : Phy) (off : Nat) (val : Word) : Dev :=
  let pg : Page := .ch k p
  if h : p.val < 64 then
    let L : Lch := ⟨64 * k + p, by omega⟩
    if off = 0x100 then d.laneCfgWrite ss L val
    else if off = 0x130 then d.swTriggerWrite ss L val
    else if 0x140 ≤ off && off < 0x1C0 then d.trigWord ss L off val
    else if off = 0x1D0 then d.ctxCommitWrite ss L val
    else if off = 0x1D4 then
      if d.holdsStarts && wbit val 1 then d.holdStart (.progGo ss L val) else d.progCtrlWrite ss L val
    else d.regWrite ss pg off val
  else if off < 0x200 then (if d.acts ss then d.discard ss pg off else d)
  else d.regWrite ss pg off val

/-- Registers of the cluster pages. -/
def Dev.clusterWrite (d : Dev) (ss : Sess) (pg : Page) (off : Nat) (val : Word) : Dev :=
  let plain := d.regWrite ss pg off val
  match pg with
  | .seq k => if off = 0x100 then d.seqCtrlWrite ss k val else if off = 0x11C then d.loadCtrlWrite ss k val else plain
  | .arm k =>
    if off = 0x100 then (if d.holdsStarts then d.holdStart (.armFire ss k val) else d.armFire ss k val)
    else if off = 0x10C then d.armOwnCtrl ss k val
    else if off = 0x11C || off = 0x120 then d.cntWrite ss k off val
    else if 0x180 ≤ off && off < 0x200 then d.ginWrite ss k ((off - 0x180) / 4) val
    else plain
  | .pool k =>
    if off = 0x110 then d.tmuInject ss k val
    else if 0x200 ≤ off && off < 0xA00 then d.slotWrite ss k off val
    else if off = 0xA00 then d.rangeWrite ss pg off val fun d => d.arbCfg k
    else if 0xA40 ≤ off && off < 0xB40 then
      let j := (off - 0xA40) / 4
      d.rangeWrite ss pg off val fun d => d.set (TMU_ARB_WEIGHT.W k j) (max 1 (d.get (TMU_ARB_WEIGHT.W k j)))
    else plain
  | .freq k =>
    if off = 0x100 then d.freqCfgWrite ss k val
    else if off = 0x120 then
      if d.holdsStarts && wbit val 0 then d.holdStart (.freqGo ss k val) else d.freqCtrlWrite ss k val
    else plain
  | .ch k p => d.chWrite ss k p off val
  | _ => plain

/-- A write of a word of the MSI-X table: address and data are kept, vector control masks or unmasks (R363). -/
def Dev.msixWrite (d : Dev) (ss off : Nat) (val : Word) : Dev :=
  if !d.acts ss then d
  else if 0x200 ≤ off || d.retired then d.discardAt ss (0x3000000 + off)
  else if off % 16 = 12 then d.vecMask ss (off / 16) (wbit val 0)
  else d.setReg (sessKey ss + (0x3000000 + off)) val

/-- A 32-bit write of BAR0 at an aligned offset (R349 to R354): every register by the operation of its own row, reserved
addresses and read-only windows as R350 says. -/
def Dev.busWrite (d : Dev) (ss : Sess) (addr : Nat) (val : Word) : Dev :=
  if d.acts ss && d.waits ss then d.stall ss addr [val]
  else match placeOf addr with
  | .page pg off =>
    if off < 0x20 then
      (match pg with | .dev n => if n.val = 7 then d.secTouch ss else d | _ => d).commonWrite ss pg off val
    else match pg with
      | .dev n => d.devWrite ss n off val
      | _ => d.clusterWrite ss pg off val
  | .mx k off => d.matrixWrite ss k (off / 32) (off / 4 % 8) val
  | .cs k _ => if d.acts ss then d.discard ss (.seq k) (addr - (clu k + 0x1000)) else d
  | .msixTable off => d.msixWrite ss off val
  | .msixPba _ | .reserved => if d.acts ss then d.discardAt ss addr else d

/-- An access that R350 does not allow: a read completes with Unsupported Request, a write is discarded. -/
def Dev.badAccess (d : Dev) (ss : Nat) (write : Bool) (addr : Nat) : Dev :=
  if !write then { d with out := d.out ++ [.unsupported ss] }
  else if !d.acts ss then d
  else match placeOf addr with
    | .page pg off => d.discard ss pg off
    | _ => d.discardAt ss addr

/-- A write of BAR0 with what it starts: a load of a control store takes its source as it stands (R152). -/
def State.busStore (s : State) (ss : Sess) (addr : Nat) (val : Word) : State :=
  let t := s.upd fun d => d.busWrite ss addr val
  match placeOf addr with
  | .page (.seq _) _ => t.latchLoads
  | _ => t

/-- REGISTER_WRITE (R353, R350). -/
def execRegisterWrite (ss : Sess) (addr : BitVec 26) (val : Word) (s : State) : Result :=
  if addr.toNat % 4 = 0 then .next (s.busStore ss addr.toNat val) else s.on fun d => d.badAccess ss true addr.toNat

/-- BAR0_BAD_ACCESS (R350). -/
def execBar0BadAccess (ss : Sess) (write : Bool) (addr : BitVec 26) (s : State) : Result :=
  s.on fun d => d.badAccess ss write addr.toNat

/-! ### Reads (R10, R102, R204) -/

/-- An index that a read advances, wrapping within its table. -/
def Dev.autoInc (d : Dev) (on : Bool) (f : Fld) (size : Nat) : Dev := if on then d.set f ((d.get f + 1) % size) else d

/-- What a read of a page changes besides the 64-bit capture: the captured context, result set and descriptor, and the
indices with AUTOINC. -/
def Dev.readEffect (d : Dev) (ss : Nat) (pg : Page) (off : Nat) : Dev :=
  if d.shadowed pg off then d
  else match pg with
  | .dev n => if n.val = 10 && off = 0x120 then d.modSn ss fun x => { x with descCap := d.descOf ss } else d
  | .ch k p =>
    if off = 0x1C4 && p.val < 64 then d.ctxCapture ss (64 * k + p)
    else if off = 0x218 then
      d.autoInc (d.on (CH_TBL_SEL.AUTOINC ss k p)) (CH_TBL_SEL.INDEX ss k p)
        (if d.on (CH_TBL_SEL.TABLE ss k p) then 256 else 64)
    else d
  | .tmu k t => if off = 0x124 then d.autoInc (d.on (TMU_CD_SEL.AUTOINC ss k t)) (TMU_CD_SEL.INDEX ss k t) 4096 else d
  | .freq k => if off = 0x140 then d.freqCapture ss k else d
  | _ => d

/-- 1 where the address names the low word of a pair, 2 where it names the high word (R10); CH_TBL_DATA0 and CH_TBL_DATA1 are
such a pair (R97). -/
def pairOf (addr : Nat) : Nat :=
  match placeOf addr with
  | .page (.ch _ _) off => if off = 0x214 then 1 else if off = 0x218 then 2
      else (match rowOf (.ch 0 0) off with | none => 0 | some r => r.pair)
  | .page pg off => (match rowOf pg off with | none => 0 | some r => r.pair)
  | .cs _ off => if off % 8 = 0 then 1 else 2
  | _ => 0

/-- HBM address of a word of the fault window that is marked poisoned, of the ring that the session's window shows (R26). -/
def Dev.winPoison (d : Dev) (ss addr : Nat) : Option Nat :=
  match placeOf addr with
  | .page (.dev n) off =>
    let r := d.fltRing ss
    let i := (off - 0x800) / 8
    let c := (r.tail + i) % 2 ^ 32
    let a := if d.fltDevice ss then devRingBase + 8 * (c % devRingSize) else mirrorBase ss + 8 * (c % mirrorSize)
    if n.val = 6 && 0x800 ≤ off && i < r.held && d.poisoned a 8 then some a else none
  | _ => none

/-- A 32-bit read of BAR0 by a session: the data of its completion, with EP set where it is poisoned data of HBM, the high word that a low word captures, and what the
register does when it is read; a read that must wait for a slice has no data yet (R10, R312, R358). -/
def State.busRead (s : State) (ss addr : Nat) : State :=
  let d := s.toDev
  if !d.acts ss then { s with out := d.out ++ [.unsupported ss] }
  else if d.waits ss then { s with toDev := d.stall ss addr [] }
  else
    let key := sessKey ss + addr
    let held := if pairOf addr = 2 then tget (fun _ => none) d.capt key else none
    let w := held.getD (s.readReg ss addr)
    let capt :=
      if pairOf addr = 1 then tput (fun _ => none) d.capt (key + 4) (some (s.readReg ss (addr + 4)))
      else tput (fun _ => none) d.capt key none
    let e := match placeOf addr with | .page pg off => d.readEffect ss pg off | _ => d
    if d.stalled.length < e.stalled.length then { s with toDev := e }
    else
      let bad := e.winPoison ss addr
      let e := match bad with | none => e | some a => e.raise 13 0x59 3 (a / 8) [ss]
      { s with toDev := { e with capt, reply := leBytes 4 w.toNat, replyEp := bad.isSome } }

/-- REG64_LOW_READ (R10). -/
def execReg64LowRead (ss : Sess) (addr : BitVec 26) (s : State) : Result :=
  if addr.toNat % 4 = 0 then .next (s.busRead ss addr.toNat) else s.on fun d => d.badAccess ss false addr.toNat

/-! ### Accesses that waited (R18, R226, R312) -/

/-- An access that waited is performed; where its function has a check pending again, or the region is in a slice, it goes
on waiting from its own arrival on (R308). -/
def State.unstall (s : State) (x : Stalled) : State :=
  let s := if x.vals.isEmpty then s.busRead x.ss x.addr
    else x.vals.zipIdx.foldl (fun s (v, i) => s.busStore (Fin.ofNat 64 x.ss) (x.addr + 4 * i) v) s
  { s with stalled := s.stalled.map fun y => if y.ss = x.ss && y.t0 = s.up then { y with t0 := x.t0 } else y }

/-- What waits is performed in order; what still must wait goes on waiting (R18, R306). -/
def State.unstallAll (s : State) : State := s.stalled.foldl State.unstall { s with stalled := [] }

/-- LOOP_CHECK_DONE: the oldest check completes, and what its function issued meanwhile is performed in order (R226). -/
def execLoopCheckDone (s : State) : Result := .next (s.upd Dev.loopDone).unstallAll

/-- SLICE_STEP_DONE (R311 to R314): at the end of a slice the accesses that waited for its region are performed (R312). -/
def execSliceStepDone (i : Fin 2) (data : DWord) (bad : Option BadBit) (poison : Bool) (s : State) : Result :=
  let t := s.upd fun d => d.sliceStep i data bad poison
  .next (if (t.toDev.slice i).isNone then t.unstallAll else t)

end Sys2Proof.Machine
end

