-- ==== Sys2Proof/Machine/Jtag.lean ====
section
/-! DEFINITION. The JTAG port (15): boundary scan, identification, and what the debug level reaches (R379 to R381). -/

namespace Sys2Proof.Machine

/-! ### Instructions of IEEE 1149.1 -/

/-- Little-endian bytes that hold a data register. -/
def drBytes (n v : Nat) : List Byte := leBytes n v

/-- EXTEST, CLAMP and HIGHZ are available: RESET_N is held low, and the power state is not DEEP; in recovery mode JTAG
answers IDCODE, BYPASS and DBG_STATUS alone (R381, R398). -/
def Dev.pinsOpen (d : Dev) : Bool := d.aonPower && !d.boot.resetN && d.pln.st != .deep && !d.pln.recovery

/-- SAMPLE/PRELOAD is available, except in DEEP (15, R381, R398). -/
def Dev.sampleOpen (d : Dev) : Bool := d.aonPower && d.pln.st != .deep && !d.pln.recovery

/-- What the device reads of its pins through the boundary cells in EXTEST is a free value: the board drives them. -/
def Dev.extest (d : Dev) (cells : BitVec 25) : Dev :=
  let (x, d) := d.draw
  { d with sec := { d.sec.irLoad 0x00 with boundary := cells, driving := true }, tdo := drBytes 4 (x.toNat % 2 ^ 25) }

/-- EXTEST: the cells drive the low-speed pins from Update-DR on (15). -/
def execExtest (cells : BitVec 25) (s : State) : Result :=
  s.on fun d => if d.pinsOpen then d.extest cells else d.asBypass 0x00

/-- SAMPLE/PRELOAD: the pins are captured, the cells are loaded, and nothing is driven (15). -/
def execSamplePreload (pins cells : BitVec 25) (s : State) : Result := s.on fun d =>
  if d.sampleOpen then
    { d with sec := { d.sec.irLoad 0x01 with boundary := cells }, tdo := drBytes 4 pins.toNat }
  else d.asBypass 0x01

/-- The identification register: ID_REV.STEPPING above part 0x1024, manufacturer 0x5A7 and 1 (15). -/
def Dev.idcode (d : Dev) : Nat := d.get ID_REV.STEPPING % 16 * 2 ^ 28 + 0x01024B4F

/-- IDCODE is selected. -/
def Dev.idSelect (d : Dev) : Dev := { d with sec := d.sec.irLoad 0x02, tdo := drBytes 4 d.idcode }

/-- IDCODE (15). -/
def execIdcode (s : State) : Result := s.on fun d => if d.aonPower then d.idSelect else d

/-- TEST_LOGIC_RESET: IDCODE is selected (15). -/
def execTestLogicReset (s : State) : Result := s.on fun d =>
  if d.aonPower then { d with sec := d.sec.irLoad 0x02 } else d

/-- CLAMP: the pins hold what the cells drive, with the bypass register selected (15). -/
def execClamp (s : State) : Result := s.on fun d =>
  if d.pinsOpen then { d with sec := { d.sec.irLoad 0x03 with driving := true }, tdo := [0] } else d.asBypass 0x03

/-- HIGHZ: the pins are in high impedance, with the bypass register selected (15). -/
def execHighz (s : State) : Result := s.on fun d =>
  if d.pinsOpen then { d with sec := { d.sec.irLoad 0x04 with highz := true }, tdo := [0] } else d.asBypass 0x04

/-- BYPASS (15). -/
def execBypass (s : State) : Result := s.on fun d => d.asBypass 0xFF

/-- DBG_STATUS reads as SEC_STAT (15). -/
def execDbgStatus (s : State) : Result := s.on fun d =>
  if d.aonPower then { d with sec := d.sec.irLoad 0x10, tdo := drBytes 4 (d.reg SEC_STAT).toNat } else d

/-! ### DBG_ACCESS (R379) -/

/-- The debug level reached, none where the port is closed (R377, R381). -/
def Dev.dbgLevel (d : Dev) : Nat := if d.dbgOpen then d.get SEC_STAT.DBG_LEVEL else 0

/-- A BAR0 offset that R350 reserves: outside every page and window, or naming no register of its page. -/
def addrReserved (a : Nat) : Bool :=
  match placeOf a with
  | .page pg off =>
    if off < 0x20 then false
    else if pg.base = 0 && 0x200 ≤ off && off < 0x300 then false
    else match pg with
      | .ch _ p => (decide (64 ≤ p.val) && decide (off < 0x200)) || (rowOf pg off).isNone
      | _ => (rowOf pg off).isNone
  | .msixTable off => decide (0x200 ≤ off)
  | .msixPba off => decide (8 ≤ off)
  | .reserved => true
  | _ => false

/-- In DEEP only the power page and the sensors page have power (R380, R381). -/
def Dev.dbgReach (d : Dev) (a : Nat) : Bool := d.pln.st != .deep || a / 0x1000 == 8 || a / 0x1000 == 14

/-- The message with count tail + i of the device ring, zero at or beyond its head (R338, R379). -/
def State.devMsg (s : State) (i : Nat) : Nat :=
  let r := s.flt.device
  if r.held ≤ i then 0
  else leNat (readBytes hbmDefault s.hbm (devRingBase + 8 * ((r.tail + i) % 2 ^ 32 % devRingSize)) 8)

/-- The access was refused (R379). -/
def dbgRefused (level : Nat) (write wide ring : Bool) (a : Nat) : Bool :=
  (write && (level < 2 || ring)) || (!ring && (a % (if wide then 8 else 4) != 0 || addrReserved a))

/-- What a read of BAR0 by the debugger shows: any register, whoever owns the object behind it (R379). -/
def State.dbgRead (s : State) (ss a : Nat) : Nat :=
  let d : Dev := { s.toDev with dbg := true }
  (({ s with toDev := d } : State).readReg ss a).toNat

/-- A write of BAR0 by the debugger: attribute M, no ownership check, counted (R379). -/
def Dev.dbgStore (d : Dev) (ss : Sess) (a : Nat) (wide : Bool) (data : Nat) : Dev :=
  let d : Dev := { d with dbg := true }
  let d := d.busWrite ss a (BitVec.ofNat 32 data)
  let d := if wide then d.busWrite ss (a + 4) (BitVec.ofNat 32 (data / 2 ^ 32)) else d
  ({ d with dbg := false } : Dev).wrapUp SEC_DBG_WRITES.COUNT

/-- The register that the next Capture-DR loads: DATA, DONE and ERR. -/
def dbgResult (data : Nat) (err : Bool) : BitVec 104 :=
  BitVec.ofNat 104 (data % 2 ^ 64 + 2 ^ 99 + 2 ^ 100 * b2n err)

/-- One access at Update-DR; the data register had captured the result of the one before (R379). -/
def State.dbgAccess (s : State) (dr : BitVec 104) : State :=
  let d := s.toDev
  let data := dr.toNat % 2 ^ 64
  let write := dr.getLsbD 64
  let wide := dr.getLsbD 65
  let ss : Sess := Fin.ofNat 64 (dr.toNat / 2 ^ 66)
  let a := dr.toNat / 2 ^ 72 % 2 ^ 26
  let ring := dr.getLsbD 98
  let d : Dev := { d with tdo := drBytes 13 d.sec.dbg.toNat, sec := d.sec.irLoad 0x13 }
  let done := fun (d : Dev) (v : Nat) (err : Bool) =>
    ({ s with toDev := { d with sec := { d.sec with dbg := dbgResult v err } } } : State)
  if dbgRefused d.dbgLevel write wide ring a then done d 0 true
  else if ring || !d.dbgReach a then
    if ring && d.pln.st != .deep then done d (s.devMsg a) false
    else let (x, d) := d.draw; done d x.toNat false
  else if write then done (d.dbgStore ss a wide data) data false
  else done d (s.dbgRead ss a + (if wide then 2 ^ 32 * s.dbgRead ss (a + 4) else 0)) false

/-- DBG_ACCESS (R379): at OBSERVE or INTRUSIVE; otherwise it acts as BYPASS. -/
def execDbgAccess (dr : BitVec 104) (s : State) : Result :=
  if 1 ≤ s.toDev.dbgLevel then .next (s.dbgAccess dr).latchLoads else s.on fun d => d.asBypass 0x13

/-! ### DBG_CLUSTER (R379) -/

/-- DBG_CLUSTER acts at INTRUSIVE, and on a cluster that has power (R379, R381). -/
def Dev.dbgCluster (d : Dev) (k : Nat) (f : Dev → Dev) : Dev :=
  if d.dbgLevel < 2 then d.asBypass 0x14
  else
    let d : Dev := { d with sec := d.sec.irLoad 0x14 }
    if d.powered k then f d else d

/-- DBG_CLUSTER_HALT: the engine stops at its next dispatch point (R379). -/
def execDbgClusterHalt (k : Clu) (s : State) : Result :=
  s.on fun d => d.dbgCluster k fun d => d.modCl k fun c => { c with halted := true }

/-- DBG_CLUSTER_RUN: the engine resumes (R379). -/
def execDbgClusterRun (k : Clu) (s : State) : Result :=
  s.on fun d => d.dbgCluster k fun d => d.modCl k fun c => { c with halted := false, stepped := false }

/-- The micro-op of an opcode; a reserved one has none (R141). -/
def uopOf (op : Nat) : Option UOp :=
  match op with
  | 0x00 => some opNop
  | 0x01 => some opMov
  | 0x02 => some opAdd
  | 0x03 => some opSub
  | 0x04 => some (opLogic fun a b => a &&& b)
  | 0x05 => some (opLogic fun a b => a ||| b)
  | 0x06 => some (opLogic fun a b => a ^^^ b)
  | 0x07 => some (opPlain fun a b => a <<< (b.toNat % 64))
  | 0x08 => some (opPlain fun a b => a >>> (b.toNat % 64))
  | 0x09 => some (opPlain fun a b => a.sshiftRight (b.toNat % 64))
  | 0x0A => some opLdi
  | 0x0B => some opCmp
  | 0x0C => some opTst
  | 0x0D => some (opPlain minSigned)
  | 0x0E => some (opPlain maxSigned)
  | 0x0F => some opSext
  | 0x10 => some opFld
  | 0x11 => some opNexti
  | 0x12 => some opEndt
  | 0x13 => some opJpc
  | 0x14 => some opPushl
  | 0x15 => some opEndl
  | 0x16 => some opPushc
  | 0x17 => some opPopc
  | 0x18 => some (opEnq .period)
  | 0x19 => some (opEnq .cand)
  | 0x1A => some (opEnq .ctx)
  | 0x1B => some (opEnq .mat)
  | 0x1C => some (opEnq .fire)
  | 0x1D => some (opEnq .meas)
  | 0x1E => some (opEnqEnd .wait)
  | 0x1F => some (opEnqEnd .halt)
  | 0x20 => some opStopl
  | 0x21 => some opBr
  | 0x22 => some opCallu
  | 0x23 => some opRetu
  | 0x24 => some opTrap
  | 0x28 => some opLdx
  | 0x29 => some opStx
  | 0x2A => some opHbmrd
  | 0x2B => some opHbmwr
  | 0x2C => some opHbmsync
  | 0x2D => some opSigf
  | 0x2E => some opMbox
  | 0x2F => some opSell
  | 0x30 => some opFlip
  | 0x31 => some opInvc
  | 0x32 => some opFetchq
  | 0x33 => some opReti
  | _ => none

/-- The device with the word of a halted cluster about to execute: the engine may run, and where no routine is between
two words, the next dispatch point is taken. -/
def State.stepReady (s : State) (k : Nat) : Dev :=
  let d := s.toDev.modCl k fun c => { c with halted := false, stepped := false }
  if (d.onEngine k).isSome then d else d.dispatch k s.entryAt

/-- The word executed, and the engine halted again: between two words of a routine where the word ended at none of the
dispatch points. -/
def Dev.stepWord (d : Dev) (k : Nat) : Dev :=
  let x := (d.cl k).word (d.cl k).upc
  let d := match uopOf (opOf x) with | none => d | some f => d.uop k (opOf x) (Micro.ofWord x) f
  d.modCl k fun c => { c with halted := true, stepped := c.active.isSome && !c.atDispatch }

/-- The word of a step is an HBM operation outside the 16 GiB of HBM (R25). -/
def Dev.stepOutside (d : Dev) (k : Nat) : Bool :=
  let x := (d.cl k).word (d.cl k).upc
  (opOf x == 0x2A || opOf x == 0x2B) && d.hbmOutside k (opOf x) (Micro.ofWord x)

/-- DBG_CLUSTER_STEP: a halted cluster executes one microword (R379). -/
def execDbgClusterStep (k : Clu) (s : State) : Result :=
  let r : State := { s with toDev := { s.toDev with sec := s.sec.irLoad 0x14 } }
  if s.toDev.dbgLevel < 2 || !s.toDev.powered k || !(s.toDev.cl k).halted then s.on fun d => d.dbgCluster k fun d => d
  else if (r.stepReady k).stepOutside k then .fault .hbmAddress
  else .next { r with toDev := (r.stepReady k).stepWord k }

end Sys2Proof.Machine
end

