-- ==== Sys2Proof/Machine/Smbus.lean ====
section
/-! DEFINITION. The SMBus management port (R371, R372): one block read, byte read or write for each transaction. A
transaction that is NACKed, and a write, leave an empty reply. -/

namespace Sys2Proof.Machine

/-- The port answers: from the release of always-on reset, except while a Plinth image starts (R371, R392). -/
def Dev.smbOpen (d : Dev) : Bool := d.aonPower && d.boot.aonOut && d.pln.running

/-- The reply of a transaction. -/
def Dev.smbSay (d : Dev) (b : List Byte) : Dev := { d with smb := b }

/-- A transaction that Plinth serves whenever the port answers; else its address is NACKed. -/
def Dev.smbServe (d : Dev) (f : Dev → Dev) : Dev := if d.smbOpen then f d else d.smbSay []

/-- The 20 bytes of IDENT (R371): ID_PART, ID_REV, ID_SERIAL, DEVID in two bytes, lifecycle state and capability options
in one each. -/
def Dev.identBytes (d : Dev) : List Byte :=
  leBytes 4 (d.reg ID_PART).toNat ++ leBytes 4 (d.reg ID_REV).toNat ++ leBytes 8 (d.reg64 ID_SERIAL)
    ++ leBytes 2 d.boot.devid ++ leBytes 1 (d.get SEC_STAT.LIFECYCLE) ++ leBytes 1 d.opts

/-- SMB_IDENT (R371); recovery mode answers it (R398). -/
def execSmbIdent (s : State) : Result := s.on fun d =>
  if d.smbOpen || (d.aonPower && d.boot.aonOut && d.pln.recovery) then d.smbSay d.identBytes else d.smbSay []

/-- The power state as POWER returns it: during a transition the one it leaves (R371, R385). -/
def Dev.powerCode (d : Dev) : Nat := match d.pln.st with | .active => 0 | .drowse => 1 | .deep => 2

/-- SMB_POWER (R371). -/
def execSmbPower (s : State) : Result := s.on fun d => d.smbServe fun d => d.smbSay (leBytes 1 d.powerCode)

/-- SMB_POWER_REQ (R371, R385). -/
def execSmbPowerReq (b : Byte) (s : State) : Result :=
  s.on fun d => d.smbServe fun d => (d.powerAsk .smbus b.toNat false).smbSay []

/-- A signed 16-bit value in two bytes. -/
def bytes16 (v : Int) : List Byte := leBytes 2 (BitVec.ofInt 16 v).toNat

/-- SMB_TEMPS: the 48 sensors after Plinth's filters, in 1/64 °C (R371). -/
def execSmbTemps (s : State) : Result :=
  s.on fun d => d.smbServe fun d => d.smbSay ((List.range 48).flatMap fun n => bytes16 (d.sensOut n))

/-- SMB_SUPPLIES: the eight supplies in mV (R371). -/
def execSmbSupplies (s : State) : Result :=
  s.on fun d => d.smbServe fun d => d.smbSay ((List.range 8).flatMap fun i => bytes16 (d.sensOut (49 + i)))

/-- The fault summaries: in DEEP those captured at entry (R372). -/
def Dev.faultBytes (d : Dev) : List Byte :=
  match d.pln.st, d.pln.deepSum with
  | .deep, some (real, inj) => leBytes 8 real.toNat ++ leBytes 8 inj.toNat
  | _, _ => leBytes 8 (d.stickySum false) ++ leBytes 8 (d.stickySum true)

/-- SMB_FAULTS (R371, R372). -/
def execSmbFaults (s : State) : Result := s.on fun d => d.smbServe fun d => d.smbSay d.faultBytes

/-- SMB_EPOCH (R371, R372). -/
def execSmbEpoch (s : State) : Result := s.on fun d => d.smbServe fun d => d.smbSay (leBytes 8 d.epoch)

/-- The port takes a request to the mailbox: not while an earlier one of its own waits; in recovery mode GET_STATE,
FW_STAGE and FW_COMMIT; in RETIRED GET_STATE, and the requests that the mailbox refuses with PERM (R371, R381, R390,
R398). -/
def Dev.mboxWrOpen (d : Dev) (op : Nat) : Bool :=
  let busy := match d.pln.mbox with | some (_, none) => true | _ => false
  if busy then false
  else if d.pln.recovery then d.aonPower && d.boot.aonOut && 1 ≤ op && op ≤ 3
  else d.smbOpen && (!d.retired || op == 1 || op == 2 || op == 3 || op == 5 || op == 6)

/-- SMB_MBOX_WR: 1 to 255 bytes (R371, R390). -/
def execSmbMboxWr (bytes : List Byte) (s : State) : Result := s.on fun d =>
  if decide (1 ≤ bytes.length) && decide (bytes.length ≤ 255) && d.mboxWrOpen (bytes.getD 0 0).toNat then
    (d.mboxFromSmb bytes).smbSay []
  else d.smbSay []

/-- SMB_MBOX_RD: the reply to the SMBus's last request (R371, R390). -/
def execSmbMboxRd (s : State) : Result := s.on fun d =>
  if d.smbOpen || (d.aonPower && d.boot.aonOut && d.pln.recovery) then d.smbSay d.pln.mboxRsp else d.smbSay []

/-- SMB_BAD_COMMAND: a code that the table does not have is NACKed, a write whose PEC fails is discarded (R371). -/
def execSmbBadCommand (_code : Byte) (_pecFail : Bool) (s : State) : Result := s.on fun d => d.smbSay []

end Sys2Proof.Machine
end

