-- ==== Sys2Proof/Machine/Dispatch.lean ====
section
/-! DEFINITION. The dispatch: one arm per command, each one call of its meaning. -/
namespace Sys2Proof.Machine

def exec (i : Instr) (s : State) : Host.Outcome State Fault Refusal :=
  match i with
  | .registerWrite sess addr val => Sys2Proof.Machine.execRegisterWrite sess addr val s
  | .reg64LowRead sess addr => Sys2Proof.Machine.execReg64LowRead sess addr s
  | .bar0BadAccess sess write addr => Sys2Proof.Machine.execBar0BadAccess sess write addr s
  | .pageEnableWrite sess page en => Sys2Proof.Machine.execPageEnableWrite sess page en s
  | .pageQuiesceWrite sess page on => Sys2Proof.Machine.execPageQuiesceWrite sess page on s
  | .blockReset sess page => Sys2Proof.Machine.execBlockReset sess page s
  | .pageClaim sess page => Sys2Proof.Machine.execPageClaim sess page s
  | .pageRelease sess page => Sys2Proof.Machine.execPageRelease sess page s
  | .pageLockWrite sess page lock => Sys2Proof.Machine.execPageLockWrite sess page lock s
  | .crossingFifoError k fifo => Sys2Proof.Machine.execCrossingFifoError k fifo s
  | .refSelWrite sess val ref => Sys2Proof.Machine.execRefSelWrite sess val ref s
  | .refQualWrite sess val ref => Sys2Proof.Machine.execRefQualWrite sess val ref s
  | .refinQualified ref => Sys2Proof.Machine.execRefinQualified ref s
  | .refinLoss mean => Sys2Proof.Machine.execRefinLoss mean s
  | .refLockAchieved => Sys2Proof.Machine.execRefLockAchieved s
  | .refRevertWrite sess val ref => Sys2Proof.Machine.execRefRevertWrite sess val ref s
  | .slewComplete => Sys2Proof.Machine.execSlewComplete s
  | .pllLockLoss => Sys2Proof.Machine.execPllLockLoss s
  | .pllRelock ref => Sys2Proof.Machine.execPllRelock ref s
  | .pllRelockTimeout => Sys2Proof.Machine.execPllRelockTimeout s
  | .ageAdjWrite sess val => Sys2Proof.Machine.execAgeAdjWrite sess val s
  | .patinaAppend offset temp spread ok => Sys2Proof.Machine.execPatinaAppend offset temp spread s ok
  | .patinaFit => Sys2Proof.Machine.execPatinaFit s
  | .patinaHourlyAdjust => Sys2Proof.Machine.execPatinaHourlyAdjust s
  | .treeRotatorStep k => Sys2Proof.Machine.execTreeRotatorStep k s
  | .lgMembersWrite sess val => Sys2Proof.Machine.execLgMembersWrite sess val s
  | .lgClaim sess val => Sys2Proof.Machine.execLgClaim sess val s
  | .lgRelease sess val => Sys2Proof.Machine.execLgRelease sess val s
  | .lgGo sess val => Sys2Proof.Machine.execLgGo sess val s
  | .lgStop sess val => Sys2Proof.Machine.execLgStop sess val s
  | .lgSwitch sess val => Sys2Proof.Machine.execLgSwitch sess val s
  | .lgStart g => Sys2Proof.Machine.execLgStart g s
  | .syncRisingEdge arrival => Sys2Proof.Machine.execSyncRisingEdge arrival s
  | .syncClassify high => Sys2Proof.Machine.execSyncClassify high s
  | .epochTake => Sys2Proof.Machine.execEpochTake s
  | .epochArm sess => Sys2Proof.Machine.execEpochArm sess s
  | .armCancel sess => Sys2Proof.Machine.execArmCancel sess s
  | .hbRestart sess => Sys2Proof.Machine.execHbRestart sess s
  | .triggerSlotBusyEnd lane n => Sys2Proof.Machine.execTriggerSlotBusyEnd lane n s
  | .triggerSlotConfigWrite sess lane n reg val => Sys2Proof.Machine.execTriggerSlotConfigWrite sess lane n reg val s
  | .gateChange lane => Sys2Proof.Machine.execGateChange lane s
  | .swTriggerGo sess lane val => Sys2Proof.Machine.execSwTriggerGo sess lane val s
  | .laneCfgWrite sess lane val => Sys2Proof.Machine.execLaneCfgWrite sess lane val s
  | .candidateCommit lane => Sys2Proof.Machine.execCandidateCommit lane s
  | .strobeSample lane level changed => Sys2Proof.Machine.execStrobeSample lane level changed s
  | .cmpTransition ball arrival level => Sys2Proof.Machine.execCmpTransition ball arrival level s
  | .ctxCommitWrite sess lane val => Sys2Proof.Machine.execCtxCommitWrite sess lane val s
  | .ctxReadCapture sess lane => Sys2Proof.Machine.execCtxReadCapture sess lane s
  | .edgeFetchDone lane line poison => Sys2Proof.Machine.execEdgeFetchDone lane line poison s
  | .period lane iw => Sys2Proof.Machine.execPeriod lane iw s
  | .edge lane iw => Sys2Proof.Machine.execEdge lane iw s
  | .pulse lane iw => Sys2Proof.Machine.execPulse lane iw s
  | .burst lane iw => Sys2Proof.Machine.execBurst lane iw s
  | .ctx lane iw => Sys2Proof.Machine.execCtx lane iw s
  | .waitEvt lane iw => Sys2Proof.Machine.execWaitEvt lane iw s
  | .waitEvtTimeout lane => Sys2Proof.Machine.execWaitEvtTimeout lane s
  | .loop lane iw => Sys2Proof.Machine.execLoop lane iw s
  | .endloop lane iw => Sys2Proof.Machine.execEndloop lane iw s
  | .call lane iw => Sys2Proof.Machine.execCall lane iw s
  | .ret lane iw => Sys2Proof.Machine.execRet lane iw s
  | .measure lane iw => Sys2Proof.Machine.execMeasure lane iw s
  | .matchResults lane iw => Sys2Proof.Machine.execMatchResults lane iw s
  | .fire lane iw => Sys2Proof.Machine.execFire lane iw s
  | .fireEmit lane => Sys2Proof.Machine.execFireEmit lane s
  | .halt lane iw => Sys2Proof.Machine.execHalt lane iw s
  | .reservedOpcode lane iw => Sys2Proof.Machine.execReservedOpcode lane iw s
  | .underrun lane => Sys2Proof.Machine.execUnderrun lane s
  | .prime sess lane val => Sys2Proof.Machine.execPrime sess lane val s
  | .primeComplete lane => Sys2Proof.Machine.execPrimeComplete lane s
  | .progGo sess lane val => Sys2Proof.Machine.execProgGo sess lane val s
  | .progStart lane => Sys2Proof.Machine.execProgStart lane s
  | .progStop sess lane val => Sys2Proof.Machine.execProgStop sess lane val s
  | .stopEffect lane => Sys2Proof.Machine.execStopEffect lane s
  | .engineDispatch k => Sys2Proof.Machine.execEngineDispatch k s
  | .uNop k w => Sys2Proof.Machine.execUNop k w s
  | .uMov k w => Sys2Proof.Machine.execUMov k w s
  | .uAdd k w => Sys2Proof.Machine.execUAdd k w s
  | .uSub k w => Sys2Proof.Machine.execUSub k w s
  | .uAnd k w => Sys2Proof.Machine.execUAnd k w s
  | .uOr k w => Sys2Proof.Machine.execUOr k w s
  | .uXor k w => Sys2Proof.Machine.execUXor k w s
  | .uShl k w => Sys2Proof.Machine.execUShl k w s
  | .uShr k w => Sys2Proof.Machine.execUShr k w s
  | .uSar k w => Sys2Proof.Machine.execUSar k w s
  | .uLdi k w => Sys2Proof.Machine.execULdi k w s
  | .uCmp k w => Sys2Proof.Machine.execUCmp k w s
  | .uTst k w => Sys2Proof.Machine.execUTst k w s
  | .uMin k w => Sys2Proof.Machine.execUMin k w s
  | .uMax k w => Sys2Proof.Machine.execUMax k w s
  | .uSext k w => Sys2Proof.Machine.execUSext k w s
  | .uFld k w => Sys2Proof.Machine.execUFld k w s
  | .uNexti k w => Sys2Proof.Machine.execUNexti k w s
  | .uEndt k w => Sys2Proof.Machine.execUEndt k w s
  | .uJpc k w => Sys2Proof.Machine.execUJpc k w s
  | .uPushl k w => Sys2Proof.Machine.execUPushl k w s
  | .uEndl k w => Sys2Proof.Machine.execUEndl k w s
  | .uPushc k w => Sys2Proof.Machine.execUPushc k w s
  | .uPopc k w => Sys2Proof.Machine.execUPopc k w s
  | .uPerq k w => Sys2Proof.Machine.execUPerq k w s
  | .uCanq k w => Sys2Proof.Machine.execUCanq k w s
  | .uCtxq k w => Sys2Proof.Machine.execUCtxq k w s
  | .uMatq k w => Sys2Proof.Machine.execUMatq k w s
  | .uFireq k w => Sys2Proof.Machine.execUFireq k w s
  | .uMeasq k w => Sys2Proof.Machine.execUMeasq k w s
  | .uWaitq k w => Sys2Proof.Machine.execUWaitq k w s
  | .uHaltq k w => Sys2Proof.Machine.execUHaltq k w s
  | .uStopl k w => Sys2Proof.Machine.execUStopl k w s
  | .uBr k w => Sys2Proof.Machine.execUBr k w s
  | .uCallu k w => Sys2Proof.Machine.execUCallu k w s
  | .uRetu k w => Sys2Proof.Machine.execURetu k w s
  | .uTrap k w => Sys2Proof.Machine.execUTrap k w s
  | .uLdx k w => Sys2Proof.Machine.execULdx k w s
  | .uStx k w => Sys2Proof.Machine.execUStx k w s
  | .uHbmrd k w => Sys2Proof.Machine.execUHbmrd k w s
  | .uHbmwr k w => Sys2Proof.Machine.execUHbmwr k w s
  | .uHbmsync k w => Sys2Proof.Machine.execUHbmsync k w s
  | .hbmsyncComplete k level poison => Sys2Proof.Machine.execHbmsyncComplete k level poison s
  | .uSigf k w => Sys2Proof.Machine.execUSigf k w s
  | .uMbox k w => Sys2Proof.Machine.execUMbox k w s
  | .uSell k w => Sys2Proof.Machine.execUSell k w s
  | .uFlip k w => Sys2Proof.Machine.execUFlip k w s
  | .uInvc k w => Sys2Proof.Machine.execUInvc k w s
  | .uFetchq k w => Sys2Proof.Machine.execUFetchq k w s
  | .uReti k w => Sys2Proof.Machine.execUReti k w s
  | .seqLoad sess k val => Sys2Proof.Machine.execSeqLoad sess k val s
  | .seqLoadAbort sess k val => Sys2Proof.Machine.execSeqLoadAbort sess k val s
  | .quiesceComplete k => Sys2Proof.Machine.execQuiesceComplete k s
  | .loadCopyDone k poison => Sys2Proof.Machine.execLoadCopyDone k poison s
  | .loadCheckDone k => Sys2Proof.Machine.execLoadCheckDone k s
  | .loadInstallDone k bad => Sys2Proof.Machine.execLoadInstallDone k bad s
  | .mchkClr sess k val => Sys2Proof.Machine.execMchkClr sess k val s
  | .requestEligible k req => Sys2Proof.Machine.execRequestEligible k req s
  | .poolArbitration k => Sys2Proof.Machine.execPoolArbitration k s
  | .slotCfgWrite sess k slot reg val => Sys2Proof.Machine.execSlotCfgWrite sess k slot reg val s
  | .tmuStart k t arrival rise => Sys2Proof.Machine.execTmuStart k t arrival rise s
  | .tmuStop k t arrival rise ball => Sys2Proof.Machine.execTmuStop k t arrival rise ball s
  | .tmuTimeout k t => Sys2Proof.Machine.execTmuTimeout k t s
  | .tmuConvertDone k t start stop => Sys2Proof.Machine.execTmuConvertDone k t start stop s
  | .refPairConvert k t interp ref1 ref2 => Sys2Proof.Machine.execRefPairConvert k t interp ref1 ref2 s
  | .rampLockDone k t idac0 idac1 => Sys2Proof.Machine.execRampLockDone k t idac0 idac1 s
  | .rampLockTimeout k t => Sys2Proof.Machine.execRampLockTimeout k t s
  | .creditGrant k t => Sys2Proof.Machine.execCreditGrant k t s
  | .creditWaitExpire k t => Sys2Proof.Machine.execCreditWaitExpire k t s
  | .tmuInject sess k val => Sys2Proof.Machine.execTmuInject sess k val s
  | .tmuPositionHandover k q => Sys2Proof.Machine.execTmuPositionHandover k q s
  | .freqCfgWrite sess k val => Sys2Proof.Machine.execFreqCfgWrite sess k val s
  | .freqGo sess k val => Sys2Proof.Machine.execFreqGo sess k val s
  | .freqStop sess k val => Sys2Proof.Machine.execFreqStop sess k val s
  | .freqAbort sess k val => Sys2Proof.Machine.execFreqAbort sess k val s
  | .gateOpen k => Sys2Proof.Machine.execGateOpen k s
  | .stampRequest k => Sys2Proof.Machine.execStampRequest k s
  | .gateClose k => Sys2Proof.Machine.execGateClose k s
  | .freqResultPost k => Sys2Proof.Machine.execFreqResultPost k s
  | .freqResultCapture sess k => Sys2Proof.Machine.execFreqResultCapture sess k s
  | .eventDelivery at_ bad => Sys2Proof.Machine.execEventDelivery at_ s bad
  | .armFire sess k val => Sys2Proof.Machine.execArmFire sess k val s
  | .matrixWrite sess k col w val => Sys2Proof.Machine.execMatrixWrite sess k col w val s
  | .globalMatrixWrite sess col w val => Sys2Proof.Machine.execGlobalMatrixWrite sess col w val s
  | .loopCheckDone => Sys2Proof.Machine.execLoopCheckDone s
  | .armClaim sess k => Sys2Proof.Machine.execArmClaim sess k s
  | .armRelease sess k => Sys2Proof.Machine.execArmRelease sess k s
  | .armShareSet sess k => Sys2Proof.Machine.execArmShareSet sess k s
  | .armShareClr sess k => Sys2Proof.Machine.execArmShareClr sess k s
  | .ginBindWrite sess k inp val => Sys2Proof.Machine.execGinBindWrite sess k inp val s
  | .glClaim sess => Sys2Proof.Machine.execGlClaim sess s
  | .glRelease sess => Sys2Proof.Machine.execGlRelease sess s
  | .glShareSet sess => Sys2Proof.Machine.execGlShareSet sess s
  | .glShareClr sess => Sys2Proof.Machine.execGlShareClr sess s
  | .glBind sess => Sys2Proof.Machine.execGlBind sess s
  | .glUnbind sess => Sys2Proof.Machine.execGlUnbind sess s
  | .calLanes sess val => Sys2Proof.Machine.execCalLanes sess val s
  | .calCluster sess val => Sys2Proof.Machine.execCalCluster sess val s
  | .calTmuPool sess val => Sys2Proof.Machine.execCalTmuPool sess val s
  | .calCdExternal sess val => Sys2Proof.Machine.execCalCdExternal sess val s
  | .calPath sess val => Sys2Proof.Machine.execCalPath sess val s
  | .calTree sess val => Sys2Proof.Machine.execCalTree sess val s
  | .calStore sess val => Sys2Proof.Machine.execCalStore sess val s
  | .calRestoreFactory sess val => Sys2Proof.Machine.execCalRestoreFactory sess val s
  | .calAbort sess val => Sys2Proof.Machine.execCalAbort sess val s
  | .calUnitStart k => Sys2Proof.Machine.execCalUnitStart k s
  | .calTmuWaitExpire k => Sys2Proof.Machine.execCalTmuWaitExpire k s
  | .calPassDone k r => Sys2Proof.Machine.execCalPassDone k r s
  | .calTreeMeasure k corrA corrB residual => Sys2Proof.Machine.execCalTreeMeasure k corrA corrB residual s
  | .tempTableRecompute k => Sys2Proof.Machine.execTempTableRecompute k s
  | .tableInstallStep k u => Sys2Proof.Machine.execTableInstallStep k u s
  | .calStoreDone ok => Sys2Proof.Machine.execCalStoreDone ok s
  | .bgBurstDone k t hits => Sys2Proof.Machine.execBgBurstDone k t hits s
  | .peRequestSubmit sess val => Sys2Proof.Machine.execPeRequestSubmit sess val s
  | .pePlace => Sys2Proof.Machine.execPePlace s
  | .peMaquette => Sys2Proof.Machine.execPeMaquette s
  | .peApply => Sys2Proof.Machine.execPeApply s
  | .peRelease => Sys2Proof.Machine.execPeRelease s
  | .peHbmAlloc => Sys2Proof.Machine.execPeHbmAlloc s
  | .peHbmFree => Sys2Proof.Machine.execPeHbmFree s
  | .peInvalidOp => Sys2Proof.Machine.execPeInvalidOp s
  | .laneReleaseEffect lane => Sys2Proof.Machine.execLaneReleaseEffect lane s
  | .contextClearDone lane => Sys2Proof.Machine.execContextClearDone lane s
  | .swapStart k => Sys2Proof.Machine.execSwapStart k s
  | .swapLoadDone k => Sys2Proof.Machine.execSwapLoadDone k s
  | .swapFlip k agree => Sys2Proof.Machine.execSwapFlip k agree s
  | .hbmGrant ecc => Sys2Proof.Machine.execHbmGrant ecc s
  | .cplLimitExpire sess addr => Sys2Proof.Machine.execCplLimitExpire sess addr s
  | .sliceStart slot => Sys2Proof.Machine.execSliceStart slot s
  | .sliceStepDone slot data bad poison => Sys2Proof.Machine.execSliceStepDone slot data bad poison s
  | .csMarchDone k bad => Sys2Proof.Machine.execCsMarchDone k bad s
  | .repairRecordWritten ok => Sys2Proof.Machine.execRepairRecordWritten ok s
  | .compactionDone ok0 ok1 => Sys2Proof.Machine.execCompactionDone ok0 ok1 s
  | .bistRun sess val => Sys2Proof.Machine.execBistRun sess val s
  | .bistClearUnit sess val => Sys2Proof.Machine.execBistClearUnit sess val s
  | .bistCompact sess val => Sys2Proof.Machine.execBistCompact sess val s
  | .faultCollect => Sys2Proof.Machine.execFaultCollect s
  | .faultRingWrite ok => Sys2Proof.Machine.execFaultRingWrite ok s
  | .fltTailWrite sess val => Sys2Proof.Machine.execFltTailWrite sess val s
  | .fltWinSelWrite sess val => Sys2Proof.Machine.execFltWinSelWrite sess val s
  | .fltStickyClear sess inj w val => Sys2Proof.Machine.execFltStickyClear sess inj w val s
  | .faultInject sess val => Sys2Proof.Machine.execFaultInject sess val s
  | .linkUp port link => Sys2Proof.Machine.execLinkUp port link s
  | .vfEnableChange port link en numVfs ari => Sys2Proof.Machine.execVfEnableChange port link en numVfs ari s
  | .functionLevelReset ss => Sys2Proof.Machine.execFunctionLevelReset ss s
  | .linkDown port link => Sys2Proof.Machine.execLinkDown port link s
  | .sessCtrlReset sess => Sys2Proof.Machine.execSessCtrlReset sess s
  | .sessionResetDone ss => Sys2Proof.Machine.execSessionResetDone ss s
  | .sessAttrSet sess val => Sys2Proof.Machine.execSessAttrSet sess val s
  | .bar2Read sess addr len => Sys2Proof.Machine.execBar2Read sess addr len s
  | .bar2Write sess addr bytes ep => Sys2Proof.Machine.execBar2Write sess addr bytes ep s
  | .msixMaskChange sess c => Sys2Proof.Machine.execMsixMaskChange sess c s
  | .ringCreate sess => Sys2Proof.Machine.execRingCreate sess s
  | .ringDestroy sess => Sys2Proof.Machine.execRingDestroy sess s
  | .ringDestroyDone ring => Sys2Proof.Machine.execRingDestroyDone ring s
  | .ringDbWrite sess val => Sys2Proof.Machine.execRingDbWrite sess val s
  | .drainBatch ring => Sys2Proof.Machine.execDrainBatch ring s
  | .ringCoalesceExpire ring => Sys2Proof.Machine.execRingCoalesceExpire ring s
  | .smbIdent => Sys2Proof.Machine.execSmbIdent s
  | .smbPower => Sys2Proof.Machine.execSmbPower s
  | .smbPowerReq b => Sys2Proof.Machine.execSmbPowerReq b s
  | .smbTemps => Sys2Proof.Machine.execSmbTemps s
  | .smbSupplies => Sys2Proof.Machine.execSmbSupplies s
  | .smbFaults => Sys2Proof.Machine.execSmbFaults s
  | .smbEpoch => Sys2Proof.Machine.execSmbEpoch s
  | .smbMboxWr bytes => Sys2Proof.Machine.execSmbMboxWr bytes s
  | .smbMboxRd => Sys2Proof.Machine.execSmbMboxRd s
  | .smbBadCommand code pecFail => Sys2Proof.Machine.execSmbBadCommand code pecFail s
  | .nvmRead sess val => Sys2Proof.Machine.execNvmRead sess val s
  | .nvmCheck sess val => Sys2Proof.Machine.execNvmCheck sess val s
  | .nvmInvalidCmd sess val => Sys2Proof.Machine.execNvmInvalidCmd sess val s
  | .nvmCmdDone readErr => Sys2Proof.Machine.execNvmCmdDone readErr s
  | .lcTargetWrite sess val => Sys2Proof.Machine.execLcTargetWrite sess val s
  | .lifecycleGo sess val => Sys2Proof.Machine.execLifecycleGo sess val s
  | .lifecycleRecordDone => Sys2Proof.Machine.execLifecycleRecordDone s
  | .dbgLock sess val => Sys2Proof.Machine.execDbgLock sess val s
  | .dbgClose sess val => Sys2Proof.Machine.execDbgClose sess val s
  | .extest cells => Sys2Proof.Machine.execExtest cells s
  | .samplePreload pins cells => Sys2Proof.Machine.execSamplePreload pins cells s
  | .idcode => Sys2Proof.Machine.execIdcode s
  | .clamp => Sys2Proof.Machine.execClamp s
  | .highz => Sys2Proof.Machine.execHighz s
  | .bypass => Sys2Proof.Machine.execBypass s
  | .dbgStatus => Sys2Proof.Machine.execDbgStatus s
  | .dbgChallenge level => Sys2Proof.Machine.execDbgChallenge level s
  | .dbgResponse key sig => Sys2Proof.Machine.execDbgResponse key sig s
  | .nonceExpire => Sys2Proof.Machine.execNonceExpire s
  | .authLockoutExpire => Sys2Proof.Machine.execAuthLockoutExpire s
  | .dbgAccess dr => Sys2Proof.Machine.execDbgAccess dr s
  | .dbgClusterHalt k => Sys2Proof.Machine.execDbgClusterHalt k s
  | .dbgClusterStep k => Sys2Proof.Machine.execDbgClusterStep k s
  | .dbgClusterRun k => Sys2Proof.Machine.execDbgClusterRun k s
  | .powerRequest sess val => Sys2Proof.Machine.execPowerRequest sess val s
  | .powerTransitionDone => Sys2Proof.Machine.execPowerTransitionDone s
  | .deepWake ok => Sys2Proof.Machine.execDeepWake ok s
  | .plinthIteration x => Sys2Proof.Machine.execPlinthIteration x s
  | .hardwareTrip what => Sys2Proof.Machine.execHardwareTrip what s
  | .clusterGateDone k => Sys2Proof.Machine.execClusterGateDone k s
  | .clusterWakeDone k => Sys2Proof.Machine.execClusterWakeDone k s
  | .sensFaultyWrite sess val => Sys2Proof.Machine.execSensFaultyWrite sess val s
  | .mboxGetState => Sys2Proof.Machine.execMboxGetState s
  | .mboxFwStage ok => Sys2Proof.Machine.execMboxFwStage s ok
  | .mboxFwCommit ok => Sys2Proof.Machine.execMboxFwCommit s ok
  | .mboxTripLog => Sys2Proof.Machine.execMboxTripLog s
  | .mboxPatinaRead => Sys2Proof.Machine.execMboxPatinaRead s
  | .mboxSetWake => Sys2Proof.Machine.execMboxSetWake s
  | .plinthRestart => Sys2Proof.Machine.execPlinthRestart s
  | .fwStartTimeout => Sys2Proof.Machine.execFwStartTimeout s
  | .supplyChange rail inWindow => Sys2Proof.Machine.execSupplyChange rail inWindow s
  | .supplyCheckPass => Sys2Proof.Machine.execSupplyCheckPass s
  | .aonRstRelease devid => Sys2Proof.Machine.execAonRstRelease devid s
  | .resetNAssert => Sys2Proof.Machine.execResetNAssert s
  | .resetNRelease devid p0x4x4 p1x4x4 => Sys2Proof.Machine.execResetNRelease devid p0x4x4 p1x4x4 s
  | .perstRelease port => Sys2Proof.Machine.execPerstRelease port s
  | .phasePllDone => Sys2Proof.Machine.execPhasePllDone s
  | .phaseConfigDone => Sys2Proof.Machine.execPhaseConfigDone s
  | .phaseRepairDone => Sys2Proof.Machine.execPhaseRepairDone s
  | .phaseHbmDone ok => Sys2Proof.Machine.execPhaseHbmDone ok s
  | .phaseCalDone bad => Sys2Proof.Machine.execPhaseCalDone s bad
  | .phaseCstoreDone verify => Sys2Proof.Machine.execPhaseCstoreDone s verify
  | .phaseTreesDone => Sys2Proof.Machine.execPhaseTreesDone s
  | .phaseRampDone => Sys2Proof.Machine.execPhaseRampDone s
  | .phasePlaceDone => Sys2Proof.Machine.execPhasePlaceDone s
  | .aerError port func uncor => Sys2Proof.Machine.execAerError port func uncor s
  | .d3hotTransition ss d3 => Sys2Proof.Machine.execD3hotTransition ss d3 s
  | .bistInvalidCmd sess val => Sys2Proof.Machine.execBistInvalidCmd sess val s
  | .mboxInvalidOp => Sys2Proof.Machine.execMboxInvalidOp s
  | .imageRunning => Sys2Proof.Machine.execImageRunning s
  | .testLogicReset => Sys2Proof.Machine.execTestLogicReset s

end Sys2Proof.Machine
end

