-- ==== Sys2Proof/Safety.lean ====
section
/-! DEFINITION. What the statements call a good state, a write that is performed, and a part left alone. -/

namespace Sys2Proof.Machine

/-- HBM and NVM are in canonical form and inside their sizes (R25, R27). -/
def State.memOk (s : State) : Prop :=
  Memory.wf hbmDefault hbmSize s.hbm = true ∧ Memory.wf nvmDefault nvmSize s.nvm = true

/-- No write that takes effect after the session's own has come before it in this fabric cycle: neither of the register, nor
of the low word of its pair, in the shared copy or the session's (R19). -/
def Dev.foremost (d : Dev) (ss : Nat) (pg : Page) (off : Nat) : Bool :=
  [pg.base + off, pg.base + off - 4, sessKey ss + (pg.base + off), sessKey ss + (pg.base + off) - 4].all fun key =>
    !d.outranked ss key

/-- A host's write of register `off` of page `pg` is performed: the session acts and none of its accesses waits (R18, R226),
no BLOCK_RESET of the page came in this fabric cycle (R21), the device's state leaves the page open (R381, R401), its
cluster is powered (R22), its feature present (R4), the writer has the right that the register asks for (R353, R357), for a
command the block is ready and takes commands (R352, R402), and no write that takes effect after it has come before (R19). -/
def Dev.lets (d : Dev) (ss : Nat) (pg : Page) (off : Nat) (who : Who) (cmd : Bool) : Bool :=
  d.acts ss && !d.waits ss && !(tget (fun _ => none) d.pageReset pg.base == some d.cycle) && !d.closed pg off && !d.gated pg
    && d.present pg && !d.absent pg off && d.may ss pg who && (!cmd || (!d.quiesced pg && d.ready pg)) && d.foremost ss pg off

/-- The lane's program stands at the instruction `iw` of opcode `op`: it may execute (R133), nothing has been decoded
ahead, no loop is being replayed (R127) and no stop has been found (R137), the PC lies in the session's region (R105), whose
words are sound (R107), the instruction is valid (R109), and a time `due` from P lies at least 8 T0 ahead (R130). -/
def Dev.stands (d : Dev) (L : Nat) (iw : BitVec 128) (op : Nat) (due : Option Nat) : Bool :=
  d.canRun L && iwOpcode iw == op && (d.lane L).records.isEmpty && ((d.lane L).loops.head?.all fun f => !f.play)
    && (d.lane L).stopErr.isNone && decide (d.get (PROG_PC.PC L) < d.evsEntries L)
    && !d.evsPoison L (16 * d.get (PROG_PC.PC L)) 16 && !iwInvalid iw && !d.lateFor L d.epoch due

/-- The engine of cluster `k` stands at the microword of opcode `op` with the operand fields `w`, for the thread `ti`,
and the word passes parity (R138, R143). -/
def Dev.fetches (d : Dev) (k op : Nat) (w : Micro) (ti : Nat) : Bool :=
  d.onEngine k == some ti && (d.cl k).word (d.cl k).upc == microWord op w && !evenParity (microWord op w)

/-- Operand A of a microword on thread `ti` (R139). -/
def Dev.uA (d : Dev) (k ti : Nat) (w : Micro) : DWord := d.operand k ti ((d.cl k).thread ti) w.a.toNat
/-- Operand B of a microword on thread `ti` (R139). -/
def Dev.uB (d : Dev) (k ti : Nat) (w : Micro) : DWord := d.operand k ti ((d.cl k).thread ti) w.b.toNat

/-- A GO of the Caliper command `op` by session `ss` starts it at once (R253, R260, R305): the write is performed, the
session may give the command and has none pending, nothing waits or runs, and the command's cluster is powered. -/
def Dev.calStarts (d : Dev) (ss : Nat) (val : Word) (op : Nat) : Bool :=
  d.lets ss calPage 0x120 (whoOf calPage 0x120) true && wbit val 31 && wfield val 0 4 == op && d.calAllowed ss (d.calCmdOf ss val)
    && d.cal.queue.isEmpty && d.cal.auto.isEmpty && d.cal.jobs.isEmpty
    && (op == 7 || op == 8 || d.powered (wfield val 5 4))

/-- No result record waits for its credit without a TMU, in any cluster (R179). -/
def Dev.noRecordWaits (d : Dev) : Bool := (List.range 16).all fun k => (d.cl k).waitRec.isEmpty

/-- A record that got its credit of ring `n` in this fabric cycle waits for its transfer (R366). -/
def Dev.lateCredit (d : Dev) (n : Nat) : Bool :=
  (List.range 16).any fun k => (tget (fun _ => []) d.sched.wait k).any fun x =>
    x.since == d.cycle && (match x.what with | .record _ m _ => m == n | _ => false)

/-- Every register outside `ks` reads the same in both. -/
def Dev.regsBut (d e : Dev) (ks : List Nat) : Prop := ∀ j, j ∉ ks → e.reg j = d.reg j

/-! ### What a command may change -/

/-- A part of the state: the queue, the memories, time, the registers of one kind of page (all copies), or the internal
state of one block. -/
inductive Part where
  | queue | hbm | nvm | time | options
  /-- the number of free values drawn: MODEL's own -/
  | free
  /-- what stands between two accesses: held and captured words, accesses in wait, and what is remembered of the present fabric
  cycle: bits set, block resets, writes and service requests (R10, R18 to R21, R303) -/
  | access
  /-- the common registers of every page (R351), and the MSI-X tables -/
  | common | msixTable
  /-- the registers of a device page, and of the pages of clusters, from offset 0x20 upwards -/
  | dev (n : Nat) | ctl | seq | arm | pool | freq | ch | tmu
  | timeBase | dirum | lockGroups | lanes | phys | tmus | freqs | clusters | lines | matrix | caliper | pointing | sched
  | selfTest | faults | sessions | links | rings | nvmQueue | security | plinth | boot | poison
  | sent | dbg | reply | smbReply | tdo
  deriving DecidableEq, Repr

/-- The part to which the register with key `key` belongs. -/
def keyPart (key : Nat) : Part :=
  match placeOf (key % 0x4000000) with
  | .page pg off => if off < 0x20 then .common else match pg with
    | .dev n => .dev n.val
    | .ctl _ => .ctl
    | .seq _ => .seq
    | .arm _ => .arm
    | .pool _ => .pool
    | .freq _ => .freq
    | .ch _ _ => .ch
    | .tmu _ _ => .tmu
  | _ => .msixTable

/-- The part is a kind of registers. -/
def Part.isReg (p : Part) : Bool :=
  match p with
  | .common | .msixTable | .dev _ | .ctl | .seq | .arm | .pool | .freq | .ch | .tmu => true
  | _ => false

/-- The registers of the part read the same in both. -/
def sameRegs (p : Part) (s t : State) : Prop := ∀ key, keyPart key = p → t.reg key = s.reg key

/-- The part is the same in both. -/
def Part.same (p : Part) (s t : State) : Prop :=
  match p with
  | .queue => t.pending = s.pending
  | .hbm => t.hbm = s.hbm
  | .nvm => t.nvm = s.nvm
  | .time => t.epoch = s.epoch ∧ t.up = s.up
  | .options => t.options = s.options
  | .free => t.free = s.free
  | .access => t.hold = s.hold ∧ t.capt = s.capt ∧ t.fresh = s.fresh ∧ t.pageReset = s.pageReset ∧ t.ports = s.ports
      ∧ t.again = s.again ∧ t.undo = s.undo ∧ t.serves = s.serves ∧ t.stalled = s.stalled
  | .common => sameRegs .common s t
  | .msixTable => sameRegs .msixTable s t
  | .dev n => sameRegs (.dev n) s t
  | .ctl => sameRegs .ctl s t
  | .seq => sameRegs .seq s t
  | .arm => sameRegs .arm s t
  | .pool => sameRegs .pool s t
  | .freq => sameRegs .freq s t
  | .ch => sameRegs .ch s t
  | .tmu => sameRegs .tmu s t
  | .timeBase => t.tb = s.tb
  | .dirum => t.dirum = s.dirum
  | .lockGroups => t.lgs = s.lgs
  | .lanes => t.lanes = s.lanes
  | .phys => t.phys = s.phys
  | .tmus => t.tmus = s.tmus
  | .freqs => t.freqs = s.freqs ∧ t.fins = s.fins
  | .clusters => t.clusters = s.clusters
  | .lines => t.lines = s.lines
  | .matrix => t.gmx = s.gmx ∧ t.gStage = s.gStage ∧ t.fade = s.fade ∧ t.loopQ = s.loopQ
  | .caliper => t.cal = s.cal
  | .pointing => t.pe = s.pe
  | .sched => t.sched = s.sched
  | .selfTest => t.bist = s.bist
  | .faults => t.flt = s.flt
  | .sessions => t.sess = s.sess
  | .links => t.links = s.links
  | .rings => t.rings = s.rings
  | .nvmQueue => t.nvmQ = s.nvmQ ∧ t.nvmCur = s.nvmCur
  | .security => t.sec = s.sec
  | .plinth => t.pln = s.pln
  | .boot => t.boot = s.boot
  | .poison => t.poison = s.poison
  | .sent => t.out = s.out
  | .dbg => t.dbg = s.dbg
  | .reply => t.reply = s.reply ∧ t.replyEp = s.replyEp
  | .smbReply => t.smb = s.smb
  | .tdo => t.tdo = s.tdo

/-- The parts that a command may change, on its own effect or on a failure, message or interrupt that it raises. -/
def touches (i : Instr) (p : Part) : Bool :=
  match i with
  | .registerWrite .. | .blockReset .. | .smbPowerReq .. =>
    !([.dbg, .hbm, .links, .nvm, .options, .poison, .queue, .reply, .tdo, .time] : List Part).contains p
  | .reg64LowRead .. =>
    ([.dev 4, .dev 5, .dev 6, .dev 7, .dev 11, .access, .ch, .clusters, .common, .ctl, .faults, .freqs, .lanes,
      .reply, .selfTest, .sent, .seq, .sessions, .tmu, .tmus] : List Part).contains p
  | .bar0BadAccess .. | .pageClaim .. | .pageRelease .. | .pageLockWrite .. | .fltTailWrite .. | .fltWinSelWrite .. |
    .fltStickyClear .. | .faultInject .. | .sessAttrSet .. | .aerError .. =>
    ([.dev 6, .access, .common, .faults, .sent, .sessions] : List Part).contains p
  | .pageEnableWrite .. | .pageQuiesceWrite .. =>
    !([.dbg, .free, .hbm, .links, .nvm, .options, .poison, .queue, .reply, .smbReply, .tdo,
      .time] : List Part).contains p
  | .cplLimitExpire .. =>
    ([.dev 6, .dev 9, .access, .common, .faults, .sent] : List Part).contains p
  | .bistRun .. | .bistClearUnit .. | .bistCompact .. | .bistInvalidCmd .. =>
    ([.dev 5, .dev 6, .access, .common, .faults, .nvmQueue, .selfTest, .sent, .sessions] : List Part).contains p
  | .faultCollect .. =>
    ([.dev 6, .faults] : List Part).contains p
  | .faultRingWrite .. =>
    ([.dev 6, .access, .common, .faults, .free, .hbm, .sched, .sent, .sessions] : List Part).contains p
  | .linkUp .. =>
    ([.links, .sessions] : List Part).contains p
  | .bar2Read .. =>
    ([.dev 6, .dev 9, .access, .common, .faults, .reply, .sched, .sent] : List Part).contains p
  | .bar2Write .. =>
    ([.dev 6, .dev 9, .access, .common, .faults, .hbm, .poison, .sched] : List Part).contains p
  | .msixMaskChange .. =>
    ([.access, .sent, .sessions] : List Part).contains p
  | .ringCreate .. | .ringDestroy .. | .ringDestroyDone .. | .ringDbWrite .. | .drainBatch .. =>
    p.isReg || ([.access, .clusters, .faults, .rings, .sched, .sent, .sessions] : List Part).contains p
  | .ringCoalesceExpire .. =>
    ([.rings, .sent, .sessions] : List Part).contains p
  | .smbIdent .. | .smbPower .. | .smbTemps .. | .smbSupplies .. | .smbFaults .. | .smbEpoch .. | .smbMboxRd .. |
    .smbBadCommand .. =>
    ([.smbReply] : List Part).contains p
  | .smbMboxWr .. | .mboxTripLog .. | .mboxPatinaRead .. | .mboxSetWake .. | .mboxInvalidOp .. =>
    ([.dev 8, .access, .common, .plinth, .sent, .sessions, .smbReply] : List Part).contains p
  | .nvmRead .. | .nvmCheck .. | .nvmInvalidCmd .. =>
    ([.dev 6, .dev 11, .access, .common, .faults, .nvmQueue, .sent, .sessions] : List Part).contains p
  | .nvmCmdDone .. =>
    ([.dev 11, .access, .common, .free, .nvmQueue, .sent, .sessions] : List Part).contains p
  | .lcTargetWrite .. | .lifecycleGo .. =>
    ([.dev 6, .dev 7, .access, .common, .faults, .nvmQueue, .security] : List Part).contains p
  | .dbgLock .. | .dbgClose .. =>
    ([.dev 6, .dev 7, .access, .clusters, .common, .faults, .security] : List Part).contains p
  | .extest .. =>
    ([.free, .security, .tdo] : List Part).contains p
  | .samplePreload .. | .idcode .. | .clamp .. | .highz .. | .bypass .. | .dbgStatus .. =>
    ([.security, .tdo] : List Part).contains p
  | .dbgChallenge .. =>
    ([.dev 6, .dev 7, .access, .clusters, .common, .faults, .free, .security, .tdo] : List Part).contains p
  | .dbgResponse .. =>
    ([.dev 6, .dev 7, .access, .common, .faults, .security, .sent, .sessions, .tdo] : List Part).contains p
  | .nonceExpire .. | .testLogicReset .. =>
    ([.security] : List Part).contains p
  | .authLockoutExpire .. =>
    ([.dev 7, .security] : List Part).contains p
  | .dbgAccess .. =>
    !([.hbm, .links, .nvm, .options, .poison, .queue, .reply, .smbReply, .time] : List Part).contains p
  | .dbgClusterHalt .. | .dbgClusterRun .. =>
    ([.clusters, .security, .tdo] : List Part).contains p
  | .dbgClusterStep .. =>
    p.isReg || ([.access, .caliper, .clusters, .faults, .free, .freqs, .lanes, .lines, .lockGroups, .phys, .sched,
      .security, .selfTest, .sent, .sessions, .tdo, .tmus] : List Part).contains p
  | .sensFaultyWrite .. =>
    ([.dev 6, .dev 14, .access, .common, .faults, .plinth] : List Part).contains p
  | .mboxGetState .. =>
    ([.dev 8, .access, .common, .free, .plinth, .sent, .sessions] : List Part).contains p
  | .mboxFwStage .. | .mboxFwCommit .. =>
    ([.dev 8, .access, .common, .free, .nvm, .plinth, .sent, .sessions] : List Part).contains p
  | .d3hotTransition .. =>
    ([.sent, .sessions] : List Part).contains p
  | .triggerSlotBusyEnd .. | .gateChange .. =>
    p.isReg || ([.lanes] : List Part).contains p
  | .swTriggerGo .. =>
    p.isReg || ([.access, .faults, .lanes] : List Part).contains p
  | .laneCfgWrite .. =>
    p.isReg || ([.access, .faults] : List Part).contains p
  | .candidateCommit .. | .strobeSample .. | .fireEmit .. =>
    p.isReg || ([.access, .clusters, .faults, .lanes, .phys, .sent, .sessions] : List Part).contains p
  | .cmpTransition .. =>
    p.isReg || ([.access, .clusters, .faults, .freqs, .lanes, .sent, .sessions] : List Part).contains p
  | .ctxCommitWrite .. =>
    p.isReg || ([.access, .clusters, .faults, .lanes, .selfTest, .tmus] : List Part).contains p
  | .ctxReadCapture .. =>
    p.isReg || ([.access, .clusters, .lanes, .reply, .selfTest, .tmus] : List Part).contains p
  | .edgeFetchDone .. | .waitEvtTimeout .. | .loop .. | .endloop .. | .call .. | .ret .. | .reservedOpcode .. |
    .primeComplete .. | .engineDispatch .. | .seqLoad .. | .seqLoadAbort .. | .loadCheckDone .. =>
    p.isReg || ([.access, .clusters, .faults, .lanes, .lines, .lockGroups, .sent, .sessions] : List Part).contains p
  | .period .. | .edge .. | .pulse .. | .burst .. | .ctx .. | .waitEvt .. | .measure .. | .matchResults .. | .fire ..
    | .halt .. | .underrun .. | .progStart .. | .stopEffect .. =>
    p.isReg || ([.access, .clusters, .faults, .freqs, .lanes, .lines, .lockGroups, .rings, .sched, .sent, .sessions,
      .tmus] : List Part).contains p
  | .prime .. | .progGo .. | .progStop .. =>
    p.isReg || ([.access, .clusters, .dirum, .faults, .freqs, .lanes, .selfTest, .tmus] : List Part).contains p
  | .uNop .. | .uMov .. | .uAdd .. | .uSub .. | .uAnd .. | .uOr .. | .uXor .. | .uShl .. | .uShr .. | .uSar .. |
    .uLdi .. | .uCmp .. | .uTst .. | .uMin .. | .uMax .. | .uSext .. | .uFld .. | .uNexti .. | .uEndt .. | .uJpc .. |
    .uPushl .. | .uEndl .. | .uPushc .. | .uPopc .. | .uPerq .. | .uCanq .. | .uCtxq .. | .uMatq .. | .uFireq .. |
    .uMeasq .. | .uWaitq .. | .uHaltq .. | .uStopl .. | .uBr .. | .uCallu .. | .uRetu .. | .uTrap .. | .uLdx .. |
    .uStx .. | .uHbmrd .. | .uHbmwr .. | .uHbmsync .. | .uSigf .. | .uMbox .. | .uSell .. | .uFlip .. | .uInvc .. |
    .uFetchq .. | .uReti .. | .loadInstallDone .. =>
    p.isReg || ([.access, .caliper, .clusters, .faults, .free, .freqs, .lanes, .lines, .lockGroups, .phys, .sched,
      .selfTest, .sent, .sessions, .tmus] : List Part).contains p
  | .hbmsyncComplete .. =>
    p.isReg || ([.access, .clusters, .hbm] : List Part).contains p
  | .quiesceComplete .. =>
    p.isReg
  | .loadCopyDone .. =>
    p.isReg || ([.access, .clusters, .faults, .hbm, .lanes, .lockGroups, .sent, .sessions] : List Part).contains p
  | .mchkClr .. =>
    p.isReg || ([.access, .faults, .freqs, .tmus] : List Part).contains p
  | .crossingFifoError .. | .lgClaim .. | .lgRelease .. | .lgGo .. | .lgStop .. | .lgSwitch .. =>
    p.isReg || ([.access, .caliper, .clusters, .dirum, .faults, .freqs, .lanes, .lines, .lockGroups, .matrix,
      .selfTest, .sent, .sessions, .tmus] : List Part).contains p
  | .refSelWrite .. | .refQualWrite .. | .refinQualified .. | .refRevertWrite .. =>
    p.isReg || ([.access, .caliper, .dirum, .faults, .free, .freqs, .timeBase] : List Part).contains p
  | .refinLoss .. | .pllRelock .. =>
    p.isReg || ([.access, .caliper, .dirum, .faults, .freqs, .plinth, .timeBase] : List Part).contains p
  | .refLockAchieved .. | .slewComplete .. =>
    p.isReg || ([.caliper, .dirum, .freqs, .timeBase] : List Part).contains p
  | .pllLockLoss .. =>
    p.isReg || ([.access, .boot, .caliper, .clusters, .dirum, .faults, .free, .freqs, .lanes, .lines, .lockGroups,
      .plinth, .selfTest, .sent, .sessions, .timeBase, .tmus] : List Part).contains p
  | .pllRelockTimeout .. =>
    ([.timeBase] : List Part).contains p
  | .ageAdjWrite .. | .patinaHourlyAdjust .. =>
    p.isReg || ([.access, .faults, .timeBase] : List Part).contains p
  | .patinaAppend .. =>
    p.isReg || ([.free, .nvm, .timeBase] : List Part).contains p
  | .patinaFit .. | .rampLockDone .. =>
    p.isReg
  | .treeRotatorStep .. =>
    p.isReg || ([.clusters] : List Part).contains p
  | .lgMembersWrite .. =>
    p.isReg || ([.access, .faults, .lockGroups] : List Part).contains p
  | .lgStart .. =>
    p.isReg || ([.access, .clusters, .faults, .freqs, .lanes, .lines, .lockGroups, .sent, .sessions,
      .tmus] : List Part).contains p
  | .syncRisingEdge .. =>
    p.isReg || ([.access, .dirum] : List Part).contains p
  | .syncClassify .. | .epochArm .. | .armCancel .. | .hbRestart .. | .freqGo .. | .freqStop .. | .freqAbort .. =>
    p.isReg || ([.access, .clusters, .dirum, .faults, .freqs] : List Part).contains p
  | .epochTake .. =>
    p.isReg || ([.access, .clusters, .dirum, .faults, .freqs, .lanes, .lines, .lockGroups, .matrix, .rings, .sched,
      .selfTest, .sent, .sessions, .time, .tmus] : List Part).contains p
  | .triggerSlotConfigWrite .. | .matrixWrite .. | .globalMatrixWrite .. | .armClaim .. | .armRelease .. |
    .armShareSet .. | .armShareClr .. | .ginBindWrite .. | .glClaim .. | .glRelease .. | .glShareSet .. |
    .glShareClr .. | .glBind .. | .glUnbind .. =>
    p.isReg || ([.access, .clusters, .faults, .lines, .matrix] : List Part).contains p
  | .requestEligible .. =>
    ([.clusters] : List Part).contains p
  | .poolArbitration .. | .creditGrant .. | .creditWaitExpire .. =>
    p.isReg || ([.access, .caliper, .clusters, .faults, .rings, .sched, .sent, .sessions, .tmus] : List Part).contains
      p
  | .slotCfgWrite .. | .freqCfgWrite .. =>
    p.isReg || ([.access, .faults] : List Part).contains p
  | .tmuStart .. | .tmuStop .. =>
    p.isReg || ([.access, .clusters, .tmus] : List Part).contains p
  | .tmuTimeout .. | .rampLockTimeout .. =>
    p.isReg || ([.access, .clusters, .faults, .lanes, .sent, .sessions, .tmus] : List Part).contains p
  | .tmuConvertDone .. | .tmuInject .. | .stampRequest .. =>
    p.isReg || ([.access, .clusters, .faults, .freqs, .lanes, .rings, .sched, .sent, .sessions,
      .tmus] : List Part).contains p
  | .refPairConvert .. =>
    p.isReg || ([.tmus] : List Part).contains p
  | .tmuPositionHandover .. =>
    p.isReg || ([.access, .caliper, .clusters, .faults, .freqs, .lanes, .selfTest, .sent, .sessions,
      .tmus] : List Part).contains p
  | .gateOpen .. | .gateClose .. =>
    p.isReg || ([.clusters, .freqs] : List Part).contains p
  | .freqResultPost .. =>
    p.isReg || ([.access, .clusters, .faults, .free, .freqs, .sent, .sessions] : List Part).contains p
  | .freqResultCapture .. =>
    ([.access, .freqs, .reply] : List Part).contains p
  | .eventDelivery .. =>
    p.isReg || ([.access, .clusters, .dirum, .faults, .freqs, .lanes, .lines, .lockGroups, .matrix, .rings, .sched,
      .sent, .sessions, .tmus] : List Part).contains p
  | .armFire .. =>
    p.isReg || ([.access, .clusters, .dirum, .faults, .sent, .sessions] : List Part).contains p
  | .loopCheckDone .. =>
    !([.dbg, .hbm, .links, .nvm, .options, .poison, .queue, .smbReply, .tdo, .time] : List Part).contains p
  | .calLanes .. | .calCluster .. | .calTmuPool .. | .calCdExternal .. | .calPath .. | .calTree .. | .calStore .. |
    .calRestoreFactory .. | .calAbort .. | .swapStart .. =>
    p.isReg || ([.access, .caliper, .clusters, .faults, .freqs, .nvmQueue, .selfTest, .sent, .sessions,
      .tmus] : List Part).contains p
  | .calUnitStart .. | .calTmuWaitExpire .. | .calPassDone .. | .calTreeMeasure .. | .bgBurstDone .. |
    .csMarchDone .. =>
    p.isReg || ([.access, .caliper, .clusters, .faults, .freqs, .lanes, .nvmQueue, .phys, .rings, .sched, .selfTest,
      .sent, .sessions, .tmus] : List Part).contains p
  | .tempTableRecompute .. =>
    p.isReg || ([.access, .clusters, .faults, .phys, .selfTest, .tmus] : List Part).contains p
  | .tableInstallStep .. =>
    p.isReg || ([.phys, .tmus] : List Part).contains p
  | .calStoreDone .. =>
    p.isReg || ([.access, .caliper, .clusters, .faults, .free, .freqs, .nvm, .nvmQueue, .phys, .selfTest, .sent,
      .sessions, .tmus] : List Part).contains p
  | .peRequestSubmit .. =>
    p.isReg || ([.access, .faults, .pointing] : List Part).contains p
  | .pePlace .. | .peMaquette .. | .peApply .. =>
    p.isReg || ([.access, .clusters, .faults, .freqs, .lanes, .lines, .lockGroups, .pointing, .selfTest, .sent,
      .sessions, .tmus] : List Part).contains p
  | .peRelease .. | .peHbmAlloc .. | .peInvalidOp .. =>
    p.isReg || ([.access, .faults, .lanes, .pointing, .sent, .sessions] : List Part).contains p
  | .peHbmFree .. =>
    p.isReg || ([.access, .faults, .hbm, .pointing, .poison, .sent, .sessions] : List Part).contains p
  | .laneReleaseEffect .. =>
    p.isReg || ([.access, .clusters, .faults, .lanes, .lines, .lockGroups] : List Part).contains p
  | .contextClearDone .. =>
    p.isReg || ([.lanes] : List Part).contains p
  | .swapLoadDone .. =>
    ([.clusters] : List Part).contains p
  | .swapFlip .. =>
    p.isReg || ([.access, .clusters, .faults, .freqs, .lanes, .selfTest, .sent, .sessions,
      .tmus] : List Part).contains p
  | .hbmGrant .. =>
    p.isReg || ([.access, .clusters, .faults, .hbm, .lanes, .lines, .lockGroups, .poison, .rings, .sched, .sent,
      .sessions] : List Part).contains p
  | .sliceStart .. | .sliceStepDone .. | .powerRequest .. | .plinthIteration .. =>
    !([.dbg, .hbm, .links, .nvm, .options, .poison, .queue, .smbReply, .tdo, .time] : List Part).contains p
  | .repairRecordWritten .. =>
    p.isReg || ([.access, .faults, .free, .nvm, .nvmQueue, .selfTest] : List Part).contains p
  | .compactionDone .. =>
    p.isReg || ([.access, .faults, .free, .nvm, .nvmQueue, .selfTest, .sent, .sessions] : List Part).contains p
  | .vfEnableChange .. | .functionLevelReset .. | .linkDown .. | .sessCtrlReset .. =>
    p.isReg || ([.access, .caliper, .clusters, .faults, .freqs, .lanes, .links, .matrix, .nvmQueue, .pointing, .rings,
      .selfTest, .sent, .sessions, .tmus] : List Part).contains p
  | .sessionResetDone .. =>
    p.isReg || ([.access, .clusters, .faults, .hbm, .lines, .lockGroups, .matrix, .pointing, .poison, .rings, .sched,
      .sent, .sessions] : List Part).contains p
  | .lifecycleRecordDone .. =>
    p.isReg || ([.access, .caliper, .clusters, .faults, .freqs, .lanes, .matrix, .nvm, .nvmQueue, .phys, .plinth,
      .pointing, .rings, .security, .selfTest, .sent, .sessions, .tmus] : List Part).contains p
  | .powerTransitionDone .. =>
    !([.nvm, .options, .queue, .smbReply, .tdo, .time] : List Part).contains p
  | .deepWake .. =>
    p.isReg || ([.access, .boot, .caliper, .clusters, .dirum, .faults, .free, .freqs, .hbm, .nvmQueue, .phys, .plinth,
      .security, .selfTest, .sent, .sessions, .timeBase, .tmus] : List Part).contains p
  | .hardwareTrip .. | .plinthRestart .. | .fwStartTimeout .. | .resetNAssert .. =>
    !([.options, .queue, .sent, .smbReply, .tdo, .time] : List Part).contains p
  | .clusterGateDone .. =>
    p.isReg || ([.clusters, .lanes, .plinth] : List Part).contains p
  | .clusterWakeDone .. =>
    p.isReg || ([.access, .caliper, .clusters, .faults, .free, .freqs, .nvmQueue, .plinth,
      .tmus] : List Part).contains p
  | .supplyChange .. | .aonRstRelease .. =>
    !([.options, .queue, .sent] : List Part).contains p
  | .supplyCheckPass .. =>
    p.isReg || ([.boot] : List Part).contains p
  | .resetNRelease .. =>
    p.isReg || ([.boot, .security] : List Part).contains p
  | .perstRelease .. =>
    ([.boot] : List Part).contains p
  | .phasePllDone .. =>
    p.isReg || ([.boot, .caliper, .dirum, .freqs, .timeBase] : List Part).contains p
  | .phaseConfigDone .. =>
    p.isReg || ([.boot, .plinth] : List Part).contains p
  | .phaseRepairDone .. =>
    p.isReg || ([.boot, .dirum, .phys, .selfTest, .tmus] : List Part).contains p
  | .phaseHbmDone .. =>
    p.isReg || ([.boot, .hbm] : List Part).contains p
  | .phaseCalDone .. =>
    p.isReg || ([.access, .boot, .caliper, .faults, .phys, .tmus] : List Part).contains p
  | .phaseCstoreDone .. =>
    p.isReg || ([.access, .boot, .caliper, .clusters, .faults, .free, .freqs, .hbm, .lanes, .lines, .lockGroups,
      .selfTest, .sent, .sessions, .tmus] : List Part).contains p
  | .phaseTreesDone .. =>
    p.isReg || ([.access, .boot, .caliper, .clusters, .faults, .free, .freqs, .phys, .selfTest,
      .tmus] : List Part).contains p
  | .phaseRampDone .. =>
    p.isReg || ([.boot, .free] : List Part).contains p
  | .phasePlaceDone .. =>
    p.isReg || ([.access, .boot, .caliper, .nvmQueue, .plinth, .sent, .sessions] : List Part).contains p
  | .imageRunning .. =>
    p.isReg || ([.access, .boot, .clusters, .faults, .free, .freqs, .lanes, .plinth, .security,
      .selfTest] : List Part).contains p

/-- Four kinds of commands, by where they act. -/
inductive Section where
  | port | engine | unit | service
  deriving DecidableEq, Repr

/-- The kind of a command: at the hosts' and management ports; in lanes, programs and the micro-engines; in TMUs,
Armature, time base and Dirum; in Caliper, the Pointing Engine, self-test, sessions, power and reset. -/
def sect (i : Instr) : Section :=
  match i with
  | .registerWrite .. | .reg64LowRead .. | .bar0BadAccess .. | .pageEnableWrite .. | .pageQuiesceWrite .. |
    .blockReset .. | .pageClaim .. | .pageRelease .. | .pageLockWrite .. | .cplLimitExpire .. | .bistRun .. |
    .bistClearUnit .. | .bistCompact .. | .faultCollect .. | .faultRingWrite .. | .fltTailWrite .. |
    .fltWinSelWrite .. | .fltStickyClear .. | .faultInject .. | .linkUp .. | .sessAttrSet .. | .bar2Read .. |
    .bar2Write .. | .msixMaskChange .. | .ringCreate .. | .ringDestroy .. | .ringDestroyDone .. | .ringDbWrite .. |
    .drainBatch .. | .ringCoalesceExpire .. | .smbIdent .. | .smbPower .. | .smbPowerReq .. | .smbTemps .. |
    .smbSupplies .. | .smbFaults .. | .smbEpoch .. | .smbMboxWr .. | .smbMboxRd .. | .smbBadCommand .. | .nvmRead .. |
    .nvmCheck .. | .nvmInvalidCmd .. | .nvmCmdDone .. | .lcTargetWrite .. | .lifecycleGo .. | .dbgLock .. |
    .dbgClose .. | .extest .. | .samplePreload .. | .idcode .. | .clamp .. | .highz .. | .bypass .. | .dbgStatus .. |
    .dbgChallenge .. | .dbgResponse .. | .nonceExpire .. | .authLockoutExpire .. | .dbgAccess .. | .dbgClusterHalt ..
    | .dbgClusterStep .. | .dbgClusterRun .. | .sensFaultyWrite .. | .mboxGetState .. | .mboxFwStage .. |
    .mboxFwCommit .. | .mboxTripLog .. | .mboxPatinaRead .. | .mboxSetWake .. | .aerError .. | .d3hotTransition .. |
    .bistInvalidCmd .. | .mboxInvalidOp .. | .testLogicReset .. => .port
  | .triggerSlotBusyEnd .. | .gateChange .. | .swTriggerGo .. | .laneCfgWrite .. | .candidateCommit .. |
    .strobeSample .. | .cmpTransition .. | .ctxCommitWrite .. | .ctxReadCapture .. | .edgeFetchDone .. | .period .. |
    .edge .. | .pulse .. | .burst .. | .ctx .. | .waitEvt .. | .waitEvtTimeout .. | .loop .. | .endloop .. | .call ..
    | .ret .. | .measure .. | .matchResults .. | .fire .. | .fireEmit .. | .halt .. | .reservedOpcode .. |
    .underrun .. | .prime .. | .primeComplete .. | .progGo .. | .progStart .. | .progStop .. | .stopEffect .. |
    .engineDispatch .. | .uNop .. | .uMov .. | .uAdd .. | .uSub .. | .uAnd .. | .uOr .. | .uXor .. | .uShl .. |
    .uShr .. | .uSar .. | .uLdi .. | .uCmp .. | .uTst .. | .uMin .. | .uMax .. | .uSext .. | .uFld .. | .uNexti .. |
    .uEndt .. | .uJpc .. | .uPushl .. | .uEndl .. | .uPushc .. | .uPopc .. | .uPerq .. | .uCanq .. | .uCtxq .. |
    .uMatq .. | .uFireq .. | .uMeasq .. | .uWaitq .. | .uHaltq .. | .uStopl .. | .uBr .. | .uCallu .. | .uRetu .. |
    .uTrap .. | .uLdx .. | .uStx .. | .uHbmrd .. | .uHbmwr .. | .uHbmsync .. | .hbmsyncComplete .. | .uSigf .. |
    .uMbox .. | .uSell .. | .uFlip .. | .uInvc .. | .uFetchq .. | .uReti .. | .seqLoad .. | .seqLoadAbort .. |
    .quiesceComplete .. | .loadCopyDone .. | .loadCheckDone .. | .loadInstallDone .. | .mchkClr .. => .engine
  | .crossingFifoError .. | .refSelWrite .. | .refQualWrite .. | .refinQualified .. | .refinLoss .. |
    .refLockAchieved .. | .refRevertWrite .. | .slewComplete .. | .pllLockLoss .. | .pllRelock .. |
    .pllRelockTimeout .. | .ageAdjWrite .. | .patinaAppend .. | .patinaFit .. | .patinaHourlyAdjust .. |
    .treeRotatorStep .. | .lgMembersWrite .. | .lgClaim .. | .lgRelease .. | .lgGo .. | .lgStop .. | .lgSwitch .. |
    .lgStart .. | .syncRisingEdge .. | .syncClassify .. | .epochTake .. | .epochArm .. | .armCancel .. | .hbRestart ..
    | .triggerSlotConfigWrite .. | .requestEligible .. | .poolArbitration .. | .slotCfgWrite .. | .tmuStart .. |
    .tmuStop .. | .tmuTimeout .. | .tmuConvertDone .. | .refPairConvert .. | .rampLockDone .. | .rampLockTimeout .. |
    .creditGrant .. | .creditWaitExpire .. | .tmuInject .. | .tmuPositionHandover .. | .freqCfgWrite .. | .freqGo .. |
    .freqStop .. | .freqAbort .. | .gateOpen .. | .stampRequest .. | .gateClose .. | .freqResultPost .. |
    .freqResultCapture .. | .eventDelivery .. | .armFire .. | .matrixWrite .. | .globalMatrixWrite .. |
    .loopCheckDone .. | .armClaim .. | .armRelease .. | .armShareSet .. | .armShareClr .. | .ginBindWrite .. |
    .glClaim .. | .glRelease .. | .glShareSet .. | .glShareClr .. | .glBind .. | .glUnbind .. => .unit
  | .calLanes .. | .calCluster .. | .calTmuPool .. | .calCdExternal .. | .calPath .. | .calTree .. | .calStore .. |
    .calRestoreFactory .. | .calAbort .. | .calUnitStart .. | .calTmuWaitExpire .. | .calPassDone .. |
    .calTreeMeasure .. | .tempTableRecompute .. | .tableInstallStep .. | .calStoreDone .. | .bgBurstDone .. |
    .peRequestSubmit .. | .pePlace .. | .peMaquette .. | .peApply .. | .peRelease .. | .peHbmAlloc .. | .peHbmFree ..
    | .peInvalidOp .. | .laneReleaseEffect .. | .contextClearDone .. | .swapStart .. | .swapLoadDone .. | .swapFlip ..
    | .hbmGrant .. | .sliceStart .. | .sliceStepDone .. | .csMarchDone .. | .repairRecordWritten .. |
    .compactionDone .. | .vfEnableChange .. | .functionLevelReset .. | .linkDown .. | .sessCtrlReset .. |
    .sessionResetDone .. | .lifecycleRecordDone .. | .powerRequest .. | .powerTransitionDone .. | .deepWake .. |
    .plinthIteration .. | .hardwareTrip .. | .clusterGateDone .. | .clusterWakeDone .. | .plinthRestart .. |
    .fwStartTimeout .. | .supplyChange .. | .supplyCheckPass .. | .aonRstRelease .. | .resetNAssert .. |
    .resetNRelease .. | .perstRelease .. | .phasePllDone .. | .phaseConfigDone .. | .phaseRepairDone .. |
    .phaseHbmDone .. | .phaseCalDone .. | .phaseCstoreDone .. | .phaseTreesDone .. | .phaseRampDone .. |
    .phasePlaceDone .. | .imageRunning .. => .service

/-- The cluster of a micro-op. -/
def microOf (i : Instr) : Option Clu :=
  match i with
  | .uNop k _ | .uMov k _ | .uAdd k _ | .uSub k _ | .uAnd k _ | .uOr k _ | .uXor k _ | .uShl k _ | .uShr k _ |
    .uSar k _ | .uLdi k _ | .uCmp k _ | .uTst k _ | .uMin k _ | .uMax k _ | .uSext k _ | .uFld k _ | .uNexti k _ |
    .uEndt k _ | .uJpc k _ | .uPushl k _ | .uEndl k _ | .uPushc k _ | .uPopc k _ | .uPerq k _ | .uCanq k _ |
    .uCtxq k _ | .uMatq k _ | .uFireq k _ | .uMeasq k _ | .uWaitq k _ | .uHaltq k _ | .uStopl k _ | .uBr k _ |
    .uCallu k _ | .uRetu k _ | .uTrap k _ | .uLdx k _ | .uStx k _ | .uHbmrd k _ | .uHbmwr k _ | .uHbmsync k _ |
    .uSigf k _ | .uMbox k _ | .uSell k _ | .uFlip k _ | .uInvc k _ | .uFetchq k _ | .uReti k _ => some k
  | _ => none

end Sys2Proof.Machine
end

