-- ==== Sys2Proof/Certificates/Slice0/Obligations.lean ====
section
/-! DEFINITION. The statements for the provers: what each command completes with, what it leaves alone, and what holds of
every step. -/

open Sys2Proof Sys2Proof.Machine

/-- With a command at the front of the queue, step is exec of that command on the state with the queue's rest. On an empty queue step answers a next state with an empty queue and the same memories, and while the master PLL is locked EPOCH_COARSE has gone up by one T0: that an idle step is one T0 is the model's choice (log entry 3). -/
def Obligations.StepRunsFrontCommand : Prop :=
  (∀ (c : Instr) (rest : List Instr) (s : State), s.pending = c :: rest →
    step s = exec c { s with pending := rest }) ∧
  (∀ (s : State), s.pending = [] →
    ∃ t, step s = .next t ∧ t.pending = [] ∧ t.hbm = s.hbm ∧ t.nvm = s.nvm) ∧
  (∀ (s : State), s.pending = [] ∧ s.boot.aonOut = true ∧ s.get TB_STAT.PLL_LOCK = 1 →
    ∃ t, step s = .next t ∧ t.epoch = s.epoch + 1 ∧ t.up = s.up + 1)

/-- After reset no command waits, HBM and NVM list nothing, every register holds its reset value, EPOCH_COARSE is 0, no session is live, no lane is held, no ring exists and no message waits. Each cluster shows its number, 68 physical and 64 logical channels and 34 TMUs, with its power off; the master PLL is not locked. That HBM lists nothing (its bytes read 0) and that NVM is erased are the model's choices (log entries 8 and 1). -/
def Obligations.ResetState : Prop :=
  (∀ (key : Nat), State.reset.reg key = regReset key ∧ State.reset.pending = [] ∧ State.reset.hbm = [] ∧ State.reset.nvm = [] ∧ State.reset.epoch = 0) ∧
  (∀ (k : Clu), State.reset.get (CL_CONFIG.CLUSTER k) = k ∧ State.reset.get (CL_CONFIG.PHYS_CH k) = 68 ∧ State.reset.get (CL_CONFIG.LOG_CH k) = 64
          ∧ State.reset.get (CL_CONFIG.TMU_CNT k) = 34 ∧ State.reset.get (CL_STATE.PWR k) = 0) ∧
  (∀ (ss : Sess) (L n : Nat), (State.reset.sn ss).live = false ∧ (State.reset.lane L).holder = none ∧ State.reset.ring n = none ∧ (State.reset.source n).buf = none
          ∧ State.reset.get TB_STAT.PLL_LOCK = 0) ∧
  (State.reset.memOk)

/-- From every state whose HBM and NVM list their bytes at strictly rising addresses below 16 GiB and 64 MiB, with no byte listed that equals what an unlisted byte reads as, every step that answers a next state leaves them so. -/
def Obligations.EveryStepKeepsMemory : Prop :=
  (∀ (s t : State), s.memOk →
    step s = .next t →
    t.memOk)

/-- No command of the table is refused. A command stops with a fault only where it is a microword HBMRD or HBMWR that would execute with 64 bytes outside the 16 GiB of HBM, or a debug step of a cluster whose microword is such a one. -/
def Obligations.StopsOnlyOutsideHbm : Prop :=
  (∀ (i : Instr) (s : State) (r : Refusal), exec i s ≠ .refused r) ∧
  (∀ (i : Instr) (s : State) (f : Fault), exec i s = .fault f →
    f = .hbmAddress ∧ ((∃ k w, i = .uHbmrd k w ∧ s.hbmOutside k 0x2A w = true) ∨ (∃ k w, i = .uHbmwr k w ∧ s.hbmOutside k 0x2B w = true)
          ∨ ∃ k, i = .dbgClusterStep k ∧ 2 ≤ s.dbgLevel ∧ (s.cl k).halted = true))

/-- No command changes the queue of commands. Only the commands for which `touches` says so change a byte of HBM, or of NVM: records, posted writes, BAR2 writes, image loads, ring messages, clearing and loss of power for HBM; banks, repair records, the Patina log, firmware images and the lifecycle for NVM. -/
def Obligations.CommandsKeepQueueAndMemories : Prop :=
  (∀ (i : Instr) (s t : State), exec i s = .next t →
    t.pending = s.pending ∧ (touches i .hbm = false → t.hbm = s.hbm) ∧ (touches i .nvm = false → t.nvm = s.nvm))

/-- For every address outside the bytes named, reading it after the command gives what reading it before gave. NVM: a repair record goes to its copy's next 16 bytes, a compaction rewrites the two copies, a Patina record the sector of its place, a staged firmware chunk the image that does not run, a commit that image's SEQ word, a store its bank, a restore and the entry to RETIRED the INVALID words of the two banks. HBM: a message of the collector goes to the device ring's head and to the heads of its recipients' mirrors, a result record to its ring's head, a BAR2 write to the bytes that the window maps, a load to its cluster's staging slot, posted writes to their addresses; a freed allocation is cleared, and so are a reset session's; phase 3 clears the device region. -/
def Obligations.StoresStayInTheirPlaces : Prop :=
  (∀ (ok : Bool) (s t : State) (a : Nat), exec (.repairRecordWritten ok) s = .next t →
    a < copyBase (b2n s.bist.inCopy0) + 16 * s.get (usedFld (b2n s.bist.inCopy0)) ∨ copyBase (b2n s.bist.inCopy0) + 16 * s.get (usedFld (b2n s.bist.inCopy0)) + 16 ≤ a →
    readByte nvmDefault t.nvm a = readByte nvmDefault s.nvm a) ∧
  (∀ (ok0 ok1 : Bool) (s t : State) (a : Nat), exec (.compactionDone ok0 ok1) s = .next t ∧ s.bist.live.length ≤ 32768 →
    a < 0x40000 ∨ 0x140000 ≤ a →
    readByte nvmDefault t.nvm a = readByte nvmDefault s.nvm a) ∧
  (∀ (offset : Word) (temp : BitVec 16) (spread : Word) (ok : Bool) (s t : State) (a : Nat), exec (.patinaAppend offset temp spread ok) s = .next t ∧ s.tb.patinaPos < 65536 →
    a < patinaBase + 65536 * (s.tb.patinaPos / 2048) ∨ patinaBase + 65536 * (s.tb.patinaPos / 2048) + 65536 ≤ a →
    readByte nvmDefault t.nvm a = readByte nvmDefault s.nvm a) ∧
  (∀ (ok : Bool) (s t : State) (a : Nat), exec (.mboxFwStage ok) s = .next t ∧ (a < fwBase (!s.pln.imageB) ∨ fwBase (!s.pln.imageB) + 0x100000 ≤ a) →
    readByte nvmDefault t.nvm a = readByte nvmDefault s.nvm a) ∧
  (∀ (ok : Bool) (s t : State) (a : Nat), exec (.mboxFwCommit ok) s = .next t ∧ (a < fwBase (!s.pln.imageB) + 8 ∨ fwBase (!s.pln.imageB) + 12 ≤ a) →
    readByte nvmDefault t.nvm a = readByte nvmDefault s.nvm a) ∧
  (∀ (ok : Bool) (c : Store) (s t : State) (a : Nat), exec (.calStoreDone ok) s = .next t ∧ s.cal.store = some c ∧ c.restore = false ∧ (bankBytes c.body).length ≤ 0xFF0000 →
    a < bankBase c.bankB ∨ bankBase c.bankB + 0x1000000 ≤ a →
    readByte nvmDefault t.nvm a = readByte nvmDefault s.nvm a) ∧
  (∀ (ok : Bool) (c : Store) (s t : State) (a : Nat), exec (.calStoreDone ok) s = .next t ∧ s.cal.store = some c ∧ c.restore = true →
    (a < 0x2000020 ∨ 0x2000024 ≤ a) ∧ (a < 0x3000020 ∨ 0x3000024 ≤ a) →
    readByte nvmDefault t.nvm a = readByte nvmDefault s.nvm a) ∧
  (∀ (s t : State) (a : Nat), exec .lifecycleRecordDone s = .next t →
    (a < 0x2000020 ∨ 0x2000024 ≤ a) ∧ (a < 0x3000020 ∨ 0x3000024 ≤ a) →
    readByte nvmDefault t.nvm a = readByte nvmDefault s.nvm a) ∧
  (∀ (ok : Bool) (m : Msg) (rest : List Msg) (s t : State) (a : Nat), exec (.faultRingWrite ok) s = .next t ∧ s.flt.queue = m :: rest ∧ m.dest.Nodup →
    a < devRingBase + 8 * (s.flt.device.head % devRingSize) ∨ devRingBase + 8 * (s.flt.device.head % devRingSize) + 8 ≤ a →
    ∀ ss ∈ m.dest, a < mirrorBase ss + 8 * ((s.mirror ss).head % mirrorSize) ∨ mirrorBase ss + 8 * ((s.mirror ss).head % mirrorSize) + 8 ≤ a →
    readByte hbmDefault t.hbm a = readByte hbmDefault s.hbm a) ∧
  (∀ (e : EccOutcome) (f k n : Nat) (x : Xfer) (body : BitVec 128) (q : HbmSched) (r : Ring) (s t : State) (a b : Nat), exec (.hbmGrant e) s = .next t →
    ((List.range 16).foldl (fun (d : Dev) k => (d.floorAccrue k).floorSort k) s.toDev).hbmPick = some (f, x, q) →
    x.what = .record k n body ∧ s.ring n = some r ∧ s.bar2At r.owner (r.base + 16 * (r.head % 2 ^ r.sizeLog2)) = some b →
    a < b ∨ b + 16 ≤ a →
    readByte hbmDefault t.hbm a = readByte hbmDefault s.hbm a) ∧
  (∀ (ss : Sess) (addr : BitVec 34) (bytes : List Byte) (ep : Bool) (s t : State) (a : Nat), exec (.bar2Write ss addr bytes ep) s = .next t →
    ∀ i < bytes.length, s.bar2At ss (addr.toNat + i) ≠ some a →
    readByte hbmDefault t.hbm a = readByte hbmDefault s.hbm a) ∧
  (∀ (k : Clu) (level : Fin 3) (poison : Bool) (s t : State) (a : Nat), exec (.hbmsyncComplete k level poison) s = .next t →
    ∀ p ∈ ((s.cl k).thread (64 + level)).posted, ∀ b, p.2 = some b → a < p.1 ∨ p.1 + b.length ≤ a →
    readByte hbmDefault t.hbm a = readByte hbmDefault s.hbm a) ∧
  (∀ (k : Clu) (poison : Bool) (l : Load) (s t : State) (a : Nat), exec (.loadCopyDone k poison) s = .next t ∧ (s.cl k).load = some l →
    a < stagingSlot k ∨ stagingSlot k + (if l.latched then l.image else s.loadSource l).length ≤ a →
    readByte hbmDefault t.hbm a = readByte hbmDefault s.hbm a) ∧
  (∀ (r : PeReq) (rest : List PeReq) (x : Alloc) (s t : State) (a : Nat), exec .peHbmFree s = .next t ∧ s.pe.queue = r :: rest →
    (s.pe.allocs.find? fun y => y.handle == r.handle && y.session == r.session) = some x →
    a < x.base * granule ∨ (x.base + x.count) * granule ≤ a →
    readByte hbmDefault t.hbm a = readByte hbmDefault s.hbm a) ∧
  (∀ (ss : Sess) (s t : State) (a : Nat), exec (.sessionResetDone ss) s = .next t →
    ∀ x ∈ s.pe.allocs, x.session = ss → a < x.base * granule ∨ (x.base + x.count) * granule ≤ a →
    readByte hbmDefault t.hbm a = readByte hbmDefault s.hbm a) ∧
  (∀ (ok : Bool) (s t : State) (a : Nat), exec (.phaseHbmDone ok) s = .next t →
    a < 0x3E0000000 ∨ (0x3E4000000 ≤ a ∧ a < 0x3EC000000) ∨ 0x400000000 ≤ a →
    readByte hbmDefault t.hbm a = readByte hbmDefault s.hbm a)

/-- Of an engine that stands at NOP: a word with neither COMMIT nor IRQ_OK goes on at NEXT, with the thread, the registers and every other cluster unchanged; a word with IRQ_OK and without COMMIT leaves the engine at a dispatch point and the thread ready to resume at NEXT; a word with COMMIT leaves the thread an empty shadow. ENDT takes the thread off the engine. For every micro-op: where the word that the engine fetches fails parity, the cluster takes a machine check of cause 0 whatever the command names, with UPC and THREAD recorded, no thread on the engine and no record waiting in any of its lanes. An error of a crossing FIFO of a powered cluster does so with cause 1. -/
def Obligations.MicroWordEnds : Prop :=
  (∀ (k : Clu) (w : Micro) (ti : Nat) (s : State), s.fetches k 0x00 w ti = true ∧ w.commit = false ∧ w.irqOk = false ∧ ti < 64 →
    ∃ t, exec (.uNop k w) s = .next t ∧ (t.cl k).upc = w.next.toNat ∧ (t.cl k).active = some ti
          ∧ (t.cl k).thread ti = (s.cl k).thread ti ∧ t.regs = s.regs ∧ t.lanes = s.lanes ∧ (∀ j : Clu, j ≠ k → t.cl j = s.cl j)) ∧
  (∀ (k : Clu) (w : Micro) (ti : Nat) (s : State), s.fetches k 0x00 w ti = true ∧ w.commit = false ∧ w.irqOk = true ∧ ti < 64 →
    ∃ t, exec (.uNop k w) s = .next t ∧ (t.cl k).atDispatch = true ∧ (t.cl k).upc = (s.cl k).upc
          ∧ (t.cl k).thread ti = { (s.cl k).thread ti with resume := some w.next.toNat } ∧ t.regs = s.regs ∧ t.lanes = s.lanes) ∧
  (∀ (k : Clu) (w : Micro) (ti : Nat) (s : State), s.fetches k 0x00 w ti = true ∧ w.commit = true →
    ∃ t, exec (.uNop k w) s = .next t ∧ ((t.cl k).thread ti).shadow = [] ∧ ((t.cl k).thread ti).mustCommit = false) ∧
  (∀ (k : Clu) (w : Micro) (ti : Nat) (s : State), s.fetches k 0x12 w ti = true →
    ∃ t, exec (.uEndt k w) s = .next t ∧ (t.cl k).active = none ∧ t.get (SEQ_STAT.ACTIVE k) = 0) ∧
  (∀ (i : Instr) (k : Clu) (ti : Nat) (s : State), microOf i = some k ∧ s.onEngine k = some ti ∧ s.get (CL_STATE.MCHK k) = 0 →
    evenParity ((s.cl k).word (s.cl k).upc) = true →
    ∃ t, exec i s = .next t ∧ t.get (CL_STATE.MCHK k) = 1 ∧ t.get (SEQ_MCHK_INFO.VALID k) = 1 ∧ t.get (SEQ_MCHK_INFO.CAUSE k) = 0
          ∧ t.get (SEQ_MCHK_INFO.UPC k) = (s.cl k).upc % 2048 ∧ t.get (SEQ_MCHK_INFO.THREAD k) = ti % 128 ∧ (t.cl k).active = none
          ∧ (∀ j : Fin 64, (t.lane (64 * k + j)).records = [])) ∧
  (∀ (k : Clu) (n : Fin 3) (s : State), s.powered k = true ∧ s.get (CL_STATE.MCHK k) = 0 →
    ∃ t, exec (.crossingFifoError k n) s = .next t ∧ t.get (CL_STATE.MCHK k) = 1 ∧ t.get (SEQ_MCHK_INFO.CAUSE k) = 1
          ∧ t.get (SEQ_MCHK_INFO.VALID k) = 1 ∧ (t.cl k).active = none ∧ (t.reg (CL_STATE k)).getLsbD (24 + n) = true)

/-- Each source holds at most one real message. Raised while the source's buffer is full, a more severe message replaces the buffered one and another is discarded; either way the source's SEQ and FLT_SRC_LOST go up by one and the source's sticky bit is set. An injected message changes no source's buffer and not FLT_SRC_LOST. (R333) -/
def Obligations.SourceBufferRule : Prop :=
  (∀ (d : Dev) (src kind sev addr : Nat) (dest : List Nat) (b : Msg), src < 2048 ∧ (d.source src).buf = some b →
    (b.sev < sev → ∃ m, ((d.raise src kind sev addr dest).source src).buf = some m ∧ m.kind = kind ∧ m.sev = sev ∧ m.source = src
          ∧ m.seq = (d.source src).seq ∧ m.addr = BitVec.ofNat 32 addr ∧ m.inj = false)
          ∧ (sev ≤ b.sev → ((d.raise src kind sev addr dest).source src).buf = some b)
          ∧ ((d.raise src kind sev addr dest).source src).seq = ((d.source src).seq + 1) % 256
          ∧ (d.raise src kind sev addr dest).flt.srcLost = (d.flt.srcLost + 1) % 2 ^ 32
          ∧ ((d.raise src kind sev addr dest).reg (FLT_STICKY (src / 32))).getLsbD (src % 32) = true
          ∧ (∀ n, n ≠ src → (d.raise src kind sev addr dest).source n = d.source n)) ∧
  (∀ (ss : Sess) (val : Word) (s : State) (n : Nat), s.lets ss fltPage 0x148 (whoOf fltPage 0x148) true = true →
    ∃ t, exec (.faultInject ss val) s = .next t ∧ (t.source n).buf = (s.source n).buf ∧ t.flt.srcLost = s.flt.srcLost)

/-- The messages that wait, in source buffers or injected, are taken in the order of the fabric cycle in which they were raised, then of severity, highest first, then of source number, then real before injected; FAULT_COLLECT appends the first of them to the queue in that order, at most 8 in a fabric cycle and at most as many as the queue of 4,096 has room for. FAULT_RING_WRITE takes the front of the queue to the head of the device ring and to the head of the mirror of each of its recipients, so that every ring holds its messages in that order. (R334) -/
def Obligations.DeliveryOrderRule : Prop :=
  (∀ (s : State), (∀ m ∈ s.fltWaiting, m.sev < 8 ∧ m.source < 4096) →
    s.fltWaiting.Perm ((s.flt.sources.filterMap fun x => x.2.buf) ++ s.flt.injected)
          ∧ s.fltWaiting.Pairwise (fun a b => a.cycle < b.cycle ∨ (a.cycle = b.cycle ∧ (b.sev < a.sev ∨ (a.sev = b.sev
          ∧ (a.source < b.source ∨ (a.source = b.source ∧ (a.inj = false ∨ b.inj = true)))))))) ∧
  (∀ (s : State), ∃ t, exec .faultCollect s = .next t ∧ t.flt.queue = s.flt.queue
          ++ s.fltWaiting.take (min (8 - (if s.flt.took.1 = s.cycle then s.flt.took.2 else 0)) (4096 - s.flt.queue.length))) ∧
  (∀ (m : Msg) (rest : List Msg) (s : State), s.flt.queue = m :: rest ∧ 16 * (8 + 8 * m.dest.length) ≤ s.devBucket ∧ s.flt.device.room 2097152 m = true →
    ∃ t, exec (.faultRingWrite true) s = .next t ∧ t.flt.queue = rest ∧ t.flt.device.head = (s.flt.device.head + 1) % 2 ^ 32
          ∧ readBytes hbmDefault t.hbm (0x3E2000000 + 8 * (s.flt.device.head % 2097152)) 8 = leBytes 8 m.word.toNat) ∧
  (∀ (m : Msg) (rest : List Msg) (ss : Sess) (s : State), s.flt.queue = m :: rest ∧ 16 * (8 + 8 * m.dest.length) ≤ s.devBucket ∧ m.dest = [ss.val] ∧ (s.sn ss).live = true →
    (s.mirror ss).room 32768 m = true →
    ∃ t, exec (.faultRingWrite true) s = .next t ∧ (t.mirror ss).head = ((s.mirror ss).head + 1) % 2 ^ 32
          ∧ readBytes hbmDefault t.hbm (0x3E3000000 + 0x40000 * ss + 8 * ((s.mirror ss).head % 32768)) 8 = leBytes 8 m.word.toNat)

/-- DIRUM_EPOCH_LOAD[1:0] cannot be written. At E0 the count loaded is a multiple of 4, so that in the new epoch every fabric cycle begins at a count that is a multiple of 4: the T0 that have passed since E0 are added to it, and the fabric cycle of the device stays in step with it. (R61) -/
def Obligations.EpochLoadRule : Prop :=
  (∀ (r : Row), rowOf dirumPage 0x110 = some r →
    r.rw % 4 = 0) ∧
  (∀ (p : SyncPulse) (s : State), s.dirum.take = some p ∧ p.e0 ≤ s.epoch →
    ∃ t, exec .epochTake s = .next t ∧ t.epoch = s.reg64 DIRUM_EPOCH_LOAD / 4 * 4 + (s.epoch - p.e0) ∧ t.epoch % 4 = t.up % 4)

/-- A write by a session that acts and whose accesses need not wait, in a fabric cycle without a BLOCK_RESET of the page, but without the right that the register asks for, is discarded: the next state is the present one with the message REG_DISCARD raised for the writer at the page's source. So for a register of Dirum's page, TB_AGE_ADJ, the sticky arrays, PWR_REQ, and the gate command of a frequency estimator. -/
def Obligations.WritesWithoutRightAreDiscarded : Prop :=
  (∀ (ss : Sess) (addr : BitVec 26) (off : Nat) (r : Row) (val : Word) (s : State), placeOf addr.toNat = .page dirumPage off ∧ addr.toNat % 4 = 0 ∧ 0x20 ≤ off ∧ off ≠ 0x104 ∧ rowOf dirumPage off = some r ∧ r.fixed = false →
    s.acts ss = true ∧ s.waits ss = false ∧ tget (fun _ => none) s.pageReset dirumPage.base ≠ some s.cycle ∧ s.may ss dirumPage r.who = false →
    exec (.registerWrite ss addr val) s = .next { s with toDev := s.discard ss dirumPage off }) ∧
  (∀ (ss : Sess) (val : Word) (s : State), s.acts ss = true ∧ s.waits ss = false ∧ tget (fun _ => none) s.pageReset tbPage.base ≠ some s.cycle ∧ s.may ss tbPage .owner = false →
    exec (.ageAdjWrite ss val) s = .next { s with toDev := s.discard ss tbPage 0x10C }) ∧
  (∀ (ss : Sess) (inj : Bool) (w : Fin 64) (val : Word) (s : State), s.acts ss = true ∧ s.waits ss = false ∧ tget (fun _ => none) s.pageReset fltPage.base ≠ some s.cycle ∧ s.may ss fltPage .owner = false →
    exec (.fltStickyClear ss inj w val) s = .next { s with toDev := s.discard ss fltPage ((if inj then 0x300 else 0x200) + 4 * w) }) ∧
  (∀ (ss : Sess) (val : Word) (s : State), s.acts ss = true ∧ s.waits ss = false ∧ tget (fun _ => none) s.pageReset pwrPage.base ≠ some s.cycle ∧ s.may ss pwrPage (whoOf pwrPage 0x104) = false →
    exec (.powerRequest ss val) s = .next { s with toDev := s.discard ss pwrPage 0x104 }) ∧
  (∀ (ss : Sess) (k : Clu) (val : Word) (s : State), s.holdsStarts = false ∧ s.acts ss = true ∧ s.waits ss = false →
    tget (fun _ => none) s.pageReset (Page.freq k).base ≠ some s.cycle ∧ s.may ss (.freq k) (whoOf (.freq k) 0x120) = false →
    exec (.freqGo ss k val) s = .next { s with toDev := s.discard ss (.freq k) 0x120 })

/-- A command at a port (pages, host accesses, self-test and fault-collector registers, rings, NVM, security page, JTAG, SMBus, mailbox) that answers a next state leaves unchanged every part of the state that `touches` does not name for it: the queue, the memories, time, the registers of every kind of page and the internal state of every block. -/
def Obligations.PortCommandsKeepTheRest : Prop :=
  (∀ (i : Instr) (s t : State) (p : Part), sect i = .port ∧ touches i p = false →
    exec i s = .next t →
    p.same s t)

/-- A command of a lane, of a program or of a micro-engine (and of its control store) that answers a next state leaves unchanged every part of the state that `touches` does not name for it. -/
def Obligations.EngineCommandsKeepTheRest : Prop :=
  (∀ (i : Instr) (s t : State) (p : Part), sect i = .engine ∧ touches i p = false →
    exec i s = .next t →
    p.same s t)

/-- A command of the TMUs and their pool, of the frequency estimators, of Armature, of the time base, of lock groups or of Dirum that answers a next state leaves unchanged every part of the state that `touches` does not name for it. -/
def Obligations.UnitCommandsKeepTheRest : Prop :=
  (∀ (i : Instr) (s t : State) (p : Part), sect i = .unit ∧ touches i p = false →
    exec i s = .next t →
    p.same s t)

/-- A command of Caliper, the Pointing Engine, self-test, the HBM controller, sessions, power or reset that answers a next state leaves unchanged every part of the state that `touches` does not name for it. -/
def Obligations.ServiceCommandsKeepTheRest : Prop :=
  (∀ (i : Instr) (s t : State) (p : Part), sect i = .service ∧ touches i p = false →
    exec i s = .next t →
    p.same s t)

/-- REGISTER_WRITE of a 32-bit register of a cluster control page or of a TMU page, where the write is performed, completes: the register takes the written value in its RW bits, loses the W1C bits written 1 that hardware did not set in this fabric cycle, and no other register, lane, TMU, session or message changes. REG64_LOW_READ of an aligned low word of a 64-bit register or paired entry, by a session that acts and has no access waiting, answers the word and captures the high word of the same read for that session. BAR0_BAD_ACCESS of a read answers Unsupported Request and changes nothing else; of a write by a session that acts to a page offset it raises REG_DISCARD at the page's block for the writer and changes nothing else. -/
def Obligations.RegisterAccessesComplete : Prop :=
  (∀ (ss : Sess) (k : Clu) (t : TmuId) (addr : BitVec 26) (off : Nat) (r : Row) (val : Word) (s : State) (pg : Page), pg = .ctl k ∨ pg = .tmu k t →
    placeOf addr.toNat = .page pg off ∧ addr.toNat % 4 = 0 ∧ 0x20 ≤ off →
    rowOf pg off = some r ∧ r.fixed = false ∧ r.pair = 0 →
    s.lets ss pg off r.who false = true →
    ∃ t, exec (.registerWrite ss addr val) s = .next t ∧ (∀ key, t.reg key = if key = r.key pg off ss
          then r.merge (s.reg (r.key pg off ss)) val (s.freshBits (r.key pg off ss)) else s.reg key)
          ∧ t.lanes = s.lanes ∧ t.tmus = s.tmus ∧ t.sess = s.sess ∧ t.out = s.out ∧ t.flt = s.flt) ∧
  (∀ (ss : Sess) (addr : BitVec 26) (s : State), addr.toNat % 4 = 0 ∧ s.acts ss = true ∧ s.waits ss = false ∧ pairOf addr.toNat = 1 →
    ∃ t, exec (.reg64LowRead ss addr) s = .next t ∧ t.reply = leBytes 4 (s.readReg ss addr.toNat).toNat
          ∧ tget (fun _ => none) t.capt (sessKey ss + addr.toNat + 4) = some (s.readReg ss (addr.toNat + 4))) ∧
  (∀ (ss : Sess) (addr : BitVec 26) (s : State), exec (.bar0BadAccess ss false addr) s = .next { s with out := s.out ++ [.unsupported ss] }) ∧
  (∀ (ss : Sess) (addr : BitVec 26) (pg : Page) (off : Nat) (s : State), s.acts ss = true ∧ placeOf addr.toNat = .page pg off →
    exec (.bar0BadAccess ss true addr) s = .next { s with toDev := s.discard ss pg off })

/-- Written by the owner of a page whose PAGE_CTRL is not fixed, where the write is performed: PAGE_ENABLE_WRITE leaves ENABLE as written; PAGE_QUIESCE_WRITE gives QUIESCE the written value and, where it is set newly, takes back the commands of the page that came before in the fabric cycle; BLOCK_RESET of a cluster page leaves PAGE_CTRL at 1 and PAGE_IRQ_EN at 0 and marks the page as reset in this fabric cycle. PAGE_CLAIM of an unowned claimable page that the lifecycle lets the session claim records the session and the attribute that applies in this fabric cycle in PAGE_OWNER, and no other register changes. PAGE_RELEASE by the owner of a page whose LOCK is clear leaves the page without an owner. PAGE_LOCK_WRITE by an owner of present attribute M gives LOCK the written value and changes nothing else, but that the write is remembered for its fabric cycle. -/
def Obligations.PagesComplete : Prop :=
  (∀ (ss : Sess) (pg : Page) (en : Bool) (s : State), s.lets ss pg 8 .owner false = true ∧ pg.fixedCtrl = false →
    ∃ t, exec (.pageEnableWrite ss pg en) s = .next t ∧ t.get (PAGE_CTRL.ENABLE pg.base) = b2n en) ∧
  (∀ (ss : Sess) (pg : Page) (on : Bool) (s : State), s.lets ss pg 8 .owner false = true ∧ pg.fixedCtrl = false →
    exec (.pageQuiesceWrite ss pg on) s = .next { s with toDev := s.tracked pg fun d => (if on = true ∧ s.quiesced pg = false then d.uncommand pg else d).set (PAGE_CTRL.QUIESCE pg.base) (b2n on) }) ∧
  (∀ (ss : Sess) (pg : Page) (s : State), s.lets ss pg 8 .owner false = true ∧ pg.fixedCtrl = false →
    pg.clu?.isSome = true →
    ∃ t, exec (.blockReset ss pg) s = .next t ∧ t.reg (PAGE_CTRL pg.base) = 1 ∧ t.reg (PAGE_IRQ_EN pg.base) = 0
          ∧ tget (fun _ => none) t.pageReset pg.base = some s.cycle) ∧
  (∀ (ss : Sess) (pg : Page) (s : State), s.lets ss pg 0x10 .any false = true →
    pg.claimable = true ∧ s.owner pg = none ∧ s.claimMay ss pg = true →
    ∃ t, exec (.pageClaim ss pg) s = .next t ∧ t.owner pg = some ss.val
          ∧ (∀ key, t.reg key = if key = PAGE_OWNER pg.base then BitVec.ofNat 32 (ss + 256 * s.attrHeld ss + 1024) else s.reg key)) ∧
  (∀ (ss : Sess) (pg : Page) (s : State), s.lets ss pg 0x10 .any false = true →
    pg.claimable = true ∧ s.owner pg = some ss.val ∧ s.get (PAGE_OWNER.LOCK pg.base) = 0 →
    ∃ t, exec (.pageRelease ss pg) s = .next t ∧ t.owner pg = none) ∧
  (∀ (ss : Sess) (pg : Page) (lock : Bool) (s : State), s.lets ss pg 0x10 .any false = true →
    pg.claimable = true ∧ s.owner pg = some ss.val ∧ s.attr ss = 2 →
    exec (.pageLockWrite ss pg lock) s = .next { s with toDev := s.tracked pg fun d => d.set (PAGE_OWNER.LOCK pg.base) (b2n lock) })

/-- Performed for the time base page's owner: REF_SEL_WRITE with FREQ 0 to 2 leaves TB_REF_SEL.SRC and FREQ as written, and where it selects REFIN from INTERNAL at an unchanged FREQ with the PLL locked and REFIN already qualified, the time base enters ACQUIRING; REF_QUAL_WRITE leaves TB_REF_QUAL.MS as written, 0 taken as 1; REF_REVERT_WRITE with REF_REVERT set in HOLDOVER, while REFIN is qualified and the phase budget is not spent, leaves REF_REVERT set, shows the phase error modulo one REFIN period, the smaller value, and enters SLEWING. REFIN_QUALIFIED with REFIN present long enough and not yet qualified takes the time base from REFIN_WAIT to ACQUIRING; REFIN_LOSS in ACQUIRING, LOCKED or SLEWING enters HOLDOVER, sets REF_LOSS, and freezes the word at the mean of the last 100 s (unless the master PLL relocked in this fabric cycle); REF_LOCK_ACHIEVED takes ACQUIRING to LOCKED; SLEW_COMPLETE takes SLEWING to LOCKED once at most 16 tq of the phase error are left. -/
def Obligations.ReferenceCompletes : Prop :=
  (∀ (ss : Sess) (val : Word) (ref : RefIn) (s : State), s.lets ss tbPage 0x108 .owner false = true ∧ wfield val 1 2 ≠ 3 →
    ∃ t, exec (.refSelWrite ss val ref) s = .next t ∧ t.get TB_REF_SEL.SRC = wfield val 0 1 ∧ t.get TB_REF_SEL.FREQ = wfield val 1 2) ∧
  (∀ (ss : Sess) (val : Word) (ref : RefIn) (s : State), s.lets ss tbPage 0x108 .owner false = true ∧ wfield val 1 2 ≠ 3 →
    s.get TB_STAT.PLL_LOCK = 1 ∧ s.get TB_REF_SEL.SRC = 0 ∧ wfield val 0 1 = 1 ∧ wfield val 1 2 = s.get TB_REF_SEL.FREQ →
    s.get TB_STAT.REFIN_PRESENT = 1 →
    ∃ t, exec (.refSelWrite ss val ref) s = .next t ∧ t.get TB_STAT.SRC_STATE = 2) ∧
  (∀ (ss : Sess) (val : Word) (ref : RefIn) (s : State), s.lets ss tbPage 0x124 .owner false = true →
    ∃ t, exec (.refQualWrite ss val ref) s = .next t
          ∧ t.get TB_REF_QUAL.MS = (if wfield val 0 16 = 0 then 1 else wfield val 0 16)) ∧
  (∀ (ss : Sess) (val : Word) (ref : RefIn) (s : State), s.lets ss tbPage 0x100 .owner false = true →
    wbit val 1 = true ∧ s.get TB_STAT.REFIN_PRESENT = 1 ∧ s.get TB_STAT.SRC_STATE = 4 ∧ s.budgetSpent = false →
    ∃ t, exec (.refRevertWrite ss val ref) s = .next t ∧ t.get TB_CTRL.REF_REVERT = 1 ∧ t.get TB_STAT.SRC_STATE = 5
          ∧ t.getInt TB_REF_PHASE_ERR.ERR = (BitVec.ofInt 32 (s.phaseError ref.phase)).toInt) ∧
  (∀ (ref : RefIn) (s : State), s.qualifies ref = true ∧ s.get TB_STAT.SRC_STATE = 1 →
    ∃ t, exec (.refinQualified ref) s = .next t ∧ t.get TB_STAT.SRC_STATE = 2 ∧ t.get TB_STAT.REFIN_PRESENT = 1) ∧
  (∀ (mean : Word) (s : State), s.get TB_STAT.SRC_STATE = 2 ∨ s.get TB_STAT.SRC_STATE = 3 ∨ s.get TB_STAT.SRC_STATE = 5 →
    s.tb.relockCyc ≠ some s.cycle →
    ∃ t, exec (.refinLoss mean) s = .next t ∧ t.get TB_STAT.SRC_STATE = 4 ∧ t.get TB_STAT.REF_LOSS = 1
          ∧ t.tb.word = mean.toInt ∧ t.tb.lossT0 = t.up) ∧
  (∀ (s : State), s.get TB_STAT.SRC_STATE = 2 →
    ∃ t, exec .refLockAchieved s = .next t ∧ t.get TB_STAT.SRC_STATE = 3 ∧ t.tb.lockedT0 = t.up) ∧
  (∀ (s : State), s.get TB_STAT.SRC_STATE = 5 ∧ s.slewLeft ≤ 16000000000 →
    ∃ t, exec .slewComplete s = .next t ∧ t.get TB_STAT.SRC_STATE = 3 ∧ t.tb.lockedT0 = t.up)

/-- PLL_LOCK_LOSS with the PLL locked after the start sequence: a time base in ACQUIRING, LOCKED or SLEWING enters HOLDOVER, and the time of the loss is kept; before READY it clears PLL_LOCK. PLL_RELOCK within 10 ms of the loss with the time base not in HOLDOVER sets PLL_LOCK again and ends the loss. PLL_RELOCK_TIMEOUT once 10 ms have passed marks the PLL as dead until RESET_N and changes nothing else. -/
def Obligations.MasterPllEventsComplete : Prop :=
  (∀ (s : State), s.get TB_STAT.PLL_LOCK = 1 ∧ s.boot.done.contains 8 = true →
    s.get TB_STAT.SRC_STATE = 2 ∨ s.get TB_STAT.SRC_STATE = 3 ∨ s.get TB_STAT.SRC_STATE = 5 →
    ∃ t, exec .pllLockLoss s = .next t ∧ t.get TB_STAT.SRC_STATE = 4 ∧ t.tb.pllLostT0 = some t.up) ∧
  (∀ (s : State), s.get TB_STAT.PLL_LOCK = 1 ∧ s.boot.done.contains 8 = false →
    ∃ t, exec .pllLockLoss s = .next t ∧ t.get TB_STAT.PLL_LOCK = 0) ∧
  (∀ (ref : RefIn) (t0 : Nat) (s : State), s.tb.pllLostT0 = some t0 ∧ s.tb.pllDead = false ∧ s.up ≤ t0 + relockLimit →
    s.get TB_STAT.SRC_STATE ≠ 4 →
    ∃ t, exec (.pllRelock ref) s = .next t ∧ t.get TB_STAT.PLL_LOCK = 1 ∧ t.tb.pllLostT0 = none) ∧
  (∀ (t0 : Nat) (s : State), s.tb.pllLostT0 = some t0 ∧ t0 + relockLimit ≤ s.up →
    exec .pllRelockTimeout s = .next { s with tb := { s.tb with pllDead := true } })

/-- AGE_ADJ_WRITE with PATINA_AUTO clear leaves TB_AGE_ADJ at the written value clamped to ±10 ppm. PATINA_APPEND, when a record is due and neither a lifecycle record nor an operation of self-test has the NVM, appends a record with the given offset, temperature and spread, stores its 32 bytes at the next place of the log in NVM (behind a model record at the first place of a sector) and shows the offset in TB_REF_FREQ_OFS. PATINA_FIT with enough records over at least 168 hours and a residual in its limit brings the fitted model into force. PATINA_HOURLY_ADJUST, when due, corrects the frozen word in HOLDOVER, and else leaves TB_AGE_ADJ at the model's clamped correction. TREE_ROTATOR_STEP, 256 T0 after the last step, moves the correction by 1 tq towards its goal. -/
def Obligations.AgeingAndTreesComplete : Prop :=
  (∀ (ss : Sess) (val : Word) (s : State), s.lets ss tbPage 0x10C .owner false = true ∧ s.get TB_CTRL.PATINA_AUTO = 0 →
    ∃ t, exec (.ageAdjWrite ss val) s = .next t ∧ t.getInt TB_AGE_ADJ.ADJ = max (-ageLimit) (min ageLimit val.toInt)) ∧
  (∀ (offset : Word) (temp : BitVec 16) (spread : Word) (p : Nat) (s : State), s.plinthMay = true ∧ s.tb.patinaPos < 65536 ∧ p = (if s.tb.patinaPos % 2048 = 0 then s.tb.patinaPos + 1 else s.tb.patinaPos) →
    s.get TB_STAT.SRC_STATE = 3 ∧ s.get TB_CTRL.PATINA_LOG = 1 ∧ s.pln.st ≠ .deep ∧ s.pln.running = true →
    max s.tb.patinaT0 s.tb.lockedT0 + 60 * secT0 * s.get TB_PATINA_CFG.INTERVAL ≤ s.up →
    ∃ t r, exec (.patinaAppend offset temp spread true) s = .next t ∧ t.tb.patina.getLast? = some r
          ∧ r.offset = offset ∧ r.temp = temp ∧ r.spread = spread ∧ r.model = false ∧ r.seq + 1 = t.tb.patinaSeq
          ∧ readBytes nvmDefault t.nvm (patinaBase + 32 * p) 32 = r.bytes ∧ t.tb.patinaPos = (p + 1) % 65536 ∧ t.reg TB_REF_FREQ_OFS = offset) ∧
  (∀ (a b : Int) (r2 : Nat) (x y : PatinaRec) (s : State), s.get TB_PATINA_CFG.MIN_RECORDS ≤ s.patinaMeas.length ∧ s.patinaMeas.head? = some x ∧ s.patinaMeas.getLast? = some y →
    168 * 3600 ≤ y.opSeconds - x.opSeconds →
    patinaSolve (s.get TB_PATINA_CFG.C) s.patinaMeas = some (a, b, r2) ∧ r2 ≤ 22000 * 22000 * s.patinaMeas.length →
    ∃ t, exec .patinaFit s = .next t ∧ t.getInt TB_PATINA_A.A = (BitVec.ofInt 32 a).toInt
          ∧ t.getInt TB_PATINA_B.B = (BitVec.ofInt 32 b).toInt ∧ t.get TB_STAT.PATINA_FIT_OK = 1) ∧
  (∀ (s : State), s.get TB_CTRL.PATINA_AUTO = 1 ∧ s.get TB_STAT.PATINA_FIT_OK = 1 ∧ s.pln.running = true ∧ s.tb.hourT0 + 3600 * secT0 ≤ s.up →
    s.get TB_STAT.SRC_STATE = 4 →
    ∃ t, exec .patinaHourlyAdjust s = .next t ∧ t.tb.word = s.tb.frozen + (s.patinaY s.pln.opSeconds - s.patinaY s.tb.lossSec)
          ∧ t.tb.hourT0 = s.up) ∧
  (∀ (s : State), s.get TB_CTRL.PATINA_AUTO = 1 ∧ s.get TB_STAT.PATINA_FIT_OK = 1 ∧ s.pln.running = true ∧ s.tb.hourT0 + 3600 * secT0 ≤ s.up →
    s.get TB_STAT.SRC_STATE ≠ 4 →
    ∃ t, exec .patinaHourlyAdjust s = .next t
          ∧ t.getInt TB_AGE_ADJ.ADJ = max (-ageLimit) (min ageLimit (-(s.patinaY s.pln.opSeconds)))) ∧
  (∀ (k : Clu) (goal : Nat) (s : State), (s.cl k).treeTo = some goal ∧ (s.cl k).treeT0 + 256 ≤ s.up →
    ∃ t, exec (.treeRotatorStep k) s = .next t
          ∧ (s.get (TB_TREE_PHASE.CORR k) < goal → goal < 4096 → t.get (TB_TREE_PHASE.CORR k) = s.get (TB_TREE_PHASE.CORR k) + 1)
          ∧ (goal < s.get (TB_TREE_PHASE.CORR k) → t.get (TB_TREE_PHASE.CORR k) = s.get (TB_TREE_PHASE.CORR k) - 1)
          ∧ (goal = s.get (TB_TREE_PHASE.CORR k) → t.get (TB_TREE_PHASE.CORR k) = goal ∧ (t.cl k).treeTo = none))

/-- With no start held, each performed with an accepted command: LG_MEMBERS_WRITE makes exactly the marked channels of the selected word members and leaves the other words; LG_CLAIM of an unowned group makes the session its owner; LG_RELEASE of an IDLE group leaves it without owner and members; LG_GO of an IDLE group with members, and a free line where it spans clusters, makes it ARMED where no STOP of the group came in this fabric cycle; LG_STOP of a RUNNING group asks every RUNNING member to stop; LG_SWITCH of a RUNNING group requests the switch with its origin now. LG_START of an ARMED group whose start T0 has come and which no STOP has cancelled makes it RUNNING, begins the program of every ARMED member at that instant, and then checks whether all members have ended. Between an epoch's decision and E0, GO, SWITCH and the other TB_LG_CTRL writes with GO set are held instead. -/
def Obligations.LockGroupsComplete : Prop :=
  (∀ (ss : Sess) (val : Word) (s : State), s.lets ss tbPage 0x184 .any false = true ∧ s.lgMembersErr ss (s.lgSel ss) (s.get (TB_LG_SEL.WORD ss)) val = 0 →
    ∃ t, exec (.lgMembersWrite ss val) s = .next t ∧ t.get (lgErr ss) = 0
          ∧ ∀ L, L ∈ (t.lg (s.lgSel ss)).members ↔
          (if L / 32 = s.get (TB_LG_SEL.WORD ss) then wbit val (L % 32) = true else L ∈ (s.lg (s.lgSel ss)).members)) ∧
  (∀ (ss : Sess) (val : Word) (s : State), s.lets ss tbPage 0x188 .any true = true ∧ s.holdsStarts = false ∧ wfield val 2 2 ≠ 3 →
    lgCmds val = [0] ∧ (s.lg (s.lgSel ss)).owner = none →
    ∃ t, exec (.lgClaim ss val) s = .next t ∧ (t.lg (s.lgSel ss)).owner = some ss.val ∧ (t.lg (s.lgSel ss)).attr = s.attrHeld ss
          ∧ t.get (lgErr ss) = 0) ∧
  (∀ (ss : Sess) (val : Word) (s : State), s.lets ss tbPage 0x188 .any true = true ∧ s.holdsStarts = false ∧ wfield val 2 2 ≠ 3 →
    lgCmds val = [1] ∧ (s.lg (s.lgSel ss)).owner = some ss.val ∧ (s.lg (s.lgSel ss)).st = .idle →
    ∃ t, exec (.lgRelease ss val) s = .next t ∧ (t.lg (s.lgSel ss)).owner = none ∧ (t.lg (s.lgSel ss)).members = []) ∧
  (∀ (ss : Sess) (val : Word) (s : State), s.lets ss tbPage 0x188 .any true = true ∧ s.holdsStarts = false ∧ wfield val 2 2 ≠ 3 →
    lgCmds val = [4] ∧ s.lgCtrlErr ss (s.lgSel ss) val = 0 ∧ (s.lg (s.lgSel ss)).stopCyc ≠ some s.cycle →
    ∃ t, exec (.lgGo ss val) s = .next t ∧ (t.lg (s.lgSel ss)).st = .armed) ∧
  (∀ (ss : Sess) (val : Word) (m : Nat) (s : State), s.lets ss tbPage 0x188 .any true = true ∧ s.holdsStarts = false ∧ wfield val 2 2 ≠ 3 →
    lgCmds val = [5] ∧ (s.lg (s.lgSel ss)).owner = some ss.val ∧ (s.lg (s.lgSel ss)).st = .running →
    m ∈ (s.lg (s.lgSel ss)).members ∧ m < 1024 ∧ s.progState m = 4 →
    ∃ t, exec (.lgStop ss val) s = .next t ∧ (t.lane m).stopAt.isSome = true) ∧
  (∀ (ss : Sess) (val : Word) (s : State), s.lets ss tbPage 0x188 .any true = true ∧ s.holdsStarts = false ∧ wfield val 2 2 ≠ 3 →
    lgCmds val = [6] ∧ (s.lg (s.lgSel ss)).owner = some ss.val ∧ (s.lg (s.lgSel ss)).st = .running →
    exec (.lgSwitch ss val) s = .next { s with toDev := s.tracked tbPage (fun d => ((d.set (lgErr ss) 0).modLg (s.lgSel ss) fun x => { x with startMode := wfield val 2 2, ctx := wfield val 8 8 }).groupSwitch (s.lgSel ss) (tq d.epoch) 2 (wfield val 8 8)) (some (ss.val, 0x188)) }) ∧
  (∀ (g : Grp) (t0 : Nat) (s : State), (s.lg g).startAt = some t0 ∧ (s.lg g).st = .armed ∧ (s.lg g).stopT0 = none ∧ t0 < tq (s.epoch + 1) →
    exec (.lgStart g) s = .next { s with toDev := ((s.lg g).members.foldl (fun d m => if d.progState m = 3 then d.begin m t0 else d) (s.setLg g { s.lg g with st := .running })).groupCheck g }) ∧
  (∀ (ss : Sess) (val : Word) (s : State), s.holdsStarts = true ∧ wbit val 4 = true →
    exec (.lgGo ss val) s = .next { s with toDev := s.holdStart (.lgGo ss val) })

/-- Performed for the Dirum page's owner: EPOCH_ARM, with no cancel in the register, sets DIRUM_STAT.ARMED; ARM_CANCEL clears it; HB_RESTART empties the heartbeat block and clears DIRUM_HB_PHASE.VALID. SYNC_RISING_EDGE that has come, while the device stamps SYNC and at least 1,280 T0 after the last edge, is kept as the pulse to be classified. SYNC_CLASSIFY at C + 512 T0: a pulse of 16 to 320 T0 is a heartbeat whose arrival DIRUM_MON_STAMP shows; a shorter or longer one counts as BAD; a pulse still high that was not armed is only counted as an epoch pulse; one that was armed while the device is quiet is the epoch to take. EPOCH_TAKE at E0, with no start held and no EPOCH_ARM in its fabric cycle, loads the count, ends the arming and sets EPOCH_TAKEN. -/
def Obligations.DirumCompletes : Prop :=
  (∀ (ss : Sess) (s : State), s.lets ss dirumPage 0x104 (whoOf dirumPage 0x104) true = true ∧ wbit (s.reg DIRUM_CTRL) 2 = false →
    ∃ t, exec (.epochArm ss) s = .next t ∧ t.get DIRUM_STAT.ARMED = 1) ∧
  (∀ (ss : Sess) (s : State), s.lets ss dirumPage 0x104 (whoOf dirumPage 0x104) true = true →
    ∃ t, exec (.armCancel ss) s = .next t ∧ t.get DIRUM_STAT.ARMED = 0) ∧
  (∀ (ss : Sess) (s : State), s.lets ss dirumPage 0x104 (whoOf dirumPage 0x104) true = true →
    ∃ t, exec (.hbRestart ss) s = .next t ∧ t.dirum.hbN = 0 ∧ t.get DIRUM_HB_PHASE.VALID = 0) ∧
  (∀ (arrival : Nat) (s : State), s.stamping = true ∧ s.come arrival = true →
    ∀ t, s.dirum.lastRise = some t → t + tq 1280 ≤ s.upTq arrival →
    ∃ t p, exec (.syncRisingEdge arrival) s = .next t ∧ t.dirum.pulse = some p ∧ p.arrival = arrival
          ∧ p.src = s.get TB_STAT.SRC_STATE ∧ t.dirum.lastRise = some (s.upTq arrival)) ∧
  (∀ (p : SyncPulse) (h : Nat) (s : State), s.dirum.pulse = some p ∧ p.c + 512 ≤ s.epoch →
    tq 16 ≤ h ∧ h ≤ tq 320 →
    ∃ t, exec (.syncClassify (some h)) s = .next t ∧ t.dirum.pulse = none ∧ t.get DIRUM_MON_STAMP.TIME = p.arrival % 2 ^ 64) ∧
  (∀ (p : SyncPulse) (h : Nat) (s : State), s.dirum.pulse = some p ∧ p.c + 512 ≤ s.epoch →
    h < tq 16 ∨ tq 320 < h →
    exec (.syncClassify (some h)) s = .next { s with toDev := (({ s.toDev with dirum := { s.dirum with pulse := none } } : Dev).stick DIRUM_STAT.BAD_PULSE).wrapUp DIRUM_PULSE_CNT.BAD }) ∧
  (∀ (p : SyncPulse) (s : State), s.dirum.pulse = some p ∧ p.c + 512 ≤ s.epoch ∧ p.armed = false →
    exec (.syncClassify none) s = .next { s with toDev := ({ s.toDev with dirum := { s.dirum with pulse := none } } : Dev).wrapUp DIRUM_PULSE_CNT.EPOCH }) ∧
  (∀ (p : SyncPulse) (s : State), s.dirum.pulse = some p ∧ p.c + 512 ≤ s.epoch ∧ p.armed = true ∧ s.quiet = true →
    ∃ t, exec (.syncClassify none) s = .next t ∧ t.dirum.take = some p ∧ t.dirum.pulse = none) ∧
  (∀ (p : SyncPulse) (s : State), s.dirum.take = some p ∧ p.e0 ≤ s.epoch ∧ s.dirum.held = [] ∧ s.dirum.heldSlots = [] ∧ s.armedAfter = 0 →
    ∃ t, exec .epochTake s = .next t ∧ t.epoch = s.reg64 DIRUM_EPOCH_LOAD / 4 * 4 + (s.epoch - p.e0)
          ∧ t.dirum.take = none ∧ t.get DIRUM_STAT.ARMED = 0 ∧ t.get DIRUM_STAT.EPOCH_TAKEN = 1)

/-- TRIGGER_SLOT_BUSY_END, once the busy time has passed, clears the slot's BUSY; GATE_CHANGE shows the first scheduled gate change whose time has come in LANE_GATE; SW_TRIGGER_GO of a FIRE on a lane that is not in hold gives every generator of the mask a candidate at the write's origin plus LANE_SW_DELAY, at least 16 T0; LANE_CFG_WRITE that changes no inversion while an edge is in flight writes LANE_CFG and nothing else. CANDIDATE_COMMIT, with the earliest candidates at most 4 T0 ahead, takes every candidate of that lane time from the lane; a lone DRV rise of a low lane that a physical channel serves and that has never fired is committed, in flight at its lane time, and drives the lane high. STROBE_SAMPLE of the one strobe in flight takes it, and a result of its own shows the level behind CMP_INV as valid. -/
def Obligations.LanesComplete : Prop :=
  (∀ (L : Lch) (n : Fin 4) (s : State), tget (fun _ => 0) (s.lane L).slotBusy n ≠ 0 ∧ tget (fun _ => 0) (s.lane L).slotBusy n ≤ tq s.epoch →
    ∃ t, exec (.triggerSlotBusyEnd L n) s = .next t ∧ t.get (LANE_TRIG_STAT.BUSY L n) = 0
          ∧ tget (fun _ => 0) (t.lane L).slotBusy n = 0) ∧
  (∀ (L : Lch) (g : GateEv) (s : State), (s.lane L).gates.find? (fun g => !g.done) = some g ∧ g.t ≤ tq s.epoch + 4095 →
    ∃ t, exec (.gateChange L) s = .next t ∧ t.get (LANE_GATE.ARMED L) = gateApply (s.get (LANE_GATE.ARMED L)) g % 64) ∧
  (∀ (ss : Sess) (L : Lch) (val : Word) (eg : Nat) (s : State), s.lets ss (lanePage L) 0x130 (whoOf (lanePage L) 0x130) true = true ∧ s.get (LANE_STAT.HOLD L) = 0 →
    wbit val 16 = true ∧ wbit val 8 = false ∧ eg < 6 ∧ wbit val eg = true →
    ∃ t c, exec (.swTriggerGo ss L val) s = .next t ∧ c ∈ (t.lane L).cands ∧ c.eg = eg ∧ c.src = .software
          ∧ c.sched = tq s.epoch + max (s.get (LANE_SW_DELAY.DELAY L) % 2 ^ 52) (tq 16)) ∧
  (∀ (ss : Sess) (L : Lch) (val : Word) (s : State), s.lets ss (lanePage L) 0x100 .owner false = true →
    (val ^^^ s.reg (LANE_CFG L)) &&& 3 = 0 ∨ s.inFlight L = false →
    exec (.laneCfgWrite ss L val) s = .next { s with toDev := s.tracked (lanePage L) fun d => d.plainWrite ss (lanePage L) 0x100 val }) ∧
  (∀ (L : Lch) (u : Nat) (s : State), earliest (s.lane L).cands = some u ∧ u / 4096 ≤ s.epoch + 4 →
    ∃ t, exec (.candidateCommit L) s = .next t ∧ (t.lane L).cands = (s.lane L).cands.filter fun c => c.lane != u) ∧
  (∀ (L : Lch) (c : Cand) (s : State), (s.lane L).cands = [c] ∧ c.lane / 4096 ≤ s.epoch + 4 ∧ c.eg = 0 ∧ c.src = .software ∧ c.uses = [] →
    s.get (LANE_SERVED.VALID L) = 1 ∧ s.get (LANE_STAT.DRV_LEVEL L) = 0 ∧ (s.lane L).drvLast = none ∧ (s.lane L).fired = [] →
    ∃ t f, exec (.candidateCommit L) s = .next t ∧ f ∈ (t.lane L).flight ∧ f.eg = 0 ∧ f.lane = c.lane
          ∧ t.get (LANE_STAT.DRV_LEVEL L) = 1 ∧ (t.lane L).drvLast = some c.lane) ∧
  (∀ (L : Lch) (level changed : Bool) (f : Flight) (r : PendRes) (s : State), (s.lane L).flight = [f] ∧ 4 ≤ f.eg ∧ f.lane / 4096 ≤ s.epoch ∧ f.uses = [(r.id, 0)] →
    (s.lane L).results = [r] ∧ r.mode = 3 ∧ r.own = true ∧ r.s0 = none ∧ r.s1 = none →
    ∃ t, exec (.strobeSample L level changed) s = .next t ∧ (t.lane L).flight = []
          ∧ t.get (LANE_STB_RESULT.RESULT L) = 2 + b2n (s.cmpLevel L level))

/-- Where no self-test slice is under way on the lane's contexts, CTX_COMMIT_WRITE by the holder commits the four data words as the context that INDEX addresses, and CTX_READ_CAPTURE in a powered cluster captures the addressed context and answers its low word. EDGE_FETCH_DONE of a clean line inside the region of a program at work puts the line into the cache, and of poisoned data stops the program with ERR = POISON. -/
def Obligations.ContextAndFetchComplete : Prop :=
  (∀ (ss : Sess) (L : Lch) (val : Word) (s : State), s.lets ss (lanePage L) 0x1D0 .owner false = true ∧ s.regionIn 0 (L / 64) (L % 64) = false →
    ∃ t, exec (.ctxCommitWrite ss L val) s = .next t
          ∧ (t.lane L).ctx (s.get (PROG_CTX_SEL.INDEX L)) = val ++ s.reg (PROG_CTX_DATA2 L) ++ s.reg (PROG_CTX_DATA1 L) ++ s.reg (PROG_CTX_DATA0 L)) ∧
  (∀ (ss : Sess) (L : Lch) (s : State), s.acts ss = true ∧ s.waits ss = false ∧ s.gated (lanePage L) = false ∧ s.regionIn 0 (L / 64) (L % 64) = false →
    ∃ t, exec (.ctxReadCapture ss L) s = .next t ∧ (t.lane L).ctxCap = (s.lane L).ctx (s.get (PROG_CTX_SEL.INDEX L))
          ∧ t.reply = leBytes 4 (bits ((s.lane L).ctx (s.get (PROG_CTX_SEL.INDEX L))) 0 32)) ∧
  (∀ (L : Lch) (line : BitVec 20) (s : State), s.progBusy L = true ∧ 16 * line.toNat < s.evsEntries L ∧ s.evsPoison L (256 * line.toNat) 256 = false →
    ∃ t, exec (.edgeFetchDone L line false) s = .next t ∧ line.toNat ∈ (t.lane L).cache) ∧
  (∀ (L : Lch) (line : BitVec 20) (s : State), s.progBusy L = true →
    ∃ t, exec (.edgeFetchDone L line true) s = .next t ∧ t.get (PROG_STAT.STATE L) = 7 ∧ t.get (PROG_STAT.ERR L) = 2)

/-- Of a lane that is not in hold, whose program stands at the instruction: PERIOD of one period, without MATCH, pending switch or failed context word, advances P by the period's length, at least one T0; EDGE gives every generator of its mask a candidate at P plus OFFSET; PULSE gives each of DRV and DEN in its mask one there and its partner one WIDTH later; BURST gives each of DRV and DEN in its mask a candidate at P plus OFFSET for its first pulse. -/
def Obligations.EdgeInstructionsComplete : Prop :=
  (∀ (L : Lch) (iw : BitVec 128) (s : State), s.stands L iw 1 (some 0) = true ∧ iwCount iw = 0 →
    (s.lane L).mat = none ∧ (s.lane L).switches = [] ∧ (s.lane L).badCtx = [] →
    ∃ t, exec (.period L iw) s = .next t ∧ (t.lane L).p = (s.lane L).p
          + max (if iwL iw then iwPeriodTq iw else ctxPeriod ((s.lane L).ctx (s.lane L).curCtx)) 4096) ∧
  (∀ (L : Lch) (iw : BitVec 128) (eg : Nat) (s : State), s.stands L iw 2 (some (iwOffset iw)) = true ∧ s.get (LANE_STAT.HOLD L) = 0 →
    eg < 6 ∧ (iwEgMask iw).testBit eg = true →
    ∃ t c, exec (.edge L iw) s = .next t ∧ c ∈ (t.lane L).cands ∧ c.eg = eg ∧ c.sched = (s.lane L).p + iwOffset iw ∧ c.src = .instr) ∧
  (∀ (L : Lch) (iw : BitVec 128) (eg : Nat) (s : State), s.stands L iw 3 (some (iwOffset iw)) = true ∧ s.get (LANE_STAT.HOLD L) = 0 →
    eg < 4 ∧ (iwEgMask iw).testBit eg = true →
    ∃ t c c', exec (.pulse L iw) s = .next t ∧ c ∈ (t.lane L).cands ∧ c.eg = eg ∧ c.sched = (s.lane L).p + iwOffset iw
          ∧ c' ∈ (t.lane L).cands ∧ c'.eg = partner eg ∧ c'.sched = (s.lane L).p + iwOffset iw + pulseWidth iw) ∧
  (∀ (L : Lch) (iw : BitVec 128) (eg : Nat) (s : State), s.stands L iw 4 (some (burstOffset iw)) = true ∧ s.get (LANE_STAT.HOLD L) = 0 →
    eg < 4 ∧ (iwEgMask iw).testBit eg = true →
    ∃ t c, exec (.burst L iw) s = .next t ∧ c ∈ (t.lane L).cands ∧ c.eg = eg ∧ c.sched = (s.lane L).p + burstOffset iw ∧ c.src = .burst)

/-- Of a lane whose program stands at the instruction: CTX outside a lock group makes its target the context of the next period; WAIT_EVT with an event leaves a wait from P, WAITING where the program was RUNNING; LOOP at a depth below 8 opens a loop at the entry after it with its count; ENDLOOP with iterations left counts one off and branches to the loop's start; CALL at a depth below 8 pushes the entry after it and branches to its target; RET, with no loop opened since the call, pops it and returns. -/
def Obligations.ControlInstructionsComplete : Prop :=
  (∀ (L : Lch) (iw : BitVec 128) (s : State), s.stands L iw 5 none = true ∧ s.groupOf L = none →
    ∃ t, exec (.ctx L iw) s = .next t ∧ (t.lane L).curCtx = ctxTarget iw) ∧
  (∀ (L : Lch) (iw : BitVec 128) (s : State), s.stands L iw 6 none = true ∧ waitNoEvt iw = false →
    ∃ t, exec (.waitEvt L iw) s = .next t ∧ (t.lane L).wait = some { a := (s.lane L).p, input := waitInput iw, delay := iwOffset iw, timeout := waitTimeout iw, skip := waitSkip iw }
          ∧ (s.progState L = 4 → t.progState L = 5)) ∧
  (∀ (L : Lch) (iw : BitVec 128) (s : State), s.stands L iw 7 none = true ∧ (s.lane L).loops.length < 8 →
    ∃ t f fs, exec (.loop L iw) s = .next t ∧ (t.lane L).loops = f :: fs ∧ fs.length = (s.lane L).loops.length
          ∧ f.start = s.get (PROG_PC.PC L) + 1 ∧ f.count = loopCount iw ∧ f.moved = (s.lane L).moves) ∧
  (∀ (L : Lch) (iw : BitVec 128) (f : LoopFrame) (fs : List LoopFrame) (s : State), s.stands L iw 8 none = true ∧ (s.lane L).loops = f :: fs ∧ f.forever = false ∧ 1 < f.count →
    ∃ t g, exec (.endloop L iw) s = .next t ∧ (t.lane L).loops = g :: fs ∧ g.count + 1 = f.count
          ∧ t.get (PROG_PC.PC L) = f.start % 2 ^ 24) ∧
  (∀ (L : Lch) (iw : BitVec 128) (s : State), s.stands L iw 9 none = true ∧ (s.lane L).calls.length < 8 →
    ∃ t f, exec (.call L iw) s = .next t ∧ (t.lane L).calls = f :: (s.lane L).calls
          ∧ f.ret = (s.get (PROG_PC.PC L) + 1) % 2 ^ 24 ∧ t.get (PROG_PC.PC L) = callTarget iw) ∧
  (∀ (L : Lch) (iw : BitVec 128) (f : CallFrame) (fs : List CallFrame) (s : State), s.stands L iw 0x0A none = true ∧ (s.lane L).calls = f :: fs ∧ (s.lane L).loops.length ≤ f.loops →
    ∃ t, exec (.ret L iw) s = .next t ∧ (t.lane L).calls = fs ∧ t.get (PROG_PC.PC L) = f.ret % 2 ^ 24)

/-- Of a lane whose program stands at the instruction: MATCH sets the comparison of the next COUNT + 1 periods; FIRE leaves an event with its flag and origin; HALT of a RUNNING program enters HALTED. FIRE_EMIT of the lane's only FIRE, once its origin has come, takes it, and emits the event where the lane's holder owns the flag's row. A reserved opcode or invalid field at the PC stops the program with ERR = OPCODE. WAIT_EVT_TIMEOUT, due, sets TIMEOUT and goes on from A + T plus the delay, RUNNING. UNDERRUN of a RUNNING program without open loops or decoded work, at most 8 T0 before P, decides that the lane underruns at P, and at P stops it with ERR = UNDERRUN. -/
def Obligations.OtherInstructionsComplete : Prop :=
  (∀ (L : Lch) (iw : BitVec 128) (s : State), s.stands L iw 0x0C none = true →
    ∃ t, exec (.matchResults L iw) s = .next t ∧ (t.lane L).mat = some { left := matCount iw + 1, care := matCare iw, exp := matExp iw }) ∧
  (∀ (L : Lch) (iw : BitVec 128) (s : State), s.stands L iw 0x0D none = true →
    ∃ t f, exec (.fire L iw) s = .next t ∧ f ∈ (t.lane L).fires ∧ f.flag = fireFlag iw ∧ f.origin = (s.lane L).p + iwOffset iw) ∧
  (∀ (L : Lch) (f : FireEv) (s : State), (s.lane L).fires = [f] ∧ f.origin / 4096 ≤ s.epoch →
    exec (.fireEmit L) s = .next { s with toDev := (if (s.rowOwn (L / 64) (160 + f.flag)).owner == (s.lane L).holder then (s.setLane L { s.lane L with fires := [] }).emit (L / 64) (160 + f.flag) f.origin f.hop else s.setLane L { s.lane L with fires := [] }) }) ∧
  (∀ (L : Lch) (iw : BitVec 128) (s : State), s.stands L iw 0x0E none = true ∧ s.progState L = 4 →
    ∃ t, exec (.halt L iw) s = .next t ∧ t.progState L = 6 ∧ (t.lane L).records = []) ∧
  (∀ (L : Lch) (iw : BitVec 128) (s : State), s.canRun L = true ∧ iwInvalid iw = true ∧ (s.lane L).records = [] ∧ (s.lane L).stopErr = none →
    s.get (PROG_PC.PC L) < s.evsEntries L ∧ s.evsPoison L (16 * s.get (PROG_PC.PC L)) 16 = false →
    ∃ t, exec (.reservedOpcode L iw) s = .next t ∧ t.get (PROG_STAT.STATE L) = 7 ∧ t.get (PROG_STAT.ERR L) = 3) ∧
  (∀ (L : Lch) (w : WaitSt) (s : State), (s.lane L).wait = some w ∧ w.timeout ≠ 0 ∧ (s.lane L).stopAt = none ∧ (s.lane L).stopErr = none ∧ s.progState L = 5 →
    w.a + tq (w.timeout + 48) ≤ tq s.epoch + 4095 →
    ∃ t, exec (.waitEvtTimeout L) s = .next t ∧ (t.lane L).wait = none
          ∧ (t.lane L).p = w.a + tq w.timeout + max w.delay (tq 64) ∧ t.progState L = 4 ∧ t.get (PROG_STAT.TIMEOUT L) = 1) ∧
  (∀ (L : Lch) (s : State), s.progState L = 4 ∧ (s.lane L).records = [] ∧ (s.lane L).loops = [] ∧ (s.lane L).stopAt = none ∧ (s.lane L).under = none →
    (s.lane L).p < tq (s.epoch + 1) →
    ∃ t, exec (.underrun L) s = .next t ∧ t.get (PROG_STAT.STATE L) = 7 ∧ t.get (PROG_STAT.ERR L) = 1) ∧
  (∀ (L : Lch) (s : State), s.progState L = 4 ∧ (s.lane L).records = [] ∧ (s.lane L).loops = [] ∧ (s.lane L).stopAt = none ∧ (s.lane L).under = none →
    tq (s.epoch + 1) ≤ (s.lane L).p ∧ (s.lane L).p ≤ tq (s.epoch + 8) →
    exec (.underrun L) s = .next { s with toDev := s.modLane L fun l => { l with under := some l.p } })

/-- With no start held: PRIME of an IDLE program in a cluster that takes starts, with no self-test slice on the lane's contexts or edge cache, enters PRIMING and asks for the routine that loads the PC from PROG_ENTRY; PRIME_COMPLETE, with the routine off the engine and no poisoned word in HBM, takes PRIMING to PRIMED; GO of a PRIMED program outside lock groups with START_MODE 0 or 2 arms it with its start at PROG_START or, at the least and in mode 2, 16 T0 from now; PROG_START at the start T0 of an ARMED program primed 8 T0 before runs it with every generator armed; STOP of a program at work asks it to stop; STOP_EFFECT of a RUNNING program whose P has reached the stop enters STOPPED with its ERR. Between an epoch's decision and E0, GO is held. -/
def Obligations.ProgramControlCompletes : Prop :=
  (∀ (ss : Sess) (L : Lch) (val : Word) (s : State), s.lets ss (lanePage L) 0x1D4 (whoOf (lanePage L) 0x1D4) true = true →
    wbit val 0 = true ∧ wbit val 1 = false ∧ wbit val 2 = false ∧ s.progState L = 0 ∧ s.startsRefused (L / 64) = false →
    s.regionIn 0 (L / 64) (L % 64) = false ∧ s.regionIn 1 (L / 64) (L % 64) = false →
    ∃ t c, exec (.prime ss L val) s = .next t ∧ t.progState L = 1 ∧ (t.lane L).primeT0 = some s.epoch
          ∧ (t.lane L).primeDue = some (s.get (PROG_ENTRY.ADDR L), c)) ∧
  (∀ (L : Lch) (u : Nat) (s : State), (s.lane L).primeT0 = some u ∧ s.progState L = 1 ∧ s.primeRuns L = false ∧ s.poison = [] →
    ∃ t, exec (.primeComplete L) s = .next t ∧ t.progState L = 2 ∧ (t.lane L).primeT0 = none ∧ (t.lane L).primedT0 = some s.epoch) ∧
  (∀ (ss : Sess) (L : Lch) (val : Word) (s : State), s.lets ss (lanePage L) 0x1D4 (whoOf (lanePage L) 0x1D4) true = true ∧ s.holdsStarts = false →
    wbit val 0 = false ∧ wbit val 1 = true ∧ wbit val 2 = false ∧ s.progState L = 2 ∧ s.startsRefused (L / 64) = false →
    s.groupOf L = none ∧ (wfield val 3 2 = 0 ∨ wfield val 3 2 = 2) →
    ∃ t, exec (.progGo ss L val) s = .next t ∧ t.progState L = 3 ∧ (t.lane L).startAt = some (tq
          (if wfield val 3 2 = 0 then max (s.get (PROG_START.EPOCH L)) (s.epoch + 16) else s.epoch + 16))) ∧
  (∀ (ss : Sess) (L : Lch) (val : Word) (s : State), s.holdsStarts = true ∧ wbit val 1 = true →
    exec (.progGo ss L val) s = .next { s with toDev := s.holdStart (.progGo ss L val) }) ∧
  (∀ (L : Lch) (u v : Nat) (s : State), (s.lane L).startAt = some u ∧ s.progState L = 3 ∧ s.groupOf L = none ∧ u < tq (s.epoch + 1) →
    (s.lane L).primedT0 = some v ∧ tq (v + 8) ≤ u ∧ (s.lane L).wait = none ∧ (s.lane L).under = none ∧ (s.lane L).stopErr = none →
    ∃ t, exec (.progStart L) s = .next t ∧ t.progState L = 4 ∧ t.get (LANE_GATE.ARMED L) = 0x3F ∧ (t.lane L).startAt = none) ∧
  (∀ (ss : Sess) (L : Lch) (val : Word) (s : State), s.lets ss (lanePage L) 0x1D4 (whoOf (lanePage L) 0x1D4) true = true →
    wbit val 0 = false ∧ wbit val 1 = false ∧ wbit val 2 = true ∧ s.progBusy L = true →
    ∃ t, exec (.progStop ss L val) s = .next t ∧ (t.lane L).stopAt.isSome = true) ∧
  (∀ (L : Lch) (u err : Nat) (s : State), (s.lane L).stopAt = some (u, err) ∧ err < 16 ∧ s.progState L = 4 ∧ u ≤ (s.lane L).p ∧ (s.lane L).p < tq (s.epoch + 1) →
    ∃ t, exec (.stopEffect L) s = .next t ∧ t.progState L = 7 ∧ t.get (PROG_STAT.ERR L) = err)

/-- Of an engine that stands at the word: NOP changes nothing of the thread; MOV puts B into A; ADD and SUB put the sum and the difference into A with Z, N and V of the 64-bit result and, for ADD, C the carry (for SUB the borrow or its complement is left open and C is a free value); CMP sets the flags of A - B; LDI puts 256 × C + B; MIN and MAX put the signed one of both; SEXT extends A from the width of C. The word then ends as every word does (MicroWordEnds). -/
def Obligations.MicroArithmeticCompletes : Prop :=
  (∀ (k : Clu) (w : Micro) (ti : Nat) (s : State), s.fetches k 0x00 w ti = true →
    exec (.uNop k w) s = .next { s with toDev := s.toDev.uopEnd k ti w ((s.cl k).thread ti) false w.next.toNat }) ∧
  (∀ (k : Clu) (w : Micro) (ti : Nat) (s : State), s.fetches k 0x01 w ti = true →
    exec (.uMov k w) s = .next { s with toDev := s.toDev.uopEnd k ti w (((s.cl k).thread ti).put k ti w.a.toNat (s.uB k ti w)) false w.next.toNat }) ∧
  (∀ (k : Clu) (w : Micro) (ti : Nat) (s : State), s.fetches k 0x02 w ti = true →
    exec (.uAdd k w) s = .next { s with toDev := s.toDev.uopEnd k ti w ({ ((s.cl k).thread ti).put k ti w.a.toNat (s.uA k ti w + s.uB k ti w) with z := (s.uA k ti w + s.uB k ti w == 0), n := (s.uA k ti w + s.uB k ti w).msb, c := decide (2 ^ 64 ≤ (s.uA k ti w).toNat + (s.uB k ti w).toNat), v := decide ((s.uA k ti w + s.uB k ti w).toInt ≠ (s.uA k ti w).toInt + (s.uB k ti w).toInt) }) false w.next.toNat }) ∧
  (∀ (k : Clu) (w : Micro) (ti : Nat) (s : State), s.fetches k 0x03 w ti = true →
    exec (.uSub k w) s = .next { s with toDev := s.draw.2.uopEnd k ti w ({ ((s.cl k).thread ti).put k ti w.a.toNat (s.uA k ti w - s.uB k ti w) with z := (s.uA k ti w - s.uB k ti w == 0), n := (s.uA k ti w - s.uB k ti w).msb, c := s.draw.1.getLsbD 0, v := decide ((s.uA k ti w - s.uB k ti w).toInt ≠ (s.uA k ti w).toInt - (s.uB k ti w).toInt) }) false w.next.toNat }) ∧
  (∀ (k : Clu) (w : Micro) (ti : Nat) (s : State), s.fetches k 0x0B w ti = true →
    exec (.uCmp k w) s = .next { s with toDev := s.draw.2.uopEnd k ti w ({ (s.cl k).thread ti with z := (s.uA k ti w - s.uB k ti w == 0), n := (s.uA k ti w - s.uB k ti w).msb, c := s.draw.1.getLsbD 0, v := decide ((s.uA k ti w - s.uB k ti w).toInt ≠ (s.uA k ti w).toInt - (s.uB k ti w).toInt) }) false w.next.toNat }) ∧
  (∀ (k : Clu) (w : Micro) (ti : Nat) (s : State), s.fetches k 0x0A w ti = true →
    exec (.uLdi k w) s = .next { s with toDev := s.toDev.uopEnd k ti w (((s.cl k).thread ti).put k ti w.a.toNat (BitVec.ofNat 64 (256 * w.c.toNat + w.b.toNat))) false w.next.toNat }) ∧
  (∀ (k : Clu) (w : Micro) (ti : Nat) (s : State), s.fetches k 0x0D w ti = true →
    exec (.uMin k w) s = .next { s with toDev := s.toDev.uopEnd k ti w (((s.cl k).thread ti).put k ti w.a.toNat (if (s.uA k ti w).toInt ≤ (s.uB k ti w).toInt then s.uA k ti w else s.uB k ti w)) false w.next.toNat }) ∧
  (∀ (k : Clu) (w : Micro) (ti : Nat) (s : State), s.fetches k 0x0E w ti = true →
    exec (.uMax k w) s = .next { s with toDev := s.toDev.uopEnd k ti w (((s.cl k).thread ti).put k ti w.a.toNat (if (s.uA k ti w).toInt ≤ (s.uB k ti w).toInt then s.uB k ti w else s.uA k ti w)) false w.next.toNat }) ∧
  (∀ (k : Clu) (w : Micro) (ti : Nat) (s : State), s.fetches k 0x0F w ti = true →
    exec (.uSext k w) s = .next { s with toDev := s.toDev.uopEnd k ti w (((s.cl k).thread ti).put k ti w.a.toNat (signExtendFrom (s.uA k ti w) (widthOf w.c.toNat))) false w.next.toNat })

/-- Of an engine that stands at the word: AND, OR and XOR put their result into A with Z and N; TST sets Z and N of A and B; SHL, SHR and SAR shift A by B mod 64 and leave the flags; FLD puts the bits of the current instruction from bit B with the width of C, and a free value where the field runs past bit 127. -/
def Obligations.MicroLogicCompletes : Prop :=
  (∀ (k : Clu) (w : Micro) (ti : Nat) (s : State), s.fetches k 0x04 w ti = true →
    exec (.uAnd k w) s = .next { s with toDev := s.toDev.uopEnd k ti w ({ ((s.cl k).thread ti).put k ti w.a.toNat (s.uA k ti w &&& s.uB k ti w) with z := (s.uA k ti w &&& s.uB k ti w == 0), n := (s.uA k ti w &&& s.uB k ti w).msb }) false w.next.toNat }) ∧
  (∀ (k : Clu) (w : Micro) (ti : Nat) (s : State), s.fetches k 0x05 w ti = true →
    exec (.uOr k w) s = .next { s with toDev := s.toDev.uopEnd k ti w ({ ((s.cl k).thread ti).put k ti w.a.toNat (s.uA k ti w ||| s.uB k ti w) with z := (s.uA k ti w ||| s.uB k ti w == 0), n := (s.uA k ti w ||| s.uB k ti w).msb }) false w.next.toNat }) ∧
  (∀ (k : Clu) (w : Micro) (ti : Nat) (s : State), s.fetches k 0x06 w ti = true →
    exec (.uXor k w) s = .next { s with toDev := s.toDev.uopEnd k ti w ({ ((s.cl k).thread ti).put k ti w.a.toNat (s.uA k ti w ^^^ s.uB k ti w) with z := (s.uA k ti w ^^^ s.uB k ti w == 0), n := (s.uA k ti w ^^^ s.uB k ti w).msb }) false w.next.toNat }) ∧
  (∀ (k : Clu) (w : Micro) (ti : Nat) (s : State), s.fetches k 0x0C w ti = true →
    exec (.uTst k w) s = .next { s with toDev := s.toDev.uopEnd k ti w ({ (s.cl k).thread ti with z := (s.uA k ti w &&& s.uB k ti w == 0), n := (s.uA k ti w &&& s.uB k ti w).msb }) false w.next.toNat }) ∧
  (∀ (k : Clu) (w : Micro) (ti : Nat) (s : State), s.fetches k 0x07 w ti = true →
    exec (.uShl k w) s = .next { s with toDev := s.toDev.uopEnd k ti w (((s.cl k).thread ti).put k ti w.a.toNat (s.uA k ti w <<< ((s.uB k ti w).toNat % 64))) false w.next.toNat }) ∧
  (∀ (k : Clu) (w : Micro) (ti : Nat) (s : State), s.fetches k 0x08 w ti = true →
    exec (.uShr k w) s = .next { s with toDev := s.toDev.uopEnd k ti w (((s.cl k).thread ti).put k ti w.a.toNat (s.uA k ti w >>> ((s.uB k ti w).toNat % 64))) false w.next.toNat }) ∧
  (∀ (k : Clu) (w : Micro) (ti : Nat) (s : State), s.fetches k 0x09 w ti = true →
    exec (.uSar k w) s = .next { s with toDev := s.toDev.uopEnd k ti w (((s.cl k).thread ti).put k ti w.a.toNat ((s.uA k ti w).sshiftRight ((s.uB k ti w).toNat % 64))) false w.next.toNat }) ∧
  (∀ (k : Clu) (w : Micro) (ti : Nat) (s : State), s.fetches k 0x10 w ti = true →
    (s.uB k ti w).toNat + widthOf w.c.toNat ≤ 128 →
    exec (.uFld k w) s = .next { s with toDev := s.toDev.uopEnd k ti w (((s.cl k).thread ti).put k ti w.a.toNat (BitVec.ofNat 64 (bits ((s.cl k).thread ti).iw (s.uB k ti w).toNat (widthOf w.c.toNat)))) false w.next.toNat }) ∧
  (∀ (k : Clu) (w : Micro) (ti : Nat) (s : State), s.fetches k 0x10 w ti = true →
    128 < (s.uB k ti w).toNat + widthOf w.c.toNat →
    exec (.uFld k w) s = .next { s with toDev := s.draw.2.uopEnd k ti w (((s.cl k).thread ti).put k ti w.a.toNat s.draw.1) false w.next.toNat })

/-- Of an engine that stands at the word, for a thread whose lane operands mean lane L: NEXTI and JPC shadow the new PC and end the turn; PUSHL and PUSHC shadow a loop or a return address at a depth below 8; ENDL shadows the ENDLOOP of the innermost loop, not one that has not advanced P, and ends the turn; POPC shadows the return of a call since which no loop was opened and ends the turn; PERQ, CANQ, CTXQ, MATQ, FIREQ and MEASQ shadow a record of the current instruction, WAITQ and HALTQ do so and end the turn. -/
def Obligations.MicroProgramOpsComplete : Prop :=
  (∀ (k : Clu) (w : Micro) (ti : Nat) (L : Nat) (s : State), s.fetches k 0x11 w ti = true →
    laneOf k ti ((s.cl k).thread ti) = some L →
    exec (.uNexti k w) s = .next { s with toDev := s.toDev.uopEnd k ti w ({ (s.cl k).thread ti with shadow := ((s.cl k).thread ti).shadow ++ [.op L 0x10 (BitVec.ofNat 64 (((((s.toDev.view ((s.cl k).thread ti)).get (PROG_PC.PC L) : Nat) : Int) + 1 + (s.uB k ti w).toInt) % 0x1000000).toNat)] }) true w.next.toNat }) ∧
  (∀ (k : Clu) (w : Micro) (ti : Nat) (s : State), s.fetches k 0x12 w ti = true →
    exec (.uEndt k w) s = .next { s with toDev := s.toDev.uopEnd k ti w ((s.cl k).thread ti) true w.next.toNat }) ∧
  (∀ (k : Clu) (w : Micro) (ti : Nat) (s : State), s.fetches k 0x13 w ti = true →
    exec (.uJpc k w) s = .next { s with toDev := s.toDev.uopEnd k ti w (((s.cl k).thread ti).put k ti 0x10 (s.uB k ti w)) true w.next.toNat }) ∧
  (∀ (k : Clu) (w : Micro) (ti : Nat) (L : Nat) (s : State), s.fetches k 0x14 w ti = true →
    laneOf k ti ((s.cl k).thread ti) = some L →
    ((s.toDev.view ((s.cl k).thread ti)).lane L).loops.length < 8 →
    exec (.uPushl k w) s = .next { s with toDev := s.toDev.uopEnd k ti w ({ (s.cl k).thread ti with shadow := ((s.cl k).thread ti).shadow ++ [.push L ((s.toDev.view ((s.cl k).thread ti)).get (PROG_PC.PC L)) ((s.cl k).thread ti).iw] }) false w.next.toNat }) ∧
  (∀ (k : Clu) (w : Micro) (ti L : Nat) (f : LoopFrame) (fs : List LoopFrame) (s : State), s.fetches k 0x15 w ti = true →
    laneOf k ti ((s.cl k).thread ti) = some L →
    ((s.toDev.view ((s.cl k).thread ti)).lane L).loops = f :: fs ∧ f.zero ((s.toDev.view ((s.cl k).thread ti)).lane L) = false →
    exec (.uEndl k w) s = .next { s with toDev := s.toDev.uopEnd k ti w { (s.cl k).thread ti with shadow := ((s.cl k).thread ti).shadow ++ [.endLoop L] } true w.next.toNat }) ∧
  (∀ (k : Clu) (w : Micro) (ti : Nat) (L : Nat) (s : State), s.fetches k 0x16 w ti = true →
    laneOf k ti ((s.cl k).thread ti) = some L →
    ((s.toDev.view ((s.cl k).thread ti)).lane L).calls.length < 8 →
    exec (.uPushc k w) s = .next { s with toDev := s.toDev.uopEnd k ti w ({ (s.cl k).thread ti with shadow := ((s.cl k).thread ti).shadow ++ [.pushCall L (((s.toDev.view ((s.cl k).thread ti)).get (PROG_PC.PC L) + 1) % 0x1000000) ((s.cl k).thread ti).iw] }) false w.next.toNat }) ∧
  (∀ (k : Clu) (w : Micro) (ti L : Nat) (f : CallFrame) (fs : List CallFrame) (s : State), s.fetches k 0x17 w ti = true →
    laneOf k ti ((s.cl k).thread ti) = some L →
    ((s.toDev.view ((s.cl k).thread ti)).lane L).calls = f :: fs ∧ ((s.toDev.view ((s.cl k).thread ti)).lane L).loops.length ≤ f.loops →
    exec (.uPopc k w) s = .next { s with toDev := s.toDev.uopEnd k ti w { (s.cl k).thread ti with shadow := ((s.cl k).thread ti).shadow ++ [.popCall L] } true w.next.toNat }) ∧
  (∀ (k : Clu) (w : Micro) (ti : Nat) (L : Nat) (s : State), s.fetches k 0x18 w ti = true →
    laneOf k ti ((s.cl k).thread ti) = some L →
    exec (.uPerq k w) s = .next { s with toDev := s.toDev.uopEnd k ti w ({ (s.cl k).thread ti with shadow := ((s.cl k).thread ti).shadow ++ [.enq L ((s.toDev.view ((s.cl k).thread ti)).record L .period ((s.cl k).thread ti).iw)] }) false w.next.toNat }) ∧
  (∀ (k : Clu) (w : Micro) (ti : Nat) (L : Nat) (s : State), s.fetches k 0x19 w ti = true →
    laneOf k ti ((s.cl k).thread ti) = some L →
    exec (.uCanq k w) s = .next { s with toDev := s.toDev.uopEnd k ti w ({ (s.cl k).thread ti with shadow := ((s.cl k).thread ti).shadow ++ [.enq L ((s.toDev.view ((s.cl k).thread ti)).record L .cand ((s.cl k).thread ti).iw)] }) false w.next.toNat }) ∧
  (∀ (k : Clu) (w : Micro) (ti : Nat) (L : Nat) (s : State), s.fetches k 0x1A w ti = true →
    laneOf k ti ((s.cl k).thread ti) = some L →
    exec (.uCtxq k w) s = .next { s with toDev := s.toDev.uopEnd k ti w ({ (s.cl k).thread ti with shadow := ((s.cl k).thread ti).shadow ++ [.enq L ((s.toDev.view ((s.cl k).thread ti)).record L .ctx ((s.cl k).thread ti).iw)] }) false w.next.toNat }) ∧
  (∀ (k : Clu) (w : Micro) (ti : Nat) (L : Nat) (s : State), s.fetches k 0x1B w ti = true →
    laneOf k ti ((s.cl k).thread ti) = some L →
    exec (.uMatq k w) s = .next { s with toDev := s.toDev.uopEnd k ti w ({ (s.cl k).thread ti with shadow := ((s.cl k).thread ti).shadow ++ [.enq L ((s.toDev.view ((s.cl k).thread ti)).record L .mat ((s.cl k).thread ti).iw)] }) false w.next.toNat }) ∧
  (∀ (k : Clu) (w : Micro) (ti : Nat) (L : Nat) (s : State), s.fetches k 0x1C w ti = true →
    laneOf k ti ((s.cl k).thread ti) = some L →
    exec (.uFireq k w) s = .next { s with toDev := s.toDev.uopEnd k ti w ({ (s.cl k).thread ti with shadow := ((s.cl k).thread ti).shadow ++ [.enq L ((s.toDev.view ((s.cl k).thread ti)).record L .fire ((s.cl k).thread ti).iw)] }) false w.next.toNat }) ∧
  (∀ (k : Clu) (w : Micro) (ti : Nat) (L : Nat) (s : State), s.fetches k 0x1D w ti = true →
    laneOf k ti ((s.cl k).thread ti) = some L →
    exec (.uMeasq k w) s = .next { s with toDev := s.toDev.uopEnd k ti w ({ (s.cl k).thread ti with shadow := ((s.cl k).thread ti).shadow ++ [.enq L ((s.toDev.view ((s.cl k).thread ti)).record L .meas ((s.cl k).thread ti).iw)] }) false w.next.toNat }) ∧
  (∀ (k : Clu) (w : Micro) (ti : Nat) (L : Nat) (s : State), s.fetches k 0x1E w ti = true →
    laneOf k ti ((s.cl k).thread ti) = some L →
    exec (.uWaitq k w) s = .next { s with toDev := s.toDev.uopEnd k ti w ({ (s.cl k).thread ti with shadow := ((s.cl k).thread ti).shadow ++ [.enq L ((s.toDev.view ((s.cl k).thread ti)).record L .wait ((s.cl k).thread ti).iw)] }) true w.next.toNat }) ∧
  (∀ (k : Clu) (w : Micro) (ti : Nat) (L : Nat) (s : State), s.fetches k 0x1F w ti = true →
    laneOf k ti ((s.cl k).thread ti) = some L →
    exec (.uHaltq k w) s = .next { s with toDev := s.toDev.uopEnd k ti w ({ (s.cl k).thread ti with shadow := ((s.cl k).thread ti).shadow ++ [.enq L ((s.toDev.view ((s.cl k).thread ti)).record L .halt ((s.cl k).thread ti).iw)] }) true w.next.toNat })

/-- Of an engine that stands at the word: BR goes on at its target where condition B, inverted by C[3], holds, else at NEXT; CALLU links NEXT and goes on at its target; RETU goes on at LINK; STOPL of a turn that has shadowed nothing stops the lane's program with the ERR of its code where the program has come there, and else is kept until it has; TRAP puts the cluster into machine check. -/
def Obligations.MicroControlCompletes : Prop :=
  (∀ (k : Clu) (w : Micro) (ti : Nat) (s : State), s.fetches k 0x21 w ti = true →
    exec (.uBr k w) s = .next { s with toDev := s.toDev.uopEnd k ti w ((s.cl k).thread ti) false (if s.cond k ti ((s.cl k).thread ti) (w.b.toNat - 0x80) != w.c.getLsbD 3 then uTarget w else w.next.toNat) }) ∧
  (∀ (k : Clu) (w : Micro) (ti : Nat) (s : State), s.fetches k 0x22 w ti = true →
    exec (.uCallu k w) s = .next { s with toDev := s.toDev.uopEnd k ti w ({ (s.cl k).thread ti with link := w.next.toNat }) false (uTarget w) }) ∧
  (∀ (k : Clu) (w : Micro) (ti : Nat) (s : State), s.fetches k 0x23 w ti = true →
    exec (.uRetu k w) s = .next { s with toDev := s.toDev.uopEnd k ti w ((s.cl k).thread ti) false ((s.cl k).thread ti).link }) ∧
  (∀ (k : Clu) (w : Micro) (ti L : Nat) (s : State), s.fetches k 0x20 w ti = true →
    laneOf k ti ((s.cl k).thread ti) = some L ∧ ((s.cl k).thread ti).shadow = [] ∧ s.atStop L = true →
    ∃ t, exec (.uStopl k w) s = .next t ∧ t.get (PROG_STAT.STATE L) = 7 ∧ t.get (PROG_STAT.ERR L) = w.c.toNat) ∧
  (∀ (k : Clu) (w : Micro) (ti L : Nat) (s : State), s.fetches k 0x20 w ti = true →
    laneOf k ti ((s.cl k).thread ti) = some L ∧ ((s.cl k).thread ti).shadow = [] ∧ s.atStop L = false ∧ (s.lane L).stopErr = none →
    ∃ t, exec (.uStopl k w) s = .next t ∧ (t.lane L).stopErr = some w.c.toNat ∧ t.progState L = s.progState L) ∧
  (∀ (k : Clu) (w : Micro) (ti : Nat) (s : State), s.fetches k 0x24 w ti = true →
    ∃ t, exec (.uTrap k w) s = .next t ∧ t.get (CL_STATE.MCHK k) = 1)

/-- Of an engine that stands at the word: LDX of an existing address puts the word into A, from a reserved address zero with the ADDR condition; STX to a context shadows the word, elsewhere stores it at once, to a reserved address it only raises ADDR; HBMRD and HBMWR of 64 bytes inside HBM are posted; HBMSYNC suspends the routine. HBMSYNC_COMPLETE performs the posted operations in order and lets the routine resume. -/
def Obligations.MicroMemoryCompletes : Prop :=
  (∀ (k : Clu) (w : Micro) (ti : Nat) (s : State), s.fetches k 0x28 w ti = true →
    memOk (s.uB k ti w).toNat = true →
    exec (.uLdx k w) s = .next { s with toDev := s.toDev.uopEnd k ti w { ((s.cl k).thread ti).put k ti w.a.toNat (if (s.uB k ti w).toNat < 0x8000 then BitVec.ofNat 64 (bits (((s.toDev.view ((s.cl k).thread ti)).lane (64 * k + (s.uB k ti w).toNat / 512)).ctx ((s.uB k ti w).toNat % 512 / 2)) (64 * ((s.uB k ti w).toNat % 2)) 64) else tget (s.cl k).memDefault (s.cl k).mem (s.uB k ti w).toNat) with addrErr := false } false w.next.toNat }) ∧
  (∀ (k : Clu) (w : Micro) (ti : Nat) (s : State), s.fetches k 0x28 w ti = true →
    memOk (s.uB k ti w).toNat = false →
    exec (.uLdx k w) s = .next { s with toDev := (s.stick (SEQ_STAT.ADDR_ERR k)).uopEnd k ti w { ((s.cl k).thread ti).put k ti w.a.toNat 0 with addrErr := true } false w.next.toNat }) ∧
  (∀ (k : Clu) (w : Micro) (ti : Nat) (s : State), s.fetches k 0x29 w ti = true →
    memOk (s.uB k ti w).toNat = true ∧ (s.uB k ti w).toNat < 0x8000 →
    exec (.uStx k w) s = .next { s with toDev := s.toDev.uopEnd k ti w { (s.cl k).thread ti with shadow := ((s.cl k).thread ti).shadow ++ [.mem k (s.uB k ti w).toNat (s.uA k ti w)], addrErr := false } false w.next.toNat }) ∧
  (∀ (k : Clu) (w : Micro) (ti : Nat) (s : State), s.fetches k 0x29 w ti = true →
    memOk (s.uB k ti w).toNat = true ∧ 0x8000 ≤ (s.uB k ti w).toNat →
    exec (.uStx k w) s = .next { s with toDev := (s.modCl k fun c => c.memPut (s.uB k ti w).toNat (s.uA k ti w)).uopEnd k ti w { (s.cl k).thread ti with addrErr := false } false w.next.toNat }) ∧
  (∀ (k : Clu) (w : Micro) (ti : Nat) (s : State), s.fetches k 0x2A w ti = true →
    (s.uB k ti w).toNat + 64 ≤ hbmSize →
    exec (.uHbmrd k w) s = .next { s with toDev := s.toDev.uopEnd k ti w ({ (s.cl k).thread ti with posted := ((s.cl k).thread ti).posted ++ [((s.uB k ti w).toNat, none)] }) false w.next.toNat }) ∧
  (∀ (k : Clu) (w : Micro) (ti : Nat) (s : State), s.fetches k 0x2B w ti = true →
    (s.uB k ti w).toNat + 64 ≤ hbmSize →
    exec (.uHbmwr k w) s = .next { s with toDev := s.toDev.uopEnd k ti w ({ (s.cl k).thread ti with posted := ((s.cl k).thread ti).posted ++ [((s.uB k ti w).toNat, some ((((s.cl k).thread ti).buf ++ List.replicate 64 0).take 64))] }) false w.next.toNat }) ∧
  (∀ (k : Clu) (w : Micro) (ti : Nat) (s : State), s.fetches k 0x2A w ti = true →
    hbmSize < (s.uB k ti w).toNat + 64 →
    exec (.uHbmrd k w) s = .fault .hbmAddress) ∧
  (∀ (k : Clu) (w : Micro) (ti : Nat) (s : State), s.fetches k 0x2B w ti = true →
    hbmSize < (s.uB k ti w).toNat + 64 →
    exec (.uHbmwr k w) s = .fault .hbmAddress) ∧
  (∀ (k : Clu) (w : Micro) (ti : Nat) (s : State), s.fetches k 0x2C w ti = true →
    exec (.uHbmsync k w) s = .next { s with toDev := s.toDev.uopEnd k ti w ({ (s.cl k).thread ti with suspended := true }) true w.next.toNat }) ∧
  (∀ (k : Clu) (level : Fin 3) (poison : Bool) (s : State), ((s.cl k).thread (64 + level)).posted ≠ [] ∨ ((s.cl k).thread (64 + level)).suspended = true →
    ∃ t, exec (.hbmsyncComplete k level poison) s = .next t ∧ t.hbm = (hbmPost s.hbmByte s.hbm ((s.cl k).thread (64 + level)).buf ((s.cl k).thread (64 + level)).posted).1 ∧ ((t.cl k).thread (64 + level)).posted = [] ∧ ((t.cl k).thread (64 + level)).suspended = false)

/-- Of an engine that stands at the word: SIGF folds A into SIG and counts STEP; MBOX gives A to the requester of the level; SELL selects; FLIP, INVC and FETCHQ are shadowed; RETI ends the routine. ENGINE_DISPATCH of an idle engine inside its service budget, with a level-2 request and no other level preempted mid-COMMIT, starts that request's routine at its vector. -/
def Obligations.MicroServiceOpsComplete : Prop :=
  (∀ (k : Clu) (w : Micro) (ti : Nat) (s : State), s.fetches k 0x2D w ti = true →
    exec (.uSigf k w) s = .next { s with toDev := s.toDev.uopEnd k ti w ({ (s.cl k).thread ti with sig := sigFold ((s.cl k).thread ti).sig (s.uA k ti w), step := ((s.cl k).thread ti).step + 1 }) false w.next.toNat }) ∧
  (∀ (k : Clu) (w : Micro) (ti : Nat) (s : State), s.fetches k 0x2E w ti = true →
    exec (.uMbox k w) s = .next { s with toDev := (s.modCl k fun c => { c with mbox := tput (fun _ => 0) c.mbox (ti - 64) (s.uA k ti w) }).uopEnd k ti w ((s.cl k).thread ti) false w.next.toNat }) ∧
  (∀ (k : Clu) (w : Micro) (ti : Nat) (s : State), s.fetches k 0x2F w ti = true →
    exec (.uSell k w) s = .next { s with toDev := s.toDev.uopEnd k ti w ({ (s.cl k).thread ti with sel := (s.uB k ti w).toNat % 128 }) false w.next.toNat }) ∧
  (∀ (k : Clu) (w : Micro) (ti : Nat) (s : State), s.fetches k 0x30 w ti = true →
    exec (.uFlip k w) s = .next { s with toDev := s.toDev.uopEnd k ti w ({ (s.cl k).thread ti with shadow := ((s.cl k).thread ti).shadow ++ [.flip k ((s.cl k).thread ti).sel ((s.uB k ti w).toNat % 64)] }) false w.next.toNat }) ∧
  (∀ (k : Clu) (w : Micro) (ti : Nat) (L : Nat) (s : State), s.fetches k 0x31 w ti = true →
    laneOf k ti ((s.cl k).thread ti) = some L →
    exec (.uInvc k w) s = .next { s with toDev := s.toDev.uopEnd k ti w ({ (s.cl k).thread ti with shadow := ((s.cl k).thread ti).shadow ++ [.inval L] }) false w.next.toNat }) ∧
  (∀ (k : Clu) (w : Micro) (ti : Nat) (L : Nat) (s : State), s.fetches k 0x32 w ti = true →
    laneOf k ti ((s.cl k).thread ti) = some L →
    exec (.uFetchq k w) s = .next { s with toDev := s.toDev.uopEnd k ti w ({ (s.cl k).thread ti with shadow := ((s.cl k).thread ti).shadow ++ [.fetch L ((s.uB k ti w).toNat % 128)] }) false w.next.toNat }) ∧
  (∀ (k : Clu) (w : Micro) (ti : Nat) (s : State), s.fetches k 0x33 w ti = true →
    exec (.uReti k w) s = .next { s with toDev := s.toDev.uopEnd k ti w ((s.cl k).thread ti) true w.next.toNat }) ∧
  (∀ (k : Clu) (v j t0 : Nat) (r : List (Nat × Nat × Nat)) (s : State), s.get (CL_STATE.MCHK k) = 0 ∧ s.get (CL_STATE.QUIESCED k) = 0 ∧ (s.cl k).halted = false ∧ (s.cl k).active = none →
    (s.cl k).pend2 = (v, j, t0) :: r ∧ s.levelReady k 2 = true ∧ ((s.cl k).thread 66).preempted = false →
    s.svcWindow k ≤ s.get (SEQ_CTRL.SVC_THRESH k) →
    ∃ t, exec (.engineDispatch k) s = .next t ∧ (t.cl k).active = some 66 ∧ (t.cl k).upc = (s.cl k).vectorAt v ∧ (t.cl k).pend2 = r ∧ t.get (SEQ_STAT.ACTIVE k) = 4)

/-- SEQ_LOAD without FORCE by the page's owner, with no load and no program at work in the cluster, enters QUIESCING; SEQ_LOAD_ABORT in QUIESCING ends the load with ERR = ABORTED; QUIESCE_COMPLETE with every program and routine at rest sets QUIESCED and begins the copy; LOAD_COPY_DONE of a clean source, with no word of HBM poisoned, puts the image into the staging slot and begins the checks; LOAD_CHECK_DONE, with no LOAD to be started again, begins installing a good image and ends the load of a bad one with its error; LOAD_INSTALL_DONE without a failing word, likewise and in a cluster that the start did not leave out, ends the load in success. MCHK_CLR of a machine check of cause FIFO or TIMEBASE whose cause is gone clears MCHK. -/
def Obligations.ControlStoreLoadCompletes : Prop :=
  (∀ (ss : Sess) (k : Clu) (val : Word) (s : State), s.lets ss (.seq k) 0x11C (whoOf (.seq k) 0x11C) true = true →
    wbit val 0 = true ∧ wbit val 1 = false ∧ wbit val 2 = false ∧ (s.cl k).load = none ∧ s.loadBusy k = [] →
    ∃ t, exec (.seqLoad ss k val) s = .next t ∧ t.get (SEQ_LOAD_STAT.STATE k) = 1 ∧ (t.cl k).load.isSome = true) ∧
  (∀ (ss : Sess) (k : Clu) (val : Word) (s : State), s.lets ss (.seq k) 0x11C (whoOf (.seq k) 0x11C) true = true →
    wbit val 0 = false ∧ wbit val 2 = true ∧ s.get (SEQ_LOAD_STAT.STATE k) = 1 →
    ∃ t, exec (.seqLoadAbort ss k val) s = .next t ∧ t.get (SEQ_LOAD_STAT.STATE k) = 0 ∧ t.get (SEQ_LOAD_STAT.ERR k) = 14 ∧ (t.cl k).load = none) ∧
  (∀ (k : Clu) (s : State), s.get (SEQ_LOAD_STAT.STATE k) = 1 ∧ s.loadBusy k = [] ∧ (s.cl k).atRest = true →
    ∃ t, exec (.quiesceComplete k) s = .next t ∧ t.get (CL_STATE.QUIESCED k) = 1 ∧ t.get (SEQ_LOAD_STAT.STATE k) = 2) ∧
  (∀ (k : Clu) (l : Load) (s : State), (s.cl k).load = some l ∧ s.get (SEQ_LOAD_STAT.STATE k) = 2 →
    l.fromNvm = false ∧ l.offset + l.len ≤ 0x400000000 ∧ s.poison = [] →
    ∃ t, exec (.loadCopyDone k false) s = .next t ∧ t.get (SEQ_LOAD_STAT.STATE k) = 3 ∧ t.hbm = writeBytes hbmDefault hbmSize s.hbm (stagingSlot k) (if l.latched then l.image else s.loadSource l)) ∧
  (∀ (k : Clu) (l : Load) (err : Nat) (wd : Option Nat) (s : State), (s.cl k).load = some l ∧ s.get (SEQ_LOAD_STAT.STATE k) = 3 →
    checkImage l.image l.fromNvm l.len = some (err, wd) ∧ err < 16 ∧ s.again = [] →
    ∃ t, exec (.loadCheckDone k) s = .next t ∧ t.get (SEQ_LOAD_STAT.STATE k) = 0 ∧ t.get (SEQ_LOAD_STAT.ERR k) = err ∧ (t.cl k).load = none) ∧
  (∀ (k : Clu) (l : Load) (s : State), (s.cl k).load = some l ∧ s.get (SEQ_LOAD_STAT.STATE k) = 4 ∧ s.get (CL_STATE.MCHK k) = 0 ∧ s.again = [] ∧ s.clFailed k = false →
    ∃ t, exec (.loadInstallDone k none) s = .next t ∧ t.get (SEQ_LOAD_STAT.STATE k) = 0 ∧ t.get (SEQ_LOAD_STAT.ERR k) = 0 ∧ t.get (SEQ_STAT.IMAGE_VALID k) = 1 ∧ (t.cl k).load = none) ∧
  (∀ (ss : Sess) (k : Clu) (val : Word) (s : State), s.lets ss (.seq k) 0x100 .owner true = true ∧ wbit val 10 = true →
    s.get (CL_STATE.MCHK k) = 1 ∧ (s.get (SEQ_MCHK_INFO.CAUSE k) = 1 ∨ s.get (SEQ_MCHK_INFO.CAUSE k) = 2) →
    s.get (CL_STATE.FIFO_ERR k) = 0 ∧ s.get TB_STAT.PLL_LOCK = 1 →
    ∃ t, exec (.mchkClr ss k val) s = .next t ∧ t.get (CL_STATE.MCHK k) = 0 ∧ t.get (SEQ_MCHK_INFO.VALID k) = 0)

/-- MEASURE of a program that stands at it, the lane's queue not full, sends a request with Ts = P + OFFSET to its ring under the lane's holder. SLOT_CFG_WRITE by the owner of both columns that R183 allows stores the slot's register. REQUEST_ELIGIBLE of a request whose Ts lies at most 64 T0 ahead makes it eligible from Ts − 64 T0 or from its arrival. POOL_ARBITRATION with one request waiting, eligible, and an idle TMU that no guarantee keeps, once in a fabric cycle and while no background mode runs, grants it the TMU of the lowest valid position whose TMU can be armed, which is ARMED now. -/
def Obligations.MeasurementRequestsComplete : Prop :=
  (∀ (L : Lch) (iw : BitVec 128) (s : State), s.stands L iw 0x0B none = true ∧ ((s.cl (L / 64)).queue.filter fun x => x.queue == L.val % 64).length < 32 →
    ∃ t r, exec (.measure L iw) s = .next t ∧ r ∈ (t.cl (L / 64)).queue ∧ r.src = .measure ∧ r.lane = L.val % 64
          ∧ r.ts = (s.lane L).p + iwOffset iw ∧ r.session = (s.lane L).holder.getD 0 ∧ r.ring = s.get (PROG_RING.RING L) ∧ r.eligible = none) ∧
  (∀ (ss : Sess) (k : Clu) (n : Fin 32) (reg : SlotReg) (val : DWord) (s : State), s.lets ss (poolPage k) (slotOff reg n) .any false = true ∧ s.slotOwner k n ss = true →
    reg = .cfg → s.slotCfgOk k n ss (val.setWidth 32) = true →
    exec (.slotCfgWrite ss k n reg val) s = .next { s with toDev := s.tracked (poolPage k) fun d => if slotWide reg then (d.plainWrite ss (poolPage k) (slotOff reg n) (val.setWidth 32)).plainWrite ss (poolPage k) (slotOff reg n + 4) ((val >>> 32).setWidth 32) else d.plainWrite ss (poolPage k) (slotOff reg n) (if reg = .cfg then slotCfgWord (val.setWidth 32) else val.setWidth 32) }) ∧
  (∀ (k : Clu) (n : Nat) (r : Req) (s : State), r ∈ (s.cl k).queue ∧ r.id = n ∧ r.eligible = none ∧ r.ts / 4096 ≤ s.epoch + 64 →
    ∃ t, exec (.requestEligible k n) s = .next t
          ∧ { r with eligible := some (max (r.ts / 4096 - 64) r.post) } ∈ (t.cl k).queue) ∧
  (∀ (k : Clu) (r : Req) (q u : Nat) (rest : List Nat) (s : State), s.quiesced (poolPage k) = false ∧ s.powered k = true ∧ (s.cl k).arbCyc ≠ some s.cycle ∧ s.bgOn k = false →
    s.readyPos k = q :: rest ∧ s.posTmu k q = some u ∧ s.unmet k < (s.idlePos k).length →
    (s.cl k).queue = [r] ∧ r.src = .measure ∧ r.eligible.isSome = true ∧ r.lane < 64 →
    ∃ t, exec (.poolArbitration k) s = .next t ∧ (t.cl k).queue = [] ∧ t.tmuState k u = 1 ∧ (t.tmu k u).req = some r
          ∧ (t.tmu k u).armT0 = s.epoch)

/-- Of an armed TMU that serves a MEASURE: TMU_START takes a timed start whose time has come, or an edge of the selected polarity on a route at or after the time from which the TMU sees transitions, up to its deadline, and the TMU is MEASURING from that time. TMU_STOP of an edge of the selected polarity at the stop lane's comparator, from 2,048 tq after the start up to the deadline, qualifies once STOP_N others came before, and the TMU is CONVERTING. TMU_TIMEOUT at the deadline plus 48 T0 declares the timeout. TMU_CONVERT_DONE 128 T0 after the end, without a ramp fault, computes the record of R174 and R178, counts the measurement, and the TMU waits for its credit. -/
def Obligations.MeasurementsComplete : Prop :=
  (∀ (k : Clu) (u : TmuId) (a : Nat) (up : Bool) (r : Req) (S : Nat) (s : State), s.tmuState k u = 1 ∧ (s.tmu k u).req = some r ∧ r.src = .measure ∧ r.start = .timed S ∧ S < tq (s.epoch + 1) ∧ (s.tmu k u).unrouted = false →
    ∃ t, exec (.tmuStart k u a up) s = .next t ∧ t.tmuState k u = 2 ∧ (t.tmu k u).startT = some S) ∧
  (∀ (k : Clu) (u : TmuId) (a : Nat) (up : Bool) (r : Req) (pol : Nat) (s : State), s.tmuState k u = 1 ∧ (s.tmu k u).req = some r ∧ r.src = .measure ∧ r.start = .edge pol →
    a < tq (s.epoch + 1) ∧ (s.tmu k u).sees r ≤ a ∧ cyc a ≤ cyc (r.ts + tq r.timeout) ∧ (s.tmu k u).startT = none →
    (s.tmu k u).route.isSome = true ∧ (s.tmu k u).unrouted = false ∧ s.polOk k r.lane pol up = true →
    ∃ t, exec (.tmuStart k u a up) s = .next t ∧ t.tmuState k u = 2 ∧ (t.tmu k u).startT = some a) ∧
  (∀ (k : Clu) (u : TmuId) (a : Nat) (up : Bool) (L : Lch) (r : Req) (S pol : Nat) (s : State), s.tmuState k u = 2 ∧ (s.tmu k u).req = some r ∧ r.src = .measure ∧ (s.tmu k u).startT = some S ∧ r.stop = .edge pol →
    a < tq (s.epoch + 1) ∧ (s.tmu k u).sees r ≤ a ∧ S + 2048 ≤ a ∧ cyc a ≤ cyc (S + tq r.timeout) →
    (s.tmu k u).stopT.all (fun p => decide (p < a)) = true ∧ r.stopN ≤ (s.tmu k u).stops →
    (s.tmu k u).stopRoute.isSome = true ∧ s.polOk k r.stopLane pol up = true ∧ 64 * k.val + r.stopLane = L.val →
    ∃ t, exec (.tmuStop k u a up (.cmp L)) s = .next t ∧ t.tmuState k u = 3 ∧ (t.tmu k u).stopT = some a
          ∧ (t.tmu k u).endT0 = a / 4096) ∧
  (∀ (k : Clu) (u : TmuId) (r : Req) (S : Nat) (s : State), s.tmuState k u = 2 ∧ (s.tmu k u).req = some r ∧ r.src = .measure ∧ (s.tmu k u).startT = some S →
    S + tq r.timeout + tq 48 < tq (s.epoch + 1) →
    ∃ t, exec (.tmuTimeout k u) s = .next t ∧ t.tmuState k u = 3 ∧ (t.tmu k u).timedOut = true
          ∧ (t.tmu k u).endT0 = (S + tq r.timeout + tq 48 + 4095) / 4096) ∧
  (∀ (k : Clu) (u : TmuId) (c0 c1 : Codes) (r : Req) (v : Conv) (s : State), s.tmuState k u = 3 ∧ (s.tmu k u).req = some r ∧ r.src = .measure ∧ (s.tmu k u).endT0 + 128 ≤ s.epoch →
    s.convert k u r (s.tmu k u) c0 c1 = v ∧ v.bad0 = false ∧ v.bad1 = false →
    ∃ t, exec (.tmuConvertDone k u c0 c1) s = .next t ∧ t.tmuState k u = 4
          ∧ (t.tmu k u).record = some (recordBody v.interval v.status v.epoch (r.lch k) r.ctx)
          ∧ t.get (TMU_CNT.COUNT k u) = (s.get (TMU_CNT.COUNT k u) + 1) % 2 ^ 32)

/-- REF_PAIR_CONVERT on an ARMED TMU leaves the pair in TMU_REF of the interpolator. RAMP_LOCK_DONE of a TMU in RAMP_LOCK, in time, freezes both settings, sets LOCKED and returns the TMU to IDLE; RAMP_LOCK_TIMEOUT after 200 µs makes it UNUSABLE. TMU_POSITION_HANDOVER of an invalid position gives it to the best spare, which is in service at that position. A record whose ring exists for its session takes the next sequence number: CREDIT_GRANT of a TMU that waits within its time, first in line for a ring with room, writes its record and returns it to IDLE; CREDIT_WAIT_EXPIRE of one whose wait is over without room drops its record, counts it, and marks the ring's next record OVERRUN; TMU_INJECT with GO, while the ring has room and no record waits for it, writes one record. -/
def Obligations.TmuServiceAndCreditsComplete : Prop :=
  (∀ (k : Clu) (u : TmuId) (i : Fin 2) (r1 r2 : BitVec 12) (s : State), s.tmuState k u = 1 →
    ∃ t, exec (.refPairConvert k u i r1 r2) s = .next t ∧ t.get (TMU_REF.REF1 k u i) = r1.toNat
          ∧ t.get (TMU_REF.REF2 k u i) = r2.toNat) ∧
  (∀ (k : Clu) (u : TmuId) (i0 i1 : BitVec 10) (s : State), s.tmuState k u = 5 ∧ s.cycle ≤ (s.tmu k u).rampT0 / 4 + 2 * rampMaxT0 / 4 →
    ∃ t, exec (.rampLockDone k u i0 i1) s = .next t ∧ t.tmuState k u = 0 ∧ t.get (TMU_STAT.LOCKED k u) = 1
          ∧ t.get (TMU_IDAC.IDAC k u 0) = i0.toNat ∧ t.get (TMU_IDAC.IDAC k u 1) = i1.toNat) ∧
  (∀ (k : Clu) (u : TmuId) (s : State), s.tmuState k u = 5 ∧ s.get (TMU_STAT.ROLE k u) ≠ 3 ∧ (s.tmu k u).rampT0 + rampMaxT0 ≤ s.up →
    ∃ t, exec (.rampLockTimeout k u) s = .next t ∧ t.get (TMU_STAT.ROLE k u) = 3) ∧
  (∀ (k : Clu) (q : Fin 32) (u : Nat) (rest : List Nat) (s : State), s.posTmu k q = none ∧ s.tmuSpares k = u :: rest →
    ∃ t, exec (.tmuPositionHandover k q) s = .next t ∧ t.posTmu k q = some u ∧ t.get (TMU_STAT.ROLE k u) = 1
          ∧ t.get (TMU_STAT.POSITION k u) = q) ∧
  (∀ (k : Clu) (u : TmuId) (r : Req) (body : BitVec 128) (x : Ring) (s : State), s.tmuState k u = 4 ∧ (s.tmu k u).req = some r ∧ r.src = .measure ∧ (s.tmu k u).record = some body →
    s.ring r.ring = some x ∧ s.ringBad r.ring r.session = false ∧ s.ringRoom k r.ring = true ∧ (s.cl k).waitRec = [] →
    s.cycle ≤ s.creditCycle k (s.tmu k u).creditT0 ∧ s.creditBehind k u r (s.tmu k u).creditT0 = false →
    ∃ t, exec (.creditGrant k u) s = .next t ∧ t.tmuState k u = 0 ∧ (t.tmu k u).req = none
          ∧ t.ring r.ring = some { x with seq := (x.seq + 1) % 0x4000, ovr := false, out := x.out + 1 }) ∧
  (∀ (k : Clu) (u : TmuId) (r : Req) (body : BitVec 128) (x : Ring) (s : State), s.tmuState k u = 4 ∧ (s.tmu k u).req = some r ∧ r.src = .measure ∧ (s.tmu k u).record = some body →
    s.ring r.ring = some x ∧ s.ringBad r.ring r.session = false ∧ s.ringRoom k r.ring = false ∧ (s.cl k).waitRec = [] →
    s.creditCycle k (s.tmu k u).creditT0 < s.cycle →
    ∃ t, exec (.creditWaitExpire k u) s = .next t ∧ t.tmuState k u = 0 ∧ (t.tmu k u).req = none
          ∧ t.ring r.ring = some { x with seq := (x.seq + 1) % 0x4000, ovr := true }
          ∧ t.get (TMU_POOL_DROP.COUNT k) = (s.get (TMU_POOL_DROP.COUNT k) + 1) % 2 ^ 32) ∧
  (∀ (ss : Sess) (k : Clu) (val : Word) (n : Nat) (x : Ring) (s : State), s.lets ss (poolPage k) 0x110 (whoOf (poolPage k) 0x110) true = true ∧ wbit val 31 = true →
    s.get (TMU_INJ_RING.RING ss k) = n ∧ s.ring n = some x ∧ s.ringBad n ss = false ∧ s.ringRoom k n = true →
    (s.cl k).waitRec = [] ∧ s.creditWanted n = false →
    ∃ t, exec (.tmuInject ss k val) s = .next t ∧ (t.cl k).waitRec = []
          ∧ t.ring n = some { x with seq := (x.seq + 1) % 0x4000, ovr := false, out := x.out + 1 })

/-- FREQ_CFG_WRITE with PRESC below 7 and EDGE below 3 stores the word. FREQ_GO of an IDLE estimator that no STOP of the cycle stops arms it with the copy of R194: in START_MODE 0 for G0 = EPOCH × 4,096 but at least 16 T0 after the origin, in START_MODE 1 with the named slot's start consumer borrowed. FREQ_STOP of an ARMED estimator returns it to IDLE. FREQ_ABORT of an OPEN one closes the gate, whose result is due 2,048 T0 later as ABORTED. CMP_TRANSITION to the other level leaves the lane, or the FIN input, at that level, and at a rise of the FIN counts its front prescaler on. FREQ_RESULT_CAPTURE in a cycle that posts no result answers FREQ_RES_STAT and captures the result registers and the sums. GATE_OPEN of an ARMED estimator whose G0 has come opens the gate with no edge counted and gives a borrowed consumer back. STAMP_REQUEST of a stamp that is due, fewer than MAX_TMU outstanding, sends its request with Ts at its time. GATE_CLOSE of an OPEN estimator at Gc, single gate, enters COMPUTING with the result due at Tc + 2,048 T0. FREQ_RESULT_POST of the last closed gate, when due, posts its status word and start, and its period where the regression of R201 gives one, and returns the estimator to IDLE. -/
def Obligations.EstimatorCompletes : Prop :=
  (∀ (ss : Sess) (k : Clu) (val : Word) (s : State), s.lets ss (freqPage k) 0x100 .owner false = true ∧ wfield val 11 3 ≠ 7 ∧ wfield val 9 2 ≠ 3 →
    exec (.freqCfgWrite ss k val) s = .next { s with toDev := s.tracked (freqPage k) fun d => d.plainWrite ss (freqPage k) 0x100 val }) ∧
  (∀ (ss : Sess) (k : Clu) (val : Word) (s : State), s.lets ss (freqPage k) 0x120 (whoOf (freqPage k) 0x120) true = true ∧ s.holdsStarts = false →
    wbit val 0 = true ∧ wbit val 1 = false ∧ wbit val 2 = false ∧ (s.fq k).stopCyc ≠ some s.cycle →
    s.freqGoBad ss k = false ∧ s.get (FREQ_CFG.START_MODE k) = 0 →
    ∃ t g, exec (.freqGo ss k val) s = .next t ∧ t.freqState k = 1 ∧ (t.fq k).run = some (s.freqCopy k ss).1
          ∧ (t.fq k).gate = some g ∧ g.g0 = max (tq (s.get (FREQ_START.EPOCH k))) (tq s.epoch + tq 16)) ∧
  (∀ (ss : Sess) (k : Clu) (val : Word) (s : State), s.lets ss (freqPage k) 0x120 (whoOf (freqPage k) 0x120) true = true ∧ s.holdsStarts = false →
    wbit val 0 = true ∧ wbit val 1 = false ∧ wbit val 2 = false ∧ (s.fq k).stopCyc ≠ some s.cycle →
    s.freqGoBad ss k = false ∧ s.get (FREQ_CFG.START_MODE k) = 1 →
    ∃ t, exec (.freqGo ss k val) s = .next t ∧ t.freqState k = 1 ∧ (t.fq k).run = some (s.freqCopy k ss).1
          ∧ (t.fq k).gate = none ∧ (t.cl k).borrowed = some (s.get (FREQ_CFG.SLOT k))) ∧
  (∀ (ss : Sess) (k : Clu) (val : Word) (s : State), s.lets ss (freqPage k) 0x120 (whoOf (freqPage k) 0x120) true = true ∧ s.holdsStarts = false →
    wbit val 1 = true ∧ wbit val 2 = false ∧ s.freqState k = 1 →
    ∃ t, exec (.freqStop ss k val) s = .next t ∧ t.freqState k = 0 ∧ (t.fq k).run = none ∧ (t.fq k).gate = none
          ∧ (t.fq k).stopCyc = some s.cycle) ∧
  (∀ (ss : Sess) (k : Clu) (val : Word) (g : FreqGate) (s : State), s.lets ss (freqPage k) 0x120 (whoOf (freqPage k) 0x120) true = true ∧ s.holdsStarts = false →
    wbit val 2 = true ∧ s.freqState k = 2 ∧ (s.fq k).gate = some g →
    ∃ t x, exec (.freqAbort ss k val) s = .next t ∧ t.freqState k = 3 ∧ (t.fq k).gate = none ∧ x ∈ (t.fq k).closed
          ∧ x.g0 = g.g0 ∧ x.aborted = true ∧ x.postT0 = s.epoch + 2048) ∧
  (∀ (L : Lch) (arrival : Nat) (level : Bool) (s : State), (s.lane L).cmp ≠ level ∧ arrival < tq (s.epoch + 1) →
    ∃ t, exec (.cmpTransition (.cmp L) arrival level) s = .next t ∧ (t.lane L).cmp = level) ∧
  (∀ (i : Fin 4) (arrival : Nat) (level : Bool) (x : FinIn) (s : State), tget (fun _ => {}) s.fins i = x ∧ x.level ≠ level ∧ arrival < tq (s.epoch + 1) →
    ∃ t, exec (.cmpTransition (.fin i) arrival level) s = .next t
          ∧ tget (fun _ => {}) t.fins i = ⟨level, if level then (x.div + 1) % 8 else x.div⟩) ∧
  (∀ (ss : Sess) (k : Clu) (s : State), s.acts ss = true ∧ s.waits ss = false ∧ s.gated (freqPage k) = false ∧ (s.fq k).was.all (fun x => x.1 != s.cycle) = true →
    ∃ t, exec (.freqResultCapture ss k) s = .next t ∧ t.reply = leBytes 4 (s.reg (FREQ_RES_STAT k)).toNat
          ∧ (t.fq k).accCap = (s.fq k).acc
          ∧ ∀ i < 18, tget (fun _ => 0) (t.fq k).capture (0x140 + 4 * i) = s.reg (clu k + 0x7000 + 0x140 + 4 * i)) ∧
  (∀ (k : Clu) (run : FreqRun) (g : FreqGate) (s : State), s.freqState k = 1 ∧ (s.fq k).run = some run ∧ (s.fq k).gate = some g ∧ g.g0 < tq (s.epoch + 1) →
    ∃ t x, exec (.gateOpen k) s = .next t ∧ t.freqState k = 2 ∧ (t.fq k).n = 0 ∧ (t.cl k).borrowed = none
          ∧ (t.fq k).gate = some x ∧ x.g0 = g.g0) ∧
  (∀ (k : Clu) (run : FreqRun) (g : FreqGate) (s : State), (s.fq k).run = some run ∧ (s.fq k).gate = some g ∧ s.stampDue run g = true ∧ (s.fq k).busy < run.maxTmu →
    ∃ t r, exec (.stampRequest k) s = .next t ∧ r ∈ (t.cl k).queue ∧ r.src = .freq g.next g.g0
          ∧ r.ts = g.g0 + tq (g.next * run.delta) ∧ r.start = .timed g.g0 ∧ r.stop = .prescaled
          ∧ (t.fq k).gate = some { g with next := g.next + 1, outstanding := g.outstanding + 1 }) ∧
  (∀ (k : Clu) (run : FreqRun) (g : FreqGate) (s : State), s.freqState k = 2 ∧ (s.fq k).run = some run ∧ (s.fq k).gate = some g ∧ run.close g < tq (s.epoch + 1) ∧ run.cont = false →
    ∃ t x, exec (.gateClose k) s = .next t ∧ t.freqState k = 3 ∧ (t.fq k).gate = none ∧ x ∈ (t.fq k).closed
          ∧ x.g0 = g.g0 ∧ x.postT0 = run.close g / 4096 + 2048) ∧
  (∀ (k : Clu) (run : FreqRun) (g : FreqGate) (s : State), (s.fq k).run = some run ∧ (s.fq k).closed = [g] ∧ (s.fq k).gate = none ∧ g.postT0 ≤ s.epoch →
    ∃ t, exec (.freqResultPost k) s = .next t ∧ t.freqState k = 0 ∧ (t.fq k).run = none ∧ (t.fq k).closed = []
          ∧ t.reg (FREQ_RES_STAT k) = g.statWord (keptStamps g.stamps).length (g.err (keptStamps g.stamps).length)
          (s.get (FREQ_RES_STAT.VALID k) == 1)
          ∧ t.reg64 (FREQ_RES_G0 k) = g.g0 % 2 ^ 64) ∧
  (∀ (k : Clu) (run : FreqRun) (g : FreqGate) (v : FreqResult) (s : State), (s.fq k).run = some run ∧ (s.fq k).closed = [g] ∧ (s.fq k).gate = none ∧ g.postT0 ≤ s.epoch →
    g.err (keptStamps g.stamps).length = 0
          ∧ freqRegress (keptStamps g.stamps).length run.k2 (freqSums (keptStamps g.stamps)) = some v →
    ∃ t, exec (.freqResultPost k) s = .next t ∧ t.reg64 (FREQ_PERIOD k) = v.period % 2 ^ 64
          ∧ t.get (FREQ_RESID.RESID k) = v.resid % 2 ^ 32)

/-- ARM_FIRE of producers whose rows the writer owns, in a powered cluster while no start is held, sends each one's event to the matrix with the start of the fabric cycle as its origin. EVENT_DELIVERY passes an event that is due through the matrix: a trigger column receives it one fabric cycle later with its origin. An event at the start consumer of an enabled idle slot is counted and requests a measurement at its origin plus OFFSET, at least 16 T0, 48 T0 for a global event. An event on a line enters the cluster that listens to it. A matrix word of an owned column whose parity check fails in the cycle counts as zero from then on, and the owner's ARM_HEALTH shows PARITY and the column. -/
def Obligations.EventsComplete : Prop :=
  (∀ (ss : Sess) (k : Clu) (val : Word) (i : Fin 16) (s : State), s.lets ss (armPage k) 0x100 .any true = true ∧ s.holdsStarts = false ∧ s.powered k = true →
    s.armFireBad ss k val = none ∧ wbit val i = true ∧ (s.rowOwn k (224 + i)).owner = some ss.val →
    ∃ t x, exec (.armFire ss k val) s = .next t ∧ x ∈ (t.cl k).stage ∧ x.src = 224 + i.val ∧ x.origin = tq (4 * s.ecyc)
          ∧ x.hop = 0 ∧ x.at_ = s.ecyc + 2 ∧ t.get (ARM_STAT.ERR ss k) = 0) ∧
  (∀ (k : Clu) (x : Staged) (c : Nat) (s : State), s.powered k = true ∧ (s.cl k).stage = [x] ∧ (s.cl k).events = [] ∧ x.at_ = s.ecyc ∧ s.colsOf k x.src x.at_ = [c] ∧ c < 256 →
    ∃ t, exec (.eventDelivery (some k) []) s = .next t ∧ (t.cl k).stage = []
          ∧ (t.cl k).events = [{ col := c, origin := x.origin, glob := x.glob, hop := x.hop, arrive := x.at_ + 1 }]) ∧
  (∀ (k : Clu) (n : Fin 32) (e : Event) (s : State), s.powered k = true ∧ (s.cl k).stage = [] ∧ (s.cl k).events = [e] ∧ e.arrive ≤ s.ecyc ∧ e.col = 256 + 2 * n.val →
    s.slotBorrowed k n = false ∧ s.get (TMU_SLOT_CFG.ENABLE k n) = 1 ∧ s.slotBusy k n = false ∧ s.holdsStarts = false →
    ((s.cl k).queue.filter fun r => r.queue == s.get (TMU_SLOT_CFG.START_LANE k n)).length < 32 →
    ∃ t r, exec (.eventDelivery (some k) []) s = .next t ∧ r ∈ (t.cl k).queue ∧ r.src = .slot n
          ∧ r.ts = e.origin + max (s.get (TMU_SLOT_OFS.OFS k n) % 2 ^ 52) (tq (if e.glob then 48 else 16))
          ∧ (tget (fun _ => {}) (t.cl k).cnt e.col : ColCnt).events = ((tget (fun _ => {}) (s.cl k).cnt e.col : ColCnt).events + 1) % 0x10000) ∧
  (∀ (k : Clu) (i : Fin 32) (x : Staged) (s : State), s.gStage = [x] ∧ x.at_ ≤ s.ecyc ∧ s.gcolsOf x.src x.at_ = [] ∧ s.ginsAt x.src x.at_ = [(k.val, i.val)] →
    (s.rowOwn k (192 + i)).owner.isSome = true ∧ s.powered k = true →
    ∃ t y, exec (.eventDelivery none []) s = .next t ∧ t.gStage = [] ∧ y ∈ (t.cl k).stage ∧ y.src = 192 + i.val
          ∧ y.origin = x.origin ∧ y.hop = x.hop ∧ y.glob = true ∧ y.at_ = x.at_ + 2 + s.slow 2 k) ∧
  (∀ (k : Clu) (c : Fin 384) (w : Fin 8) (o : Nat) (s : State), s.powered k = true ∧ (s.cl k).stage = [] ∧ (s.cl k).events = [] ∧ (s.cl k).badWords.contains (8 * c.val + w.val) = false →
    (s.colOwn k c).owner = some o →
    ∃ t, exec (.eventDelivery (some k) [(c, w)]) s = .next t ∧ (t.cl k).badWords = (s.cl k).badWords ++ [8 * c.val + w.val]
          ∧ t.get (ARM_HEALTH.PARITY o k) = 1 ∧ t.get (ARM_HEALTH.PARITY_COL o k) = c)

/-- A MATRIX_WRITE that R222 allows and that only clears bits takes effect; one that sets a bit waits for its loop check with PENDING set, as do a GIN_BIND_WRITE that binds and a trigger slot write that R225 checks. GLOBAL_MATRIX_WRITE by the group's owner of readable lines, a GIN_BIND_WRITE that unbinds and a trigger slot write that R225 does not check take effect. LOOP_CHECK_DONE of the oldest change, with no access waiting behind it, stores a matrix word that closes no loop, and refuses one that does with LOOP and leaves the word. -/
def Obligations.MatrixWritesComplete : Prop :=
  (∀ (ss : Sess) (k : Clu) (c : Fin 384) (w : Fin 8) (val : Word) (s : State), s.acts ss = true ∧ s.waits ss = false ∧ s.powered k = true ∧ val ≠ s.mxRaw k c w ∧ s.mxErr ss k c w val = none ∧ val &&& ~~~ (s.mxRaw k c w) = 0 →
    ∃ t, exec (.matrixWrite ss k c w val) s = .next t ∧ t.mxRaw k c w = val ∧ t.get (ARM_STAT.ERR ss k) = 0) ∧
  (∀ (ss : Sess) (k : Clu) (c : Fin 384) (w : Fin 8) (val : Word) (s : State), s.acts ss = true ∧ s.waits ss = false ∧ s.powered k = true ∧ s.mxErr ss k c w val = none ∧ val &&& ~~~ (s.mxRaw k c w) ≠ 0 →
    ∃ t, exec (.matrixWrite ss k c w val) s = .next t ∧ t.loopQ = s.loopQ ++ [.matrix ss k c w val]
          ∧ t.get (ARM_STAT.PENDING ss k) = 1) ∧
  (∀ (ss : Sess) (c : Fin 128) (w : Fin 2) (val : Word) (s : State), s.lets ss glPage (0x400 + 8 * c + 4 * w) .any false = true ∧ val ≠ tget (fun _ => 0) s.gmx (2 * c + w) →
    (s.gcolOwn c).owner = some ss.val →
    ((bitsOf w (val &&& ~~~ (tget (fun _ => 0) s.gmx (2 * c + w)))).any fun L => (s.line L).lg.isSome || !readable (s.line L).own (s.gcolOwn c)) = false →
    ∃ t, exec (.globalMatrixWrite ss c w val) s = .next t ∧ tget (fun _ => 0) t.gmx (2 * c + w) = val ∧ t.get (GL_ERR.ERR ss) = 0) ∧
  (∀ (ss : Sess) (k : Clu) (i : Fin 32) (val : Word) (s : State), s.lets ss (armPage k) (0x180 + 4 * i) .any false = true ∧ s.ginErr ss k i val = 0 ∧ wbit val 6 = false →
    ∃ t, exec (.ginBindWrite ss k i val) s = .next t ∧ t.reg (ARM_GIN k i) = val &&& 0x7F ∧ t.get (ARM_STAT.ERR ss k) = 0) ∧
  (∀ (ss : Sess) (k : Clu) (i : Fin 32) (val : Word) (s : State), s.lets ss (armPage k) (0x180 + 4 * i) .any false = true ∧ s.ginErr ss k i val = 0 ∧ wbit val 6 = true →
    val &&& 0x7F ≠ s.reg (ARM_GIN k i) →
    ∃ t, exec (.ginBindWrite ss k i val) s = .next t ∧ t.loopQ = s.loopQ ++ [.gin ss k i val]) ∧
  (∀ (ss : Sess) (L : Lch) (n : Fin 4) (reg : TrigReg) (val : DWord) (s : State), s.lets ss (lanePage L) (trigOff n reg) .owner false = true →
    exec (.triggerSlotConfigWrite ss L n reg val) s = .next { s with toDev := s.tracked (lanePage L) fun d => if d.trigChecked L n reg val then d.askLoop (.trig ss L n reg val) else d.trigStore ss L n reg val }) ∧
  (∀ (ss : Sess) (k : Clu) (c : Fin 384) (w : Fin 8) (val : Word) (rest : List LoopReq) (s : State), s.loopQ = .matrix ss k c w val :: rest ∧ s.stalled = [] ∧ s.mxErr ss k c w val = none →
    ({ s.toDev with loopQ := rest }.mxStore k c w val).loops (s.mxArcs k c w val) = false →
    ∃ t, exec .loopCheckDone s = .next t ∧ t.mxRaw k c w = val ∧ t.get (ARM_STAT.ERR ss k) = 0 ∧ t.loopQ = rest) ∧
  (∀ (ss : Sess) (k : Clu) (c : Fin 384) (w : Fin 8) (val : Word) (rest : List LoopReq) (s : State), s.loopQ = .matrix ss k c w val :: rest ∧ s.stalled = [] ∧ s.mxErr ss k c w val = none →
    ({ s.toDev with loopQ := rest }.mxStore k c w val).loops (s.mxArcs k c w val) = true →
    ∃ t, exec .loopCheckDone s = .next t ∧ t.mxRaw k c w = s.mxRaw k c w ∧ t.get (ARM_STAT.LOOP ss k) = 1 ∧ t.loopQ = rest)

/-- On the row that the session selects: ARM_CLAIM of an unowned software row leaves it the session's with its attribute; ARM_RELEASE by the owner leaves it without owner; ARM_SHARE_SET and ARM_SHARE_CLR by the owner leave SHARE set and clear. On the line that it selects, no lock group's: GL_CLAIM and GL_RELEASE likewise, with GL_FREE following; GL_SHARE_SET and GL_SHARE_CLR likewise; GL_BIND of the session's free output waits for its loop check; GL_UNBIND leaves the line without a driver. -/
def Obligations.ArmatureOwnershipCompletes : Prop :=
  (∀ (ss : Sess) (k : Clu) (r : Nat) (s : State), s.lets ss (armPage k) 0x10C .any true = true ∧ s.get (ARM_OWN_SEL.INDEX ss k) = r ∧ s.get (ARM_OWN_SEL.COLUMN ss k) = 0 →
    128 ≤ r ∧ r < 243 ∧ (s.rowOwn k r).owner = none →
    ∃ t, exec (.armClaim ss k) s = .next t ∧ t.rowOwn k r = { owner := some ss, attr := s.attrHeld ss } ∧ t.get (ARM_STAT.ERR ss k) = 0) ∧
  (∀ (ss : Sess) (k : Clu) (c : Nat) (s : State), s.lets ss (armPage k) 0x10C .any true = true ∧ s.get (ARM_OWN_SEL.INDEX ss k) = c ∧ s.get (ARM_OWN_SEL.COLUMN ss k) = 1 →
    256 ≤ c ∧ c < 384 ∧ (s.colOwn k c).owner = none →
    ∃ t, exec (.armClaim ss k) s = .next t ∧ t.colOwn k c = { owner := some ss, attr := s.attrHeld ss } ∧ t.get (ARM_STAT.ERR ss k) = 0) ∧
  (∀ (ss : Sess) (k : Clu) (r : Nat) (s : State), s.lets ss (armPage k) 0x10C .any true = true ∧ s.get (ARM_OWN_SEL.INDEX ss k) = r ∧ s.get (ARM_OWN_SEL.COLUMN ss k) = 0 →
    128 ≤ r ∧ r < 243 ∧ (s.rowOwn k r).owner = some ss.val →
    ∃ t, exec (.armRelease ss k) s = .next t ∧ (t.rowOwn k r).owner = none ∧ t.get (ARM_STAT.ERR ss k) = 0) ∧
  (∀ (ss : Sess) (k : Clu) (r : Nat) (s : State), s.lets ss (armPage k) 0x10C .any true = true ∧ s.get (ARM_OWN_SEL.INDEX ss k) = r ∧ s.get (ARM_OWN_SEL.COLUMN ss k) = 0 →
    r < 243 ∧ (s.rowOwn k r).owner = some ss.val →
    ∃ t, exec (.armShareSet ss k) s = .next t ∧ t.rowOwn k r = { s.rowOwn k r with share := true } ∧ t.get (ARM_STAT.ERR ss k) = 0) ∧
  (∀ (ss : Sess) (k : Clu) (r : Nat) (s : State), s.lets ss (armPage k) 0x10C .any true = true ∧ s.get (ARM_OWN_SEL.INDEX ss k) = r ∧ s.get (ARM_OWN_SEL.COLUMN ss k) = 0 →
    r < 243 ∧ (s.rowOwn k r).owner = some ss.val →
    ∃ t, exec (.armShareClr ss k) s = .next t ∧ t.rowOwn k r = { s.rowOwn k r with share := false } ∧ t.get (ARM_STAT.ERR ss k) = 0) ∧
  (∀ (ss : Sess) (L : Nat) (s : State), s.lets ss glPage 0x104 .any true = true ∧ s.get (GL_SEL.LINE ss) = L ∧ (s.line L).lg = none ∧ (s.line L).own.owner = none →
    ∃ t, exec (.glClaim ss) s = .next t ∧ (t.line L).own = { owner := some ss, attr := s.attrHeld ss }
          ∧ t.get GL_FREE.FREE = s.get GL_FREE.FREE - 1 ∧ t.get (GL_ERR.ERR ss) = 0) ∧
  (∀ (ss : Sess) (L : Nat) (s : State), s.lets ss glPage 0x104 .any true = true ∧ s.get (GL_SEL.LINE ss) = L ∧ (s.line L).lg = none ∧ (s.line L).own.owner = some ss.val →
    ∃ t, exec (.glRelease ss) s = .next t ∧ (t.line L).own = {} ∧ (t.line L).driver = none
          ∧ t.get GL_FREE.FREE = (s.get GL_FREE.FREE + 1) % 128 ∧ t.get (GL_ERR.ERR ss) = 0) ∧
  (∀ (ss : Sess) (L : Nat) (s : State), s.lets ss glPage 0x104 .any true = true ∧ s.get (GL_SEL.LINE ss) = L ∧ (s.line L).lg = none ∧ (s.line L).own.owner = some ss.val →
    ∃ t, exec (.glShareSet ss) s = .next t ∧ (t.line L).own = { (s.line L).own with share := true } ∧ t.get (GL_ERR.ERR ss) = 0) ∧
  (∀ (ss : Sess) (L : Nat) (s : State), s.lets ss glPage 0x104 .any true = true ∧ s.get (GL_SEL.LINE ss) = L ∧ (s.line L).lg = none ∧ (s.line L).own.owner = some ss.val →
    ∃ t, exec (.glShareClr ss) s = .next t ∧ (t.line L).own = { (s.line L).own with share := false } ∧ t.get (GL_ERR.ERR ss) = 0) ∧
  (∀ (ss : Sess) (L : Nat) (s : State), s.lets ss glPage 0x104 .any true = true ∧ s.get (GL_SEL.LINE ss) = L ∧ (s.line L).lg = none →
    (s.line L).own.owner = some ss.val ∧ s.bindErr ss L (s.get (GL_DRV.CLUSTER ss)) (s.get (GL_DRV.OUT ss)) = 0 →
    ∃ t, exec (.glBind ss) s = .next t
          ∧ t.loopQ = s.loopQ ++ [.bind ss L (s.get (GL_DRV.CLUSTER ss)) (s.get (GL_DRV.OUT ss))] ∧ t.get (GL_ERR.PENDING ss) = 1) ∧
  (∀ (ss : Sess) (L : Nat) (s : State), s.lets ss glPage 0x104 .any true = true ∧ s.get (GL_SEL.LINE ss) = L ∧ (s.line L).lg = none ∧ (s.line L).own.owner = some ss.val →
    ∃ t, exec (.glUnbind ss) s = .next t ∧ (t.line L).driver = none ∧ (t.line L).own = (s.line L).own ∧ t.get (GL_ERR.ERR ss) = 0)

/-- A GO that starts at once leaves the session's command RUNNING with its counts at 0: LANES, CLUSTER, TMU_POOL, CD_EXTERNAL, PATH and TREE leave a job of the cluster with the units that R260 names, STORE and RESTORE_FACTORY the device-wide job with STORING set. ABORT of the session's queued command ends that command with CAL_ABORTED. -/
def Obligations.CaliperCommandsComplete : Prop :=
  (∀ (ss : Sess) (val : Word) (s : State), s.calStarts ss val 1 = true →
    ∃ t j, exec (.calLanes ss val) s = .next t ∧ t.job (wfield val 5 4) = some j ∧ j.cmd = s.calCmdOf ss val
          ∧ j.todo = s.calUnits (s.calCmdOf ss val) ∧ t.get (CAL_CMD_STAT.STATE ss) = 2 ∧ t.get (CAL_CMD_CNT.ACCEPTED ss) = 0) ∧
  (∀ (ss : Sess) (val : Word) (s : State), s.calStarts ss val 2 = true →
    ∃ t j, exec (.calCluster ss val) s = .next t ∧ t.job (wfield val 5 4) = some j ∧ j.cmd = s.calCmdOf ss val
          ∧ j.todo = s.calUnits (s.calCmdOf ss val) ∧ t.get (CAL_CMD_STAT.STATE ss) = 2 ∧ t.get (CAL_CMD_CNT.ACCEPTED ss) = 0) ∧
  (∀ (ss : Sess) (val : Word) (s : State), s.calStarts ss val 3 = true →
    ∃ t j, exec (.calTmuPool ss val) s = .next t ∧ t.job (wfield val 5 4) = some j ∧ j.cmd = s.calCmdOf ss val
          ∧ j.todo = s.calUnits (s.calCmdOf ss val) ∧ t.get (CAL_CMD_STAT.STATE ss) = 2 ∧ t.get (CAL_CMD_CNT.ACCEPTED ss) = 0) ∧
  (∀ (ss : Sess) (val : Word) (s : State), s.calStarts ss val 4 = true →
    ∃ t j, exec (.calCdExternal ss val) s = .next t ∧ t.job (wfield val 5 4) = some j ∧ j.cmd = s.calCmdOf ss val
          ∧ j.todo = s.calUnits (s.calCmdOf ss val) ∧ t.get (CAL_CMD_STAT.STATE ss) = 2 ∧ t.get (CAL_CMD_CNT.ACCEPTED ss) = 0) ∧
  (∀ (ss : Sess) (val : Word) (s : State), s.calStarts ss val 5 = true →
    ∃ t j, exec (.calPath ss val) s = .next t ∧ t.job (wfield val 5 4) = some j ∧ j.cmd = s.calCmdOf ss val
          ∧ j.todo = s.calUnits (s.calCmdOf ss val) ∧ t.get (CAL_CMD_STAT.STATE ss) = 2 ∧ t.get (CAL_CMD_CNT.ACCEPTED ss) = 0) ∧
  (∀ (ss : Sess) (val : Word) (s : State), s.calStarts ss val 6 = true →
    ∃ t j, exec (.calTree ss val) s = .next t ∧ t.job (wfield val 5 4) = some j ∧ j.cmd = s.calCmdOf ss val
          ∧ j.todo = s.calUnits (s.calCmdOf ss val) ∧ t.get (CAL_CMD_STAT.STATE ss) = 2 ∧ t.get (CAL_CMD_CNT.ACCEPTED ss) = 0) ∧
  (∀ (ss : Sess) (val : Word) (s : State), s.calStarts ss val 7 = true →
    ∃ t x, exec (.calStore ss val) s = .next t ∧ t.cal.store = some x ∧ x.restore = false ∧ x.session = some ss.val
          ∧ t.get CAL_STAT.STORING = 1 ∧ t.get (CAL_CMD_STAT.STATE ss) = 2) ∧
  (∀ (ss : Sess) (val : Word) (s : State), s.calStarts ss val 8 = true →
    ∃ t x, exec (.calRestoreFactory ss val) s = .next t ∧ t.cal.store = some x ∧ x.restore = true ∧ x.session = some ss.val
          ∧ t.get CAL_STAT.STORING = 1 ∧ t.get (CAL_CMD_STAT.STATE ss) = 2) ∧
  (∀ (ss : Sess) (val : Word) (c : CalCmd) (s : State), s.lets ss calPage 0x120 (whoOf calPage 0x120) true = true ∧ wbit val 31 = true ∧ wfield val 0 4 = 9 →
    s.cal.queue = [c] ∧ c.session = some ss.val →
    ∃ t, exec (.calAbort ss val) s = .next t ∧ t.cal.queue = [] ∧ t.get (CAL_CMD_STAT.STATE ss) = 3
          ∧ t.get (CAL_CMD_STAT.RESULT ss) = 6 ∧ t.get (CAL_CMD_STAT.DONE ss) = 1)

/-- With nothing else waiting: CAL_UNIT_START of a generator of a free channel whose four TMUs are gathered starts the unit and asks the micro-engine for CAL_STEP. CAL_TMU_WAIT_EXPIRE of a unit that has waited 1 s ends it with CAL_BUSY. CAL_PASS_DONE of an undisturbed first pass keeps it as pass A; of a second pass of a route that agrees within its bounds accepts the unit. CAL_TREE_MEASURE that is called for and whose two passes agree takes the mean as the correction of a tree that is not aligned, which is aligned then. BG_BURST_DONE of a burst that the pool has granted, with its 2^16 hits, adds the burst to the TMU's first histogram and frees the TMU. -/
def Obligations.CaliperRunsComplete : Prop :=
  (∀ (k : Clu) (j : CalJob) (u : CalUnit) (r : CalRun) (s : State), s.powered k = true ∧ s.quiesced calPage = false ∧ s.cal.queue = [] ∧ s.cal.auto = [] →
    s.job k = some j ∧ j.todo = [u] ∧ j.cmd.op = 1 ∧ u.tmu = false ∧ u.part < 6 ∧ u.unit < 68 →
    s.run k = some r ∧ r.unit = u ∧ r.tmus.length = 4 ∧ r.started = false ∧ r.stepAbort = false →
    r.taken = false ∧ s.get (CL_STATE.MCHK k) = 0 ∧ s.again = [] →
    s.get (CH_PHYS_STAT.ROLE k u.unit) = 0 ∧ s.get (CH_PHYS_STAT.BIST_ACTIVE k u.unit) = 0 →
    ∃ t x, exec (.calUnitStart k) s = .next t ∧ t.run k = some x ∧ x.started = true ∧ x.unit = u
          ∧ (t.cl k).pend1 = some 2 ∧ t.get (CH_PHYS_STAT.CAL_ACTIVE k u.unit) = 1) ∧
  (∀ (k : Clu) (j : CalJob) (r : CalRun) (t0 : Nat) (ss : Sess) (s : State), s.run k = some r ∧ s.job k = some j ∧ j.todo = [r.unit] ∧ j.cmd.session = some ss.val ∧ s.cal.queue = [] ∧ s.cal.auto = [] →
    r.waitT0 = some t0 ∧ r.started = false ∧ t0 + secT0 ≤ s.up ∧ r.unit.tmu = false →
    ∃ t, exec (.calTmuWaitExpire k) s = .next t ∧ (t.unitInfo r.unit).last = 10 ∧ t.run k = none) ∧
  (∀ (k : Clu) (j : CalJob) (r : CalRun) (res : PassResult) (x : PassTables) (s : State), s.run k = some r ∧ s.job k = some j ∧ j.cmd.op ≠ 4 ∧ s.again = [] →
    r.started = true ∧ r.stepAbort = false ∧ r.passA = none ∧ s.passEnd k r res = .tables x →
    s.passMoved k r = false ∧ r.off = false ∧ s.disturbs k = false →
    ∃ t y, exec (.calPassDone k res) s = .next t ∧ t.run k = some y ∧ y.passA = some x ∧ y.unit = r.unit) ∧
  (∀ (k : Clu) (j : CalJob) (r : CalRun) (res : PassResult) (a b v : List Int) (ss : Sess) (s : State), s.run k = some r ∧ s.job k = some j ∧ j.todo = [r.unit] ∧ j.cmd.session = some ss.val ∧ j.cmd.op ≠ 4 →
    s.cal.queue = [] ∧ s.cal.auto = [] ∧ s.again = [] →
    r.started = true ∧ r.stepAbort = false ∧ r.passA = some (.table a []) ∧ s.passEnd k r res = .tables (.table b []) →
    s.passMoved k r = false ∧ r.off = false ∧ s.disturbs k = false →
    r.unit.tmu = false ∧ r.unit.part = 6 ∧ tableVerdict 4 pathBounds a b = (0, v) →
    ∃ t, exec (.calPassDone k res) s = .next t ∧ (t.unitInfo r.unit).last = 0 ∧ (t.unitInfo r.unit).fails = 0
          ∧ (t.ph k r.unit.unit).pathOf r.unit.sub
          = some { drv := v.getD 0 0, den := v.getD 1 0, cmp := v.getD 2 0, tu := (s.cl k).temp, made := s.opNow }
          ∧ t.get CAL_STAT.UNSTORED = 1 ∧ t.run k = none) ∧
  (∀ (k : Clu) (a b residual : Int) (s : State), s.powered k = true ∧ s.disturbs k = false ∧ s.job k = none ∧ s.again = [] →
    s.get (CL_STATE.TREE_ALIGNED k) = 0 ∧ (a - b).natAbs ≤ 4 ∧ 0 ≤ a ∧ 0 ≤ b →
    ∃ t, exec (.calTreeMeasure k a b residual) s = .next t ∧ t.get (CL_STATE.TREE_ALIGNED k) = 1
          ∧ (t.get (TB_TREE_PHASE.CORR k) : Int) = min 4095 ((a + b + 1) / 2)) ∧
  (∀ (k : Clu) (u : TmuId) (x : CdPass) (s : State), (s.inBurst k).contains u.val = true ∧ hits x.hist0 = 0x10000 ∧ hits x.hist1 = 0x10000 ∧ s.bgOn k = true →
    tget (fun _ => ({} : BgAcc)) s.cal.bg (34 * k + u) = {} →
    ∃ t, exec (.bgBurstDone k u x) s = .next t ∧ t.tmuState k u = 0 ∧ (t.tmu k u).req = none
          ∧ tget (fun _ => ({} : BgAcc)) t.cal.bg (34 * k + u) = { a := ({} : BgSum).add x })

/-- TEMP_TABLE_RECOMPUTE of a powered cluster whose temperature has moved 0.25 °C since the last one, more than 1 ms ago, takes the present temperature and shows on every channel whether it is clamped. TABLE_INSTALL_STEP 256 T0 after the last step puts the tables of a channel that drives no lane, and of a TMU out of service, into force at once. CAL_STORE_DONE with success, while no operation of another block has the NVM, leaves the body and the header in the bank's place in NVM, erased before, with its SEQ one above every other, and UNSTORED clear unless tables were accepted since. -/
def Obligations.CaliperTablesComplete : Prop :=
  (∀ (k : Clu) (s : State), 16 ≤ ((s.cl k).temp - (s.cl k).recompTemp).natAbs ∧ (s.cl k).recompT0 + msT0 ≤ s.up ∧ s.powered k = true →
    ∃ t, exec (.tempTableRecompute k) s = .next t ∧ (t.cl k).recompTemp = (s.cl k).temp ∧ (t.cl k).recompT0 = s.up
          ∧ ∀ p : Phy, t.get (CH_PHYS_STAT.TEMP_CLAMP k p) = b2n (tempOutside (s.cl k).temp)) ∧
  (∀ (k : Clu) (p : Phy) (pd ach : Tbl Int) (path : Int × Int × Int) (s : State), (s.ph k p).pdTo = some pd ∧ (s.ph k p).achTo = some ach ∧ (s.ph k p).pathTo = some path →
    (s.ph k p).stepT0 + 256 ≤ s.up ∧ s.drives k p = false →
    ∃ t, exec (.tableInstallStep k (.phys p)) s = .next t ∧ (t.ph k p).pd = pd ∧ (t.ph k p).achieved = ach ∧ (t.ph k p).pdTo = none) ∧
  (∀ (k : Clu) (u : TmuId) (cd path : Tbl Nat) (s : State), (s.tmu k u).cdTo = some cd ∧ (s.tmu k u).pathTo = some path ∧ (s.tmu k u).stepT0 + 256 ≤ s.up ∧ s.get (TMU_STAT.ROLE k u) ≠ 1 →
    ∃ t, exec (.tableInstallStep k (.tmu u)) s = .next t ∧ (t.tmu k u).cd = cd ∧ (t.tmu k u).path = path ∧ (t.tmu k u).cdTo = none) ∧
  (∀ (x : Store) (s : State), s.cal.store = some x ∧ x.restore = false ∧ x.abort = false ∧ (bankBytes x.body).length + 0x10000 ≤ 0x1000000 →
    s.cal.queue = [] ∧ s.cal.auto = [] ∧ s.again = [] ∧ s.nvmMay 2 = true →
    ∃ t, exec (.calStoreDone true) s = .next t
          ∧ readBytes nvmDefault t.nvm (bankBase x.bankB + 0x10000) (bankBytes x.body).length = bankBytes x.body
          ∧ readBytes nvmDefault t.nvm (bankBase x.bankB) 36 = bankHeader (s.cal.topSeq + 1) s.pln.opSeconds (bankBytes x.body)
          ∧ t.cal.store = none ∧ t.get CAL_STAT.UNSTORED = b2n x.later)

/-- PE_REQUEST_SUBMIT of a session without a request queues it with what the session's registers ask for. Of the request at the head: PE_PLACE of one unheld lane for which R266 finds a channel leaves the lane held by the session and served by that channel; PE_MAQUETTE records the same plan and changes no lane; PE_APPLY of a plan that is still current does as the plan says; PE_RELEASE of a held lane sets its release for 16 T0 after the write; PE_HBM_ALLOC of an Edge Vector Store region that R271 allows allocates it at the window's start; PE_HBM_FREE of a region not in use clears its bytes and takes it away; an operation code that R263 does not name ends with PE_INVALID. -/
def Obligations.PointingRequestsComplete : Prop :=
  (∀ (ss : Sess) (val : Word) (s : State), s.lets ss pePage 0x140 .any true = true ∧ wbit val 31 = true ∧ (s.pe.queue.any fun r => r.session == ss) = false →
    ∃ t r, exec (.peRequestSubmit ss val) s = .next t ∧ t.pe.queue = s.pe.queue ++ [r] ∧ r.session = ss.val ∧ r.word = val
          ∧ r.lanes = s.reqLanes ss ∧ r.origin = s.up ∧ t.get (PE_REQ_STAT.STATE ss) = 1) ∧
  (∀ (r : PeReq) (rest : List PeReq) (L : Lch) (p : Nat) (met : Bool) (s : State), s.pe.queue = r :: rest ∧ s.again = [] ∧ r.op = 1 ∧ r.bad = false ∧ r.place.lg = none ∧ r.lanes = [L.val] →
    (s.lane L).holder = none ∧ (s.lane L).releaseT0 = none ∧ (s.lane L).freeT0 = none ∧ (s.lane L).clearT0 = none →
    s.choose L r.place.egMask r.place.cls .place = .found p met ∧ s.tmuFits L r.place.tmuMin = true →
    ∃ t, exec .pePlace s = .next t ∧ t.pe.queue = rest ∧ (t.lane L).holder = some r.session ∧ t.served L = some p
          ∧ (t.lane L).classMet = met ∧ t.get (PE_REQ_STAT.RESULT r.session) = 0 ∧ t.get (PE_REQ_STAT.COUNT r.session) = 1) ∧
  (∀ (r : PeReq) (rest : List PeReq) (L : Lch) (p : Nat) (met : Bool) (s : State), s.pe.queue = r :: rest ∧ s.again = [] ∧ r.op = 2 ∧ r.bad = false ∧ r.place.lg = none ∧ r.lanes = [L.val] →
    (s.lane L).holder = none ∧ (s.lane L).releaseT0 = none ∧ (s.lane L).freeT0 = none ∧ (s.lane L).clearT0 = none →
    s.choose L r.place.egMask r.place.cls .place = .found p met ∧ s.tmuFits L r.place.tmuMin = true →
    ∃ t, exec .peMaquette s = .next t ∧ t.pe.queue = rest ∧ t.lanes = s.lanes ∧ t.served L = s.served L
          ∧ (tget (fun _ => ({} : Plan)) t.pe.plans r.session).lanes = [⟨L, p, 0, r.place.tmuMin, met⟩]
          ∧ t.get (PE_PLAN_GEN.GEN r.session) = s.get PE_GEN.GEN ∧ t.get (PE_REQ_STAT.RESULT r.session) = 0) ∧
  (∀ (r : PeReq) (rest : List PeReq) (L : Lch) (x : PlanLane) (plan : Plan) (s : State), s.pe.queue = r :: rest ∧ s.again = [] ∧ r.op = 3 ∧ tget (fun _ => ({} : Plan)) s.pe.plans r.session = plan →
    plan.lanes = [x] ∧ plan.void = false ∧ plan.lg = none ∧ x.lane = L ∧ x.result = 0 ∧ x.phys < 68 →
    s.get PE_GEN.GEN = s.get (PE_PLAN_GEN.GEN r.session) ∧ (s.lane L).holder = none ∧ s.planFits r.session x = true →
    ∃ t, exec .peApply s = .next t ∧ t.pe.queue = rest ∧ (t.lane L).holder = some r.session ∧ t.served L = some x.phys
          ∧ t.get (PE_REQ_STAT.RESULT r.session) = 0 ∧ t.get (PE_REQ_STAT.COUNT r.session) = 1) ∧
  (∀ (r : PeReq) (rest : List PeReq) (L : Lch) (s : State), s.pe.queue = r :: rest ∧ s.again = [] ∧ r.op = 4 ∧ r.lanes = [L.val] ∧ (s.lane L).holder = some r.session ∧ (s.lane L).releaseT0 = none →
    ∃ t, exec .peRelease s = .next t ∧ t.pe.queue = rest ∧ (t.lane L).releaseT0 = some (r.origin + 16)
          ∧ t.get (PE_REQ_STAT.RESULT r.session) = 0 ∧ t.get (PE_REQ_STAT.COUNT r.session) = 1) ∧
  (∀ (r : PeReq) (rest : List PeReq) (n base : Nat) (s : State), s.pe.queue = r :: rest ∧ s.again = [] ∧ r.op = 5 ∧ wfield r.hbm 0 2 = 0 ∧ wfield r.hbm 2 13 = n ∧ 0 < n ∧ s.evsUsed + n ≤ 128 →
    (s.pe.allocs.any fun a => a.session == r.session && a.kind == 0) = false ∧ s.granPlace true n = some base →
    ∃ t a, exec .peHbmAlloc s = .next t ∧ t.pe.queue = rest ∧ t.pe.allocs = s.pe.allocs ++ [a] ∧ a.session = r.session
          ∧ a.kind = 0 ∧ a.base = base ∧ a.count = n ∧ a.window = 0 ∧ t.get (PE_HBM_ADDR.OFFSET r.session) = 0
          ∧ t.get (PE_REQ_STAT.RESULT r.session) = 0) ∧
  (∀ (r : PeReq) (rest : List PeReq) (a : Alloc) (s : State), s.pe.queue = r :: rest ∧ s.again = [] ∧ r.op = 6 ∧ (s.pe.allocs.find? fun a => a.handle == r.handle && a.session == r.session) = some a →
    s.allocBusy a = false →
    ∃ t, exec .peHbmFree s = .next t ∧ t.pe.queue = rest ∧ t.hbm = clearBytes s.hbm (a.base * granule) (a.count * granule)
          ∧ a ∉ t.pe.allocs ∧ t.get (PE_REQ_STAT.RESULT r.session) = 0) ∧
  (∀ (r : PeReq) (rest : List PeReq) (s : State), s.pe.queue = r :: rest ∧ s.again = [] ∧ (r.op = 0 ∨ 7 ≤ r.op) →
    ∃ t, exec .peInvalidOp s = .next t ∧ t.pe.queue = rest ∧ t.get (PE_REQ_STAT.STATE r.session) = 3
          ∧ t.get (PE_REQ_STAT.RESULT r.session) = 9 ∧ t.get (PE_REQ_STAT.COUNT r.session) = 0)

/-- LANE_RELEASE_EFFECT at T_r leaves the lane without holder, its program IDLE, with the two rest edges at T_r + 4 T0 as its only candidates; CONTEXT_CLEAR_DONE leaves its contexts zero. SWAP_START of the next swap in order makes its channel a shadow of the lane; SWAP_LOAD_DONE marks it loaded where no slice is on the channel; SWAP_FLIP of a loaded shadow that agreed, once F of R278 has come, leaves the lane served by it and counts the swap. -/
def Obligations.ReleasesAndSwapsComplete : Prop :=
  (∀ (L : Lch) (t0 : Nat) (s : State), (s.lane L).releaseT0 = some t0 ∧ t0 ≤ s.up ∧ s.run (L / 64) = none →
    ∃ t, exec (.laneReleaseEffect L) s = .next t ∧ (t.lane L).holder = none ∧ t.progState L = 0 ∧ (t.lane L).releaseT0 = none
          ∧ ((t.lane L).cands.map fun c => (c.eg, c.lane)) = [(1, tq (t0 + s.epoch - s.up + 4)), (3, tq (t0 + s.epoch - s.up + 4))]
          ∧ (t.lane L).freeT0 = some (t0 + 4) ∧ (t.lane L).clearT0 = some t0) ∧
  (∀ (L : Lch) (t0 : Nat) (s : State), (s.lane L).clearT0 = some t0 →
    ∃ t, exec (.contextClearDone L) s = .next t ∧ (t.lane L).clearT0 = none ∧ (t.lane L).ctxs = []) ∧
  (∀ (k : Clu) (w : Nat × SwapKind) (p : Nat) (met : Bool) (s : State), (s.cl k).swap = none ∧ s.powered k = true ∧ s.run k = none ∧ p < 68 ∧ w.1 < 64 →
    (s.swapOrder k).find? (fun w => (s.swapChoice k w).isSome) = some w ∧ s.swapChoice k w = some (p, met) →
    ∃ t, exec (.swapStart k) s = .next t ∧ (t.cl k).swap = some { lane := w.1, kind := w.2, spare := p, startT0 := s.up }
          ∧ t.get (CH_PHYS_STAT.ROLE k p) = 3 ∧ t.get (CH_PHYS_STAT.LANE k p) = w.1) ∧
  (∀ (k : Clu) (w : Swap) (s : State), (s.cl k).swap = some w ∧ w.loaded = false ∧ s.regionIn 5 k w.spare = false →
    exec (.swapLoadDone k) s = .next { s with toDev := s.modCl k fun c => { c with swap := some { w with loaded := true, loadT0 := s.up } } }) ∧
  (∀ (k : Clu) (w : Swap) (f : Nat) (s : State), (s.cl k).swap = some w ∧ w.loaded = true ∧ w.lane < 64 ∧ w.spare < 68 →
    s.flipF (64 * k + w.lane) w = some f ∧ f ≤ tq s.epoch →
    ∃ t, exec (.swapFlip k true) s = .next t ∧ (t.cl k).swap = none ∧ t.served (64 * k + w.lane) = some w.spare
          ∧ t.get PE_SWAP_CNT.DONE = (s.get PE_SWAP_CNT.DONE + 1) % 2 ^ 16)

/-- SLICE_START of a slot that may start one takes the target of the command that waits, and the command runs. SLICE_STEP_DONE of a TEST step of a context slice that is not aborted, no sooner than its 800 ns, counts the step, folds the step's result into SIG and keeps the failing bit. CS_MARCH_DONE ends the march of a control store after a machine check and leaves the array zero; with no failing word the log says TRANSIENT (3). -/
def Obligations.SelfTestSlicesComplete : Prop :=
  (∀ (i : Fin 2) (c : BistCmd) (s : State), s.slotReady i = true ∧ s.bist.cmd = some c ∧ c.op = 1 ∧ s.get BIST_CMD_STAT.STATE = 1 ∧ s.eligible c.tgt = true →
    (s.tgtInfo c.tgt).aborts ≠ 16 ∧ (s.undo.any fun u => u.cyc == s.cycle && u.page == calStartKey) = false →
    ∃ t sl, exec (.sliceStart i) s = .next t ∧ t.slice i = some sl ∧ sl.tgt = c.tgt ∧ sl.step = 0 ∧ sl.stepT0 = s.up
          ∧ sl.forced = false ∧ t.get BIST_CMD_STAT.STATE = 2 ∧ t.bist.lastStart = some s.up) ∧
  (∀ (i : Fin 2) (sl : Slice) (data : DWord) (bad : Option BadBit) (poison : Bool) (s : State), s.slice i = some sl ∧ sl.tgt.ty = 0 ∧ sl.phase = 2 ∧ sl.abort = false ∧ 1 ≤ sl.step ∧ sl.step ≤ 16 →
    sl.stepT0 + 2560 ≤ s.up →
    ∃ t x, exec (.sliceStepDone i data bad poison) s = .next t ∧ t.slice i = some x ∧ x.tgt = sl.tgt ∧ x.step = sl.step + 1
          ∧ x.sig = sl.sig.rotateLeft 1 ^^^ data ∧ x.stepT0 = s.up ∧ x.phase = (if sl.step = 16 then 3 else 2)
          ∧ x.bad = sl.bad ++ (bad.toList.map fun b => (sl.step + 1, b))) ∧
  (∀ (k : Clu) (bad : List BadBit) (s : State), s.get (CL_STATE.MCHK k) = 1 ∧ (s.cl k).march = true →
    ∃ t, exec (.csMarchDone k bad) s = .next t ∧ (t.cl k).march = false ∧ (t.cl k).cs = []) ∧
  (∀ (k : Clu) (s : State), s.get (CL_STATE.MCHK k) = 1 ∧ (s.cl k).march = true →
    ∃ t, exec (.csMarchDone k []) s = .next t ∧ t.get (SEQ_STAT.IMAGE_VALID k) = 0
          ∧ (t.bist.log.head?.map fun f => f.verdict) = some 3)

/-- While the NVM may perform an operation of self-test: REPAIR_RECORD_WRITTEN appends the record at the head of the queue to copy 0 under the next SEQ, its 16 bytes behind those that stand there, and the next one to copy 1, after which the record leaves the queue. COMPACTION_DONE with both copies read back leaves in both copies the live records alone, in order, under SEQ values above every older one; with copy 1 failed it leaves copy 0 as it was and sets COPY_LOST. A GO of the page's owner while no command waits: RUN of a target that exists waits as the command (STATE 1); CLEAR_UNIT by a session of attribute M, of a unit that self-test took out of service, likewise; COMPACT starts compaction; any other OP ends at once with RESULT INVALID (2) and DONE. -/
def Obligations.RepairsAndSelfTestCommandsComplete : Prop :=
  (∀ (r : RepairRec) (rest : List RepairRec) (s : State), s.bist.writeQ = r :: rest ∧ s.bist.compact = false ∧ s.nvmMay 1 = true ∧ s.bist.inCopy0 = false ∧ s.get BIST_REPAIR_STAT.USED0 < 32768 →
    ∃ t, exec (.repairRecordWritten true) s = .next t
          ∧ readBytes nvmDefault t.nvm (0x40000 + 16 * s.get BIST_REPAIR_STAT.USED0) 16 = RepairRec.bytes { r with seq := s.bist.topSeq + 1 }
          ∧ t.get BIST_REPAIR_STAT.USED0 = s.get BIST_REPAIR_STAT.USED0 + 1 ∧ t.bist.recs0 = s.bist.recs0 ++ [{ r with seq := s.bist.topSeq + 1 }]
          ∧ t.bist.writeQ = { r with seq := s.bist.topSeq + 1 } :: rest ∧ t.bist.inCopy0 = true) ∧
  (∀ (r : RepairRec) (rest : List RepairRec) (s : State), s.bist.writeQ = r :: rest ∧ s.bist.compact = false ∧ s.nvmMay 1 = true ∧ s.bist.inCopy0 = true ∧ s.get BIST_REPAIR_STAT.USED1 < 32768 →
    ∃ t, exec (.repairRecordWritten true) s = .next t
          ∧ readBytes nvmDefault t.nvm (0xC0000 + 16 * s.get BIST_REPAIR_STAT.USED1) 16 = r.bytes
          ∧ t.get BIST_REPAIR_STAT.USED1 = s.get BIST_REPAIR_STAT.USED1 + 1 ∧ t.bist.recs1 = s.bist.recs1 ++ [r]
          ∧ t.bist.writeQ = rest ∧ t.bist.inCopy0 = false) ∧
  (∀ (s : State), s.bist.compact = true ∧ s.nvmMay 1 = true ∧ s.bist.cmd = none ∧ s.bist.live.length ≤ 32768 →
    ∃ t, exec (.compactionDone true true) s = .next t ∧ t.bist.compact = false ∧ t.get BIST_REPAIR_STAT2.COMPACTING = 0
          ∧ t.bist.recs0 = t.bist.recs1 ∧ (t.bist.recs0.map fun r => { r with seq := 0 }) = s.bist.live.map (fun r => { r with seq := 0 })
          ∧ (t.bist.recs0.all fun r => decide (s.bist.topSeq < r.seq)) = true ∧ t.get BIST_REPAIR_STAT.USED0 = s.bist.live.length
          ∧ t.get BIST_REPAIR_STAT.USED1 = s.bist.live.length) ∧
  (∀ (ok0 : Bool) (s : State), s.bist.compact = true ∧ s.nvmMay 1 = true ∧ s.bist.cmd = none →
    ∃ t, exec (.compactionDone ok0 false) s = .next t ∧ t.bist.compact = false ∧ t.bist.recs0 = s.bist.recs0
          ∧ t.get BIST_REPAIR_STAT2.COPY_LOST = 1) ∧
  (∀ (ss : Sess) (val : Word) (tgt : Target) (s : State), s.lets ss bistPage 0x150 (whoOf bistPage 0x150) true = true ∧ wbit val 31 = true ∧ wfield val 0 3 = 1 ∧ s.bist.cmd = none →
    targetOf (wfield val 3 3) (wfield val 6 4) (wbit val 10) (wfield val 11 7) (wfield val 18 1) = some tgt →
    ∃ t, exec (.bistRun ss val) s = .next t ∧ t.bist.cmd = some { op := 1, tgt, session := ss } ∧ t.get BIST_CMD_STAT.STATE = 1) ∧
  (∀ (ss : Sess) (val : Word) (tgt : Target) (s : State), s.lets ss bistPage 0x150 (whoOf bistPage 0x150) true = true ∧ wbit val 31 = true ∧ wfield val 0 3 = 2 ∧ s.bist.cmd = none →
    targetOf (wfield val 3 3) (wfield val 6 4) (wbit val 10) (wfield val 11 7) (wfield val 18 1) = some tgt →
    s.attr ss = 2 ∧ s.bistTook tgt = true →
    ∃ t, exec (.bistClearUnit ss val) s = .next t ∧ t.bist.cmd = some { op := 2, tgt, session := ss } ∧ t.get BIST_CMD_STAT.STATE = 1) ∧
  (∀ (ss : Sess) (val : Word) (s : State), s.lets ss bistPage 0x150 (whoOf bistPage 0x150) true = true ∧ wbit val 31 = true ∧ wfield val 0 3 = 3 ∧ s.bist.cmd = none →
    ∃ t, exec (.bistCompact ss val) s = .next t ∧ t.bist.compact = true ∧ t.get BIST_REPAIR_STAT2.COMPACTING = 1
          ∧ t.get BIST_CMD_STAT.STATE = 2) ∧
  (∀ (ss : Sess) (val : Word) (s : State), s.lets ss bistPage 0x150 (whoOf bistPage 0x150) true = true ∧ wbit val 31 = true ∧ s.bist.cmd = none →
    wfield val 0 3 = 0 ∨ 4 ≤ wfield val 0 3 →
    ∃ t, exec (.bistInvalidCmd ss val) s = .next t ∧ t.get BIST_CMD_STAT.STATE = 3 ∧ t.get BIST_CMD_STAT.RESULT = 2
          ∧ t.get BIST_CMD_STAT.DONE = 1)

/-- FAULT_COLLECT with one real message waiting, fewer than 8 taken in the cycle, moves it into the collector's queue and frees its source's buffer. FAULT_RING_WRITE of a message with no other recipient stores its 64 bits at the device ring's head and counts it. A write of FLT_TAIL up to the messages held releases them; FLT_WIN_SEL selects the device ring for the page's owner with attribute M. A write of FLT_STICKY or FLT_STICKY_INJ by the page's owner clears the bits that it writes 1 to, but for those that hardware set in the same fabric cycle. A GO in FLT_INJ_CTRL with a message in FLT_INJ_MSG that R342 allows, while the session has none in the collector, raises that message with INJ set, for the session alone: BUSY is set and ERR is 0. -/
def Obligations.FaultCollectorCompletes : Prop :=
  (∀ (m : Msg) (s : State), s.fltWaiting = [m] ∧ m.inj = false ∧ s.flt.queue.length < 4096 ∧ (s.flt.took.1 ≠ s.cycle ∨ s.flt.took.2 < 8) →
    ∃ t, exec .faultCollect s = .next t ∧ t.flt.queue = s.flt.queue ++ [m] ∧ (t.source m.source).buf = none) ∧
  (∀ (m : Msg) (rest : List Msg) (s : State), s.flt.queue = m :: rest ∧ m.dest = [] ∧ 128 ≤ s.devBucket ∧ s.flt.device.room 2097152 m = true →
    ∃ t, exec (.faultRingWrite true) s = .next t ∧ t.flt.queue = rest ∧ t.flt.device.head = (s.flt.device.head + 1) % 2 ^ 32
          ∧ readBytes hbmDefault t.hbm (0x3E2000000 + 8 * (s.flt.device.head % 2097152)) 8 = leBytes 8 m.word.toNat) ∧
  (∀ (ss : Sess) (val : Word) (s : State), s.lets ss fltPage 0x110 .any false = true ∧ (val.toNat + 2 ^ 32 - (s.fltRing ss).tail) % 2 ^ 32 ≤ (s.fltRing ss).held →
    ∃ t, exec (.fltTailWrite ss val) s = .next t ∧ (t.fltRing ss).tail = val.toNat ∧ (t.fltRing ss).head = (s.fltRing ss).head
          ∧ (t.fltRing ss).lost = (s.fltRing ss).lost) ∧
  (∀ (ss : Sess) (val : Word) (s : State), s.lets ss fltPage 0x108 .any false = true ∧ s.owner fltPage = some ss.val ∧ s.attr ss = 2 →
    ∃ t, exec (.fltWinSelWrite ss val) s = .next t ∧ t.get (FLT_WIN_SEL.RING ss) = b2n (wbit val 0)) ∧
  (∀ (ss : Sess) (w : Fin 64) (val : Word) (s : State), s.lets ss fltPage (0x200 + 4 * w) .owner false = true →
    ∃ t, exec (.fltStickyClear ss false w val) s = .next t ∧ ∀ i : Fin 32,
          (t.reg (FLT_STICKY w)).getLsbD i = ((s.reg (FLT_STICKY w)).getLsbD i && (!val.getLsbD i
          || (decide ((tget (fun _ => (0, 0)) s.fresh (FLT_STICKY w)).1 = s.cycle) && (tget (fun _ => (0, 0)) s.fresh (FLT_STICKY w)).2.getLsbD i)))) ∧
  (∀ (ss : Sess) (w : Fin 64) (val : Word) (s : State), s.lets ss fltPage (0x300 + 4 * w) .owner false = true →
    ∃ t, exec (.fltStickyClear ss true w val) s = .next t ∧ ∀ i : Fin 32,
          (t.reg (FLT_STICKY_INJ w)).getLsbD i = ((s.reg (FLT_STICKY_INJ w)).getLsbD i && (!val.getLsbD i
          || (decide ((tget (fun _ => (0, 0)) s.fresh (FLT_STICKY_INJ w)).1 = s.cycle) && (tget (fun _ => (0, 0)) s.fresh (FLT_STICKY_INJ w)).2.getLsbD i)))) ∧
  (∀ (ss : Sess) (val : Word) (s : State), s.lets ss fltPage 0x148 (whoOf fltPage 0x148) true = true ∧ wbit val 0 = true →
    (s.flt.injected.any fun x => x.dest == [ss.val]) = false →
    injectOk (s.reg64 (FLT_INJ_MSG ss) / 2 ^ 52 % 4096) (s.reg64 (FLT_INJ_MSG ss) / 2 ^ 44 % 256) (s.reg64 (FLT_INJ_MSG ss) / 2 ^ 41 % 8) = true →
    ∃ t m, exec (.faultInject ss val) s = .next t ∧ t.flt.injected = s.flt.injected ++ [m] ∧ m.inj = true ∧ m.dest = [ss.val]
          ∧ m.source = s.reg64 (FLT_INJ_MSG ss) / 2 ^ 52 % 4096 ∧ m.kind = s.reg64 (FLT_INJ_MSG ss) / 2 ^ 44 % 256
          ∧ m.sev = s.reg64 (FLT_INJ_MSG ss) / 2 ^ 41 % 8 ∧ t.get (FLT_INJ_CTRL.BUSY ss) = 1 ∧ t.get (FLT_INJ_CTRL.ERR ss) = 0)

/-- LINK_UP of a link that may train makes its PF a live session of attribute M and its VFs NS. VF_ENABLE_CHANGE that takes no VF away makes the VFs that NumVFs and ARI allow live. A reset of a live session that is not being reset, by FLR or by SESS_CTRL.RESET, begins: RESETTING is set and its Bus Master and MSI-X Enable are clear and the release of its lanes is set; LINK_DOWN of a link without VFs does that to its PF, which ceases to exist. SESSION_RESET_DONE ends a reset whose lanes and records are released: RESETTING is clear and the MSI-X table is at its reset value. SESS_ATTR_SET gives the target an attribute that the lifecycle state allows. D3HOT_TRANSITION moves the function to and from D3hot. -/
def Obligations.FunctionsComplete : Prop :=
  (∀ (port link : Fin 2) (s : State), s.hasLink port link = true ∧ (s.toDev.link port link).up = false ∧ s.boot.perst.contains port.val = true ∧ s.boot.done.contains 0 = true →
    ∃ t, exec (.linkUp port link) s = .next t ∧ (t.toDev.link port link).up = true ∧ (t.sn (s.pfOf port link)).live = true
          ∧ (t.sn (s.pfOf port link)).attr = 2 ∧ ∀ i : Fin 31, i < s.maxVfs port → (t.sn (s.pfOf port link + 1 + i)).attr = 0) ∧
  (∀ (port link : Fin 2) (en : Bool) (numVfs : BitVec 16) (ari : Bool) (n : Nat) (s : State), s.hasLink port link = true ∧ (s.toDev.link port link).up = true →
    n = (if en then min numVfs.toNat (if ari then s.maxVfs port else 7) else 0) →
    ∀ i : Fin 31, n ≤ i.val → i < s.maxVfs port → (s.sn (s.pfOf port link + 1 + i)).live = false →
    ∃ t, exec (.vfEnableChange port link en numVfs ari) s = .next t ∧ (t.toDev.link port link).vfEn = en
          ∧ (t.toDev.link port link).numVfs = numVfs.toNat
          ∧ ∀ i : Fin 31, i < s.maxVfs port → (t.sn (s.pfOf port link + 1 + i)).live = decide (i.val < n)) ∧
  (∀ (ss : Sess) (s : State), (s.sn ss).live = true ∧ (s.sn ss).resetting = false ∧ s.calPending ss = false →
    ∃ t, exec (.functionLevelReset ss) s = .next t ∧ (t.sn ss).resetting = true ∧ (t.sn ss).resetT0 = s.up
          ∧ (t.sn ss).bme = false ∧ (t.sn ss).msixEn = false ∧ (t.sn ss).live = true ∧ (t.sn ss).attr = (s.sn ss).attr
          ∧ ∀ L ∈ s.lanesHeld ss, (t.lane L).releaseT0.isSome = true) ∧
  (∀ (port link : Fin 2) (s : State), s.hasLink port link = true ∧ (s.toDev.link port link).up = true →
    (s.sn (s.pfOf port link)).live = true ∧ (s.sn (s.pfOf port link)).resetting = false →
    s.calPending (s.pfOf port link) = false →
    ∀ i : Fin 31, i < s.maxVfs port → (s.sn (s.pfOf port link + 1 + i)).live = false →
    ∃ t, exec (.linkDown port link) s = .next t ∧ (t.toDev.link port link).up = false
          ∧ (t.sn (s.pfOf port link)).live = false ∧ (t.sn (s.pfOf port link)).resetting = true) ∧
  (∀ (ss : Sess) (n : Nat) (s : State), s.lets ss sessPage 0x110 .attrM false = true ∧ n = s.get (SESS_SEL.TARGET ss) ∧ (s.sn n).live = true →
    (s.sn n).resetting = false ∧ s.calPending n = false →
    ∃ t, exec (.sessCtrlReset ss) s = .next t ∧ (t.sn n).resetting = true ∧ (t.sn n).resetT0 = s.up ∧ (t.sn n).bme = false) ∧
  (∀ (ss : Sess) (s : State), s.resetReady ss = true ∧ s.ringsOf ss = [] →
    ∃ t, exec (.sessionResetDone ss) s = .next t ∧ (t.sn ss).resetting = false ∧ (t.sn ss).vecs = [] ∧ (t.sn ss).bme = false
          ∧ (t.sn ss).msixEn = false ∧ (t.sn ss).fnMask = false) ∧
  (∀ (ss : Sess) (val : Word) (n : Nat) (s : State), s.lets ss sessPage 0x10C .attrM false = true ∧ n = s.get (SESS_SEL.TARGET ss) ∧ (s.sn n).live = true →
    s.attrMay n (wfield val 0 2) = true →
    ∃ t, exec (.sessAttrSet ss val) s = .next t ∧ (t.sn n).attr = wfield val 0 2 ∧ (t.sn n).live = true) ∧
  (∀ (ss : Sess) (d3 : Bool) (s : State), (s.sn ss).live = true →
    ∃ t, exec (.d3hotTransition ss d3) s = .next t ∧ (t.sn ss).d3 = d3 ∧ (d3 = true → t.out = s.out))

/-- BAR2_READ of a session that acts returns the bytes behind its window, zeros where nothing is mapped, with EP where a byte is poisoned, and changes no byte of HBM. BAR2_WRITE stores each byte where its granule is mapped and no other byte; a poisoned one stores nothing. MSIX_MASK_CHANGE sets the mask that it names; with the function masked nothing is sent, and when the last masking ends the message that is owed is sent and its pending bit clears. AER_ERROR leaves its message in the port's empty buffer. CPL_LIMIT_EXPIRE of an access whose data can no longer come in time completes with Completer Abort and counts. -/
def Obligations.HostAccessesComplete : Prop :=
  (∀ (ss : Sess) (addr : BitVec 34) (len : Nat) (s : State), s.acts ss = true →
    ∃ t, exec (.bar2Read ss addr len) s = .next t ∧ t.reply = s.bar2Bytes s.hbm ss addr.toNat len
          ∧ t.replyEp = (s.bar2Poison ss addr.toNat len).isSome ∧ t.hbm = s.hbm ∧ t.nvm = s.nvm) ∧
  (∀ (ss : Sess) (addr : BitVec 34) (bytes : List Byte) (s : State), s.acts ss = true →
    ∃ t, exec (.bar2Write ss addr bytes false) s = .next t ∧ t.nvm = s.nvm
          ∧ ∀ a, (∀ i, i < bytes.length → s.bar2At ss (addr.toNat + i) ≠ some a) → readByte hbmDefault t.hbm a = readByte hbmDefault s.hbm a) ∧
  (∀ (ss : Sess) (addr : BitVec 34) (b : Byte) (a : Nat) (s : State), s.acts ss = true ∧ s.bar2At ss addr.toNat = some a ∧ a < 0x400000000 →
    ∃ t, exec (.bar2Write ss addr [b] false) s = .next t ∧ readByte hbmDefault t.hbm a = b) ∧
  (∀ (ss : Sess) (addr : BitVec 34) (bytes : List Byte) (s : State), s.acts ss = true →
    ∃ t, exec (.bar2Write ss addr bytes true) s = .next t ∧ t.hbm = s.hbm) ∧
  (∀ (ss : Sess) (v : Fin 32) (m : Bool) (s : State), (s.sn ss).live = true ∧ (s.sn ss).resetting = false ∧ (s.sn ss).d3 = false ∧ (s.sn ss).fnMask = true ∧ s.waits ss = false →
    ∃ t, exec (.msixMaskChange ss (.vector v m)) s = .next t ∧ (tget (fun _ => {}) (t.sn ss).vecs v).masked = m ∧ t.out = s.out) ∧
  (∀ (ss : Sess) (on : Bool) (s : State), (s.sn ss).live = true ∧ (s.sn ss).resetting = false →
    ∃ t, exec (.msixMaskChange ss (.functionMask on)) s = .next t ∧ (t.sn ss).fnMask = on ∧ (on = true → t.out = s.out)) ∧
  (∀ (ss : Sess) (on : Bool) (s : State), (s.sn ss).live = true ∧ (s.sn ss).resetting = false →
    ∃ t, exec (.msixMaskChange ss (.msixEnable on)) s = .next t ∧ (t.sn ss).msixEn = on ∧ (on = false → t.out = s.out)) ∧
  (∀ (ss : Sess) (on : Bool) (s : State), (s.sn ss).live = true ∧ (s.sn ss).resetting = false →
    ∃ t, exec (.msixMaskChange ss (.busMaster on)) s = .next t ∧ (t.sn ss).bme = on ∧ (on = false → t.out = s.out)) ∧
  (∀ (ss : Sess) (v : Nat) (s : State), (s.sn ss).live = true ∧ (s.sn ss).resetting = false ∧ (s.sn ss).d3 = false ∧ (s.sn ss).msixEn = true ∧ (s.sn ss).bme = true →
    (s.sn ss).vecs = [(v, { masked := false, pending := true, owed := true })] →
    ∃ t, exec (.msixMaskChange ss (.functionMask false)) s = .next t ∧ t.out = s.out ++ [.msix ss v]
          ∧ (tget (fun _ => {}) (t.sn ss).vecs v).pending = false) ∧
  (∀ (port : Fin 2) (func : BitVec 6) (uncor : Bool) (s : State), (s.source (16 + port.val)).buf = none →
    ∃ t m, exec (.aerError port func uncor) s = .next t ∧ (t.source (16 + port.val)).buf = some m
          ∧ m.kind = (if uncor then 0x71 else 0x70) ∧ m.sev = (if uncor then 3 else 1) ∧ m.addr = BitVec.ofNat 32 func.toNat) ∧
  (∀ (ss : Sess) (addr : BitVec 26) (s : State), s.acts ss = true ∧ s.cplInTime ss addr.toNat = false →
    ∃ t, exec (.cplLimitExpire ss addr) s = .next t ∧ t.out = s.out ++ [.completerAbort ss]
          ∧ t.get (SESS_CPL_EXPIRED.COUNT ss) = min 0xFFFF (s.get (SESS_CPL_EXPIRED.COUNT ss) + 1))

/-- While no record waits for a credit without a TMU: RING_CREATE with parameters that R366 allows takes the lowest free descriptor, its counts at zero; RING_DESTROY of a ring for which no credit of this fabric cycle waits frees a ring of the session without granted records and marks one with them; RING_DESTROY_DONE frees it once they are written; RING_DB_WRITE moves TAIL forward. DRAIN_BATCH copies the batch that R368 gives and then its status word. RING_COALESCE_EXPIRE sends the ring's message once and marks the count. HBM_GRANT of a record stores its 16 bytes at HEAD, changes no other byte and moves HEAD on. -/
def Obligations.RingsComplete : Prop :=
  (∀ (ss : Sess) (n : Nat) (s : State), s.lets ss ringPage 0x114 (whoOf ringPage 0x114) true = true ∧ s.get (RING_RESULT.PENDING ss) = 0 ∧ s.freeDesc = some n →
    (s.ringsOf ss).length < s.get SESS_RING_MAX.RINGS →
    s.inRingAlloc ss (s.get (RING_BASE.BASE ss) * 4096) (16 * 2 ^ s.get (RING_PARAM.SIZE_LOG2 ss)) = true →
    8 ≤ s.get (RING_PARAM.SIZE_LOG2 ss) ∧ s.get (RING_PARAM.SIZE_LOG2 ss) ≤ 27 →
    s.get (RING_PARAM.THRESH_LOG2 ss) ≤ s.get (RING_PARAM.SIZE_LOG2 ss) →
    ∃ t r, exec (.ringCreate ss) s = .next t ∧ t.ring n = some r ∧ r.owner = ss ∧ r.base = s.get (RING_BASE.BASE ss) * 4096
          ∧ r.sizeLog2 = s.get (RING_PARAM.SIZE_LOG2 ss) ∧ r.host = s.get (RING_HOST.HOST ss) * 64 ∧ r.head = 0 ∧ r.drain = 0 ∧ r.tail = 0
          ∧ r.seq = 0 ∧ t.get (RING_RESULT.ERR ss) = 0 ∧ t.get (RING_RESULT.RING_ID ss) = n) ∧
  (∀ (ss : Sess) (n : Nat) (r : Ring) (s : State), s.lets ss ringPage 0x114 (whoOf ringPage 0x114) true = true ∧ s.get (RING_RESULT.PENDING ss) = 0 ∧ s.noRecordWaits = true →
    s.get (RING_SEL.RING ss) = n ∧ s.ring n = some r ∧ r.owner = ss ∧ r.out = 0 ∧ s.lateCredit n = false →
    ∃ t, exec (.ringDestroy ss) s = .next t ∧ t.ring n = none ∧ t.get (RING_RESULT.ERR ss) = 0 ∧ t.get (RING_RESULT.PENDING ss) = 0) ∧
  (∀ (ss : Sess) (n : Nat) (r : Ring) (s : State), s.lets ss ringPage 0x114 (whoOf ringPage 0x114) true = true ∧ s.get (RING_RESULT.PENDING ss) = 0 →
    s.get (RING_SEL.RING ss) = n ∧ s.ring n = some r ∧ r.owner = ss ∧ r.out ≠ 0 ∧ s.lateCredit n = false →
    ∃ t, exec (.ringDestroy ss) s = .next t ∧ t.ring n = some { r with dying := true } ∧ t.get (RING_RESULT.ERR ss) = 0
          ∧ t.get (RING_RESULT.PENDING ss) = 1) ∧
  (∀ (n : BitVec 20) (r : Ring) (s : State), s.ring n.toNat = some r ∧ r.dying = true ∧ r.out = 0 ∧ s.noRecordWaits = true →
    ∃ t, exec (.ringDestroyDone n) s = .next t ∧ t.ring n.toNat = none ∧ t.get (RING_RESULT.PENDING r.owner) = 0) ∧
  (∀ (ss : Sess) (val : Word) (n : Nat) (r : Ring) (s : State), s.lets ss ringPage 0x144 .any false = true ∧ s.noRecordWaits = true →
    n = (tget (fun _ => 0) s.hold (RING_DB ss)).toNat % 2 ^ 20 ∧ s.ring n = some r ∧ r.owner = ss →
    (val.toNat + 2 ^ 32 - r.tail) % 2 ^ 32 ≤ (r.visible + 2 ^ 32 - r.tail) % 2 ^ 32 →
    ∃ t, exec (.ringDbWrite ss val) s = .next t ∧ t.ring n = some { r with tail := val.toNat }) ∧
  (∀ (n : BitVec 20) (r : Ring) (m : Nat) (s : State), s.ring n.toNat = some r ∧ r.copies = true ∧ r.irqEn = false ∧ s.noRecordWaits = true ∧ s.drainNext r.owner = some n.toNat →
    (s.sn r.owner).live = true ∧ (s.sn r.owner).bme = true ∧ (s.sn r.owner).d3 = false →
    m = min (min ((r.head + 2 ^ 32 - r.drain) % 2 ^ 32) (2 ^ r.sizeLog2 - (r.drain + 2 ^ 32 - r.tail) % 2 ^ 32))
          (min 256 (2 ^ r.sizeLog2 - r.drain % 2 ^ r.sizeLog2)) →
    ((s.bar2At r.owner (r.base + 16 * (r.drain % 2 ^ r.sizeLog2))).all fun a => !s.poisoned a (16 * m)) = true →
    ∃ t, exec (.drainBatch n) s = .next t ∧ t.ring n.toNat = some { r with drain := (r.drain + m) % 2 ^ 32 }
          ∧ t.out = s.out ++ [.write r.owner (r.host + 16 * (r.drain % 2 ^ r.sizeLog2))
          (s.bar2Bytes s.hbm r.owner (r.base + 16 * (r.drain % 2 ^ r.sizeLog2)) (16 * m)) false,
          .write r.owner (r.host + 16 * 2 ^ r.sizeLog2) (leBytes 8 ((r.drain + m) % 2 ^ 32)) false]) ∧
  (∀ (n : BitVec 20) (r : Ring) (t0 : Nat) (s : State), s.ring n.toNat = some r ∧ r.irqEn = true ∧ r.visible ≠ r.mark ∧ r.firstT0 = some t0 ∧ t0 + 3200 * r.coalesce ≤ s.up →
    r.msgCyc ≠ some s.cycle ∧ (s.sn r.owner).live = true ∧ (s.sn r.owner).bme = true ∧ (s.sn r.owner).d3 = false →
    (s.sn r.owner).msixEn = true ∧ (s.sn r.owner).fnMask = false ∧ (tget (fun _ => {}) (s.sn r.owner).vecs r.vec).masked = false →
    ∃ t, exec (.ringCoalesceExpire n) s = .next t ∧ t.out = s.out ++ [.msix r.owner r.vec]
          ∧ t.ring n.toNat = some { r with mark := r.visible, firstT0 := none, msgCyc := some s.cycle }) ∧
  (∀ (f k n a : Nat) (x : Xfer) (body : BitVec 128) (sched : HbmSched) (r : Ring) (s : State), ((List.range 16).foldl (fun d k => (d.floorAccrue k).floorSort k) s.toDev).hbmPick = some (f, x, sched) →
    x.what = .record k n body ∧ s.ring n = some r ∧ s.noRecordWaits = true ∧ a + 16 ≤ 0x400000000 →
    s.bar2At r.owner (r.base + 16 * (r.head % 2 ^ r.sizeLog2)) = some a →
    ∃ t, exec (.hbmGrant .clean) s = .next t ∧ readBytes hbmDefault t.hbm a 16 = leBytes 16 body.toNat
          ∧ ((t.ring n).map fun r => r.head) = some ((r.head + 1) % 2 ^ 32) ∧ ((t.ring n).map fun r => r.out) = some (r.out - 1)
          ∧ ∀ b, b < a ∨ a + 16 ≤ b → readByte hbmDefault t.hbm b = readByte hbmDefault s.hbm b)

/-- A GO of an NVM command by a session with none in wait: READ and CHECK of a range that R373 allows are queued (STATE 1); OP 0 and 3 end with ERR INVALID (3) and DONE. NVM_CMD_DONE, where the NVM can be at the host's command and no GO met it in this fabric cycle, of a READ without error leaves its bytes in NVM_DATA, of a CHECK the CRC-32 in NVM_RESULT, and with a read error ends with ERR 4. LC_TARGET_WRITE prepares a transition; LIFECYCLE_GO of the TARGET prepared, where R374 permits the move, sets LC_BUSY; LIFECYCLE_RECORD_DONE, where the NVM can be at the lifecycle record, leaves the new state in both copies of the record and in force, with LC_BUSY clear, and in RETIRED no owner key. LOCK refuses INTRUSIVE from then on, CLOSE drops the debug level. -/
def Obligations.NvmAndLifecycleComplete : Prop :=
  (∀ (ss : Sess) (val : Word) (s : State), s.lets ss nvmPage 0x10C (whoOf nvmPage 0x10C) true = true ∧ wbit val 31 = true ∧ wfield val 0 2 = 1 ∧ s.nvmWaits ss = false →
    nvmRangeOk 1 (s.get (NVM_ADDR.ADDR ss)) (s.get (NVM_LEN.BYTES ss)) = true →
    ∃ t, exec (.nvmRead ss val) s = .next t ∧ t.get (NVM_CMD_STAT.STATE ss) = 1
          ∧ t.nvmQ = s.nvmQ ++ [{ session := ss, op := 1, addr := s.get (NVM_ADDR.ADDR ss), len := s.get (NVM_LEN.BYTES ss) }]) ∧
  (∀ (ss : Sess) (val : Word) (s : State), s.lets ss nvmPage 0x10C (whoOf nvmPage 0x10C) true = true ∧ wbit val 31 = true ∧ wfield val 0 2 = 2 ∧ s.nvmWaits ss = false →
    nvmRangeOk 2 (s.get (NVM_ADDR.ADDR ss)) (s.get (NVM_LEN.BYTES ss)) = true →
    ∃ t, exec (.nvmCheck ss val) s = .next t ∧ t.get (NVM_CMD_STAT.STATE ss) = 1
          ∧ t.nvmQ = s.nvmQ ++ [{ session := ss, op := 2, addr := s.get (NVM_ADDR.ADDR ss), len := s.get (NVM_LEN.BYTES ss) }]) ∧
  (∀ (ss : Sess) (val : Word) (s : State), s.lets ss nvmPage 0x10C (whoOf nvmPage 0x10C) true = true ∧ wbit val 31 = true ∧ s.nvmWaits ss = false →
    wfield val 0 2 = 0 ∨ wfield val 0 2 = 3 →
    ∃ t, exec (.nvmInvalidCmd ss val) s = .next t ∧ t.get (NVM_CMD_STAT.STATE ss) = 3 ∧ t.get (NVM_CMD_STAT.ERR ss) = 3
          ∧ t.get (NVM_CMD_STAT.DONE ss) = 1 ∧ t.nvmQ = s.nvmQ) ∧
  (∀ (c : NvmCmd) (rest : List NvmCmd) (s : State), s.nvmQ = c :: rest ∧ c.op = 1 ∧ s.nvmMay 3 = true ∧ s.again = [] →
    ∃ t, exec (.nvmCmdDone false) s = .next t ∧ t.nvmQ = rest ∧ t.get (NVM_CMD_STAT.STATE c.session) = 3
          ∧ t.get (NVM_CMD_STAT.ERR c.session) = 0 ∧ ∀ w : Fin 64,
          t.reg (NVM_DATA c.session w) = BitVec.ofNat 32 (leNat ((((List.range c.len).map fun i => s.nvmByte s.nvm (c.addr + i)).drop (4 * w)).take 4))) ∧
  (∀ (c : NvmCmd) (rest : List NvmCmd) (s : State), s.nvmQ = c :: rest ∧ c.op ≠ 1 ∧ s.nvmMay 3 = true ∧ s.again = [] →
    ∃ t, exec (.nvmCmdDone false) s = .next t ∧ t.nvmQ = rest ∧ t.get (NVM_CMD_STAT.STATE c.session) = 3
          ∧ t.get (NVM_CMD_STAT.ERR c.session) = 0
          ∧ t.get (NVM_RESULT.CRC c.session) = crc32 ((List.range c.len).map fun i => s.nvmByte s.nvm (c.addr + i)) % 2 ^ 32) ∧
  (∀ (c : NvmCmd) (rest : List NvmCmd) (s : State), s.nvmQ = c :: rest ∧ s.nvmMay 3 = true ∧ s.again = [] →
    ∃ t, exec (.nvmCmdDone true) s = .next t ∧ t.nvmQ = rest ∧ t.get (NVM_CMD_STAT.STATE c.session) = 3
          ∧ t.get (NVM_CMD_STAT.ERR c.session) = 4 ∧ t.get (NVM_CMD_STAT.DONE c.session) = 1 ∧ t.hbm = s.hbm ∧ t.nvm = s.nvm) ∧
  (∀ (ss : Sess) (val : Word) (s : State), s.lets ss secPage 0x104 .ownM false = true ∧ wbit val 2 = false →
    ∃ t, exec (.lcTargetWrite ss val) s = .next t ∧ t.sec.prep = some (wfield val 0 2) ∧ t.get SEC_STAT.LIFECYCLE = s.get SEC_STAT.LIFECYCLE) ∧
  (∀ (ss : Sess) (val : Word) (s : State), s.lets ss secPage 0x104 .ownM true = true ∧ wbit val 2 = true ∧ s.sec.prep = some (wfield val 0 2) →
    s.lcMay (wfield val 0 2) = true ∧ s.get SEC_STAT.LC_BUSY = 0 →
    ∃ t, exec (.lifecycleGo ss val) s = .next t ∧ t.sec.target = some (wfield val 0 2) ∧ t.get SEC_STAT.LC_BUSY = 1) ∧
  (∀ (n : Nat) (s : State), s.sec.target = some n ∧ n < 3 ∧ s.nvmMay 0 = true ∧ s.again = [] →
    ∃ t, exec .lifecycleRecordDone s = .next t ∧ t.get SEC_STAT.LIFECYCLE = n ∧ t.get SEC_STAT.LC_BUSY = 0
          ∧ t.get SEC_STAT.DBG_LEVEL = 0 ∧ t.sec.target = none
          ∧ t.sec.lc0 = some ((s.sec.stored.getD (0, 0)).1 + 1, n) ∧ t.sec.lc1 = t.sec.lc0) ∧
  (∀ (s : State), s.sec.target = some 3 ∧ s.pln.st ≠ .active ∧ s.nvmMay 0 = true ∧ s.again = [] →
    ∃ t, exec .lifecycleRecordDone s = .next t ∧ ∀ w : Fin 12, t.reg (SEC_OWNER_KEY w) = 0) ∧
  (∀ (ss : Sess) (val : Word) (s : State), s.lets ss secPage 0x108 (whoOf secPage 0x108) true = true ∧ wbit val 1 = true ∧ wbit val 2 = false →
    ∃ t, exec (.dbgLock ss val) s = .next t ∧ t.sec.locked = true ∧ t.get SEC_DBG_CTRL.LOCK = 1) ∧
  (∀ (ss : Sess) (val : Word) (s : State), s.lets ss secPage 0x108 (whoOf secPage 0x108) true = true ∧ wbit val 2 = true →
    ∃ t, exec (.dbgClose ss val) s = .next t ∧ t.get SEC_STAT.DBG_LEVEL = 0)

/-- EXTEST, CLAMP and HIGHZ act while RESET_N is low and the device is not in DEEP or in recovery mode, SAMPLE/PRELOAD except in DEEP and in recovery mode; IDCODE, BYPASS, DBG_STATUS and TEST_LOGIC_RESET act with power. DBG_CHALLENGE of a level 1 or 2 outside a lockout returns a challenge of 42 bytes, of 0 drops the level. DBG_RESPONSE that answers a nonce in date as R377 asks raises the level and clears FAILS; one without a nonce fails. NONCE_EXPIRE after 10 s and AUTH_LOCKOUT_EXPIRE after its time end what they name. DBG_ACCESS at a debug level leaves the result of its access for the next Capture-DR. DBG_CLUSTER halts, steps and resumes a powered cluster at INTRUSIVE. -/
def Obligations.DebugPortCompletes : Prop :=
  (∀ (cells : BitVec 25) (s : State), s.pinsOpen = true →
    ∃ t, exec (.extest cells) s = .next t ∧ t.sec.boundary = cells ∧ t.sec.driving = true ∧ t.sec.ir = 0) ∧
  (∀ (cells : BitVec 25) (s : State), s.aonPower = true ∧ s.boot.resetN = true →
    ∃ t, exec (.extest cells) s = .next t ∧ t.sec.driving = false ∧ t.tdo = [0]) ∧
  (∀ (pins cells : BitVec 25) (s : State), s.sampleOpen = true →
    ∃ t, exec (.samplePreload pins cells) s = .next t ∧ t.sec.boundary = cells ∧ t.sec.driving = false
          ∧ t.tdo = leBytes 4 pins.toNat) ∧
  (∀ (s : State), s.aonPower = true →
    ∃ t, exec .idcode s = .next t ∧ t.sec.ir = 2 ∧ t.tdo = leBytes 4 s.idcode) ∧
  (∀ (s : State), s.pinsOpen = true →
    ∃ t, exec .clamp s = .next t ∧ t.sec.driving = true ∧ t.sec.boundary = s.sec.boundary ∧ t.tdo = [0]) ∧
  (∀ (s : State), s.pinsOpen = true →
    ∃ t, exec .highz s = .next t ∧ t.sec.highz = true ∧ t.sec.driving = false ∧ t.tdo = [0]) ∧
  (∀ (s : State), s.aonPower = true →
    ∃ t, exec .bypass s = .next t ∧ t.sec.ir = 0xFF ∧ t.tdo = [0]) ∧
  (∀ (s : State), s.aonPower = true →
    ∃ t, exec .dbgStatus s = .next t ∧ t.sec.ir = 0x10 ∧ t.tdo = leBytes 4 (s.reg SEC_STAT).toNat) ∧
  (∀ (s : State), s.aonPower = true →
    ∃ t, exec .testLogicReset s = .next t ∧ t.sec.ir = 2 ∧ t.sec.driving = false ∧ t.sec.highz = false) ∧
  (∀ (level : Byte) (s : State), s.dbgOpen = true ∧ s.get SEC_STAT.LOCKOUT = 0 →
    level = 1 ∨ level = 2 →
    ∃ t n, exec (.dbgChallenge level) s = .next t ∧ t.sec.nonce = some n ∧ n.level = level.toNat ∧ n.t0 = s.up
          ∧ t.tdo = n.bytes ∧ n.bytes.length = 42) ∧
  (∀ (s : State), s.dbgOpen = true →
    ∃ t, exec (.dbgChallenge 0) s = .next t ∧ t.get SEC_STAT.DBG_LEVEL = 0 ∧ t.sec.nonce = none) ∧
  (∀ (key sig : List Byte) (n : Nonce) (s : State), s.dbgOpen = true ∧ s.sec.nonce = some n ∧ s.up < n.t0 + 32000000000 ∧ s.responseOk n key sig = true →
    s.get SEC_STAT.DBG_LEVEL < n.level ∧ n.level ≤ 2 ∧ s.sec.dropCyc ≠ some s.cycle →
    n.level = 2 → s.sec.locked = false ∧ s.pln.st ≠ .deep →
    ∃ t, exec (.dbgResponse key sig) s = .next t ∧ t.get SEC_STAT.DBG_LEVEL = n.level ∧ t.get SEC_AUTH.FAILS = 0 ∧ t.sec.nonce = none) ∧
  (∀ (key sig : List Byte) (s : State), s.dbgOpen = true ∧ s.sec.nonce = none →
    ∃ t, exec (.dbgResponse key sig) s = .next t ∧ t.get SEC_AUTH.FAILS = min 255 (s.get SEC_AUTH.FAILS + 1)
          ∧ t.get SEC_STAT.DBG_LEVEL = s.get SEC_STAT.DBG_LEVEL) ∧
  (∀ (n : Nonce) (s : State), s.sec.nonce = some n ∧ n.t0 + 32000000000 ≤ s.up →
    exec .nonceExpire s = .next { s with sec := { s.sec with nonce := none } }) ∧
  (∀ (t0 : Nat) (s : State), s.sec.lockT0 = some t0 ∧ t0 + s.sec.lockS * 3200000000 ≤ s.up →
    ∃ t, exec .authLockoutExpire s = .next t ∧ t.get SEC_STAT.LOCKOUT = 0 ∧ t.sec.lockT0 = none) ∧
  (∀ (dr : BitVec 104) (ss : Sess) (a : Nat) (wide : Bool) (s : State), ss = Fin.ofNat 64 (dr.toNat / 2 ^ 66) ∧ a = dr.toNat / 2 ^ 72 % 2 ^ 26 ∧ wide = dr.getLsbD 65 →
    dr.getLsbD 64 = false ∧ dr.getLsbD 98 = false ∧ 1 ≤ s.dbgLevel ∧ dbgRefused s.dbgLevel false wide false a = false →
    s.dbgReach a = true →
    ∃ t, exec (.dbgAccess dr) s = .next t ∧ t.tdo = leBytes 13 s.sec.dbg.toNat ∧ t.sec.ir = 0x13
          ∧ t.sec.dbg = dbgResult (s.dbgRead ss a + (if wide then 2 ^ 32 * s.dbgRead ss (a + 4) else 0)) false) ∧
  (∀ (dr : BitVec 104) (a : Nat) (s : State), a = dr.toNat / 2 ^ 72 % 2 ^ 26 ∧ dr.getLsbD 64 = true ∧ dr.getLsbD 98 = false ∧ 1 ≤ s.dbgLevel →
    dbgRefused s.dbgLevel true (dr.getLsbD 65) false a = false ∧ s.dbgReach a = true →
    ∃ t, exec (.dbgAccess dr) s = .next t ∧ t.sec.dbg = dbgResult (dr.toNat % 2 ^ 64) false) ∧
  (∀ (k : Clu) (s : State), 2 ≤ s.dbgLevel ∧ s.powered k = true →
    ∃ t, exec (.dbgClusterHalt k) s = .next t ∧ (t.cl k).halted = true ∧ t.sec.ir = 0x14) ∧
  (∀ (k : Clu) (s : State), 2 ≤ s.dbgLevel ∧ s.powered k = true →
    ∃ t, exec (.dbgClusterRun k) s = .next t ∧ (t.cl k).halted = false ∧ (t.cl k).stepped = false) ∧
  (∀ (k : Clu) (r s : State), 2 ≤ s.dbgLevel ∧ s.powered k = true ∧ (s.cl k).halted = true →
    r = { s with toDev := { s.toDev with sec := s.sec.irLoad 0x14 } } ∧ (r.stepReady k).stepOutside k = false →
    ∃ t, exec (.dbgClusterStep k) s = .next t ∧ (t.cl k).halted = true)

/-- While a Plinth image runs: IDENT answers 20 bytes, POWER the power state, TEMPS the 48 filtered sensors in two bytes each, SUPPLIES the eight supplies, FAULTS the two fault summaries outside DEEP, EPOCH the count in eight bytes, MBOX_RD the reply of the mailbox; POWER_REQ of DROWSE in ACTIVE with no work begins the transition; MBOX_WR outside RETIRED, while no request of the SMBus waits, puts the request into the mailbox. A code that the table does not have is answered with nothing. -/
def Obligations.ManagementPortCompletes : Prop :=
  (∀ (s : State), s.smbOpen = true →
    ∃ t, exec .smbIdent s = .next t ∧ t.smb = s.identBytes ∧ t.smb.length = 20) ∧
  (∀ (s : State), s.smbOpen = true →
    ∃ t, exec .smbPower s = .next t ∧ t.smb = [match s.pln.st with | .active => 0 | .drowse => 1 | .deep => 2]) ∧
  (∀ (b : Byte) (s : State), s.smbOpen = true ∧ s.pln.st = .active ∧ s.pln.going = none ∧ s.pln.askCyc.map Prod.fst ≠ some s.cycle ∧ s.workOn = false ∧ b = 1 →
    ∃ t, exec (.smbPowerReq b) s = .next t ∧ t.pln.going = some .drowse ∧ t.get PWR_STAT.TRANSITION = 1 ∧ t.smb = []) ∧
  (∀ (s : State), s.smbOpen = true →
    ∃ t, exec .smbTemps s = .next t ∧ t.smb.length = 96 ∧ ∀ n : Fin 48, (t.smb.drop (2 * n)).take 2 = bytes16 (s.sensOut n)) ∧
  (∀ (s : State), s.smbOpen = true →
    ∃ t, exec .smbSupplies s = .next t ∧ t.smb.length = 16 ∧ ∀ n : Fin 8, (t.smb.drop (2 * n)).take 2 = bytes16 (s.sensOut (49 + n))) ∧
  (∀ (s : State), s.smbOpen = true ∧ s.pln.st ≠ .deep →
    ∃ t, exec .smbFaults s = .next t ∧ t.smb = leBytes 8 (s.stickySum false) ++ leBytes 8 (s.stickySum true)) ∧
  (∀ (s : State), s.smbOpen = true →
    ∃ t, exec .smbEpoch s = .next t ∧ t.smb = leBytes 8 s.epoch) ∧
  (∀ (bytes : List Byte) (s : State), s.smbOpen = true ∧ s.retired = false ∧ s.pln.recovery = false ∧ s.pln.mbox = none ∧ 1 ≤ bytes.length ∧ bytes.length ≤ 255 →
    ∃ t, exec (.smbMboxWr bytes) s = .next t ∧ t.pln.mbox = some (bytes, none) ∧ t.pln.mboxRsp = []) ∧
  (∀ (s : State), s.smbOpen = true →
    ∃ t, exec .smbMboxRd s = .next t ∧ t.smb = s.pln.mboxRsp) ∧
  (∀ (code : Byte) (pecFail : Bool) (s : State), exec (.smbBadCommand code pecFail) s = .next { s with smb := [] })

/-- PWR_REQ.GO of DROWSE with FORCE in ACTIVE, with no transition in progress, begins the transition; a TARGET of 3 is refused with INVALID (3). POWER_TRANSITION_DONE from DROWSE to ACTIVE with every cluster powered leaves the device in ACTIVE. DEEP_WAKE with RESET_N high and a failed check, or after a reset in DEEP, starts the sequence of phases that R404 gives. PLINTH_ITERATION that is due, in a fabric cycle without a power request, keeps every raw sample. HARDWARE_TRIP leaves the device in DEEP with HBM lost. CLUSTER_GATE_DONE, once no slice is in the cluster, leaves the cluster gated with its tree not aligned; CLUSTER_WAKE_DONE leaves it powered. SENS_FAULTY_WRITE returns the sensors written 1 to use. CROSSING_FIFO_ERROR of a powered cluster sets FIFO_ERR. -/
def Obligations.PowerStatesComplete : Prop :=
  (∀ (ss : Sess) (val : Word) (s : State), s.lets ss pwrPage 0x104 (whoOf pwrPage 0x104) true = true ∧ wbit val 3 = true ∧ wfield val 0 2 = 1 ∧ wbit val 2 = true →
    s.pln.st = .active ∧ s.pln.going = none ∧ s.pln.running = true ∧ s.pln.askCyc.map Prod.fst ≠ some s.cycle →
    ∃ t, exec (.powerRequest ss val) s = .next t ∧ t.pln.going = some .drowse ∧ t.get PWR_STAT.TRANSITION = 1) ∧
  (∀ (ss : Sess) (val : Word) (s : State), s.lets ss pwrPage 0x104 (whoOf pwrPage 0x104) true = true ∧ wbit val 3 = true ∧ wfield val 0 2 = 3 →
    s.pln.going = none ∧ s.pln.running = true ∧ s.pln.askCyc.map Prod.fst ≠ some s.cycle →
    ∃ t, exec (.powerRequest ss val) s = .next t ∧ t.pln.going = none ∧ t.get PWR_STAT.ERR = 3) ∧
  (∀ (s : State), s.pln.going = some .active ∧ s.pln.st = .drowse ∧ s.pln.held = [] →
    ((List.range 16).all fun k => s.get (CL_STATE.PWR k) == 2) = true →
    ∃ t, exec .powerTransitionDone s = .next t ∧ t.pln.st = .active ∧ t.pln.going = none ∧ t.get PWR_STAT.STATE = 0
          ∧ t.get PWR_STAT.TRANSITION = 0) ∧
  (∀ (ok : Bool) (s : State), s.pln.st = .deep ∧ s.pln.going = some .active ∧ s.pln.running = true ∧ s.retired = false →
    s.boot.resetN = true ∧ s.boot.supplyOk = true ∧ (s.pln.full = true ∨ s.pln.hwTripped = true) →
    ∃ t, exec (.deepWake ok) s = .next t ∧ t.boot.released = true ∧ t.boot.done = [] ∧ t.pln.st = .active
          ∧ t.pln.going = some .active ∧ t.get BOOT_STAT.CAUSE = (if s.pln.hwTripped then 2 else 3)) ∧
  (∀ (s : State), s.pln.st = .deep ∧ s.pln.going = some .active ∧ s.pln.running = true ∧ s.retired = false →
    s.boot.resetN = true ∧ s.boot.supplyOk = true ∧ s.pln.full = false ∧ s.pln.hwTripped = false →
    ∃ t, exec (.deepWake false) s = .next t ∧ t.boot.released = true ∧ t.boot.done = [0, 1, 2, 3] ∧ t.pln.st = .active) ∧
  (∀ (x : Samples) (s : State), s.iterDue = true ∧ s.boot.done.contains 8 = false ∧ s.get PWR_STAT.THROTTLE = 0 ∧ s.pln.askCyc.map Prod.fst ≠ some s.cycle →
    ∃ t, exec (.plinthIteration x) s = .next t ∧ t.pln.iterT0 = s.up + 1 ∧ t.pln.primed = true
          ∧ ∀ n : Fin 57, t.rawOf n = (samplesAll x).getD n 0) ∧
  (∀ (what : BitVec 6) (s : State), s.boot.aonOut = true ∧ s.pln.held = [] →
    ∃ t, exec (.hardwareTrip what) s = .next t ∧ t.pln.st = .deep ∧ t.pln.hwTripped = true ∧ t.pln.going = none ∧ t.hbm = []
          ∧ t.boot.released = false ∧ t.sess = []) ∧
  (∀ (k : Clu) (s : State), s.get (CL_STATE.PWR k) = 3 ∧ s.pln.wakeAfter.contains k.val = false ∧ s.lanesOf k = [] ∧ s.sliceIn k = false →
    ∃ t, exec (.clusterGateDone k) s = .next t ∧ t.get (CL_STATE.PWR k) = 0 ∧ t.get (CL_STATE.TREE_ALIGNED k) = 0
          ∧ (t.cl k).events = []) ∧
  (∀ (k : Clu) (s : State), s.get (CL_STATE.PWR k) = 1 ∧ s.cal.queue = [] ∧ s.cal.auto = [] →
    ∃ t, exec (.clusterWakeDone k) s = .next t ∧ t.get (CL_STATE.PWR k) = 2) ∧
  (∀ (ss : Sess) (val : DWord) (s : State), s.lets ss sensPage 0x108 .owner false = true ∧ s.lets ss sensPage 0x10C .owner false = true →
    (tget (fun _ => (0, 0)) s.fresh SENS_FAULTY).1 ≠ s.cycle ∧ (tget (fun _ => (0, 0)) s.fresh (SENS_FAULTY + 4)).1 ≠ s.cycle →
    ∃ t, exec (.sensFaultyWrite ss val) s = .next t ∧ ∀ n : Fin 48, t.faulty n = (s.faulty n && !val.getLsbD n)) ∧
  (∀ (k : Clu) (fifo : Fin 3) (s : State), s.powered k = true ∧ s.get (CL_STATE.MCHK k) = 1 →
    ∃ t, exec (.crossingFifoError k fifo) s = .next t ∧ t.get ⟨CL_STATE k, 24 + fifo, 1⟩ = 1)

/-- A request of the SMBus in wait, once Plinth serves its mailbox and where no GO met it in this fabric cycle, is answered with its OP plus 0x80, its second byte, a status and a payload, and leaves the mailbox: GET_STATE with lifecycle, debug level, power state, throttle and trip cause; TRIP_LOG with a record of the log; PATINA_READ with 32 bytes of NVM; SET_WAKE after setting AUTO_WAKE and WAKE_S; FW_STAGE, with the NVM free for Plinth, after storing its data in the image that is not running, where no sector is worn, and changing no byte outside that image; FW_COMMIT by starting an image that passes under the next SEQ, or with VERIFY (4), as where the sector of SEQ is worn; any other OP with INVALID (2). A session's GET_STATE is answered in the response registers. PLINTH_RESTART and FW_START_TIMEOUT start the image that R392 names; IMAGE_RUNNING ends a restart. -/
def Obligations.MailboxAndFirmwareComplete : Prop :=
  (∀ (req : List Byte) (s : State), s.mboxTake 1 = some (req, none) ∧ s.again = [] →
    ∃ t c, exec .mboxGetState s = .next t ∧ t.pln.mbox = none ∧ t.pln.mboxRsp = [req.getD 0 0 + 0x80, req.getD 1 0, 0,
          BitVec.ofNat 8 (s.get SEC_STAT.LIFECYCLE), BitVec.ofNat 8 (s.get SEC_STAT.DBG_LEVEL), BitVec.ofNat 8 (s.get PWR_STAT.STATE),
          BitVec.ofNat 8 (s.get PWR_STAT.THROTTLE), c] ∧ (s.pln.tripLog.head?.all fun r => c == BitVec.ofNat 8 r.cause) = true) ∧
  (∀ (req : List Byte) (ss : Nat) (s : State), s.mboxTake 1 = some (req, some ss) ∧ s.again = [] →
    ∃ t, exec .mboxGetState s = .next t ∧ t.pln.mbox = none ∧ t.get PLN_MBOX_CTRL.RSP_LEN = 8 ∧ t.get PLN_MBOX_CTRL.DONE = 1
          ∧ (t.reg (PLN_MBOX_RSP 0)).toNat % 65536 = ((req.getD 0 0).toNat + 0x80) % 256 + 256 * (req.getD 1 0).toNat) ∧
  (∀ (req : List Byte) (i : Byte) (r : TripRec) (s : State), s.mboxTake 4 = some (req, none) ∧ s.again = [] ∧ req[2]? = some i ∧ s.pln.tripLog[i.toNat]? = some r →
    ∃ t, exec .mboxTripLog s = .next t ∧ t.pln.mbox = none
          ∧ t.pln.mboxRsp = [req.getD 0 0 + 0x80, req.getD 1 0, 0] ++ leBytes 24 (Config.tripRecord r.opSeconds r.cause r.what r.value)) ∧
  (∀ (req : List Byte) (i : Nat) (s : State), s.mboxTake 5 = some (req, none) ∧ s.again = [] ∧ s.retired = false ∧ 6 ≤ req.length ∧ i = leNat ((req.drop 2).take 4) ∧ i < 65536 →
    ∃ t, exec .mboxPatinaRead s = .next t ∧ t.pln.mbox = none
          ∧ t.pln.mboxRsp = [req.getD 0 0 + 0x80, req.getD 1 0, 0] ++ readBytes nvmDefault s.nvm (patinaBase + 32 * i) 32) ∧
  (∀ (req : List Byte) (a w : Byte) (s : State), s.mboxTake 6 = some (req, none) ∧ s.again = [] ∧ s.retired = false ∧ req[2]? = some a ∧ req[3]? = some w →
    ∃ t, exec .mboxSetWake s = .next t ∧ t.pln.mbox = none ∧ t.pln.mboxRsp = [req.getD 0 0 + 0x80, req.getD 1 0, 0]
          ∧ t.get PLN_CFG.AUTO_WAKE = (if a = 0 then 0 else 1) ∧ t.get PLN_CFG.WAKE_S = max 1 w.toNat) ∧
  (∀ (ok : Bool) (req : List Byte) (off : Nat) (s : State), s.mboxTake 2 = some (req, none) ∧ s.again = [] ∧ s.retired = false ∧ off = leNat ((req.drop 2).take 4) →
    6 < req.length ∧ req.length ≤ 246 ∧ off + (req.length - 6) ≤ 0x100000 ∧ s.plinthMay = true →
    ∃ t, exec (.mboxFwStage ok) s = .next t ∧ t.pln.mbox = none ∧ t.pln.mboxRsp = [req.getD 0 0 + 0x80, req.getD 1 0, 0]
          ∧ t.pln.staging = true
          ∧ (ok = true → readBytes nvmDefault t.nvm (fwBase (!s.pln.imageB) + off) (req.length - 6) = req.drop 6)
          ∧ ∀ a, a < fwBase (!s.pln.imageB) ∨ fwBase (!s.pln.imageB) + 0x100000 ≤ a → readByte nvmDefault t.nvm a = readByte nvmDefault s.nvm a) ∧
  (∀ (req : List Byte) (b : Bool) (r : State) (s : State), s.mboxTake 3 = some (req, none) ∧ s.again = [] ∧ s.retired = false ∧ s.plinthMay = true ∧ b = !s.pln.imageB ∧ r = { s with pln := { s.pln with staging := false } } →
    ∃ t, exec (.mboxFwCommit true) s = .next t ∧ t.pln.mbox = none ∧ (if r.fwOk b = true then
          t.pln.imageB = b ∧ t.pln.running = false ∧ t.pln.startT0 = s.up ∧ (t.pln.image b).seq = (s.pln.image s.pln.imageB).seq + 1
          ∧ readBytes nvmDefault t.nvm (fwBase b + 8) 4 = leBytes 4 ((s.pln.image s.pln.imageB).seq + 1)
          else t.pln.mboxRsp = [req.getD 0 0 + 0x80, req.getD 1 0, 4] ∧ t.pln.imageB = s.pln.imageB ∧ t.pln.running = s.pln.running
          ∧ t.nvm = s.nvm)) ∧
  (∀ (req : List Byte) (s : State), s.mboxTake 3 = some (req, none) ∧ s.again = [] ∧ s.retired = false ∧ s.plinthMay = true →
    ∃ t, exec (.mboxFwCommit false) s = .next t ∧ t.pln.mbox = none ∧ t.pln.mboxRsp = [req.getD 0 0 + 0x80, req.getD 1 0, 4]
          ∧ t.pln.imageB = s.pln.imageB ∧ t.pln.running = s.pln.running ∧ t.pln.staging = false) ∧
  (∀ (req : List Byte) (s : State), s.pln.mbox = some (req, none) ∧ s.mboxServes = true ∧ s.again = [] →
    req.getD 0 0 = 0 ∨ 7 ≤ (req.getD 0 0).toNat →
    ∃ t, exec .mboxInvalidOp s = .next t ∧ t.pln.mbox = none ∧ t.pln.mboxRsp = [req.getD 0 0 + 0x80, req.getD 1 0, 2]) ∧
  (∀ (b : Bool) (s : State), s.boot.aonOut = true ∧ s.pln.running = true ∧ s.pln.pick = some b →
    ∃ t, exec .plinthRestart s = .next t ∧ t.pln.running = false ∧ t.pln.imageB = b ∧ t.pln.startT0 = s.up) ∧
  (∀ (s : State), s.boot.aonOut = true ∧ s.pln.running = false ∧ s.pln.recovery = false ∧ s.pln.startT0 + 320000000 ≤ s.up →
    s.pln.triedOther = false ∧ (s.pln.image (!s.pln.imageB)).valid = true →
    ∃ t, exec .fwStartTimeout s = .next t ∧ t.pln.imageB = !s.pln.imageB ∧ t.pln.startT0 = s.up ∧ t.get PLN_FW.SWITCHED = 1) ∧
  (∀ (s : State), s.boot.aonOut = true ∧ s.pln.running = false ∧ s.pln.recovery = false ∧ s.pln.startT0 + 320000000 ≤ s.up →
    s.pln.triedOther = true ∨ (s.pln.image (!s.pln.imageB)).valid = false →
    ∃ t, exec .fwStartTimeout s = .next t ∧ t.pln.recovery = true ∧ t.pln.running = false) ∧
  (∀ (s : State), s.boot.aonOut = true ∧ s.pln.running = false ∧ s.pln.recovery = false ∧ s.up ≤ s.pln.startT0 + 320000000 ∧ s.pln.held = [] →
    ∃ t, exec .imageRunning s = .next t ∧ t.pln.running = true ∧ t.pln.raiseMin = none)

/-- SUPPLY_CHANGE puts the supply into the list of those in their windows, or out of it; without VDD_AON the state, the sessions and HBM are lost. SUPPLY_CHECK_PASS after 1 ms in the windows records the pass. AON_RST_RELEASE starts EPOCH_COARSE at 0, takes the SMBus address and starts Plinth's image. RESET_N_ASSERT stops the start sequence and loses sessions and HBM; RESET_N_RELEASE latches the pins, and with the supply check passed t1 comes at once, as it does when the check passes with RESET_N high. PERST_RELEASE lets the port's links train. -/
def Obligations.SuppliesAndResetsComplete : Prop :=
  (∀ (rail : Rail) (inWindow : Bool) (s : State), rail ≠ .aon ∨ inWindow = true →
    ∃ t, exec (.supplyChange rail inWindow) s = .next t ∧ t.boot.rails.contains rail = inWindow ∧ t.sess = s.sess ∧ t.hbm = s.hbm) ∧
  (∀ (s : State), ∃ t, exec (.supplyChange .aon false) s = .next t ∧ t.sess = [] ∧ t.hbm = [] ∧ t.epoch = 0 ∧ t.boot.released = false
          ∧ t.boot.aonOut = false) ∧
  (∀ (s : State), s.boot.aonOut = true ∧ s.pln.running = true ∧ s.railsIn = true ∧ s.boot.supplyT0 + 3200000 ≤ s.up →
    ∃ t, exec .supplyCheckPass s = .next t ∧ t.boot.supplyOk = true ∧ (s.boot.resetN = true → s.boot.released = false →
          s.pln.recovery = false → s.pln.st ≠ .deep → t.boot.released = true ∧ t.boot.t1 = s.up)) ∧
  (∀ (devid : BitVec 12) (b : Bool) (s : State), s.boot.aonOut = false ∧ s.boot.rails.contains .aon = true ∧ s.boot.rails.contains .xo = true ∧ s.pln.pick = some b →
    ∃ t, exec (.aonRstRelease devid) s = .next t ∧ t.boot.aonOut = true ∧ t.epoch = 0 ∧ t.boot.smbAddr = 0x60 + devid.toNat % 16
          ∧ t.pln.imageB = b ∧ t.pln.running = false) ∧
  (∀ (s : State), s.boot.resetN = true ∧ s.pln.held = [] →
    ∃ t, exec .resetNAssert s = .next t ∧ t.boot.resetN = false ∧ t.boot.released = false ∧ t.boot.done = [] ∧ t.sess = []
          ∧ t.hbm = []) ∧
  (∀ (devid : BitVec 12) (p0x4x4 p1x4x4 : Bool) (s : State), s.boot.resetN = false →
    ∃ t, exec (.resetNRelease devid p0x4x4 p1x4x4) s = .next t ∧ t.boot.resetN = true ∧ t.boot.devid = devid.toNat) ∧
  (∀ (devid : BitVec 12) (p0x4x4 p1x4x4 : Bool) (s : State), s.boot.resetN = false ∧ s.boot.supplyOk = true ∧ s.pln.running = true ∧ s.pln.recovery = false ∧ s.boot.released = false →
    s.pln.st ≠ .deep →
    ∃ t, exec (.resetNRelease devid p0x4x4 p1x4x4) s = .next t ∧ t.boot.released = true ∧ t.boot.t1 = s.up ∧ t.boot.done = []
          ∧ t.get DIRUM_ID.DEVID = devid.toNat ∧ t.get BOOT_STAT.PHASE = 0 ∧ t.get BOOT_STAT.READY = 0
          ∧ t.split 0 = p0x4x4 ∧ t.split 1 = p1x4x4) ∧
  (∀ (port : Fin 2) (s : State), ∃ t, exec (.perstRelease port) s = .next t ∧ t.boot.perst.contains port.val = true)

/-- A phase whose predecessors are complete completes when its command says so. Phase 0 sets PLL_LOCK; phase 1 takes the lifecycle state of the stored record, or with no valid copy runs as RETIRED with CONFIG_LOST set; phase 2 takes the repair records that NVM holds; phase 3 clears the device region of HBM but the Caliper workspace, or sets HBM_FAIL and does not complete; phase 4 completes, phase 5 with every array as it was loaded, and waits while the array of a cluster has still to be marched; phases 6 and 7 complete; phase 8 sets READY. -/
def Obligations.StartSequenceCompletes : Prop :=
  (∀ (s : State), s.phaseRuns 0 = true →
    ∃ t, exec .phasePllDone s = .next t ∧ t.boot.done = s.boot.done ++ [0] ∧ t.get TB_STAT.PLL_LOCK = 1) ∧
  (∀ (q n : Nat) (s : State), s.phaseRuns 1 = true ∧ s.sec.stored = some (q, n) ∧ n < 4 →
    ∃ t, exec .phaseConfigDone s = .next t ∧ t.boot.done = s.boot.done ++ [1] ∧ t.get SEC_STAT.LIFECYCLE = n
          ∧ t.get BOOT_STAT.CONFIG_LOST = 0) ∧
  (∀ (s : State), s.phaseRuns 1 = true ∧ s.sec.stored = none →
    ∃ t, exec .phaseConfigDone s = .next t ∧ t.boot.done = s.boot.done ++ [1] ∧ t.get SEC_STAT.LIFECYCLE = 3
          ∧ t.get BOOT_STAT.CONFIG_LOST = 1) ∧
  (∀ (s : State), s.phaseRuns 2 = true →
    ∃ t, exec .phaseRepairDone s = .next t ∧ t.boot.done = s.boot.done ++ [2] ∧ t.bist.recs0 = copyRead s.nvm 0
          ∧ t.bist.recs1 = copyRead s.nvm 1) ∧
  (∀ (s : State), s.phaseRuns 3 = true →
    ∃ t, exec (.phaseHbmDone true) s = .next t ∧ t.boot.done = s.boot.done ++ [3]
          ∧ (∀ a, (0x3E0000000 ≤ a ∧ a < 0x3E4000000) ∨ (0x3EC000000 ≤ a ∧ a < 0x400000000) → readByte hbmDefault t.hbm a = 0)
          ∧ ∀ a, a < 0x3E0000000 ∨ (0x3E4000000 ≤ a ∧ a < 0x3EC000000) → readByte hbmDefault t.hbm a = readByte hbmDefault s.hbm a) ∧
  (∀ (s : State), s.phaseRuns 3 = true →
    ∃ t, exec (.phaseHbmDone false) s = .next t ∧ t.boot.done = s.boot.done ∧ t.get BOOT_STAT.HBM_FAIL = 1 ∧ t.hbm = s.hbm) ∧
  (∀ (bad : List (Bool × Clu)) (s : State), s.phaseRuns 4 = true →
    ∃ t, exec (.phaseCalDone bad) s = .next t ∧ t.boot.done = s.boot.done ++ [4]) ∧
  (∀ (s : State), s.phaseRuns 5 = true ∧ ∀ k : Clu, s.awaitsMarch k = false →
    ∃ t, exec (.phaseCstoreDone []) s = .next t ∧ t.boot.done = s.boot.done ++ [5]) ∧
  (∀ (k : Clu) (s : State), s.phaseRuns 5 = true ∧ s.boot.csLoaded = [] ∧ s.awaitsMarch k = true →
    ∃ t, exec (.phaseCstoreDone []) s = .next t ∧ t.boot.done = s.boot.done) ∧
  (∀ (s : State), s.phaseRuns 6 = true →
    ∃ t, exec .phaseTreesDone s = .next t ∧ t.boot.done = s.boot.done ++ [6]) ∧
  (∀ (s : State), s.phaseRuns 7 = true →
    ∃ t, exec .phaseRampDone s = .next t ∧ t.boot.done = s.boot.done ++ [7]) ∧
  (∀ (s : State), s.phaseRuns 8 = true ∧ s.boot.done = [0, 1, 2, 3, 4, 5, 6, 7] →
    ∃ t, exec .phasePlaceDone s = .next t ∧ t.boot.done = [0, 1, 2, 3, 4, 5, 6, 7, 8] ∧ t.get BOOT_STAT.READY = 1
          ∧ t.get BOOT_STAT.PHASE = 9)
end

