-- ==== Sys2Proof/Laws/Tbl.lean ====
section
/-! SUPPORT. What lookups in sparse tables give after an update, and that updates keep the canonical form. -/

namespace Sys2Proof.Machine

variable {α : Type}

theorem tget_terase (d : Nat → α) (t : Tbl α) (k j : Nat) :
    tget d (terase t k) j = if j = k then d j else tget d t j := by
  induction t with
  | nil => simp [terase, tget]
  | cons x t ih =>
    obtain ⟨i, v⟩ := x
    by_cases h : i = k
    · subst h
      simp only [terase, if_true, ih, tget]
      by_cases h' : j = i
      · simp [h']
      · simp [h', Ne.symm h']
    · simp only [terase, if_neg h, tget, ih]
      by_cases h' : i = j
      · subst h'; simp [h]
      · simp [h']

theorem tget_tins (d : Nat → α) (t : Tbl α) (k j : Nat) (v : α) (h : ∀ x ∈ t, x.1 ≠ k) :
    tget d (tins t k v) j = if j = k then v else tget d t j := by
  induction t with
  | nil => simp [tins, tget, eq_comm]
  | cons x t ih =>
    obtain ⟨i, w⟩ := x
    have hi : i ≠ k := h (i, w) (by simp)
    have ih := ih fun y hy => h y (by simp [hy])
    unfold tins
    split
    · by_cases h' : j = k
      · subst h'; simp [tget]
      · simp [tget, h', Ne.symm h']
    · simp only [tget, ih]
      by_cases h' : i = j
      · subst h'; simp [hi]
      · simp [h']

theorem terase_ne (t : Tbl α) (k : Nat) : ∀ x ∈ terase t k, x.1 ≠ k := by
  induction t with
  | nil => simp [terase]
  | cons x t ih =>
    obtain ⟨i, w⟩ := x
    by_cases h : i = k
    · simpa [terase, h] using ih
    · intro y hy
      rw [terase, if_neg h] at hy
      rcases List.mem_cons.mp hy with rfl | hy
      · exact h
      · exact ih y hy

/-- A lookup after an update: the new value at the key, every other key as before. -/
theorem tget_tput [DecidableEq α] (d : Nat → α) (t : Tbl α) (k j : Nat) (v : α) :
    tget d (tput d t k v) j = if j = k then v else tget d t j := by
  unfold tput
  split
  · next h =>
    rw [tget_terase]
    split
    · next h' => rw [h, h']
    · rfl
  · rw [tget_tins _ _ _ _ _ (terase_ne t k), tget_terase]
    split <;> simp_all

@[simp] theorem tget_tput_same [DecidableEq α] (d : Nat → α) (t : Tbl α) (k : Nat) (v : α) :
    tget d (tput d t k v) k = v := by simp [tget_tput]

theorem tget_tput_ne [DecidableEq α] (d : Nat → α) (t : Tbl α) {k j : Nat} (v : α) (h : j ≠ k) :
    tget d (tput d t k v) j = tget d t j := by simp [tget_tput, h]

theorem twfFrom_mono [DecidableEq α] (d : Nat → α) {a b : Nat} (t : Tbl α) (h : b ≤ a) (w : twfFrom d a t = true) :
    twfFrom d b t = true := by
  cases t with
  | nil => rfl
  | cons x t =>
    simp only [twfFrom, Bool.and_eq_true, decide_eq_true_eq] at *
    exact ⟨⟨le_trans h w.1.1, w.1.2⟩, w.2⟩

theorem twfFrom_terase [DecidableEq α] (d : Nat → α) (t : Tbl α) (k : Nat) (a : Nat) (w : twfFrom d a t = true) :
    twfFrom d a (terase t k) = true := by
  induction t generalizing a with
  | nil => rfl
  | cons x t ih =>
    obtain ⟨i, v⟩ := x
    simp only [twfFrom, Bool.and_eq_true, decide_eq_true_eq] at w
    unfold terase
    split
    · exact twfFrom_mono d _ (by omega) (ih (i + 1) w.2)
    · simp only [twfFrom, Bool.and_eq_true, decide_eq_true_eq]
      exact ⟨w.1, ih (i + 1) w.2⟩

theorem twfFrom_tins [DecidableEq α] (d : Nat → α) (t : Tbl α) (k : Nat) (v : α) (a : Nat) (w : twfFrom d a t = true)
    (hk : a ≤ k) (hv : v ≠ d k) (hn : ∀ x ∈ t, x.1 ≠ k) : twfFrom d a (tins t k v) = true := by
  induction t generalizing a with
  | nil => simp [tins, twfFrom, hk, hv]
  | cons x t ih =>
    obtain ⟨i, u⟩ := x
    have hi : i ≠ k := hn (i, u) (by simp)
    simp only [twfFrom, Bool.and_eq_true, decide_eq_true_eq] at w
    unfold tins
    split
    · next h =>
      simp only [twfFrom, Bool.and_eq_true, decide_eq_true_eq]
      exact ⟨⟨hk, hv⟩, ⟨by omega, w.1.2⟩, w.2⟩
    · next h =>
      simp only [twfFrom, Bool.and_eq_true, decide_eq_true_eq]
      exact ⟨w.1, ih (i + 1) w.2 (by omega) fun y hy => hn y (by simp [hy])⟩

/-- An update keeps the canonical form. -/
theorem twf_tput [DecidableEq α] (d : Nat → α) (t : Tbl α) (k : Nat) (v : α) (w : twf d t = true) :
    twf d (tput d t k v) = true := by
  unfold twf tput at *
  split
  · exact twfFrom_terase d t k 0 w
  · next h => exact twfFrom_tins d _ k v 0 (twfFrom_terase d t k 0 w) (Nat.zero_le _) h (terase_ne t k)

theorem twfFrom_filter [DecidableEq α] (d : Nat → α) (p : Nat × α → Bool) (t : Tbl α) (a : Nat)
    (w : twfFrom d a t = true) : twfFrom d a (t.filter p) = true := by
  induction t generalizing a with
  | nil => rfl
  | cons x t ih =>
    obtain ⟨i, v⟩ := x
    simp only [twfFrom, Bool.and_eq_true, decide_eq_true_eq] at w
    by_cases h : p (i, v) = true
    · simp only [List.filter_cons, h, if_true, twfFrom, Bool.and_eq_true, decide_eq_true_eq]
      exact ⟨w.1, ih (i + 1) w.2⟩
    · simp only [List.filter_cons, h]
      exact twfFrom_mono d _ (by omega) (ih (i + 1) w.2)

/-- Entries taken out keep the canonical form. -/
theorem twf_filter [DecidableEq α] (d : Nat → α) (p : Nat × α → Bool) (t : Tbl α) (w : twf d t = true) :
    twf d (t.filter p) = true := twfFrom_filter d p t 0 w

end Sys2Proof.Machine
end

