-- ==== Sys2Proof/Laws/State.lean ====
section
/-! SUPPORT. One lemma per part of the state and per update: what an update leaves, and what a read finds after it.
No proof needs to unfold a record update. -/

namespace Sys2Proof.Machine

variable (d : Dev)


/-! ### setReg -/

@[simp] theorem Dev.setReg_epoch (k : Nat) (v : Word) : (d.setReg k v).epoch = d.epoch := rfl
@[simp] theorem Dev.setReg_up (k : Nat) (v : Word) : (d.setReg k v).up = d.up := rfl
@[simp] theorem Dev.setReg_free (k : Nat) (v : Word) : (d.setReg k v).free = d.free := rfl
@[simp] theorem Dev.setReg_options (k : Nat) (v : Word) : (d.setReg k v).options = d.options := rfl
@[simp] theorem Dev.setReg_hold (k : Nat) (v : Word) : (d.setReg k v).hold = d.hold := rfl
@[simp] theorem Dev.setReg_capt (k : Nat) (v : Word) : (d.setReg k v).capt = d.capt := rfl
@[simp] theorem Dev.setReg_fresh (k : Nat) (v : Word) : (d.setReg k v).fresh = d.fresh := rfl
@[simp] theorem Dev.setReg_pageReset (k : Nat) (v : Word) : (d.setReg k v).pageReset = d.pageReset := rfl
@[simp] theorem Dev.setReg_ports (k : Nat) (v : Word) : (d.setReg k v).ports = d.ports := rfl
@[simp] theorem Dev.setReg_again (k : Nat) (v : Word) : (d.setReg k v).again = d.again := rfl
@[simp] theorem Dev.setReg_tb (k : Nat) (v : Word) : (d.setReg k v).tb = d.tb := rfl
@[simp] theorem Dev.setReg_dirum (k : Nat) (v : Word) : (d.setReg k v).dirum = d.dirum := rfl
@[simp] theorem Dev.setReg_lgs (k : Nat) (v : Word) : (d.setReg k v).lgs = d.lgs := rfl
@[simp] theorem Dev.setReg_lanes (k : Nat) (v : Word) : (d.setReg k v).lanes = d.lanes := rfl
@[simp] theorem Dev.setReg_phys (k : Nat) (v : Word) : (d.setReg k v).phys = d.phys := rfl
@[simp] theorem Dev.setReg_tmus (k : Nat) (v : Word) : (d.setReg k v).tmus = d.tmus := rfl
@[simp] theorem Dev.setReg_freqs (k : Nat) (v : Word) : (d.setReg k v).freqs = d.freqs := rfl
@[simp] theorem Dev.setReg_fins (k : Nat) (v : Word) : (d.setReg k v).fins = d.fins := rfl
@[simp] theorem Dev.setReg_clusters (k : Nat) (v : Word) : (d.setReg k v).clusters = d.clusters := rfl
@[simp] theorem Dev.setReg_lines (k : Nat) (v : Word) : (d.setReg k v).lines = d.lines := rfl
@[simp] theorem Dev.setReg_gmx (k : Nat) (v : Word) : (d.setReg k v).gmx = d.gmx := rfl
@[simp] theorem Dev.setReg_gStage (k : Nat) (v : Word) : (d.setReg k v).gStage = d.gStage := rfl
@[simp] theorem Dev.setReg_fade (k : Nat) (v : Word) : (d.setReg k v).fade = d.fade := rfl
@[simp] theorem Dev.setReg_loopQ (k : Nat) (v : Word) : (d.setReg k v).loopQ = d.loopQ := rfl
@[simp] theorem Dev.setReg_stalled (k : Nat) (v : Word) : (d.setReg k v).stalled = d.stalled := rfl
@[simp] theorem Dev.setReg_cal (k : Nat) (v : Word) : (d.setReg k v).cal = d.cal := rfl
@[simp] theorem Dev.setReg_pe (k : Nat) (v : Word) : (d.setReg k v).pe = d.pe := rfl
@[simp] theorem Dev.setReg_sched (k : Nat) (v : Word) : (d.setReg k v).sched = d.sched := rfl
@[simp] theorem Dev.setReg_bist (k : Nat) (v : Word) : (d.setReg k v).bist = d.bist := rfl
@[simp] theorem Dev.setReg_flt (k : Nat) (v : Word) : (d.setReg k v).flt = d.flt := rfl
@[simp] theorem Dev.setReg_sess (k : Nat) (v : Word) : (d.setReg k v).sess = d.sess := rfl
@[simp] theorem Dev.setReg_links (k : Nat) (v : Word) : (d.setReg k v).links = d.links := rfl
@[simp] theorem Dev.setReg_rings (k : Nat) (v : Word) : (d.setReg k v).rings = d.rings := rfl
@[simp] theorem Dev.setReg_nvmQ (k : Nat) (v : Word) : (d.setReg k v).nvmQ = d.nvmQ := rfl
@[simp] theorem Dev.setReg_nvmCur (k : Nat) (v : Word) : (d.setReg k v).nvmCur = d.nvmCur := rfl
@[simp] theorem Dev.setReg_sec (k : Nat) (v : Word) : (d.setReg k v).sec = d.sec := rfl
@[simp] theorem Dev.setReg_pln (k : Nat) (v : Word) : (d.setReg k v).pln = d.pln := rfl
@[simp] theorem Dev.setReg_boot (k : Nat) (v : Word) : (d.setReg k v).boot = d.boot := rfl
@[simp] theorem Dev.setReg_poison (k : Nat) (v : Word) : (d.setReg k v).poison = d.poison := rfl
@[simp] theorem Dev.setReg_out (k : Nat) (v : Word) : (d.setReg k v).out = d.out := rfl
@[simp] theorem Dev.setReg_dbg (k : Nat) (v : Word) : (d.setReg k v).dbg = d.dbg := rfl
@[simp] theorem Dev.setReg_reply (k : Nat) (v : Word) : (d.setReg k v).reply = d.reply := rfl
@[simp] theorem Dev.setReg_replyEp (k : Nat) (v : Word) : (d.setReg k v).replyEp = d.replyEp := rfl
@[simp] theorem Dev.setReg_smb (k : Nat) (v : Word) : (d.setReg k v).smb = d.smb := rfl
@[simp] theorem Dev.setReg_tdo (k : Nat) (v : Word) : (d.setReg k v).tdo = d.tdo := rfl
@[simp] theorem Dev.setReg_undo (k : Nat) (v : Word) : (d.setReg k v).undo = d.undo := rfl
@[simp] theorem Dev.setReg_serves (k : Nat) (v : Word) : (d.setReg k v).serves = d.serves := rfl
@[simp] theorem Dev.setReg_lane (k : Nat) (v : Word) (j : Nat) : (d.setReg k v).lane j = d.lane j := rfl
@[simp] theorem Dev.setReg_cl (k : Nat) (v : Word) (j : Nat) : (d.setReg k v).cl j = d.cl j := rfl
@[simp] theorem Dev.setReg_ph (k : Nat) (v : Word) (i j : Nat) : (d.setReg k v).ph i j = d.ph i j := rfl
@[simp] theorem Dev.setReg_tmu (k : Nat) (v : Word) (i j : Nat) : (d.setReg k v).tmu i j = d.tmu i j := rfl
@[simp] theorem Dev.setReg_fq (k : Nat) (v : Word) (j : Nat) : (d.setReg k v).fq j = d.fq j := rfl
@[simp] theorem Dev.setReg_lg (k : Nat) (v : Word) (j : Nat) : (d.setReg k v).lg j = d.lg j := rfl
@[simp] theorem Dev.setReg_line (k : Nat) (v : Word) (j : Nat) : (d.setReg k v).line j = d.line j := rfl
@[simp] theorem Dev.setReg_sn (k : Nat) (v : Word) (j : Nat) : (d.setReg k v).sn j = d.sn j := rfl
@[simp] theorem Dev.setReg_ring (k : Nat) (v : Word) (j : Nat) : (d.setReg k v).ring j = d.ring j := rfl
@[simp] theorem Dev.setReg_source (k : Nat) (v : Word) (j : Nat) : (d.setReg k v).source j = d.source j := rfl

/-! ### stick -/

@[simp] theorem Dev.stick_epoch (f : Fld) : (d.stick f).epoch = d.epoch := rfl
@[simp] theorem Dev.stick_up (f : Fld) : (d.stick f).up = d.up := rfl
@[simp] theorem Dev.stick_free (f : Fld) : (d.stick f).free = d.free := rfl
@[simp] theorem Dev.stick_options (f : Fld) : (d.stick f).options = d.options := rfl
@[simp] theorem Dev.stick_hold (f : Fld) : (d.stick f).hold = d.hold := rfl
@[simp] theorem Dev.stick_capt (f : Fld) : (d.stick f).capt = d.capt := rfl
@[simp] theorem Dev.stick_pageReset (f : Fld) : (d.stick f).pageReset = d.pageReset := rfl
@[simp] theorem Dev.stick_ports (f : Fld) : (d.stick f).ports = d.ports := rfl
@[simp] theorem Dev.stick_again (f : Fld) : (d.stick f).again = d.again := rfl
@[simp] theorem Dev.stick_tb (f : Fld) : (d.stick f).tb = d.tb := rfl
@[simp] theorem Dev.stick_dirum (f : Fld) : (d.stick f).dirum = d.dirum := rfl
@[simp] theorem Dev.stick_lgs (f : Fld) : (d.stick f).lgs = d.lgs := rfl
@[simp] theorem Dev.stick_lanes (f : Fld) : (d.stick f).lanes = d.lanes := rfl
@[simp] theorem Dev.stick_phys (f : Fld) : (d.stick f).phys = d.phys := rfl
@[simp] theorem Dev.stick_tmus (f : Fld) : (d.stick f).tmus = d.tmus := rfl
@[simp] theorem Dev.stick_freqs (f : Fld) : (d.stick f).freqs = d.freqs := rfl
@[simp] theorem Dev.stick_fins (f : Fld) : (d.stick f).fins = d.fins := rfl
@[simp] theorem Dev.stick_clusters (f : Fld) : (d.stick f).clusters = d.clusters := rfl
@[simp] theorem Dev.stick_lines (f : Fld) : (d.stick f).lines = d.lines := rfl
@[simp] theorem Dev.stick_gmx (f : Fld) : (d.stick f).gmx = d.gmx := rfl
@[simp] theorem Dev.stick_gStage (f : Fld) : (d.stick f).gStage = d.gStage := rfl
@[simp] theorem Dev.stick_fade (f : Fld) : (d.stick f).fade = d.fade := rfl
@[simp] theorem Dev.stick_loopQ (f : Fld) : (d.stick f).loopQ = d.loopQ := rfl
@[simp] theorem Dev.stick_stalled (f : Fld) : (d.stick f).stalled = d.stalled := rfl
@[simp] theorem Dev.stick_cal (f : Fld) : (d.stick f).cal = d.cal := rfl
@[simp] theorem Dev.stick_pe (f : Fld) : (d.stick f).pe = d.pe := rfl
@[simp] theorem Dev.stick_sched (f : Fld) : (d.stick f).sched = d.sched := rfl
@[simp] theorem Dev.stick_bist (f : Fld) : (d.stick f).bist = d.bist := rfl
@[simp] theorem Dev.stick_flt (f : Fld) : (d.stick f).flt = d.flt := rfl
@[simp] theorem Dev.stick_sess (f : Fld) : (d.stick f).sess = d.sess := rfl
@[simp] theorem Dev.stick_links (f : Fld) : (d.stick f).links = d.links := rfl
@[simp] theorem Dev.stick_rings (f : Fld) : (d.stick f).rings = d.rings := rfl
@[simp] theorem Dev.stick_nvmQ (f : Fld) : (d.stick f).nvmQ = d.nvmQ := rfl
@[simp] theorem Dev.stick_nvmCur (f : Fld) : (d.stick f).nvmCur = d.nvmCur := rfl
@[simp] theorem Dev.stick_sec (f : Fld) : (d.stick f).sec = d.sec := rfl
@[simp] theorem Dev.stick_pln (f : Fld) : (d.stick f).pln = d.pln := rfl
@[simp] theorem Dev.stick_boot (f : Fld) : (d.stick f).boot = d.boot := rfl
@[simp] theorem Dev.stick_poison (f : Fld) : (d.stick f).poison = d.poison := rfl
@[simp] theorem Dev.stick_out (f : Fld) : (d.stick f).out = d.out := rfl
@[simp] theorem Dev.stick_dbg (f : Fld) : (d.stick f).dbg = d.dbg := rfl
@[simp] theorem Dev.stick_reply (f : Fld) : (d.stick f).reply = d.reply := rfl
@[simp] theorem Dev.stick_replyEp (f : Fld) : (d.stick f).replyEp = d.replyEp := rfl
@[simp] theorem Dev.stick_smb (f : Fld) : (d.stick f).smb = d.smb := rfl
@[simp] theorem Dev.stick_tdo (f : Fld) : (d.stick f).tdo = d.tdo := rfl
@[simp] theorem Dev.stick_undo (f : Fld) : (d.stick f).undo = d.undo := rfl
@[simp] theorem Dev.stick_serves (f : Fld) : (d.stick f).serves = d.serves := rfl
@[simp] theorem Dev.stick_lane (f : Fld) (j : Nat) : (d.stick f).lane j = d.lane j := rfl
@[simp] theorem Dev.stick_cl (f : Fld) (j : Nat) : (d.stick f).cl j = d.cl j := rfl
@[simp] theorem Dev.stick_ph (f : Fld) (i j : Nat) : (d.stick f).ph i j = d.ph i j := rfl
@[simp] theorem Dev.stick_tmu (f : Fld) (i j : Nat) : (d.stick f).tmu i j = d.tmu i j := rfl
@[simp] theorem Dev.stick_fq (f : Fld) (j : Nat) : (d.stick f).fq j = d.fq j := rfl
@[simp] theorem Dev.stick_lg (f : Fld) (j : Nat) : (d.stick f).lg j = d.lg j := rfl
@[simp] theorem Dev.stick_line (f : Fld) (j : Nat) : (d.stick f).line j = d.line j := rfl
@[simp] theorem Dev.stick_sn (f : Fld) (j : Nat) : (d.stick f).sn j = d.sn j := rfl
@[simp] theorem Dev.stick_ring (f : Fld) (j : Nat) : (d.stick f).ring j = d.ring j := rfl
@[simp] theorem Dev.stick_source (f : Fld) (j : Nat) : (d.stick f).source j = d.source j := rfl

/-! ### setLane -/

@[simp] theorem Dev.setLane_epoch (k : Nat) (x : Lane) : (d.setLane k x).epoch = d.epoch := rfl
@[simp] theorem Dev.setLane_up (k : Nat) (x : Lane) : (d.setLane k x).up = d.up := rfl
@[simp] theorem Dev.setLane_free (k : Nat) (x : Lane) : (d.setLane k x).free = d.free := rfl
@[simp] theorem Dev.setLane_options (k : Nat) (x : Lane) : (d.setLane k x).options = d.options := rfl
@[simp] theorem Dev.setLane_regs (k : Nat) (x : Lane) : (d.setLane k x).regs = d.regs := rfl
@[simp] theorem Dev.setLane_hold (k : Nat) (x : Lane) : (d.setLane k x).hold = d.hold := rfl
@[simp] theorem Dev.setLane_capt (k : Nat) (x : Lane) : (d.setLane k x).capt = d.capt := rfl
@[simp] theorem Dev.setLane_fresh (k : Nat) (x : Lane) : (d.setLane k x).fresh = d.fresh := rfl
@[simp] theorem Dev.setLane_pageReset (k : Nat) (x : Lane) : (d.setLane k x).pageReset = d.pageReset := rfl
@[simp] theorem Dev.setLane_ports (k : Nat) (x : Lane) : (d.setLane k x).ports = d.ports := rfl
@[simp] theorem Dev.setLane_again (k : Nat) (x : Lane) : (d.setLane k x).again = d.again := rfl
@[simp] theorem Dev.setLane_tb (k : Nat) (x : Lane) : (d.setLane k x).tb = d.tb := rfl
@[simp] theorem Dev.setLane_dirum (k : Nat) (x : Lane) : (d.setLane k x).dirum = d.dirum := rfl
@[simp] theorem Dev.setLane_lgs (k : Nat) (x : Lane) : (d.setLane k x).lgs = d.lgs := rfl
@[simp] theorem Dev.setLane_phys (k : Nat) (x : Lane) : (d.setLane k x).phys = d.phys := rfl
@[simp] theorem Dev.setLane_tmus (k : Nat) (x : Lane) : (d.setLane k x).tmus = d.tmus := rfl
@[simp] theorem Dev.setLane_freqs (k : Nat) (x : Lane) : (d.setLane k x).freqs = d.freqs := rfl
@[simp] theorem Dev.setLane_fins (k : Nat) (x : Lane) : (d.setLane k x).fins = d.fins := rfl
@[simp] theorem Dev.setLane_clusters (k : Nat) (x : Lane) : (d.setLane k x).clusters = d.clusters := rfl
@[simp] theorem Dev.setLane_lines (k : Nat) (x : Lane) : (d.setLane k x).lines = d.lines := rfl
@[simp] theorem Dev.setLane_gmx (k : Nat) (x : Lane) : (d.setLane k x).gmx = d.gmx := rfl
@[simp] theorem Dev.setLane_gStage (k : Nat) (x : Lane) : (d.setLane k x).gStage = d.gStage := rfl
@[simp] theorem Dev.setLane_fade (k : Nat) (x : Lane) : (d.setLane k x).fade = d.fade := rfl
@[simp] theorem Dev.setLane_loopQ (k : Nat) (x : Lane) : (d.setLane k x).loopQ = d.loopQ := rfl
@[simp] theorem Dev.setLane_stalled (k : Nat) (x : Lane) : (d.setLane k x).stalled = d.stalled := rfl
@[simp] theorem Dev.setLane_cal (k : Nat) (x : Lane) : (d.setLane k x).cal = d.cal := rfl
@[simp] theorem Dev.setLane_pe (k : Nat) (x : Lane) : (d.setLane k x).pe = d.pe := rfl
@[simp] theorem Dev.setLane_sched (k : Nat) (x : Lane) : (d.setLane k x).sched = d.sched := rfl
@[simp] theorem Dev.setLane_bist (k : Nat) (x : Lane) : (d.setLane k x).bist = d.bist := rfl
@[simp] theorem Dev.setLane_flt (k : Nat) (x : Lane) : (d.setLane k x).flt = d.flt := rfl
@[simp] theorem Dev.setLane_sess (k : Nat) (x : Lane) : (d.setLane k x).sess = d.sess := rfl
@[simp] theorem Dev.setLane_links (k : Nat) (x : Lane) : (d.setLane k x).links = d.links := rfl
@[simp] theorem Dev.setLane_rings (k : Nat) (x : Lane) : (d.setLane k x).rings = d.rings := rfl
@[simp] theorem Dev.setLane_nvmQ (k : Nat) (x : Lane) : (d.setLane k x).nvmQ = d.nvmQ := rfl
@[simp] theorem Dev.setLane_nvmCur (k : Nat) (x : Lane) : (d.setLane k x).nvmCur = d.nvmCur := rfl
@[simp] theorem Dev.setLane_sec (k : Nat) (x : Lane) : (d.setLane k x).sec = d.sec := rfl
@[simp] theorem Dev.setLane_pln (k : Nat) (x : Lane) : (d.setLane k x).pln = d.pln := rfl
@[simp] theorem Dev.setLane_boot (k : Nat) (x : Lane) : (d.setLane k x).boot = d.boot := rfl
@[simp] theorem Dev.setLane_poison (k : Nat) (x : Lane) : (d.setLane k x).poison = d.poison := rfl
@[simp] theorem Dev.setLane_out (k : Nat) (x : Lane) : (d.setLane k x).out = d.out := rfl
@[simp] theorem Dev.setLane_dbg (k : Nat) (x : Lane) : (d.setLane k x).dbg = d.dbg := rfl
@[simp] theorem Dev.setLane_reply (k : Nat) (x : Lane) : (d.setLane k x).reply = d.reply := rfl
@[simp] theorem Dev.setLane_replyEp (k : Nat) (x : Lane) : (d.setLane k x).replyEp = d.replyEp := rfl
@[simp] theorem Dev.setLane_smb (k : Nat) (x : Lane) : (d.setLane k x).smb = d.smb := rfl
@[simp] theorem Dev.setLane_tdo (k : Nat) (x : Lane) : (d.setLane k x).tdo = d.tdo := rfl
@[simp] theorem Dev.setLane_undo (k : Nat) (x : Lane) : (d.setLane k x).undo = d.undo := rfl
@[simp] theorem Dev.setLane_serves (k : Nat) (x : Lane) : (d.setLane k x).serves = d.serves := rfl
@[simp] theorem Dev.setLane_reg (k : Nat) (x : Lane) (j : Nat) : (d.setLane k x).reg j = d.reg j := rfl
@[simp] theorem Dev.setLane_cl (k : Nat) (x : Lane) (j : Nat) : (d.setLane k x).cl j = d.cl j := rfl
@[simp] theorem Dev.setLane_ph (k : Nat) (x : Lane) (i j : Nat) : (d.setLane k x).ph i j = d.ph i j := rfl
@[simp] theorem Dev.setLane_tmu (k : Nat) (x : Lane) (i j : Nat) : (d.setLane k x).tmu i j = d.tmu i j := rfl
@[simp] theorem Dev.setLane_fq (k : Nat) (x : Lane) (j : Nat) : (d.setLane k x).fq j = d.fq j := rfl
@[simp] theorem Dev.setLane_lg (k : Nat) (x : Lane) (j : Nat) : (d.setLane k x).lg j = d.lg j := rfl
@[simp] theorem Dev.setLane_line (k : Nat) (x : Lane) (j : Nat) : (d.setLane k x).line j = d.line j := rfl
@[simp] theorem Dev.setLane_sn (k : Nat) (x : Lane) (j : Nat) : (d.setLane k x).sn j = d.sn j := rfl
@[simp] theorem Dev.setLane_ring (k : Nat) (x : Lane) (j : Nat) : (d.setLane k x).ring j = d.ring j := rfl
@[simp] theorem Dev.setLane_source (k : Nat) (x : Lane) (j : Nat) : (d.setLane k x).source j = d.source j := rfl

/-! ### modLane -/

@[simp] theorem Dev.modLane_epoch (k : Nat) (x : Lane → Lane) : (d.modLane k x).epoch = d.epoch := rfl
@[simp] theorem Dev.modLane_up (k : Nat) (x : Lane → Lane) : (d.modLane k x).up = d.up := rfl
@[simp] theorem Dev.modLane_free (k : Nat) (x : Lane → Lane) : (d.modLane k x).free = d.free := rfl
@[simp] theorem Dev.modLane_options (k : Nat) (x : Lane → Lane) : (d.modLane k x).options = d.options := rfl
@[simp] theorem Dev.modLane_regs (k : Nat) (x : Lane → Lane) : (d.modLane k x).regs = d.regs := rfl
@[simp] theorem Dev.modLane_hold (k : Nat) (x : Lane → Lane) : (d.modLane k x).hold = d.hold := rfl
@[simp] theorem Dev.modLane_capt (k : Nat) (x : Lane → Lane) : (d.modLane k x).capt = d.capt := rfl
@[simp] theorem Dev.modLane_fresh (k : Nat) (x : Lane → Lane) : (d.modLane k x).fresh = d.fresh := rfl
@[simp] theorem Dev.modLane_pageReset (k : Nat) (x : Lane → Lane) : (d.modLane k x).pageReset = d.pageReset := rfl
@[simp] theorem Dev.modLane_ports (k : Nat) (x : Lane → Lane) : (d.modLane k x).ports = d.ports := rfl
@[simp] theorem Dev.modLane_again (k : Nat) (x : Lane → Lane) : (d.modLane k x).again = d.again := rfl
@[simp] theorem Dev.modLane_tb (k : Nat) (x : Lane → Lane) : (d.modLane k x).tb = d.tb := rfl
@[simp] theorem Dev.modLane_dirum (k : Nat) (x : Lane → Lane) : (d.modLane k x).dirum = d.dirum := rfl
@[simp] theorem Dev.modLane_lgs (k : Nat) (x : Lane → Lane) : (d.modLane k x).lgs = d.lgs := rfl
@[simp] theorem Dev.modLane_phys (k : Nat) (x : Lane → Lane) : (d.modLane k x).phys = d.phys := rfl
@[simp] theorem Dev.modLane_tmus (k : Nat) (x : Lane → Lane) : (d.modLane k x).tmus = d.tmus := rfl
@[simp] theorem Dev.modLane_freqs (k : Nat) (x : Lane → Lane) : (d.modLane k x).freqs = d.freqs := rfl
@[simp] theorem Dev.modLane_fins (k : Nat) (x : Lane → Lane) : (d.modLane k x).fins = d.fins := rfl
@[simp] theorem Dev.modLane_clusters (k : Nat) (x : Lane → Lane) : (d.modLane k x).clusters = d.clusters := rfl
@[simp] theorem Dev.modLane_lines (k : Nat) (x : Lane → Lane) : (d.modLane k x).lines = d.lines := rfl
@[simp] theorem Dev.modLane_gmx (k : Nat) (x : Lane → Lane) : (d.modLane k x).gmx = d.gmx := rfl
@[simp] theorem Dev.modLane_gStage (k : Nat) (x : Lane → Lane) : (d.modLane k x).gStage = d.gStage := rfl
@[simp] theorem Dev.modLane_fade (k : Nat) (x : Lane → Lane) : (d.modLane k x).fade = d.fade := rfl
@[simp] theorem Dev.modLane_loopQ (k : Nat) (x : Lane → Lane) : (d.modLane k x).loopQ = d.loopQ := rfl
@[simp] theorem Dev.modLane_stalled (k : Nat) (x : Lane → Lane) : (d.modLane k x).stalled = d.stalled := rfl
@[simp] theorem Dev.modLane_cal (k : Nat) (x : Lane → Lane) : (d.modLane k x).cal = d.cal := rfl
@[simp] theorem Dev.modLane_pe (k : Nat) (x : Lane → Lane) : (d.modLane k x).pe = d.pe := rfl
@[simp] theorem Dev.modLane_sched (k : Nat) (x : Lane → Lane) : (d.modLane k x).sched = d.sched := rfl
@[simp] theorem Dev.modLane_bist (k : Nat) (x : Lane → Lane) : (d.modLane k x).bist = d.bist := rfl
@[simp] theorem Dev.modLane_flt (k : Nat) (x : Lane → Lane) : (d.modLane k x).flt = d.flt := rfl
@[simp] theorem Dev.modLane_sess (k : Nat) (x : Lane → Lane) : (d.modLane k x).sess = d.sess := rfl
@[simp] theorem Dev.modLane_links (k : Nat) (x : Lane → Lane) : (d.modLane k x).links = d.links := rfl
@[simp] theorem Dev.modLane_rings (k : Nat) (x : Lane → Lane) : (d.modLane k x).rings = d.rings := rfl
@[simp] theorem Dev.modLane_nvmQ (k : Nat) (x : Lane → Lane) : (d.modLane k x).nvmQ = d.nvmQ := rfl
@[simp] theorem Dev.modLane_nvmCur (k : Nat) (x : Lane → Lane) : (d.modLane k x).nvmCur = d.nvmCur := rfl
@[simp] theorem Dev.modLane_sec (k : Nat) (x : Lane → Lane) : (d.modLane k x).sec = d.sec := rfl
@[simp] theorem Dev.modLane_pln (k : Nat) (x : Lane → Lane) : (d.modLane k x).pln = d.pln := rfl
@[simp] theorem Dev.modLane_boot (k : Nat) (x : Lane → Lane) : (d.modLane k x).boot = d.boot := rfl
@[simp] theorem Dev.modLane_poison (k : Nat) (x : Lane → Lane) : (d.modLane k x).poison = d.poison := rfl
@[simp] theorem Dev.modLane_out (k : Nat) (x : Lane → Lane) : (d.modLane k x).out = d.out := rfl
@[simp] theorem Dev.modLane_dbg (k : Nat) (x : Lane → Lane) : (d.modLane k x).dbg = d.dbg := rfl
@[simp] theorem Dev.modLane_reply (k : Nat) (x : Lane → Lane) : (d.modLane k x).reply = d.reply := rfl
@[simp] theorem Dev.modLane_replyEp (k : Nat) (x : Lane → Lane) : (d.modLane k x).replyEp = d.replyEp := rfl
@[simp] theorem Dev.modLane_smb (k : Nat) (x : Lane → Lane) : (d.modLane k x).smb = d.smb := rfl
@[simp] theorem Dev.modLane_tdo (k : Nat) (x : Lane → Lane) : (d.modLane k x).tdo = d.tdo := rfl
@[simp] theorem Dev.modLane_undo (k : Nat) (x : Lane → Lane) : (d.modLane k x).undo = d.undo := rfl
@[simp] theorem Dev.modLane_serves (k : Nat) (x : Lane → Lane) : (d.modLane k x).serves = d.serves := rfl
@[simp] theorem Dev.modLane_reg (k : Nat) (x : Lane → Lane) (j : Nat) : (d.modLane k x).reg j = d.reg j := rfl
@[simp] theorem Dev.modLane_cl (k : Nat) (x : Lane → Lane) (j : Nat) : (d.modLane k x).cl j = d.cl j := rfl
@[simp] theorem Dev.modLane_ph (k : Nat) (x : Lane → Lane) (i j : Nat) : (d.modLane k x).ph i j = d.ph i j := rfl
@[simp] theorem Dev.modLane_tmu (k : Nat) (x : Lane → Lane) (i j : Nat) : (d.modLane k x).tmu i j = d.tmu i j := rfl
@[simp] theorem Dev.modLane_fq (k : Nat) (x : Lane → Lane) (j : Nat) : (d.modLane k x).fq j = d.fq j := rfl
@[simp] theorem Dev.modLane_lg (k : Nat) (x : Lane → Lane) (j : Nat) : (d.modLane k x).lg j = d.lg j := rfl
@[simp] theorem Dev.modLane_line (k : Nat) (x : Lane → Lane) (j : Nat) : (d.modLane k x).line j = d.line j := rfl
@[simp] theorem Dev.modLane_sn (k : Nat) (x : Lane → Lane) (j : Nat) : (d.modLane k x).sn j = d.sn j := rfl
@[simp] theorem Dev.modLane_ring (k : Nat) (x : Lane → Lane) (j : Nat) : (d.modLane k x).ring j = d.ring j := rfl
@[simp] theorem Dev.modLane_source (k : Nat) (x : Lane → Lane) (j : Nat) : (d.modLane k x).source j = d.source j := rfl

/-! ### setCl -/

@[simp] theorem Dev.setCl_epoch (k : Nat) (x : Cluster) : (d.setCl k x).epoch = d.epoch := rfl
@[simp] theorem Dev.setCl_up (k : Nat) (x : Cluster) : (d.setCl k x).up = d.up := rfl
@[simp] theorem Dev.setCl_free (k : Nat) (x : Cluster) : (d.setCl k x).free = d.free := rfl
@[simp] theorem Dev.setCl_options (k : Nat) (x : Cluster) : (d.setCl k x).options = d.options := rfl
@[simp] theorem Dev.setCl_regs (k : Nat) (x : Cluster) : (d.setCl k x).regs = d.regs := rfl
@[simp] theorem Dev.setCl_hold (k : Nat) (x : Cluster) : (d.setCl k x).hold = d.hold := rfl
@[simp] theorem Dev.setCl_capt (k : Nat) (x : Cluster) : (d.setCl k x).capt = d.capt := rfl
@[simp] theorem Dev.setCl_fresh (k : Nat) (x : Cluster) : (d.setCl k x).fresh = d.fresh := rfl
@[simp] theorem Dev.setCl_pageReset (k : Nat) (x : Cluster) : (d.setCl k x).pageReset = d.pageReset := rfl
@[simp] theorem Dev.setCl_ports (k : Nat) (x : Cluster) : (d.setCl k x).ports = d.ports := rfl
@[simp] theorem Dev.setCl_again (k : Nat) (x : Cluster) : (d.setCl k x).again = d.again := rfl
@[simp] theorem Dev.setCl_tb (k : Nat) (x : Cluster) : (d.setCl k x).tb = d.tb := rfl
@[simp] theorem Dev.setCl_dirum (k : Nat) (x : Cluster) : (d.setCl k x).dirum = d.dirum := rfl
@[simp] theorem Dev.setCl_lgs (k : Nat) (x : Cluster) : (d.setCl k x).lgs = d.lgs := rfl
@[simp] theorem Dev.setCl_lanes (k : Nat) (x : Cluster) : (d.setCl k x).lanes = d.lanes := rfl
@[simp] theorem Dev.setCl_phys (k : Nat) (x : Cluster) : (d.setCl k x).phys = d.phys := rfl
@[simp] theorem Dev.setCl_tmus (k : Nat) (x : Cluster) : (d.setCl k x).tmus = d.tmus := rfl
@[simp] theorem Dev.setCl_freqs (k : Nat) (x : Cluster) : (d.setCl k x).freqs = d.freqs := rfl
@[simp] theorem Dev.setCl_fins (k : Nat) (x : Cluster) : (d.setCl k x).fins = d.fins := rfl
@[simp] theorem Dev.setCl_lines (k : Nat) (x : Cluster) : (d.setCl k x).lines = d.lines := rfl
@[simp] theorem Dev.setCl_gmx (k : Nat) (x : Cluster) : (d.setCl k x).gmx = d.gmx := rfl
@[simp] theorem Dev.setCl_gStage (k : Nat) (x : Cluster) : (d.setCl k x).gStage = d.gStage := rfl
@[simp] theorem Dev.setCl_fade (k : Nat) (x : Cluster) : (d.setCl k x).fade = d.fade := rfl
@[simp] theorem Dev.setCl_loopQ (k : Nat) (x : Cluster) : (d.setCl k x).loopQ = d.loopQ := rfl
@[simp] theorem Dev.setCl_stalled (k : Nat) (x : Cluster) : (d.setCl k x).stalled = d.stalled := rfl
@[simp] theorem Dev.setCl_cal (k : Nat) (x : Cluster) : (d.setCl k x).cal = d.cal := rfl
@[simp] theorem Dev.setCl_pe (k : Nat) (x : Cluster) : (d.setCl k x).pe = d.pe := rfl
@[simp] theorem Dev.setCl_sched (k : Nat) (x : Cluster) : (d.setCl k x).sched = d.sched := rfl
@[simp] theorem Dev.setCl_bist (k : Nat) (x : Cluster) : (d.setCl k x).bist = d.bist := rfl
@[simp] theorem Dev.setCl_flt (k : Nat) (x : Cluster) : (d.setCl k x).flt = d.flt := rfl
@[simp] theorem Dev.setCl_sess (k : Nat) (x : Cluster) : (d.setCl k x).sess = d.sess := rfl
@[simp] theorem Dev.setCl_links (k : Nat) (x : Cluster) : (d.setCl k x).links = d.links := rfl
@[simp] theorem Dev.setCl_rings (k : Nat) (x : Cluster) : (d.setCl k x).rings = d.rings := rfl
@[simp] theorem Dev.setCl_nvmQ (k : Nat) (x : Cluster) : (d.setCl k x).nvmQ = d.nvmQ := rfl
@[simp] theorem Dev.setCl_nvmCur (k : Nat) (x : Cluster) : (d.setCl k x).nvmCur = d.nvmCur := rfl
@[simp] theorem Dev.setCl_sec (k : Nat) (x : Cluster) : (d.setCl k x).sec = d.sec := rfl
@[simp] theorem Dev.setCl_pln (k : Nat) (x : Cluster) : (d.setCl k x).pln = d.pln := rfl
@[simp] theorem Dev.setCl_boot (k : Nat) (x : Cluster) : (d.setCl k x).boot = d.boot := rfl
@[simp] theorem Dev.setCl_poison (k : Nat) (x : Cluster) : (d.setCl k x).poison = d.poison := rfl
@[simp] theorem Dev.setCl_out (k : Nat) (x : Cluster) : (d.setCl k x).out = d.out := rfl
@[simp] theorem Dev.setCl_dbg (k : Nat) (x : Cluster) : (d.setCl k x).dbg = d.dbg := rfl
@[simp] theorem Dev.setCl_reply (k : Nat) (x : Cluster) : (d.setCl k x).reply = d.reply := rfl
@[simp] theorem Dev.setCl_replyEp (k : Nat) (x : Cluster) : (d.setCl k x).replyEp = d.replyEp := rfl
@[simp] theorem Dev.setCl_smb (k : Nat) (x : Cluster) : (d.setCl k x).smb = d.smb := rfl
@[simp] theorem Dev.setCl_tdo (k : Nat) (x : Cluster) : (d.setCl k x).tdo = d.tdo := rfl
@[simp] theorem Dev.setCl_undo (k : Nat) (x : Cluster) : (d.setCl k x).undo = d.undo := rfl
@[simp] theorem Dev.setCl_serves (k : Nat) (x : Cluster) : (d.setCl k x).serves = d.serves := rfl
@[simp] theorem Dev.setCl_reg (k : Nat) (x : Cluster) (j : Nat) : (d.setCl k x).reg j = d.reg j := rfl
@[simp] theorem Dev.setCl_lane (k : Nat) (x : Cluster) (j : Nat) : (d.setCl k x).lane j = d.lane j := rfl
@[simp] theorem Dev.setCl_ph (k : Nat) (x : Cluster) (i j : Nat) : (d.setCl k x).ph i j = d.ph i j := rfl
@[simp] theorem Dev.setCl_tmu (k : Nat) (x : Cluster) (i j : Nat) : (d.setCl k x).tmu i j = d.tmu i j := rfl
@[simp] theorem Dev.setCl_fq (k : Nat) (x : Cluster) (j : Nat) : (d.setCl k x).fq j = d.fq j := rfl
@[simp] theorem Dev.setCl_lg (k : Nat) (x : Cluster) (j : Nat) : (d.setCl k x).lg j = d.lg j := rfl
@[simp] theorem Dev.setCl_line (k : Nat) (x : Cluster) (j : Nat) : (d.setCl k x).line j = d.line j := rfl
@[simp] theorem Dev.setCl_sn (k : Nat) (x : Cluster) (j : Nat) : (d.setCl k x).sn j = d.sn j := rfl
@[simp] theorem Dev.setCl_ring (k : Nat) (x : Cluster) (j : Nat) : (d.setCl k x).ring j = d.ring j := rfl
@[simp] theorem Dev.setCl_source (k : Nat) (x : Cluster) (j : Nat) : (d.setCl k x).source j = d.source j := rfl

/-! ### modCl -/

@[simp] theorem Dev.modCl_epoch (k : Nat) (x : Cluster → Cluster) : (d.modCl k x).epoch = d.epoch := rfl
@[simp] theorem Dev.modCl_up (k : Nat) (x : Cluster → Cluster) : (d.modCl k x).up = d.up := rfl
@[simp] theorem Dev.modCl_free (k : Nat) (x : Cluster → Cluster) : (d.modCl k x).free = d.free := rfl
@[simp] theorem Dev.modCl_options (k : Nat) (x : Cluster → Cluster) : (d.modCl k x).options = d.options := rfl
@[simp] theorem Dev.modCl_regs (k : Nat) (x : Cluster → Cluster) : (d.modCl k x).regs = d.regs := rfl
@[simp] theorem Dev.modCl_hold (k : Nat) (x : Cluster → Cluster) : (d.modCl k x).hold = d.hold := rfl
@[simp] theorem Dev.modCl_capt (k : Nat) (x : Cluster → Cluster) : (d.modCl k x).capt = d.capt := rfl
@[simp] theorem Dev.modCl_fresh (k : Nat) (x : Cluster → Cluster) : (d.modCl k x).fresh = d.fresh := rfl
@[simp] theorem Dev.modCl_pageReset (k : Nat) (x : Cluster → Cluster) : (d.modCl k x).pageReset = d.pageReset := rfl
@[simp] theorem Dev.modCl_ports (k : Nat) (x : Cluster → Cluster) : (d.modCl k x).ports = d.ports := rfl
@[simp] theorem Dev.modCl_again (k : Nat) (x : Cluster → Cluster) : (d.modCl k x).again = d.again := rfl
@[simp] theorem Dev.modCl_tb (k : Nat) (x : Cluster → Cluster) : (d.modCl k x).tb = d.tb := rfl
@[simp] theorem Dev.modCl_dirum (k : Nat) (x : Cluster → Cluster) : (d.modCl k x).dirum = d.dirum := rfl
@[simp] theorem Dev.modCl_lgs (k : Nat) (x : Cluster → Cluster) : (d.modCl k x).lgs = d.lgs := rfl
@[simp] theorem Dev.modCl_lanes (k : Nat) (x : Cluster → Cluster) : (d.modCl k x).lanes = d.lanes := rfl
@[simp] theorem Dev.modCl_phys (k : Nat) (x : Cluster → Cluster) : (d.modCl k x).phys = d.phys := rfl
@[simp] theorem Dev.modCl_tmus (k : Nat) (x : Cluster → Cluster) : (d.modCl k x).tmus = d.tmus := rfl
@[simp] theorem Dev.modCl_freqs (k : Nat) (x : Cluster → Cluster) : (d.modCl k x).freqs = d.freqs := rfl
@[simp] theorem Dev.modCl_fins (k : Nat) (x : Cluster → Cluster) : (d.modCl k x).fins = d.fins := rfl
@[simp] theorem Dev.modCl_lines (k : Nat) (x : Cluster → Cluster) : (d.modCl k x).lines = d.lines := rfl
@[simp] theorem Dev.modCl_gmx (k : Nat) (x : Cluster → Cluster) : (d.modCl k x).gmx = d.gmx := rfl
@[simp] theorem Dev.modCl_gStage (k : Nat) (x : Cluster → Cluster) : (d.modCl k x).gStage = d.gStage := rfl
@[simp] theorem Dev.modCl_fade (k : Nat) (x : Cluster → Cluster) : (d.modCl k x).fade = d.fade := rfl
@[simp] theorem Dev.modCl_loopQ (k : Nat) (x : Cluster → Cluster) : (d.modCl k x).loopQ = d.loopQ := rfl
@[simp] theorem Dev.modCl_stalled (k : Nat) (x : Cluster → Cluster) : (d.modCl k x).stalled = d.stalled := rfl
@[simp] theorem Dev.modCl_cal (k : Nat) (x : Cluster → Cluster) : (d.modCl k x).cal = d.cal := rfl
@[simp] theorem Dev.modCl_pe (k : Nat) (x : Cluster → Cluster) : (d.modCl k x).pe = d.pe := rfl
@[simp] theorem Dev.modCl_sched (k : Nat) (x : Cluster → Cluster) : (d.modCl k x).sched = d.sched := rfl
@[simp] theorem Dev.modCl_bist (k : Nat) (x : Cluster → Cluster) : (d.modCl k x).bist = d.bist := rfl
@[simp] theorem Dev.modCl_flt (k : Nat) (x : Cluster → Cluster) : (d.modCl k x).flt = d.flt := rfl
@[simp] theorem Dev.modCl_sess (k : Nat) (x : Cluster → Cluster) : (d.modCl k x).sess = d.sess := rfl
@[simp] theorem Dev.modCl_links (k : Nat) (x : Cluster → Cluster) : (d.modCl k x).links = d.links := rfl
@[simp] theorem Dev.modCl_rings (k : Nat) (x : Cluster → Cluster) : (d.modCl k x).rings = d.rings := rfl
@[simp] theorem Dev.modCl_nvmQ (k : Nat) (x : Cluster → Cluster) : (d.modCl k x).nvmQ = d.nvmQ := rfl
@[simp] theorem Dev.modCl_nvmCur (k : Nat) (x : Cluster → Cluster) : (d.modCl k x).nvmCur = d.nvmCur := rfl
@[simp] theorem Dev.modCl_sec (k : Nat) (x : Cluster → Cluster) : (d.modCl k x).sec = d.sec := rfl
@[simp] theorem Dev.modCl_pln (k : Nat) (x : Cluster → Cluster) : (d.modCl k x).pln = d.pln := rfl
@[simp] theorem Dev.modCl_boot (k : Nat) (x : Cluster → Cluster) : (d.modCl k x).boot = d.boot := rfl
@[simp] theorem Dev.modCl_poison (k : Nat) (x : Cluster → Cluster) : (d.modCl k x).poison = d.poison := rfl
@[simp] theorem Dev.modCl_out (k : Nat) (x : Cluster → Cluster) : (d.modCl k x).out = d.out := rfl
@[simp] theorem Dev.modCl_dbg (k : Nat) (x : Cluster → Cluster) : (d.modCl k x).dbg = d.dbg := rfl
@[simp] theorem Dev.modCl_reply (k : Nat) (x : Cluster → Cluster) : (d.modCl k x).reply = d.reply := rfl
@[simp] theorem Dev.modCl_replyEp (k : Nat) (x : Cluster → Cluster) : (d.modCl k x).replyEp = d.replyEp := rfl
@[simp] theorem Dev.modCl_smb (k : Nat) (x : Cluster → Cluster) : (d.modCl k x).smb = d.smb := rfl
@[simp] theorem Dev.modCl_tdo (k : Nat) (x : Cluster → Cluster) : (d.modCl k x).tdo = d.tdo := rfl
@[simp] theorem Dev.modCl_undo (k : Nat) (x : Cluster → Cluster) : (d.modCl k x).undo = d.undo := rfl
@[simp] theorem Dev.modCl_serves (k : Nat) (x : Cluster → Cluster) : (d.modCl k x).serves = d.serves := rfl
@[simp] theorem Dev.modCl_reg (k : Nat) (x : Cluster → Cluster) (j : Nat) : (d.modCl k x).reg j = d.reg j := rfl
@[simp] theorem Dev.modCl_lane (k : Nat) (x : Cluster → Cluster) (j : Nat) : (d.modCl k x).lane j = d.lane j := rfl
@[simp] theorem Dev.modCl_ph (k : Nat) (x : Cluster → Cluster) (i j : Nat) : (d.modCl k x).ph i j = d.ph i j := rfl
@[simp] theorem Dev.modCl_tmu (k : Nat) (x : Cluster → Cluster) (i j : Nat) : (d.modCl k x).tmu i j = d.tmu i j := rfl
@[simp] theorem Dev.modCl_fq (k : Nat) (x : Cluster → Cluster) (j : Nat) : (d.modCl k x).fq j = d.fq j := rfl
@[simp] theorem Dev.modCl_lg (k : Nat) (x : Cluster → Cluster) (j : Nat) : (d.modCl k x).lg j = d.lg j := rfl
@[simp] theorem Dev.modCl_line (k : Nat) (x : Cluster → Cluster) (j : Nat) : (d.modCl k x).line j = d.line j := rfl
@[simp] theorem Dev.modCl_sn (k : Nat) (x : Cluster → Cluster) (j : Nat) : (d.modCl k x).sn j = d.sn j := rfl
@[simp] theorem Dev.modCl_ring (k : Nat) (x : Cluster → Cluster) (j : Nat) : (d.modCl k x).ring j = d.ring j := rfl
@[simp] theorem Dev.modCl_source (k : Nat) (x : Cluster → Cluster) (j : Nat) : (d.modCl k x).source j = d.source j := rfl

/-! ### setPh -/

@[simp] theorem Dev.setPh_epoch (k p : Nat) (x : Phys) : (d.setPh k p x).epoch = d.epoch := rfl
@[simp] theorem Dev.setPh_up (k p : Nat) (x : Phys) : (d.setPh k p x).up = d.up := rfl
@[simp] theorem Dev.setPh_free (k p : Nat) (x : Phys) : (d.setPh k p x).free = d.free := rfl
@[simp] theorem Dev.setPh_options (k p : Nat) (x : Phys) : (d.setPh k p x).options = d.options := rfl
@[simp] theorem Dev.setPh_regs (k p : Nat) (x : Phys) : (d.setPh k p x).regs = d.regs := rfl
@[simp] theorem Dev.setPh_hold (k p : Nat) (x : Phys) : (d.setPh k p x).hold = d.hold := rfl
@[simp] theorem Dev.setPh_capt (k p : Nat) (x : Phys) : (d.setPh k p x).capt = d.capt := rfl
@[simp] theorem Dev.setPh_fresh (k p : Nat) (x : Phys) : (d.setPh k p x).fresh = d.fresh := rfl
@[simp] theorem Dev.setPh_pageReset (k p : Nat) (x : Phys) : (d.setPh k p x).pageReset = d.pageReset := rfl
@[simp] theorem Dev.setPh_ports (k p : Nat) (x : Phys) : (d.setPh k p x).ports = d.ports := rfl
@[simp] theorem Dev.setPh_again (k p : Nat) (x : Phys) : (d.setPh k p x).again = d.again := rfl
@[simp] theorem Dev.setPh_tb (k p : Nat) (x : Phys) : (d.setPh k p x).tb = d.tb := rfl
@[simp] theorem Dev.setPh_dirum (k p : Nat) (x : Phys) : (d.setPh k p x).dirum = d.dirum := rfl
@[simp] theorem Dev.setPh_lgs (k p : Nat) (x : Phys) : (d.setPh k p x).lgs = d.lgs := rfl
@[simp] theorem Dev.setPh_lanes (k p : Nat) (x : Phys) : (d.setPh k p x).lanes = d.lanes := rfl
@[simp] theorem Dev.setPh_tmus (k p : Nat) (x : Phys) : (d.setPh k p x).tmus = d.tmus := rfl
@[simp] theorem Dev.setPh_freqs (k p : Nat) (x : Phys) : (d.setPh k p x).freqs = d.freqs := rfl
@[simp] theorem Dev.setPh_fins (k p : Nat) (x : Phys) : (d.setPh k p x).fins = d.fins := rfl
@[simp] theorem Dev.setPh_clusters (k p : Nat) (x : Phys) : (d.setPh k p x).clusters = d.clusters := rfl
@[simp] theorem Dev.setPh_lines (k p : Nat) (x : Phys) : (d.setPh k p x).lines = d.lines := rfl
@[simp] theorem Dev.setPh_gmx (k p : Nat) (x : Phys) : (d.setPh k p x).gmx = d.gmx := rfl
@[simp] theorem Dev.setPh_gStage (k p : Nat) (x : Phys) : (d.setPh k p x).gStage = d.gStage := rfl
@[simp] theorem Dev.setPh_fade (k p : Nat) (x : Phys) : (d.setPh k p x).fade = d.fade := rfl
@[simp] theorem Dev.setPh_loopQ (k p : Nat) (x : Phys) : (d.setPh k p x).loopQ = d.loopQ := rfl
@[simp] theorem Dev.setPh_stalled (k p : Nat) (x : Phys) : (d.setPh k p x).stalled = d.stalled := rfl
@[simp] theorem Dev.setPh_cal (k p : Nat) (x : Phys) : (d.setPh k p x).cal = d.cal := rfl
@[simp] theorem Dev.setPh_pe (k p : Nat) (x : Phys) : (d.setPh k p x).pe = d.pe := rfl
@[simp] theorem Dev.setPh_sched (k p : Nat) (x : Phys) : (d.setPh k p x).sched = d.sched := rfl
@[simp] theorem Dev.setPh_bist (k p : Nat) (x : Phys) : (d.setPh k p x).bist = d.bist := rfl
@[simp] theorem Dev.setPh_flt (k p : Nat) (x : Phys) : (d.setPh k p x).flt = d.flt := rfl
@[simp] theorem Dev.setPh_sess (k p : Nat) (x : Phys) : (d.setPh k p x).sess = d.sess := rfl
@[simp] theorem Dev.setPh_links (k p : Nat) (x : Phys) : (d.setPh k p x).links = d.links := rfl
@[simp] theorem Dev.setPh_rings (k p : Nat) (x : Phys) : (d.setPh k p x).rings = d.rings := rfl
@[simp] theorem Dev.setPh_nvmQ (k p : Nat) (x : Phys) : (d.setPh k p x).nvmQ = d.nvmQ := rfl
@[simp] theorem Dev.setPh_nvmCur (k p : Nat) (x : Phys) : (d.setPh k p x).nvmCur = d.nvmCur := rfl
@[simp] theorem Dev.setPh_sec (k p : Nat) (x : Phys) : (d.setPh k p x).sec = d.sec := rfl
@[simp] theorem Dev.setPh_pln (k p : Nat) (x : Phys) : (d.setPh k p x).pln = d.pln := rfl
@[simp] theorem Dev.setPh_boot (k p : Nat) (x : Phys) : (d.setPh k p x).boot = d.boot := rfl
@[simp] theorem Dev.setPh_poison (k p : Nat) (x : Phys) : (d.setPh k p x).poison = d.poison := rfl
@[simp] theorem Dev.setPh_out (k p : Nat) (x : Phys) : (d.setPh k p x).out = d.out := rfl
@[simp] theorem Dev.setPh_dbg (k p : Nat) (x : Phys) : (d.setPh k p x).dbg = d.dbg := rfl
@[simp] theorem Dev.setPh_reply (k p : Nat) (x : Phys) : (d.setPh k p x).reply = d.reply := rfl
@[simp] theorem Dev.setPh_replyEp (k p : Nat) (x : Phys) : (d.setPh k p x).replyEp = d.replyEp := rfl
@[simp] theorem Dev.setPh_smb (k p : Nat) (x : Phys) : (d.setPh k p x).smb = d.smb := rfl
@[simp] theorem Dev.setPh_tdo (k p : Nat) (x : Phys) : (d.setPh k p x).tdo = d.tdo := rfl
@[simp] theorem Dev.setPh_undo (k p : Nat) (x : Phys) : (d.setPh k p x).undo = d.undo := rfl
@[simp] theorem Dev.setPh_serves (k p : Nat) (x : Phys) : (d.setPh k p x).serves = d.serves := rfl
@[simp] theorem Dev.setPh_reg (k p : Nat) (x : Phys) (j : Nat) : (d.setPh k p x).reg j = d.reg j := rfl
@[simp] theorem Dev.setPh_lane (k p : Nat) (x : Phys) (j : Nat) : (d.setPh k p x).lane j = d.lane j := rfl
@[simp] theorem Dev.setPh_cl (k p : Nat) (x : Phys) (j : Nat) : (d.setPh k p x).cl j = d.cl j := rfl
@[simp] theorem Dev.setPh_tmu (k p : Nat) (x : Phys) (i j : Nat) : (d.setPh k p x).tmu i j = d.tmu i j := rfl
@[simp] theorem Dev.setPh_fq (k p : Nat) (x : Phys) (j : Nat) : (d.setPh k p x).fq j = d.fq j := rfl
@[simp] theorem Dev.setPh_lg (k p : Nat) (x : Phys) (j : Nat) : (d.setPh k p x).lg j = d.lg j := rfl
@[simp] theorem Dev.setPh_line (k p : Nat) (x : Phys) (j : Nat) : (d.setPh k p x).line j = d.line j := rfl
@[simp] theorem Dev.setPh_sn (k p : Nat) (x : Phys) (j : Nat) : (d.setPh k p x).sn j = d.sn j := rfl
@[simp] theorem Dev.setPh_ring (k p : Nat) (x : Phys) (j : Nat) : (d.setPh k p x).ring j = d.ring j := rfl
@[simp] theorem Dev.setPh_source (k p : Nat) (x : Phys) (j : Nat) : (d.setPh k p x).source j = d.source j := rfl

/-! ### modPh -/

@[simp] theorem Dev.modPh_epoch (k p : Nat) (x : Phys → Phys) : (d.modPh k p x).epoch = d.epoch := rfl
@[simp] theorem Dev.modPh_up (k p : Nat) (x : Phys → Phys) : (d.modPh k p x).up = d.up := rfl
@[simp] theorem Dev.modPh_free (k p : Nat) (x : Phys → Phys) : (d.modPh k p x).free = d.free := rfl
@[simp] theorem Dev.modPh_options (k p : Nat) (x : Phys → Phys) : (d.modPh k p x).options = d.options := rfl
@[simp] theorem Dev.modPh_regs (k p : Nat) (x : Phys → Phys) : (d.modPh k p x).regs = d.regs := rfl
@[simp] theorem Dev.modPh_hold (k p : Nat) (x : Phys → Phys) : (d.modPh k p x).hold = d.hold := rfl
@[simp] theorem Dev.modPh_capt (k p : Nat) (x : Phys → Phys) : (d.modPh k p x).capt = d.capt := rfl
@[simp] theorem Dev.modPh_fresh (k p : Nat) (x : Phys → Phys) : (d.modPh k p x).fresh = d.fresh := rfl
@[simp] theorem Dev.modPh_pageReset (k p : Nat) (x : Phys → Phys) : (d.modPh k p x).pageReset = d.pageReset := rfl
@[simp] theorem Dev.modPh_ports (k p : Nat) (x : Phys → Phys) : (d.modPh k p x).ports = d.ports := rfl
@[simp] theorem Dev.modPh_again (k p : Nat) (x : Phys → Phys) : (d.modPh k p x).again = d.again := rfl
@[simp] theorem Dev.modPh_tb (k p : Nat) (x : Phys → Phys) : (d.modPh k p x).tb = d.tb := rfl
@[simp] theorem Dev.modPh_dirum (k p : Nat) (x : Phys → Phys) : (d.modPh k p x).dirum = d.dirum := rfl
@[simp] theorem Dev.modPh_lgs (k p : Nat) (x : Phys → Phys) : (d.modPh k p x).lgs = d.lgs := rfl
@[simp] theorem Dev.modPh_lanes (k p : Nat) (x : Phys → Phys) : (d.modPh k p x).lanes = d.lanes := rfl
@[simp] theorem Dev.modPh_tmus (k p : Nat) (x : Phys → Phys) : (d.modPh k p x).tmus = d.tmus := rfl
@[simp] theorem Dev.modPh_freqs (k p : Nat) (x : Phys → Phys) : (d.modPh k p x).freqs = d.freqs := rfl
@[simp] theorem Dev.modPh_fins (k p : Nat) (x : Phys → Phys) : (d.modPh k p x).fins = d.fins := rfl
@[simp] theorem Dev.modPh_clusters (k p : Nat) (x : Phys → Phys) : (d.modPh k p x).clusters = d.clusters := rfl
@[simp] theorem Dev.modPh_lines (k p : Nat) (x : Phys → Phys) : (d.modPh k p x).lines = d.lines := rfl
@[simp] theorem Dev.modPh_gmx (k p : Nat) (x : Phys → Phys) : (d.modPh k p x).gmx = d.gmx := rfl
@[simp] theorem Dev.modPh_gStage (k p : Nat) (x : Phys → Phys) : (d.modPh k p x).gStage = d.gStage := rfl
@[simp] theorem Dev.modPh_fade (k p : Nat) (x : Phys → Phys) : (d.modPh k p x).fade = d.fade := rfl
@[simp] theorem Dev.modPh_loopQ (k p : Nat) (x : Phys → Phys) : (d.modPh k p x).loopQ = d.loopQ := rfl
@[simp] theorem Dev.modPh_stalled (k p : Nat) (x : Phys → Phys) : (d.modPh k p x).stalled = d.stalled := rfl
@[simp] theorem Dev.modPh_cal (k p : Nat) (x : Phys → Phys) : (d.modPh k p x).cal = d.cal := rfl
@[simp] theorem Dev.modPh_pe (k p : Nat) (x : Phys → Phys) : (d.modPh k p x).pe = d.pe := rfl
@[simp] theorem Dev.modPh_sched (k p : Nat) (x : Phys → Phys) : (d.modPh k p x).sched = d.sched := rfl
@[simp] theorem Dev.modPh_bist (k p : Nat) (x : Phys → Phys) : (d.modPh k p x).bist = d.bist := rfl
@[simp] theorem Dev.modPh_flt (k p : Nat) (x : Phys → Phys) : (d.modPh k p x).flt = d.flt := rfl
@[simp] theorem Dev.modPh_sess (k p : Nat) (x : Phys → Phys) : (d.modPh k p x).sess = d.sess := rfl
@[simp] theorem Dev.modPh_links (k p : Nat) (x : Phys → Phys) : (d.modPh k p x).links = d.links := rfl
@[simp] theorem Dev.modPh_rings (k p : Nat) (x : Phys → Phys) : (d.modPh k p x).rings = d.rings := rfl
@[simp] theorem Dev.modPh_nvmQ (k p : Nat) (x : Phys → Phys) : (d.modPh k p x).nvmQ = d.nvmQ := rfl
@[simp] theorem Dev.modPh_nvmCur (k p : Nat) (x : Phys → Phys) : (d.modPh k p x).nvmCur = d.nvmCur := rfl
@[simp] theorem Dev.modPh_sec (k p : Nat) (x : Phys → Phys) : (d.modPh k p x).sec = d.sec := rfl
@[simp] theorem Dev.modPh_pln (k p : Nat) (x : Phys → Phys) : (d.modPh k p x).pln = d.pln := rfl
@[simp] theorem Dev.modPh_boot (k p : Nat) (x : Phys → Phys) : (d.modPh k p x).boot = d.boot := rfl
@[simp] theorem Dev.modPh_poison (k p : Nat) (x : Phys → Phys) : (d.modPh k p x).poison = d.poison := rfl
@[simp] theorem Dev.modPh_out (k p : Nat) (x : Phys → Phys) : (d.modPh k p x).out = d.out := rfl
@[simp] theorem Dev.modPh_dbg (k p : Nat) (x : Phys → Phys) : (d.modPh k p x).dbg = d.dbg := rfl
@[simp] theorem Dev.modPh_reply (k p : Nat) (x : Phys → Phys) : (d.modPh k p x).reply = d.reply := rfl
@[simp] theorem Dev.modPh_replyEp (k p : Nat) (x : Phys → Phys) : (d.modPh k p x).replyEp = d.replyEp := rfl
@[simp] theorem Dev.modPh_smb (k p : Nat) (x : Phys → Phys) : (d.modPh k p x).smb = d.smb := rfl
@[simp] theorem Dev.modPh_tdo (k p : Nat) (x : Phys → Phys) : (d.modPh k p x).tdo = d.tdo := rfl
@[simp] theorem Dev.modPh_undo (k p : Nat) (x : Phys → Phys) : (d.modPh k p x).undo = d.undo := rfl
@[simp] theorem Dev.modPh_serves (k p : Nat) (x : Phys → Phys) : (d.modPh k p x).serves = d.serves := rfl
@[simp] theorem Dev.modPh_reg (k p : Nat) (x : Phys → Phys) (j : Nat) : (d.modPh k p x).reg j = d.reg j := rfl
@[simp] theorem Dev.modPh_lane (k p : Nat) (x : Phys → Phys) (j : Nat) : (d.modPh k p x).lane j = d.lane j := rfl
@[simp] theorem Dev.modPh_cl (k p : Nat) (x : Phys → Phys) (j : Nat) : (d.modPh k p x).cl j = d.cl j := rfl
@[simp] theorem Dev.modPh_tmu (k p : Nat) (x : Phys → Phys) (i j : Nat) : (d.modPh k p x).tmu i j = d.tmu i j := rfl
@[simp] theorem Dev.modPh_fq (k p : Nat) (x : Phys → Phys) (j : Nat) : (d.modPh k p x).fq j = d.fq j := rfl
@[simp] theorem Dev.modPh_lg (k p : Nat) (x : Phys → Phys) (j : Nat) : (d.modPh k p x).lg j = d.lg j := rfl
@[simp] theorem Dev.modPh_line (k p : Nat) (x : Phys → Phys) (j : Nat) : (d.modPh k p x).line j = d.line j := rfl
@[simp] theorem Dev.modPh_sn (k p : Nat) (x : Phys → Phys) (j : Nat) : (d.modPh k p x).sn j = d.sn j := rfl
@[simp] theorem Dev.modPh_ring (k p : Nat) (x : Phys → Phys) (j : Nat) : (d.modPh k p x).ring j = d.ring j := rfl
@[simp] theorem Dev.modPh_source (k p : Nat) (x : Phys → Phys) (j : Nat) : (d.modPh k p x).source j = d.source j := rfl

/-! ### setTmu -/

@[simp] theorem Dev.setTmu_epoch (k p : Nat) (x : Tmu) : (d.setTmu k p x).epoch = d.epoch := rfl
@[simp] theorem Dev.setTmu_up (k p : Nat) (x : Tmu) : (d.setTmu k p x).up = d.up := rfl
@[simp] theorem Dev.setTmu_free (k p : Nat) (x : Tmu) : (d.setTmu k p x).free = d.free := rfl
@[simp] theorem Dev.setTmu_options (k p : Nat) (x : Tmu) : (d.setTmu k p x).options = d.options := rfl
@[simp] theorem Dev.setTmu_regs (k p : Nat) (x : Tmu) : (d.setTmu k p x).regs = d.regs := rfl
@[simp] theorem Dev.setTmu_hold (k p : Nat) (x : Tmu) : (d.setTmu k p x).hold = d.hold := rfl
@[simp] theorem Dev.setTmu_capt (k p : Nat) (x : Tmu) : (d.setTmu k p x).capt = d.capt := rfl
@[simp] theorem Dev.setTmu_fresh (k p : Nat) (x : Tmu) : (d.setTmu k p x).fresh = d.fresh := rfl
@[simp] theorem Dev.setTmu_pageReset (k p : Nat) (x : Tmu) : (d.setTmu k p x).pageReset = d.pageReset := rfl
@[simp] theorem Dev.setTmu_ports (k p : Nat) (x : Tmu) : (d.setTmu k p x).ports = d.ports := rfl
@[simp] theorem Dev.setTmu_again (k p : Nat) (x : Tmu) : (d.setTmu k p x).again = d.again := rfl
@[simp] theorem Dev.setTmu_tb (k p : Nat) (x : Tmu) : (d.setTmu k p x).tb = d.tb := rfl
@[simp] theorem Dev.setTmu_dirum (k p : Nat) (x : Tmu) : (d.setTmu k p x).dirum = d.dirum := rfl
@[simp] theorem Dev.setTmu_lgs (k p : Nat) (x : Tmu) : (d.setTmu k p x).lgs = d.lgs := rfl
@[simp] theorem Dev.setTmu_lanes (k p : Nat) (x : Tmu) : (d.setTmu k p x).lanes = d.lanes := rfl
@[simp] theorem Dev.setTmu_phys (k p : Nat) (x : Tmu) : (d.setTmu k p x).phys = d.phys := rfl
@[simp] theorem Dev.setTmu_freqs (k p : Nat) (x : Tmu) : (d.setTmu k p x).freqs = d.freqs := rfl
@[simp] theorem Dev.setTmu_fins (k p : Nat) (x : Tmu) : (d.setTmu k p x).fins = d.fins := rfl
@[simp] theorem Dev.setTmu_clusters (k p : Nat) (x : Tmu) : (d.setTmu k p x).clusters = d.clusters := rfl
@[simp] theorem Dev.setTmu_lines (k p : Nat) (x : Tmu) : (d.setTmu k p x).lines = d.lines := rfl
@[simp] theorem Dev.setTmu_gmx (k p : Nat) (x : Tmu) : (d.setTmu k p x).gmx = d.gmx := rfl
@[simp] theorem Dev.setTmu_gStage (k p : Nat) (x : Tmu) : (d.setTmu k p x).gStage = d.gStage := rfl
@[simp] theorem Dev.setTmu_fade (k p : Nat) (x : Tmu) : (d.setTmu k p x).fade = d.fade := rfl
@[simp] theorem Dev.setTmu_loopQ (k p : Nat) (x : Tmu) : (d.setTmu k p x).loopQ = d.loopQ := rfl
@[simp] theorem Dev.setTmu_stalled (k p : Nat) (x : Tmu) : (d.setTmu k p x).stalled = d.stalled := rfl
@[simp] theorem Dev.setTmu_cal (k p : Nat) (x : Tmu) : (d.setTmu k p x).cal = d.cal := rfl
@[simp] theorem Dev.setTmu_pe (k p : Nat) (x : Tmu) : (d.setTmu k p x).pe = d.pe := rfl
@[simp] theorem Dev.setTmu_sched (k p : Nat) (x : Tmu) : (d.setTmu k p x).sched = d.sched := rfl
@[simp] theorem Dev.setTmu_bist (k p : Nat) (x : Tmu) : (d.setTmu k p x).bist = d.bist := rfl
@[simp] theorem Dev.setTmu_flt (k p : Nat) (x : Tmu) : (d.setTmu k p x).flt = d.flt := rfl
@[simp] theorem Dev.setTmu_sess (k p : Nat) (x : Tmu) : (d.setTmu k p x).sess = d.sess := rfl
@[simp] theorem Dev.setTmu_links (k p : Nat) (x : Tmu) : (d.setTmu k p x).links = d.links := rfl
@[simp] theorem Dev.setTmu_rings (k p : Nat) (x : Tmu) : (d.setTmu k p x).rings = d.rings := rfl
@[simp] theorem Dev.setTmu_nvmQ (k p : Nat) (x : Tmu) : (d.setTmu k p x).nvmQ = d.nvmQ := rfl
@[simp] theorem Dev.setTmu_nvmCur (k p : Nat) (x : Tmu) : (d.setTmu k p x).nvmCur = d.nvmCur := rfl
@[simp] theorem Dev.setTmu_sec (k p : Nat) (x : Tmu) : (d.setTmu k p x).sec = d.sec := rfl
@[simp] theorem Dev.setTmu_pln (k p : Nat) (x : Tmu) : (d.setTmu k p x).pln = d.pln := rfl
@[simp] theorem Dev.setTmu_boot (k p : Nat) (x : Tmu) : (d.setTmu k p x).boot = d.boot := rfl
@[simp] theorem Dev.setTmu_poison (k p : Nat) (x : Tmu) : (d.setTmu k p x).poison = d.poison := rfl
@[simp] theorem Dev.setTmu_out (k p : Nat) (x : Tmu) : (d.setTmu k p x).out = d.out := rfl
@[simp] theorem Dev.setTmu_dbg (k p : Nat) (x : Tmu) : (d.setTmu k p x).dbg = d.dbg := rfl
@[simp] theorem Dev.setTmu_reply (k p : Nat) (x : Tmu) : (d.setTmu k p x).reply = d.reply := rfl
@[simp] theorem Dev.setTmu_replyEp (k p : Nat) (x : Tmu) : (d.setTmu k p x).replyEp = d.replyEp := rfl
@[simp] theorem Dev.setTmu_smb (k p : Nat) (x : Tmu) : (d.setTmu k p x).smb = d.smb := rfl
@[simp] theorem Dev.setTmu_tdo (k p : Nat) (x : Tmu) : (d.setTmu k p x).tdo = d.tdo := rfl
@[simp] theorem Dev.setTmu_undo (k p : Nat) (x : Tmu) : (d.setTmu k p x).undo = d.undo := rfl
@[simp] theorem Dev.setTmu_serves (k p : Nat) (x : Tmu) : (d.setTmu k p x).serves = d.serves := rfl
@[simp] theorem Dev.setTmu_reg (k p : Nat) (x : Tmu) (j : Nat) : (d.setTmu k p x).reg j = d.reg j := rfl
@[simp] theorem Dev.setTmu_lane (k p : Nat) (x : Tmu) (j : Nat) : (d.setTmu k p x).lane j = d.lane j := rfl
@[simp] theorem Dev.setTmu_cl (k p : Nat) (x : Tmu) (j : Nat) : (d.setTmu k p x).cl j = d.cl j := rfl
@[simp] theorem Dev.setTmu_ph (k p : Nat) (x : Tmu) (i j : Nat) : (d.setTmu k p x).ph i j = d.ph i j := rfl
@[simp] theorem Dev.setTmu_fq (k p : Nat) (x : Tmu) (j : Nat) : (d.setTmu k p x).fq j = d.fq j := rfl
@[simp] theorem Dev.setTmu_lg (k p : Nat) (x : Tmu) (j : Nat) : (d.setTmu k p x).lg j = d.lg j := rfl
@[simp] theorem Dev.setTmu_line (k p : Nat) (x : Tmu) (j : Nat) : (d.setTmu k p x).line j = d.line j := rfl
@[simp] theorem Dev.setTmu_sn (k p : Nat) (x : Tmu) (j : Nat) : (d.setTmu k p x).sn j = d.sn j := rfl
@[simp] theorem Dev.setTmu_ring (k p : Nat) (x : Tmu) (j : Nat) : (d.setTmu k p x).ring j = d.ring j := rfl
@[simp] theorem Dev.setTmu_source (k p : Nat) (x : Tmu) (j : Nat) : (d.setTmu k p x).source j = d.source j := rfl

/-! ### modTmu -/

@[simp] theorem Dev.modTmu_epoch (k p : Nat) (x : Tmu → Tmu) : (d.modTmu k p x).epoch = d.epoch := rfl
@[simp] theorem Dev.modTmu_up (k p : Nat) (x : Tmu → Tmu) : (d.modTmu k p x).up = d.up := rfl
@[simp] theorem Dev.modTmu_free (k p : Nat) (x : Tmu → Tmu) : (d.modTmu k p x).free = d.free := rfl
@[simp] theorem Dev.modTmu_options (k p : Nat) (x : Tmu → Tmu) : (d.modTmu k p x).options = d.options := rfl
@[simp] theorem Dev.modTmu_regs (k p : Nat) (x : Tmu → Tmu) : (d.modTmu k p x).regs = d.regs := rfl
@[simp] theorem Dev.modTmu_hold (k p : Nat) (x : Tmu → Tmu) : (d.modTmu k p x).hold = d.hold := rfl
@[simp] theorem Dev.modTmu_capt (k p : Nat) (x : Tmu → Tmu) : (d.modTmu k p x).capt = d.capt := rfl
@[simp] theorem Dev.modTmu_fresh (k p : Nat) (x : Tmu → Tmu) : (d.modTmu k p x).fresh = d.fresh := rfl
@[simp] theorem Dev.modTmu_pageReset (k p : Nat) (x : Tmu → Tmu) : (d.modTmu k p x).pageReset = d.pageReset := rfl
@[simp] theorem Dev.modTmu_ports (k p : Nat) (x : Tmu → Tmu) : (d.modTmu k p x).ports = d.ports := rfl
@[simp] theorem Dev.modTmu_again (k p : Nat) (x : Tmu → Tmu) : (d.modTmu k p x).again = d.again := rfl
@[simp] theorem Dev.modTmu_tb (k p : Nat) (x : Tmu → Tmu) : (d.modTmu k p x).tb = d.tb := rfl
@[simp] theorem Dev.modTmu_dirum (k p : Nat) (x : Tmu → Tmu) : (d.modTmu k p x).dirum = d.dirum := rfl
@[simp] theorem Dev.modTmu_lgs (k p : Nat) (x : Tmu → Tmu) : (d.modTmu k p x).lgs = d.lgs := rfl
@[simp] theorem Dev.modTmu_lanes (k p : Nat) (x : Tmu → Tmu) : (d.modTmu k p x).lanes = d.lanes := rfl
@[simp] theorem Dev.modTmu_phys (k p : Nat) (x : Tmu → Tmu) : (d.modTmu k p x).phys = d.phys := rfl
@[simp] theorem Dev.modTmu_freqs (k p : Nat) (x : Tmu → Tmu) : (d.modTmu k p x).freqs = d.freqs := rfl
@[simp] theorem Dev.modTmu_fins (k p : Nat) (x : Tmu → Tmu) : (d.modTmu k p x).fins = d.fins := rfl
@[simp] theorem Dev.modTmu_clusters (k p : Nat) (x : Tmu → Tmu) : (d.modTmu k p x).clusters = d.clusters := rfl
@[simp] theorem Dev.modTmu_lines (k p : Nat) (x : Tmu → Tmu) : (d.modTmu k p x).lines = d.lines := rfl
@[simp] theorem Dev.modTmu_gmx (k p : Nat) (x : Tmu → Tmu) : (d.modTmu k p x).gmx = d.gmx := rfl
@[simp] theorem Dev.modTmu_gStage (k p : Nat) (x : Tmu → Tmu) : (d.modTmu k p x).gStage = d.gStage := rfl
@[simp] theorem Dev.modTmu_fade (k p : Nat) (x : Tmu → Tmu) : (d.modTmu k p x).fade = d.fade := rfl
@[simp] theorem Dev.modTmu_loopQ (k p : Nat) (x : Tmu → Tmu) : (d.modTmu k p x).loopQ = d.loopQ := rfl
@[simp] theorem Dev.modTmu_stalled (k p : Nat) (x : Tmu → Tmu) : (d.modTmu k p x).stalled = d.stalled := rfl
@[simp] theorem Dev.modTmu_cal (k p : Nat) (x : Tmu → Tmu) : (d.modTmu k p x).cal = d.cal := rfl
@[simp] theorem Dev.modTmu_pe (k p : Nat) (x : Tmu → Tmu) : (d.modTmu k p x).pe = d.pe := rfl
@[simp] theorem Dev.modTmu_sched (k p : Nat) (x : Tmu → Tmu) : (d.modTmu k p x).sched = d.sched := rfl
@[simp] theorem Dev.modTmu_bist (k p : Nat) (x : Tmu → Tmu) : (d.modTmu k p x).bist = d.bist := rfl
@[simp] theorem Dev.modTmu_flt (k p : Nat) (x : Tmu → Tmu) : (d.modTmu k p x).flt = d.flt := rfl
@[simp] theorem Dev.modTmu_sess (k p : Nat) (x : Tmu → Tmu) : (d.modTmu k p x).sess = d.sess := rfl
@[simp] theorem Dev.modTmu_links (k p : Nat) (x : Tmu → Tmu) : (d.modTmu k p x).links = d.links := rfl
@[simp] theorem Dev.modTmu_rings (k p : Nat) (x : Tmu → Tmu) : (d.modTmu k p x).rings = d.rings := rfl
@[simp] theorem Dev.modTmu_nvmQ (k p : Nat) (x : Tmu → Tmu) : (d.modTmu k p x).nvmQ = d.nvmQ := rfl
@[simp] theorem Dev.modTmu_nvmCur (k p : Nat) (x : Tmu → Tmu) : (d.modTmu k p x).nvmCur = d.nvmCur := rfl
@[simp] theorem Dev.modTmu_sec (k p : Nat) (x : Tmu → Tmu) : (d.modTmu k p x).sec = d.sec := rfl
@[simp] theorem Dev.modTmu_pln (k p : Nat) (x : Tmu → Tmu) : (d.modTmu k p x).pln = d.pln := rfl
@[simp] theorem Dev.modTmu_boot (k p : Nat) (x : Tmu → Tmu) : (d.modTmu k p x).boot = d.boot := rfl
@[simp] theorem Dev.modTmu_poison (k p : Nat) (x : Tmu → Tmu) : (d.modTmu k p x).poison = d.poison := rfl
@[simp] theorem Dev.modTmu_out (k p : Nat) (x : Tmu → Tmu) : (d.modTmu k p x).out = d.out := rfl
@[simp] theorem Dev.modTmu_dbg (k p : Nat) (x : Tmu → Tmu) : (d.modTmu k p x).dbg = d.dbg := rfl
@[simp] theorem Dev.modTmu_reply (k p : Nat) (x : Tmu → Tmu) : (d.modTmu k p x).reply = d.reply := rfl
@[simp] theorem Dev.modTmu_replyEp (k p : Nat) (x : Tmu → Tmu) : (d.modTmu k p x).replyEp = d.replyEp := rfl
@[simp] theorem Dev.modTmu_smb (k p : Nat) (x : Tmu → Tmu) : (d.modTmu k p x).smb = d.smb := rfl
@[simp] theorem Dev.modTmu_tdo (k p : Nat) (x : Tmu → Tmu) : (d.modTmu k p x).tdo = d.tdo := rfl
@[simp] theorem Dev.modTmu_undo (k p : Nat) (x : Tmu → Tmu) : (d.modTmu k p x).undo = d.undo := rfl
@[simp] theorem Dev.modTmu_serves (k p : Nat) (x : Tmu → Tmu) : (d.modTmu k p x).serves = d.serves := rfl
@[simp] theorem Dev.modTmu_reg (k p : Nat) (x : Tmu → Tmu) (j : Nat) : (d.modTmu k p x).reg j = d.reg j := rfl
@[simp] theorem Dev.modTmu_lane (k p : Nat) (x : Tmu → Tmu) (j : Nat) : (d.modTmu k p x).lane j = d.lane j := rfl
@[simp] theorem Dev.modTmu_cl (k p : Nat) (x : Tmu → Tmu) (j : Nat) : (d.modTmu k p x).cl j = d.cl j := rfl
@[simp] theorem Dev.modTmu_ph (k p : Nat) (x : Tmu → Tmu) (i j : Nat) : (d.modTmu k p x).ph i j = d.ph i j := rfl
@[simp] theorem Dev.modTmu_fq (k p : Nat) (x : Tmu → Tmu) (j : Nat) : (d.modTmu k p x).fq j = d.fq j := rfl
@[simp] theorem Dev.modTmu_lg (k p : Nat) (x : Tmu → Tmu) (j : Nat) : (d.modTmu k p x).lg j = d.lg j := rfl
@[simp] theorem Dev.modTmu_line (k p : Nat) (x : Tmu → Tmu) (j : Nat) : (d.modTmu k p x).line j = d.line j := rfl
@[simp] theorem Dev.modTmu_sn (k p : Nat) (x : Tmu → Tmu) (j : Nat) : (d.modTmu k p x).sn j = d.sn j := rfl
@[simp] theorem Dev.modTmu_ring (k p : Nat) (x : Tmu → Tmu) (j : Nat) : (d.modTmu k p x).ring j = d.ring j := rfl
@[simp] theorem Dev.modTmu_source (k p : Nat) (x : Tmu → Tmu) (j : Nat) : (d.modTmu k p x).source j = d.source j := rfl

/-! ### setFq -/

@[simp] theorem Dev.setFq_epoch (k : Nat) (x : Freq) : (d.setFq k x).epoch = d.epoch := rfl
@[simp] theorem Dev.setFq_up (k : Nat) (x : Freq) : (d.setFq k x).up = d.up := rfl
@[simp] theorem Dev.setFq_free (k : Nat) (x : Freq) : (d.setFq k x).free = d.free := rfl
@[simp] theorem Dev.setFq_options (k : Nat) (x : Freq) : (d.setFq k x).options = d.options := rfl
@[simp] theorem Dev.setFq_regs (k : Nat) (x : Freq) : (d.setFq k x).regs = d.regs := rfl
@[simp] theorem Dev.setFq_hold (k : Nat) (x : Freq) : (d.setFq k x).hold = d.hold := rfl
@[simp] theorem Dev.setFq_capt (k : Nat) (x : Freq) : (d.setFq k x).capt = d.capt := rfl
@[simp] theorem Dev.setFq_fresh (k : Nat) (x : Freq) : (d.setFq k x).fresh = d.fresh := rfl
@[simp] theorem Dev.setFq_pageReset (k : Nat) (x : Freq) : (d.setFq k x).pageReset = d.pageReset := rfl
@[simp] theorem Dev.setFq_ports (k : Nat) (x : Freq) : (d.setFq k x).ports = d.ports := rfl
@[simp] theorem Dev.setFq_again (k : Nat) (x : Freq) : (d.setFq k x).again = d.again := rfl
@[simp] theorem Dev.setFq_tb (k : Nat) (x : Freq) : (d.setFq k x).tb = d.tb := rfl
@[simp] theorem Dev.setFq_dirum (k : Nat) (x : Freq) : (d.setFq k x).dirum = d.dirum := rfl
@[simp] theorem Dev.setFq_lgs (k : Nat) (x : Freq) : (d.setFq k x).lgs = d.lgs := rfl
@[simp] theorem Dev.setFq_lanes (k : Nat) (x : Freq) : (d.setFq k x).lanes = d.lanes := rfl
@[simp] theorem Dev.setFq_phys (k : Nat) (x : Freq) : (d.setFq k x).phys = d.phys := rfl
@[simp] theorem Dev.setFq_tmus (k : Nat) (x : Freq) : (d.setFq k x).tmus = d.tmus := rfl
@[simp] theorem Dev.setFq_fins (k : Nat) (x : Freq) : (d.setFq k x).fins = d.fins := rfl
@[simp] theorem Dev.setFq_clusters (k : Nat) (x : Freq) : (d.setFq k x).clusters = d.clusters := rfl
@[simp] theorem Dev.setFq_lines (k : Nat) (x : Freq) : (d.setFq k x).lines = d.lines := rfl
@[simp] theorem Dev.setFq_gmx (k : Nat) (x : Freq) : (d.setFq k x).gmx = d.gmx := rfl
@[simp] theorem Dev.setFq_gStage (k : Nat) (x : Freq) : (d.setFq k x).gStage = d.gStage := rfl
@[simp] theorem Dev.setFq_fade (k : Nat) (x : Freq) : (d.setFq k x).fade = d.fade := rfl
@[simp] theorem Dev.setFq_loopQ (k : Nat) (x : Freq) : (d.setFq k x).loopQ = d.loopQ := rfl
@[simp] theorem Dev.setFq_stalled (k : Nat) (x : Freq) : (d.setFq k x).stalled = d.stalled := rfl
@[simp] theorem Dev.setFq_cal (k : Nat) (x : Freq) : (d.setFq k x).cal = d.cal := rfl
@[simp] theorem Dev.setFq_pe (k : Nat) (x : Freq) : (d.setFq k x).pe = d.pe := rfl
@[simp] theorem Dev.setFq_sched (k : Nat) (x : Freq) : (d.setFq k x).sched = d.sched := rfl
@[simp] theorem Dev.setFq_bist (k : Nat) (x : Freq) : (d.setFq k x).bist = d.bist := rfl
@[simp] theorem Dev.setFq_flt (k : Nat) (x : Freq) : (d.setFq k x).flt = d.flt := rfl
@[simp] theorem Dev.setFq_sess (k : Nat) (x : Freq) : (d.setFq k x).sess = d.sess := rfl
@[simp] theorem Dev.setFq_links (k : Nat) (x : Freq) : (d.setFq k x).links = d.links := rfl
@[simp] theorem Dev.setFq_rings (k : Nat) (x : Freq) : (d.setFq k x).rings = d.rings := rfl
@[simp] theorem Dev.setFq_nvmQ (k : Nat) (x : Freq) : (d.setFq k x).nvmQ = d.nvmQ := rfl
@[simp] theorem Dev.setFq_nvmCur (k : Nat) (x : Freq) : (d.setFq k x).nvmCur = d.nvmCur := rfl
@[simp] theorem Dev.setFq_sec (k : Nat) (x : Freq) : (d.setFq k x).sec = d.sec := rfl
@[simp] theorem Dev.setFq_pln (k : Nat) (x : Freq) : (d.setFq k x).pln = d.pln := rfl
@[simp] theorem Dev.setFq_boot (k : Nat) (x : Freq) : (d.setFq k x).boot = d.boot := rfl
@[simp] theorem Dev.setFq_poison (k : Nat) (x : Freq) : (d.setFq k x).poison = d.poison := rfl
@[simp] theorem Dev.setFq_out (k : Nat) (x : Freq) : (d.setFq k x).out = d.out := rfl
@[simp] theorem Dev.setFq_dbg (k : Nat) (x : Freq) : (d.setFq k x).dbg = d.dbg := rfl
@[simp] theorem Dev.setFq_reply (k : Nat) (x : Freq) : (d.setFq k x).reply = d.reply := rfl
@[simp] theorem Dev.setFq_replyEp (k : Nat) (x : Freq) : (d.setFq k x).replyEp = d.replyEp := rfl
@[simp] theorem Dev.setFq_smb (k : Nat) (x : Freq) : (d.setFq k x).smb = d.smb := rfl
@[simp] theorem Dev.setFq_tdo (k : Nat) (x : Freq) : (d.setFq k x).tdo = d.tdo := rfl
@[simp] theorem Dev.setFq_undo (k : Nat) (x : Freq) : (d.setFq k x).undo = d.undo := rfl
@[simp] theorem Dev.setFq_serves (k : Nat) (x : Freq) : (d.setFq k x).serves = d.serves := rfl
@[simp] theorem Dev.setFq_reg (k : Nat) (x : Freq) (j : Nat) : (d.setFq k x).reg j = d.reg j := rfl
@[simp] theorem Dev.setFq_lane (k : Nat) (x : Freq) (j : Nat) : (d.setFq k x).lane j = d.lane j := rfl
@[simp] theorem Dev.setFq_cl (k : Nat) (x : Freq) (j : Nat) : (d.setFq k x).cl j = d.cl j := rfl
@[simp] theorem Dev.setFq_ph (k : Nat) (x : Freq) (i j : Nat) : (d.setFq k x).ph i j = d.ph i j := rfl
@[simp] theorem Dev.setFq_tmu (k : Nat) (x : Freq) (i j : Nat) : (d.setFq k x).tmu i j = d.tmu i j := rfl
@[simp] theorem Dev.setFq_lg (k : Nat) (x : Freq) (j : Nat) : (d.setFq k x).lg j = d.lg j := rfl
@[simp] theorem Dev.setFq_line (k : Nat) (x : Freq) (j : Nat) : (d.setFq k x).line j = d.line j := rfl
@[simp] theorem Dev.setFq_sn (k : Nat) (x : Freq) (j : Nat) : (d.setFq k x).sn j = d.sn j := rfl
@[simp] theorem Dev.setFq_ring (k : Nat) (x : Freq) (j : Nat) : (d.setFq k x).ring j = d.ring j := rfl
@[simp] theorem Dev.setFq_source (k : Nat) (x : Freq) (j : Nat) : (d.setFq k x).source j = d.source j := rfl

/-! ### modFq -/

@[simp] theorem Dev.modFq_epoch (k : Nat) (x : Freq → Freq) : (d.modFq k x).epoch = d.epoch := rfl
@[simp] theorem Dev.modFq_up (k : Nat) (x : Freq → Freq) : (d.modFq k x).up = d.up := rfl
@[simp] theorem Dev.modFq_free (k : Nat) (x : Freq → Freq) : (d.modFq k x).free = d.free := rfl
@[simp] theorem Dev.modFq_options (k : Nat) (x : Freq → Freq) : (d.modFq k x).options = d.options := rfl
@[simp] theorem Dev.modFq_regs (k : Nat) (x : Freq → Freq) : (d.modFq k x).regs = d.regs := rfl
@[simp] theorem Dev.modFq_hold (k : Nat) (x : Freq → Freq) : (d.modFq k x).hold = d.hold := rfl
@[simp] theorem Dev.modFq_capt (k : Nat) (x : Freq → Freq) : (d.modFq k x).capt = d.capt := rfl
@[simp] theorem Dev.modFq_fresh (k : Nat) (x : Freq → Freq) : (d.modFq k x).fresh = d.fresh := rfl
@[simp] theorem Dev.modFq_pageReset (k : Nat) (x : Freq → Freq) : (d.modFq k x).pageReset = d.pageReset := rfl
@[simp] theorem Dev.modFq_ports (k : Nat) (x : Freq → Freq) : (d.modFq k x).ports = d.ports := rfl
@[simp] theorem Dev.modFq_again (k : Nat) (x : Freq → Freq) : (d.modFq k x).again = d.again := rfl
@[simp] theorem Dev.modFq_tb (k : Nat) (x : Freq → Freq) : (d.modFq k x).tb = d.tb := rfl
@[simp] theorem Dev.modFq_dirum (k : Nat) (x : Freq → Freq) : (d.modFq k x).dirum = d.dirum := rfl
@[simp] theorem Dev.modFq_lgs (k : Nat) (x : Freq → Freq) : (d.modFq k x).lgs = d.lgs := rfl
@[simp] theorem Dev.modFq_lanes (k : Nat) (x : Freq → Freq) : (d.modFq k x).lanes = d.lanes := rfl
@[simp] theorem Dev.modFq_phys (k : Nat) (x : Freq → Freq) : (d.modFq k x).phys = d.phys := rfl
@[simp] theorem Dev.modFq_tmus (k : Nat) (x : Freq → Freq) : (d.modFq k x).tmus = d.tmus := rfl
@[simp] theorem Dev.modFq_fins (k : Nat) (x : Freq → Freq) : (d.modFq k x).fins = d.fins := rfl
@[simp] theorem Dev.modFq_clusters (k : Nat) (x : Freq → Freq) : (d.modFq k x).clusters = d.clusters := rfl
@[simp] theorem Dev.modFq_lines (k : Nat) (x : Freq → Freq) : (d.modFq k x).lines = d.lines := rfl
@[simp] theorem Dev.modFq_gmx (k : Nat) (x : Freq → Freq) : (d.modFq k x).gmx = d.gmx := rfl
@[simp] theorem Dev.modFq_gStage (k : Nat) (x : Freq → Freq) : (d.modFq k x).gStage = d.gStage := rfl
@[simp] theorem Dev.modFq_fade (k : Nat) (x : Freq → Freq) : (d.modFq k x).fade = d.fade := rfl
@[simp] theorem Dev.modFq_loopQ (k : Nat) (x : Freq → Freq) : (d.modFq k x).loopQ = d.loopQ := rfl
@[simp] theorem Dev.modFq_stalled (k : Nat) (x : Freq → Freq) : (d.modFq k x).stalled = d.stalled := rfl
@[simp] theorem Dev.modFq_cal (k : Nat) (x : Freq → Freq) : (d.modFq k x).cal = d.cal := rfl
@[simp] theorem Dev.modFq_pe (k : Nat) (x : Freq → Freq) : (d.modFq k x).pe = d.pe := rfl
@[simp] theorem Dev.modFq_sched (k : Nat) (x : Freq → Freq) : (d.modFq k x).sched = d.sched := rfl
@[simp] theorem Dev.modFq_bist (k : Nat) (x : Freq → Freq) : (d.modFq k x).bist = d.bist := rfl
@[simp] theorem Dev.modFq_flt (k : Nat) (x : Freq → Freq) : (d.modFq k x).flt = d.flt := rfl
@[simp] theorem Dev.modFq_sess (k : Nat) (x : Freq → Freq) : (d.modFq k x).sess = d.sess := rfl
@[simp] theorem Dev.modFq_links (k : Nat) (x : Freq → Freq) : (d.modFq k x).links = d.links := rfl
@[simp] theorem Dev.modFq_rings (k : Nat) (x : Freq → Freq) : (d.modFq k x).rings = d.rings := rfl
@[simp] theorem Dev.modFq_nvmQ (k : Nat) (x : Freq → Freq) : (d.modFq k x).nvmQ = d.nvmQ := rfl
@[simp] theorem Dev.modFq_nvmCur (k : Nat) (x : Freq → Freq) : (d.modFq k x).nvmCur = d.nvmCur := rfl
@[simp] theorem Dev.modFq_sec (k : Nat) (x : Freq → Freq) : (d.modFq k x).sec = d.sec := rfl
@[simp] theorem Dev.modFq_pln (k : Nat) (x : Freq → Freq) : (d.modFq k x).pln = d.pln := rfl
@[simp] theorem Dev.modFq_boot (k : Nat) (x : Freq → Freq) : (d.modFq k x).boot = d.boot := rfl
@[simp] theorem Dev.modFq_poison (k : Nat) (x : Freq → Freq) : (d.modFq k x).poison = d.poison := rfl
@[simp] theorem Dev.modFq_out (k : Nat) (x : Freq → Freq) : (d.modFq k x).out = d.out := rfl
@[simp] theorem Dev.modFq_dbg (k : Nat) (x : Freq → Freq) : (d.modFq k x).dbg = d.dbg := rfl
@[simp] theorem Dev.modFq_reply (k : Nat) (x : Freq → Freq) : (d.modFq k x).reply = d.reply := rfl
@[simp] theorem Dev.modFq_replyEp (k : Nat) (x : Freq → Freq) : (d.modFq k x).replyEp = d.replyEp := rfl
@[simp] theorem Dev.modFq_smb (k : Nat) (x : Freq → Freq) : (d.modFq k x).smb = d.smb := rfl
@[simp] theorem Dev.modFq_tdo (k : Nat) (x : Freq → Freq) : (d.modFq k x).tdo = d.tdo := rfl
@[simp] theorem Dev.modFq_undo (k : Nat) (x : Freq → Freq) : (d.modFq k x).undo = d.undo := rfl
@[simp] theorem Dev.modFq_serves (k : Nat) (x : Freq → Freq) : (d.modFq k x).serves = d.serves := rfl
@[simp] theorem Dev.modFq_reg (k : Nat) (x : Freq → Freq) (j : Nat) : (d.modFq k x).reg j = d.reg j := rfl
@[simp] theorem Dev.modFq_lane (k : Nat) (x : Freq → Freq) (j : Nat) : (d.modFq k x).lane j = d.lane j := rfl
@[simp] theorem Dev.modFq_cl (k : Nat) (x : Freq → Freq) (j : Nat) : (d.modFq k x).cl j = d.cl j := rfl
@[simp] theorem Dev.modFq_ph (k : Nat) (x : Freq → Freq) (i j : Nat) : (d.modFq k x).ph i j = d.ph i j := rfl
@[simp] theorem Dev.modFq_tmu (k : Nat) (x : Freq → Freq) (i j : Nat) : (d.modFq k x).tmu i j = d.tmu i j := rfl
@[simp] theorem Dev.modFq_lg (k : Nat) (x : Freq → Freq) (j : Nat) : (d.modFq k x).lg j = d.lg j := rfl
@[simp] theorem Dev.modFq_line (k : Nat) (x : Freq → Freq) (j : Nat) : (d.modFq k x).line j = d.line j := rfl
@[simp] theorem Dev.modFq_sn (k : Nat) (x : Freq → Freq) (j : Nat) : (d.modFq k x).sn j = d.sn j := rfl
@[simp] theorem Dev.modFq_ring (k : Nat) (x : Freq → Freq) (j : Nat) : (d.modFq k x).ring j = d.ring j := rfl
@[simp] theorem Dev.modFq_source (k : Nat) (x : Freq → Freq) (j : Nat) : (d.modFq k x).source j = d.source j := rfl

/-! ### setLg -/

@[simp] theorem Dev.setLg_epoch (k : Nat) (x : LockGroup) : (d.setLg k x).epoch = d.epoch := rfl
@[simp] theorem Dev.setLg_up (k : Nat) (x : LockGroup) : (d.setLg k x).up = d.up := rfl
@[simp] theorem Dev.setLg_free (k : Nat) (x : LockGroup) : (d.setLg k x).free = d.free := rfl
@[simp] theorem Dev.setLg_options (k : Nat) (x : LockGroup) : (d.setLg k x).options = d.options := rfl
@[simp] theorem Dev.setLg_regs (k : Nat) (x : LockGroup) : (d.setLg k x).regs = d.regs := rfl
@[simp] theorem Dev.setLg_hold (k : Nat) (x : LockGroup) : (d.setLg k x).hold = d.hold := rfl
@[simp] theorem Dev.setLg_capt (k : Nat) (x : LockGroup) : (d.setLg k x).capt = d.capt := rfl
@[simp] theorem Dev.setLg_fresh (k : Nat) (x : LockGroup) : (d.setLg k x).fresh = d.fresh := rfl
@[simp] theorem Dev.setLg_pageReset (k : Nat) (x : LockGroup) : (d.setLg k x).pageReset = d.pageReset := rfl
@[simp] theorem Dev.setLg_ports (k : Nat) (x : LockGroup) : (d.setLg k x).ports = d.ports := rfl
@[simp] theorem Dev.setLg_again (k : Nat) (x : LockGroup) : (d.setLg k x).again = d.again := rfl
@[simp] theorem Dev.setLg_tb (k : Nat) (x : LockGroup) : (d.setLg k x).tb = d.tb := rfl
@[simp] theorem Dev.setLg_dirum (k : Nat) (x : LockGroup) : (d.setLg k x).dirum = d.dirum := rfl
@[simp] theorem Dev.setLg_lanes (k : Nat) (x : LockGroup) : (d.setLg k x).lanes = d.lanes := rfl
@[simp] theorem Dev.setLg_phys (k : Nat) (x : LockGroup) : (d.setLg k x).phys = d.phys := rfl
@[simp] theorem Dev.setLg_tmus (k : Nat) (x : LockGroup) : (d.setLg k x).tmus = d.tmus := rfl
@[simp] theorem Dev.setLg_freqs (k : Nat) (x : LockGroup) : (d.setLg k x).freqs = d.freqs := rfl
@[simp] theorem Dev.setLg_fins (k : Nat) (x : LockGroup) : (d.setLg k x).fins = d.fins := rfl
@[simp] theorem Dev.setLg_clusters (k : Nat) (x : LockGroup) : (d.setLg k x).clusters = d.clusters := rfl
@[simp] theorem Dev.setLg_lines (k : Nat) (x : LockGroup) : (d.setLg k x).lines = d.lines := rfl
@[simp] theorem Dev.setLg_gmx (k : Nat) (x : LockGroup) : (d.setLg k x).gmx = d.gmx := rfl
@[simp] theorem Dev.setLg_gStage (k : Nat) (x : LockGroup) : (d.setLg k x).gStage = d.gStage := rfl
@[simp] theorem Dev.setLg_fade (k : Nat) (x : LockGroup) : (d.setLg k x).fade = d.fade := rfl
@[simp] theorem Dev.setLg_loopQ (k : Nat) (x : LockGroup) : (d.setLg k x).loopQ = d.loopQ := rfl
@[simp] theorem Dev.setLg_stalled (k : Nat) (x : LockGroup) : (d.setLg k x).stalled = d.stalled := rfl
@[simp] theorem Dev.setLg_cal (k : Nat) (x : LockGroup) : (d.setLg k x).cal = d.cal := rfl
@[simp] theorem Dev.setLg_pe (k : Nat) (x : LockGroup) : (d.setLg k x).pe = d.pe := rfl
@[simp] theorem Dev.setLg_sched (k : Nat) (x : LockGroup) : (d.setLg k x).sched = d.sched := rfl
@[simp] theorem Dev.setLg_bist (k : Nat) (x : LockGroup) : (d.setLg k x).bist = d.bist := rfl
@[simp] theorem Dev.setLg_flt (k : Nat) (x : LockGroup) : (d.setLg k x).flt = d.flt := rfl
@[simp] theorem Dev.setLg_sess (k : Nat) (x : LockGroup) : (d.setLg k x).sess = d.sess := rfl
@[simp] theorem Dev.setLg_links (k : Nat) (x : LockGroup) : (d.setLg k x).links = d.links := rfl
@[simp] theorem Dev.setLg_rings (k : Nat) (x : LockGroup) : (d.setLg k x).rings = d.rings := rfl
@[simp] theorem Dev.setLg_nvmQ (k : Nat) (x : LockGroup) : (d.setLg k x).nvmQ = d.nvmQ := rfl
@[simp] theorem Dev.setLg_nvmCur (k : Nat) (x : LockGroup) : (d.setLg k x).nvmCur = d.nvmCur := rfl
@[simp] theorem Dev.setLg_sec (k : Nat) (x : LockGroup) : (d.setLg k x).sec = d.sec := rfl
@[simp] theorem Dev.setLg_pln (k : Nat) (x : LockGroup) : (d.setLg k x).pln = d.pln := rfl
@[simp] theorem Dev.setLg_boot (k : Nat) (x : LockGroup) : (d.setLg k x).boot = d.boot := rfl
@[simp] theorem Dev.setLg_poison (k : Nat) (x : LockGroup) : (d.setLg k x).poison = d.poison := rfl
@[simp] theorem Dev.setLg_out (k : Nat) (x : LockGroup) : (d.setLg k x).out = d.out := rfl
@[simp] theorem Dev.setLg_dbg (k : Nat) (x : LockGroup) : (d.setLg k x).dbg = d.dbg := rfl
@[simp] theorem Dev.setLg_reply (k : Nat) (x : LockGroup) : (d.setLg k x).reply = d.reply := rfl
@[simp] theorem Dev.setLg_replyEp (k : Nat) (x : LockGroup) : (d.setLg k x).replyEp = d.replyEp := rfl
@[simp] theorem Dev.setLg_smb (k : Nat) (x : LockGroup) : (d.setLg k x).smb = d.smb := rfl
@[simp] theorem Dev.setLg_tdo (k : Nat) (x : LockGroup) : (d.setLg k x).tdo = d.tdo := rfl
@[simp] theorem Dev.setLg_undo (k : Nat) (x : LockGroup) : (d.setLg k x).undo = d.undo := rfl
@[simp] theorem Dev.setLg_serves (k : Nat) (x : LockGroup) : (d.setLg k x).serves = d.serves := rfl
@[simp] theorem Dev.setLg_reg (k : Nat) (x : LockGroup) (j : Nat) : (d.setLg k x).reg j = d.reg j := rfl
@[simp] theorem Dev.setLg_lane (k : Nat) (x : LockGroup) (j : Nat) : (d.setLg k x).lane j = d.lane j := rfl
@[simp] theorem Dev.setLg_cl (k : Nat) (x : LockGroup) (j : Nat) : (d.setLg k x).cl j = d.cl j := rfl
@[simp] theorem Dev.setLg_ph (k : Nat) (x : LockGroup) (i j : Nat) : (d.setLg k x).ph i j = d.ph i j := rfl
@[simp] theorem Dev.setLg_tmu (k : Nat) (x : LockGroup) (i j : Nat) : (d.setLg k x).tmu i j = d.tmu i j := rfl
@[simp] theorem Dev.setLg_fq (k : Nat) (x : LockGroup) (j : Nat) : (d.setLg k x).fq j = d.fq j := rfl
@[simp] theorem Dev.setLg_line (k : Nat) (x : LockGroup) (j : Nat) : (d.setLg k x).line j = d.line j := rfl
@[simp] theorem Dev.setLg_sn (k : Nat) (x : LockGroup) (j : Nat) : (d.setLg k x).sn j = d.sn j := rfl
@[simp] theorem Dev.setLg_ring (k : Nat) (x : LockGroup) (j : Nat) : (d.setLg k x).ring j = d.ring j := rfl
@[simp] theorem Dev.setLg_source (k : Nat) (x : LockGroup) (j : Nat) : (d.setLg k x).source j = d.source j := rfl

/-! ### modLg -/

@[simp] theorem Dev.modLg_epoch (k : Nat) (x : LockGroup → LockGroup) : (d.modLg k x).epoch = d.epoch := rfl
@[simp] theorem Dev.modLg_up (k : Nat) (x : LockGroup → LockGroup) : (d.modLg k x).up = d.up := rfl
@[simp] theorem Dev.modLg_free (k : Nat) (x : LockGroup → LockGroup) : (d.modLg k x).free = d.free := rfl
@[simp] theorem Dev.modLg_options (k : Nat) (x : LockGroup → LockGroup) : (d.modLg k x).options = d.options := rfl
@[simp] theorem Dev.modLg_regs (k : Nat) (x : LockGroup → LockGroup) : (d.modLg k x).regs = d.regs := rfl
@[simp] theorem Dev.modLg_hold (k : Nat) (x : LockGroup → LockGroup) : (d.modLg k x).hold = d.hold := rfl
@[simp] theorem Dev.modLg_capt (k : Nat) (x : LockGroup → LockGroup) : (d.modLg k x).capt = d.capt := rfl
@[simp] theorem Dev.modLg_fresh (k : Nat) (x : LockGroup → LockGroup) : (d.modLg k x).fresh = d.fresh := rfl
@[simp] theorem Dev.modLg_pageReset (k : Nat) (x : LockGroup → LockGroup) : (d.modLg k x).pageReset = d.pageReset := rfl
@[simp] theorem Dev.modLg_ports (k : Nat) (x : LockGroup → LockGroup) : (d.modLg k x).ports = d.ports := rfl
@[simp] theorem Dev.modLg_again (k : Nat) (x : LockGroup → LockGroup) : (d.modLg k x).again = d.again := rfl
@[simp] theorem Dev.modLg_tb (k : Nat) (x : LockGroup → LockGroup) : (d.modLg k x).tb = d.tb := rfl
@[simp] theorem Dev.modLg_dirum (k : Nat) (x : LockGroup → LockGroup) : (d.modLg k x).dirum = d.dirum := rfl
@[simp] theorem Dev.modLg_lanes (k : Nat) (x : LockGroup → LockGroup) : (d.modLg k x).lanes = d.lanes := rfl
@[simp] theorem Dev.modLg_phys (k : Nat) (x : LockGroup → LockGroup) : (d.modLg k x).phys = d.phys := rfl
@[simp] theorem Dev.modLg_tmus (k : Nat) (x : LockGroup → LockGroup) : (d.modLg k x).tmus = d.tmus := rfl
@[simp] theorem Dev.modLg_freqs (k : Nat) (x : LockGroup → LockGroup) : (d.modLg k x).freqs = d.freqs := rfl
@[simp] theorem Dev.modLg_fins (k : Nat) (x : LockGroup → LockGroup) : (d.modLg k x).fins = d.fins := rfl
@[simp] theorem Dev.modLg_clusters (k : Nat) (x : LockGroup → LockGroup) : (d.modLg k x).clusters = d.clusters := rfl
@[simp] theorem Dev.modLg_lines (k : Nat) (x : LockGroup → LockGroup) : (d.modLg k x).lines = d.lines := rfl
@[simp] theorem Dev.modLg_gmx (k : Nat) (x : LockGroup → LockGroup) : (d.modLg k x).gmx = d.gmx := rfl
@[simp] theorem Dev.modLg_gStage (k : Nat) (x : LockGroup → LockGroup) : (d.modLg k x).gStage = d.gStage := rfl
@[simp] theorem Dev.modLg_fade (k : Nat) (x : LockGroup → LockGroup) : (d.modLg k x).fade = d.fade := rfl
@[simp] theorem Dev.modLg_loopQ (k : Nat) (x : LockGroup → LockGroup) : (d.modLg k x).loopQ = d.loopQ := rfl
@[simp] theorem Dev.modLg_stalled (k : Nat) (x : LockGroup → LockGroup) : (d.modLg k x).stalled = d.stalled := rfl
@[simp] theorem Dev.modLg_cal (k : Nat) (x : LockGroup → LockGroup) : (d.modLg k x).cal = d.cal := rfl
@[simp] theorem Dev.modLg_pe (k : Nat) (x : LockGroup → LockGroup) : (d.modLg k x).pe = d.pe := rfl
@[simp] theorem Dev.modLg_sched (k : Nat) (x : LockGroup → LockGroup) : (d.modLg k x).sched = d.sched := rfl
@[simp] theorem Dev.modLg_bist (k : Nat) (x : LockGroup → LockGroup) : (d.modLg k x).bist = d.bist := rfl
@[simp] theorem Dev.modLg_flt (k : Nat) (x : LockGroup → LockGroup) : (d.modLg k x).flt = d.flt := rfl
@[simp] theorem Dev.modLg_sess (k : Nat) (x : LockGroup → LockGroup) : (d.modLg k x).sess = d.sess := rfl
@[simp] theorem Dev.modLg_links (k : Nat) (x : LockGroup → LockGroup) : (d.modLg k x).links = d.links := rfl
@[simp] theorem Dev.modLg_rings (k : Nat) (x : LockGroup → LockGroup) : (d.modLg k x).rings = d.rings := rfl
@[simp] theorem Dev.modLg_nvmQ (k : Nat) (x : LockGroup → LockGroup) : (d.modLg k x).nvmQ = d.nvmQ := rfl
@[simp] theorem Dev.modLg_nvmCur (k : Nat) (x : LockGroup → LockGroup) : (d.modLg k x).nvmCur = d.nvmCur := rfl
@[simp] theorem Dev.modLg_sec (k : Nat) (x : LockGroup → LockGroup) : (d.modLg k x).sec = d.sec := rfl
@[simp] theorem Dev.modLg_pln (k : Nat) (x : LockGroup → LockGroup) : (d.modLg k x).pln = d.pln := rfl
@[simp] theorem Dev.modLg_boot (k : Nat) (x : LockGroup → LockGroup) : (d.modLg k x).boot = d.boot := rfl
@[simp] theorem Dev.modLg_poison (k : Nat) (x : LockGroup → LockGroup) : (d.modLg k x).poison = d.poison := rfl
@[simp] theorem Dev.modLg_out (k : Nat) (x : LockGroup → LockGroup) : (d.modLg k x).out = d.out := rfl
@[simp] theorem Dev.modLg_dbg (k : Nat) (x : LockGroup → LockGroup) : (d.modLg k x).dbg = d.dbg := rfl
@[simp] theorem Dev.modLg_reply (k : Nat) (x : LockGroup → LockGroup) : (d.modLg k x).reply = d.reply := rfl
@[simp] theorem Dev.modLg_replyEp (k : Nat) (x : LockGroup → LockGroup) : (d.modLg k x).replyEp = d.replyEp := rfl
@[simp] theorem Dev.modLg_smb (k : Nat) (x : LockGroup → LockGroup) : (d.modLg k x).smb = d.smb := rfl
@[simp] theorem Dev.modLg_tdo (k : Nat) (x : LockGroup → LockGroup) : (d.modLg k x).tdo = d.tdo := rfl
@[simp] theorem Dev.modLg_undo (k : Nat) (x : LockGroup → LockGroup) : (d.modLg k x).undo = d.undo := rfl
@[simp] theorem Dev.modLg_serves (k : Nat) (x : LockGroup → LockGroup) : (d.modLg k x).serves = d.serves := rfl
@[simp] theorem Dev.modLg_reg (k : Nat) (x : LockGroup → LockGroup) (j : Nat) : (d.modLg k x).reg j = d.reg j := rfl
@[simp] theorem Dev.modLg_lane (k : Nat) (x : LockGroup → LockGroup) (j : Nat) : (d.modLg k x).lane j = d.lane j := rfl
@[simp] theorem Dev.modLg_cl (k : Nat) (x : LockGroup → LockGroup) (j : Nat) : (d.modLg k x).cl j = d.cl j := rfl
@[simp] theorem Dev.modLg_ph (k : Nat) (x : LockGroup → LockGroup) (i j : Nat) : (d.modLg k x).ph i j = d.ph i j := rfl
@[simp] theorem Dev.modLg_tmu (k : Nat) (x : LockGroup → LockGroup) (i j : Nat) : (d.modLg k x).tmu i j = d.tmu i j := rfl
@[simp] theorem Dev.modLg_fq (k : Nat) (x : LockGroup → LockGroup) (j : Nat) : (d.modLg k x).fq j = d.fq j := rfl
@[simp] theorem Dev.modLg_line (k : Nat) (x : LockGroup → LockGroup) (j : Nat) : (d.modLg k x).line j = d.line j := rfl
@[simp] theorem Dev.modLg_sn (k : Nat) (x : LockGroup → LockGroup) (j : Nat) : (d.modLg k x).sn j = d.sn j := rfl
@[simp] theorem Dev.modLg_ring (k : Nat) (x : LockGroup → LockGroup) (j : Nat) : (d.modLg k x).ring j = d.ring j := rfl
@[simp] theorem Dev.modLg_source (k : Nat) (x : LockGroup → LockGroup) (j : Nat) : (d.modLg k x).source j = d.source j := rfl

/-! ### setLine -/

@[simp] theorem Dev.setLine_epoch (k : Nat) (x : Line) : (d.setLine k x).epoch = d.epoch := rfl
@[simp] theorem Dev.setLine_up (k : Nat) (x : Line) : (d.setLine k x).up = d.up := rfl
@[simp] theorem Dev.setLine_free (k : Nat) (x : Line) : (d.setLine k x).free = d.free := rfl
@[simp] theorem Dev.setLine_options (k : Nat) (x : Line) : (d.setLine k x).options = d.options := rfl
@[simp] theorem Dev.setLine_regs (k : Nat) (x : Line) : (d.setLine k x).regs = d.regs := rfl
@[simp] theorem Dev.setLine_hold (k : Nat) (x : Line) : (d.setLine k x).hold = d.hold := rfl
@[simp] theorem Dev.setLine_capt (k : Nat) (x : Line) : (d.setLine k x).capt = d.capt := rfl
@[simp] theorem Dev.setLine_fresh (k : Nat) (x : Line) : (d.setLine k x).fresh = d.fresh := rfl
@[simp] theorem Dev.setLine_pageReset (k : Nat) (x : Line) : (d.setLine k x).pageReset = d.pageReset := rfl
@[simp] theorem Dev.setLine_ports (k : Nat) (x : Line) : (d.setLine k x).ports = d.ports := rfl
@[simp] theorem Dev.setLine_again (k : Nat) (x : Line) : (d.setLine k x).again = d.again := rfl
@[simp] theorem Dev.setLine_tb (k : Nat) (x : Line) : (d.setLine k x).tb = d.tb := rfl
@[simp] theorem Dev.setLine_dirum (k : Nat) (x : Line) : (d.setLine k x).dirum = d.dirum := rfl
@[simp] theorem Dev.setLine_lgs (k : Nat) (x : Line) : (d.setLine k x).lgs = d.lgs := rfl
@[simp] theorem Dev.setLine_lanes (k : Nat) (x : Line) : (d.setLine k x).lanes = d.lanes := rfl
@[simp] theorem Dev.setLine_phys (k : Nat) (x : Line) : (d.setLine k x).phys = d.phys := rfl
@[simp] theorem Dev.setLine_tmus (k : Nat) (x : Line) : (d.setLine k x).tmus = d.tmus := rfl
@[simp] theorem Dev.setLine_freqs (k : Nat) (x : Line) : (d.setLine k x).freqs = d.freqs := rfl
@[simp] theorem Dev.setLine_fins (k : Nat) (x : Line) : (d.setLine k x).fins = d.fins := rfl
@[simp] theorem Dev.setLine_clusters (k : Nat) (x : Line) : (d.setLine k x).clusters = d.clusters := rfl
@[simp] theorem Dev.setLine_gmx (k : Nat) (x : Line) : (d.setLine k x).gmx = d.gmx := rfl
@[simp] theorem Dev.setLine_gStage (k : Nat) (x : Line) : (d.setLine k x).gStage = d.gStage := rfl
@[simp] theorem Dev.setLine_fade (k : Nat) (x : Line) : (d.setLine k x).fade = d.fade := rfl
@[simp] theorem Dev.setLine_loopQ (k : Nat) (x : Line) : (d.setLine k x).loopQ = d.loopQ := rfl
@[simp] theorem Dev.setLine_stalled (k : Nat) (x : Line) : (d.setLine k x).stalled = d.stalled := rfl
@[simp] theorem Dev.setLine_cal (k : Nat) (x : Line) : (d.setLine k x).cal = d.cal := rfl
@[simp] theorem Dev.setLine_pe (k : Nat) (x : Line) : (d.setLine k x).pe = d.pe := rfl
@[simp] theorem Dev.setLine_sched (k : Nat) (x : Line) : (d.setLine k x).sched = d.sched := rfl
@[simp] theorem Dev.setLine_bist (k : Nat) (x : Line) : (d.setLine k x).bist = d.bist := rfl
@[simp] theorem Dev.setLine_flt (k : Nat) (x : Line) : (d.setLine k x).flt = d.flt := rfl
@[simp] theorem Dev.setLine_sess (k : Nat) (x : Line) : (d.setLine k x).sess = d.sess := rfl
@[simp] theorem Dev.setLine_links (k : Nat) (x : Line) : (d.setLine k x).links = d.links := rfl
@[simp] theorem Dev.setLine_rings (k : Nat) (x : Line) : (d.setLine k x).rings = d.rings := rfl
@[simp] theorem Dev.setLine_nvmQ (k : Nat) (x : Line) : (d.setLine k x).nvmQ = d.nvmQ := rfl
@[simp] theorem Dev.setLine_nvmCur (k : Nat) (x : Line) : (d.setLine k x).nvmCur = d.nvmCur := rfl
@[simp] theorem Dev.setLine_sec (k : Nat) (x : Line) : (d.setLine k x).sec = d.sec := rfl
@[simp] theorem Dev.setLine_pln (k : Nat) (x : Line) : (d.setLine k x).pln = d.pln := rfl
@[simp] theorem Dev.setLine_boot (k : Nat) (x : Line) : (d.setLine k x).boot = d.boot := rfl
@[simp] theorem Dev.setLine_poison (k : Nat) (x : Line) : (d.setLine k x).poison = d.poison := rfl
@[simp] theorem Dev.setLine_out (k : Nat) (x : Line) : (d.setLine k x).out = d.out := rfl
@[simp] theorem Dev.setLine_dbg (k : Nat) (x : Line) : (d.setLine k x).dbg = d.dbg := rfl
@[simp] theorem Dev.setLine_reply (k : Nat) (x : Line) : (d.setLine k x).reply = d.reply := rfl
@[simp] theorem Dev.setLine_replyEp (k : Nat) (x : Line) : (d.setLine k x).replyEp = d.replyEp := rfl
@[simp] theorem Dev.setLine_smb (k : Nat) (x : Line) : (d.setLine k x).smb = d.smb := rfl
@[simp] theorem Dev.setLine_tdo (k : Nat) (x : Line) : (d.setLine k x).tdo = d.tdo := rfl
@[simp] theorem Dev.setLine_undo (k : Nat) (x : Line) : (d.setLine k x).undo = d.undo := rfl
@[simp] theorem Dev.setLine_serves (k : Nat) (x : Line) : (d.setLine k x).serves = d.serves := rfl
@[simp] theorem Dev.setLine_reg (k : Nat) (x : Line) (j : Nat) : (d.setLine k x).reg j = d.reg j := rfl
@[simp] theorem Dev.setLine_lane (k : Nat) (x : Line) (j : Nat) : (d.setLine k x).lane j = d.lane j := rfl
@[simp] theorem Dev.setLine_cl (k : Nat) (x : Line) (j : Nat) : (d.setLine k x).cl j = d.cl j := rfl
@[simp] theorem Dev.setLine_ph (k : Nat) (x : Line) (i j : Nat) : (d.setLine k x).ph i j = d.ph i j := rfl
@[simp] theorem Dev.setLine_tmu (k : Nat) (x : Line) (i j : Nat) : (d.setLine k x).tmu i j = d.tmu i j := rfl
@[simp] theorem Dev.setLine_fq (k : Nat) (x : Line) (j : Nat) : (d.setLine k x).fq j = d.fq j := rfl
@[simp] theorem Dev.setLine_lg (k : Nat) (x : Line) (j : Nat) : (d.setLine k x).lg j = d.lg j := rfl
@[simp] theorem Dev.setLine_sn (k : Nat) (x : Line) (j : Nat) : (d.setLine k x).sn j = d.sn j := rfl
@[simp] theorem Dev.setLine_ring (k : Nat) (x : Line) (j : Nat) : (d.setLine k x).ring j = d.ring j := rfl
@[simp] theorem Dev.setLine_source (k : Nat) (x : Line) (j : Nat) : (d.setLine k x).source j = d.source j := rfl

/-! ### modLine -/

@[simp] theorem Dev.modLine_epoch (k : Nat) (x : Line → Line) : (d.modLine k x).epoch = d.epoch := rfl
@[simp] theorem Dev.modLine_up (k : Nat) (x : Line → Line) : (d.modLine k x).up = d.up := rfl
@[simp] theorem Dev.modLine_free (k : Nat) (x : Line → Line) : (d.modLine k x).free = d.free := rfl
@[simp] theorem Dev.modLine_options (k : Nat) (x : Line → Line) : (d.modLine k x).options = d.options := rfl
@[simp] theorem Dev.modLine_regs (k : Nat) (x : Line → Line) : (d.modLine k x).regs = d.regs := rfl
@[simp] theorem Dev.modLine_hold (k : Nat) (x : Line → Line) : (d.modLine k x).hold = d.hold := rfl
@[simp] theorem Dev.modLine_capt (k : Nat) (x : Line → Line) : (d.modLine k x).capt = d.capt := rfl
@[simp] theorem Dev.modLine_fresh (k : Nat) (x : Line → Line) : (d.modLine k x).fresh = d.fresh := rfl
@[simp] theorem Dev.modLine_pageReset (k : Nat) (x : Line → Line) : (d.modLine k x).pageReset = d.pageReset := rfl
@[simp] theorem Dev.modLine_ports (k : Nat) (x : Line → Line) : (d.modLine k x).ports = d.ports := rfl
@[simp] theorem Dev.modLine_again (k : Nat) (x : Line → Line) : (d.modLine k x).again = d.again := rfl
@[simp] theorem Dev.modLine_tb (k : Nat) (x : Line → Line) : (d.modLine k x).tb = d.tb := rfl
@[simp] theorem Dev.modLine_dirum (k : Nat) (x : Line → Line) : (d.modLine k x).dirum = d.dirum := rfl
@[simp] theorem Dev.modLine_lgs (k : Nat) (x : Line → Line) : (d.modLine k x).lgs = d.lgs := rfl
@[simp] theorem Dev.modLine_lanes (k : Nat) (x : Line → Line) : (d.modLine k x).lanes = d.lanes := rfl
@[simp] theorem Dev.modLine_phys (k : Nat) (x : Line → Line) : (d.modLine k x).phys = d.phys := rfl
@[simp] theorem Dev.modLine_tmus (k : Nat) (x : Line → Line) : (d.modLine k x).tmus = d.tmus := rfl
@[simp] theorem Dev.modLine_freqs (k : Nat) (x : Line → Line) : (d.modLine k x).freqs = d.freqs := rfl
@[simp] theorem Dev.modLine_fins (k : Nat) (x : Line → Line) : (d.modLine k x).fins = d.fins := rfl
@[simp] theorem Dev.modLine_clusters (k : Nat) (x : Line → Line) : (d.modLine k x).clusters = d.clusters := rfl
@[simp] theorem Dev.modLine_gmx (k : Nat) (x : Line → Line) : (d.modLine k x).gmx = d.gmx := rfl
@[simp] theorem Dev.modLine_gStage (k : Nat) (x : Line → Line) : (d.modLine k x).gStage = d.gStage := rfl
@[simp] theorem Dev.modLine_fade (k : Nat) (x : Line → Line) : (d.modLine k x).fade = d.fade := rfl
@[simp] theorem Dev.modLine_loopQ (k : Nat) (x : Line → Line) : (d.modLine k x).loopQ = d.loopQ := rfl
@[simp] theorem Dev.modLine_stalled (k : Nat) (x : Line → Line) : (d.modLine k x).stalled = d.stalled := rfl
@[simp] theorem Dev.modLine_cal (k : Nat) (x : Line → Line) : (d.modLine k x).cal = d.cal := rfl
@[simp] theorem Dev.modLine_pe (k : Nat) (x : Line → Line) : (d.modLine k x).pe = d.pe := rfl
@[simp] theorem Dev.modLine_sched (k : Nat) (x : Line → Line) : (d.modLine k x).sched = d.sched := rfl
@[simp] theorem Dev.modLine_bist (k : Nat) (x : Line → Line) : (d.modLine k x).bist = d.bist := rfl
@[simp] theorem Dev.modLine_flt (k : Nat) (x : Line → Line) : (d.modLine k x).flt = d.flt := rfl
@[simp] theorem Dev.modLine_sess (k : Nat) (x : Line → Line) : (d.modLine k x).sess = d.sess := rfl
@[simp] theorem Dev.modLine_links (k : Nat) (x : Line → Line) : (d.modLine k x).links = d.links := rfl
@[simp] theorem Dev.modLine_rings (k : Nat) (x : Line → Line) : (d.modLine k x).rings = d.rings := rfl
@[simp] theorem Dev.modLine_nvmQ (k : Nat) (x : Line → Line) : (d.modLine k x).nvmQ = d.nvmQ := rfl
@[simp] theorem Dev.modLine_nvmCur (k : Nat) (x : Line → Line) : (d.modLine k x).nvmCur = d.nvmCur := rfl
@[simp] theorem Dev.modLine_sec (k : Nat) (x : Line → Line) : (d.modLine k x).sec = d.sec := rfl
@[simp] theorem Dev.modLine_pln (k : Nat) (x : Line → Line) : (d.modLine k x).pln = d.pln := rfl
@[simp] theorem Dev.modLine_boot (k : Nat) (x : Line → Line) : (d.modLine k x).boot = d.boot := rfl
@[simp] theorem Dev.modLine_poison (k : Nat) (x : Line → Line) : (d.modLine k x).poison = d.poison := rfl
@[simp] theorem Dev.modLine_out (k : Nat) (x : Line → Line) : (d.modLine k x).out = d.out := rfl
@[simp] theorem Dev.modLine_dbg (k : Nat) (x : Line → Line) : (d.modLine k x).dbg = d.dbg := rfl
@[simp] theorem Dev.modLine_reply (k : Nat) (x : Line → Line) : (d.modLine k x).reply = d.reply := rfl
@[simp] theorem Dev.modLine_replyEp (k : Nat) (x : Line → Line) : (d.modLine k x).replyEp = d.replyEp := rfl
@[simp] theorem Dev.modLine_smb (k : Nat) (x : Line → Line) : (d.modLine k x).smb = d.smb := rfl
@[simp] theorem Dev.modLine_tdo (k : Nat) (x : Line → Line) : (d.modLine k x).tdo = d.tdo := rfl
@[simp] theorem Dev.modLine_undo (k : Nat) (x : Line → Line) : (d.modLine k x).undo = d.undo := rfl
@[simp] theorem Dev.modLine_serves (k : Nat) (x : Line → Line) : (d.modLine k x).serves = d.serves := rfl
@[simp] theorem Dev.modLine_reg (k : Nat) (x : Line → Line) (j : Nat) : (d.modLine k x).reg j = d.reg j := rfl
@[simp] theorem Dev.modLine_lane (k : Nat) (x : Line → Line) (j : Nat) : (d.modLine k x).lane j = d.lane j := rfl
@[simp] theorem Dev.modLine_cl (k : Nat) (x : Line → Line) (j : Nat) : (d.modLine k x).cl j = d.cl j := rfl
@[simp] theorem Dev.modLine_ph (k : Nat) (x : Line → Line) (i j : Nat) : (d.modLine k x).ph i j = d.ph i j := rfl
@[simp] theorem Dev.modLine_tmu (k : Nat) (x : Line → Line) (i j : Nat) : (d.modLine k x).tmu i j = d.tmu i j := rfl
@[simp] theorem Dev.modLine_fq (k : Nat) (x : Line → Line) (j : Nat) : (d.modLine k x).fq j = d.fq j := rfl
@[simp] theorem Dev.modLine_lg (k : Nat) (x : Line → Line) (j : Nat) : (d.modLine k x).lg j = d.lg j := rfl
@[simp] theorem Dev.modLine_sn (k : Nat) (x : Line → Line) (j : Nat) : (d.modLine k x).sn j = d.sn j := rfl
@[simp] theorem Dev.modLine_ring (k : Nat) (x : Line → Line) (j : Nat) : (d.modLine k x).ring j = d.ring j := rfl
@[simp] theorem Dev.modLine_source (k : Nat) (x : Line → Line) (j : Nat) : (d.modLine k x).source j = d.source j := rfl

/-! ### setSn -/

@[simp] theorem Dev.setSn_epoch (k : Nat) (x : Session) : (d.setSn k x).epoch = d.epoch := rfl
@[simp] theorem Dev.setSn_up (k : Nat) (x : Session) : (d.setSn k x).up = d.up := rfl
@[simp] theorem Dev.setSn_free (k : Nat) (x : Session) : (d.setSn k x).free = d.free := rfl
@[simp] theorem Dev.setSn_options (k : Nat) (x : Session) : (d.setSn k x).options = d.options := rfl
@[simp] theorem Dev.setSn_regs (k : Nat) (x : Session) : (d.setSn k x).regs = d.regs := rfl
@[simp] theorem Dev.setSn_hold (k : Nat) (x : Session) : (d.setSn k x).hold = d.hold := rfl
@[simp] theorem Dev.setSn_capt (k : Nat) (x : Session) : (d.setSn k x).capt = d.capt := rfl
@[simp] theorem Dev.setSn_fresh (k : Nat) (x : Session) : (d.setSn k x).fresh = d.fresh := rfl
@[simp] theorem Dev.setSn_pageReset (k : Nat) (x : Session) : (d.setSn k x).pageReset = d.pageReset := rfl
@[simp] theorem Dev.setSn_ports (k : Nat) (x : Session) : (d.setSn k x).ports = d.ports := rfl
@[simp] theorem Dev.setSn_again (k : Nat) (x : Session) : (d.setSn k x).again = d.again := rfl
@[simp] theorem Dev.setSn_tb (k : Nat) (x : Session) : (d.setSn k x).tb = d.tb := rfl
@[simp] theorem Dev.setSn_dirum (k : Nat) (x : Session) : (d.setSn k x).dirum = d.dirum := rfl
@[simp] theorem Dev.setSn_lgs (k : Nat) (x : Session) : (d.setSn k x).lgs = d.lgs := rfl
@[simp] theorem Dev.setSn_lanes (k : Nat) (x : Session) : (d.setSn k x).lanes = d.lanes := rfl
@[simp] theorem Dev.setSn_phys (k : Nat) (x : Session) : (d.setSn k x).phys = d.phys := rfl
@[simp] theorem Dev.setSn_tmus (k : Nat) (x : Session) : (d.setSn k x).tmus = d.tmus := rfl
@[simp] theorem Dev.setSn_freqs (k : Nat) (x : Session) : (d.setSn k x).freqs = d.freqs := rfl
@[simp] theorem Dev.setSn_fins (k : Nat) (x : Session) : (d.setSn k x).fins = d.fins := rfl
@[simp] theorem Dev.setSn_clusters (k : Nat) (x : Session) : (d.setSn k x).clusters = d.clusters := rfl
@[simp] theorem Dev.setSn_lines (k : Nat) (x : Session) : (d.setSn k x).lines = d.lines := rfl
@[simp] theorem Dev.setSn_gmx (k : Nat) (x : Session) : (d.setSn k x).gmx = d.gmx := rfl
@[simp] theorem Dev.setSn_gStage (k : Nat) (x : Session) : (d.setSn k x).gStage = d.gStage := rfl
@[simp] theorem Dev.setSn_fade (k : Nat) (x : Session) : (d.setSn k x).fade = d.fade := rfl
@[simp] theorem Dev.setSn_loopQ (k : Nat) (x : Session) : (d.setSn k x).loopQ = d.loopQ := rfl
@[simp] theorem Dev.setSn_stalled (k : Nat) (x : Session) : (d.setSn k x).stalled = d.stalled := rfl
@[simp] theorem Dev.setSn_cal (k : Nat) (x : Session) : (d.setSn k x).cal = d.cal := rfl
@[simp] theorem Dev.setSn_pe (k : Nat) (x : Session) : (d.setSn k x).pe = d.pe := rfl
@[simp] theorem Dev.setSn_sched (k : Nat) (x : Session) : (d.setSn k x).sched = d.sched := rfl
@[simp] theorem Dev.setSn_bist (k : Nat) (x : Session) : (d.setSn k x).bist = d.bist := rfl
@[simp] theorem Dev.setSn_flt (k : Nat) (x : Session) : (d.setSn k x).flt = d.flt := rfl
@[simp] theorem Dev.setSn_links (k : Nat) (x : Session) : (d.setSn k x).links = d.links := rfl
@[simp] theorem Dev.setSn_rings (k : Nat) (x : Session) : (d.setSn k x).rings = d.rings := rfl
@[simp] theorem Dev.setSn_nvmQ (k : Nat) (x : Session) : (d.setSn k x).nvmQ = d.nvmQ := rfl
@[simp] theorem Dev.setSn_nvmCur (k : Nat) (x : Session) : (d.setSn k x).nvmCur = d.nvmCur := rfl
@[simp] theorem Dev.setSn_sec (k : Nat) (x : Session) : (d.setSn k x).sec = d.sec := rfl
@[simp] theorem Dev.setSn_pln (k : Nat) (x : Session) : (d.setSn k x).pln = d.pln := rfl
@[simp] theorem Dev.setSn_boot (k : Nat) (x : Session) : (d.setSn k x).boot = d.boot := rfl
@[simp] theorem Dev.setSn_poison (k : Nat) (x : Session) : (d.setSn k x).poison = d.poison := rfl
@[simp] theorem Dev.setSn_out (k : Nat) (x : Session) : (d.setSn k x).out = d.out := rfl
@[simp] theorem Dev.setSn_dbg (k : Nat) (x : Session) : (d.setSn k x).dbg = d.dbg := rfl
@[simp] theorem Dev.setSn_reply (k : Nat) (x : Session) : (d.setSn k x).reply = d.reply := rfl
@[simp] theorem Dev.setSn_replyEp (k : Nat) (x : Session) : (d.setSn k x).replyEp = d.replyEp := rfl
@[simp] theorem Dev.setSn_smb (k : Nat) (x : Session) : (d.setSn k x).smb = d.smb := rfl
@[simp] theorem Dev.setSn_tdo (k : Nat) (x : Session) : (d.setSn k x).tdo = d.tdo := rfl
@[simp] theorem Dev.setSn_undo (k : Nat) (x : Session) : (d.setSn k x).undo = d.undo := rfl
@[simp] theorem Dev.setSn_serves (k : Nat) (x : Session) : (d.setSn k x).serves = d.serves := rfl
@[simp] theorem Dev.setSn_reg (k : Nat) (x : Session) (j : Nat) : (d.setSn k x).reg j = d.reg j := rfl
@[simp] theorem Dev.setSn_lane (k : Nat) (x : Session) (j : Nat) : (d.setSn k x).lane j = d.lane j := rfl
@[simp] theorem Dev.setSn_cl (k : Nat) (x : Session) (j : Nat) : (d.setSn k x).cl j = d.cl j := rfl
@[simp] theorem Dev.setSn_ph (k : Nat) (x : Session) (i j : Nat) : (d.setSn k x).ph i j = d.ph i j := rfl
@[simp] theorem Dev.setSn_tmu (k : Nat) (x : Session) (i j : Nat) : (d.setSn k x).tmu i j = d.tmu i j := rfl
@[simp] theorem Dev.setSn_fq (k : Nat) (x : Session) (j : Nat) : (d.setSn k x).fq j = d.fq j := rfl
@[simp] theorem Dev.setSn_lg (k : Nat) (x : Session) (j : Nat) : (d.setSn k x).lg j = d.lg j := rfl
@[simp] theorem Dev.setSn_line (k : Nat) (x : Session) (j : Nat) : (d.setSn k x).line j = d.line j := rfl
@[simp] theorem Dev.setSn_ring (k : Nat) (x : Session) (j : Nat) : (d.setSn k x).ring j = d.ring j := rfl
@[simp] theorem Dev.setSn_source (k : Nat) (x : Session) (j : Nat) : (d.setSn k x).source j = d.source j := rfl

/-! ### modSn -/

@[simp] theorem Dev.modSn_epoch (k : Nat) (x : Session → Session) : (d.modSn k x).epoch = d.epoch := rfl
@[simp] theorem Dev.modSn_up (k : Nat) (x : Session → Session) : (d.modSn k x).up = d.up := rfl
@[simp] theorem Dev.modSn_free (k : Nat) (x : Session → Session) : (d.modSn k x).free = d.free := rfl
@[simp] theorem Dev.modSn_options (k : Nat) (x : Session → Session) : (d.modSn k x).options = d.options := rfl
@[simp] theorem Dev.modSn_regs (k : Nat) (x : Session → Session) : (d.modSn k x).regs = d.regs := rfl
@[simp] theorem Dev.modSn_hold (k : Nat) (x : Session → Session) : (d.modSn k x).hold = d.hold := rfl
@[simp] theorem Dev.modSn_capt (k : Nat) (x : Session → Session) : (d.modSn k x).capt = d.capt := rfl
@[simp] theorem Dev.modSn_fresh (k : Nat) (x : Session → Session) : (d.modSn k x).fresh = d.fresh := rfl
@[simp] theorem Dev.modSn_pageReset (k : Nat) (x : Session → Session) : (d.modSn k x).pageReset = d.pageReset := rfl
@[simp] theorem Dev.modSn_ports (k : Nat) (x : Session → Session) : (d.modSn k x).ports = d.ports := rfl
@[simp] theorem Dev.modSn_again (k : Nat) (x : Session → Session) : (d.modSn k x).again = d.again := rfl
@[simp] theorem Dev.modSn_tb (k : Nat) (x : Session → Session) : (d.modSn k x).tb = d.tb := rfl
@[simp] theorem Dev.modSn_dirum (k : Nat) (x : Session → Session) : (d.modSn k x).dirum = d.dirum := rfl
@[simp] theorem Dev.modSn_lgs (k : Nat) (x : Session → Session) : (d.modSn k x).lgs = d.lgs := rfl
@[simp] theorem Dev.modSn_lanes (k : Nat) (x : Session → Session) : (d.modSn k x).lanes = d.lanes := rfl
@[simp] theorem Dev.modSn_phys (k : Nat) (x : Session → Session) : (d.modSn k x).phys = d.phys := rfl
@[simp] theorem Dev.modSn_tmus (k : Nat) (x : Session → Session) : (d.modSn k x).tmus = d.tmus := rfl
@[simp] theorem Dev.modSn_freqs (k : Nat) (x : Session → Session) : (d.modSn k x).freqs = d.freqs := rfl
@[simp] theorem Dev.modSn_fins (k : Nat) (x : Session → Session) : (d.modSn k x).fins = d.fins := rfl
@[simp] theorem Dev.modSn_clusters (k : Nat) (x : Session → Session) : (d.modSn k x).clusters = d.clusters := rfl
@[simp] theorem Dev.modSn_lines (k : Nat) (x : Session → Session) : (d.modSn k x).lines = d.lines := rfl
@[simp] theorem Dev.modSn_gmx (k : Nat) (x : Session → Session) : (d.modSn k x).gmx = d.gmx := rfl
@[simp] theorem Dev.modSn_gStage (k : Nat) (x : Session → Session) : (d.modSn k x).gStage = d.gStage := rfl
@[simp] theorem Dev.modSn_fade (k : Nat) (x : Session → Session) : (d.modSn k x).fade = d.fade := rfl
@[simp] theorem Dev.modSn_loopQ (k : Nat) (x : Session → Session) : (d.modSn k x).loopQ = d.loopQ := rfl
@[simp] theorem Dev.modSn_stalled (k : Nat) (x : Session → Session) : (d.modSn k x).stalled = d.stalled := rfl
@[simp] theorem Dev.modSn_cal (k : Nat) (x : Session → Session) : (d.modSn k x).cal = d.cal := rfl
@[simp] theorem Dev.modSn_pe (k : Nat) (x : Session → Session) : (d.modSn k x).pe = d.pe := rfl
@[simp] theorem Dev.modSn_sched (k : Nat) (x : Session → Session) : (d.modSn k x).sched = d.sched := rfl
@[simp] theorem Dev.modSn_bist (k : Nat) (x : Session → Session) : (d.modSn k x).bist = d.bist := rfl
@[simp] theorem Dev.modSn_flt (k : Nat) (x : Session → Session) : (d.modSn k x).flt = d.flt := rfl
@[simp] theorem Dev.modSn_links (k : Nat) (x : Session → Session) : (d.modSn k x).links = d.links := rfl
@[simp] theorem Dev.modSn_rings (k : Nat) (x : Session → Session) : (d.modSn k x).rings = d.rings := rfl
@[simp] theorem Dev.modSn_nvmQ (k : Nat) (x : Session → Session) : (d.modSn k x).nvmQ = d.nvmQ := rfl
@[simp] theorem Dev.modSn_nvmCur (k : Nat) (x : Session → Session) : (d.modSn k x).nvmCur = d.nvmCur := rfl
@[simp] theorem Dev.modSn_sec (k : Nat) (x : Session → Session) : (d.modSn k x).sec = d.sec := rfl
@[simp] theorem Dev.modSn_pln (k : Nat) (x : Session → Session) : (d.modSn k x).pln = d.pln := rfl
@[simp] theorem Dev.modSn_boot (k : Nat) (x : Session → Session) : (d.modSn k x).boot = d.boot := rfl
@[simp] theorem Dev.modSn_poison (k : Nat) (x : Session → Session) : (d.modSn k x).poison = d.poison := rfl
@[simp] theorem Dev.modSn_out (k : Nat) (x : Session → Session) : (d.modSn k x).out = d.out := rfl
@[simp] theorem Dev.modSn_dbg (k : Nat) (x : Session → Session) : (d.modSn k x).dbg = d.dbg := rfl
@[simp] theorem Dev.modSn_reply (k : Nat) (x : Session → Session) : (d.modSn k x).reply = d.reply := rfl
@[simp] theorem Dev.modSn_replyEp (k : Nat) (x : Session → Session) : (d.modSn k x).replyEp = d.replyEp := rfl
@[simp] theorem Dev.modSn_smb (k : Nat) (x : Session → Session) : (d.modSn k x).smb = d.smb := rfl
@[simp] theorem Dev.modSn_tdo (k : Nat) (x : Session → Session) : (d.modSn k x).tdo = d.tdo := rfl
@[simp] theorem Dev.modSn_undo (k : Nat) (x : Session → Session) : (d.modSn k x).undo = d.undo := rfl
@[simp] theorem Dev.modSn_serves (k : Nat) (x : Session → Session) : (d.modSn k x).serves = d.serves := rfl
@[simp] theorem Dev.modSn_reg (k : Nat) (x : Session → Session) (j : Nat) : (d.modSn k x).reg j = d.reg j := rfl
@[simp] theorem Dev.modSn_lane (k : Nat) (x : Session → Session) (j : Nat) : (d.modSn k x).lane j = d.lane j := rfl
@[simp] theorem Dev.modSn_cl (k : Nat) (x : Session → Session) (j : Nat) : (d.modSn k x).cl j = d.cl j := rfl
@[simp] theorem Dev.modSn_ph (k : Nat) (x : Session → Session) (i j : Nat) : (d.modSn k x).ph i j = d.ph i j := rfl
@[simp] theorem Dev.modSn_tmu (k : Nat) (x : Session → Session) (i j : Nat) : (d.modSn k x).tmu i j = d.tmu i j := rfl
@[simp] theorem Dev.modSn_fq (k : Nat) (x : Session → Session) (j : Nat) : (d.modSn k x).fq j = d.fq j := rfl
@[simp] theorem Dev.modSn_lg (k : Nat) (x : Session → Session) (j : Nat) : (d.modSn k x).lg j = d.lg j := rfl
@[simp] theorem Dev.modSn_line (k : Nat) (x : Session → Session) (j : Nat) : (d.modSn k x).line j = d.line j := rfl
@[simp] theorem Dev.modSn_ring (k : Nat) (x : Session → Session) (j : Nat) : (d.modSn k x).ring j = d.ring j := rfl
@[simp] theorem Dev.modSn_source (k : Nat) (x : Session → Session) (j : Nat) : (d.modSn k x).source j = d.source j := rfl

/-! ### setRing -/

@[simp] theorem Dev.setRing_epoch (k : Nat) (x : Option Ring) : (d.setRing k x).epoch = d.epoch := rfl
@[simp] theorem Dev.setRing_up (k : Nat) (x : Option Ring) : (d.setRing k x).up = d.up := rfl
@[simp] theorem Dev.setRing_free (k : Nat) (x : Option Ring) : (d.setRing k x).free = d.free := rfl
@[simp] theorem Dev.setRing_options (k : Nat) (x : Option Ring) : (d.setRing k x).options = d.options := rfl
@[simp] theorem Dev.setRing_regs (k : Nat) (x : Option Ring) : (d.setRing k x).regs = d.regs := rfl
@[simp] theorem Dev.setRing_hold (k : Nat) (x : Option Ring) : (d.setRing k x).hold = d.hold := rfl
@[simp] theorem Dev.setRing_capt (k : Nat) (x : Option Ring) : (d.setRing k x).capt = d.capt := rfl
@[simp] theorem Dev.setRing_fresh (k : Nat) (x : Option Ring) : (d.setRing k x).fresh = d.fresh := rfl
@[simp] theorem Dev.setRing_pageReset (k : Nat) (x : Option Ring) : (d.setRing k x).pageReset = d.pageReset := rfl
@[simp] theorem Dev.setRing_ports (k : Nat) (x : Option Ring) : (d.setRing k x).ports = d.ports := rfl
@[simp] theorem Dev.setRing_again (k : Nat) (x : Option Ring) : (d.setRing k x).again = d.again := rfl
@[simp] theorem Dev.setRing_tb (k : Nat) (x : Option Ring) : (d.setRing k x).tb = d.tb := rfl
@[simp] theorem Dev.setRing_dirum (k : Nat) (x : Option Ring) : (d.setRing k x).dirum = d.dirum := rfl
@[simp] theorem Dev.setRing_lgs (k : Nat) (x : Option Ring) : (d.setRing k x).lgs = d.lgs := rfl
@[simp] theorem Dev.setRing_lanes (k : Nat) (x : Option Ring) : (d.setRing k x).lanes = d.lanes := rfl
@[simp] theorem Dev.setRing_phys (k : Nat) (x : Option Ring) : (d.setRing k x).phys = d.phys := rfl
@[simp] theorem Dev.setRing_tmus (k : Nat) (x : Option Ring) : (d.setRing k x).tmus = d.tmus := rfl
@[simp] theorem Dev.setRing_freqs (k : Nat) (x : Option Ring) : (d.setRing k x).freqs = d.freqs := rfl
@[simp] theorem Dev.setRing_fins (k : Nat) (x : Option Ring) : (d.setRing k x).fins = d.fins := rfl
@[simp] theorem Dev.setRing_clusters (k : Nat) (x : Option Ring) : (d.setRing k x).clusters = d.clusters := rfl
@[simp] theorem Dev.setRing_lines (k : Nat) (x : Option Ring) : (d.setRing k x).lines = d.lines := rfl
@[simp] theorem Dev.setRing_gmx (k : Nat) (x : Option Ring) : (d.setRing k x).gmx = d.gmx := rfl
@[simp] theorem Dev.setRing_gStage (k : Nat) (x : Option Ring) : (d.setRing k x).gStage = d.gStage := rfl
@[simp] theorem Dev.setRing_fade (k : Nat) (x : Option Ring) : (d.setRing k x).fade = d.fade := rfl
@[simp] theorem Dev.setRing_loopQ (k : Nat) (x : Option Ring) : (d.setRing k x).loopQ = d.loopQ := rfl
@[simp] theorem Dev.setRing_stalled (k : Nat) (x : Option Ring) : (d.setRing k x).stalled = d.stalled := rfl
@[simp] theorem Dev.setRing_cal (k : Nat) (x : Option Ring) : (d.setRing k x).cal = d.cal := rfl
@[simp] theorem Dev.setRing_pe (k : Nat) (x : Option Ring) : (d.setRing k x).pe = d.pe := rfl
@[simp] theorem Dev.setRing_sched (k : Nat) (x : Option Ring) : (d.setRing k x).sched = d.sched := rfl
@[simp] theorem Dev.setRing_bist (k : Nat) (x : Option Ring) : (d.setRing k x).bist = d.bist := rfl
@[simp] theorem Dev.setRing_flt (k : Nat) (x : Option Ring) : (d.setRing k x).flt = d.flt := rfl
@[simp] theorem Dev.setRing_sess (k : Nat) (x : Option Ring) : (d.setRing k x).sess = d.sess := rfl
@[simp] theorem Dev.setRing_links (k : Nat) (x : Option Ring) : (d.setRing k x).links = d.links := rfl
@[simp] theorem Dev.setRing_nvmQ (k : Nat) (x : Option Ring) : (d.setRing k x).nvmQ = d.nvmQ := rfl
@[simp] theorem Dev.setRing_nvmCur (k : Nat) (x : Option Ring) : (d.setRing k x).nvmCur = d.nvmCur := rfl
@[simp] theorem Dev.setRing_sec (k : Nat) (x : Option Ring) : (d.setRing k x).sec = d.sec := rfl
@[simp] theorem Dev.setRing_pln (k : Nat) (x : Option Ring) : (d.setRing k x).pln = d.pln := rfl
@[simp] theorem Dev.setRing_boot (k : Nat) (x : Option Ring) : (d.setRing k x).boot = d.boot := rfl
@[simp] theorem Dev.setRing_poison (k : Nat) (x : Option Ring) : (d.setRing k x).poison = d.poison := rfl
@[simp] theorem Dev.setRing_out (k : Nat) (x : Option Ring) : (d.setRing k x).out = d.out := rfl
@[simp] theorem Dev.setRing_dbg (k : Nat) (x : Option Ring) : (d.setRing k x).dbg = d.dbg := rfl
@[simp] theorem Dev.setRing_reply (k : Nat) (x : Option Ring) : (d.setRing k x).reply = d.reply := rfl
@[simp] theorem Dev.setRing_replyEp (k : Nat) (x : Option Ring) : (d.setRing k x).replyEp = d.replyEp := rfl
@[simp] theorem Dev.setRing_smb (k : Nat) (x : Option Ring) : (d.setRing k x).smb = d.smb := rfl
@[simp] theorem Dev.setRing_tdo (k : Nat) (x : Option Ring) : (d.setRing k x).tdo = d.tdo := rfl
@[simp] theorem Dev.setRing_undo (k : Nat) (x : Option Ring) : (d.setRing k x).undo = d.undo := rfl
@[simp] theorem Dev.setRing_serves (k : Nat) (x : Option Ring) : (d.setRing k x).serves = d.serves := rfl
@[simp] theorem Dev.setRing_reg (k : Nat) (x : Option Ring) (j : Nat) : (d.setRing k x).reg j = d.reg j := rfl
@[simp] theorem Dev.setRing_lane (k : Nat) (x : Option Ring) (j : Nat) : (d.setRing k x).lane j = d.lane j := rfl
@[simp] theorem Dev.setRing_cl (k : Nat) (x : Option Ring) (j : Nat) : (d.setRing k x).cl j = d.cl j := rfl
@[simp] theorem Dev.setRing_ph (k : Nat) (x : Option Ring) (i j : Nat) : (d.setRing k x).ph i j = d.ph i j := rfl
@[simp] theorem Dev.setRing_tmu (k : Nat) (x : Option Ring) (i j : Nat) : (d.setRing k x).tmu i j = d.tmu i j := rfl
@[simp] theorem Dev.setRing_fq (k : Nat) (x : Option Ring) (j : Nat) : (d.setRing k x).fq j = d.fq j := rfl
@[simp] theorem Dev.setRing_lg (k : Nat) (x : Option Ring) (j : Nat) : (d.setRing k x).lg j = d.lg j := rfl
@[simp] theorem Dev.setRing_line (k : Nat) (x : Option Ring) (j : Nat) : (d.setRing k x).line j = d.line j := rfl
@[simp] theorem Dev.setRing_sn (k : Nat) (x : Option Ring) (j : Nat) : (d.setRing k x).sn j = d.sn j := rfl
@[simp] theorem Dev.setRing_source (k : Nat) (x : Option Ring) (j : Nat) : (d.setRing k x).source j = d.source j := rfl

/-! ### setSource -/

@[simp] theorem Dev.setSource_epoch (k : Nat) (x : Source) : (d.setSource k x).epoch = d.epoch := rfl
@[simp] theorem Dev.setSource_up (k : Nat) (x : Source) : (d.setSource k x).up = d.up := rfl
@[simp] theorem Dev.setSource_free (k : Nat) (x : Source) : (d.setSource k x).free = d.free := rfl
@[simp] theorem Dev.setSource_options (k : Nat) (x : Source) : (d.setSource k x).options = d.options := rfl
@[simp] theorem Dev.setSource_regs (k : Nat) (x : Source) : (d.setSource k x).regs = d.regs := rfl
@[simp] theorem Dev.setSource_hold (k : Nat) (x : Source) : (d.setSource k x).hold = d.hold := rfl
@[simp] theorem Dev.setSource_capt (k : Nat) (x : Source) : (d.setSource k x).capt = d.capt := rfl
@[simp] theorem Dev.setSource_fresh (k : Nat) (x : Source) : (d.setSource k x).fresh = d.fresh := rfl
@[simp] theorem Dev.setSource_pageReset (k : Nat) (x : Source) : (d.setSource k x).pageReset = d.pageReset := rfl
@[simp] theorem Dev.setSource_ports (k : Nat) (x : Source) : (d.setSource k x).ports = d.ports := rfl
@[simp] theorem Dev.setSource_again (k : Nat) (x : Source) : (d.setSource k x).again = d.again := rfl
@[simp] theorem Dev.setSource_tb (k : Nat) (x : Source) : (d.setSource k x).tb = d.tb := rfl
@[simp] theorem Dev.setSource_dirum (k : Nat) (x : Source) : (d.setSource k x).dirum = d.dirum := rfl
@[simp] theorem Dev.setSource_lgs (k : Nat) (x : Source) : (d.setSource k x).lgs = d.lgs := rfl
@[simp] theorem Dev.setSource_lanes (k : Nat) (x : Source) : (d.setSource k x).lanes = d.lanes := rfl
@[simp] theorem Dev.setSource_phys (k : Nat) (x : Source) : (d.setSource k x).phys = d.phys := rfl
@[simp] theorem Dev.setSource_tmus (k : Nat) (x : Source) : (d.setSource k x).tmus = d.tmus := rfl
@[simp] theorem Dev.setSource_freqs (k : Nat) (x : Source) : (d.setSource k x).freqs = d.freqs := rfl
@[simp] theorem Dev.setSource_fins (k : Nat) (x : Source) : (d.setSource k x).fins = d.fins := rfl
@[simp] theorem Dev.setSource_clusters (k : Nat) (x : Source) : (d.setSource k x).clusters = d.clusters := rfl
@[simp] theorem Dev.setSource_lines (k : Nat) (x : Source) : (d.setSource k x).lines = d.lines := rfl
@[simp] theorem Dev.setSource_gmx (k : Nat) (x : Source) : (d.setSource k x).gmx = d.gmx := rfl
@[simp] theorem Dev.setSource_gStage (k : Nat) (x : Source) : (d.setSource k x).gStage = d.gStage := rfl
@[simp] theorem Dev.setSource_fade (k : Nat) (x : Source) : (d.setSource k x).fade = d.fade := rfl
@[simp] theorem Dev.setSource_loopQ (k : Nat) (x : Source) : (d.setSource k x).loopQ = d.loopQ := rfl
@[simp] theorem Dev.setSource_stalled (k : Nat) (x : Source) : (d.setSource k x).stalled = d.stalled := rfl
@[simp] theorem Dev.setSource_cal (k : Nat) (x : Source) : (d.setSource k x).cal = d.cal := rfl
@[simp] theorem Dev.setSource_pe (k : Nat) (x : Source) : (d.setSource k x).pe = d.pe := rfl
@[simp] theorem Dev.setSource_sched (k : Nat) (x : Source) : (d.setSource k x).sched = d.sched := rfl
@[simp] theorem Dev.setSource_bist (k : Nat) (x : Source) : (d.setSource k x).bist = d.bist := rfl
@[simp] theorem Dev.setSource_sess (k : Nat) (x : Source) : (d.setSource k x).sess = d.sess := rfl
@[simp] theorem Dev.setSource_links (k : Nat) (x : Source) : (d.setSource k x).links = d.links := rfl
@[simp] theorem Dev.setSource_rings (k : Nat) (x : Source) : (d.setSource k x).rings = d.rings := rfl
@[simp] theorem Dev.setSource_nvmQ (k : Nat) (x : Source) : (d.setSource k x).nvmQ = d.nvmQ := rfl
@[simp] theorem Dev.setSource_nvmCur (k : Nat) (x : Source) : (d.setSource k x).nvmCur = d.nvmCur := rfl
@[simp] theorem Dev.setSource_sec (k : Nat) (x : Source) : (d.setSource k x).sec = d.sec := rfl
@[simp] theorem Dev.setSource_pln (k : Nat) (x : Source) : (d.setSource k x).pln = d.pln := rfl
@[simp] theorem Dev.setSource_boot (k : Nat) (x : Source) : (d.setSource k x).boot = d.boot := rfl
@[simp] theorem Dev.setSource_poison (k : Nat) (x : Source) : (d.setSource k x).poison = d.poison := rfl
@[simp] theorem Dev.setSource_out (k : Nat) (x : Source) : (d.setSource k x).out = d.out := rfl
@[simp] theorem Dev.setSource_dbg (k : Nat) (x : Source) : (d.setSource k x).dbg = d.dbg := rfl
@[simp] theorem Dev.setSource_reply (k : Nat) (x : Source) : (d.setSource k x).reply = d.reply := rfl
@[simp] theorem Dev.setSource_replyEp (k : Nat) (x : Source) : (d.setSource k x).replyEp = d.replyEp := rfl
@[simp] theorem Dev.setSource_smb (k : Nat) (x : Source) : (d.setSource k x).smb = d.smb := rfl
@[simp] theorem Dev.setSource_tdo (k : Nat) (x : Source) : (d.setSource k x).tdo = d.tdo := rfl
@[simp] theorem Dev.setSource_undo (k : Nat) (x : Source) : (d.setSource k x).undo = d.undo := rfl
@[simp] theorem Dev.setSource_serves (k : Nat) (x : Source) : (d.setSource k x).serves = d.serves := rfl
@[simp] theorem Dev.setSource_reg (k : Nat) (x : Source) (j : Nat) : (d.setSource k x).reg j = d.reg j := rfl
@[simp] theorem Dev.setSource_lane (k : Nat) (x : Source) (j : Nat) : (d.setSource k x).lane j = d.lane j := rfl
@[simp] theorem Dev.setSource_cl (k : Nat) (x : Source) (j : Nat) : (d.setSource k x).cl j = d.cl j := rfl
@[simp] theorem Dev.setSource_ph (k : Nat) (x : Source) (i j : Nat) : (d.setSource k x).ph i j = d.ph i j := rfl
@[simp] theorem Dev.setSource_tmu (k : Nat) (x : Source) (i j : Nat) : (d.setSource k x).tmu i j = d.tmu i j := rfl
@[simp] theorem Dev.setSource_fq (k : Nat) (x : Source) (j : Nat) : (d.setSource k x).fq j = d.fq j := rfl
@[simp] theorem Dev.setSource_lg (k : Nat) (x : Source) (j : Nat) : (d.setSource k x).lg j = d.lg j := rfl
@[simp] theorem Dev.setSource_line (k : Nat) (x : Source) (j : Nat) : (d.setSource k x).line j = d.line j := rfl
@[simp] theorem Dev.setSource_sn (k : Nat) (x : Source) (j : Nat) : (d.setSource k x).sn j = d.sn j := rfl
@[simp] theorem Dev.setSource_ring (k : Nat) (x : Source) (j : Nat) : (d.setSource k x).ring j = d.ring j := rfl

/-! ### set -/

/-- The only parts that `set` can change. -/
theorem Dev.set_only (f : Fld) (v : Nat) :
    d.set f v = { d with regs := (d.set f v).regs } :=
  by unfold Dev.set; split <;> rfl

@[simp] theorem Dev.set_epoch (f : Fld) (v : Nat) : (d.set f v).epoch = d.epoch := 
  (congrArg (fun x : Dev => x.epoch) (d.set_only f v) :)
@[simp] theorem Dev.set_up (f : Fld) (v : Nat) : (d.set f v).up = d.up := 
  (congrArg (fun x : Dev => x.up) (d.set_only f v) :)
@[simp] theorem Dev.set_free (f : Fld) (v : Nat) : (d.set f v).free = d.free := 
  (congrArg (fun x : Dev => x.free) (d.set_only f v) :)
@[simp] theorem Dev.set_options (f : Fld) (v : Nat) : (d.set f v).options = d.options := 
  (congrArg (fun x : Dev => x.options) (d.set_only f v) :)
@[simp] theorem Dev.set_hold (f : Fld) (v : Nat) : (d.set f v).hold = d.hold := 
  (congrArg (fun x : Dev => x.hold) (d.set_only f v) :)
@[simp] theorem Dev.set_capt (f : Fld) (v : Nat) : (d.set f v).capt = d.capt := 
  (congrArg (fun x : Dev => x.capt) (d.set_only f v) :)
@[simp] theorem Dev.set_fresh (f : Fld) (v : Nat) : (d.set f v).fresh = d.fresh := 
  (congrArg (fun x : Dev => x.fresh) (d.set_only f v) :)
@[simp] theorem Dev.set_pageReset (f : Fld) (v : Nat) : (d.set f v).pageReset = d.pageReset := 
  (congrArg (fun x : Dev => x.pageReset) (d.set_only f v) :)
@[simp] theorem Dev.set_ports (f : Fld) (v : Nat) : (d.set f v).ports = d.ports := 
  (congrArg (fun x : Dev => x.ports) (d.set_only f v) :)
@[simp] theorem Dev.set_again (f : Fld) (v : Nat) : (d.set f v).again = d.again := 
  (congrArg (fun x : Dev => x.again) (d.set_only f v) :)
@[simp] theorem Dev.set_tb (f : Fld) (v : Nat) : (d.set f v).tb = d.tb := 
  (congrArg (fun x : Dev => x.tb) (d.set_only f v) :)
@[simp] theorem Dev.set_dirum (f : Fld) (v : Nat) : (d.set f v).dirum = d.dirum := 
  (congrArg (fun x : Dev => x.dirum) (d.set_only f v) :)
@[simp] theorem Dev.set_lgs (f : Fld) (v : Nat) : (d.set f v).lgs = d.lgs := 
  (congrArg (fun x : Dev => x.lgs) (d.set_only f v) :)
@[simp] theorem Dev.set_lanes (f : Fld) (v : Nat) : (d.set f v).lanes = d.lanes := 
  (congrArg (fun x : Dev => x.lanes) (d.set_only f v) :)
@[simp] theorem Dev.set_phys (f : Fld) (v : Nat) : (d.set f v).phys = d.phys := 
  (congrArg (fun x : Dev => x.phys) (d.set_only f v) :)
@[simp] theorem Dev.set_tmus (f : Fld) (v : Nat) : (d.set f v).tmus = d.tmus := 
  (congrArg (fun x : Dev => x.tmus) (d.set_only f v) :)
@[simp] theorem Dev.set_freqs (f : Fld) (v : Nat) : (d.set f v).freqs = d.freqs := 
  (congrArg (fun x : Dev => x.freqs) (d.set_only f v) :)
@[simp] theorem Dev.set_fins (f : Fld) (v : Nat) : (d.set f v).fins = d.fins := 
  (congrArg (fun x : Dev => x.fins) (d.set_only f v) :)
@[simp] theorem Dev.set_clusters (f : Fld) (v : Nat) : (d.set f v).clusters = d.clusters := 
  (congrArg (fun x : Dev => x.clusters) (d.set_only f v) :)
@[simp] theorem Dev.set_lines (f : Fld) (v : Nat) : (d.set f v).lines = d.lines := 
  (congrArg (fun x : Dev => x.lines) (d.set_only f v) :)
@[simp] theorem Dev.set_gmx (f : Fld) (v : Nat) : (d.set f v).gmx = d.gmx := 
  (congrArg (fun x : Dev => x.gmx) (d.set_only f v) :)
@[simp] theorem Dev.set_gStage (f : Fld) (v : Nat) : (d.set f v).gStage = d.gStage := 
  (congrArg (fun x : Dev => x.gStage) (d.set_only f v) :)
@[simp] theorem Dev.set_fade (f : Fld) (v : Nat) : (d.set f v).fade = d.fade := 
  (congrArg (fun x : Dev => x.fade) (d.set_only f v) :)
@[simp] theorem Dev.set_loopQ (f : Fld) (v : Nat) : (d.set f v).loopQ = d.loopQ := 
  (congrArg (fun x : Dev => x.loopQ) (d.set_only f v) :)
@[simp] theorem Dev.set_stalled (f : Fld) (v : Nat) : (d.set f v).stalled = d.stalled := 
  (congrArg (fun x : Dev => x.stalled) (d.set_only f v) :)
@[simp] theorem Dev.set_cal (f : Fld) (v : Nat) : (d.set f v).cal = d.cal := 
  (congrArg (fun x : Dev => x.cal) (d.set_only f v) :)
@[simp] theorem Dev.set_pe (f : Fld) (v : Nat) : (d.set f v).pe = d.pe := 
  (congrArg (fun x : Dev => x.pe) (d.set_only f v) :)
@[simp] theorem Dev.set_sched (f : Fld) (v : Nat) : (d.set f v).sched = d.sched := 
  (congrArg (fun x : Dev => x.sched) (d.set_only f v) :)
@[simp] theorem Dev.set_bist (f : Fld) (v : Nat) : (d.set f v).bist = d.bist := 
  (congrArg (fun x : Dev => x.bist) (d.set_only f v) :)
@[simp] theorem Dev.set_flt (f : Fld) (v : Nat) : (d.set f v).flt = d.flt := 
  (congrArg (fun x : Dev => x.flt) (d.set_only f v) :)
@[simp] theorem Dev.set_sess (f : Fld) (v : Nat) : (d.set f v).sess = d.sess := 
  (congrArg (fun x : Dev => x.sess) (d.set_only f v) :)
@[simp] theorem Dev.set_links (f : Fld) (v : Nat) : (d.set f v).links = d.links := 
  (congrArg (fun x : Dev => x.links) (d.set_only f v) :)
@[simp] theorem Dev.set_rings (f : Fld) (v : Nat) : (d.set f v).rings = d.rings := 
  (congrArg (fun x : Dev => x.rings) (d.set_only f v) :)
@[simp] theorem Dev.set_nvmQ (f : Fld) (v : Nat) : (d.set f v).nvmQ = d.nvmQ := 
  (congrArg (fun x : Dev => x.nvmQ) (d.set_only f v) :)
@[simp] theorem Dev.set_nvmCur (f : Fld) (v : Nat) : (d.set f v).nvmCur = d.nvmCur := 
  (congrArg (fun x : Dev => x.nvmCur) (d.set_only f v) :)
@[simp] theorem Dev.set_sec (f : Fld) (v : Nat) : (d.set f v).sec = d.sec := 
  (congrArg (fun x : Dev => x.sec) (d.set_only f v) :)
@[simp] theorem Dev.set_pln (f : Fld) (v : Nat) : (d.set f v).pln = d.pln := 
  (congrArg (fun x : Dev => x.pln) (d.set_only f v) :)
@[simp] theorem Dev.set_boot (f : Fld) (v : Nat) : (d.set f v).boot = d.boot := 
  (congrArg (fun x : Dev => x.boot) (d.set_only f v) :)
@[simp] theorem Dev.set_poison (f : Fld) (v : Nat) : (d.set f v).poison = d.poison := 
  (congrArg (fun x : Dev => x.poison) (d.set_only f v) :)
@[simp] theorem Dev.set_out (f : Fld) (v : Nat) : (d.set f v).out = d.out := 
  (congrArg (fun x : Dev => x.out) (d.set_only f v) :)
@[simp] theorem Dev.set_dbg (f : Fld) (v : Nat) : (d.set f v).dbg = d.dbg := 
  (congrArg (fun x : Dev => x.dbg) (d.set_only f v) :)
@[simp] theorem Dev.set_reply (f : Fld) (v : Nat) : (d.set f v).reply = d.reply := 
  (congrArg (fun x : Dev => x.reply) (d.set_only f v) :)
@[simp] theorem Dev.set_replyEp (f : Fld) (v : Nat) : (d.set f v).replyEp = d.replyEp := 
  (congrArg (fun x : Dev => x.replyEp) (d.set_only f v) :)
@[simp] theorem Dev.set_smb (f : Fld) (v : Nat) : (d.set f v).smb = d.smb := 
  (congrArg (fun x : Dev => x.smb) (d.set_only f v) :)
@[simp] theorem Dev.set_tdo (f : Fld) (v : Nat) : (d.set f v).tdo = d.tdo := 
  (congrArg (fun x : Dev => x.tdo) (d.set_only f v) :)
@[simp] theorem Dev.set_undo (f : Fld) (v : Nat) : (d.set f v).undo = d.undo := 
  (congrArg (fun x : Dev => x.undo) (d.set_only f v) :)
@[simp] theorem Dev.set_serves (f : Fld) (v : Nat) : (d.set f v).serves = d.serves := 
  (congrArg (fun x : Dev => x.serves) (d.set_only f v) :)
@[simp] theorem Dev.set_lane (f : Fld) (v : Nat) (j : Nat) : (d.set f v).lane j = d.lane j := 
  (congrArg (fun x => x.lane j) (d.set_only f v) :)
@[simp] theorem Dev.set_cl (f : Fld) (v : Nat) (j : Nat) : (d.set f v).cl j = d.cl j := 
  (congrArg (fun x => x.cl j) (d.set_only f v) :)
@[simp] theorem Dev.set_ph (f : Fld) (v : Nat) (i j : Nat) : (d.set f v).ph i j = d.ph i j := 
  (congrArg (fun x => x.ph i j) (d.set_only f v) :)
@[simp] theorem Dev.set_tmu (f : Fld) (v : Nat) (i j : Nat) : (d.set f v).tmu i j = d.tmu i j := 
  (congrArg (fun x => x.tmu i j) (d.set_only f v) :)
@[simp] theorem Dev.set_fq (f : Fld) (v : Nat) (j : Nat) : (d.set f v).fq j = d.fq j := 
  (congrArg (fun x => x.fq j) (d.set_only f v) :)
@[simp] theorem Dev.set_lg (f : Fld) (v : Nat) (j : Nat) : (d.set f v).lg j = d.lg j := 
  (congrArg (fun x => x.lg j) (d.set_only f v) :)
@[simp] theorem Dev.set_line (f : Fld) (v : Nat) (j : Nat) : (d.set f v).line j = d.line j := 
  (congrArg (fun x => x.line j) (d.set_only f v) :)
@[simp] theorem Dev.set_sn (f : Fld) (v : Nat) (j : Nat) : (d.set f v).sn j = d.sn j := 
  (congrArg (fun x => x.sn j) (d.set_only f v) :)
@[simp] theorem Dev.set_ring (f : Fld) (v : Nat) (j : Nat) : (d.set f v).ring j = d.ring j := 
  (congrArg (fun x => x.ring j) (d.set_only f v) :)
@[simp] theorem Dev.set_source (f : Fld) (v : Nat) (j : Nat) : (d.set f v).source j = d.source j := 
  (congrArg (fun x => x.source j) (d.set_only f v) :)

/-! ### setInt -/

/-- The only parts that `setInt` can change. -/
theorem Dev.setInt_only (f : Fld) (v : Int) :
    d.setInt f v = { d with regs := (d.setInt f v).regs } :=
  d.set_only f _

@[simp] theorem Dev.setInt_epoch (f : Fld) (v : Int) : (d.setInt f v).epoch = d.epoch := 
  (congrArg (fun x : Dev => x.epoch) (d.setInt_only f v) :)
@[simp] theorem Dev.setInt_up (f : Fld) (v : Int) : (d.setInt f v).up = d.up := 
  (congrArg (fun x : Dev => x.up) (d.setInt_only f v) :)
@[simp] theorem Dev.setInt_free (f : Fld) (v : Int) : (d.setInt f v).free = d.free := 
  (congrArg (fun x : Dev => x.free) (d.setInt_only f v) :)
@[simp] theorem Dev.setInt_options (f : Fld) (v : Int) : (d.setInt f v).options = d.options := 
  (congrArg (fun x : Dev => x.options) (d.setInt_only f v) :)
@[simp] theorem Dev.setInt_hold (f : Fld) (v : Int) : (d.setInt f v).hold = d.hold := 
  (congrArg (fun x : Dev => x.hold) (d.setInt_only f v) :)
@[simp] theorem Dev.setInt_capt (f : Fld) (v : Int) : (d.setInt f v).capt = d.capt := 
  (congrArg (fun x : Dev => x.capt) (d.setInt_only f v) :)
@[simp] theorem Dev.setInt_fresh (f : Fld) (v : Int) : (d.setInt f v).fresh = d.fresh := 
  (congrArg (fun x : Dev => x.fresh) (d.setInt_only f v) :)
@[simp] theorem Dev.setInt_pageReset (f : Fld) (v : Int) : (d.setInt f v).pageReset = d.pageReset := 
  (congrArg (fun x : Dev => x.pageReset) (d.setInt_only f v) :)
@[simp] theorem Dev.setInt_ports (f : Fld) (v : Int) : (d.setInt f v).ports = d.ports := 
  (congrArg (fun x : Dev => x.ports) (d.setInt_only f v) :)
@[simp] theorem Dev.setInt_again (f : Fld) (v : Int) : (d.setInt f v).again = d.again := 
  (congrArg (fun x : Dev => x.again) (d.setInt_only f v) :)
@[simp] theorem Dev.setInt_tb (f : Fld) (v : Int) : (d.setInt f v).tb = d.tb := 
  (congrArg (fun x : Dev => x.tb) (d.setInt_only f v) :)
@[simp] theorem Dev.setInt_dirum (f : Fld) (v : Int) : (d.setInt f v).dirum = d.dirum := 
  (congrArg (fun x : Dev => x.dirum) (d.setInt_only f v) :)
@[simp] theorem Dev.setInt_lgs (f : Fld) (v : Int) : (d.setInt f v).lgs = d.lgs := 
  (congrArg (fun x : Dev => x.lgs) (d.setInt_only f v) :)
@[simp] theorem Dev.setInt_lanes (f : Fld) (v : Int) : (d.setInt f v).lanes = d.lanes := 
  (congrArg (fun x : Dev => x.lanes) (d.setInt_only f v) :)
@[simp] theorem Dev.setInt_phys (f : Fld) (v : Int) : (d.setInt f v).phys = d.phys := 
  (congrArg (fun x : Dev => x.phys) (d.setInt_only f v) :)
@[simp] theorem Dev.setInt_tmus (f : Fld) (v : Int) : (d.setInt f v).tmus = d.tmus := 
  (congrArg (fun x : Dev => x.tmus) (d.setInt_only f v) :)
@[simp] theorem Dev.setInt_freqs (f : Fld) (v : Int) : (d.setInt f v).freqs = d.freqs := 
  (congrArg (fun x : Dev => x.freqs) (d.setInt_only f v) :)
@[simp] theorem Dev.setInt_fins (f : Fld) (v : Int) : (d.setInt f v).fins = d.fins := 
  (congrArg (fun x : Dev => x.fins) (d.setInt_only f v) :)
@[simp] theorem Dev.setInt_clusters (f : Fld) (v : Int) : (d.setInt f v).clusters = d.clusters := 
  (congrArg (fun x : Dev => x.clusters) (d.setInt_only f v) :)
@[simp] theorem Dev.setInt_lines (f : Fld) (v : Int) : (d.setInt f v).lines = d.lines := 
  (congrArg (fun x : Dev => x.lines) (d.setInt_only f v) :)
@[simp] theorem Dev.setInt_gmx (f : Fld) (v : Int) : (d.setInt f v).gmx = d.gmx := 
  (congrArg (fun x : Dev => x.gmx) (d.setInt_only f v) :)
@[simp] theorem Dev.setInt_gStage (f : Fld) (v : Int) : (d.setInt f v).gStage = d.gStage := 
  (congrArg (fun x : Dev => x.gStage) (d.setInt_only f v) :)
@[simp] theorem Dev.setInt_fade (f : Fld) (v : Int) : (d.setInt f v).fade = d.fade := 
  (congrArg (fun x : Dev => x.fade) (d.setInt_only f v) :)
@[simp] theorem Dev.setInt_loopQ (f : Fld) (v : Int) : (d.setInt f v).loopQ = d.loopQ := 
  (congrArg (fun x : Dev => x.loopQ) (d.setInt_only f v) :)
@[simp] theorem Dev.setInt_stalled (f : Fld) (v : Int) : (d.setInt f v).stalled = d.stalled := 
  (congrArg (fun x : Dev => x.stalled) (d.setInt_only f v) :)
@[simp] theorem Dev.setInt_cal (f : Fld) (v : Int) : (d.setInt f v).cal = d.cal := 
  (congrArg (fun x : Dev => x.cal) (d.setInt_only f v) :)
@[simp] theorem Dev.setInt_pe (f : Fld) (v : Int) : (d.setInt f v).pe = d.pe := 
  (congrArg (fun x : Dev => x.pe) (d.setInt_only f v) :)
@[simp] theorem Dev.setInt_sched (f : Fld) (v : Int) : (d.setInt f v).sched = d.sched := 
  (congrArg (fun x : Dev => x.sched) (d.setInt_only f v) :)
@[simp] theorem Dev.setInt_bist (f : Fld) (v : Int) : (d.setInt f v).bist = d.bist := 
  (congrArg (fun x : Dev => x.bist) (d.setInt_only f v) :)
@[simp] theorem Dev.setInt_flt (f : Fld) (v : Int) : (d.setInt f v).flt = d.flt := 
  (congrArg (fun x : Dev => x.flt) (d.setInt_only f v) :)
@[simp] theorem Dev.setInt_sess (f : Fld) (v : Int) : (d.setInt f v).sess = d.sess := 
  (congrArg (fun x : Dev => x.sess) (d.setInt_only f v) :)
@[simp] theorem Dev.setInt_links (f : Fld) (v : Int) : (d.setInt f v).links = d.links := 
  (congrArg (fun x : Dev => x.links) (d.setInt_only f v) :)
@[simp] theorem Dev.setInt_rings (f : Fld) (v : Int) : (d.setInt f v).rings = d.rings := 
  (congrArg (fun x : Dev => x.rings) (d.setInt_only f v) :)
@[simp] theorem Dev.setInt_nvmQ (f : Fld) (v : Int) : (d.setInt f v).nvmQ = d.nvmQ := 
  (congrArg (fun x : Dev => x.nvmQ) (d.setInt_only f v) :)
@[simp] theorem Dev.setInt_nvmCur (f : Fld) (v : Int) : (d.setInt f v).nvmCur = d.nvmCur := 
  (congrArg (fun x : Dev => x.nvmCur) (d.setInt_only f v) :)
@[simp] theorem Dev.setInt_sec (f : Fld) (v : Int) : (d.setInt f v).sec = d.sec := 
  (congrArg (fun x : Dev => x.sec) (d.setInt_only f v) :)
@[simp] theorem Dev.setInt_pln (f : Fld) (v : Int) : (d.setInt f v).pln = d.pln := 
  (congrArg (fun x : Dev => x.pln) (d.setInt_only f v) :)
@[simp] theorem Dev.setInt_boot (f : Fld) (v : Int) : (d.setInt f v).boot = d.boot := 
  (congrArg (fun x : Dev => x.boot) (d.setInt_only f v) :)
@[simp] theorem Dev.setInt_poison (f : Fld) (v : Int) : (d.setInt f v).poison = d.poison := 
  (congrArg (fun x : Dev => x.poison) (d.setInt_only f v) :)
@[simp] theorem Dev.setInt_out (f : Fld) (v : Int) : (d.setInt f v).out = d.out := 
  (congrArg (fun x : Dev => x.out) (d.setInt_only f v) :)
@[simp] theorem Dev.setInt_dbg (f : Fld) (v : Int) : (d.setInt f v).dbg = d.dbg := 
  (congrArg (fun x : Dev => x.dbg) (d.setInt_only f v) :)
@[simp] theorem Dev.setInt_reply (f : Fld) (v : Int) : (d.setInt f v).reply = d.reply := 
  (congrArg (fun x : Dev => x.reply) (d.setInt_only f v) :)
@[simp] theorem Dev.setInt_replyEp (f : Fld) (v : Int) : (d.setInt f v).replyEp = d.replyEp := 
  (congrArg (fun x : Dev => x.replyEp) (d.setInt_only f v) :)
@[simp] theorem Dev.setInt_smb (f : Fld) (v : Int) : (d.setInt f v).smb = d.smb := 
  (congrArg (fun x : Dev => x.smb) (d.setInt_only f v) :)
@[simp] theorem Dev.setInt_tdo (f : Fld) (v : Int) : (d.setInt f v).tdo = d.tdo := 
  (congrArg (fun x : Dev => x.tdo) (d.setInt_only f v) :)
@[simp] theorem Dev.setInt_undo (f : Fld) (v : Int) : (d.setInt f v).undo = d.undo := 
  (congrArg (fun x : Dev => x.undo) (d.setInt_only f v) :)
@[simp] theorem Dev.setInt_serves (f : Fld) (v : Int) : (d.setInt f v).serves = d.serves := 
  (congrArg (fun x : Dev => x.serves) (d.setInt_only f v) :)
@[simp] theorem Dev.setInt_lane (f : Fld) (v : Int) (j : Nat) : (d.setInt f v).lane j = d.lane j := 
  (congrArg (fun x => x.lane j) (d.setInt_only f v) :)
@[simp] theorem Dev.setInt_cl (f : Fld) (v : Int) (j : Nat) : (d.setInt f v).cl j = d.cl j := 
  (congrArg (fun x => x.cl j) (d.setInt_only f v) :)
@[simp] theorem Dev.setInt_ph (f : Fld) (v : Int) (i j : Nat) : (d.setInt f v).ph i j = d.ph i j := 
  (congrArg (fun x => x.ph i j) (d.setInt_only f v) :)
@[simp] theorem Dev.setInt_tmu (f : Fld) (v : Int) (i j : Nat) : (d.setInt f v).tmu i j = d.tmu i j := 
  (congrArg (fun x => x.tmu i j) (d.setInt_only f v) :)
@[simp] theorem Dev.setInt_fq (f : Fld) (v : Int) (j : Nat) : (d.setInt f v).fq j = d.fq j := 
  (congrArg (fun x => x.fq j) (d.setInt_only f v) :)
@[simp] theorem Dev.setInt_lg (f : Fld) (v : Int) (j : Nat) : (d.setInt f v).lg j = d.lg j := 
  (congrArg (fun x => x.lg j) (d.setInt_only f v) :)
@[simp] theorem Dev.setInt_line (f : Fld) (v : Int) (j : Nat) : (d.setInt f v).line j = d.line j := 
  (congrArg (fun x => x.line j) (d.setInt_only f v) :)
@[simp] theorem Dev.setInt_sn (f : Fld) (v : Int) (j : Nat) : (d.setInt f v).sn j = d.sn j := 
  (congrArg (fun x => x.sn j) (d.setInt_only f v) :)
@[simp] theorem Dev.setInt_ring (f : Fld) (v : Int) (j : Nat) : (d.setInt f v).ring j = d.ring j := 
  (congrArg (fun x => x.ring j) (d.setInt_only f v) :)
@[simp] theorem Dev.setInt_source (f : Fld) (v : Int) (j : Nat) : (d.setInt f v).source j = d.source j := 
  (congrArg (fun x => x.source j) (d.setInt_only f v) :)

/-! ### bump -/

/-- The only parts that `bump` can change. -/
theorem Dev.bump_only (f : Fld) (n : Nat) :
    d.bump f n = { d with regs := (d.bump f n).regs } :=
  d.set_only f _

@[simp] theorem Dev.bump_epoch (f : Fld) (n : Nat) : (d.bump f n).epoch = d.epoch := 
  (congrArg (fun x : Dev => x.epoch) (d.bump_only f n) :)
@[simp] theorem Dev.bump_up (f : Fld) (n : Nat) : (d.bump f n).up = d.up := 
  (congrArg (fun x : Dev => x.up) (d.bump_only f n) :)
@[simp] theorem Dev.bump_free (f : Fld) (n : Nat) : (d.bump f n).free = d.free := 
  (congrArg (fun x : Dev => x.free) (d.bump_only f n) :)
@[simp] theorem Dev.bump_options (f : Fld) (n : Nat) : (d.bump f n).options = d.options := 
  (congrArg (fun x : Dev => x.options) (d.bump_only f n) :)
@[simp] theorem Dev.bump_hold (f : Fld) (n : Nat) : (d.bump f n).hold = d.hold := 
  (congrArg (fun x : Dev => x.hold) (d.bump_only f n) :)
@[simp] theorem Dev.bump_capt (f : Fld) (n : Nat) : (d.bump f n).capt = d.capt := 
  (congrArg (fun x : Dev => x.capt) (d.bump_only f n) :)
@[simp] theorem Dev.bump_fresh (f : Fld) (n : Nat) : (d.bump f n).fresh = d.fresh := 
  (congrArg (fun x : Dev => x.fresh) (d.bump_only f n) :)
@[simp] theorem Dev.bump_pageReset (f : Fld) (n : Nat) : (d.bump f n).pageReset = d.pageReset := 
  (congrArg (fun x : Dev => x.pageReset) (d.bump_only f n) :)
@[simp] theorem Dev.bump_ports (f : Fld) (n : Nat) : (d.bump f n).ports = d.ports := 
  (congrArg (fun x : Dev => x.ports) (d.bump_only f n) :)
@[simp] theorem Dev.bump_again (f : Fld) (n : Nat) : (d.bump f n).again = d.again := 
  (congrArg (fun x : Dev => x.again) (d.bump_only f n) :)
@[simp] theorem Dev.bump_tb (f : Fld) (n : Nat) : (d.bump f n).tb = d.tb := 
  (congrArg (fun x : Dev => x.tb) (d.bump_only f n) :)
@[simp] theorem Dev.bump_dirum (f : Fld) (n : Nat) : (d.bump f n).dirum = d.dirum := 
  (congrArg (fun x : Dev => x.dirum) (d.bump_only f n) :)
@[simp] theorem Dev.bump_lgs (f : Fld) (n : Nat) : (d.bump f n).lgs = d.lgs := 
  (congrArg (fun x : Dev => x.lgs) (d.bump_only f n) :)
@[simp] theorem Dev.bump_lanes (f : Fld) (n : Nat) : (d.bump f n).lanes = d.lanes := 
  (congrArg (fun x : Dev => x.lanes) (d.bump_only f n) :)
@[simp] theorem Dev.bump_phys (f : Fld) (n : Nat) : (d.bump f n).phys = d.phys := 
  (congrArg (fun x : Dev => x.phys) (d.bump_only f n) :)
@[simp] theorem Dev.bump_tmus (f : Fld) (n : Nat) : (d.bump f n).tmus = d.tmus := 
  (congrArg (fun x : Dev => x.tmus) (d.bump_only f n) :)
@[simp] theorem Dev.bump_freqs (f : Fld) (n : Nat) : (d.bump f n).freqs = d.freqs := 
  (congrArg (fun x : Dev => x.freqs) (d.bump_only f n) :)
@[simp] theorem Dev.bump_fins (f : Fld) (n : Nat) : (d.bump f n).fins = d.fins := 
  (congrArg (fun x : Dev => x.fins) (d.bump_only f n) :)
@[simp] theorem Dev.bump_clusters (f : Fld) (n : Nat) : (d.bump f n).clusters = d.clusters := 
  (congrArg (fun x : Dev => x.clusters) (d.bump_only f n) :)
@[simp] theorem Dev.bump_lines (f : Fld) (n : Nat) : (d.bump f n).lines = d.lines := 
  (congrArg (fun x : Dev => x.lines) (d.bump_only f n) :)
@[simp] theorem Dev.bump_gmx (f : Fld) (n : Nat) : (d.bump f n).gmx = d.gmx := 
  (congrArg (fun x : Dev => x.gmx) (d.bump_only f n) :)
@[simp] theorem Dev.bump_gStage (f : Fld) (n : Nat) : (d.bump f n).gStage = d.gStage := 
  (congrArg (fun x : Dev => x.gStage) (d.bump_only f n) :)
@[simp] theorem Dev.bump_fade (f : Fld) (n : Nat) : (d.bump f n).fade = d.fade := 
  (congrArg (fun x : Dev => x.fade) (d.bump_only f n) :)
@[simp] theorem Dev.bump_loopQ (f : Fld) (n : Nat) : (d.bump f n).loopQ = d.loopQ := 
  (congrArg (fun x : Dev => x.loopQ) (d.bump_only f n) :)
@[simp] theorem Dev.bump_stalled (f : Fld) (n : Nat) : (d.bump f n).stalled = d.stalled := 
  (congrArg (fun x : Dev => x.stalled) (d.bump_only f n) :)
@[simp] theorem Dev.bump_cal (f : Fld) (n : Nat) : (d.bump f n).cal = d.cal := 
  (congrArg (fun x : Dev => x.cal) (d.bump_only f n) :)
@[simp] theorem Dev.bump_pe (f : Fld) (n : Nat) : (d.bump f n).pe = d.pe := 
  (congrArg (fun x : Dev => x.pe) (d.bump_only f n) :)
@[simp] theorem Dev.bump_sched (f : Fld) (n : Nat) : (d.bump f n).sched = d.sched := 
  (congrArg (fun x : Dev => x.sched) (d.bump_only f n) :)
@[simp] theorem Dev.bump_bist (f : Fld) (n : Nat) : (d.bump f n).bist = d.bist := 
  (congrArg (fun x : Dev => x.bist) (d.bump_only f n) :)
@[simp] theorem Dev.bump_flt (f : Fld) (n : Nat) : (d.bump f n).flt = d.flt := 
  (congrArg (fun x : Dev => x.flt) (d.bump_only f n) :)
@[simp] theorem Dev.bump_sess (f : Fld) (n : Nat) : (d.bump f n).sess = d.sess := 
  (congrArg (fun x : Dev => x.sess) (d.bump_only f n) :)
@[simp] theorem Dev.bump_links (f : Fld) (n : Nat) : (d.bump f n).links = d.links := 
  (congrArg (fun x : Dev => x.links) (d.bump_only f n) :)
@[simp] theorem Dev.bump_rings (f : Fld) (n : Nat) : (d.bump f n).rings = d.rings := 
  (congrArg (fun x : Dev => x.rings) (d.bump_only f n) :)
@[simp] theorem Dev.bump_nvmQ (f : Fld) (n : Nat) : (d.bump f n).nvmQ = d.nvmQ := 
  (congrArg (fun x : Dev => x.nvmQ) (d.bump_only f n) :)
@[simp] theorem Dev.bump_nvmCur (f : Fld) (n : Nat) : (d.bump f n).nvmCur = d.nvmCur := 
  (congrArg (fun x : Dev => x.nvmCur) (d.bump_only f n) :)
@[simp] theorem Dev.bump_sec (f : Fld) (n : Nat) : (d.bump f n).sec = d.sec := 
  (congrArg (fun x : Dev => x.sec) (d.bump_only f n) :)
@[simp] theorem Dev.bump_pln (f : Fld) (n : Nat) : (d.bump f n).pln = d.pln := 
  (congrArg (fun x : Dev => x.pln) (d.bump_only f n) :)
@[simp] theorem Dev.bump_boot (f : Fld) (n : Nat) : (d.bump f n).boot = d.boot := 
  (congrArg (fun x : Dev => x.boot) (d.bump_only f n) :)
@[simp] theorem Dev.bump_poison (f : Fld) (n : Nat) : (d.bump f n).poison = d.poison := 
  (congrArg (fun x : Dev => x.poison) (d.bump_only f n) :)
@[simp] theorem Dev.bump_out (f : Fld) (n : Nat) : (d.bump f n).out = d.out := 
  (congrArg (fun x : Dev => x.out) (d.bump_only f n) :)
@[simp] theorem Dev.bump_dbg (f : Fld) (n : Nat) : (d.bump f n).dbg = d.dbg := 
  (congrArg (fun x : Dev => x.dbg) (d.bump_only f n) :)
@[simp] theorem Dev.bump_reply (f : Fld) (n : Nat) : (d.bump f n).reply = d.reply := 
  (congrArg (fun x : Dev => x.reply) (d.bump_only f n) :)
@[simp] theorem Dev.bump_replyEp (f : Fld) (n : Nat) : (d.bump f n).replyEp = d.replyEp := 
  (congrArg (fun x : Dev => x.replyEp) (d.bump_only f n) :)
@[simp] theorem Dev.bump_smb (f : Fld) (n : Nat) : (d.bump f n).smb = d.smb := 
  (congrArg (fun x : Dev => x.smb) (d.bump_only f n) :)
@[simp] theorem Dev.bump_tdo (f : Fld) (n : Nat) : (d.bump f n).tdo = d.tdo := 
  (congrArg (fun x : Dev => x.tdo) (d.bump_only f n) :)
@[simp] theorem Dev.bump_undo (f : Fld) (n : Nat) : (d.bump f n).undo = d.undo := 
  (congrArg (fun x : Dev => x.undo) (d.bump_only f n) :)
@[simp] theorem Dev.bump_serves (f : Fld) (n : Nat) : (d.bump f n).serves = d.serves := 
  (congrArg (fun x : Dev => x.serves) (d.bump_only f n) :)
@[simp] theorem Dev.bump_lane (f : Fld) (n : Nat) (j : Nat) : (d.bump f n).lane j = d.lane j := 
  (congrArg (fun x => x.lane j) (d.bump_only f n) :)
@[simp] theorem Dev.bump_cl (f : Fld) (n : Nat) (j : Nat) : (d.bump f n).cl j = d.cl j := 
  (congrArg (fun x => x.cl j) (d.bump_only f n) :)
@[simp] theorem Dev.bump_ph (f : Fld) (n : Nat) (i j : Nat) : (d.bump f n).ph i j = d.ph i j := 
  (congrArg (fun x => x.ph i j) (d.bump_only f n) :)
@[simp] theorem Dev.bump_tmu (f : Fld) (n : Nat) (i j : Nat) : (d.bump f n).tmu i j = d.tmu i j := 
  (congrArg (fun x => x.tmu i j) (d.bump_only f n) :)
@[simp] theorem Dev.bump_fq (f : Fld) (n : Nat) (j : Nat) : (d.bump f n).fq j = d.fq j := 
  (congrArg (fun x => x.fq j) (d.bump_only f n) :)
@[simp] theorem Dev.bump_lg (f : Fld) (n : Nat) (j : Nat) : (d.bump f n).lg j = d.lg j := 
  (congrArg (fun x => x.lg j) (d.bump_only f n) :)
@[simp] theorem Dev.bump_line (f : Fld) (n : Nat) (j : Nat) : (d.bump f n).line j = d.line j := 
  (congrArg (fun x => x.line j) (d.bump_only f n) :)
@[simp] theorem Dev.bump_sn (f : Fld) (n : Nat) (j : Nat) : (d.bump f n).sn j = d.sn j := 
  (congrArg (fun x => x.sn j) (d.bump_only f n) :)
@[simp] theorem Dev.bump_ring (f : Fld) (n : Nat) (j : Nat) : (d.bump f n).ring j = d.ring j := 
  (congrArg (fun x => x.ring j) (d.bump_only f n) :)
@[simp] theorem Dev.bump_source (f : Fld) (n : Nat) (j : Nat) : (d.bump f n).source j = d.source j := 
  (congrArg (fun x => x.source j) (d.bump_only f n) :)

/-! ### wrapUp -/

/-- The only parts that `wrapUp` can change. -/
theorem Dev.wrapUp_only (f : Fld) (n : Nat) :
    d.wrapUp f n = { d with regs := (d.wrapUp f n).regs } :=
  d.set_only f _

@[simp] theorem Dev.wrapUp_epoch (f : Fld) (n : Nat) : (d.wrapUp f n).epoch = d.epoch := 
  (congrArg (fun x : Dev => x.epoch) (d.wrapUp_only f n) :)
@[simp] theorem Dev.wrapUp_up (f : Fld) (n : Nat) : (d.wrapUp f n).up = d.up := 
  (congrArg (fun x : Dev => x.up) (d.wrapUp_only f n) :)
@[simp] theorem Dev.wrapUp_free (f : Fld) (n : Nat) : (d.wrapUp f n).free = d.free := 
  (congrArg (fun x : Dev => x.free) (d.wrapUp_only f n) :)
@[simp] theorem Dev.wrapUp_options (f : Fld) (n : Nat) : (d.wrapUp f n).options = d.options := 
  (congrArg (fun x : Dev => x.options) (d.wrapUp_only f n) :)
@[simp] theorem Dev.wrapUp_hold (f : Fld) (n : Nat) : (d.wrapUp f n).hold = d.hold := 
  (congrArg (fun x : Dev => x.hold) (d.wrapUp_only f n) :)
@[simp] theorem Dev.wrapUp_capt (f : Fld) (n : Nat) : (d.wrapUp f n).capt = d.capt := 
  (congrArg (fun x : Dev => x.capt) (d.wrapUp_only f n) :)
@[simp] theorem Dev.wrapUp_fresh (f : Fld) (n : Nat) : (d.wrapUp f n).fresh = d.fresh := 
  (congrArg (fun x : Dev => x.fresh) (d.wrapUp_only f n) :)
@[simp] theorem Dev.wrapUp_pageReset (f : Fld) (n : Nat) : (d.wrapUp f n).pageReset = d.pageReset := 
  (congrArg (fun x : Dev => x.pageReset) (d.wrapUp_only f n) :)
@[simp] theorem Dev.wrapUp_ports (f : Fld) (n : Nat) : (d.wrapUp f n).ports = d.ports := 
  (congrArg (fun x : Dev => x.ports) (d.wrapUp_only f n) :)
@[simp] theorem Dev.wrapUp_again (f : Fld) (n : Nat) : (d.wrapUp f n).again = d.again := 
  (congrArg (fun x : Dev => x.again) (d.wrapUp_only f n) :)
@[simp] theorem Dev.wrapUp_tb (f : Fld) (n : Nat) : (d.wrapUp f n).tb = d.tb := 
  (congrArg (fun x : Dev => x.tb) (d.wrapUp_only f n) :)
@[simp] theorem Dev.wrapUp_dirum (f : Fld) (n : Nat) : (d.wrapUp f n).dirum = d.dirum := 
  (congrArg (fun x : Dev => x.dirum) (d.wrapUp_only f n) :)
@[simp] theorem Dev.wrapUp_lgs (f : Fld) (n : Nat) : (d.wrapUp f n).lgs = d.lgs := 
  (congrArg (fun x : Dev => x.lgs) (d.wrapUp_only f n) :)
@[simp] theorem Dev.wrapUp_lanes (f : Fld) (n : Nat) : (d.wrapUp f n).lanes = d.lanes := 
  (congrArg (fun x : Dev => x.lanes) (d.wrapUp_only f n) :)
@[simp] theorem Dev.wrapUp_phys (f : Fld) (n : Nat) : (d.wrapUp f n).phys = d.phys := 
  (congrArg (fun x : Dev => x.phys) (d.wrapUp_only f n) :)
@[simp] theorem Dev.wrapUp_tmus (f : Fld) (n : Nat) : (d.wrapUp f n).tmus = d.tmus := 
  (congrArg (fun x : Dev => x.tmus) (d.wrapUp_only f n) :)
@[simp] theorem Dev.wrapUp_freqs (f : Fld) (n : Nat) : (d.wrapUp f n).freqs = d.freqs := 
  (congrArg (fun x : Dev => x.freqs) (d.wrapUp_only f n) :)
@[simp] theorem Dev.wrapUp_fins (f : Fld) (n : Nat) : (d.wrapUp f n).fins = d.fins := 
  (congrArg (fun x : Dev => x.fins) (d.wrapUp_only f n) :)
@[simp] theorem Dev.wrapUp_clusters (f : Fld) (n : Nat) : (d.wrapUp f n).clusters = d.clusters := 
  (congrArg (fun x : Dev => x.clusters) (d.wrapUp_only f n) :)
@[simp] theorem Dev.wrapUp_lines (f : Fld) (n : Nat) : (d.wrapUp f n).lines = d.lines := 
  (congrArg (fun x : Dev => x.lines) (d.wrapUp_only f n) :)
@[simp] theorem Dev.wrapUp_gmx (f : Fld) (n : Nat) : (d.wrapUp f n).gmx = d.gmx := 
  (congrArg (fun x : Dev => x.gmx) (d.wrapUp_only f n) :)
@[simp] theorem Dev.wrapUp_gStage (f : Fld) (n : Nat) : (d.wrapUp f n).gStage = d.gStage := 
  (congrArg (fun x : Dev => x.gStage) (d.wrapUp_only f n) :)
@[simp] theorem Dev.wrapUp_fade (f : Fld) (n : Nat) : (d.wrapUp f n).fade = d.fade := 
  (congrArg (fun x : Dev => x.fade) (d.wrapUp_only f n) :)
@[simp] theorem Dev.wrapUp_loopQ (f : Fld) (n : Nat) : (d.wrapUp f n).loopQ = d.loopQ := 
  (congrArg (fun x : Dev => x.loopQ) (d.wrapUp_only f n) :)
@[simp] theorem Dev.wrapUp_stalled (f : Fld) (n : Nat) : (d.wrapUp f n).stalled = d.stalled := 
  (congrArg (fun x : Dev => x.stalled) (d.wrapUp_only f n) :)
@[simp] theorem Dev.wrapUp_cal (f : Fld) (n : Nat) : (d.wrapUp f n).cal = d.cal := 
  (congrArg (fun x : Dev => x.cal) (d.wrapUp_only f n) :)
@[simp] theorem Dev.wrapUp_pe (f : Fld) (n : Nat) : (d.wrapUp f n).pe = d.pe := 
  (congrArg (fun x : Dev => x.pe) (d.wrapUp_only f n) :)
@[simp] theorem Dev.wrapUp_sched (f : Fld) (n : Nat) : (d.wrapUp f n).sched = d.sched := 
  (congrArg (fun x : Dev => x.sched) (d.wrapUp_only f n) :)
@[simp] theorem Dev.wrapUp_bist (f : Fld) (n : Nat) : (d.wrapUp f n).bist = d.bist := 
  (congrArg (fun x : Dev => x.bist) (d.wrapUp_only f n) :)
@[simp] theorem Dev.wrapUp_flt (f : Fld) (n : Nat) : (d.wrapUp f n).flt = d.flt := 
  (congrArg (fun x : Dev => x.flt) (d.wrapUp_only f n) :)
@[simp] theorem Dev.wrapUp_sess (f : Fld) (n : Nat) : (d.wrapUp f n).sess = d.sess := 
  (congrArg (fun x : Dev => x.sess) (d.wrapUp_only f n) :)
@[simp] theorem Dev.wrapUp_links (f : Fld) (n : Nat) : (d.wrapUp f n).links = d.links := 
  (congrArg (fun x : Dev => x.links) (d.wrapUp_only f n) :)
@[simp] theorem Dev.wrapUp_rings (f : Fld) (n : Nat) : (d.wrapUp f n).rings = d.rings := 
  (congrArg (fun x : Dev => x.rings) (d.wrapUp_only f n) :)
@[simp] theorem Dev.wrapUp_nvmQ (f : Fld) (n : Nat) : (d.wrapUp f n).nvmQ = d.nvmQ := 
  (congrArg (fun x : Dev => x.nvmQ) (d.wrapUp_only f n) :)
@[simp] theorem Dev.wrapUp_nvmCur (f : Fld) (n : Nat) : (d.wrapUp f n).nvmCur = d.nvmCur := 
  (congrArg (fun x : Dev => x.nvmCur) (d.wrapUp_only f n) :)
@[simp] theorem Dev.wrapUp_sec (f : Fld) (n : Nat) : (d.wrapUp f n).sec = d.sec := 
  (congrArg (fun x : Dev => x.sec) (d.wrapUp_only f n) :)
@[simp] theorem Dev.wrapUp_pln (f : Fld) (n : Nat) : (d.wrapUp f n).pln = d.pln := 
  (congrArg (fun x : Dev => x.pln) (d.wrapUp_only f n) :)
@[simp] theorem Dev.wrapUp_boot (f : Fld) (n : Nat) : (d.wrapUp f n).boot = d.boot := 
  (congrArg (fun x : Dev => x.boot) (d.wrapUp_only f n) :)
@[simp] theorem Dev.wrapUp_poison (f : Fld) (n : Nat) : (d.wrapUp f n).poison = d.poison := 
  (congrArg (fun x : Dev => x.poison) (d.wrapUp_only f n) :)
@[simp] theorem Dev.wrapUp_out (f : Fld) (n : Nat) : (d.wrapUp f n).out = d.out := 
  (congrArg (fun x : Dev => x.out) (d.wrapUp_only f n) :)
@[simp] theorem Dev.wrapUp_dbg (f : Fld) (n : Nat) : (d.wrapUp f n).dbg = d.dbg := 
  (congrArg (fun x : Dev => x.dbg) (d.wrapUp_only f n) :)
@[simp] theorem Dev.wrapUp_reply (f : Fld) (n : Nat) : (d.wrapUp f n).reply = d.reply := 
  (congrArg (fun x : Dev => x.reply) (d.wrapUp_only f n) :)
@[simp] theorem Dev.wrapUp_replyEp (f : Fld) (n : Nat) : (d.wrapUp f n).replyEp = d.replyEp := 
  (congrArg (fun x : Dev => x.replyEp) (d.wrapUp_only f n) :)
@[simp] theorem Dev.wrapUp_smb (f : Fld) (n : Nat) : (d.wrapUp f n).smb = d.smb := 
  (congrArg (fun x : Dev => x.smb) (d.wrapUp_only f n) :)
@[simp] theorem Dev.wrapUp_tdo (f : Fld) (n : Nat) : (d.wrapUp f n).tdo = d.tdo := 
  (congrArg (fun x : Dev => x.tdo) (d.wrapUp_only f n) :)
@[simp] theorem Dev.wrapUp_undo (f : Fld) (n : Nat) : (d.wrapUp f n).undo = d.undo := 
  (congrArg (fun x : Dev => x.undo) (d.wrapUp_only f n) :)
@[simp] theorem Dev.wrapUp_serves (f : Fld) (n : Nat) : (d.wrapUp f n).serves = d.serves := 
  (congrArg (fun x : Dev => x.serves) (d.wrapUp_only f n) :)
@[simp] theorem Dev.wrapUp_lane (f : Fld) (n : Nat) (j : Nat) : (d.wrapUp f n).lane j = d.lane j := 
  (congrArg (fun x => x.lane j) (d.wrapUp_only f n) :)
@[simp] theorem Dev.wrapUp_cl (f : Fld) (n : Nat) (j : Nat) : (d.wrapUp f n).cl j = d.cl j := 
  (congrArg (fun x => x.cl j) (d.wrapUp_only f n) :)
@[simp] theorem Dev.wrapUp_ph (f : Fld) (n : Nat) (i j : Nat) : (d.wrapUp f n).ph i j = d.ph i j := 
  (congrArg (fun x => x.ph i j) (d.wrapUp_only f n) :)
@[simp] theorem Dev.wrapUp_tmu (f : Fld) (n : Nat) (i j : Nat) : (d.wrapUp f n).tmu i j = d.tmu i j := 
  (congrArg (fun x => x.tmu i j) (d.wrapUp_only f n) :)
@[simp] theorem Dev.wrapUp_fq (f : Fld) (n : Nat) (j : Nat) : (d.wrapUp f n).fq j = d.fq j := 
  (congrArg (fun x => x.fq j) (d.wrapUp_only f n) :)
@[simp] theorem Dev.wrapUp_lg (f : Fld) (n : Nat) (j : Nat) : (d.wrapUp f n).lg j = d.lg j := 
  (congrArg (fun x => x.lg j) (d.wrapUp_only f n) :)
@[simp] theorem Dev.wrapUp_line (f : Fld) (n : Nat) (j : Nat) : (d.wrapUp f n).line j = d.line j := 
  (congrArg (fun x => x.line j) (d.wrapUp_only f n) :)
@[simp] theorem Dev.wrapUp_sn (f : Fld) (n : Nat) (j : Nat) : (d.wrapUp f n).sn j = d.sn j := 
  (congrArg (fun x => x.sn j) (d.wrapUp_only f n) :)
@[simp] theorem Dev.wrapUp_ring (f : Fld) (n : Nat) (j : Nat) : (d.wrapUp f n).ring j = d.ring j := 
  (congrArg (fun x => x.ring j) (d.wrapUp_only f n) :)
@[simp] theorem Dev.wrapUp_source (f : Fld) (n : Nat) (j : Nat) : (d.wrapUp f n).source j = d.source j := 
  (congrArg (fun x => x.source j) (d.wrapUp_only f n) :)

/-! ### maxUp -/

/-- The only parts that `maxUp` can change. -/
theorem Dev.maxUp_only (f : Fld) (n : Nat) :
    d.maxUp f n = { d with regs := (d.maxUp f n).regs } :=
  by unfold Dev.maxUp; dsimp only; repeat' split
     all_goals first | rfl | exact d.set_only _ _

@[simp] theorem Dev.maxUp_epoch (f : Fld) (n : Nat) : (d.maxUp f n).epoch = d.epoch := 
  (congrArg (fun x : Dev => x.epoch) (d.maxUp_only f n) :)
@[simp] theorem Dev.maxUp_up (f : Fld) (n : Nat) : (d.maxUp f n).up = d.up := 
  (congrArg (fun x : Dev => x.up) (d.maxUp_only f n) :)
@[simp] theorem Dev.maxUp_free (f : Fld) (n : Nat) : (d.maxUp f n).free = d.free := 
  (congrArg (fun x : Dev => x.free) (d.maxUp_only f n) :)
@[simp] theorem Dev.maxUp_options (f : Fld) (n : Nat) : (d.maxUp f n).options = d.options := 
  (congrArg (fun x : Dev => x.options) (d.maxUp_only f n) :)
@[simp] theorem Dev.maxUp_hold (f : Fld) (n : Nat) : (d.maxUp f n).hold = d.hold := 
  (congrArg (fun x : Dev => x.hold) (d.maxUp_only f n) :)
@[simp] theorem Dev.maxUp_capt (f : Fld) (n : Nat) : (d.maxUp f n).capt = d.capt := 
  (congrArg (fun x : Dev => x.capt) (d.maxUp_only f n) :)
@[simp] theorem Dev.maxUp_fresh (f : Fld) (n : Nat) : (d.maxUp f n).fresh = d.fresh := 
  (congrArg (fun x : Dev => x.fresh) (d.maxUp_only f n) :)
@[simp] theorem Dev.maxUp_pageReset (f : Fld) (n : Nat) : (d.maxUp f n).pageReset = d.pageReset := 
  (congrArg (fun x : Dev => x.pageReset) (d.maxUp_only f n) :)
@[simp] theorem Dev.maxUp_ports (f : Fld) (n : Nat) : (d.maxUp f n).ports = d.ports := 
  (congrArg (fun x : Dev => x.ports) (d.maxUp_only f n) :)
@[simp] theorem Dev.maxUp_again (f : Fld) (n : Nat) : (d.maxUp f n).again = d.again := 
  (congrArg (fun x : Dev => x.again) (d.maxUp_only f n) :)
@[simp] theorem Dev.maxUp_tb (f : Fld) (n : Nat) : (d.maxUp f n).tb = d.tb := 
  (congrArg (fun x : Dev => x.tb) (d.maxUp_only f n) :)
@[simp] theorem Dev.maxUp_dirum (f : Fld) (n : Nat) : (d.maxUp f n).dirum = d.dirum := 
  (congrArg (fun x : Dev => x.dirum) (d.maxUp_only f n) :)
@[simp] theorem Dev.maxUp_lgs (f : Fld) (n : Nat) : (d.maxUp f n).lgs = d.lgs := 
  (congrArg (fun x : Dev => x.lgs) (d.maxUp_only f n) :)
@[simp] theorem Dev.maxUp_lanes (f : Fld) (n : Nat) : (d.maxUp f n).lanes = d.lanes := 
  (congrArg (fun x : Dev => x.lanes) (d.maxUp_only f n) :)
@[simp] theorem Dev.maxUp_phys (f : Fld) (n : Nat) : (d.maxUp f n).phys = d.phys := 
  (congrArg (fun x : Dev => x.phys) (d.maxUp_only f n) :)
@[simp] theorem Dev.maxUp_tmus (f : Fld) (n : Nat) : (d.maxUp f n).tmus = d.tmus := 
  (congrArg (fun x : Dev => x.tmus) (d.maxUp_only f n) :)
@[simp] theorem Dev.maxUp_freqs (f : Fld) (n : Nat) : (d.maxUp f n).freqs = d.freqs := 
  (congrArg (fun x : Dev => x.freqs) (d.maxUp_only f n) :)
@[simp] theorem Dev.maxUp_fins (f : Fld) (n : Nat) : (d.maxUp f n).fins = d.fins := 
  (congrArg (fun x : Dev => x.fins) (d.maxUp_only f n) :)
@[simp] theorem Dev.maxUp_clusters (f : Fld) (n : Nat) : (d.maxUp f n).clusters = d.clusters := 
  (congrArg (fun x : Dev => x.clusters) (d.maxUp_only f n) :)
@[simp] theorem Dev.maxUp_lines (f : Fld) (n : Nat) : (d.maxUp f n).lines = d.lines := 
  (congrArg (fun x : Dev => x.lines) (d.maxUp_only f n) :)
@[simp] theorem Dev.maxUp_gmx (f : Fld) (n : Nat) : (d.maxUp f n).gmx = d.gmx := 
  (congrArg (fun x : Dev => x.gmx) (d.maxUp_only f n) :)
@[simp] theorem Dev.maxUp_gStage (f : Fld) (n : Nat) : (d.maxUp f n).gStage = d.gStage := 
  (congrArg (fun x : Dev => x.gStage) (d.maxUp_only f n) :)
@[simp] theorem Dev.maxUp_fade (f : Fld) (n : Nat) : (d.maxUp f n).fade = d.fade := 
  (congrArg (fun x : Dev => x.fade) (d.maxUp_only f n) :)
@[simp] theorem Dev.maxUp_loopQ (f : Fld) (n : Nat) : (d.maxUp f n).loopQ = d.loopQ := 
  (congrArg (fun x : Dev => x.loopQ) (d.maxUp_only f n) :)
@[simp] theorem Dev.maxUp_stalled (f : Fld) (n : Nat) : (d.maxUp f n).stalled = d.stalled := 
  (congrArg (fun x : Dev => x.stalled) (d.maxUp_only f n) :)
@[simp] theorem Dev.maxUp_cal (f : Fld) (n : Nat) : (d.maxUp f n).cal = d.cal := 
  (congrArg (fun x : Dev => x.cal) (d.maxUp_only f n) :)
@[simp] theorem Dev.maxUp_pe (f : Fld) (n : Nat) : (d.maxUp f n).pe = d.pe := 
  (congrArg (fun x : Dev => x.pe) (d.maxUp_only f n) :)
@[simp] theorem Dev.maxUp_sched (f : Fld) (n : Nat) : (d.maxUp f n).sched = d.sched := 
  (congrArg (fun x : Dev => x.sched) (d.maxUp_only f n) :)
@[simp] theorem Dev.maxUp_bist (f : Fld) (n : Nat) : (d.maxUp f n).bist = d.bist := 
  (congrArg (fun x : Dev => x.bist) (d.maxUp_only f n) :)
@[simp] theorem Dev.maxUp_flt (f : Fld) (n : Nat) : (d.maxUp f n).flt = d.flt := 
  (congrArg (fun x : Dev => x.flt) (d.maxUp_only f n) :)
@[simp] theorem Dev.maxUp_sess (f : Fld) (n : Nat) : (d.maxUp f n).sess = d.sess := 
  (congrArg (fun x : Dev => x.sess) (d.maxUp_only f n) :)
@[simp] theorem Dev.maxUp_links (f : Fld) (n : Nat) : (d.maxUp f n).links = d.links := 
  (congrArg (fun x : Dev => x.links) (d.maxUp_only f n) :)
@[simp] theorem Dev.maxUp_rings (f : Fld) (n : Nat) : (d.maxUp f n).rings = d.rings := 
  (congrArg (fun x : Dev => x.rings) (d.maxUp_only f n) :)
@[simp] theorem Dev.maxUp_nvmQ (f : Fld) (n : Nat) : (d.maxUp f n).nvmQ = d.nvmQ := 
  (congrArg (fun x : Dev => x.nvmQ) (d.maxUp_only f n) :)
@[simp] theorem Dev.maxUp_nvmCur (f : Fld) (n : Nat) : (d.maxUp f n).nvmCur = d.nvmCur := 
  (congrArg (fun x : Dev => x.nvmCur) (d.maxUp_only f n) :)
@[simp] theorem Dev.maxUp_sec (f : Fld) (n : Nat) : (d.maxUp f n).sec = d.sec := 
  (congrArg (fun x : Dev => x.sec) (d.maxUp_only f n) :)
@[simp] theorem Dev.maxUp_pln (f : Fld) (n : Nat) : (d.maxUp f n).pln = d.pln := 
  (congrArg (fun x : Dev => x.pln) (d.maxUp_only f n) :)
@[simp] theorem Dev.maxUp_boot (f : Fld) (n : Nat) : (d.maxUp f n).boot = d.boot := 
  (congrArg (fun x : Dev => x.boot) (d.maxUp_only f n) :)
@[simp] theorem Dev.maxUp_poison (f : Fld) (n : Nat) : (d.maxUp f n).poison = d.poison := 
  (congrArg (fun x : Dev => x.poison) (d.maxUp_only f n) :)
@[simp] theorem Dev.maxUp_out (f : Fld) (n : Nat) : (d.maxUp f n).out = d.out := 
  (congrArg (fun x : Dev => x.out) (d.maxUp_only f n) :)
@[simp] theorem Dev.maxUp_dbg (f : Fld) (n : Nat) : (d.maxUp f n).dbg = d.dbg := 
  (congrArg (fun x : Dev => x.dbg) (d.maxUp_only f n) :)
@[simp] theorem Dev.maxUp_reply (f : Fld) (n : Nat) : (d.maxUp f n).reply = d.reply := 
  (congrArg (fun x : Dev => x.reply) (d.maxUp_only f n) :)
@[simp] theorem Dev.maxUp_replyEp (f : Fld) (n : Nat) : (d.maxUp f n).replyEp = d.replyEp := 
  (congrArg (fun x : Dev => x.replyEp) (d.maxUp_only f n) :)
@[simp] theorem Dev.maxUp_smb (f : Fld) (n : Nat) : (d.maxUp f n).smb = d.smb := 
  (congrArg (fun x : Dev => x.smb) (d.maxUp_only f n) :)
@[simp] theorem Dev.maxUp_tdo (f : Fld) (n : Nat) : (d.maxUp f n).tdo = d.tdo := 
  (congrArg (fun x : Dev => x.tdo) (d.maxUp_only f n) :)
@[simp] theorem Dev.maxUp_undo (f : Fld) (n : Nat) : (d.maxUp f n).undo = d.undo := 
  (congrArg (fun x : Dev => x.undo) (d.maxUp_only f n) :)
@[simp] theorem Dev.maxUp_serves (f : Fld) (n : Nat) : (d.maxUp f n).serves = d.serves := 
  (congrArg (fun x : Dev => x.serves) (d.maxUp_only f n) :)
@[simp] theorem Dev.maxUp_lane (f : Fld) (n : Nat) (j : Nat) : (d.maxUp f n).lane j = d.lane j := 
  (congrArg (fun x => x.lane j) (d.maxUp_only f n) :)
@[simp] theorem Dev.maxUp_cl (f : Fld) (n : Nat) (j : Nat) : (d.maxUp f n).cl j = d.cl j := 
  (congrArg (fun x => x.cl j) (d.maxUp_only f n) :)
@[simp] theorem Dev.maxUp_ph (f : Fld) (n : Nat) (i j : Nat) : (d.maxUp f n).ph i j = d.ph i j := 
  (congrArg (fun x => x.ph i j) (d.maxUp_only f n) :)
@[simp] theorem Dev.maxUp_tmu (f : Fld) (n : Nat) (i j : Nat) : (d.maxUp f n).tmu i j = d.tmu i j := 
  (congrArg (fun x => x.tmu i j) (d.maxUp_only f n) :)
@[simp] theorem Dev.maxUp_fq (f : Fld) (n : Nat) (j : Nat) : (d.maxUp f n).fq j = d.fq j := 
  (congrArg (fun x => x.fq j) (d.maxUp_only f n) :)
@[simp] theorem Dev.maxUp_lg (f : Fld) (n : Nat) (j : Nat) : (d.maxUp f n).lg j = d.lg j := 
  (congrArg (fun x => x.lg j) (d.maxUp_only f n) :)
@[simp] theorem Dev.maxUp_line (f : Fld) (n : Nat) (j : Nat) : (d.maxUp f n).line j = d.line j := 
  (congrArg (fun x => x.line j) (d.maxUp_only f n) :)
@[simp] theorem Dev.maxUp_sn (f : Fld) (n : Nat) (j : Nat) : (d.maxUp f n).sn j = d.sn j := 
  (congrArg (fun x => x.sn j) (d.maxUp_only f n) :)
@[simp] theorem Dev.maxUp_ring (f : Fld) (n : Nat) (j : Nat) : (d.maxUp f n).ring j = d.ring j := 
  (congrArg (fun x => x.ring j) (d.maxUp_only f n) :)
@[simp] theorem Dev.maxUp_source (f : Fld) (n : Nat) (j : Nat) : (d.maxUp f n).source j = d.source j := 
  (congrArg (fun x => x.source j) (d.maxUp_only f n) :)

/-! ### stickIf -/

/-- The only parts that `stickIf` can change. -/
theorem Dev.stickIf_only (c : Bool) (f : Fld) :
    d.stickIf c f = { d with regs := (d.stickIf c f).regs, fresh := (d.stickIf c f).fresh } :=
  by unfold Dev.stickIf; split <;> rfl

@[simp] theorem Dev.stickIf_epoch (c : Bool) (f : Fld) : (d.stickIf c f).epoch = d.epoch := 
  (congrArg (fun x : Dev => x.epoch) (d.stickIf_only c f) :)
@[simp] theorem Dev.stickIf_up (c : Bool) (f : Fld) : (d.stickIf c f).up = d.up := 
  (congrArg (fun x : Dev => x.up) (d.stickIf_only c f) :)
@[simp] theorem Dev.stickIf_free (c : Bool) (f : Fld) : (d.stickIf c f).free = d.free := 
  (congrArg (fun x : Dev => x.free) (d.stickIf_only c f) :)
@[simp] theorem Dev.stickIf_options (c : Bool) (f : Fld) : (d.stickIf c f).options = d.options := 
  (congrArg (fun x : Dev => x.options) (d.stickIf_only c f) :)
@[simp] theorem Dev.stickIf_hold (c : Bool) (f : Fld) : (d.stickIf c f).hold = d.hold := 
  (congrArg (fun x : Dev => x.hold) (d.stickIf_only c f) :)
@[simp] theorem Dev.stickIf_capt (c : Bool) (f : Fld) : (d.stickIf c f).capt = d.capt := 
  (congrArg (fun x : Dev => x.capt) (d.stickIf_only c f) :)
@[simp] theorem Dev.stickIf_pageReset (c : Bool) (f : Fld) : (d.stickIf c f).pageReset = d.pageReset := 
  (congrArg (fun x : Dev => x.pageReset) (d.stickIf_only c f) :)
@[simp] theorem Dev.stickIf_ports (c : Bool) (f : Fld) : (d.stickIf c f).ports = d.ports := 
  (congrArg (fun x : Dev => x.ports) (d.stickIf_only c f) :)
@[simp] theorem Dev.stickIf_again (c : Bool) (f : Fld) : (d.stickIf c f).again = d.again := 
  (congrArg (fun x : Dev => x.again) (d.stickIf_only c f) :)
@[simp] theorem Dev.stickIf_tb (c : Bool) (f : Fld) : (d.stickIf c f).tb = d.tb := 
  (congrArg (fun x : Dev => x.tb) (d.stickIf_only c f) :)
@[simp] theorem Dev.stickIf_dirum (c : Bool) (f : Fld) : (d.stickIf c f).dirum = d.dirum := 
  (congrArg (fun x : Dev => x.dirum) (d.stickIf_only c f) :)
@[simp] theorem Dev.stickIf_lgs (c : Bool) (f : Fld) : (d.stickIf c f).lgs = d.lgs := 
  (congrArg (fun x : Dev => x.lgs) (d.stickIf_only c f) :)
@[simp] theorem Dev.stickIf_lanes (c : Bool) (f : Fld) : (d.stickIf c f).lanes = d.lanes := 
  (congrArg (fun x : Dev => x.lanes) (d.stickIf_only c f) :)
@[simp] theorem Dev.stickIf_phys (c : Bool) (f : Fld) : (d.stickIf c f).phys = d.phys := 
  (congrArg (fun x : Dev => x.phys) (d.stickIf_only c f) :)
@[simp] theorem Dev.stickIf_tmus (c : Bool) (f : Fld) : (d.stickIf c f).tmus = d.tmus := 
  (congrArg (fun x : Dev => x.tmus) (d.stickIf_only c f) :)
@[simp] theorem Dev.stickIf_freqs (c : Bool) (f : Fld) : (d.stickIf c f).freqs = d.freqs := 
  (congrArg (fun x : Dev => x.freqs) (d.stickIf_only c f) :)
@[simp] theorem Dev.stickIf_fins (c : Bool) (f : Fld) : (d.stickIf c f).fins = d.fins := 
  (congrArg (fun x : Dev => x.fins) (d.stickIf_only c f) :)
@[simp] theorem Dev.stickIf_clusters (c : Bool) (f : Fld) : (d.stickIf c f).clusters = d.clusters := 
  (congrArg (fun x : Dev => x.clusters) (d.stickIf_only c f) :)
@[simp] theorem Dev.stickIf_lines (c : Bool) (f : Fld) : (d.stickIf c f).lines = d.lines := 
  (congrArg (fun x : Dev => x.lines) (d.stickIf_only c f) :)
@[simp] theorem Dev.stickIf_gmx (c : Bool) (f : Fld) : (d.stickIf c f).gmx = d.gmx := 
  (congrArg (fun x : Dev => x.gmx) (d.stickIf_only c f) :)
@[simp] theorem Dev.stickIf_gStage (c : Bool) (f : Fld) : (d.stickIf c f).gStage = d.gStage := 
  (congrArg (fun x : Dev => x.gStage) (d.stickIf_only c f) :)
@[simp] theorem Dev.stickIf_fade (c : Bool) (f : Fld) : (d.stickIf c f).fade = d.fade := 
  (congrArg (fun x : Dev => x.fade) (d.stickIf_only c f) :)
@[simp] theorem Dev.stickIf_loopQ (c : Bool) (f : Fld) : (d.stickIf c f).loopQ = d.loopQ := 
  (congrArg (fun x : Dev => x.loopQ) (d.stickIf_only c f) :)
@[simp] theorem Dev.stickIf_stalled (c : Bool) (f : Fld) : (d.stickIf c f).stalled = d.stalled := 
  (congrArg (fun x : Dev => x.stalled) (d.stickIf_only c f) :)
@[simp] theorem Dev.stickIf_cal (c : Bool) (f : Fld) : (d.stickIf c f).cal = d.cal := 
  (congrArg (fun x : Dev => x.cal) (d.stickIf_only c f) :)
@[simp] theorem Dev.stickIf_pe (c : Bool) (f : Fld) : (d.stickIf c f).pe = d.pe := 
  (congrArg (fun x : Dev => x.pe) (d.stickIf_only c f) :)
@[simp] theorem Dev.stickIf_sched (c : Bool) (f : Fld) : (d.stickIf c f).sched = d.sched := 
  (congrArg (fun x : Dev => x.sched) (d.stickIf_only c f) :)
@[simp] theorem Dev.stickIf_bist (c : Bool) (f : Fld) : (d.stickIf c f).bist = d.bist := 
  (congrArg (fun x : Dev => x.bist) (d.stickIf_only c f) :)
@[simp] theorem Dev.stickIf_flt (c : Bool) (f : Fld) : (d.stickIf c f).flt = d.flt := 
  (congrArg (fun x : Dev => x.flt) (d.stickIf_only c f) :)
@[simp] theorem Dev.stickIf_sess (c : Bool) (f : Fld) : (d.stickIf c f).sess = d.sess := 
  (congrArg (fun x : Dev => x.sess) (d.stickIf_only c f) :)
@[simp] theorem Dev.stickIf_links (c : Bool) (f : Fld) : (d.stickIf c f).links = d.links := 
  (congrArg (fun x : Dev => x.links) (d.stickIf_only c f) :)
@[simp] theorem Dev.stickIf_rings (c : Bool) (f : Fld) : (d.stickIf c f).rings = d.rings := 
  (congrArg (fun x : Dev => x.rings) (d.stickIf_only c f) :)
@[simp] theorem Dev.stickIf_nvmQ (c : Bool) (f : Fld) : (d.stickIf c f).nvmQ = d.nvmQ := 
  (congrArg (fun x : Dev => x.nvmQ) (d.stickIf_only c f) :)
@[simp] theorem Dev.stickIf_nvmCur (c : Bool) (f : Fld) : (d.stickIf c f).nvmCur = d.nvmCur := 
  (congrArg (fun x : Dev => x.nvmCur) (d.stickIf_only c f) :)
@[simp] theorem Dev.stickIf_sec (c : Bool) (f : Fld) : (d.stickIf c f).sec = d.sec := 
  (congrArg (fun x : Dev => x.sec) (d.stickIf_only c f) :)
@[simp] theorem Dev.stickIf_pln (c : Bool) (f : Fld) : (d.stickIf c f).pln = d.pln := 
  (congrArg (fun x : Dev => x.pln) (d.stickIf_only c f) :)
@[simp] theorem Dev.stickIf_boot (c : Bool) (f : Fld) : (d.stickIf c f).boot = d.boot := 
  (congrArg (fun x : Dev => x.boot) (d.stickIf_only c f) :)
@[simp] theorem Dev.stickIf_poison (c : Bool) (f : Fld) : (d.stickIf c f).poison = d.poison := 
  (congrArg (fun x : Dev => x.poison) (d.stickIf_only c f) :)
@[simp] theorem Dev.stickIf_out (c : Bool) (f : Fld) : (d.stickIf c f).out = d.out := 
  (congrArg (fun x : Dev => x.out) (d.stickIf_only c f) :)
@[simp] theorem Dev.stickIf_dbg (c : Bool) (f : Fld) : (d.stickIf c f).dbg = d.dbg := 
  (congrArg (fun x : Dev => x.dbg) (d.stickIf_only c f) :)
@[simp] theorem Dev.stickIf_reply (c : Bool) (f : Fld) : (d.stickIf c f).reply = d.reply := 
  (congrArg (fun x : Dev => x.reply) (d.stickIf_only c f) :)
@[simp] theorem Dev.stickIf_replyEp (c : Bool) (f : Fld) : (d.stickIf c f).replyEp = d.replyEp := 
  (congrArg (fun x : Dev => x.replyEp) (d.stickIf_only c f) :)
@[simp] theorem Dev.stickIf_smb (c : Bool) (f : Fld) : (d.stickIf c f).smb = d.smb := 
  (congrArg (fun x : Dev => x.smb) (d.stickIf_only c f) :)
@[simp] theorem Dev.stickIf_tdo (c : Bool) (f : Fld) : (d.stickIf c f).tdo = d.tdo := 
  (congrArg (fun x : Dev => x.tdo) (d.stickIf_only c f) :)
@[simp] theorem Dev.stickIf_undo (c : Bool) (f : Fld) : (d.stickIf c f).undo = d.undo := 
  (congrArg (fun x : Dev => x.undo) (d.stickIf_only c f) :)
@[simp] theorem Dev.stickIf_serves (c : Bool) (f : Fld) : (d.stickIf c f).serves = d.serves := 
  (congrArg (fun x : Dev => x.serves) (d.stickIf_only c f) :)
@[simp] theorem Dev.stickIf_lane (c : Bool) (f : Fld) (j : Nat) : (d.stickIf c f).lane j = d.lane j := 
  (congrArg (fun x => x.lane j) (d.stickIf_only c f) :)
@[simp] theorem Dev.stickIf_cl (c : Bool) (f : Fld) (j : Nat) : (d.stickIf c f).cl j = d.cl j := 
  (congrArg (fun x => x.cl j) (d.stickIf_only c f) :)
@[simp] theorem Dev.stickIf_ph (c : Bool) (f : Fld) (i j : Nat) : (d.stickIf c f).ph i j = d.ph i j := 
  (congrArg (fun x => x.ph i j) (d.stickIf_only c f) :)
@[simp] theorem Dev.stickIf_tmu (c : Bool) (f : Fld) (i j : Nat) : (d.stickIf c f).tmu i j = d.tmu i j := 
  (congrArg (fun x => x.tmu i j) (d.stickIf_only c f) :)
@[simp] theorem Dev.stickIf_fq (c : Bool) (f : Fld) (j : Nat) : (d.stickIf c f).fq j = d.fq j := 
  (congrArg (fun x => x.fq j) (d.stickIf_only c f) :)
@[simp] theorem Dev.stickIf_lg (c : Bool) (f : Fld) (j : Nat) : (d.stickIf c f).lg j = d.lg j := 
  (congrArg (fun x => x.lg j) (d.stickIf_only c f) :)
@[simp] theorem Dev.stickIf_line (c : Bool) (f : Fld) (j : Nat) : (d.stickIf c f).line j = d.line j := 
  (congrArg (fun x => x.line j) (d.stickIf_only c f) :)
@[simp] theorem Dev.stickIf_sn (c : Bool) (f : Fld) (j : Nat) : (d.stickIf c f).sn j = d.sn j := 
  (congrArg (fun x => x.sn j) (d.stickIf_only c f) :)
@[simp] theorem Dev.stickIf_ring (c : Bool) (f : Fld) (j : Nat) : (d.stickIf c f).ring j = d.ring j := 
  (congrArg (fun x => x.ring j) (d.stickIf_only c f) :)
@[simp] theorem Dev.stickIf_source (c : Bool) (f : Fld) (j : Nat) : (d.stickIf c f).source j = d.source j := 
  (congrArg (fun x => x.source j) (d.stickIf_only c f) :)

/-! ### markSource -/

/-- The only parts that `markSource` can change. -/
theorem Dev.markSource_only (src sev : Nat) (inj : Bool) :
    d.markSource src sev inj = { d with regs := (d.markSource src sev inj).regs, fresh := (d.markSource src sev inj).fresh } :=
  by unfold Dev.markSource; dsimp only; repeat' split
     all_goals rfl

@[simp] theorem Dev.markSource_epoch (src sev : Nat) (inj : Bool) : (d.markSource src sev inj).epoch = d.epoch := 
  (congrArg (fun x : Dev => x.epoch) (d.markSource_only src sev inj) :)
@[simp] theorem Dev.markSource_up (src sev : Nat) (inj : Bool) : (d.markSource src sev inj).up = d.up := 
  (congrArg (fun x : Dev => x.up) (d.markSource_only src sev inj) :)
@[simp] theorem Dev.markSource_free (src sev : Nat) (inj : Bool) : (d.markSource src sev inj).free = d.free := 
  (congrArg (fun x : Dev => x.free) (d.markSource_only src sev inj) :)
@[simp] theorem Dev.markSource_options (src sev : Nat) (inj : Bool) : (d.markSource src sev inj).options = d.options := 
  (congrArg (fun x : Dev => x.options) (d.markSource_only src sev inj) :)
@[simp] theorem Dev.markSource_hold (src sev : Nat) (inj : Bool) : (d.markSource src sev inj).hold = d.hold := 
  (congrArg (fun x : Dev => x.hold) (d.markSource_only src sev inj) :)
@[simp] theorem Dev.markSource_capt (src sev : Nat) (inj : Bool) : (d.markSource src sev inj).capt = d.capt := 
  (congrArg (fun x : Dev => x.capt) (d.markSource_only src sev inj) :)
@[simp] theorem Dev.markSource_pageReset (src sev : Nat) (inj : Bool) : (d.markSource src sev inj).pageReset = d.pageReset := 
  (congrArg (fun x : Dev => x.pageReset) (d.markSource_only src sev inj) :)
@[simp] theorem Dev.markSource_ports (src sev : Nat) (inj : Bool) : (d.markSource src sev inj).ports = d.ports := 
  (congrArg (fun x : Dev => x.ports) (d.markSource_only src sev inj) :)
@[simp] theorem Dev.markSource_again (src sev : Nat) (inj : Bool) : (d.markSource src sev inj).again = d.again := 
  (congrArg (fun x : Dev => x.again) (d.markSource_only src sev inj) :)
@[simp] theorem Dev.markSource_tb (src sev : Nat) (inj : Bool) : (d.markSource src sev inj).tb = d.tb := 
  (congrArg (fun x : Dev => x.tb) (d.markSource_only src sev inj) :)
@[simp] theorem Dev.markSource_dirum (src sev : Nat) (inj : Bool) : (d.markSource src sev inj).dirum = d.dirum := 
  (congrArg (fun x : Dev => x.dirum) (d.markSource_only src sev inj) :)
@[simp] theorem Dev.markSource_lgs (src sev : Nat) (inj : Bool) : (d.markSource src sev inj).lgs = d.lgs := 
  (congrArg (fun x : Dev => x.lgs) (d.markSource_only src sev inj) :)
@[simp] theorem Dev.markSource_lanes (src sev : Nat) (inj : Bool) : (d.markSource src sev inj).lanes = d.lanes := 
  (congrArg (fun x : Dev => x.lanes) (d.markSource_only src sev inj) :)
@[simp] theorem Dev.markSource_phys (src sev : Nat) (inj : Bool) : (d.markSource src sev inj).phys = d.phys := 
  (congrArg (fun x : Dev => x.phys) (d.markSource_only src sev inj) :)
@[simp] theorem Dev.markSource_tmus (src sev : Nat) (inj : Bool) : (d.markSource src sev inj).tmus = d.tmus := 
  (congrArg (fun x : Dev => x.tmus) (d.markSource_only src sev inj) :)
@[simp] theorem Dev.markSource_freqs (src sev : Nat) (inj : Bool) : (d.markSource src sev inj).freqs = d.freqs := 
  (congrArg (fun x : Dev => x.freqs) (d.markSource_only src sev inj) :)
@[simp] theorem Dev.markSource_fins (src sev : Nat) (inj : Bool) : (d.markSource src sev inj).fins = d.fins := 
  (congrArg (fun x : Dev => x.fins) (d.markSource_only src sev inj) :)
@[simp] theorem Dev.markSource_clusters (src sev : Nat) (inj : Bool) : (d.markSource src sev inj).clusters = d.clusters := 
  (congrArg (fun x : Dev => x.clusters) (d.markSource_only src sev inj) :)
@[simp] theorem Dev.markSource_lines (src sev : Nat) (inj : Bool) : (d.markSource src sev inj).lines = d.lines := 
  (congrArg (fun x : Dev => x.lines) (d.markSource_only src sev inj) :)
@[simp] theorem Dev.markSource_gmx (src sev : Nat) (inj : Bool) : (d.markSource src sev inj).gmx = d.gmx := 
  (congrArg (fun x : Dev => x.gmx) (d.markSource_only src sev inj) :)
@[simp] theorem Dev.markSource_gStage (src sev : Nat) (inj : Bool) : (d.markSource src sev inj).gStage = d.gStage := 
  (congrArg (fun x : Dev => x.gStage) (d.markSource_only src sev inj) :)
@[simp] theorem Dev.markSource_fade (src sev : Nat) (inj : Bool) : (d.markSource src sev inj).fade = d.fade := 
  (congrArg (fun x : Dev => x.fade) (d.markSource_only src sev inj) :)
@[simp] theorem Dev.markSource_loopQ (src sev : Nat) (inj : Bool) : (d.markSource src sev inj).loopQ = d.loopQ := 
  (congrArg (fun x : Dev => x.loopQ) (d.markSource_only src sev inj) :)
@[simp] theorem Dev.markSource_stalled (src sev : Nat) (inj : Bool) : (d.markSource src sev inj).stalled = d.stalled := 
  (congrArg (fun x : Dev => x.stalled) (d.markSource_only src sev inj) :)
@[simp] theorem Dev.markSource_cal (src sev : Nat) (inj : Bool) : (d.markSource src sev inj).cal = d.cal := 
  (congrArg (fun x : Dev => x.cal) (d.markSource_only src sev inj) :)
@[simp] theorem Dev.markSource_pe (src sev : Nat) (inj : Bool) : (d.markSource src sev inj).pe = d.pe := 
  (congrArg (fun x : Dev => x.pe) (d.markSource_only src sev inj) :)
@[simp] theorem Dev.markSource_sched (src sev : Nat) (inj : Bool) : (d.markSource src sev inj).sched = d.sched := 
  (congrArg (fun x : Dev => x.sched) (d.markSource_only src sev inj) :)
@[simp] theorem Dev.markSource_bist (src sev : Nat) (inj : Bool) : (d.markSource src sev inj).bist = d.bist := 
  (congrArg (fun x : Dev => x.bist) (d.markSource_only src sev inj) :)
@[simp] theorem Dev.markSource_flt (src sev : Nat) (inj : Bool) : (d.markSource src sev inj).flt = d.flt := 
  (congrArg (fun x : Dev => x.flt) (d.markSource_only src sev inj) :)
@[simp] theorem Dev.markSource_sess (src sev : Nat) (inj : Bool) : (d.markSource src sev inj).sess = d.sess := 
  (congrArg (fun x : Dev => x.sess) (d.markSource_only src sev inj) :)
@[simp] theorem Dev.markSource_links (src sev : Nat) (inj : Bool) : (d.markSource src sev inj).links = d.links := 
  (congrArg (fun x : Dev => x.links) (d.markSource_only src sev inj) :)
@[simp] theorem Dev.markSource_rings (src sev : Nat) (inj : Bool) : (d.markSource src sev inj).rings = d.rings := 
  (congrArg (fun x : Dev => x.rings) (d.markSource_only src sev inj) :)
@[simp] theorem Dev.markSource_nvmQ (src sev : Nat) (inj : Bool) : (d.markSource src sev inj).nvmQ = d.nvmQ := 
  (congrArg (fun x : Dev => x.nvmQ) (d.markSource_only src sev inj) :)
@[simp] theorem Dev.markSource_nvmCur (src sev : Nat) (inj : Bool) : (d.markSource src sev inj).nvmCur = d.nvmCur := 
  (congrArg (fun x : Dev => x.nvmCur) (d.markSource_only src sev inj) :)
@[simp] theorem Dev.markSource_sec (src sev : Nat) (inj : Bool) : (d.markSource src sev inj).sec = d.sec := 
  (congrArg (fun x : Dev => x.sec) (d.markSource_only src sev inj) :)
@[simp] theorem Dev.markSource_pln (src sev : Nat) (inj : Bool) : (d.markSource src sev inj).pln = d.pln := 
  (congrArg (fun x : Dev => x.pln) (d.markSource_only src sev inj) :)
@[simp] theorem Dev.markSource_boot (src sev : Nat) (inj : Bool) : (d.markSource src sev inj).boot = d.boot := 
  (congrArg (fun x : Dev => x.boot) (d.markSource_only src sev inj) :)
@[simp] theorem Dev.markSource_poison (src sev : Nat) (inj : Bool) : (d.markSource src sev inj).poison = d.poison := 
  (congrArg (fun x : Dev => x.poison) (d.markSource_only src sev inj) :)
@[simp] theorem Dev.markSource_out (src sev : Nat) (inj : Bool) : (d.markSource src sev inj).out = d.out := 
  (congrArg (fun x : Dev => x.out) (d.markSource_only src sev inj) :)
@[simp] theorem Dev.markSource_dbg (src sev : Nat) (inj : Bool) : (d.markSource src sev inj).dbg = d.dbg := 
  (congrArg (fun x : Dev => x.dbg) (d.markSource_only src sev inj) :)
@[simp] theorem Dev.markSource_reply (src sev : Nat) (inj : Bool) : (d.markSource src sev inj).reply = d.reply := 
  (congrArg (fun x : Dev => x.reply) (d.markSource_only src sev inj) :)
@[simp] theorem Dev.markSource_replyEp (src sev : Nat) (inj : Bool) : (d.markSource src sev inj).replyEp = d.replyEp := 
  (congrArg (fun x : Dev => x.replyEp) (d.markSource_only src sev inj) :)
@[simp] theorem Dev.markSource_smb (src sev : Nat) (inj : Bool) : (d.markSource src sev inj).smb = d.smb := 
  (congrArg (fun x : Dev => x.smb) (d.markSource_only src sev inj) :)
@[simp] theorem Dev.markSource_tdo (src sev : Nat) (inj : Bool) : (d.markSource src sev inj).tdo = d.tdo := 
  (congrArg (fun x : Dev => x.tdo) (d.markSource_only src sev inj) :)
@[simp] theorem Dev.markSource_undo (src sev : Nat) (inj : Bool) : (d.markSource src sev inj).undo = d.undo := 
  (congrArg (fun x : Dev => x.undo) (d.markSource_only src sev inj) :)
@[simp] theorem Dev.markSource_serves (src sev : Nat) (inj : Bool) : (d.markSource src sev inj).serves = d.serves := 
  (congrArg (fun x : Dev => x.serves) (d.markSource_only src sev inj) :)
@[simp] theorem Dev.markSource_lane (src sev : Nat) (inj : Bool) (j : Nat) : (d.markSource src sev inj).lane j = d.lane j := 
  (congrArg (fun x => x.lane j) (d.markSource_only src sev inj) :)
@[simp] theorem Dev.markSource_cl (src sev : Nat) (inj : Bool) (j : Nat) : (d.markSource src sev inj).cl j = d.cl j := 
  (congrArg (fun x => x.cl j) (d.markSource_only src sev inj) :)
@[simp] theorem Dev.markSource_ph (src sev : Nat) (inj : Bool) (i j : Nat) : (d.markSource src sev inj).ph i j = d.ph i j := 
  (congrArg (fun x => x.ph i j) (d.markSource_only src sev inj) :)
@[simp] theorem Dev.markSource_tmu (src sev : Nat) (inj : Bool) (i j : Nat) : (d.markSource src sev inj).tmu i j = d.tmu i j := 
  (congrArg (fun x => x.tmu i j) (d.markSource_only src sev inj) :)
@[simp] theorem Dev.markSource_fq (src sev : Nat) (inj : Bool) (j : Nat) : (d.markSource src sev inj).fq j = d.fq j := 
  (congrArg (fun x => x.fq j) (d.markSource_only src sev inj) :)
@[simp] theorem Dev.markSource_lg (src sev : Nat) (inj : Bool) (j : Nat) : (d.markSource src sev inj).lg j = d.lg j := 
  (congrArg (fun x => x.lg j) (d.markSource_only src sev inj) :)
@[simp] theorem Dev.markSource_line (src sev : Nat) (inj : Bool) (j : Nat) : (d.markSource src sev inj).line j = d.line j := 
  (congrArg (fun x => x.line j) (d.markSource_only src sev inj) :)
@[simp] theorem Dev.markSource_sn (src sev : Nat) (inj : Bool) (j : Nat) : (d.markSource src sev inj).sn j = d.sn j := 
  (congrArg (fun x => x.sn j) (d.markSource_only src sev inj) :)
@[simp] theorem Dev.markSource_ring (src sev : Nat) (inj : Bool) (j : Nat) : (d.markSource src sev inj).ring j = d.ring j := 
  (congrArg (fun x => x.ring j) (d.markSource_only src sev inj) :)
@[simp] theorem Dev.markSource_source (src sev : Nat) (inj : Bool) (j : Nat) : (d.markSource src sev inj).source j = d.source j := 
  (congrArg (fun x => x.source j) (d.markSource_only src sev inj) :)

/-! ### raise -/

/-- The only parts that `raise` can change. -/
theorem Dev.raise_only (src kind sev addr : Nat) (dest : List Nat) :
    d.raise src kind sev addr dest = { d with regs := (d.raise src kind sev addr dest).regs, fresh := (d.raise src kind sev addr dest).fresh, flt := (d.raise src kind sev addr dest).flt } :=
  by unfold Dev.raise; dsimp only; rw [d.markSource_only src sev false]; split <;> rfl

@[simp] theorem Dev.raise_epoch (src kind sev addr : Nat) (dest : List Nat) : (d.raise src kind sev addr dest).epoch = d.epoch := 
  (congrArg (fun x : Dev => x.epoch) (d.raise_only src kind sev addr dest) :)
@[simp] theorem Dev.raise_up (src kind sev addr : Nat) (dest : List Nat) : (d.raise src kind sev addr dest).up = d.up := 
  (congrArg (fun x : Dev => x.up) (d.raise_only src kind sev addr dest) :)
@[simp] theorem Dev.raise_free (src kind sev addr : Nat) (dest : List Nat) : (d.raise src kind sev addr dest).free = d.free := 
  (congrArg (fun x : Dev => x.free) (d.raise_only src kind sev addr dest) :)
@[simp] theorem Dev.raise_options (src kind sev addr : Nat) (dest : List Nat) : (d.raise src kind sev addr dest).options = d.options := 
  (congrArg (fun x : Dev => x.options) (d.raise_only src kind sev addr dest) :)
@[simp] theorem Dev.raise_hold (src kind sev addr : Nat) (dest : List Nat) : (d.raise src kind sev addr dest).hold = d.hold := 
  (congrArg (fun x : Dev => x.hold) (d.raise_only src kind sev addr dest) :)
@[simp] theorem Dev.raise_capt (src kind sev addr : Nat) (dest : List Nat) : (d.raise src kind sev addr dest).capt = d.capt := 
  (congrArg (fun x : Dev => x.capt) (d.raise_only src kind sev addr dest) :)
@[simp] theorem Dev.raise_pageReset (src kind sev addr : Nat) (dest : List Nat) : (d.raise src kind sev addr dest).pageReset = d.pageReset := 
  (congrArg (fun x : Dev => x.pageReset) (d.raise_only src kind sev addr dest) :)
@[simp] theorem Dev.raise_ports (src kind sev addr : Nat) (dest : List Nat) : (d.raise src kind sev addr dest).ports = d.ports := 
  (congrArg (fun x : Dev => x.ports) (d.raise_only src kind sev addr dest) :)
@[simp] theorem Dev.raise_again (src kind sev addr : Nat) (dest : List Nat) : (d.raise src kind sev addr dest).again = d.again := 
  (congrArg (fun x : Dev => x.again) (d.raise_only src kind sev addr dest) :)
@[simp] theorem Dev.raise_tb (src kind sev addr : Nat) (dest : List Nat) : (d.raise src kind sev addr dest).tb = d.tb := 
  (congrArg (fun x : Dev => x.tb) (d.raise_only src kind sev addr dest) :)
@[simp] theorem Dev.raise_dirum (src kind sev addr : Nat) (dest : List Nat) : (d.raise src kind sev addr dest).dirum = d.dirum := 
  (congrArg (fun x : Dev => x.dirum) (d.raise_only src kind sev addr dest) :)
@[simp] theorem Dev.raise_lgs (src kind sev addr : Nat) (dest : List Nat) : (d.raise src kind sev addr dest).lgs = d.lgs := 
  (congrArg (fun x : Dev => x.lgs) (d.raise_only src kind sev addr dest) :)
@[simp] theorem Dev.raise_lanes (src kind sev addr : Nat) (dest : List Nat) : (d.raise src kind sev addr dest).lanes = d.lanes := 
  (congrArg (fun x : Dev => x.lanes) (d.raise_only src kind sev addr dest) :)
@[simp] theorem Dev.raise_phys (src kind sev addr : Nat) (dest : List Nat) : (d.raise src kind sev addr dest).phys = d.phys := 
  (congrArg (fun x : Dev => x.phys) (d.raise_only src kind sev addr dest) :)
@[simp] theorem Dev.raise_tmus (src kind sev addr : Nat) (dest : List Nat) : (d.raise src kind sev addr dest).tmus = d.tmus := 
  (congrArg (fun x : Dev => x.tmus) (d.raise_only src kind sev addr dest) :)
@[simp] theorem Dev.raise_freqs (src kind sev addr : Nat) (dest : List Nat) : (d.raise src kind sev addr dest).freqs = d.freqs := 
  (congrArg (fun x : Dev => x.freqs) (d.raise_only src kind sev addr dest) :)
@[simp] theorem Dev.raise_fins (src kind sev addr : Nat) (dest : List Nat) : (d.raise src kind sev addr dest).fins = d.fins := 
  (congrArg (fun x : Dev => x.fins) (d.raise_only src kind sev addr dest) :)
@[simp] theorem Dev.raise_clusters (src kind sev addr : Nat) (dest : List Nat) : (d.raise src kind sev addr dest).clusters = d.clusters := 
  (congrArg (fun x : Dev => x.clusters) (d.raise_only src kind sev addr dest) :)
@[simp] theorem Dev.raise_lines (src kind sev addr : Nat) (dest : List Nat) : (d.raise src kind sev addr dest).lines = d.lines := 
  (congrArg (fun x : Dev => x.lines) (d.raise_only src kind sev addr dest) :)
@[simp] theorem Dev.raise_gmx (src kind sev addr : Nat) (dest : List Nat) : (d.raise src kind sev addr dest).gmx = d.gmx := 
  (congrArg (fun x : Dev => x.gmx) (d.raise_only src kind sev addr dest) :)
@[simp] theorem Dev.raise_gStage (src kind sev addr : Nat) (dest : List Nat) : (d.raise src kind sev addr dest).gStage = d.gStage := 
  (congrArg (fun x : Dev => x.gStage) (d.raise_only src kind sev addr dest) :)
@[simp] theorem Dev.raise_fade (src kind sev addr : Nat) (dest : List Nat) : (d.raise src kind sev addr dest).fade = d.fade := 
  (congrArg (fun x : Dev => x.fade) (d.raise_only src kind sev addr dest) :)
@[simp] theorem Dev.raise_loopQ (src kind sev addr : Nat) (dest : List Nat) : (d.raise src kind sev addr dest).loopQ = d.loopQ := 
  (congrArg (fun x : Dev => x.loopQ) (d.raise_only src kind sev addr dest) :)
@[simp] theorem Dev.raise_stalled (src kind sev addr : Nat) (dest : List Nat) : (d.raise src kind sev addr dest).stalled = d.stalled := 
  (congrArg (fun x : Dev => x.stalled) (d.raise_only src kind sev addr dest) :)
@[simp] theorem Dev.raise_cal (src kind sev addr : Nat) (dest : List Nat) : (d.raise src kind sev addr dest).cal = d.cal := 
  (congrArg (fun x : Dev => x.cal) (d.raise_only src kind sev addr dest) :)
@[simp] theorem Dev.raise_pe (src kind sev addr : Nat) (dest : List Nat) : (d.raise src kind sev addr dest).pe = d.pe := 
  (congrArg (fun x : Dev => x.pe) (d.raise_only src kind sev addr dest) :)
@[simp] theorem Dev.raise_sched (src kind sev addr : Nat) (dest : List Nat) : (d.raise src kind sev addr dest).sched = d.sched := 
  (congrArg (fun x : Dev => x.sched) (d.raise_only src kind sev addr dest) :)
@[simp] theorem Dev.raise_bist (src kind sev addr : Nat) (dest : List Nat) : (d.raise src kind sev addr dest).bist = d.bist := 
  (congrArg (fun x : Dev => x.bist) (d.raise_only src kind sev addr dest) :)
@[simp] theorem Dev.raise_sess (src kind sev addr : Nat) (dest : List Nat) : (d.raise src kind sev addr dest).sess = d.sess := 
  (congrArg (fun x : Dev => x.sess) (d.raise_only src kind sev addr dest) :)
@[simp] theorem Dev.raise_links (src kind sev addr : Nat) (dest : List Nat) : (d.raise src kind sev addr dest).links = d.links := 
  (congrArg (fun x : Dev => x.links) (d.raise_only src kind sev addr dest) :)
@[simp] theorem Dev.raise_rings (src kind sev addr : Nat) (dest : List Nat) : (d.raise src kind sev addr dest).rings = d.rings := 
  (congrArg (fun x : Dev => x.rings) (d.raise_only src kind sev addr dest) :)
@[simp] theorem Dev.raise_nvmQ (src kind sev addr : Nat) (dest : List Nat) : (d.raise src kind sev addr dest).nvmQ = d.nvmQ := 
  (congrArg (fun x : Dev => x.nvmQ) (d.raise_only src kind sev addr dest) :)
@[simp] theorem Dev.raise_nvmCur (src kind sev addr : Nat) (dest : List Nat) : (d.raise src kind sev addr dest).nvmCur = d.nvmCur := 
  (congrArg (fun x : Dev => x.nvmCur) (d.raise_only src kind sev addr dest) :)
@[simp] theorem Dev.raise_sec (src kind sev addr : Nat) (dest : List Nat) : (d.raise src kind sev addr dest).sec = d.sec := 
  (congrArg (fun x : Dev => x.sec) (d.raise_only src kind sev addr dest) :)
@[simp] theorem Dev.raise_pln (src kind sev addr : Nat) (dest : List Nat) : (d.raise src kind sev addr dest).pln = d.pln := 
  (congrArg (fun x : Dev => x.pln) (d.raise_only src kind sev addr dest) :)
@[simp] theorem Dev.raise_boot (src kind sev addr : Nat) (dest : List Nat) : (d.raise src kind sev addr dest).boot = d.boot := 
  (congrArg (fun x : Dev => x.boot) (d.raise_only src kind sev addr dest) :)
@[simp] theorem Dev.raise_poison (src kind sev addr : Nat) (dest : List Nat) : (d.raise src kind sev addr dest).poison = d.poison := 
  (congrArg (fun x : Dev => x.poison) (d.raise_only src kind sev addr dest) :)
@[simp] theorem Dev.raise_out (src kind sev addr : Nat) (dest : List Nat) : (d.raise src kind sev addr dest).out = d.out := 
  (congrArg (fun x : Dev => x.out) (d.raise_only src kind sev addr dest) :)
@[simp] theorem Dev.raise_dbg (src kind sev addr : Nat) (dest : List Nat) : (d.raise src kind sev addr dest).dbg = d.dbg := 
  (congrArg (fun x : Dev => x.dbg) (d.raise_only src kind sev addr dest) :)
@[simp] theorem Dev.raise_reply (src kind sev addr : Nat) (dest : List Nat) : (d.raise src kind sev addr dest).reply = d.reply := 
  (congrArg (fun x : Dev => x.reply) (d.raise_only src kind sev addr dest) :)
@[simp] theorem Dev.raise_replyEp (src kind sev addr : Nat) (dest : List Nat) : (d.raise src kind sev addr dest).replyEp = d.replyEp := 
  (congrArg (fun x : Dev => x.replyEp) (d.raise_only src kind sev addr dest) :)
@[simp] theorem Dev.raise_smb (src kind sev addr : Nat) (dest : List Nat) : (d.raise src kind sev addr dest).smb = d.smb := 
  (congrArg (fun x : Dev => x.smb) (d.raise_only src kind sev addr dest) :)
@[simp] theorem Dev.raise_tdo (src kind sev addr : Nat) (dest : List Nat) : (d.raise src kind sev addr dest).tdo = d.tdo := 
  (congrArg (fun x : Dev => x.tdo) (d.raise_only src kind sev addr dest) :)
@[simp] theorem Dev.raise_undo (src kind sev addr : Nat) (dest : List Nat) : (d.raise src kind sev addr dest).undo = d.undo := 
  (congrArg (fun x : Dev => x.undo) (d.raise_only src kind sev addr dest) :)
@[simp] theorem Dev.raise_serves (src kind sev addr : Nat) (dest : List Nat) : (d.raise src kind sev addr dest).serves = d.serves := 
  (congrArg (fun x : Dev => x.serves) (d.raise_only src kind sev addr dest) :)
@[simp] theorem Dev.raise_lane (src kind sev addr : Nat) (dest : List Nat) (j : Nat) : (d.raise src kind sev addr dest).lane j = d.lane j := 
  (congrArg (fun x => x.lane j) (d.raise_only src kind sev addr dest) :)
@[simp] theorem Dev.raise_cl (src kind sev addr : Nat) (dest : List Nat) (j : Nat) : (d.raise src kind sev addr dest).cl j = d.cl j := 
  (congrArg (fun x => x.cl j) (d.raise_only src kind sev addr dest) :)
@[simp] theorem Dev.raise_ph (src kind sev addr : Nat) (dest : List Nat) (i j : Nat) : (d.raise src kind sev addr dest).ph i j = d.ph i j := 
  (congrArg (fun x => x.ph i j) (d.raise_only src kind sev addr dest) :)
@[simp] theorem Dev.raise_tmu (src kind sev addr : Nat) (dest : List Nat) (i j : Nat) : (d.raise src kind sev addr dest).tmu i j = d.tmu i j := 
  (congrArg (fun x => x.tmu i j) (d.raise_only src kind sev addr dest) :)
@[simp] theorem Dev.raise_fq (src kind sev addr : Nat) (dest : List Nat) (j : Nat) : (d.raise src kind sev addr dest).fq j = d.fq j := 
  (congrArg (fun x => x.fq j) (d.raise_only src kind sev addr dest) :)
@[simp] theorem Dev.raise_lg (src kind sev addr : Nat) (dest : List Nat) (j : Nat) : (d.raise src kind sev addr dest).lg j = d.lg j := 
  (congrArg (fun x => x.lg j) (d.raise_only src kind sev addr dest) :)
@[simp] theorem Dev.raise_line (src kind sev addr : Nat) (dest : List Nat) (j : Nat) : (d.raise src kind sev addr dest).line j = d.line j := 
  (congrArg (fun x => x.line j) (d.raise_only src kind sev addr dest) :)
@[simp] theorem Dev.raise_sn (src kind sev addr : Nat) (dest : List Nat) (j : Nat) : (d.raise src kind sev addr dest).sn j = d.sn j := 
  (congrArg (fun x => x.sn j) (d.raise_only src kind sev addr dest) :)
@[simp] theorem Dev.raise_ring (src kind sev addr : Nat) (dest : List Nat) (j : Nat) : (d.raise src kind sev addr dest).ring j = d.ring j := 
  (congrArg (fun x => x.ring j) (d.raise_only src kind sev addr dest) :)

/-! ### discard -/

/-- The only parts that `discard` can change. -/
theorem Dev.discard_only (ss : Nat) (pg : Page) (off : Nat) :
    d.discard ss pg off = { d with regs := (d.discard ss pg off).regs, fresh := (d.discard ss pg off).fresh, flt := (d.discard ss pg off).flt } :=
  d.raise_only _ _ _ _ _

@[simp] theorem Dev.discard_epoch (ss : Nat) (pg : Page) (off : Nat) : (d.discard ss pg off).epoch = d.epoch := 
  (congrArg (fun x : Dev => x.epoch) (d.discard_only ss pg off) :)
@[simp] theorem Dev.discard_up (ss : Nat) (pg : Page) (off : Nat) : (d.discard ss pg off).up = d.up := 
  (congrArg (fun x : Dev => x.up) (d.discard_only ss pg off) :)
@[simp] theorem Dev.discard_free (ss : Nat) (pg : Page) (off : Nat) : (d.discard ss pg off).free = d.free := 
  (congrArg (fun x : Dev => x.free) (d.discard_only ss pg off) :)
@[simp] theorem Dev.discard_options (ss : Nat) (pg : Page) (off : Nat) : (d.discard ss pg off).options = d.options := 
  (congrArg (fun x : Dev => x.options) (d.discard_only ss pg off) :)
@[simp] theorem Dev.discard_hold (ss : Nat) (pg : Page) (off : Nat) : (d.discard ss pg off).hold = d.hold := 
  (congrArg (fun x : Dev => x.hold) (d.discard_only ss pg off) :)
@[simp] theorem Dev.discard_capt (ss : Nat) (pg : Page) (off : Nat) : (d.discard ss pg off).capt = d.capt := 
  (congrArg (fun x : Dev => x.capt) (d.discard_only ss pg off) :)
@[simp] theorem Dev.discard_pageReset (ss : Nat) (pg : Page) (off : Nat) : (d.discard ss pg off).pageReset = d.pageReset := 
  (congrArg (fun x : Dev => x.pageReset) (d.discard_only ss pg off) :)
@[simp] theorem Dev.discard_ports (ss : Nat) (pg : Page) (off : Nat) : (d.discard ss pg off).ports = d.ports := 
  (congrArg (fun x : Dev => x.ports) (d.discard_only ss pg off) :)
@[simp] theorem Dev.discard_again (ss : Nat) (pg : Page) (off : Nat) : (d.discard ss pg off).again = d.again := 
  (congrArg (fun x : Dev => x.again) (d.discard_only ss pg off) :)
@[simp] theorem Dev.discard_tb (ss : Nat) (pg : Page) (off : Nat) : (d.discard ss pg off).tb = d.tb := 
  (congrArg (fun x : Dev => x.tb) (d.discard_only ss pg off) :)
@[simp] theorem Dev.discard_dirum (ss : Nat) (pg : Page) (off : Nat) : (d.discard ss pg off).dirum = d.dirum := 
  (congrArg (fun x : Dev => x.dirum) (d.discard_only ss pg off) :)
@[simp] theorem Dev.discard_lgs (ss : Nat) (pg : Page) (off : Nat) : (d.discard ss pg off).lgs = d.lgs := 
  (congrArg (fun x : Dev => x.lgs) (d.discard_only ss pg off) :)
@[simp] theorem Dev.discard_lanes (ss : Nat) (pg : Page) (off : Nat) : (d.discard ss pg off).lanes = d.lanes := 
  (congrArg (fun x : Dev => x.lanes) (d.discard_only ss pg off) :)
@[simp] theorem Dev.discard_phys (ss : Nat) (pg : Page) (off : Nat) : (d.discard ss pg off).phys = d.phys := 
  (congrArg (fun x : Dev => x.phys) (d.discard_only ss pg off) :)
@[simp] theorem Dev.discard_tmus (ss : Nat) (pg : Page) (off : Nat) : (d.discard ss pg off).tmus = d.tmus := 
  (congrArg (fun x : Dev => x.tmus) (d.discard_only ss pg off) :)
@[simp] theorem Dev.discard_freqs (ss : Nat) (pg : Page) (off : Nat) : (d.discard ss pg off).freqs = d.freqs := 
  (congrArg (fun x : Dev => x.freqs) (d.discard_only ss pg off) :)
@[simp] theorem Dev.discard_fins (ss : Nat) (pg : Page) (off : Nat) : (d.discard ss pg off).fins = d.fins := 
  (congrArg (fun x : Dev => x.fins) (d.discard_only ss pg off) :)
@[simp] theorem Dev.discard_clusters (ss : Nat) (pg : Page) (off : Nat) : (d.discard ss pg off).clusters = d.clusters := 
  (congrArg (fun x : Dev => x.clusters) (d.discard_only ss pg off) :)
@[simp] theorem Dev.discard_lines (ss : Nat) (pg : Page) (off : Nat) : (d.discard ss pg off).lines = d.lines := 
  (congrArg (fun x : Dev => x.lines) (d.discard_only ss pg off) :)
@[simp] theorem Dev.discard_gmx (ss : Nat) (pg : Page) (off : Nat) : (d.discard ss pg off).gmx = d.gmx := 
  (congrArg (fun x : Dev => x.gmx) (d.discard_only ss pg off) :)
@[simp] theorem Dev.discard_gStage (ss : Nat) (pg : Page) (off : Nat) : (d.discard ss pg off).gStage = d.gStage := 
  (congrArg (fun x : Dev => x.gStage) (d.discard_only ss pg off) :)
@[simp] theorem Dev.discard_fade (ss : Nat) (pg : Page) (off : Nat) : (d.discard ss pg off).fade = d.fade := 
  (congrArg (fun x : Dev => x.fade) (d.discard_only ss pg off) :)
@[simp] theorem Dev.discard_loopQ (ss : Nat) (pg : Page) (off : Nat) : (d.discard ss pg off).loopQ = d.loopQ := 
  (congrArg (fun x : Dev => x.loopQ) (d.discard_only ss pg off) :)
@[simp] theorem Dev.discard_stalled (ss : Nat) (pg : Page) (off : Nat) : (d.discard ss pg off).stalled = d.stalled := 
  (congrArg (fun x : Dev => x.stalled) (d.discard_only ss pg off) :)
@[simp] theorem Dev.discard_cal (ss : Nat) (pg : Page) (off : Nat) : (d.discard ss pg off).cal = d.cal := 
  (congrArg (fun x : Dev => x.cal) (d.discard_only ss pg off) :)
@[simp] theorem Dev.discard_pe (ss : Nat) (pg : Page) (off : Nat) : (d.discard ss pg off).pe = d.pe := 
  (congrArg (fun x : Dev => x.pe) (d.discard_only ss pg off) :)
@[simp] theorem Dev.discard_sched (ss : Nat) (pg : Page) (off : Nat) : (d.discard ss pg off).sched = d.sched := 
  (congrArg (fun x : Dev => x.sched) (d.discard_only ss pg off) :)
@[simp] theorem Dev.discard_bist (ss : Nat) (pg : Page) (off : Nat) : (d.discard ss pg off).bist = d.bist := 
  (congrArg (fun x : Dev => x.bist) (d.discard_only ss pg off) :)
@[simp] theorem Dev.discard_sess (ss : Nat) (pg : Page) (off : Nat) : (d.discard ss pg off).sess = d.sess := 
  (congrArg (fun x : Dev => x.sess) (d.discard_only ss pg off) :)
@[simp] theorem Dev.discard_links (ss : Nat) (pg : Page) (off : Nat) : (d.discard ss pg off).links = d.links := 
  (congrArg (fun x : Dev => x.links) (d.discard_only ss pg off) :)
@[simp] theorem Dev.discard_rings (ss : Nat) (pg : Page) (off : Nat) : (d.discard ss pg off).rings = d.rings := 
  (congrArg (fun x : Dev => x.rings) (d.discard_only ss pg off) :)
@[simp] theorem Dev.discard_nvmQ (ss : Nat) (pg : Page) (off : Nat) : (d.discard ss pg off).nvmQ = d.nvmQ := 
  (congrArg (fun x : Dev => x.nvmQ) (d.discard_only ss pg off) :)
@[simp] theorem Dev.discard_nvmCur (ss : Nat) (pg : Page) (off : Nat) : (d.discard ss pg off).nvmCur = d.nvmCur := 
  (congrArg (fun x : Dev => x.nvmCur) (d.discard_only ss pg off) :)
@[simp] theorem Dev.discard_sec (ss : Nat) (pg : Page) (off : Nat) : (d.discard ss pg off).sec = d.sec := 
  (congrArg (fun x : Dev => x.sec) (d.discard_only ss pg off) :)
@[simp] theorem Dev.discard_pln (ss : Nat) (pg : Page) (off : Nat) : (d.discard ss pg off).pln = d.pln := 
  (congrArg (fun x : Dev => x.pln) (d.discard_only ss pg off) :)
@[simp] theorem Dev.discard_boot (ss : Nat) (pg : Page) (off : Nat) : (d.discard ss pg off).boot = d.boot := 
  (congrArg (fun x : Dev => x.boot) (d.discard_only ss pg off) :)
@[simp] theorem Dev.discard_poison (ss : Nat) (pg : Page) (off : Nat) : (d.discard ss pg off).poison = d.poison := 
  (congrArg (fun x : Dev => x.poison) (d.discard_only ss pg off) :)
@[simp] theorem Dev.discard_out (ss : Nat) (pg : Page) (off : Nat) : (d.discard ss pg off).out = d.out := 
  (congrArg (fun x : Dev => x.out) (d.discard_only ss pg off) :)
@[simp] theorem Dev.discard_dbg (ss : Nat) (pg : Page) (off : Nat) : (d.discard ss pg off).dbg = d.dbg := 
  (congrArg (fun x : Dev => x.dbg) (d.discard_only ss pg off) :)
@[simp] theorem Dev.discard_reply (ss : Nat) (pg : Page) (off : Nat) : (d.discard ss pg off).reply = d.reply := 
  (congrArg (fun x : Dev => x.reply) (d.discard_only ss pg off) :)
@[simp] theorem Dev.discard_replyEp (ss : Nat) (pg : Page) (off : Nat) : (d.discard ss pg off).replyEp = d.replyEp := 
  (congrArg (fun x : Dev => x.replyEp) (d.discard_only ss pg off) :)
@[simp] theorem Dev.discard_smb (ss : Nat) (pg : Page) (off : Nat) : (d.discard ss pg off).smb = d.smb := 
  (congrArg (fun x : Dev => x.smb) (d.discard_only ss pg off) :)
@[simp] theorem Dev.discard_tdo (ss : Nat) (pg : Page) (off : Nat) : (d.discard ss pg off).tdo = d.tdo := 
  (congrArg (fun x : Dev => x.tdo) (d.discard_only ss pg off) :)
@[simp] theorem Dev.discard_undo (ss : Nat) (pg : Page) (off : Nat) : (d.discard ss pg off).undo = d.undo := 
  (congrArg (fun x : Dev => x.undo) (d.discard_only ss pg off) :)
@[simp] theorem Dev.discard_serves (ss : Nat) (pg : Page) (off : Nat) : (d.discard ss pg off).serves = d.serves := 
  (congrArg (fun x : Dev => x.serves) (d.discard_only ss pg off) :)
@[simp] theorem Dev.discard_lane (ss : Nat) (pg : Page) (off : Nat) (j : Nat) : (d.discard ss pg off).lane j = d.lane j := 
  (congrArg (fun x => x.lane j) (d.discard_only ss pg off) :)
@[simp] theorem Dev.discard_cl (ss : Nat) (pg : Page) (off : Nat) (j : Nat) : (d.discard ss pg off).cl j = d.cl j := 
  (congrArg (fun x => x.cl j) (d.discard_only ss pg off) :)
@[simp] theorem Dev.discard_ph (ss : Nat) (pg : Page) (off : Nat) (i j : Nat) : (d.discard ss pg off).ph i j = d.ph i j := 
  (congrArg (fun x => x.ph i j) (d.discard_only ss pg off) :)
@[simp] theorem Dev.discard_tmu (ss : Nat) (pg : Page) (off : Nat) (i j : Nat) : (d.discard ss pg off).tmu i j = d.tmu i j := 
  (congrArg (fun x => x.tmu i j) (d.discard_only ss pg off) :)
@[simp] theorem Dev.discard_fq (ss : Nat) (pg : Page) (off : Nat) (j : Nat) : (d.discard ss pg off).fq j = d.fq j := 
  (congrArg (fun x => x.fq j) (d.discard_only ss pg off) :)
@[simp] theorem Dev.discard_lg (ss : Nat) (pg : Page) (off : Nat) (j : Nat) : (d.discard ss pg off).lg j = d.lg j := 
  (congrArg (fun x => x.lg j) (d.discard_only ss pg off) :)
@[simp] theorem Dev.discard_line (ss : Nat) (pg : Page) (off : Nat) (j : Nat) : (d.discard ss pg off).line j = d.line j := 
  (congrArg (fun x => x.line j) (d.discard_only ss pg off) :)
@[simp] theorem Dev.discard_sn (ss : Nat) (pg : Page) (off : Nat) (j : Nat) : (d.discard ss pg off).sn j = d.sn j := 
  (congrArg (fun x => x.sn j) (d.discard_only ss pg off) :)
@[simp] theorem Dev.discard_ring (ss : Nat) (pg : Page) (off : Nat) (j : Nat) : (d.discard ss pg off).ring j = d.ring j := 
  (congrArg (fun x => x.ring j) (d.discard_only ss pg off) :)

/-! ### discardAt -/

/-- The only parts that `discardAt` can change. -/
theorem Dev.discardAt_only (ss a : Nat) :
    d.discardAt ss a = { d with regs := (d.discardAt ss a).regs, fresh := (d.discardAt ss a).fresh, flt := (d.discardAt ss a).flt } :=
  d.raise_only _ _ _ _ _

@[simp] theorem Dev.discardAt_epoch (ss a : Nat) : (d.discardAt ss a).epoch = d.epoch := 
  (congrArg (fun x : Dev => x.epoch) (d.discardAt_only ss a) :)
@[simp] theorem Dev.discardAt_up (ss a : Nat) : (d.discardAt ss a).up = d.up := 
  (congrArg (fun x : Dev => x.up) (d.discardAt_only ss a) :)
@[simp] theorem Dev.discardAt_free (ss a : Nat) : (d.discardAt ss a).free = d.free := 
  (congrArg (fun x : Dev => x.free) (d.discardAt_only ss a) :)
@[simp] theorem Dev.discardAt_options (ss a : Nat) : (d.discardAt ss a).options = d.options := 
  (congrArg (fun x : Dev => x.options) (d.discardAt_only ss a) :)
@[simp] theorem Dev.discardAt_hold (ss a : Nat) : (d.discardAt ss a).hold = d.hold := 
  (congrArg (fun x : Dev => x.hold) (d.discardAt_only ss a) :)
@[simp] theorem Dev.discardAt_capt (ss a : Nat) : (d.discardAt ss a).capt = d.capt := 
  (congrArg (fun x : Dev => x.capt) (d.discardAt_only ss a) :)
@[simp] theorem Dev.discardAt_pageReset (ss a : Nat) : (d.discardAt ss a).pageReset = d.pageReset := 
  (congrArg (fun x : Dev => x.pageReset) (d.discardAt_only ss a) :)
@[simp] theorem Dev.discardAt_ports (ss a : Nat) : (d.discardAt ss a).ports = d.ports := 
  (congrArg (fun x : Dev => x.ports) (d.discardAt_only ss a) :)
@[simp] theorem Dev.discardAt_again (ss a : Nat) : (d.discardAt ss a).again = d.again := 
  (congrArg (fun x : Dev => x.again) (d.discardAt_only ss a) :)
@[simp] theorem Dev.discardAt_tb (ss a : Nat) : (d.discardAt ss a).tb = d.tb := 
  (congrArg (fun x : Dev => x.tb) (d.discardAt_only ss a) :)
@[simp] theorem Dev.discardAt_dirum (ss a : Nat) : (d.discardAt ss a).dirum = d.dirum := 
  (congrArg (fun x : Dev => x.dirum) (d.discardAt_only ss a) :)
@[simp] theorem Dev.discardAt_lgs (ss a : Nat) : (d.discardAt ss a).lgs = d.lgs := 
  (congrArg (fun x : Dev => x.lgs) (d.discardAt_only ss a) :)
@[simp] theorem Dev.discardAt_lanes (ss a : Nat) : (d.discardAt ss a).lanes = d.lanes := 
  (congrArg (fun x : Dev => x.lanes) (d.discardAt_only ss a) :)
@[simp] theorem Dev.discardAt_phys (ss a : Nat) : (d.discardAt ss a).phys = d.phys := 
  (congrArg (fun x : Dev => x.phys) (d.discardAt_only ss a) :)
@[simp] theorem Dev.discardAt_tmus (ss a : Nat) : (d.discardAt ss a).tmus = d.tmus := 
  (congrArg (fun x : Dev => x.tmus) (d.discardAt_only ss a) :)
@[simp] theorem Dev.discardAt_freqs (ss a : Nat) : (d.discardAt ss a).freqs = d.freqs := 
  (congrArg (fun x : Dev => x.freqs) (d.discardAt_only ss a) :)
@[simp] theorem Dev.discardAt_fins (ss a : Nat) : (d.discardAt ss a).fins = d.fins := 
  (congrArg (fun x : Dev => x.fins) (d.discardAt_only ss a) :)
@[simp] theorem Dev.discardAt_clusters (ss a : Nat) : (d.discardAt ss a).clusters = d.clusters := 
  (congrArg (fun x : Dev => x.clusters) (d.discardAt_only ss a) :)
@[simp] theorem Dev.discardAt_lines (ss a : Nat) : (d.discardAt ss a).lines = d.lines := 
  (congrArg (fun x : Dev => x.lines) (d.discardAt_only ss a) :)
@[simp] theorem Dev.discardAt_gmx (ss a : Nat) : (d.discardAt ss a).gmx = d.gmx := 
  (congrArg (fun x : Dev => x.gmx) (d.discardAt_only ss a) :)
@[simp] theorem Dev.discardAt_gStage (ss a : Nat) : (d.discardAt ss a).gStage = d.gStage := 
  (congrArg (fun x : Dev => x.gStage) (d.discardAt_only ss a) :)
@[simp] theorem Dev.discardAt_fade (ss a : Nat) : (d.discardAt ss a).fade = d.fade := 
  (congrArg (fun x : Dev => x.fade) (d.discardAt_only ss a) :)
@[simp] theorem Dev.discardAt_loopQ (ss a : Nat) : (d.discardAt ss a).loopQ = d.loopQ := 
  (congrArg (fun x : Dev => x.loopQ) (d.discardAt_only ss a) :)
@[simp] theorem Dev.discardAt_stalled (ss a : Nat) : (d.discardAt ss a).stalled = d.stalled := 
  (congrArg (fun x : Dev => x.stalled) (d.discardAt_only ss a) :)
@[simp] theorem Dev.discardAt_cal (ss a : Nat) : (d.discardAt ss a).cal = d.cal := 
  (congrArg (fun x : Dev => x.cal) (d.discardAt_only ss a) :)
@[simp] theorem Dev.discardAt_pe (ss a : Nat) : (d.discardAt ss a).pe = d.pe := 
  (congrArg (fun x : Dev => x.pe) (d.discardAt_only ss a) :)
@[simp] theorem Dev.discardAt_sched (ss a : Nat) : (d.discardAt ss a).sched = d.sched := 
  (congrArg (fun x : Dev => x.sched) (d.discardAt_only ss a) :)
@[simp] theorem Dev.discardAt_bist (ss a : Nat) : (d.discardAt ss a).bist = d.bist := 
  (congrArg (fun x : Dev => x.bist) (d.discardAt_only ss a) :)
@[simp] theorem Dev.discardAt_sess (ss a : Nat) : (d.discardAt ss a).sess = d.sess := 
  (congrArg (fun x : Dev => x.sess) (d.discardAt_only ss a) :)
@[simp] theorem Dev.discardAt_links (ss a : Nat) : (d.discardAt ss a).links = d.links := 
  (congrArg (fun x : Dev => x.links) (d.discardAt_only ss a) :)
@[simp] theorem Dev.discardAt_rings (ss a : Nat) : (d.discardAt ss a).rings = d.rings := 
  (congrArg (fun x : Dev => x.rings) (d.discardAt_only ss a) :)
@[simp] theorem Dev.discardAt_nvmQ (ss a : Nat) : (d.discardAt ss a).nvmQ = d.nvmQ := 
  (congrArg (fun x : Dev => x.nvmQ) (d.discardAt_only ss a) :)
@[simp] theorem Dev.discardAt_nvmCur (ss a : Nat) : (d.discardAt ss a).nvmCur = d.nvmCur := 
  (congrArg (fun x : Dev => x.nvmCur) (d.discardAt_only ss a) :)
@[simp] theorem Dev.discardAt_sec (ss a : Nat) : (d.discardAt ss a).sec = d.sec := 
  (congrArg (fun x : Dev => x.sec) (d.discardAt_only ss a) :)
@[simp] theorem Dev.discardAt_pln (ss a : Nat) : (d.discardAt ss a).pln = d.pln := 
  (congrArg (fun x : Dev => x.pln) (d.discardAt_only ss a) :)
@[simp] theorem Dev.discardAt_boot (ss a : Nat) : (d.discardAt ss a).boot = d.boot := 
  (congrArg (fun x : Dev => x.boot) (d.discardAt_only ss a) :)
@[simp] theorem Dev.discardAt_poison (ss a : Nat) : (d.discardAt ss a).poison = d.poison := 
  (congrArg (fun x : Dev => x.poison) (d.discardAt_only ss a) :)
@[simp] theorem Dev.discardAt_out (ss a : Nat) : (d.discardAt ss a).out = d.out := 
  (congrArg (fun x : Dev => x.out) (d.discardAt_only ss a) :)
@[simp] theorem Dev.discardAt_dbg (ss a : Nat) : (d.discardAt ss a).dbg = d.dbg := 
  (congrArg (fun x : Dev => x.dbg) (d.discardAt_only ss a) :)
@[simp] theorem Dev.discardAt_reply (ss a : Nat) : (d.discardAt ss a).reply = d.reply := 
  (congrArg (fun x : Dev => x.reply) (d.discardAt_only ss a) :)
@[simp] theorem Dev.discardAt_replyEp (ss a : Nat) : (d.discardAt ss a).replyEp = d.replyEp := 
  (congrArg (fun x : Dev => x.replyEp) (d.discardAt_only ss a) :)
@[simp] theorem Dev.discardAt_smb (ss a : Nat) : (d.discardAt ss a).smb = d.smb := 
  (congrArg (fun x : Dev => x.smb) (d.discardAt_only ss a) :)
@[simp] theorem Dev.discardAt_tdo (ss a : Nat) : (d.discardAt ss a).tdo = d.tdo := 
  (congrArg (fun x : Dev => x.tdo) (d.discardAt_only ss a) :)
@[simp] theorem Dev.discardAt_undo (ss a : Nat) : (d.discardAt ss a).undo = d.undo := 
  (congrArg (fun x : Dev => x.undo) (d.discardAt_only ss a) :)
@[simp] theorem Dev.discardAt_serves (ss a : Nat) : (d.discardAt ss a).serves = d.serves := 
  (congrArg (fun x : Dev => x.serves) (d.discardAt_only ss a) :)
@[simp] theorem Dev.discardAt_lane (ss a : Nat) (j : Nat) : (d.discardAt ss a).lane j = d.lane j := 
  (congrArg (fun x => x.lane j) (d.discardAt_only ss a) :)
@[simp] theorem Dev.discardAt_cl (ss a : Nat) (j : Nat) : (d.discardAt ss a).cl j = d.cl j := 
  (congrArg (fun x => x.cl j) (d.discardAt_only ss a) :)
@[simp] theorem Dev.discardAt_ph (ss a : Nat) (i j : Nat) : (d.discardAt ss a).ph i j = d.ph i j := 
  (congrArg (fun x => x.ph i j) (d.discardAt_only ss a) :)
@[simp] theorem Dev.discardAt_tmu (ss a : Nat) (i j : Nat) : (d.discardAt ss a).tmu i j = d.tmu i j := 
  (congrArg (fun x => x.tmu i j) (d.discardAt_only ss a) :)
@[simp] theorem Dev.discardAt_fq (ss a : Nat) (j : Nat) : (d.discardAt ss a).fq j = d.fq j := 
  (congrArg (fun x => x.fq j) (d.discardAt_only ss a) :)
@[simp] theorem Dev.discardAt_lg (ss a : Nat) (j : Nat) : (d.discardAt ss a).lg j = d.lg j := 
  (congrArg (fun x => x.lg j) (d.discardAt_only ss a) :)
@[simp] theorem Dev.discardAt_line (ss a : Nat) (j : Nat) : (d.discardAt ss a).line j = d.line j := 
  (congrArg (fun x => x.line j) (d.discardAt_only ss a) :)
@[simp] theorem Dev.discardAt_sn (ss a : Nat) (j : Nat) : (d.discardAt ss a).sn j = d.sn j := 
  (congrArg (fun x => x.sn j) (d.discardAt_only ss a) :)
@[simp] theorem Dev.discardAt_ring (ss a : Nat) (j : Nat) : (d.discardAt ss a).ring j = d.ring j := 
  (congrArg (fun x => x.ring j) (d.discardAt_only ss a) :)

/-! ### msix -/

/-- The only parts that `msix` can change. -/
theorem Dev.msix_only (ss v : Nat) (owed : Bool) :
    d.msix ss v owed = { d with out := (d.msix ss v owed).out, sess := (d.msix ss v owed).sess } :=
  by unfold Dev.msix; dsimp only; repeat' split
     all_goals rfl

@[simp] theorem Dev.msix_epoch (ss v : Nat) (owed : Bool) : (d.msix ss v owed).epoch = d.epoch := 
  (congrArg (fun x : Dev => x.epoch) (d.msix_only ss v owed) :)
@[simp] theorem Dev.msix_up (ss v : Nat) (owed : Bool) : (d.msix ss v owed).up = d.up := 
  (congrArg (fun x : Dev => x.up) (d.msix_only ss v owed) :)
@[simp] theorem Dev.msix_free (ss v : Nat) (owed : Bool) : (d.msix ss v owed).free = d.free := 
  (congrArg (fun x : Dev => x.free) (d.msix_only ss v owed) :)
@[simp] theorem Dev.msix_options (ss v : Nat) (owed : Bool) : (d.msix ss v owed).options = d.options := 
  (congrArg (fun x : Dev => x.options) (d.msix_only ss v owed) :)
@[simp] theorem Dev.msix_regs (ss v : Nat) (owed : Bool) : (d.msix ss v owed).regs = d.regs := 
  (congrArg (fun x : Dev => x.regs) (d.msix_only ss v owed) :)
@[simp] theorem Dev.msix_hold (ss v : Nat) (owed : Bool) : (d.msix ss v owed).hold = d.hold := 
  (congrArg (fun x : Dev => x.hold) (d.msix_only ss v owed) :)
@[simp] theorem Dev.msix_capt (ss v : Nat) (owed : Bool) : (d.msix ss v owed).capt = d.capt := 
  (congrArg (fun x : Dev => x.capt) (d.msix_only ss v owed) :)
@[simp] theorem Dev.msix_fresh (ss v : Nat) (owed : Bool) : (d.msix ss v owed).fresh = d.fresh := 
  (congrArg (fun x : Dev => x.fresh) (d.msix_only ss v owed) :)
@[simp] theorem Dev.msix_pageReset (ss v : Nat) (owed : Bool) : (d.msix ss v owed).pageReset = d.pageReset := 
  (congrArg (fun x : Dev => x.pageReset) (d.msix_only ss v owed) :)
@[simp] theorem Dev.msix_ports (ss v : Nat) (owed : Bool) : (d.msix ss v owed).ports = d.ports := 
  (congrArg (fun x : Dev => x.ports) (d.msix_only ss v owed) :)
@[simp] theorem Dev.msix_again (ss v : Nat) (owed : Bool) : (d.msix ss v owed).again = d.again := 
  (congrArg (fun x : Dev => x.again) (d.msix_only ss v owed) :)
@[simp] theorem Dev.msix_tb (ss v : Nat) (owed : Bool) : (d.msix ss v owed).tb = d.tb := 
  (congrArg (fun x : Dev => x.tb) (d.msix_only ss v owed) :)
@[simp] theorem Dev.msix_dirum (ss v : Nat) (owed : Bool) : (d.msix ss v owed).dirum = d.dirum := 
  (congrArg (fun x : Dev => x.dirum) (d.msix_only ss v owed) :)
@[simp] theorem Dev.msix_lgs (ss v : Nat) (owed : Bool) : (d.msix ss v owed).lgs = d.lgs := 
  (congrArg (fun x : Dev => x.lgs) (d.msix_only ss v owed) :)
@[simp] theorem Dev.msix_lanes (ss v : Nat) (owed : Bool) : (d.msix ss v owed).lanes = d.lanes := 
  (congrArg (fun x : Dev => x.lanes) (d.msix_only ss v owed) :)
@[simp] theorem Dev.msix_phys (ss v : Nat) (owed : Bool) : (d.msix ss v owed).phys = d.phys := 
  (congrArg (fun x : Dev => x.phys) (d.msix_only ss v owed) :)
@[simp] theorem Dev.msix_tmus (ss v : Nat) (owed : Bool) : (d.msix ss v owed).tmus = d.tmus := 
  (congrArg (fun x : Dev => x.tmus) (d.msix_only ss v owed) :)
@[simp] theorem Dev.msix_freqs (ss v : Nat) (owed : Bool) : (d.msix ss v owed).freqs = d.freqs := 
  (congrArg (fun x : Dev => x.freqs) (d.msix_only ss v owed) :)
@[simp] theorem Dev.msix_fins (ss v : Nat) (owed : Bool) : (d.msix ss v owed).fins = d.fins := 
  (congrArg (fun x : Dev => x.fins) (d.msix_only ss v owed) :)
@[simp] theorem Dev.msix_clusters (ss v : Nat) (owed : Bool) : (d.msix ss v owed).clusters = d.clusters := 
  (congrArg (fun x : Dev => x.clusters) (d.msix_only ss v owed) :)
@[simp] theorem Dev.msix_lines (ss v : Nat) (owed : Bool) : (d.msix ss v owed).lines = d.lines := 
  (congrArg (fun x : Dev => x.lines) (d.msix_only ss v owed) :)
@[simp] theorem Dev.msix_gmx (ss v : Nat) (owed : Bool) : (d.msix ss v owed).gmx = d.gmx := 
  (congrArg (fun x : Dev => x.gmx) (d.msix_only ss v owed) :)
@[simp] theorem Dev.msix_gStage (ss v : Nat) (owed : Bool) : (d.msix ss v owed).gStage = d.gStage := 
  (congrArg (fun x : Dev => x.gStage) (d.msix_only ss v owed) :)
@[simp] theorem Dev.msix_fade (ss v : Nat) (owed : Bool) : (d.msix ss v owed).fade = d.fade := 
  (congrArg (fun x : Dev => x.fade) (d.msix_only ss v owed) :)
@[simp] theorem Dev.msix_loopQ (ss v : Nat) (owed : Bool) : (d.msix ss v owed).loopQ = d.loopQ := 
  (congrArg (fun x : Dev => x.loopQ) (d.msix_only ss v owed) :)
@[simp] theorem Dev.msix_stalled (ss v : Nat) (owed : Bool) : (d.msix ss v owed).stalled = d.stalled := 
  (congrArg (fun x : Dev => x.stalled) (d.msix_only ss v owed) :)
@[simp] theorem Dev.msix_cal (ss v : Nat) (owed : Bool) : (d.msix ss v owed).cal = d.cal := 
  (congrArg (fun x : Dev => x.cal) (d.msix_only ss v owed) :)
@[simp] theorem Dev.msix_pe (ss v : Nat) (owed : Bool) : (d.msix ss v owed).pe = d.pe := 
  (congrArg (fun x : Dev => x.pe) (d.msix_only ss v owed) :)
@[simp] theorem Dev.msix_sched (ss v : Nat) (owed : Bool) : (d.msix ss v owed).sched = d.sched := 
  (congrArg (fun x : Dev => x.sched) (d.msix_only ss v owed) :)
@[simp] theorem Dev.msix_bist (ss v : Nat) (owed : Bool) : (d.msix ss v owed).bist = d.bist := 
  (congrArg (fun x : Dev => x.bist) (d.msix_only ss v owed) :)
@[simp] theorem Dev.msix_flt (ss v : Nat) (owed : Bool) : (d.msix ss v owed).flt = d.flt := 
  (congrArg (fun x : Dev => x.flt) (d.msix_only ss v owed) :)
@[simp] theorem Dev.msix_links (ss v : Nat) (owed : Bool) : (d.msix ss v owed).links = d.links := 
  (congrArg (fun x : Dev => x.links) (d.msix_only ss v owed) :)
@[simp] theorem Dev.msix_rings (ss v : Nat) (owed : Bool) : (d.msix ss v owed).rings = d.rings := 
  (congrArg (fun x : Dev => x.rings) (d.msix_only ss v owed) :)
@[simp] theorem Dev.msix_nvmQ (ss v : Nat) (owed : Bool) : (d.msix ss v owed).nvmQ = d.nvmQ := 
  (congrArg (fun x : Dev => x.nvmQ) (d.msix_only ss v owed) :)
@[simp] theorem Dev.msix_nvmCur (ss v : Nat) (owed : Bool) : (d.msix ss v owed).nvmCur = d.nvmCur := 
  (congrArg (fun x : Dev => x.nvmCur) (d.msix_only ss v owed) :)
@[simp] theorem Dev.msix_sec (ss v : Nat) (owed : Bool) : (d.msix ss v owed).sec = d.sec := 
  (congrArg (fun x : Dev => x.sec) (d.msix_only ss v owed) :)
@[simp] theorem Dev.msix_pln (ss v : Nat) (owed : Bool) : (d.msix ss v owed).pln = d.pln := 
  (congrArg (fun x : Dev => x.pln) (d.msix_only ss v owed) :)
@[simp] theorem Dev.msix_boot (ss v : Nat) (owed : Bool) : (d.msix ss v owed).boot = d.boot := 
  (congrArg (fun x : Dev => x.boot) (d.msix_only ss v owed) :)
@[simp] theorem Dev.msix_poison (ss v : Nat) (owed : Bool) : (d.msix ss v owed).poison = d.poison := 
  (congrArg (fun x : Dev => x.poison) (d.msix_only ss v owed) :)
@[simp] theorem Dev.msix_dbg (ss v : Nat) (owed : Bool) : (d.msix ss v owed).dbg = d.dbg := 
  (congrArg (fun x : Dev => x.dbg) (d.msix_only ss v owed) :)
@[simp] theorem Dev.msix_reply (ss v : Nat) (owed : Bool) : (d.msix ss v owed).reply = d.reply := 
  (congrArg (fun x : Dev => x.reply) (d.msix_only ss v owed) :)
@[simp] theorem Dev.msix_replyEp (ss v : Nat) (owed : Bool) : (d.msix ss v owed).replyEp = d.replyEp := 
  (congrArg (fun x : Dev => x.replyEp) (d.msix_only ss v owed) :)
@[simp] theorem Dev.msix_smb (ss v : Nat) (owed : Bool) : (d.msix ss v owed).smb = d.smb := 
  (congrArg (fun x : Dev => x.smb) (d.msix_only ss v owed) :)
@[simp] theorem Dev.msix_tdo (ss v : Nat) (owed : Bool) : (d.msix ss v owed).tdo = d.tdo := 
  (congrArg (fun x : Dev => x.tdo) (d.msix_only ss v owed) :)
@[simp] theorem Dev.msix_undo (ss v : Nat) (owed : Bool) : (d.msix ss v owed).undo = d.undo := 
  (congrArg (fun x : Dev => x.undo) (d.msix_only ss v owed) :)
@[simp] theorem Dev.msix_serves (ss v : Nat) (owed : Bool) : (d.msix ss v owed).serves = d.serves := 
  (congrArg (fun x : Dev => x.serves) (d.msix_only ss v owed) :)
@[simp] theorem Dev.msix_reg (ss v : Nat) (owed : Bool) (j : Nat) : (d.msix ss v owed).reg j = d.reg j := 
  (congrArg (fun x => x.reg j) (d.msix_only ss v owed) :)
@[simp] theorem Dev.msix_lane (ss v : Nat) (owed : Bool) (j : Nat) : (d.msix ss v owed).lane j = d.lane j := 
  (congrArg (fun x => x.lane j) (d.msix_only ss v owed) :)
@[simp] theorem Dev.msix_cl (ss v : Nat) (owed : Bool) (j : Nat) : (d.msix ss v owed).cl j = d.cl j := 
  (congrArg (fun x => x.cl j) (d.msix_only ss v owed) :)
@[simp] theorem Dev.msix_ph (ss v : Nat) (owed : Bool) (i j : Nat) : (d.msix ss v owed).ph i j = d.ph i j := 
  (congrArg (fun x => x.ph i j) (d.msix_only ss v owed) :)
@[simp] theorem Dev.msix_tmu (ss v : Nat) (owed : Bool) (i j : Nat) : (d.msix ss v owed).tmu i j = d.tmu i j := 
  (congrArg (fun x => x.tmu i j) (d.msix_only ss v owed) :)
@[simp] theorem Dev.msix_fq (ss v : Nat) (owed : Bool) (j : Nat) : (d.msix ss v owed).fq j = d.fq j := 
  (congrArg (fun x => x.fq j) (d.msix_only ss v owed) :)
@[simp] theorem Dev.msix_lg (ss v : Nat) (owed : Bool) (j : Nat) : (d.msix ss v owed).lg j = d.lg j := 
  (congrArg (fun x => x.lg j) (d.msix_only ss v owed) :)
@[simp] theorem Dev.msix_line (ss v : Nat) (owed : Bool) (j : Nat) : (d.msix ss v owed).line j = d.line j := 
  (congrArg (fun x => x.line j) (d.msix_only ss v owed) :)
@[simp] theorem Dev.msix_ring (ss v : Nat) (owed : Bool) (j : Nat) : (d.msix ss v owed).ring j = d.ring j := 
  (congrArg (fun x => x.ring j) (d.msix_only ss v owed) :)
@[simp] theorem Dev.msix_source (ss v : Nat) (owed : Bool) (j : Nat) : (d.msix ss v owed).source j = d.source j := 
  (congrArg (fun x => x.source j) (d.msix_only ss v owed) :)

/-! ### irqAt -/

/-- Raising an interrupt source sets its bit and then sends its message or does not. -/
theorem Dev.irqAt_cases (pg : Page) (ss bit : Nat) : ∃ f, d.irqAt pg ss bit = d.stick f ∨
    d.irqAt pg ss bit = (d.stick f).msix ss pg.vec := by
  refine ⟨⟨if pg.perIrq then sessKey ss + PAGE_IRQ_STAT pg.base else PAGE_IRQ_STAT pg.base, bit, 1⟩, ?_⟩
  unfold Dev.irqAt
  dsimp only
  repeat' split
  all_goals first | exact .inr rfl | exact .inl rfl

/-- The only parts that `irqAt` can change. -/
theorem Dev.irqAt_only (pg : Page) (ss bit : Nat) :
    d.irqAt pg ss bit = { d with regs := (d.irqAt pg ss bit).regs, fresh := (d.irqAt pg ss bit).fresh, out := (d.irqAt pg ss bit).out, sess := (d.irqAt pg ss bit).sess } :=
  by
  obtain ⟨f, h | h⟩ := d.irqAt_cases pg ss bit
  · rw [h]; rfl
  · rw [h]
    have e := (d.stick f).msix_only ss pg.vec false
    have hr := (d.stick f).msix_regs ss pg.vec false
    have hf := (d.stick f).msix_fresh ss pg.vec false
    generalize (d.stick f).msix ss pg.vec = x at e hr hf
    rw [hr, hf]
    exact e

@[simp] theorem Dev.irqAt_epoch (pg : Page) (ss bit : Nat) : (d.irqAt pg ss bit).epoch = d.epoch := 
  (congrArg (fun x : Dev => x.epoch) (d.irqAt_only pg ss bit) :)
@[simp] theorem Dev.irqAt_up (pg : Page) (ss bit : Nat) : (d.irqAt pg ss bit).up = d.up := 
  (congrArg (fun x : Dev => x.up) (d.irqAt_only pg ss bit) :)
@[simp] theorem Dev.irqAt_free (pg : Page) (ss bit : Nat) : (d.irqAt pg ss bit).free = d.free := 
  (congrArg (fun x : Dev => x.free) (d.irqAt_only pg ss bit) :)
@[simp] theorem Dev.irqAt_options (pg : Page) (ss bit : Nat) : (d.irqAt pg ss bit).options = d.options := 
  (congrArg (fun x : Dev => x.options) (d.irqAt_only pg ss bit) :)
@[simp] theorem Dev.irqAt_hold (pg : Page) (ss bit : Nat) : (d.irqAt pg ss bit).hold = d.hold := 
  (congrArg (fun x : Dev => x.hold) (d.irqAt_only pg ss bit) :)
@[simp] theorem Dev.irqAt_capt (pg : Page) (ss bit : Nat) : (d.irqAt pg ss bit).capt = d.capt := 
  (congrArg (fun x : Dev => x.capt) (d.irqAt_only pg ss bit) :)
@[simp] theorem Dev.irqAt_pageReset (pg : Page) (ss bit : Nat) : (d.irqAt pg ss bit).pageReset = d.pageReset := 
  (congrArg (fun x : Dev => x.pageReset) (d.irqAt_only pg ss bit) :)
@[simp] theorem Dev.irqAt_ports (pg : Page) (ss bit : Nat) : (d.irqAt pg ss bit).ports = d.ports := 
  (congrArg (fun x : Dev => x.ports) (d.irqAt_only pg ss bit) :)
@[simp] theorem Dev.irqAt_again (pg : Page) (ss bit : Nat) : (d.irqAt pg ss bit).again = d.again := 
  (congrArg (fun x : Dev => x.again) (d.irqAt_only pg ss bit) :)
@[simp] theorem Dev.irqAt_tb (pg : Page) (ss bit : Nat) : (d.irqAt pg ss bit).tb = d.tb := 
  (congrArg (fun x : Dev => x.tb) (d.irqAt_only pg ss bit) :)
@[simp] theorem Dev.irqAt_dirum (pg : Page) (ss bit : Nat) : (d.irqAt pg ss bit).dirum = d.dirum := 
  (congrArg (fun x : Dev => x.dirum) (d.irqAt_only pg ss bit) :)
@[simp] theorem Dev.irqAt_lgs (pg : Page) (ss bit : Nat) : (d.irqAt pg ss bit).lgs = d.lgs := 
  (congrArg (fun x : Dev => x.lgs) (d.irqAt_only pg ss bit) :)
@[simp] theorem Dev.irqAt_lanes (pg : Page) (ss bit : Nat) : (d.irqAt pg ss bit).lanes = d.lanes := 
  (congrArg (fun x : Dev => x.lanes) (d.irqAt_only pg ss bit) :)
@[simp] theorem Dev.irqAt_phys (pg : Page) (ss bit : Nat) : (d.irqAt pg ss bit).phys = d.phys := 
  (congrArg (fun x : Dev => x.phys) (d.irqAt_only pg ss bit) :)
@[simp] theorem Dev.irqAt_tmus (pg : Page) (ss bit : Nat) : (d.irqAt pg ss bit).tmus = d.tmus := 
  (congrArg (fun x : Dev => x.tmus) (d.irqAt_only pg ss bit) :)
@[simp] theorem Dev.irqAt_freqs (pg : Page) (ss bit : Nat) : (d.irqAt pg ss bit).freqs = d.freqs := 
  (congrArg (fun x : Dev => x.freqs) (d.irqAt_only pg ss bit) :)
@[simp] theorem Dev.irqAt_fins (pg : Page) (ss bit : Nat) : (d.irqAt pg ss bit).fins = d.fins := 
  (congrArg (fun x : Dev => x.fins) (d.irqAt_only pg ss bit) :)
@[simp] theorem Dev.irqAt_clusters (pg : Page) (ss bit : Nat) : (d.irqAt pg ss bit).clusters = d.clusters := 
  (congrArg (fun x : Dev => x.clusters) (d.irqAt_only pg ss bit) :)
@[simp] theorem Dev.irqAt_lines (pg : Page) (ss bit : Nat) : (d.irqAt pg ss bit).lines = d.lines := 
  (congrArg (fun x : Dev => x.lines) (d.irqAt_only pg ss bit) :)
@[simp] theorem Dev.irqAt_gmx (pg : Page) (ss bit : Nat) : (d.irqAt pg ss bit).gmx = d.gmx := 
  (congrArg (fun x : Dev => x.gmx) (d.irqAt_only pg ss bit) :)
@[simp] theorem Dev.irqAt_gStage (pg : Page) (ss bit : Nat) : (d.irqAt pg ss bit).gStage = d.gStage := 
  (congrArg (fun x : Dev => x.gStage) (d.irqAt_only pg ss bit) :)
@[simp] theorem Dev.irqAt_fade (pg : Page) (ss bit : Nat) : (d.irqAt pg ss bit).fade = d.fade := 
  (congrArg (fun x : Dev => x.fade) (d.irqAt_only pg ss bit) :)
@[simp] theorem Dev.irqAt_loopQ (pg : Page) (ss bit : Nat) : (d.irqAt pg ss bit).loopQ = d.loopQ := 
  (congrArg (fun x : Dev => x.loopQ) (d.irqAt_only pg ss bit) :)
@[simp] theorem Dev.irqAt_stalled (pg : Page) (ss bit : Nat) : (d.irqAt pg ss bit).stalled = d.stalled := 
  (congrArg (fun x : Dev => x.stalled) (d.irqAt_only pg ss bit) :)
@[simp] theorem Dev.irqAt_cal (pg : Page) (ss bit : Nat) : (d.irqAt pg ss bit).cal = d.cal := 
  (congrArg (fun x : Dev => x.cal) (d.irqAt_only pg ss bit) :)
@[simp] theorem Dev.irqAt_pe (pg : Page) (ss bit : Nat) : (d.irqAt pg ss bit).pe = d.pe := 
  (congrArg (fun x : Dev => x.pe) (d.irqAt_only pg ss bit) :)
@[simp] theorem Dev.irqAt_sched (pg : Page) (ss bit : Nat) : (d.irqAt pg ss bit).sched = d.sched := 
  (congrArg (fun x : Dev => x.sched) (d.irqAt_only pg ss bit) :)
@[simp] theorem Dev.irqAt_bist (pg : Page) (ss bit : Nat) : (d.irqAt pg ss bit).bist = d.bist := 
  (congrArg (fun x : Dev => x.bist) (d.irqAt_only pg ss bit) :)
@[simp] theorem Dev.irqAt_flt (pg : Page) (ss bit : Nat) : (d.irqAt pg ss bit).flt = d.flt := 
  (congrArg (fun x : Dev => x.flt) (d.irqAt_only pg ss bit) :)
@[simp] theorem Dev.irqAt_links (pg : Page) (ss bit : Nat) : (d.irqAt pg ss bit).links = d.links := 
  (congrArg (fun x : Dev => x.links) (d.irqAt_only pg ss bit) :)
@[simp] theorem Dev.irqAt_rings (pg : Page) (ss bit : Nat) : (d.irqAt pg ss bit).rings = d.rings := 
  (congrArg (fun x : Dev => x.rings) (d.irqAt_only pg ss bit) :)
@[simp] theorem Dev.irqAt_nvmQ (pg : Page) (ss bit : Nat) : (d.irqAt pg ss bit).nvmQ = d.nvmQ := 
  (congrArg (fun x : Dev => x.nvmQ) (d.irqAt_only pg ss bit) :)
@[simp] theorem Dev.irqAt_nvmCur (pg : Page) (ss bit : Nat) : (d.irqAt pg ss bit).nvmCur = d.nvmCur := 
  (congrArg (fun x : Dev => x.nvmCur) (d.irqAt_only pg ss bit) :)
@[simp] theorem Dev.irqAt_sec (pg : Page) (ss bit : Nat) : (d.irqAt pg ss bit).sec = d.sec := 
  (congrArg (fun x : Dev => x.sec) (d.irqAt_only pg ss bit) :)
@[simp] theorem Dev.irqAt_pln (pg : Page) (ss bit : Nat) : (d.irqAt pg ss bit).pln = d.pln := 
  (congrArg (fun x : Dev => x.pln) (d.irqAt_only pg ss bit) :)
@[simp] theorem Dev.irqAt_boot (pg : Page) (ss bit : Nat) : (d.irqAt pg ss bit).boot = d.boot := 
  (congrArg (fun x : Dev => x.boot) (d.irqAt_only pg ss bit) :)
@[simp] theorem Dev.irqAt_poison (pg : Page) (ss bit : Nat) : (d.irqAt pg ss bit).poison = d.poison := 
  (congrArg (fun x : Dev => x.poison) (d.irqAt_only pg ss bit) :)
@[simp] theorem Dev.irqAt_dbg (pg : Page) (ss bit : Nat) : (d.irqAt pg ss bit).dbg = d.dbg := 
  (congrArg (fun x : Dev => x.dbg) (d.irqAt_only pg ss bit) :)
@[simp] theorem Dev.irqAt_reply (pg : Page) (ss bit : Nat) : (d.irqAt pg ss bit).reply = d.reply := 
  (congrArg (fun x : Dev => x.reply) (d.irqAt_only pg ss bit) :)
@[simp] theorem Dev.irqAt_replyEp (pg : Page) (ss bit : Nat) : (d.irqAt pg ss bit).replyEp = d.replyEp := 
  (congrArg (fun x : Dev => x.replyEp) (d.irqAt_only pg ss bit) :)
@[simp] theorem Dev.irqAt_smb (pg : Page) (ss bit : Nat) : (d.irqAt pg ss bit).smb = d.smb := 
  (congrArg (fun x : Dev => x.smb) (d.irqAt_only pg ss bit) :)
@[simp] theorem Dev.irqAt_tdo (pg : Page) (ss bit : Nat) : (d.irqAt pg ss bit).tdo = d.tdo := 
  (congrArg (fun x : Dev => x.tdo) (d.irqAt_only pg ss bit) :)
@[simp] theorem Dev.irqAt_undo (pg : Page) (ss bit : Nat) : (d.irqAt pg ss bit).undo = d.undo := 
  (congrArg (fun x : Dev => x.undo) (d.irqAt_only pg ss bit) :)
@[simp] theorem Dev.irqAt_serves (pg : Page) (ss bit : Nat) : (d.irqAt pg ss bit).serves = d.serves := 
  (congrArg (fun x : Dev => x.serves) (d.irqAt_only pg ss bit) :)
@[simp] theorem Dev.irqAt_lane (pg : Page) (ss bit : Nat) (j : Nat) : (d.irqAt pg ss bit).lane j = d.lane j := 
  (congrArg (fun x => x.lane j) (d.irqAt_only pg ss bit) :)
@[simp] theorem Dev.irqAt_cl (pg : Page) (ss bit : Nat) (j : Nat) : (d.irqAt pg ss bit).cl j = d.cl j := 
  (congrArg (fun x => x.cl j) (d.irqAt_only pg ss bit) :)
@[simp] theorem Dev.irqAt_ph (pg : Page) (ss bit : Nat) (i j : Nat) : (d.irqAt pg ss bit).ph i j = d.ph i j := 
  (congrArg (fun x => x.ph i j) (d.irqAt_only pg ss bit) :)
@[simp] theorem Dev.irqAt_tmu (pg : Page) (ss bit : Nat) (i j : Nat) : (d.irqAt pg ss bit).tmu i j = d.tmu i j := 
  (congrArg (fun x => x.tmu i j) (d.irqAt_only pg ss bit) :)
@[simp] theorem Dev.irqAt_fq (pg : Page) (ss bit : Nat) (j : Nat) : (d.irqAt pg ss bit).fq j = d.fq j := 
  (congrArg (fun x => x.fq j) (d.irqAt_only pg ss bit) :)
@[simp] theorem Dev.irqAt_lg (pg : Page) (ss bit : Nat) (j : Nat) : (d.irqAt pg ss bit).lg j = d.lg j := 
  (congrArg (fun x => x.lg j) (d.irqAt_only pg ss bit) :)
@[simp] theorem Dev.irqAt_line (pg : Page) (ss bit : Nat) (j : Nat) : (d.irqAt pg ss bit).line j = d.line j := 
  (congrArg (fun x => x.line j) (d.irqAt_only pg ss bit) :)
@[simp] theorem Dev.irqAt_ring (pg : Page) (ss bit : Nat) (j : Nat) : (d.irqAt pg ss bit).ring j = d.ring j := 
  (congrArg (fun x => x.ring j) (d.irqAt_only pg ss bit) :)
@[simp] theorem Dev.irqAt_source (pg : Page) (ss bit : Nat) (j : Nat) : (d.irqAt pg ss bit).source j = d.source j := 
  (congrArg (fun x => x.source j) (d.irqAt_only pg ss bit) :)

/-! ### irqOwner -/

/-- The only parts that `irqOwner` can change. -/
theorem Dev.irqOwner_only (pg : Page) (bit : Nat) :
    d.irqOwner pg bit = { d with regs := (d.irqOwner pg bit).regs, fresh := (d.irqOwner pg bit).fresh, out := (d.irqOwner pg bit).out, sess := (d.irqOwner pg bit).sess } :=
  by unfold Dev.irqOwner; split
     · exact Dev.irqAt_only _ _ _ _
     · rfl

@[simp] theorem Dev.irqOwner_epoch (pg : Page) (bit : Nat) : (d.irqOwner pg bit).epoch = d.epoch := 
  (congrArg (fun x : Dev => x.epoch) (d.irqOwner_only pg bit) :)
@[simp] theorem Dev.irqOwner_up (pg : Page) (bit : Nat) : (d.irqOwner pg bit).up = d.up := 
  (congrArg (fun x : Dev => x.up) (d.irqOwner_only pg bit) :)
@[simp] theorem Dev.irqOwner_free (pg : Page) (bit : Nat) : (d.irqOwner pg bit).free = d.free := 
  (congrArg (fun x : Dev => x.free) (d.irqOwner_only pg bit) :)
@[simp] theorem Dev.irqOwner_options (pg : Page) (bit : Nat) : (d.irqOwner pg bit).options = d.options := 
  (congrArg (fun x : Dev => x.options) (d.irqOwner_only pg bit) :)
@[simp] theorem Dev.irqOwner_hold (pg : Page) (bit : Nat) : (d.irqOwner pg bit).hold = d.hold := 
  (congrArg (fun x : Dev => x.hold) (d.irqOwner_only pg bit) :)
@[simp] theorem Dev.irqOwner_capt (pg : Page) (bit : Nat) : (d.irqOwner pg bit).capt = d.capt := 
  (congrArg (fun x : Dev => x.capt) (d.irqOwner_only pg bit) :)
@[simp] theorem Dev.irqOwner_pageReset (pg : Page) (bit : Nat) : (d.irqOwner pg bit).pageReset = d.pageReset := 
  (congrArg (fun x : Dev => x.pageReset) (d.irqOwner_only pg bit) :)
@[simp] theorem Dev.irqOwner_ports (pg : Page) (bit : Nat) : (d.irqOwner pg bit).ports = d.ports := 
  (congrArg (fun x : Dev => x.ports) (d.irqOwner_only pg bit) :)
@[simp] theorem Dev.irqOwner_again (pg : Page) (bit : Nat) : (d.irqOwner pg bit).again = d.again := 
  (congrArg (fun x : Dev => x.again) (d.irqOwner_only pg bit) :)
@[simp] theorem Dev.irqOwner_tb (pg : Page) (bit : Nat) : (d.irqOwner pg bit).tb = d.tb := 
  (congrArg (fun x : Dev => x.tb) (d.irqOwner_only pg bit) :)
@[simp] theorem Dev.irqOwner_dirum (pg : Page) (bit : Nat) : (d.irqOwner pg bit).dirum = d.dirum := 
  (congrArg (fun x : Dev => x.dirum) (d.irqOwner_only pg bit) :)
@[simp] theorem Dev.irqOwner_lgs (pg : Page) (bit : Nat) : (d.irqOwner pg bit).lgs = d.lgs := 
  (congrArg (fun x : Dev => x.lgs) (d.irqOwner_only pg bit) :)
@[simp] theorem Dev.irqOwner_lanes (pg : Page) (bit : Nat) : (d.irqOwner pg bit).lanes = d.lanes := 
  (congrArg (fun x : Dev => x.lanes) (d.irqOwner_only pg bit) :)
@[simp] theorem Dev.irqOwner_phys (pg : Page) (bit : Nat) : (d.irqOwner pg bit).phys = d.phys := 
  (congrArg (fun x : Dev => x.phys) (d.irqOwner_only pg bit) :)
@[simp] theorem Dev.irqOwner_tmus (pg : Page) (bit : Nat) : (d.irqOwner pg bit).tmus = d.tmus := 
  (congrArg (fun x : Dev => x.tmus) (d.irqOwner_only pg bit) :)
@[simp] theorem Dev.irqOwner_freqs (pg : Page) (bit : Nat) : (d.irqOwner pg bit).freqs = d.freqs := 
  (congrArg (fun x : Dev => x.freqs) (d.irqOwner_only pg bit) :)
@[simp] theorem Dev.irqOwner_fins (pg : Page) (bit : Nat) : (d.irqOwner pg bit).fins = d.fins := 
  (congrArg (fun x : Dev => x.fins) (d.irqOwner_only pg bit) :)
@[simp] theorem Dev.irqOwner_clusters (pg : Page) (bit : Nat) : (d.irqOwner pg bit).clusters = d.clusters := 
  (congrArg (fun x : Dev => x.clusters) (d.irqOwner_only pg bit) :)
@[simp] theorem Dev.irqOwner_lines (pg : Page) (bit : Nat) : (d.irqOwner pg bit).lines = d.lines := 
  (congrArg (fun x : Dev => x.lines) (d.irqOwner_only pg bit) :)
@[simp] theorem Dev.irqOwner_gmx (pg : Page) (bit : Nat) : (d.irqOwner pg bit).gmx = d.gmx := 
  (congrArg (fun x : Dev => x.gmx) (d.irqOwner_only pg bit) :)
@[simp] theorem Dev.irqOwner_gStage (pg : Page) (bit : Nat) : (d.irqOwner pg bit).gStage = d.gStage := 
  (congrArg (fun x : Dev => x.gStage) (d.irqOwner_only pg bit) :)
@[simp] theorem Dev.irqOwner_fade (pg : Page) (bit : Nat) : (d.irqOwner pg bit).fade = d.fade := 
  (congrArg (fun x : Dev => x.fade) (d.irqOwner_only pg bit) :)
@[simp] theorem Dev.irqOwner_loopQ (pg : Page) (bit : Nat) : (d.irqOwner pg bit).loopQ = d.loopQ := 
  (congrArg (fun x : Dev => x.loopQ) (d.irqOwner_only pg bit) :)
@[simp] theorem Dev.irqOwner_stalled (pg : Page) (bit : Nat) : (d.irqOwner pg bit).stalled = d.stalled := 
  (congrArg (fun x : Dev => x.stalled) (d.irqOwner_only pg bit) :)
@[simp] theorem Dev.irqOwner_cal (pg : Page) (bit : Nat) : (d.irqOwner pg bit).cal = d.cal := 
  (congrArg (fun x : Dev => x.cal) (d.irqOwner_only pg bit) :)
@[simp] theorem Dev.irqOwner_pe (pg : Page) (bit : Nat) : (d.irqOwner pg bit).pe = d.pe := 
  (congrArg (fun x : Dev => x.pe) (d.irqOwner_only pg bit) :)
@[simp] theorem Dev.irqOwner_sched (pg : Page) (bit : Nat) : (d.irqOwner pg bit).sched = d.sched := 
  (congrArg (fun x : Dev => x.sched) (d.irqOwner_only pg bit) :)
@[simp] theorem Dev.irqOwner_bist (pg : Page) (bit : Nat) : (d.irqOwner pg bit).bist = d.bist := 
  (congrArg (fun x : Dev => x.bist) (d.irqOwner_only pg bit) :)
@[simp] theorem Dev.irqOwner_flt (pg : Page) (bit : Nat) : (d.irqOwner pg bit).flt = d.flt := 
  (congrArg (fun x : Dev => x.flt) (d.irqOwner_only pg bit) :)
@[simp] theorem Dev.irqOwner_links (pg : Page) (bit : Nat) : (d.irqOwner pg bit).links = d.links := 
  (congrArg (fun x : Dev => x.links) (d.irqOwner_only pg bit) :)
@[simp] theorem Dev.irqOwner_rings (pg : Page) (bit : Nat) : (d.irqOwner pg bit).rings = d.rings := 
  (congrArg (fun x : Dev => x.rings) (d.irqOwner_only pg bit) :)
@[simp] theorem Dev.irqOwner_nvmQ (pg : Page) (bit : Nat) : (d.irqOwner pg bit).nvmQ = d.nvmQ := 
  (congrArg (fun x : Dev => x.nvmQ) (d.irqOwner_only pg bit) :)
@[simp] theorem Dev.irqOwner_nvmCur (pg : Page) (bit : Nat) : (d.irqOwner pg bit).nvmCur = d.nvmCur := 
  (congrArg (fun x : Dev => x.nvmCur) (d.irqOwner_only pg bit) :)
@[simp] theorem Dev.irqOwner_sec (pg : Page) (bit : Nat) : (d.irqOwner pg bit).sec = d.sec := 
  (congrArg (fun x : Dev => x.sec) (d.irqOwner_only pg bit) :)
@[simp] theorem Dev.irqOwner_pln (pg : Page) (bit : Nat) : (d.irqOwner pg bit).pln = d.pln := 
  (congrArg (fun x : Dev => x.pln) (d.irqOwner_only pg bit) :)
@[simp] theorem Dev.irqOwner_boot (pg : Page) (bit : Nat) : (d.irqOwner pg bit).boot = d.boot := 
  (congrArg (fun x : Dev => x.boot) (d.irqOwner_only pg bit) :)
@[simp] theorem Dev.irqOwner_poison (pg : Page) (bit : Nat) : (d.irqOwner pg bit).poison = d.poison := 
  (congrArg (fun x : Dev => x.poison) (d.irqOwner_only pg bit) :)
@[simp] theorem Dev.irqOwner_dbg (pg : Page) (bit : Nat) : (d.irqOwner pg bit).dbg = d.dbg := 
  (congrArg (fun x : Dev => x.dbg) (d.irqOwner_only pg bit) :)
@[simp] theorem Dev.irqOwner_reply (pg : Page) (bit : Nat) : (d.irqOwner pg bit).reply = d.reply := 
  (congrArg (fun x : Dev => x.reply) (d.irqOwner_only pg bit) :)
@[simp] theorem Dev.irqOwner_replyEp (pg : Page) (bit : Nat) : (d.irqOwner pg bit).replyEp = d.replyEp := 
  (congrArg (fun x : Dev => x.replyEp) (d.irqOwner_only pg bit) :)
@[simp] theorem Dev.irqOwner_smb (pg : Page) (bit : Nat) : (d.irqOwner pg bit).smb = d.smb := 
  (congrArg (fun x : Dev => x.smb) (d.irqOwner_only pg bit) :)
@[simp] theorem Dev.irqOwner_tdo (pg : Page) (bit : Nat) : (d.irqOwner pg bit).tdo = d.tdo := 
  (congrArg (fun x : Dev => x.tdo) (d.irqOwner_only pg bit) :)
@[simp] theorem Dev.irqOwner_undo (pg : Page) (bit : Nat) : (d.irqOwner pg bit).undo = d.undo := 
  (congrArg (fun x : Dev => x.undo) (d.irqOwner_only pg bit) :)
@[simp] theorem Dev.irqOwner_serves (pg : Page) (bit : Nat) : (d.irqOwner pg bit).serves = d.serves := 
  (congrArg (fun x : Dev => x.serves) (d.irqOwner_only pg bit) :)
@[simp] theorem Dev.irqOwner_lane (pg : Page) (bit : Nat) (j : Nat) : (d.irqOwner pg bit).lane j = d.lane j := 
  (congrArg (fun x => x.lane j) (d.irqOwner_only pg bit) :)
@[simp] theorem Dev.irqOwner_cl (pg : Page) (bit : Nat) (j : Nat) : (d.irqOwner pg bit).cl j = d.cl j := 
  (congrArg (fun x => x.cl j) (d.irqOwner_only pg bit) :)
@[simp] theorem Dev.irqOwner_ph (pg : Page) (bit : Nat) (i j : Nat) : (d.irqOwner pg bit).ph i j = d.ph i j := 
  (congrArg (fun x => x.ph i j) (d.irqOwner_only pg bit) :)
@[simp] theorem Dev.irqOwner_tmu (pg : Page) (bit : Nat) (i j : Nat) : (d.irqOwner pg bit).tmu i j = d.tmu i j := 
  (congrArg (fun x => x.tmu i j) (d.irqOwner_only pg bit) :)
@[simp] theorem Dev.irqOwner_fq (pg : Page) (bit : Nat) (j : Nat) : (d.irqOwner pg bit).fq j = d.fq j := 
  (congrArg (fun x => x.fq j) (d.irqOwner_only pg bit) :)
@[simp] theorem Dev.irqOwner_lg (pg : Page) (bit : Nat) (j : Nat) : (d.irqOwner pg bit).lg j = d.lg j := 
  (congrArg (fun x => x.lg j) (d.irqOwner_only pg bit) :)
@[simp] theorem Dev.irqOwner_line (pg : Page) (bit : Nat) (j : Nat) : (d.irqOwner pg bit).line j = d.line j := 
  (congrArg (fun x => x.line j) (d.irqOwner_only pg bit) :)
@[simp] theorem Dev.irqOwner_ring (pg : Page) (bit : Nat) (j : Nat) : (d.irqOwner pg bit).ring j = d.ring j := 
  (congrArg (fun x => x.ring j) (d.irqOwner_only pg bit) :)
@[simp] theorem Dev.irqOwner_source (pg : Page) (bit : Nat) (j : Nat) : (d.irqOwner pg bit).source j = d.source j := 
  (congrArg (fun x => x.source j) (d.irqOwner_only pg bit) :)

/-! ### irqAfterWrite -/

/-- The only parts that `irqAfterWrite` can change. -/
theorem Dev.irqAfterWrite_only (ss v : Nat) :
    d.irqAfterWrite ss v = { d with out := (d.irqAfterWrite ss v).out, sess := (d.irqAfterWrite ss v).sess } :=
  by unfold Dev.irqAfterWrite; split
     · exact Dev.msix_only _ _ _ _
     · rfl

@[simp] theorem Dev.irqAfterWrite_epoch (ss v : Nat) : (d.irqAfterWrite ss v).epoch = d.epoch := 
  (congrArg (fun x : Dev => x.epoch) (d.irqAfterWrite_only ss v) :)
@[simp] theorem Dev.irqAfterWrite_up (ss v : Nat) : (d.irqAfterWrite ss v).up = d.up := 
  (congrArg (fun x : Dev => x.up) (d.irqAfterWrite_only ss v) :)
@[simp] theorem Dev.irqAfterWrite_free (ss v : Nat) : (d.irqAfterWrite ss v).free = d.free := 
  (congrArg (fun x : Dev => x.free) (d.irqAfterWrite_only ss v) :)
@[simp] theorem Dev.irqAfterWrite_options (ss v : Nat) : (d.irqAfterWrite ss v).options = d.options := 
  (congrArg (fun x : Dev => x.options) (d.irqAfterWrite_only ss v) :)
@[simp] theorem Dev.irqAfterWrite_regs (ss v : Nat) : (d.irqAfterWrite ss v).regs = d.regs := 
  (congrArg (fun x : Dev => x.regs) (d.irqAfterWrite_only ss v) :)
@[simp] theorem Dev.irqAfterWrite_hold (ss v : Nat) : (d.irqAfterWrite ss v).hold = d.hold := 
  (congrArg (fun x : Dev => x.hold) (d.irqAfterWrite_only ss v) :)
@[simp] theorem Dev.irqAfterWrite_capt (ss v : Nat) : (d.irqAfterWrite ss v).capt = d.capt := 
  (congrArg (fun x : Dev => x.capt) (d.irqAfterWrite_only ss v) :)
@[simp] theorem Dev.irqAfterWrite_fresh (ss v : Nat) : (d.irqAfterWrite ss v).fresh = d.fresh := 
  (congrArg (fun x : Dev => x.fresh) (d.irqAfterWrite_only ss v) :)
@[simp] theorem Dev.irqAfterWrite_pageReset (ss v : Nat) : (d.irqAfterWrite ss v).pageReset = d.pageReset := 
  (congrArg (fun x : Dev => x.pageReset) (d.irqAfterWrite_only ss v) :)
@[simp] theorem Dev.irqAfterWrite_ports (ss v : Nat) : (d.irqAfterWrite ss v).ports = d.ports := 
  (congrArg (fun x : Dev => x.ports) (d.irqAfterWrite_only ss v) :)
@[simp] theorem Dev.irqAfterWrite_again (ss v : Nat) : (d.irqAfterWrite ss v).again = d.again := 
  (congrArg (fun x : Dev => x.again) (d.irqAfterWrite_only ss v) :)
@[simp] theorem Dev.irqAfterWrite_tb (ss v : Nat) : (d.irqAfterWrite ss v).tb = d.tb := 
  (congrArg (fun x : Dev => x.tb) (d.irqAfterWrite_only ss v) :)
@[simp] theorem Dev.irqAfterWrite_dirum (ss v : Nat) : (d.irqAfterWrite ss v).dirum = d.dirum := 
  (congrArg (fun x : Dev => x.dirum) (d.irqAfterWrite_only ss v) :)
@[simp] theorem Dev.irqAfterWrite_lgs (ss v : Nat) : (d.irqAfterWrite ss v).lgs = d.lgs := 
  (congrArg (fun x : Dev => x.lgs) (d.irqAfterWrite_only ss v) :)
@[simp] theorem Dev.irqAfterWrite_lanes (ss v : Nat) : (d.irqAfterWrite ss v).lanes = d.lanes := 
  (congrArg (fun x : Dev => x.lanes) (d.irqAfterWrite_only ss v) :)
@[simp] theorem Dev.irqAfterWrite_phys (ss v : Nat) : (d.irqAfterWrite ss v).phys = d.phys := 
  (congrArg (fun x : Dev => x.phys) (d.irqAfterWrite_only ss v) :)
@[simp] theorem Dev.irqAfterWrite_tmus (ss v : Nat) : (d.irqAfterWrite ss v).tmus = d.tmus := 
  (congrArg (fun x : Dev => x.tmus) (d.irqAfterWrite_only ss v) :)
@[simp] theorem Dev.irqAfterWrite_freqs (ss v : Nat) : (d.irqAfterWrite ss v).freqs = d.freqs := 
  (congrArg (fun x : Dev => x.freqs) (d.irqAfterWrite_only ss v) :)
@[simp] theorem Dev.irqAfterWrite_fins (ss v : Nat) : (d.irqAfterWrite ss v).fins = d.fins := 
  (congrArg (fun x : Dev => x.fins) (d.irqAfterWrite_only ss v) :)
@[simp] theorem Dev.irqAfterWrite_clusters (ss v : Nat) : (d.irqAfterWrite ss v).clusters = d.clusters := 
  (congrArg (fun x : Dev => x.clusters) (d.irqAfterWrite_only ss v) :)
@[simp] theorem Dev.irqAfterWrite_lines (ss v : Nat) : (d.irqAfterWrite ss v).lines = d.lines := 
  (congrArg (fun x : Dev => x.lines) (d.irqAfterWrite_only ss v) :)
@[simp] theorem Dev.irqAfterWrite_gmx (ss v : Nat) : (d.irqAfterWrite ss v).gmx = d.gmx := 
  (congrArg (fun x : Dev => x.gmx) (d.irqAfterWrite_only ss v) :)
@[simp] theorem Dev.irqAfterWrite_gStage (ss v : Nat) : (d.irqAfterWrite ss v).gStage = d.gStage := 
  (congrArg (fun x : Dev => x.gStage) (d.irqAfterWrite_only ss v) :)
@[simp] theorem Dev.irqAfterWrite_fade (ss v : Nat) : (d.irqAfterWrite ss v).fade = d.fade := 
  (congrArg (fun x : Dev => x.fade) (d.irqAfterWrite_only ss v) :)
@[simp] theorem Dev.irqAfterWrite_loopQ (ss v : Nat) : (d.irqAfterWrite ss v).loopQ = d.loopQ := 
  (congrArg (fun x : Dev => x.loopQ) (d.irqAfterWrite_only ss v) :)
@[simp] theorem Dev.irqAfterWrite_stalled (ss v : Nat) : (d.irqAfterWrite ss v).stalled = d.stalled := 
  (congrArg (fun x : Dev => x.stalled) (d.irqAfterWrite_only ss v) :)
@[simp] theorem Dev.irqAfterWrite_cal (ss v : Nat) : (d.irqAfterWrite ss v).cal = d.cal := 
  (congrArg (fun x : Dev => x.cal) (d.irqAfterWrite_only ss v) :)
@[simp] theorem Dev.irqAfterWrite_pe (ss v : Nat) : (d.irqAfterWrite ss v).pe = d.pe := 
  (congrArg (fun x : Dev => x.pe) (d.irqAfterWrite_only ss v) :)
@[simp] theorem Dev.irqAfterWrite_sched (ss v : Nat) : (d.irqAfterWrite ss v).sched = d.sched := 
  (congrArg (fun x : Dev => x.sched) (d.irqAfterWrite_only ss v) :)
@[simp] theorem Dev.irqAfterWrite_bist (ss v : Nat) : (d.irqAfterWrite ss v).bist = d.bist := 
  (congrArg (fun x : Dev => x.bist) (d.irqAfterWrite_only ss v) :)
@[simp] theorem Dev.irqAfterWrite_flt (ss v : Nat) : (d.irqAfterWrite ss v).flt = d.flt := 
  (congrArg (fun x : Dev => x.flt) (d.irqAfterWrite_only ss v) :)
@[simp] theorem Dev.irqAfterWrite_links (ss v : Nat) : (d.irqAfterWrite ss v).links = d.links := 
  (congrArg (fun x : Dev => x.links) (d.irqAfterWrite_only ss v) :)
@[simp] theorem Dev.irqAfterWrite_rings (ss v : Nat) : (d.irqAfterWrite ss v).rings = d.rings := 
  (congrArg (fun x : Dev => x.rings) (d.irqAfterWrite_only ss v) :)
@[simp] theorem Dev.irqAfterWrite_nvmQ (ss v : Nat) : (d.irqAfterWrite ss v).nvmQ = d.nvmQ := 
  (congrArg (fun x : Dev => x.nvmQ) (d.irqAfterWrite_only ss v) :)
@[simp] theorem Dev.irqAfterWrite_nvmCur (ss v : Nat) : (d.irqAfterWrite ss v).nvmCur = d.nvmCur := 
  (congrArg (fun x : Dev => x.nvmCur) (d.irqAfterWrite_only ss v) :)
@[simp] theorem Dev.irqAfterWrite_sec (ss v : Nat) : (d.irqAfterWrite ss v).sec = d.sec := 
  (congrArg (fun x : Dev => x.sec) (d.irqAfterWrite_only ss v) :)
@[simp] theorem Dev.irqAfterWrite_pln (ss v : Nat) : (d.irqAfterWrite ss v).pln = d.pln := 
  (congrArg (fun x : Dev => x.pln) (d.irqAfterWrite_only ss v) :)
@[simp] theorem Dev.irqAfterWrite_boot (ss v : Nat) : (d.irqAfterWrite ss v).boot = d.boot := 
  (congrArg (fun x : Dev => x.boot) (d.irqAfterWrite_only ss v) :)
@[simp] theorem Dev.irqAfterWrite_poison (ss v : Nat) : (d.irqAfterWrite ss v).poison = d.poison := 
  (congrArg (fun x : Dev => x.poison) (d.irqAfterWrite_only ss v) :)
@[simp] theorem Dev.irqAfterWrite_dbg (ss v : Nat) : (d.irqAfterWrite ss v).dbg = d.dbg := 
  (congrArg (fun x : Dev => x.dbg) (d.irqAfterWrite_only ss v) :)
@[simp] theorem Dev.irqAfterWrite_reply (ss v : Nat) : (d.irqAfterWrite ss v).reply = d.reply := 
  (congrArg (fun x : Dev => x.reply) (d.irqAfterWrite_only ss v) :)
@[simp] theorem Dev.irqAfterWrite_replyEp (ss v : Nat) : (d.irqAfterWrite ss v).replyEp = d.replyEp := 
  (congrArg (fun x : Dev => x.replyEp) (d.irqAfterWrite_only ss v) :)
@[simp] theorem Dev.irqAfterWrite_smb (ss v : Nat) : (d.irqAfterWrite ss v).smb = d.smb := 
  (congrArg (fun x : Dev => x.smb) (d.irqAfterWrite_only ss v) :)
@[simp] theorem Dev.irqAfterWrite_tdo (ss v : Nat) : (d.irqAfterWrite ss v).tdo = d.tdo := 
  (congrArg (fun x : Dev => x.tdo) (d.irqAfterWrite_only ss v) :)
@[simp] theorem Dev.irqAfterWrite_undo (ss v : Nat) : (d.irqAfterWrite ss v).undo = d.undo := 
  (congrArg (fun x : Dev => x.undo) (d.irqAfterWrite_only ss v) :)
@[simp] theorem Dev.irqAfterWrite_serves (ss v : Nat) : (d.irqAfterWrite ss v).serves = d.serves := 
  (congrArg (fun x : Dev => x.serves) (d.irqAfterWrite_only ss v) :)
@[simp] theorem Dev.irqAfterWrite_reg (ss v : Nat) (j : Nat) : (d.irqAfterWrite ss v).reg j = d.reg j := 
  (congrArg (fun x => x.reg j) (d.irqAfterWrite_only ss v) :)
@[simp] theorem Dev.irqAfterWrite_lane (ss v : Nat) (j : Nat) : (d.irqAfterWrite ss v).lane j = d.lane j := 
  (congrArg (fun x => x.lane j) (d.irqAfterWrite_only ss v) :)
@[simp] theorem Dev.irqAfterWrite_cl (ss v : Nat) (j : Nat) : (d.irqAfterWrite ss v).cl j = d.cl j := 
  (congrArg (fun x => x.cl j) (d.irqAfterWrite_only ss v) :)
@[simp] theorem Dev.irqAfterWrite_ph (ss v : Nat) (i j : Nat) : (d.irqAfterWrite ss v).ph i j = d.ph i j := 
  (congrArg (fun x => x.ph i j) (d.irqAfterWrite_only ss v) :)
@[simp] theorem Dev.irqAfterWrite_tmu (ss v : Nat) (i j : Nat) : (d.irqAfterWrite ss v).tmu i j = d.tmu i j := 
  (congrArg (fun x => x.tmu i j) (d.irqAfterWrite_only ss v) :)
@[simp] theorem Dev.irqAfterWrite_fq (ss v : Nat) (j : Nat) : (d.irqAfterWrite ss v).fq j = d.fq j := 
  (congrArg (fun x => x.fq j) (d.irqAfterWrite_only ss v) :)
@[simp] theorem Dev.irqAfterWrite_lg (ss v : Nat) (j : Nat) : (d.irqAfterWrite ss v).lg j = d.lg j := 
  (congrArg (fun x => x.lg j) (d.irqAfterWrite_only ss v) :)
@[simp] theorem Dev.irqAfterWrite_line (ss v : Nat) (j : Nat) : (d.irqAfterWrite ss v).line j = d.line j := 
  (congrArg (fun x => x.line j) (d.irqAfterWrite_only ss v) :)
@[simp] theorem Dev.irqAfterWrite_ring (ss v : Nat) (j : Nat) : (d.irqAfterWrite ss v).ring j = d.ring j := 
  (congrArg (fun x => x.ring j) (d.irqAfterWrite_only ss v) :)
@[simp] theorem Dev.irqAfterWrite_source (ss v : Nat) (j : Nat) : (d.irqAfterWrite ss v).source j = d.source j := 
  (congrArg (fun x => x.source j) (d.irqAfterWrite_only ss v) :)

end Sys2Proof.Machine
end

