-- ==== Sys2Proof/Laws/Ops.lean ====
section
/-! SUPPORT. What the shared operations do, said once: registers and fields, typed parts, a host's write, and bytes of
HBM and NVM. -/

namespace Sys2Proof.Machine

variable (d : Dev)

/-! ### Registers -/

@[simp] theorem Dev.setReg_reg (k : Nat) (v : Word) (j : Nat) :
    (d.setReg k v).reg j = if j = k then v else d.reg j := by
  simp [Dev.reg, Dev.setReg, tget_tput]

theorem Dev.stick_reg (f : Fld) (j : Nat) :
    (d.stick f).reg j = if j = f.key then d.reg j ||| f.mask else d.reg j := by
  unfold Dev.stick
  show (d.setReg f.key (d.reg f.key ||| f.mask)).reg j = _
  rw [Dev.setReg_reg]
  split
  · next h => rw [h]
  · rfl

theorem Fld.mask_bit (f : Fld) (i : Nat) :
    f.mask.getLsbD i = (decide (i < 32) && (decide (f.lo ≤ i) && decide (i < f.lo + f.w))) := by
  unfold Fld.mask
  rw [BitVec.getLsbD_shiftLeft, BitVec.getLsbD_ofNat, Nat.testBit_two_pow_sub_one]
  by_cases h1 : i < 32
  · by_cases h2 : i < f.lo
    · simp [h2, not_le.mpr h2]
    · have e : (i - f.lo < f.w) = (i < f.lo + f.w) := by apply propext; omega
      have : i - f.lo < 32 := by omega
      simp [h1, h2, not_lt.mp h2, e, this]
  · simp [h1]

theorem Fld.into_bit (f : Fld) (w : Word) (v i : Nat) : (f.into w v).getLsbD i =
    if i < 32 ∧ f.lo ≤ i ∧ i < f.lo + f.w then v.testBit (i - f.lo) else w.getLsbD i := by
  unfold Fld.into
  simp only [BitVec.getLsbD_or, BitVec.getLsbD_and, BitVec.getLsbD_not, Fld.mask_bit, BitVec.getLsbD_shiftLeft,
    BitVec.getLsbD_ofNat]
  by_cases h1 : i < 32
  · by_cases h2 : f.lo ≤ i
    · by_cases h3 : i < f.lo + f.w
      · have : i - f.lo < 32 := by omega
        have h2' : ¬ i < f.lo := by omega
        simp [h1, h2, h3, this, h2']
      · simp [h1, h3]
    · simp [h1, h2]
  · simp [h1, BitVec.getLsbD_of_ge w i (by omega)]

/-- The value of a field of up to 32 bits. -/
theorem Dev.get_narrow {f : Fld} (h : f.lo + f.w ≤ 32) : d.get f = (d.reg f.key).toNat / 2 ^ f.lo % 2 ^ f.w := by
  unfold Dev.get; rw [if_pos h]

theorem Dev.get_testBit {f : Fld} (h : f.lo + f.w ≤ 32) (i : Nat) :
    (d.get f).testBit i = (decide (i < f.w) && (d.reg f.key).getLsbD (f.lo + i)) := by
  rw [d.get_narrow h, Nat.testBit_mod_two_pow, Nat.testBit_div_two_pow, Nat.add_comm]
  rfl

theorem Dev.set_narrow {f : Fld} (h : f.lo + f.w ≤ 32) (v : Nat) :
    d.set f v = d.setReg f.key (f.into (d.reg f.key) v) := by
  unfold Dev.set; rw [if_pos h]

/-- A field reads as it was set. -/
theorem Dev.get_set {f : Fld} (h : f.lo + f.w ≤ 32) (v : Nat) : (d.set f v).get f = v % 2 ^ f.w := by
  apply Nat.eq_of_testBit_eq
  intro i
  rw [Dev.get_testBit _ h, d.set_narrow h, Dev.setReg_reg, if_pos rfl, Fld.into_bit, Nat.testBit_mod_two_pow]
  by_cases hi : i < f.w
  · have : f.lo + i < 32 := by omega
    simp [hi, this]
  · simp [hi]

/-- Two fields that share no bit. -/
def Fld.apart (f g : Fld) : Bool :=
  decide (f.lo + f.w ≤ 32) && decide (g.lo + g.w ≤ 32)
    && (f.key != g.key || decide (f.lo + f.w ≤ g.lo) || decide (g.lo + g.w ≤ f.lo))

/-- A field keeps its value when another is set. -/
theorem Dev.get_set_ne {f g : Fld} (h : f.apart g = true) (v : Nat) : (d.set f v).get g = d.get g := by
  simp only [Fld.apart, Bool.and_eq_true, decide_eq_true_eq, Bool.or_eq_true, bne_iff_ne] at h
  obtain ⟨⟨hf, hg⟩, h⟩ := h
  apply Nat.eq_of_testBit_eq
  intro i
  rw [Dev.get_testBit _ hg, d.get_testBit hg, d.set_narrow hf, Dev.setReg_reg]
  by_cases hk : g.key = f.key
  · rw [if_pos hk, Fld.into_bit, hk]
    by_cases hi : i < g.w
    · rw [if_neg (by simp only [hk, ne_eq, not_true_eq_false, false_or] at h; omega)]
    · simp [hi]
  · rw [if_neg hk]

/-- A field keeps its value when a bit of another register is set. -/
theorem Dev.get_stick_ne {f g : Fld} (h : f.apart g = true) : (d.stick f).get g = d.get g := by
  simp only [Fld.apart, Bool.and_eq_true, decide_eq_true_eq, Bool.or_eq_true, bne_iff_ne] at h
  obtain ⟨⟨hf, hg⟩, h⟩ := h
  apply Nat.eq_of_testBit_eq
  intro i
  rw [Dev.get_testBit _ hg, d.get_testBit hg, Dev.stick_reg]
  by_cases hk : g.key = f.key
  · rw [if_pos hk, BitVec.getLsbD_or, Fld.mask_bit]
    by_cases hi : i < g.w
    · have : ¬ (f.lo ≤ g.lo + i ∧ g.lo + i < f.lo + f.w) := by
        simp only [hk, ne_eq, not_true_eq_false, false_or] at h; omega
      simp only [not_and, not_lt] at this
      by_cases h2 : f.lo ≤ g.lo + i
      · simp [hi, this h2]
      · simp [hi, h2]
    · simp [hi]
  · rw [if_neg hk]

/-- A sticky bit reads 1 once hardware has set it. -/
theorem Dev.get_stick {f : Fld} (h : f.lo + f.w ≤ 32) : (d.stick f).get f = 2 ^ f.w - 1 := by
  apply Nat.eq_of_testBit_eq
  intro i
  rw [Dev.get_testBit _ h, Dev.stick_reg, if_pos rfl, BitVec.getLsbD_or, Fld.mask_bit, Nat.testBit_two_pow_sub_one]
  by_cases hi : i < f.w
  · have : f.lo + i < 32 := by omega
    simp [hi, this]
  · simp [hi]

theorem Dev.get_congr {d e : Dev} {f : Fld} (h : ∀ j, d.reg j = e.reg j) : d.get f = e.get f := by
  unfold Dev.get Dev.reg64; simp [h]

/-! ### Typed parts -/

@[simp] theorem Dev.lane_setLane (L M : Nat) (l : Lane) : (d.setLane L l).lane M = if M = L then l else d.lane M := by
  simp [Dev.lane, Dev.setLane, tget_tput]
@[simp] theorem Dev.lane_modLane (L M : Nat) (f : Lane → Lane) :
    (d.modLane L f).lane M = if M = L then f (d.lane M) else d.lane M := by
  unfold Dev.modLane; rw [Dev.lane_setLane]; split <;> simp_all
@[simp] theorem Dev.cl_setCl (k j : Nat) (c : Cluster) : (d.setCl k c).cl j = if j = k then c else d.cl j := by
  simp [Dev.cl, Dev.setCl, tget_tput]
@[simp] theorem Dev.cl_modCl (k j : Nat) (f : Cluster → Cluster) :
    (d.modCl k f).cl j = if j = k then f (d.cl j) else d.cl j := by
  unfold Dev.modCl; rw [Dev.cl_setCl]; split <;> simp_all
theorem Dev.ph_setPh (k p j q : Nat) (x : Phys) :
    (d.setPh k p x).ph j q = if 68 * j + q = 68 * k + p then x else d.ph j q := by
  simp [Dev.ph, Dev.setPh, tget_tput]
theorem Dev.tmu_setTmu (k t j u : Nat) (x : Tmu) :
    (d.setTmu k t x).tmu j u = if 34 * j + u = 34 * k + t then x else d.tmu j u := by
  simp [Dev.tmu, Dev.setTmu, tget_tput]
@[simp] theorem Dev.ph_setPh_same (k p : Nat) (x : Phys) : (d.setPh k p x).ph k p = x := by simp [Dev.ph_setPh]
@[simp] theorem Dev.tmu_setTmu_same (k t : Nat) (x : Tmu) : (d.setTmu k t x).tmu k t = x := by simp [Dev.tmu_setTmu]
@[simp] theorem Dev.ph_modPh_same (k p : Nat) (f : Phys → Phys) : (d.modPh k p f).ph k p = f (d.ph k p) :=
  d.ph_setPh_same k p _
@[simp] theorem Dev.tmu_modTmu_same (k t : Nat) (f : Tmu → Tmu) : (d.modTmu k t f).tmu k t = f (d.tmu k t) :=
  d.tmu_setTmu_same k t _
@[simp] theorem Dev.fq_setFq (k j : Nat) (x : Freq) : (d.setFq k x).fq j = if j = k then x else d.fq j := by
  simp [Dev.fq, Dev.setFq, tget_tput]
@[simp] theorem Dev.fq_modFq (k j : Nat) (f : Freq → Freq) :
    (d.modFq k f).fq j = if j = k then f (d.fq j) else d.fq j := by
  unfold Dev.modFq; rw [Dev.fq_setFq]; split <;> simp_all
@[simp] theorem Dev.lg_setLg (k j : Nat) (x : LockGroup) : (d.setLg k x).lg j = if j = k then x else d.lg j := by
  simp [Dev.lg, Dev.setLg, tget_tput]
@[simp] theorem Dev.lg_modLg (k j : Nat) (f : LockGroup → LockGroup) :
    (d.modLg k f).lg j = if j = k then f (d.lg j) else d.lg j := by
  unfold Dev.modLg; rw [Dev.lg_setLg]; split <;> simp_all
@[simp] theorem Dev.line_setLine (k j : Nat) (x : Line) : (d.setLine k x).line j = if j = k then x else d.line j := by
  simp [Dev.line, Dev.setLine, tget_tput]
@[simp] theorem Dev.line_modLine (k j : Nat) (f : Line → Line) :
    (d.modLine k f).line j = if j = k then f (d.line j) else d.line j := by
  unfold Dev.modLine; rw [Dev.line_setLine]; split <;> simp_all
@[simp] theorem Dev.sn_setSn (k j : Nat) (x : Session) : (d.setSn k x).sn j = if j = k then x else d.sn j := by
  simp [Dev.sn, Dev.setSn, tget_tput]
@[simp] theorem Dev.sn_modSn (k j : Nat) (f : Session → Session) :
    (d.modSn k f).sn j = if j = k then f (d.sn j) else d.sn j := by
  unfold Dev.modSn; rw [Dev.sn_setSn]; split <;> simp_all
@[simp] theorem Dev.ring_setRing (k j : Nat) (x : Option Ring) :
    (d.setRing k x).ring j = if j = k then x else d.ring j := by
  simp [Dev.ring, Dev.setRing, tget_tput]
@[simp] theorem Dev.source_setSource (k j : Nat) (x : Source) :
    (d.setSource k x).source j = if j = k then x else d.source j := by
  simp [Dev.source, Dev.setSource, tget_tput]

/-! ### Fault messages -/

/-- A message raised at a source with an empty buffer stands in that buffer. -/
theorem Dev.raise_source_empty (src kind sev addr : Nat) (dest : List Nat) (h : (d.source src).buf = none) :
    ((d.raise src kind sev addr dest).source src).buf =
      some { source := src, kind, sev, inj := false, addr := BitVec.ofNat 32 addr, seq := (d.source src).seq,
             cycle := d.cycle, dest := (dest.filter fun x => (d.sn x).live).eraseDups } := by
  unfold Dev.raise
  dsimp only
  have hs : (d.markSource src sev false).source src = d.source src := by simp
  have hn : ∀ x, (d.markSource src sev false).sn x = d.sn x := by simp
  have hc : (d.markSource src sev false).cycle = d.cycle := by simp [Dev.cycle]
  rw [hs, h]
  simp [hn, hc]

/-- The registers that raising a message can change: the sticky arrays and PAGE_FLT of the source (R341). -/
theorem Dev.markSource_reg (src sev : Nat) (j : Nat)
    (h1 : j ≠ FLT_STICKY (src / 32)) (h2 : ∀ b, srcPage src = some b → j ≠ PAGE_FLT b) :
    (d.markSource src sev false).reg j = d.reg j := by
  unfold Dev.markSource
  simp only [Bool.false_eq_true, if_false]
  split
  · rw [Dev.stick_reg, if_neg h1]
  · next b hb =>
    rw [Dev.stick_reg, if_neg (h2 b hb), Dev.stick_reg, if_neg h1]

theorem Dev.raise_reg_eq (src kind sev addr : Nat) (dest : List Nat) (j : Nat) :
    (d.raise src kind sev addr dest).reg j = (d.markSource src sev false).reg j := by
  unfold Dev.raise
  dsimp only
  split <;> rfl

theorem Dev.raise_reg (src kind sev addr : Nat) (dest : List Nat) (j : Nat)
    (h1 : j ≠ FLT_STICKY (src / 32)) (h2 : ∀ b, srcPage src = some b → j ≠ PAGE_FLT b) :
    (d.raise src kind sev addr dest).reg j = d.reg j := by
  rw [Dev.raise_reg_eq, Dev.markSource_reg _ _ _ _ h1 h2]

/-- Raising a message at `src` leaves the field alone: it is neither in the sticky arrays' word nor in PAGE_FLT of the
source. -/
def Fld.aside (f : Fld) (src : Nat) : Bool :=
  decide (f.lo + f.w ≤ 32) && f.key != FLT_STICKY (src / 32)
    && (match srcPage src with | none => true | some b => f.key != PAGE_FLT b)

theorem Dev.get_raise {f : Fld} {src : Nat} (h : f.aside src = true) (kind sev addr : Nat) (dest : List Nat) :
    (d.raise src kind sev addr dest).get f = d.get f := by
  simp only [Fld.aside, Bool.and_eq_true, decide_eq_true_eq, bne_iff_ne] at h
  obtain ⟨⟨hw, h1⟩, h2⟩ := h
  rw [Dev.get_narrow _ hw, Dev.get_narrow _ hw, Dev.raise_reg]
  · exact h1
  · intro b hb
    rw [hb] at h2
    simpa using h2

@[simp] theorem Dev.setLane_get (L : Nat) (l : Lane) (f : Fld) : (d.setLane L l).get f = d.get f := rfl
@[simp] theorem Dev.modLane_get (L : Nat) (g : Lane → Lane) (f : Fld) : (d.modLane L g).get f = d.get f := rfl
@[simp] theorem Dev.setCl_get (k : Nat) (c : Cluster) (f : Fld) : (d.setCl k c).get f = d.get f := rfl
@[simp] theorem Dev.modCl_get (k : Nat) (g : Cluster → Cluster) (f : Fld) : (d.modCl k g).get f = d.get f := rfl
@[simp] theorem Dev.setPh_get (k p : Nat) (x : Phys) (f : Fld) : (d.setPh k p x).get f = d.get f := rfl
@[simp] theorem Dev.modPh_get (k p : Nat) (g : Phys → Phys) (f : Fld) : (d.modPh k p g).get f = d.get f := rfl
@[simp] theorem Dev.setTmu_get (k t : Nat) (x : Tmu) (f : Fld) : (d.setTmu k t x).get f = d.get f := rfl
@[simp] theorem Dev.modTmu_get (k t : Nat) (g : Tmu → Tmu) (f : Fld) : (d.modTmu k t g).get f = d.get f := rfl
@[simp] theorem Dev.setFq_get (k : Nat) (x : Freq) (f : Fld) : (d.setFq k x).get f = d.get f := rfl
@[simp] theorem Dev.modFq_get (k : Nat) (g : Freq → Freq) (f : Fld) : (d.modFq k g).get f = d.get f := rfl
@[simp] theorem Dev.setLg_get (k : Nat) (x : LockGroup) (f : Fld) : (d.setLg k x).get f = d.get f := rfl
@[simp] theorem Dev.modLg_get (k : Nat) (g : LockGroup → LockGroup) (f : Fld) : (d.modLg k g).get f = d.get f := rfl
@[simp] theorem Dev.setLine_get (k : Nat) (x : Line) (f : Fld) : (d.setLine k x).get f = d.get f := rfl
@[simp] theorem Dev.modLine_get (k : Nat) (g : Line → Line) (f : Fld) : (d.modLine k g).get f = d.get f := rfl
@[simp] theorem Dev.setSn_get (k : Nat) (x : Session) (f : Fld) : (d.setSn k x).get f = d.get f := rfl
@[simp] theorem Dev.modSn_get (k : Nat) (g : Session → Session) (f : Fld) : (d.modSn k g).get f = d.get f := rfl
@[simp] theorem Dev.setRing_get (k : Nat) (x : Option Ring) (f : Fld) : (d.setRing k x).get f = d.get f := rfl
@[simp] theorem Dev.setSource_get (k : Nat) (x : Source) (f : Fld) : (d.setSource k x).get f = d.get f := rfl

theorem Dev.get_msix (ss v : Nat) (owed : Bool) (f : Fld) : (d.msix ss v owed).get f = d.get f :=
  Dev.get_congr fun j => by simp

/-- A field that is not the page's PAGE_IRQ_STAT keeps its value when an interrupt source is raised. -/
theorem Dev.get_irqAt {f : Fld} {pg : Page} (ss bit : Nat) (hw : f.lo + f.w ≤ 32)
    (h : f.key ≠ (if pg.perIrq then sessKey ss + PAGE_IRQ_STAT pg.base else PAGE_IRQ_STAT pg.base)) :
    (d.irqAt pg ss bit).get f = d.get f := by
  have hs : ∀ g : Fld, f.key ≠ g.key → (d.stick g).get f = d.get f := fun g hg => by
    rw [Dev.get_narrow _ hw, Dev.get_narrow _ hw, Dev.stick_reg, if_neg hg]
  unfold Dev.irqAt
  cases hp : pg.perIrq <;> simp only [hp, if_true, if_false, Bool.false_eq_true] at h ⊢ <;> split
  all_goals first | (rw [Dev.get_msix]; exact hs _ h) | exact hs _ h

/-! ### A host's write -/

/-- A write that passes every check has its effect, which is remembered for the rest of the fabric cycle. -/
theorem Dev.hostWrite_of_lets {d : Dev} {ss : Nat} {pg : Page} {off : Nat} {who : Who} {cmd : Bool}
    (h : d.lets ss pg off who cmd = true) (vals : List Word) (f : Dev → Dev) :
    d.hostWrite ss pg off vals who cmd f = d.tracked pg f (if cmd then some (ss, off) else none) := by
  simp only [Dev.lets, Bool.and_eq_true, Bool.not_eq_true', Bool.or_eq_true, beq_eq_false_iff_ne, ne_eq] at h
  obtain ⟨⟨⟨⟨⟨⟨⟨⟨⟨h1, hw⟩, h2⟩, hc⟩, h3⟩, h4⟩, h5⟩, h6⟩, h7⟩, -⟩ := h
  unfold Dev.hostWrite
  rw [if_neg (by simp [h1]), if_neg (by simp [hw]), if_neg (by simpa using h2), if_neg (by simp [hc, h3, h4, h5, h6]), if_neg]
  rcases h7 with h7 | h7
  · simp [h7]
  · simp [h7.1, h7.2]

/-- What is remembered of a write shows in no register and in no part. -/
@[simp] theorem Dev.tracked_reg (d : Dev) (pg : Page) (f : Dev → Dev) (c : Option (Nat × Nat)) (j : Nat) :
    (d.tracked pg f c).reg j = (f d).reg j := rfl
@[simp] theorem Dev.tracked_get (d : Dev) (pg : Page) (f : Dev → Dev) (c : Option (Nat × Nat)) (x : Fld) :
    (d.tracked pg f c).get x = (f d).get x := rfl

/-! ### Bytes of HBM and NVM -/

theorem readByte_writeByte (dflt : Nat → Byte) (size : Nat) (m : List Host.Cell) (a b : Nat) (v : Byte) :
    readByte dflt (writeByte dflt size m a v) b = if b = a ∧ a < size then v else readByte dflt m b := by
  unfold readByte writeByte
  split
  · next h => rw [tget_tput]; simp [h]
  · next h => simp [h]

theorem wf_writeByte (dflt : Nat → Byte) (size : Nat) (m : List Host.Cell) (a : Nat) (v : Byte)
    (h : Memory.wf dflt size m = true) : Memory.wf dflt size (writeByte dflt size m a v) = true := by
  unfold Memory.wf at *
  simp only [Bool.and_eq_true, List.all_eq_true, decide_eq_true_eq] at *
  unfold writeByte
  split
  · next ha =>
    refine ⟨twf_tput _ _ _ _ h.1, ?_⟩
    intro c hc
    unfold tput at hc
    have er : ∀ (t : List Host.Cell), ∀ x ∈ terase t a, x ∈ t := by
      intro t; induction t with
      | nil => simp [terase]
      | cons y t ih =>
        intro x hx
        unfold terase at hx
        split at hx
        · exact List.mem_cons_of_mem _ (ih x hx)
        · rcases List.mem_cons.mp hx with rfl | hx
          · simp
          · exact List.mem_cons_of_mem _ (ih x hx)
    have it : ∀ (t : List Host.Cell), ∀ x ∈ tins t a v, x = (a, v) ∨ x ∈ t := by
      intro t; induction t with
      | nil => simp [tins]
      | cons y t ih =>
        intro x hx
        unfold tins at hx
        split at hx
        · rcases List.mem_cons.mp hx with rfl | hx
          · simp
          · exact .inr hx
        · rcases List.mem_cons.mp hx with rfl | hx
          · simp
          · rcases ih x hx with h | h
            · exact .inl h
            · exact .inr (List.mem_cons_of_mem _ h)
    split at hc
    · exact h.2 c (er m c hc)
    · rcases it _ c hc with rfl | hc
      · exact ha
      · exact h.2 c (er m c hc)
  · exact h

/-- Writing bytes keeps the canonical form. -/
theorem wf_writeBytes (dflt : Nat → Byte) (size : Nat) (bs : List Byte) (m : List Host.Cell) (a : Nat)
    (h : Memory.wf dflt size m = true) : Memory.wf dflt size (writeBytes dflt size m a bs) = true := by
  induction bs generalizing m a with
  | nil => exact h
  | cons b bs ih => exact ih _ _ (wf_writeByte _ _ _ _ _ h)

/-- Clearing bytes keeps the canonical form. -/
theorem wf_clearBytes (dflt : Nat → Byte) (size : Nat) (m : List Host.Cell) (a n : Nat)
    (h : Memory.wf dflt size m = true) : Memory.wf dflt size (clearBytes m a n) = true := by
  unfold Memory.wf clearBytes at *
  simp only [Bool.and_eq_true, List.all_eq_true, decide_eq_true_eq] at *
  exact ⟨twf_filter _ _ _ h.1, fun c hc => h.2 c (List.mem_of_mem_filter hc)⟩

/-- A byte outside the bytes written reads as before. -/
theorem readByte_writeBytes (dflt : Nat → Byte) (size : Nat) (bs : List Byte) (m : List Host.Cell) (a b : Nat)
    (h : b < a ∨ a + bs.length ≤ b) : readByte dflt (writeBytes dflt size m a bs) b = readByte dflt m b := by
  induction bs generalizing m a with
  | nil => rfl
  | cons x bs ih =>
    simp only [List.length_cons] at h
    rw [writeBytes, ih _ _ (by omega), readByte_writeByte, if_neg (by omega)]

/-- Bytes read back as they were written. -/
theorem readBytes_writeBytes (dflt : Nat → Byte) (size : Nat) (bs : List Byte) (m : List Host.Cell) (a : Nat)
    (h : a + bs.length ≤ size) : readBytes dflt (writeBytes dflt size m a bs) a bs.length = bs := by
  induction bs generalizing m a with
  | nil => rfl
  | cons x bs ih =>
    simp only [List.length_cons] at h
    rw [List.length_cons, readBytes, writeBytes, ih _ _ (by omega), readByte_writeBytes _ _ _ _ _ _ (by omega),
      readByte_writeByte, if_pos (by omega)]

/-- A cleared byte reads as an unlisted one. -/
theorem readByte_clearBytes (dflt : Nat → Byte) (m : List Host.Cell) (a n b : Nat) :
    readByte dflt (clearBytes m a n) b = if a ≤ b ∧ b < a + n then dflt b else readByte dflt m b := by
  unfold readByte clearBytes
  induction m with
  | nil => simp [tget]
  | cons x m ih =>
    obtain ⟨i, v⟩ := x
    by_cases h : i < a ∨ a + n ≤ i
    · have : (decide (i < a) || decide (a + n ≤ i)) = true := by simpa using h
      rw [List.filter_cons, if_pos this, tget, tget, ih]
      by_cases hb : i = b
      · rw [if_pos hb, if_pos hb, if_neg (by omega)]
      · simp [hb]
    · have : ¬ (decide (i < a) || decide (a + n ≤ i)) = true := by simpa using h
      rw [List.filter_cons, if_neg this, ih]
      by_cases hb : i = b
      · subst hb; rw [if_pos (by omega), if_pos (by omega)]
      · simp [tget, hb]

end Sys2Proof.Machine
end

