-- ==== Sys2Proof/Laws/Writes.lean ====
section
/-! SUPPORT. What a write of a register does once it passes the gate, for the operations that most commands go through. -/

namespace Sys2Proof.Machine

variable {d : Dev}

/-- A write of PAGE_CTRL by the page's owner passes its gate. -/
theorem Dev.ctrlGate_of_lets {ss : Nat} {pg : Page} (h : d.lets ss pg 8 .owner false = true)
    (hf : pg.fixedCtrl = false) (val : Word) (en : Bool) (f : Dev → Dev) : d.ctrlGate ss pg val en f = f d := by
  simp only [Dev.lets, Bool.and_eq_true, Bool.not_eq_true', beq_eq_false_iff_ne, ne_eq] at h
  obtain ⟨⟨⟨⟨⟨⟨⟨⟨⟨h1, hw⟩, h2⟩, hc⟩, h3⟩, h4⟩, -⟩, h6⟩, -⟩, -⟩ := h
  unfold Dev.ctrlGate
  simp [h1, hw, h2, hc, h3, h4, h6, hf]

/-- A write that is performed reaches the plain bits and, where it carries a command, the command. -/
theorem Dev.cmdWrite_of_lets {ss : Nat} {pg : Page} {off : Nat} {val : Word} {go : Bool}
    (h : d.lets ss pg off (whoOf pg off) go = true) (f : Dev → Dev) :
    d.cmdWrite ss pg off val go f = d.tracked pg (fun d => if go then f (d.plainWrite ss pg off val)
      else d.plainWrite ss pg off val) (if go then some (ss, off) else none) := by
  unfold Dev.cmdWrite
  rw [Dev.hostWrite_of_lets h]

/-- Of a write that is performed none that takes effect later has come before it, in the shared copy or the session's
(R19). -/
theorem Dev.outranked_of_lets {ss : Nat} {pg : Page} {off : Nat} {who : Who} {cmd : Bool}
    (h : d.lets ss pg off who cmd = true) (r : Row) : d.outranked ss (r.key pg off ss) = false := by
  simp only [Dev.lets, Bool.and_eq_true] at h
  have hf := h.2
  unfold Dev.foremost at hf
  simp only [List.all_cons, List.all_nil, Bool.and_true, Bool.and_eq_true, Bool.not_eq_true'] at hf
  unfold Row.key
  split
  · exact hf.2.2.1
  · exact hf.1

/-- A word that is written stands in its register; no other register changes. -/
theorem Dev.putWord_reg {ss key : Nat} (h : d.outranked ss key = false) (r : Row) (val : Word) (j : Nat) :
    (d.putWord ss key r val).reg j = if j = key then r.merge (d.reg key) val (d.freshBits key) else d.reg j := by
  unfold Dev.putWord
  rw [h]
  simp only [Bool.false_eq_true, if_false]
  split
  · rw [Dev.setReg_reg]
  · show (d.setReg key _).reg j = _
    rw [Dev.setReg_reg]

/-- A write of a word changes no other register. -/
theorem Dev.putWord_reg_ne {ss key j : Nat} (h : j ≠ key) (d : Dev) (r : Row) (val : Word) :
    (d.putWord ss key r val).reg j = d.reg j := by
  unfold Dev.putWord
  dsimp only
  split
  · rw [Dev.setReg_reg, if_neg h]
  · split
    · rw [Dev.setReg_reg, if_neg h]
    · show (d.setReg key _).reg j = _
      rw [Dev.setReg_reg, if_neg h]

/-- A write of the plain bits of a 32-bit register. -/
theorem Dev.plainWrite_single {pg : Page} {off : Nat} {r : Row} (hr : rowOf pg off = some r) (hp : r.pair = 0)
    (d : Dev) (ss : Nat) (val : Word) : d.plainWrite ss pg off val = d.putWord ss (r.key pg off ss) r val := by
  unfold Dev.plainWrite
  rw [hr]
  simp [hp]

/-- Bit `i` of a word after a write, for a register without counts that a write clears. -/
theorem Row.merge_bit {r : Row} (hc : r.clr = []) (old val fresh : Word) (i : Nat) (hi : i < 32) :
    (r.merge old val fresh).getLsbD i =
      ((if r.rw.testBit i then val.getLsbD i else old.getLsbD i)
        && !(val.getLsbD i && r.w1c.testBit i && !fresh.getLsbD i)) := by
  unfold Row.merge
  simp only [hc, List.foldl_nil, BitVec.getLsbD_and, BitVec.getLsbD_or, BitVec.getLsbD_not, BitVec.getLsbD_ofNat, hi,
    decide_true, Bool.true_and]
  cases r.rw.testBit i <;> cases val.getLsbD i <;> cases old.getLsbD i <;> cases r.w1c.testBit i <;>
    cases fresh.getLsbD i <;> rfl

/-- The bits of a field are RW bits of the row. -/
def Row.writable (r : Row) (f : Fld) : Bool :=
  decide (f.lo + f.w ≤ 32) && r.clr.isEmpty && (List.range f.w).all fun i => r.rw.testBit (f.lo + i) && !r.w1c.testBit (f.lo + i)

/-- A writable field reads as it was written. -/
theorem Dev.get_plainWrite {pg : Page} {off ss : Nat} {r : Row} {f : Fld} (hr : rowOf pg off = some r)
    (hp : r.pair = 0) (hk : f.key = r.key pg off ss) (hf : r.writable f = true) {d : Dev}
    (ho : d.outranked ss (r.key pg off ss) = false) (val : Word) : (d.plainWrite ss pg off val).get f = wfield val f.lo f.w := by
  simp only [Row.writable, Bool.and_eq_true, decide_eq_true_eq, List.isEmpty_iff, List.all_eq_true, List.mem_range,
    Bool.not_eq_true'] at hf
  obtain ⟨⟨hw, hc⟩, hb⟩ := hf
  rw [Dev.plainWrite_single hr hp]
  apply Nat.eq_of_testBit_eq
  intro i
  rw [Dev.get_testBit _ hw, Dev.putWord_reg ho, if_pos hk]
  unfold wfield
  rw [Nat.testBit_mod_two_pow, Nat.testBit_div_two_pow, Nat.add_comm i]
  by_cases hi : i < f.w
  · rw [Row.merge_bit hc _ _ _ _ (by omega), (hb i hi).1, (hb i hi).2]
    simp [hi, BitVec.getLsbD]
  · simp [hi]

/-- Registers other than the one written keep their value. -/
theorem Dev.plainWrite_reg_ne {pg : Page} {off ss j : Nat} {r : Row} (hr : rowOf pg off = some r) (hp : r.pair = 0)
    (hj : j ≠ r.key pg off ss) (d : Dev) (val : Word) : (d.plainWrite ss pg off val).reg j = d.reg j := by
  rw [Dev.plainWrite_single hr hp, Dev.putWord_reg_ne hj]

/-- A lapse of time adds to both counts and changes nothing else. -/
@[simp] theorem Dev.passT0_epoch (d : Dev) (n : Nat) : (d.passT0 n).epoch = d.epoch + n := rfl
@[simp] theorem Dev.passT0_up (d : Dev) (n : Nat) : (d.passT0 n).up = d.up + n := rfl

end Sys2Proof.Machine
end

