-- ==== Sys2Proof/Laws/TimeBase.lean ====
section
/-! SUPPORT. What the time base's shared operations do to the registers. -/

namespace Sys2Proof.Machine

variable (d : Dev)

/-- A field reads the same in devices with the same register file. -/
theorem Dev.get_of_regs {d e : Dev} (h : d.regs = e.regs) (f : Fld) : d.get f = e.get f :=
  Dev.get_congr fun j => by unfold Dev.reg; rw [h]

@[simp] theorem Dev.freqNote_get (f : Fld) : d.freqNote.get f = d.get f := Dev.get_of_regs rfl f

@[simp] theorem Dev.passesOff_get (f : Fld) : d.passesOff.get f = d.get f := rfl

/-- A field outside DIRUM_HB_PHASE.VALID and N keeps its value when the heartbeat block restarts. -/
theorem Dev.get_hbRestart {f : Fld} (h1 : (DIRUM_HB_PHASE.VALID).apart f = true)
    (h2 : (DIRUM_HB_PHASE.N).apart f = true) : d.hbRestart.get f = d.get f := by
  unfold Dev.hbRestart
  dsimp only
  rw [Dev.get_set_ne _ h2, Dev.get_set_ne _ h1]
  exact Dev.get_of_regs rfl f

/-- The time base is in the state that it took. -/
theorem Dev.srcState_state (st : Nat) (h : st < 8) : (d.srcState st).get TB_STAT.SRC_STATE = st := by
  unfold Dev.srcState
  split
  · assumption
  · dsimp only
    rw [apply_ite (fun e : Dev => e.get TB_STAT.SRC_STATE), Dev.passesOff_get, ite_self, Dev.freqNote_get, Dev.get_hbRestart _ rfl rfl, Dev.get_set _ (by decide)]
    exact Nat.mod_eq_of_lt h

/-- A change of the time base's state leaves every other field outside the heartbeat phase. -/
theorem Dev.get_srcState {f : Fld} (st : Nat) (h : (TB_STAT.SRC_STATE).apart f = true)
    (h1 : (DIRUM_HB_PHASE.VALID).apart f = true) (h2 : (DIRUM_HB_PHASE.N).apart f = true) :
    (d.srcState st).get f = d.get f := by
  unfold Dev.srcState
  split
  · rfl
  · dsimp only
    rw [apply_ite (fun e : Dev => e.get f), Dev.passesOff_get, ite_self, Dev.freqNote_get, Dev.get_hbRestart _ h1 h2, Dev.get_set_ne _ h]

end Sys2Proof.Machine
end

