-- ==== Sys2Proof/Laws/Programs.lean ====
section
/-! SUPPORT. An instruction at the PC, said once for all instructions. -/

namespace Sys2Proof.Machine

/-- A lane whose loop is not replayed takes nothing from the replay buffer. -/
theorem Dev.refill_of_heads {d : Dev} {L : Nat} (h : ((d.lane L).loops.head?.all fun f => !f.play) = true) :
    d.refill L = d := by
  unfold Dev.refill
  dsimp only
  split
  · rfl
  · next f fs hl =>
    rw [hl] at h
    rw [if_pos (by simpa using Or.inl h)]

/-- The record of an instruction that executes as it is decoded: it takes CUR_CTX as it stands (R137, R139). -/
def Dev.recordNow (d : Dev) (L : Nat) (kind : RecKind) (iw : BitVec 128) : Rec :=
  { d.record L kind iw with ctx := (d.lane L).curCtx }

/-- The instruction at which the program stands moves the PC on, leaves its record and acts. -/
theorem Dev.takeRecWith_of_stands {d : Dev} {L : Nat} {iw : BitVec 128} {op : Nat} {due : Option Nat}
    (h : d.stands L iw op due = true) (kind : RecKind) (f : Dev → Rec → Dev) :
    d.takeRecWith L iw op kind due f =
      f ((d.pcAdd L 1).modLane L fun l => { (l.note ((d.pcAdd L 1).recordNow L kind iw)) with records := [] })
        ((d.pcAdd L 1).recordNow L kind iw) := by
  simp only [Dev.stands, Bool.and_eq_true, beq_iff_eq, List.isEmpty_iff, decide_eq_true_eq, Bool.not_eq_true',
    Option.isNone_iff_eq_none] at h
  obtain ⟨⟨⟨⟨⟨⟨⟨⟨h1, h2⟩, h3⟩, h4⟩, h5⟩, h6⟩, h7⟩, h8⟩, h9⟩ := h
  unfold Dev.takeRecWith Dev.atPc
  rw [if_neg (by simp [h1, h2]), Dev.refill_of_heads h4]
  dsimp only
  rw [h3, List.dropWhile_nil]
  dsimp only
  rw [if_neg (by simp [h9]), if_neg (by simp [h5]), if_neg (by omega), if_neg (by simp [h7]), if_neg (by simp [h8])]
  rfl

/-- The same for a meaning that needs nothing of the record. -/
theorem Dev.takeRec_of_stands {d : Dev} {L : Nat} {iw : BitVec 128} {op : Nat} {due : Option Nat}
    (h : d.stands L iw op due = true) (kind : RecKind) (f : Dev → Dev) :
    d.takeRec L iw op kind due f =
      f ((d.pcAdd L 1).modLane L fun l => { (l.note ((d.pcAdd L 1).recordNow L kind iw)) with records := [] }) :=
  Dev.takeRecWith_of_stands h kind fun d _ => f d

/-- The same for an instruction that leaves no record. -/
theorem Dev.takePc_of_stands {d : Dev} {L : Nat} {iw : BitVec 128} {op : Nat}
    (h : d.stands L iw op none = true) (f : Dev → Dev) : d.takePc L iw op f = f (d.pcAdd L 1) := by
  simp only [Dev.stands, Bool.and_eq_true, beq_iff_eq, List.isEmpty_iff, decide_eq_true_eq, Bool.not_eq_true',
    Option.isNone_iff_eq_none] at h
  obtain ⟨⟨⟨⟨⟨⟨⟨⟨h1, h2⟩, h3⟩, h4⟩, h5⟩, h6⟩, h7⟩, h8⟩, h9⟩ := h
  unfold Dev.takePc Dev.atPc
  rw [if_neg (by simp [h1, h2]), Dev.refill_of_heads h4]
  dsimp only
  rw [h3]
  dsimp only
  rw [if_neg (by simp [h5]), if_neg (by omega), if_neg (by simp [h7]), if_neg (by simp [h8])]

end Sys2Proof.Machine
end

