-- ==== Sys2Proof/Laws/Micro.lean ====
section
/-! SUPPORT. A micro-op at the engine's address, said once for all micro-ops. -/

namespace Sys2Proof.Machine

/-- A word that passes parity acts on the thread that is on the engine. -/
theorem Dev.uop_of_fetches {d : Dev} {k op ti : Nat} {w : Micro} (h : d.fetches k op w ti = true) (f : UOp) :
    d.uop k op w f = d.uopRun k ti w f := by
  simp only [Dev.fetches, Bool.and_eq_true, beq_iff_eq, Bool.not_eq_true'] at h
  obtain ⟨⟨h1, h2⟩, h3⟩ := h
  unfold Dev.uop
  rw [h1]
  dsimp only
  rw [h2, if_neg (by simp [h3]), if_neg (by simp)]

/-- An engine that runs is not in machine check. -/
theorem Dev.not_mchk_of_onEngine {d : Dev} {k ti : Nat} (h : d.onEngine k = some ti) :
    d.on (CL_STATE.MCHK k) = false := by
  unfold Dev.onEngine at h
  by_contra hc
  rw [if_pos (by simp [Bool.not_eq_false] at hc; simp [hc])] at h
  cases h

/-- A word that leaves the registers alone ends with its COMMIT, its dispatch point or its next address. -/
theorem Dev.uop_end {d : Dev} {k op ti : Nat} {w : Micro} (h : d.fetches k op w ti = true) {f : UOp} {e : Dev}
    {t : Thread} {ends : Bool} {nxt : Nat} (hf : f d k ti ((d.cl k).thread ti) w = { d := e, t, ends, nxt })
    (hr : e.regs = d.regs) : d.uop k op w f = e.uopEnd k ti w t ends nxt := by
  rw [Dev.uop_of_fetches h]
  unfold Dev.uopRun
  rw [hf]
  have hm : d.on (CL_STATE.MCHK k) = false := by
    simp only [Dev.fetches, Bool.and_eq_true, beq_iff_eq] at h
    exact Dev.not_mchk_of_onEngine h.1.1
  have he : e.on (CL_STATE.MCHK k) = false := by
    unfold Dev.on at hm ⊢
    rw [Dev.get_of_regs hr]
    exact hm
  dsimp only
  rw [if_neg (by simp [he])]

end Sys2Proof.Machine
end

