-- ==== Sys2Proof/Tests/Base.lean ====
section
/-! SUPPORT. Small states for the tests and for the witnesses of the statements' hypotheses. -/

namespace Sys2Proof.Tests

open Sys2Proof Sys2Proof.Machine

/-- Field values, one after the other. -/
def put (d : Dev) (more : List (Fld × Nat)) : Dev := more.foldl (fun d x => d.set x.1 x.2) d

/-- Session 0, live with attribute M, owns the pages and finds their blocks enabled and ready; the page's cluster is
powered and the start sequence complete; `more` are further field values. -/
def st (pages : List Page) (more : List (Fld × Nat) := []) (f : Dev → Dev := id) : State :=
  let regs := pages.flatMap fun pg =>
    [(PAGE_CTRL pg.base, (1 : Word)), (PAGE_STAT pg.base, 1), (PAGE_OWNER pg.base, 0x600)]
  let pwr := pages.filterMap fun pg => pg.clu?.map fun k => (CL_STATE.PWR k, 2)
  let d : Dev := { sess := [(0, { live := true, attr := 2 })], boot := { done := [8] }, regs := regs }
  { toDev := f (put d (pwr ++ more)) }

/-- Lane 0, held by session 0 with one granule of the Edge Vector Store, in program state `stt` with P far ahead. -/
def prog (stt : Nat) (f : Lane → Lane := id) (more : List (Fld × Nat) := []) : State :=
  st [.ch 0 0] ((PROG_STAT.STATE 0, stt) :: more) fun d =>
    { d.modLane 0 (fun l => f { l with holder := some 0, p := 1000000 }) with
      pe := { allocs := [{ handle := 1, session := 0, kind := 0, base := 0, count := 1, window := 0, rate := 0 }] }, epoch := 100 }

/-- Cluster 0 with its engine at address 0, where the microword stands, for thread `ti`; `f` acts on the thread. -/
def eng (op : Nat) (w : Micro) (ti : Nat := 5) (f : Thread → Thread := id) (g : Dev → Dev := id) : State :=
  st [.seq 0, .ctl 0] [] fun d => g (d.modCl 0 fun c => { c with
    active := some ti, cs := [(0, microWord op w)], threads := [(ti, f { iw := 5 })] })

/-- A microword with operands 0 and 1, or with the given ones. -/
def mw (a : BitVec 8 := 0) (b : BitVec 8 := 1) (c : BitVec 4 := 0) : Micro := ⟨a, b, c, false, false, 7⟩

/-- A request of lane 0 of session 0. -/
def rq (start : Side := .timed 0) (stop : Side := .strobe) : Req :=
  { id := 1, src := .measure, session := 0, lane := 0, stopLane := 0, ts := 0, start, stop, stopN := 0, timeout := 100,
    ring := 0, ctx := 0, hop := 0 }

/-- A ring of 256 records of session 0, number 0. -/
def rg : Ring := ⟨8, 0, 0, false, 0, false, false, 0, 0, 0, 0, 0, 0, 0, 0, false, 0, none, none⟩

/-- TMU 0 of cluster 0 in service at position 0 and in state `stt`, with ring 0; `f` acts on the device. -/
def tm (stt : Nat) (x : Tmu := {}) (f : Dev → Dev := id) : State :=
  st [.pool 0, .ctl 0] [(TMU_STAT.STATE 0 0, stt), (TMU_STAT.ROLE 0 0, 1), (TMU_POOL_MAP.VALID 0 0, 1)] fun d =>
    f ((d.setTmu 0 0 x).setRing 0 (some rg))

/-- Cluster 0 halted with the port at INTRUSIVE, before and after DBG_CLUSTER is in the instruction register. -/
def hl : State × State :=
  let s := st [.ctl 0] [(SEC_STAT.DBG_LEVEL, 2)] fun d =>
    { d.modCl 0 (fun c => { c with halted := true }) with boot := { d.boot with rails := [.aon] } }
  ({ s with toDev := { s.toDev with sec := s.sec.irLoad 0x14 } }, s)

/-- Plinth runs, with a request of the SMBus in its mailbox. -/
def pl (req : List Byte) : State := st [] [] fun d => { d with pln := { d.pln with running := true, mbox := some (req, none) } }

/-- With nothing allocated the first granule of HBM is free. -/
theorem granPlace_empty (d : Dev) (h : d.pe.allocs = []) : d.granPlace true 1 = some 0 := by
  simp [Dev.granPlace, Dev.granFree, h]

/-- A round trip of 0 has no part on either side, whatever the pad split. -/
theorem pathPass_zero (r : CalRun) (L : Nat) : Dev.pathPass r L ⟨0, 0, []⟩ = .tables (.table [0, 0, 0] []) := by
  simp [Dev.pathPass, padOut, halfUp]

end Sys2Proof.Tests
end

