-- ==== Sys2Proof/WellFormed.lean ====
section
/-! DEFINITION. Which commands can reach the device at all. The operand types already bound every number of a
session, a lane or a unit; what is left are the accesses' alignment and length, the lengths of lists, and the
opcode that an instruction row stands for. -/

namespace Sys2Proof

/-- A register access is one aligned 32-bit word (R350). -/
def aligned4 (a : BitVec 26) : Bool := a.toNat % 4 == 0

/-- The instruction word has the row's opcode (R108). -/
def opcodeIs (iw : BitVec 128) (o : Nat) : Bool := iw.toNat / 2 ^ 122 == o

/-- The instruction word is none of the fourteen that R110 defines, or a defined one with a field out of range. -/
def opcodeReserved (iw : BitVec 128) : Bool :=
  let o := iw.toNat / 2 ^ 122
  o == 0 || decide (0x0F ≤ o) || o == 1 || o == 0x0B

/-- Both histograms have one entry per code (R238). -/
def CdPass.wf (c : CdPass) : Bool := c.hist0.length == 4096 && c.hist1.length == 4096

/-- A pass has the measurements of its unit: 64 segments and two or three times 256 errors, of 256 launches a point; the
round trips of one lane through at most 8 interpolators; or two histograms (R234, R238, R239, R241, R244). -/
def PassResult.wf : PassResult → Bool
  | .gen g => g.ach.length == 64 && decide (2 ≤ g.errs.length) && decide (g.errs.length ≤ 3)
      && (g.errs.all fun e => e.length == 256) && decide (g.stops ≤ 256)
  | .path p => decide (p.tmus.length ≤ 8)
  | .density c => c.wf

/-- A failing bit lies inside its word: 72 bits for SRAM words and 40 for the control store (R318, R138). -/
def BadBit.wf (b : BadBit) : Bool := decide (b.bit.toNat < 72)

/-- A command is well formed. -/
def Instr.wf : Instr → Bool
  | .registerWrite _ a _ => aligned4 a
  | .reg64LowRead _ a => aligned4 a
  | .cplLimitExpire _ a => aligned4 a
  | .period _ w => opcodeIs w 1
  | .edge _ w => opcodeIs w 2
  | .pulse _ w => opcodeIs w 3
  | .burst _ w => opcodeIs w 4
  | .ctx _ w => opcodeIs w 5
  | .waitEvt _ w => opcodeIs w 6
  | .loop _ w => opcodeIs w 7
  | .endloop _ w => opcodeIs w 8
  | .call _ w => opcodeIs w 9
  | .ret _ w => opcodeIs w 0x0A
  | .measure _ w => opcodeIs w 0x0B
  | .matchResults _ w => opcodeIs w 0x0C
  | .fire _ w => opcodeIs w 0x0D
  | .halt _ w => opcodeIs w 0x0E
  | .reservedOpcode _ w => opcodeReserved w
  | .calPassDone _ r => r.wf
  | .bgBurstDone _ _ h => h.wf
  | .sliceStepDone _ _ b _ => b.all BadBit.wf
  | .csMarchDone _ bs => bs.all BadBit.wf
  | .bar2Read _ _ n => decide (1 ≤ n) && decide (n ≤ 4096)
  | .bar2Write _ _ bs _ => decide (1 ≤ bs.length) && decide (bs.length ≤ 4096)
  | .plinthIteration x => x.temps.length == 48 && x.supplies.length == 8
  | .smbMboxWr bs => decide (bs.length ≤ 255)
  | .dbgResponse key sig => (key.isEmpty || key.length == 97) && (sig.isEmpty || sig.length == 96)
  | _ => true

end Sys2Proof
end

