-- ==== Sys2Proof/Tests/Slice0.lean ====
section
/-! SUPPORT. Small tests: each check of WellFormed refuses a term, and the manual's worked examples. -/

set_option maxRecDepth 4000

open Sys2Proof Sys2Proof.Machine

namespace Sys2Proof.Tests

/-! ### WellFormed refuses -/

theorem test_wf_write_unaligned : (Instr.registerWrite 0 0x2111 0).wf = false := by decide
theorem test_wf_read_unaligned : (Instr.reg64LowRead 0 0x2112).wf = false := by decide
theorem test_wf_limit_unaligned : (Instr.cplLimitExpire 0 3).wf = false := by decide
theorem test_wf_write_aligned : (Instr.registerWrite 0 0x2110 0).wf = true := by decide
/-- Row i of the instruction words, with a word of opcode i + 1 (0 for the last). -/
theorem test_wf_opcodes :
    [Instr.period 0 0, .edge 0 0, .pulse 0 0, .burst 0 0, .ctx 0 0, .waitEvt 0 0, .loop 0 0, .endloop 0 0, .call 0 0, .ret 0 0,
      .measure 0 0, .matchResults 0 0, .fire 0 0, .halt 0 0].map Instr.wf = List.replicate 14 false := by decide
theorem test_wf_reserved_opcode : (Instr.reservedOpcode 0 (2 * 2 ^ 122)).wf = false := by decide
theorem test_wf_pass_gen : (Instr.calPassDone 0 (.gen ⟨[], [[], []], 0⟩)).wf = false := by decide
theorem test_wf_pass_path : (Instr.calPassDone 0 (.path ⟨0, 0, List.replicate 9 (0, 0, 0)⟩)).wf = false := by decide
theorem test_wf_pass_density : (Instr.calPassDone 0 (.density ⟨[], [], 0, 0, 0, 0⟩)).wf = false := by decide
theorem test_wf_burst : (Instr.bgBurstDone 0 0 ⟨[], [], 0, 0, 0, 0⟩).wf = false := by decide
theorem test_wf_slice_bit : (Instr.sliceStepDone 0 0 (some ⟨0, 72, false, true, none⟩) false).wf = false := by decide
theorem test_wf_march_bit : (Instr.csMarchDone 0 [⟨0, 100, false, true, none⟩]).wf = false := by decide
theorem test_wf_bar2_read : (Instr.bar2Read 0 0 0).wf = false := by decide
theorem test_wf_bar2_write : (Instr.bar2Write 0 0 [] false).wf = false := by decide
theorem test_wf_samples : (Instr.plinthIteration ⟨[], 0, []⟩).wf = false := by decide
theorem test_wf_smbus : (Instr.smbMboxWr (List.replicate 256 0)).wf = false := by decide
theorem test_wf_response : (Instr.dbgResponse [1] []).wf = false := by decide

/-! ### Encodings that the manual writes out -/

/-- 05, Encoding the default PERIOD decode, steps 1 and 2. -/
theorem test_microword_perq : microWord 0x18 ⟨0, 0, 0, false, false, 0x11⟩ = 0xB000000011 := by decide
theorem test_microword_nexti : microWord 0x11 ⟨0, 0x80, 0, true, true, 0⟩ = 0x2201001800 := by decide
/-- 05, the default PERIOD decode. -/
theorem test_microword_fields : Micro.ofWord 0x2201001800 = ⟨0, 0x80, 0, true, true, 0⟩ := by decide
/-- 04, Encoding a PERIOD: opcode 1, and a valid instruction. -/
theorem test_period_word : iwOpcode 0x04FC0000000000000F0F0F0FA5A5A5A5 = 1 ∧ iwInvalid 0x04FC0000000000000F0F0F0FA5A5A5A5 = false := by
  decide
/-- 06, Converting a rise-to-fall interval, step 5: the record's bytes. -/
theorem test_record_bytes : leBytes 16 ((recordBody 87662 0 1999999 138 5).toNat + 2 ^ 114 * 1234)
    = [0x6E, 0x56, 0x01, 0, 0, 0, 0, 0, 0x7F, 0x84, 0x1E, 0, 0x8A, 0x14, 0x48, 0x13] := by decide
/-- 14, A result ring drained to host memory, step 3: the descriptor's first two words. -/
theorem test_ring_descriptor :
    let r : Ring := ⟨17, 5, 0x10000000, true, 31, true, false, 50, 10, 0x1234000000, 0, 0, 0, 0, 0, false, 0, none, none⟩
    r.desc.take 4 = [0x100008B1, 0xC9FC, 0x3400000A, 0x12] := by decide

/-! ### 13, Five messages in one fabric cycle -/

/-- The five messages. -/
def five : List Msg := [⟨919, 0x28, 4, true, 0x62C5, 1, 0, [3]⟩, ⟨1, 0x11, 1, false, 0xB5, 0x10, 0, []⟩,
  ⟨555, 0x22, 1, false, 1, 3, 0, []⟩, ⟨13, 0x59, 3, false, 0x2468ACF0, 0x41, 0, []⟩, ⟨919, 0x28, 4, false, 0x62C5, 7, 0, []⟩]

theorem test_message_words : (five.map Msg.word).take 1 ++ (five.map Msg.word).drop 3
    = [0x397289000062C501, 0x00D5962468ACF041, 0x397288000062C507] := by decide
theorem test_message_order : (ordSort Msg.before five).map (fun m => (m.source, m.inj))
    = [(919, false), (919, true), (13, false), (1, false), (555, false)] := by decide

/-! ### Arithmetic of the worked examples -/

/-- 02, Computing an ageing adjustment: −119,837 is 0xFFFE2BE3 and is not clamped. -/
theorem test_age_adj : ((st []).ageAdj (-119837)).reg TB_AGE_ADJ = 0xFFFE2BE3 ∧ ((st []).ageAdj (-119837)).get TB_STAT.ADJ_CLAMP = 0 := by
  decide
/-- 07, Measuring a 10 GHz DUT clock on FIN1, steps 3 to 6. -/
theorem test_freq_regression :
    let p : List (Nat × Nat) := [(1, 10003), (157, 3281630), (314, 6574232), (470, 9845871)]
    let sum := fun (f : Nat × Nat → Nat) => (p.map f).foldl (· + ·) 0
    let r := freqRegress 4 32 [sum (·.1), sum (·.2), sum fun x => x.1 * x.1, sum fun x => x.1 * x.2, sum fun x => x.2 * x.2]
    r.map (fun x => (x.freq / 2 ^ 32, x.resid)) = some (9999771735, 1113) := by decide
/-- 06, Converting a rise-to-fall interval, steps 1 to 3: both sides in 1/16 tq. -/
theorem test_side_times :
    let x : Tmu := { cd := [(1852, 118500), (2700, 172900), (3598, 230260), (4096 + 1849, 118310), (4096 + 1990, 127380),
      (4096 + 3601, 230450)] }
    x.sideTime 0 { e := 2000002, c := 2700, c1 := 1852, c2 := 3598 } 3000 = 65536 * 1999999 + 51172
      ∧ x.sideTime 1 { e := 2000023, c := 1990, c1 := 1849, c2 := 3601 } 3016 = 65536 * 2000023 - 70837 - 48256 := by decide
/-- 09, Predistortion in force after a temperature rise: −33.675 rounds to −34. -/
theorem test_round_half_up : halfUp (-33675) 1000 = -34 := by decide

end Sys2Proof.Tests
end

