-- ==== Sys2Proof/Tests/WitnessesA.lean ====
section
/-! SUPPORT. For each clause of the statements with hypotheses, a state and operands that meet all of them: reset, step, frames, pages, time base and lanes. -/

set_option linter.unusedVariables false
set_option maxRecDepth 4000

open Sys2Proof Sys2Proof.Machine

namespace Sys2Proof.Tests

theorem witness_StepRunsFrontCommand_1 : ∃ (c : Instr) (rest : List Instr) (s : State),
    (s.pending = c :: rest) :=
  ⟨.idcode, [], { st [] with pending := [.idcode] }, by decide⟩

theorem witness_StepRunsFrontCommand_2 : ∃ (s : State),
    (s.pending = []) :=
  ⟨st [], by decide⟩

theorem witness_StepRunsFrontCommand_3 : ∃ (s : State),
    (s.pending = [] ∧ s.boot.aonOut = true ∧ s.get TB_STAT.PLL_LOCK = 1) :=
  ⟨st [] [(TB_STAT.PLL_LOCK, 1)] fun d => { d with boot := { d.boot with aonOut := true } }, by decide⟩

theorem witness_EveryStepKeepsMemory_1 : ∃ (s t : State),
    (s.memOk) ∧
    (step s = .next t) :=
  ⟨{ st [] with pending := [.idcode] }, _, ⟨by decide, by decide⟩, rfl⟩

theorem witness_StopsOnlyOutsideHbm_2 : ∃ (i : Instr) (s : State) (f : Fault),
    (exec i s = .fault f) :=
  ⟨.uHbmrd 0 mw, eng 0x2A mw 5 fun t => { t with g := [(1, 0x400000000)] }, .hbmAddress, by rfl⟩

theorem witness_CommandsKeepQueueAndMemories_1 : ∃ (i : Instr) (s t : State),
    (exec i s = .next t) :=
  ⟨.idcode, st [], _, by rfl⟩

theorem witness_StoresStayInTheirPlaces_1 : ∃ (ok : Bool) (s t : State) (a : Nat),
    (exec (.repairRecordWritten ok) s = .next t) ∧
    (a < copyBase (b2n s.bist.inCopy0) + 16 * s.get (usedFld (b2n s.bist.inCopy0)) ∨ copyBase (b2n s.bist.inCopy0) + 16 * s.get (usedFld (b2n s.bist.inCopy0)) + 16 ≤ a) :=
  ⟨true, st [bistPage] [] fun d => { d with bist := { d.bist with writeQ := [{ tgt := ⟨0, 0, 0, 0, false⟩ }] } }, _, 0, rfl, by decide⟩

theorem witness_StoresStayInTheirPlaces_2 : ∃ (ok0 ok1 : Bool) (s t : State) (a : Nat),
    (exec (.compactionDone ok0 ok1) s = .next t ∧ s.bist.live.length ≤ 32768) ∧
    (a < 0x40000 ∨ 0x140000 ≤ a) :=
  ⟨true, true, st [bistPage] [] fun d => { d with bist := { d.bist with compact := true } }, _, 0, ⟨rfl, by decide⟩, by decide⟩

theorem witness_StoresStayInTheirPlaces_3 : ∃ (offset : Word) (temp : BitVec 16) (spread : Word) (ok : Bool) (s t : State) (a : Nat),
    (exec (.patinaAppend offset temp spread ok) s = .next t ∧ s.tb.patinaPos < 65536) ∧
    (a < patinaBase + 65536 * (s.tb.patinaPos / 2048) ∨ patinaBase + 65536 * (s.tb.patinaPos / 2048) + 65536 ≤ a) :=
  ⟨0, 0, 0, true, st [], _, 0, ⟨rfl, by decide⟩, by decide⟩

theorem witness_StoresStayInTheirPlaces_4 : ∃ (ok : Bool) (s t : State) (a : Nat),
    (exec (.mboxFwStage ok) s = .next t ∧ (a < fwBase (!s.pln.imageB) ∨ fwBase (!s.pln.imageB) + 0x100000 ≤ a)) :=
  ⟨true, pl [2, 0, 0, 0, 0, 0, 1], _, 0, ⟨rfl, by decide⟩⟩

theorem witness_StoresStayInTheirPlaces_5 : ∃ (ok : Bool) (s t : State) (a : Nat),
    (exec (.mboxFwCommit ok) s = .next t ∧ (a < fwBase (!s.pln.imageB) + 8 ∨ fwBase (!s.pln.imageB) + 12 ≤ a)) :=
  ⟨true, pl [3, 0], _, 0, ⟨rfl, by decide⟩⟩

theorem witness_StoresStayInTheirPlaces_6 : ∃ (ok : Bool) (c : Store) (s t : State) (a : Nat),
    (exec (.calStoreDone ok) s = .next t ∧ s.cal.store = some c ∧ c.restore = false ∧ (bankBytes c.body).length ≤ 0xFF0000) ∧
    (a < bankBase c.bankB ∨ bankBase c.bankB + 0x1000000 ≤ a) :=
  ⟨true, ⟨false, none, false, [], false, false⟩, st [calPage] [] fun d => { d with cal := { d.cal with store := some ⟨false, none, false, [], false, false⟩ } }, _, 0, ⟨rfl, rfl, rfl, by decide⟩, by decide⟩

theorem witness_StoresStayInTheirPlaces_7 : ∃ (ok : Bool) (c : Store) (s t : State) (a : Nat),
    (exec (.calStoreDone ok) s = .next t ∧ s.cal.store = some c ∧ c.restore = true) ∧
    ((a < 0x2000020 ∨ 0x2000024 ≤ a) ∧ (a < 0x3000020 ∨ 0x3000024 ≤ a)) :=
  ⟨true, ⟨false, none, true, [], false, false⟩, st [calPage] [] fun d => { d with cal := { d.cal with store := some ⟨false, none, true, [], false, false⟩ } }, _, 0, ⟨rfl, rfl, rfl⟩, by decide⟩

theorem witness_StoresStayInTheirPlaces_8 : ∃ (s t : State) (a : Nat),
    (exec .lifecycleRecordDone s = .next t) ∧
    ((a < 0x2000020 ∨ 0x2000024 ≤ a) ∧ (a < 0x3000020 ∨ 0x3000024 ≤ a)) :=
  ⟨st [secPage] [] fun d => { d with sec := { d.sec with target := some 2 } }, _, 0, rfl, by decide⟩

theorem witness_StoresStayInTheirPlaces_9 : ∃ (ok : Bool) (m : Msg) (rest : List Msg) (s t : State) (a : Nat),
    (exec (.faultRingWrite ok) s = .next t ∧ s.flt.queue = m :: rest ∧ m.dest.Nodup) ∧
    (a < devRingBase + 8 * (s.flt.device.head % devRingSize) ∨ devRingBase + 8 * (s.flt.device.head % devRingSize) + 8 ≤ a) ∧
    (∀ ss ∈ m.dest, a < mirrorBase ss + 8 * ((s.mirror ss).head % mirrorSize) ∨ mirrorBase ss + 8 * ((s.mirror ss).head % mirrorSize) + 8 ≤ a) :=
  ⟨true, ⟨3, 1, 0, false, 0, 0, 0, []⟩, [], st [fltPage] [] fun d => { d with flt := { d.flt with queue := [⟨3, 1, 0, false, 0, 0, 0, []⟩] } }, _, 0, ⟨rfl, rfl, by decide⟩, by decide, by decide⟩

theorem witness_StoresStayInTheirPlaces_10 : ∃ (e : EccOutcome) (f k n : Nat) (x : Xfer) (body : BitVec 128) (q : HbmSched) (r : Ring) (s t : State) (a b : Nat),
    (exec (.hbmGrant e) s = .next t) ∧
    (((List.range 16).foldl (fun (d : Dev) k => (d.floorAccrue k).floorSort k) s.toDev).hbmPick = some (f, x, q)) ∧
    (x.what = .record k n body ∧ s.ring n = some r ∧ s.bar2At r.owner (r.base + 16 * (r.head % 2 ^ r.sizeLog2)) = some b) ∧
    (a < b ∨ b + 16 ≤ a) :=
  ⟨.clean, 0, 0, 3, ⟨16, 0, .record 0 3 77⟩, 77, { wait := [], deficit := [(0, 240)] }, { rg with out := 1 }, st [ringPage] [] fun d => { d.setRing 3 (some { rg with out := 1 }) with pe := { allocs := [⟨1, 0, 1, 0, 1, 0, 0⟩] }, sched := { wait := [(0, [⟨16, 0, .record 0 3 77⟩])], deficit := [(0, 256)] } }, _, 16, 0, rfl, by decide, by decide, by decide⟩

theorem witness_StoresStayInTheirPlaces_11 : ∃ (ss : Sess) (addr : BitVec 34) (bytes : List Byte) (ep : Bool) (s t : State) (a : Nat),
    (exec (.bar2Write ss addr bytes ep) s = .next t) ∧
    (∀ i < bytes.length, s.bar2At ss (addr.toNat + i) ≠ some a) :=
  ⟨0, 0, [1], false, st [], _, 0, rfl, by decide⟩

theorem witness_StoresStayInTheirPlaces_12 : ∃ (k : Clu) (level : Fin 3) (poison : Bool) (s t : State) (a : Nat),
    (exec (.hbmsyncComplete k level poison) s = .next t) ∧
    (∀ p ∈ ((s.cl k).thread (64 + level)).posted, ∀ b, p.2 = some b → a < p.1 ∨ p.1 + b.length ≤ a) :=
  ⟨0, 0, false, st [], _, 0, rfl, by decide⟩

theorem witness_StoresStayInTheirPlaces_13 : ∃ (k : Clu) (poison : Bool) (l : Load) (s t : State) (a : Nat),
    (exec (.loadCopyDone k poison) s = .next t ∧ (s.cl k).load = some l) ∧
    (a < stagingSlot k ∨ stagingSlot k + (if l.latched then l.image else s.loadSource l).length ≤ a) :=
  ⟨0, true, { force := false, fromNvm := false, slot := 0, offset := 0, len := 0, session := none }, st [.seq 0] [] fun d => d.modCl 0 fun c => { c with load := some { force := false, fromNvm := false, slot := 0, offset := 0, len := 0, session := none } }, _, 0, ⟨rfl, by decide⟩, by decide⟩

theorem witness_StoresStayInTheirPlaces_14 : ∃ (r : PeReq) (rest : List PeReq) (x : Alloc) (s t : State) (a : Nat),
    (exec .peHbmFree s = .next t ∧ s.pe.queue = r :: rest) ∧
    ((s.pe.allocs.find? fun y => y.handle == r.handle && y.session == r.session) = some x) ∧
    (a < x.base * granule ∨ (x.base + x.count) * granule ≤ a) :=
  ⟨⟨0, 6, [], 4, 0, 1, 0⟩, [], ⟨1, 0, 2, 0, 1, 128, 0⟩, st [pePage] [] fun d => { d with pe := { d.pe with queue := [⟨0, 6, [], 4, 0, 1, 0⟩], allocs := [⟨1, 0, 2, 0, 1, 128, 0⟩] } }, _, 0x8000000, ⟨rfl, rfl⟩, by decide, by decide⟩

theorem witness_StoresStayInTheirPlaces_15 : ∃ (ss : Sess) (s t : State) (a : Nat),
    (exec (.sessionResetDone ss) s = .next t) ∧
    (∀ x ∈ s.pe.allocs, x.session = ss → a < x.base * granule ∨ (x.base + x.count) * granule ≤ a) :=
  ⟨0, st [], _, 0, rfl, by decide⟩

theorem witness_StoresStayInTheirPlaces_16 : ∃ (ok : Bool) (s t : State) (a : Nat),
    (exec (.phaseHbmDone ok) s = .next t) ∧
    (a < 0x3E0000000 ∨ (0x3E4000000 ≤ a ∧ a < 0x3EC000000) ∨ 0x400000000 ≤ a) :=
  ⟨true, st [], _, 0, rfl, by decide⟩

theorem witness_MicroWordEnds_1 : ∃ (k : Clu) (w : Micro) (ti : Nat) (s : State),
    (s.fetches k 0x00 w ti = true ∧ w.commit = false ∧ w.irqOk = false ∧ ti < 64) :=
  ⟨0, mw, 5, eng 0x00 mw, by decide⟩

theorem witness_MicroWordEnds_2 : ∃ (k : Clu) (w : Micro) (ti : Nat) (s : State),
    (s.fetches k 0x00 w ti = true ∧ w.commit = false ∧ w.irqOk = true ∧ ti < 64) :=
  ⟨0, { mw with irqOk := true }, 5, eng 0x00 { mw with irqOk := true }, by decide⟩

theorem witness_MicroWordEnds_3 : ∃ (k : Clu) (w : Micro) (ti : Nat) (s : State),
    (s.fetches k 0x00 w ti = true ∧ w.commit = true) :=
  ⟨0, { mw with commit := true }, 5, eng 0x00 { mw with commit := true }, by decide⟩

theorem witness_MicroWordEnds_4 : ∃ (k : Clu) (w : Micro) (ti : Nat) (s : State),
    (s.fetches k 0x12 w ti = true) :=
  ⟨0, mw, 5, eng 0x12 mw, by decide⟩

theorem witness_MicroWordEnds_5 : ∃ (i : Instr) (k : Clu) (ti : Nat) (s : State),
    (microOf i = some k ∧ s.onEngine k = some ti ∧ s.get (CL_STATE.MCHK k) = 0) ∧
    (evenParity ((s.cl k).word (s.cl k).upc) = true) :=
  ⟨.uMov 0 mw, 0, 5, st [.seq 0, .ctl 0] [] fun d => d.modCl 0 fun c => { c with active := some 5, cs := [(0, microWord 1 mw ^^^ 1)], threads := [(5, { iw := 5 })] }, by decide⟩

theorem witness_MicroWordEnds_6 : ∃ (k : Clu) (n : Fin 3) (s : State),
    (s.powered k = true ∧ s.get (CL_STATE.MCHK k) = 0) :=
  ⟨0, 1, st [.seq 0, .ctl 0], by decide⟩

theorem witness_SourceBufferRule_1 : ∃ (d : Dev) (src kind sev addr : Nat) (dest : List Nat) (b : Msg),
    (src < 2048 ∧ (d.source src).buf = some b) :=
  ⟨((st []).toDev.setSource 3 { buf := some ⟨3, 1, 0, false, 0, 0, 0, []⟩ }), 3, 2, 1, 0, [], ⟨3, 1, 0, false, 0, 0, 0, []⟩, by decide⟩

theorem witness_SourceBufferRule_2 : ∃ (ss : Sess) (val : Word) (s : State) (n : Nat),
    (s.lets ss fltPage 0x148 (whoOf fltPage 0x148) true = true) :=
  ⟨0, 1, st [fltPage], 3, by decide⟩

theorem witness_DeliveryOrderRule_1 : ∃ (s : State),
    ((∀ m ∈ s.fltWaiting, m.sev < 8 ∧ m.source < 4096)) :=
  ⟨st [fltPage] [] fun d => d.setSource 3 { buf := some ⟨3, 1, 0, false, 0, 0, 0, []⟩ }, by decide⟩

theorem witness_DeliveryOrderRule_3 : ∃ (m : Msg) (rest : List Msg) (s : State),
    (s.flt.queue = m :: rest ∧ 16 * (8 + 8 * m.dest.length) ≤ s.devBucket ∧ s.flt.device.room 2097152 m = true) :=
  ⟨⟨3, 1, 0, false, 0, 0, 0, []⟩, [], st [fltPage] [] fun d => { d with flt := { d.flt with queue := [⟨3, 1, 0, false, 0, 0, 0, []⟩] } }, by decide⟩

theorem witness_DeliveryOrderRule_4 : ∃ (m : Msg) (rest : List Msg) (ss : Sess) (s : State),
    (s.flt.queue = m :: rest ∧ 16 * (8 + 8 * m.dest.length) ≤ s.devBucket ∧ m.dest = [ss.val] ∧ (s.sn ss).live = true) ∧
    ((s.mirror ss).room 32768 m = true) :=
  ⟨⟨3, 1, 0, false, 0, 0, 0, [0]⟩, [], 0, st [fltPage] [] fun d => { d with flt := { d.flt with queue := [⟨3, 1, 0, false, 0, 0, 0, [0]⟩] } }, by decide⟩

theorem witness_EpochLoadRule_1 : ∃ (r : Row),
    (rowOf dirumPage 0x110 = some r) :=
  ⟨(rowOf dirumPage 0x110).getD ⟨0, 0, 0, false, 0, 0, [], 0, 0, 0, .any, 0⟩, by decide⟩

theorem witness_EpochLoadRule_2 : ∃ (p : SyncPulse) (s : State),
    (s.dirum.take = some p ∧ p.e0 ≤ s.epoch) :=
  ⟨⟨0, true, 3⟩, st [dirumPage] [] fun d => { d with epoch := 5000, up := 5000, dirum := { d.dirum with take := some ⟨0, true, 3⟩ } }, by decide⟩

theorem witness_WritesWithoutRightAreDiscarded_1 : ∃ (ss : Sess) (addr : BitVec 26) (off : Nat) (r : Row) (val : Word) (s : State),
    (placeOf addr.toNat = .page dirumPage off ∧ addr.toNat % 4 = 0 ∧ 0x20 ≤ off ∧ off ≠ 0x104 ∧ rowOf dirumPage off = some r ∧ r.fixed = false) ∧
    (s.acts ss = true ∧ s.waits ss = false ∧ tget (fun _ => none) s.pageReset dirumPage.base ≠ some s.cycle ∧ s.may ss dirumPage r.who = false) :=
  ⟨0, 0x2110, 0x110, ((rowOf dirumPage 0x110).getD ⟨0, 0, 0, false, 0, 0, [], 0, 0, 0, .any, 0⟩), 7, st [], by decide⟩

theorem witness_WritesWithoutRightAreDiscarded_2 : ∃ (ss : Sess) (val : Word) (s : State),
    (s.acts ss = true ∧ s.waits ss = false ∧ tget (fun _ => none) s.pageReset tbPage.base ≠ some s.cycle ∧ s.may ss tbPage .owner = false) :=
  ⟨0, 1, st [], by decide⟩

theorem witness_WritesWithoutRightAreDiscarded_3 : ∃ (ss : Sess) (inj : Bool) (w : Fin 64) (val : Word) (s : State),
    (s.acts ss = true ∧ s.waits ss = false ∧ tget (fun _ => none) s.pageReset fltPage.base ≠ some s.cycle ∧ s.may ss fltPage .owner = false) :=
  ⟨0, false, 3, 1, st [], by decide⟩

theorem witness_WritesWithoutRightAreDiscarded_4 : ∃ (ss : Sess) (val : Word) (s : State),
    (s.acts ss = true ∧ s.waits ss = false ∧ tget (fun _ => none) s.pageReset pwrPage.base ≠ some s.cycle ∧ s.may ss pwrPage (whoOf pwrPage 0x104) = false) :=
  ⟨0, 1, st [], by decide⟩

theorem witness_WritesWithoutRightAreDiscarded_5 : ∃ (ss : Sess) (k : Clu) (val : Word) (s : State),
    (s.holdsStarts = false ∧ s.acts ss = true ∧ s.waits ss = false) ∧
    (tget (fun _ => none) s.pageReset (Page.freq k).base ≠ some s.cycle ∧ s.may ss (.freq k) (whoOf (.freq k) 0x120) = false) :=
  ⟨0, 0, 1, st [], by decide⟩

theorem witness_PortCommandsKeepTheRest_1 : ∃ (i : Instr) (s t : State) (p : Part),
    (sect i = .port ∧ touches i p = false) ∧
    (exec i s = .next t) :=
  ⟨.idcode, st [], _, .hbm, by decide, rfl⟩

theorem witness_EngineCommandsKeepTheRest_1 : ∃ (i : Instr) (s t : State) (p : Part),
    (sect i = .engine ∧ touches i p = false) ∧
    (exec i s = .next t) :=
  ⟨.uMov 0 mw, eng 0x01 mw, _, .hbm, by decide, rfl⟩

theorem witness_UnitCommandsKeepTheRest_1 : ∃ (i : Instr) (s t : State) (p : Part),
    (sect i = .unit ∧ touches i p = false) ∧
    (exec i s = .next t) :=
  ⟨.pllRelockTimeout, st [], _, .hbm, by decide, rfl⟩

theorem witness_ServiceCommandsKeepTheRest_1 : ∃ (i : Instr) (s t : State) (p : Part),
    (sect i = .service ∧ touches i p = false) ∧
    (exec i s = .next t) :=
  ⟨.swapLoadDone 0, st [], _, .hbm, by decide, rfl⟩

theorem witness_RegisterAccessesComplete_1 : ∃ (ss : Sess) (k : Clu) (t : TmuId) (addr : BitVec 26) (off : Nat) (r : Row) (val : Word) (s : State) (pg : Page),
    (pg = .ctl k ∨ pg = .tmu k t) ∧
    (placeOf addr.toNat = .page pg off ∧ addr.toNat % 4 = 0 ∧ 0x20 ≤ off) ∧
    (rowOf pg off = some r ∧ r.fixed = false ∧ r.pair = 0) ∧
    (s.lets ss pg off r.who false = true) :=
  ⟨0, 0, 0, 0x10C0120, 0x120, ((rowOf (.tmu 0 0) 0x120).getD ⟨0, 0, 0, false, 0, 0, [], 0, 0, 0, .any, 0⟩), 0, st [.tmu 0 0], .tmu 0 0, by decide⟩

theorem witness_RegisterAccessesComplete_2 : ∃ (ss : Sess) (addr : BitVec 26) (s : State),
    (addr.toNat % 4 = 0 ∧ s.acts ss = true ∧ s.waits ss = false ∧ pairOf addr.toNat = 1) :=
  ⟨0, 0x1110, st [tbPage], by decide⟩

theorem witness_RegisterAccessesComplete_4 : ∃ (ss : Sess) (addr : BitVec 26) (pg : Page) (off : Nat) (s : State),
    (s.acts ss = true ∧ placeOf addr.toNat = .page pg off) :=
  ⟨0, 0x1110, tbPage, 0x110, st [tbPage], by decide⟩

theorem witness_PagesComplete_1 : ∃ (ss : Sess) (pg : Page) (en : Bool) (s : State),
    (s.lets ss pg 8 .owner false = true ∧ pg.fixedCtrl = false) :=
  ⟨0, .seq 0, true, st [.seq 0], by decide⟩

theorem witness_PagesComplete_2 : ∃ (ss : Sess) (pg : Page) (on : Bool) (s : State),
    (s.lets ss pg 8 .owner false = true ∧ pg.fixedCtrl = false) :=
  ⟨0, .seq 0, true, st [.seq 0], by decide⟩

theorem witness_PagesComplete_3 : ∃ (ss : Sess) (pg : Page) (s : State),
    (s.lets ss pg 8 .owner false = true ∧ pg.fixedCtrl = false) ∧
    (pg.clu?.isSome = true) :=
  ⟨0, .seq 0, st [.seq 0], by decide⟩

theorem witness_PagesComplete_4 : ∃ (ss : Sess) (pg : Page) (s : State),
    (s.lets ss pg 0x10 .any false = true) ∧
    (pg.claimable = true ∧ s.owner pg = none ∧ s.claimMay ss pg = true) :=
  ⟨0, .seq 0, st [.seq 0] [(PAGE_OWNER.OWNED (Page.base (.seq 0)), 0)], by decide⟩

theorem witness_PagesComplete_5 : ∃ (ss : Sess) (pg : Page) (s : State),
    (s.lets ss pg 0x10 .any false = true) ∧
    (pg.claimable = true ∧ s.owner pg = some ss.val ∧ s.get (PAGE_OWNER.LOCK pg.base) = 0) :=
  ⟨0, .seq 0, st [.seq 0], by decide⟩

theorem witness_PagesComplete_6 : ∃ (ss : Sess) (pg : Page) (lock : Bool) (s : State),
    (s.lets ss pg 0x10 .any false = true) ∧
    (pg.claimable = true ∧ s.owner pg = some ss.val ∧ s.attr ss = 2) :=
  ⟨0, .seq 0, true, st [.seq 0], by decide⟩

theorem witness_ReferenceCompletes_1 : ∃ (ss : Sess) (val : Word) (ref : RefIn) (s : State),
    (s.lets ss tbPage 0x108 .owner false = true ∧ wfield val 1 2 ≠ 3) :=
  ⟨0, 1, ⟨5, 0⟩, st [tbPage], by decide⟩

theorem witness_ReferenceCompletes_2 : ∃ (ss : Sess) (val : Word) (ref : RefIn) (s : State),
    (s.lets ss tbPage 0x108 .owner false = true ∧ wfield val 1 2 ≠ 3) ∧
    (s.get TB_STAT.PLL_LOCK = 1 ∧ s.get TB_REF_SEL.SRC = 0 ∧ wfield val 0 1 = 1 ∧ wfield val 1 2 = s.get TB_REF_SEL.FREQ) ∧
    (s.get TB_STAT.REFIN_PRESENT = 1) :=
  ⟨0, 1, ⟨5, 0⟩, st [tbPage] [(TB_STAT.PLL_LOCK, 1), (TB_STAT.REFIN_PRESENT, 1), (TB_REF_SEL.SRC, 0)], by decide⟩

theorem witness_ReferenceCompletes_3 : ∃ (ss : Sess) (val : Word) (ref : RefIn) (s : State),
    (s.lets ss tbPage 0x124 .owner false = true) :=
  ⟨0, 1, ⟨5, 0⟩, st [tbPage], by decide⟩

theorem witness_ReferenceCompletes_4 : ∃ (ss : Sess) (val : Word) (ref : RefIn) (s : State),
    (s.lets ss tbPage 0x100 .owner false = true) ∧
    (wbit val 1 = true ∧ s.get TB_STAT.REFIN_PRESENT = 1 ∧ s.get TB_STAT.SRC_STATE = 4 ∧ s.budgetSpent = false) :=
  ⟨0, 2, ⟨5, 0⟩, st [tbPage] [(TB_STAT.REFIN_PRESENT, 1), (TB_STAT.SRC_STATE, 4)], by decide⟩

theorem witness_ReferenceCompletes_5 : ∃ (ref : RefIn) (s : State),
    (s.qualifies ref = true ∧ s.get TB_STAT.SRC_STATE = 1) :=
  ⟨⟨5000, 0⟩, st [tbPage] [(TB_STAT.SRC_STATE, 1), (TB_REF_QUAL.MS, 1)], by decide⟩

theorem witness_ReferenceCompletes_6 : ∃ (mean : Word) (s : State),
    (s.get TB_STAT.SRC_STATE = 2 ∨ s.get TB_STAT.SRC_STATE = 3 ∨ s.get TB_STAT.SRC_STATE = 5) ∧
    (s.tb.relockCyc ≠ some s.cycle) :=
  ⟨5, st [tbPage] [(TB_STAT.SRC_STATE, 3)], by decide⟩

theorem witness_ReferenceCompletes_7 : ∃ (s : State),
    (s.get TB_STAT.SRC_STATE = 2) :=
  ⟨st [tbPage] [(TB_STAT.SRC_STATE, 2)], by decide⟩

theorem witness_ReferenceCompletes_8 : ∃ (s : State),
    (s.get TB_STAT.SRC_STATE = 5 ∧ s.slewLeft ≤ 16000000000) :=
  ⟨st [tbPage] [(TB_STAT.SRC_STATE, 5)], by decide⟩

theorem witness_MasterPllEventsComplete_1 : ∃ (s : State),
    (s.get TB_STAT.PLL_LOCK = 1 ∧ s.boot.done.contains 8 = true) ∧
    (s.get TB_STAT.SRC_STATE = 2 ∨ s.get TB_STAT.SRC_STATE = 3 ∨ s.get TB_STAT.SRC_STATE = 5) :=
  ⟨st [tbPage] [(TB_STAT.PLL_LOCK, 1), (TB_STAT.SRC_STATE, 3)], by decide⟩

theorem witness_MasterPllEventsComplete_2 : ∃ (s : State),
    (s.get TB_STAT.PLL_LOCK = 1 ∧ s.boot.done.contains 8 = false) :=
  ⟨st [tbPage] [(TB_STAT.PLL_LOCK, 1)] fun d => { d with boot := {} }, by decide⟩

theorem witness_MasterPllEventsComplete_3 : ∃ (ref : RefIn) (t0 : Nat) (s : State),
    (s.tb.pllLostT0 = some t0 ∧ s.tb.pllDead = false ∧ s.up ≤ t0 + relockLimit) ∧
    (s.get TB_STAT.SRC_STATE ≠ 4) :=
  ⟨⟨5, 0⟩, 0, st [tbPage] [] fun d => { d with tb := { d.tb with pllLostT0 := some 0 } }, by decide⟩

theorem witness_MasterPllEventsComplete_4 : ∃ (t0 : Nat) (s : State),
    (s.tb.pllLostT0 = some t0 ∧ t0 + relockLimit ≤ s.up) :=
  ⟨0, st [tbPage] [] fun d => { d with tb := { d.tb with pllLostT0 := some 0 }, up := 32000000 }, by decide⟩

theorem witness_AgeingAndTreesComplete_1 : ∃ (ss : Sess) (val : Word) (s : State),
    (s.lets ss tbPage 0x10C .owner false = true ∧ s.get TB_CTRL.PATINA_AUTO = 0) :=
  ⟨0, 7, st [tbPage] [(TB_CTRL.PATINA_AUTO, 0)], by decide⟩

theorem witness_AgeingAndTreesComplete_2 : ∃ (offset : Word) (temp : BitVec 16) (spread : Word) (p : Nat) (s : State),
    (s.plinthMay = true ∧ s.tb.patinaPos < 65536 ∧ p = (if s.tb.patinaPos % 2048 = 0 then s.tb.patinaPos + 1 else s.tb.patinaPos)) ∧
    (s.get TB_STAT.SRC_STATE = 3 ∧ s.get TB_CTRL.PATINA_LOG = 1 ∧ s.pln.st ≠ .deep ∧ s.pln.running = true) ∧
    (max s.tb.patinaT0 s.tb.lockedT0 + 60 * secT0 * s.get TB_PATINA_CFG.INTERVAL ≤ s.up) :=
  ⟨3, 4, 5, 1, st [tbPage] [(TB_STAT.SRC_STATE, 3), (TB_CTRL.PATINA_LOG, 1), (TB_PATINA_CFG.INTERVAL, 1)] fun d => { d with pln := { d.pln with running := true }, up := 192000000000 }, by decide⟩

theorem witness_AgeingAndTreesComplete_3 : ∃ (a b : Int) (r2 : Nat) (x y : PatinaRec) (s : State),
    (s.get TB_PATINA_CFG.MIN_RECORDS ≤ s.patinaMeas.length ∧ s.patinaMeas.head? = some x ∧ s.patinaMeas.getLast? = some y) ∧
    (168 * 3600 ≤ y.opSeconds - x.opSeconds) ∧
    (patinaSolve (s.get TB_PATINA_CFG.C) s.patinaMeas = some (a, b, r2) ∧ r2 ≤ 22000 * 22000 * s.patinaMeas.length) :=
  ⟨0, 0, 0, ⟨0, 0, 0, 0, false, 0, 0⟩, ⟨604800, 0, 0, 0, false, 0, 1⟩, st [tbPage] [(TB_PATINA_CFG.MIN_RECORDS, 2), (TB_PATINA_CFG.C, 1)] fun d => { d with tb := { d.tb with patina := [⟨0, 0, 0, 0, false, 0, 0⟩, ⟨604800, 0, 0, 0, false, 0, 1⟩] } }, by decide⟩

theorem witness_AgeingAndTreesComplete_4 : ∃ (s : State),
    (s.get TB_CTRL.PATINA_AUTO = 1 ∧ s.get TB_STAT.PATINA_FIT_OK = 1 ∧ s.pln.running = true ∧ s.tb.hourT0 + 3600 * secT0 ≤ s.up) ∧
    (s.get TB_STAT.SRC_STATE = 4) :=
  ⟨st [tbPage] [(TB_CTRL.PATINA_AUTO, 1), (TB_STAT.PATINA_FIT_OK, 1), (TB_STAT.SRC_STATE, 4)] fun d => { d with pln := { d.pln with running := true }, up := 11520000000000 }, by decide⟩

theorem witness_AgeingAndTreesComplete_5 : ∃ (s : State),
    (s.get TB_CTRL.PATINA_AUTO = 1 ∧ s.get TB_STAT.PATINA_FIT_OK = 1 ∧ s.pln.running = true ∧ s.tb.hourT0 + 3600 * secT0 ≤ s.up) ∧
    (s.get TB_STAT.SRC_STATE ≠ 4) :=
  ⟨st [tbPage] [(TB_CTRL.PATINA_AUTO, 1), (TB_STAT.PATINA_FIT_OK, 1), (TB_STAT.SRC_STATE, 3)] fun d => { d with pln := { d.pln with running := true }, up := 11520000000000 }, by decide⟩

theorem witness_AgeingAndTreesComplete_6 : ∃ (k : Clu) (goal : Nat) (s : State),
    ((s.cl k).treeTo = some goal ∧ (s.cl k).treeT0 + 256 ≤ s.up) :=
  ⟨0, 3, st [.ctl 0] [] fun d => { d.modCl 0 (fun c => { c with treeTo := some 3 }) with up := 256 }, by decide⟩

theorem witness_LockGroupsComplete_1 : ∃ (ss : Sess) (val : Word) (s : State),
    (s.lets ss tbPage 0x184 .any false = true ∧ s.lgMembersErr ss (s.lgSel ss) (s.get (TB_LG_SEL.WORD ss)) val = 0) :=
  ⟨0, 2, st [tbPage] [] fun d => (d.modLg 0 fun x => { x with owner := some 0 }).modLane 1 fun l => { l with holder := some 0 }, by decide⟩

theorem witness_LockGroupsComplete_2 : ∃ (ss : Sess) (val : Word) (s : State),
    (s.lets ss tbPage 0x188 .any true = true ∧ s.holdsStarts = false ∧ wfield val 2 2 ≠ 3) ∧
    (lgCmds val = [0] ∧ (s.lg (s.lgSel ss)).owner = none) :=
  ⟨0, 1, st [tbPage], by decide⟩

theorem witness_LockGroupsComplete_3 : ∃ (ss : Sess) (val : Word) (s : State),
    (s.lets ss tbPage 0x188 .any true = true ∧ s.holdsStarts = false ∧ wfield val 2 2 ≠ 3) ∧
    (lgCmds val = [1] ∧ (s.lg (s.lgSel ss)).owner = some ss.val ∧ (s.lg (s.lgSel ss)).st = .idle) :=
  ⟨0, 2, st [tbPage] [] fun d => d.modLg 0 fun x => { x with owner := some 0 }, by decide⟩

theorem witness_LockGroupsComplete_4 : ∃ (ss : Sess) (val : Word) (s : State),
    (s.lets ss tbPage 0x188 .any true = true ∧ s.holdsStarts = false ∧ wfield val 2 2 ≠ 3) ∧
    (lgCmds val = [4] ∧ s.lgCtrlErr ss (s.lgSel ss) val = 0 ∧ (s.lg (s.lgSel ss)).stopCyc ≠ some s.cycle) :=
  ⟨0, 16, st [tbPage] [] fun d => d.modLg 0 fun x => { x with owner := some 0, members := [1] }, by decide⟩

theorem witness_LockGroupsComplete_5 : ∃ (ss : Sess) (val : Word) (m : Nat) (s : State),
    (s.lets ss tbPage 0x188 .any true = true ∧ s.holdsStarts = false ∧ wfield val 2 2 ≠ 3) ∧
    (lgCmds val = [5] ∧ (s.lg (s.lgSel ss)).owner = some ss.val ∧ (s.lg (s.lgSel ss)).st = .running) ∧
    (m ∈ (s.lg (s.lgSel ss)).members ∧ m < 1024 ∧ s.progState m = 4) :=
  ⟨0, 32, 1, st [tbPage] [(PROG_STAT.STATE 1, 4)] fun d => d.modLg 0 fun x => { x with owner := some 0, members := [1], st := .running }, by decide⟩

theorem witness_LockGroupsComplete_6 : ∃ (ss : Sess) (val : Word) (s : State),
    (s.lets ss tbPage 0x188 .any true = true ∧ s.holdsStarts = false ∧ wfield val 2 2 ≠ 3) ∧
    (lgCmds val = [6] ∧ (s.lg (s.lgSel ss)).owner = some ss.val ∧ (s.lg (s.lgSel ss)).st = .running) :=
  ⟨0, 64, st [tbPage] [] fun d => d.modLg 0 fun x => { x with owner := some 0, members := [1], st := .running }, by decide⟩

theorem witness_LockGroupsComplete_7 : ∃ (g : Grp) (t0 : Nat) (s : State),
    ((s.lg g).startAt = some t0 ∧ (s.lg g).st = .armed ∧ (s.lg g).stopT0 = none ∧ t0 < tq (s.epoch + 1)) :=
  ⟨0, 0, st [tbPage] [] fun d => d.modLg 0 fun x => { x with st := .armed, startAt := some 0 }, by decide⟩

theorem witness_LockGroupsComplete_8 : ∃ (ss : Sess) (val : Word) (s : State),
    (s.holdsStarts = true ∧ wbit val 4 = true) :=
  ⟨0, 16, st [tbPage] [] fun d => { d with dirum := { d.dirum with take := some ⟨0, true, 3⟩ } }, by decide⟩

theorem witness_DirumCompletes_1 : ∃ (ss : Sess) (s : State),
    (s.lets ss dirumPage 0x104 (whoOf dirumPage 0x104) true = true ∧ wbit (s.reg DIRUM_CTRL) 2 = false) :=
  ⟨0, st [dirumPage], by decide⟩

theorem witness_DirumCompletes_2 : ∃ (ss : Sess) (s : State),
    (s.lets ss dirumPage 0x104 (whoOf dirumPage 0x104) true = true) :=
  ⟨0, st [dirumPage], by decide⟩

theorem witness_DirumCompletes_3 : ∃ (ss : Sess) (s : State),
    (s.lets ss dirumPage 0x104 (whoOf dirumPage 0x104) true = true) :=
  ⟨0, st [dirumPage], by decide⟩

theorem witness_DirumCompletes_4 : ∃ (arrival : Nat) (s : State),
    (s.stamping = true ∧ s.come arrival = true) ∧
    (∀ t, s.dirum.lastRise = some t → t + tq 1280 ≤ s.upTq arrival) :=
  ⟨0, st [dirumPage] [(DIRUM_CTRL.STAMP_EN, 1), (TB_STAT.PLL_LOCK, 1)], by decide, by intro t h; cases h⟩

theorem witness_DirumCompletes_5 : ∃ (p : SyncPulse) (h : Nat) (s : State),
    (s.dirum.pulse = some p ∧ p.c + 512 ≤ s.epoch) ∧
    (tq 16 ≤ h ∧ h ≤ tq 320) :=
  ⟨⟨0, false, 0⟩, 65536, st [dirumPage] [] fun d => { d with epoch := 513, dirum := { d.dirum with pulse := some ⟨0, false, 0⟩ } }, by decide⟩

theorem witness_DirumCompletes_6 : ∃ (p : SyncPulse) (h : Nat) (s : State),
    (s.dirum.pulse = some p ∧ p.c + 512 ≤ s.epoch) ∧
    (h < tq 16 ∨ tq 320 < h) :=
  ⟨⟨0, false, 0⟩, 65535, st [dirumPage] [] fun d => { d with epoch := 513, dirum := { d.dirum with pulse := some ⟨0, false, 0⟩ } }, by decide⟩

theorem witness_DirumCompletes_7 : ∃ (p : SyncPulse) (s : State),
    (s.dirum.pulse = some p ∧ p.c + 512 ≤ s.epoch ∧ p.armed = false) :=
  ⟨⟨0, false, 0⟩, st [dirumPage] [] fun d => { d with epoch := 513, dirum := { d.dirum with pulse := some ⟨0, false, 0⟩ } }, by decide⟩

theorem witness_DirumCompletes_8 : ∃ (p : SyncPulse) (s : State),
    (s.dirum.pulse = some p ∧ p.c + 512 ≤ s.epoch ∧ p.armed = true ∧ s.quiet = true) :=
  ⟨⟨0, true, 0⟩, st [dirumPage] [] fun d => { d with epoch := 513, dirum := { d.dirum with pulse := some ⟨0, true, 0⟩ } }, by decide⟩

theorem witness_DirumCompletes_9 : ∃ (p : SyncPulse) (s : State),
    (s.dirum.take = some p ∧ p.e0 ≤ s.epoch ∧ s.dirum.held = [] ∧ s.dirum.heldSlots = [] ∧ s.armedAfter = 0) :=
  ⟨⟨0, true, 0⟩, st [dirumPage] [] fun d => { d with epoch := 1025, dirum := { d.dirum with take := some ⟨0, true, 0⟩ } }, by decide⟩

theorem witness_LanesComplete_1 : ∃ (L : Lch) (n : Fin 4) (s : State),
    (tget (fun _ => 0) (s.lane L).slotBusy n ≠ 0 ∧ tget (fun _ => 0) (s.lane L).slotBusy n ≤ tq s.epoch) :=
  ⟨0, 1, prog 0 fun l => { l with slotBusy := [(1, 0 + 5)] }, by decide⟩

theorem witness_LanesComplete_2 : ∃ (L : Lch) (g : GateEv) (s : State),
    ((s.lane L).gates.find? (fun g => !g.done) = some g ∧ g.t ≤ tq s.epoch + 4095) :=
  ⟨0, ⟨0, 1, false, false⟩, prog 0 fun l => { l with gates := [⟨0, 1, false, false⟩] }, by decide⟩

theorem witness_LanesComplete_3 : ∃ (ss : Sess) (L : Lch) (val : Word) (eg : Nat) (s : State),
    (s.lets ss (lanePage L) 0x130 (whoOf (lanePage L) 0x130) true = true ∧ s.get (LANE_STAT.HOLD L) = 0) ∧
    (wbit val 16 = true ∧ wbit val 8 = false ∧ eg < 6 ∧ wbit val eg = true) :=
  ⟨0, 0, 0x10001, 0, prog 0, by decide⟩

theorem witness_LanesComplete_4 : ∃ (ss : Sess) (L : Lch) (val : Word) (s : State),
    (s.lets ss (lanePage L) 0x100 .owner false = true) ∧
    ((val ^^^ s.reg (LANE_CFG L)) &&& 3 = 0 ∨ s.inFlight L = false) :=
  ⟨0, 0, 1, prog 0, by decide⟩

theorem witness_LanesComplete_5 : ∃ (L : Lch) (u : Nat) (s : State),
    (earliest (s.lane L).cands = some u ∧ u / 4096 ≤ s.epoch + 4) :=
  ⟨0, 5, prog 0 fun l => { l with cands := [{ eg := 0, sched := 5, lane := 5, src := .software }] }, by decide⟩

theorem witness_LanesComplete_6 : ∃ (L : Lch) (c : Cand) (s : State),
    ((s.lane L).cands = [c] ∧ c.lane / 4096 ≤ s.epoch + 4 ∧ c.eg = 0 ∧ c.src = .software ∧ c.uses = []) ∧
    (s.get (LANE_SERVED.VALID L) = 1 ∧ s.get (LANE_STAT.DRV_LEVEL L) = 0 ∧ (s.lane L).drvLast = none ∧ (s.lane L).fired = []) :=
  ⟨0, { eg := 0, sched := 5, lane := 5, src := .software }, prog 0 (fun l => { l with cands := [{ eg := 0, sched := 5, lane := 5, src := .software }] }) [(LANE_SERVED.VALID 0, 1)], by decide⟩

theorem witness_LanesComplete_7 : ∃ (L : Lch) (level changed : Bool) (f : Flight) (r : PendRes) (s : State),
    ((s.lane L).flight = [f] ∧ 4 ≤ f.eg ∧ f.lane / 4096 ≤ s.epoch ∧ f.uses = [(r.id, 0)]) ∧
    ((s.lane L).results = [r] ∧ r.mode = 3 ∧ r.own = true ∧ r.s0 = none ∧ r.s1 = none) :=
  ⟨0, true, false, ⟨4, 5, [(1, 0)]⟩, { id := 1, p := 0, mode := 3, own := true }, prog 0 fun l => { l with flight := [⟨4, 5, [(1, 0)]⟩], results := [{ id := 1, p := 0, mode := 3, own := true }] }, by decide⟩

theorem witness_ContextAndFetchComplete_1 : ∃ (ss : Sess) (L : Lch) (val : Word) (s : State),
    (s.lets ss (lanePage L) 0x1D0 .owner false = true ∧ s.regionIn 0 (L / 64) (L % 64) = false) :=
  ⟨0, 0, 7, prog 0, by decide⟩

theorem witness_ContextAndFetchComplete_2 : ∃ (ss : Sess) (L : Lch) (s : State),
    (s.acts ss = true ∧ s.waits ss = false ∧ s.gated (lanePage L) = false ∧ s.regionIn 0 (L / 64) (L % 64) = false) :=
  ⟨0, 0, prog 0, by decide⟩

theorem witness_ContextAndFetchComplete_3 : ∃ (L : Lch) (line : BitVec 20) (s : State),
    (s.progBusy L = true ∧ 16 * line.toNat < s.evsEntries L ∧ s.evsPoison L (256 * line.toNat) 256 = false) :=
  ⟨0, 3, prog 4, by decide⟩

theorem witness_ContextAndFetchComplete_4 : ∃ (L : Lch) (line : BitVec 20) (s : State),
    (s.progBusy L = true) :=
  ⟨0, 3, prog 4, by decide⟩

theorem witness_EdgeInstructionsComplete_1 : ∃ (L : Lch) (iw : BitVec 128) (s : State),
    (s.stands L iw 1 (some 0) = true ∧ iwCount iw = 0) ∧
    ((s.lane L).mat = none ∧ (s.lane L).switches = [] ∧ (s.lane L).badCtx = []) :=
  ⟨0, 0x04000000000000000000000000000000, prog 4, by decide⟩

theorem witness_EdgeInstructionsComplete_2 : ∃ (L : Lch) (iw : BitVec 128) (eg : Nat) (s : State),
    (s.stands L iw 2 (some (iwOffset iw)) = true ∧ s.get (LANE_STAT.HOLD L) = 0) ∧
    (eg < 6 ∧ (iwEgMask iw).testBit eg = true) :=
  ⟨0, 0x08100000000000000000000000000000, 0, prog 4, by decide⟩

theorem witness_EdgeInstructionsComplete_3 : ∃ (L : Lch) (iw : BitVec 128) (eg : Nat) (s : State),
    (s.stands L iw 3 (some (iwOffset iw)) = true ∧ s.get (LANE_STAT.HOLD L) = 0) ∧
    (eg < 4 ∧ (iwEgMask iw).testBit eg = true) :=
  ⟨0, 0x0C100000000000000000000000000000, 0, prog 4, by decide⟩

theorem witness_EdgeInstructionsComplete_4 : ∃ (L : Lch) (iw : BitVec 128) (eg : Nat) (s : State),
    (s.stands L iw 4 (some (burstOffset iw)) = true ∧ s.get (LANE_STAT.HOLD L) = 0) ∧
    (eg < 4 ∧ (iwEgMask iw).testBit eg = true) :=
  ⟨0, 0x10100000000000000000000000000000, 0, prog 4, by decide⟩

theorem witness_ControlInstructionsComplete_1 : ∃ (L : Lch) (iw : BitVec 128) (s : State),
    (s.stands L iw 5 none = true ∧ s.groupOf L = none) :=
  ⟨0, 0x14000000000000000000000000000003, prog 4, by decide⟩

theorem witness_ControlInstructionsComplete_2 : ∃ (L : Lch) (iw : BitVec 128) (s : State),
    (s.stands L iw 6 none = true ∧ waitNoEvt iw = false) :=
  ⟨0, 0x18000000000000000000000000000000, prog 4, by decide⟩

theorem witness_ControlInstructionsComplete_3 : ∃ (L : Lch) (iw : BitVec 128) (s : State),
    (s.stands L iw 7 none = true ∧ (s.lane L).loops.length < 8) :=
  ⟨0, 0x1C000000000000000000000100000003, prog 4, by decide⟩

theorem witness_ControlInstructionsComplete_4 : ∃ (L : Lch) (iw : BitVec 128) (f : LoopFrame) (fs : List LoopFrame) (s : State),
    (s.stands L iw 8 none = true ∧ (s.lane L).loops = f :: fs ∧ f.forever = false ∧ 1 < f.count) :=
  ⟨0, 0x20000000000000000000000000000000, ⟨0, 2, false, 1, 0, true, [], false, false⟩, [], prog 4 fun l => { l with loops := [⟨0, 2, false, 1, 0, true, [], false, false⟩] }, by decide⟩

theorem witness_ControlInstructionsComplete_5 : ∃ (L : Lch) (iw : BitVec 128) (s : State),
    (s.stands L iw 9 none = true ∧ (s.lane L).calls.length < 8) :=
  ⟨0, 0x24000000000000000000000000000005, prog 4, by decide⟩

theorem witness_ControlInstructionsComplete_6 : ∃ (L : Lch) (iw : BitVec 128) (f : CallFrame) (fs : List CallFrame) (s : State),
    (s.stands L iw 0x0A none = true ∧ (s.lane L).calls = f :: fs ∧ (s.lane L).loops.length ≤ f.loops) :=
  ⟨0, 0x28000000000000000000000000000000, ⟨7, 0, 0, 0, false⟩, [], prog 4 fun l => { l with calls := [⟨7, 0, 0, 0, false⟩] }, by decide⟩

theorem witness_OtherInstructionsComplete_1 : ∃ (L : Lch) (iw : BitVec 128) (s : State),
    (s.stands L iw 0x0C none = true) :=
  ⟨0, 0x30000000000000000000000000000000, prog 4, by decide⟩

theorem witness_OtherInstructionsComplete_2 : ∃ (L : Lch) (iw : BitVec 128) (s : State),
    (s.stands L iw 0x0D none = true) :=
  ⟨0, 0x34000000000000000000000000000000, prog 4, by decide⟩

theorem witness_OtherInstructionsComplete_3 : ∃ (L : Lch) (f : FireEv) (s : State),
    ((s.lane L).fires = [f] ∧ f.origin / 4096 ≤ s.epoch) :=
  ⟨0, ⟨0, 0, 0, 0⟩, prog 4 fun l => { l with fires := [⟨0, 0, 0, 0⟩] }, by decide⟩

theorem witness_OtherInstructionsComplete_4 : ∃ (L : Lch) (iw : BitVec 128) (s : State),
    (s.stands L iw 0x0E none = true ∧ s.progState L = 4) :=
  ⟨0, 0x38000000000000000000000000000000, prog 4, by decide⟩

theorem witness_OtherInstructionsComplete_5 : ∃ (L : Lch) (iw : BitVec 128) (s : State),
    (s.canRun L = true ∧ iwInvalid iw = true ∧ (s.lane L).records = [] ∧ (s.lane L).stopErr = none) ∧
    (s.get (PROG_PC.PC L) < s.evsEntries L ∧ s.evsPoison L (16 * s.get (PROG_PC.PC L)) 16 = false) :=
  ⟨0, 0, prog 4, by decide⟩

theorem witness_OtherInstructionsComplete_6 : ∃ (L : Lch) (w : WaitSt) (s : State),
    ((s.lane L).wait = some w ∧ w.timeout ≠ 0 ∧ (s.lane L).stopAt = none ∧ (s.lane L).stopErr = none ∧ s.progState L = 5) ∧
    (w.a + tq (w.timeout + 48) ≤ tq s.epoch + 4095) :=
  ⟨0, ⟨0, 1, 0, 1, 0⟩, st [.ch 0 0] [(PROG_STAT.STATE 0, 5)] fun d => { d.modLane 0 (fun l => { l with wait := some ⟨0, 1, 0, 1, 0⟩ }) with epoch := 49 }, by decide⟩

theorem witness_OtherInstructionsComplete_7 : ∃ (L : Lch) (s : State),
    (s.progState L = 4 ∧ (s.lane L).records = [] ∧ (s.lane L).loops = [] ∧ (s.lane L).stopAt = none ∧ (s.lane L).under = none) ∧
    ((s.lane L).p < tq (s.epoch + 1)) :=
  ⟨0, prog 4 fun l => { l with p := 0 }, by decide⟩

theorem witness_OtherInstructionsComplete_8 : ∃ (L : Lch) (s : State),
    (s.progState L = 4 ∧ (s.lane L).records = [] ∧ (s.lane L).loops = [] ∧ (s.lane L).stopAt = none ∧ (s.lane L).under = none) ∧
    (tq (s.epoch + 1) ≤ (s.lane L).p ∧ (s.lane L).p ≤ tq (s.epoch + 8)) :=
  ⟨0, prog 4 fun l => { l with p := 440000 }, by decide⟩

theorem witness_ProgramControlCompletes_1 : ∃ (ss : Sess) (L : Lch) (val : Word) (s : State),
    (s.lets ss (lanePage L) 0x1D4 (whoOf (lanePage L) 0x1D4) true = true) ∧
    (wbit val 0 = true ∧ wbit val 1 = false ∧ wbit val 2 = false ∧ s.progState L = 0 ∧ s.startsRefused (L / 64) = false) ∧
    (s.regionIn 0 (L / 64) (L % 64) = false ∧ s.regionIn 1 (L / 64) (L % 64) = false) :=
  ⟨0, 0, 1, prog 0, by decide⟩

theorem witness_ProgramControlCompletes_2 : ∃ (L : Lch) (u : Nat) (s : State),
    ((s.lane L).primeT0 = some u ∧ s.progState L = 1 ∧ s.primeRuns L = false ∧ s.poison = []) :=
  ⟨0, 0, prog 1 fun l => { l with primeT0 := some 0 }, by decide⟩

theorem witness_ProgramControlCompletes_3 : ∃ (ss : Sess) (L : Lch) (val : Word) (s : State),
    (s.lets ss (lanePage L) 0x1D4 (whoOf (lanePage L) 0x1D4) true = true ∧ s.holdsStarts = false) ∧
    (wbit val 0 = false ∧ wbit val 1 = true ∧ wbit val 2 = false ∧ s.progState L = 2 ∧ s.startsRefused (L / 64) = false) ∧
    (s.groupOf L = none ∧ (wfield val 3 2 = 0 ∨ wfield val 3 2 = 2)) :=
  ⟨0, 0, 2, prog 2, by decide⟩

theorem witness_ProgramControlCompletes_4 : ∃ (ss : Sess) (L : Lch) (val : Word) (s : State),
    (s.holdsStarts = true ∧ wbit val 1 = true) :=
  ⟨0, 0, 2, st [] [] fun d => { d with dirum := { d.dirum with take := some ⟨0, true, 3⟩ } }, by decide⟩

theorem witness_ProgramControlCompletes_5 : ∃ (L : Lch) (u v : Nat) (s : State),
    ((s.lane L).startAt = some u ∧ s.progState L = 3 ∧ s.groupOf L = none ∧ u < tq (s.epoch + 1)) ∧
    ((s.lane L).primedT0 = some v ∧ tq (v + 8) ≤ u ∧ (s.lane L).wait = none ∧ (s.lane L).under = none ∧ (s.lane L).stopErr = none) :=
  ⟨0, 40960, 0, st [.ch 0 0] [(PROG_STAT.STATE 0, 3)] fun d => { d.modLane 0 (fun l => { l with startAt := some 40960, primedT0 := some 0 }) with epoch := 10 }, by decide⟩

theorem witness_ProgramControlCompletes_6 : ∃ (ss : Sess) (L : Lch) (val : Word) (s : State),
    (s.lets ss (lanePage L) 0x1D4 (whoOf (lanePage L) 0x1D4) true = true) ∧
    (wbit val 0 = false ∧ wbit val 1 = false ∧ wbit val 2 = true ∧ s.progBusy L = true) :=
  ⟨0, 0, 4, prog 4, by decide⟩

theorem witness_ProgramControlCompletes_7 : ∃ (L : Lch) (u err : Nat) (s : State),
    ((s.lane L).stopAt = some (u, err) ∧ err < 16 ∧ s.progState L = 4 ∧ u ≤ (s.lane L).p ∧ (s.lane L).p < tq (s.epoch + 1)) :=
  ⟨0, 0, 0, prog 4 fun l => { l with p := 5, stopAt := some (0, 0) }, by decide⟩

end Sys2Proof.Tests
end

