-- ==== Sys2Proof/Tests/WitnessesB.lean ====
section
/-! SUPPORT. For each clause of the statements with hypotheses, a state and operands that meet all of them: the micro-engine, TMUs and the estimator. -/

set_option linter.unusedVariables false
set_option maxRecDepth 4000

open Sys2Proof Sys2Proof.Machine

namespace Sys2Proof.Tests

theorem witness_MicroArithmeticCompletes_1 : ∃ (k : Clu) (w : Micro) (ti : Nat) (s : State),
    (s.fetches k 0x00 w ti = true) :=
  ⟨0, mw, 5, eng 0x00 mw, by decide⟩

theorem witness_MicroArithmeticCompletes_2 : ∃ (k : Clu) (w : Micro) (ti : Nat) (s : State),
    (s.fetches k 0x01 w ti = true) :=
  ⟨0, mw, 5, eng 0x01 mw, by decide⟩

theorem witness_MicroArithmeticCompletes_3 : ∃ (k : Clu) (w : Micro) (ti : Nat) (s : State),
    (s.fetches k 0x02 w ti = true) :=
  ⟨0, mw, 5, eng 0x02 mw, by decide⟩

theorem witness_MicroArithmeticCompletes_4 : ∃ (k : Clu) (w : Micro) (ti : Nat) (s : State),
    (s.fetches k 0x03 w ti = true) :=
  ⟨0, mw, 5, eng 0x03 mw, by decide⟩

theorem witness_MicroArithmeticCompletes_5 : ∃ (k : Clu) (w : Micro) (ti : Nat) (s : State),
    (s.fetches k 0x0B w ti = true) :=
  ⟨0, mw, 5, eng 0x0B mw, by decide⟩

theorem witness_MicroArithmeticCompletes_6 : ∃ (k : Clu) (w : Micro) (ti : Nat) (s : State),
    (s.fetches k 0x0A w ti = true) :=
  ⟨0, mw, 5, eng 0x0A mw, by decide⟩

theorem witness_MicroArithmeticCompletes_7 : ∃ (k : Clu) (w : Micro) (ti : Nat) (s : State),
    (s.fetches k 0x0D w ti = true) :=
  ⟨0, mw, 5, eng 0x0D mw, by decide⟩

theorem witness_MicroArithmeticCompletes_8 : ∃ (k : Clu) (w : Micro) (ti : Nat) (s : State),
    (s.fetches k 0x0E w ti = true) :=
  ⟨0, mw, 5, eng 0x0E mw, by decide⟩

theorem witness_MicroArithmeticCompletes_9 : ∃ (k : Clu) (w : Micro) (ti : Nat) (s : State),
    (s.fetches k 0x0F w ti = true) :=
  ⟨0, mw, 5, eng 0x0F mw, by decide⟩

theorem witness_MicroLogicCompletes_1 : ∃ (k : Clu) (w : Micro) (ti : Nat) (s : State),
    (s.fetches k 0x04 w ti = true) :=
  ⟨0, mw, 5, eng 0x04 mw, by decide⟩

theorem witness_MicroLogicCompletes_2 : ∃ (k : Clu) (w : Micro) (ti : Nat) (s : State),
    (s.fetches k 0x05 w ti = true) :=
  ⟨0, mw, 5, eng 0x05 mw, by decide⟩

theorem witness_MicroLogicCompletes_3 : ∃ (k : Clu) (w : Micro) (ti : Nat) (s : State),
    (s.fetches k 0x06 w ti = true) :=
  ⟨0, mw, 5, eng 0x06 mw, by decide⟩

theorem witness_MicroLogicCompletes_4 : ∃ (k : Clu) (w : Micro) (ti : Nat) (s : State),
    (s.fetches k 0x0C w ti = true) :=
  ⟨0, mw, 5, eng 0x0C mw, by decide⟩

theorem witness_MicroLogicCompletes_5 : ∃ (k : Clu) (w : Micro) (ti : Nat) (s : State),
    (s.fetches k 0x07 w ti = true) :=
  ⟨0, mw, 5, eng 0x07 mw, by decide⟩

theorem witness_MicroLogicCompletes_6 : ∃ (k : Clu) (w : Micro) (ti : Nat) (s : State),
    (s.fetches k 0x08 w ti = true) :=
  ⟨0, mw, 5, eng 0x08 mw, by decide⟩

theorem witness_MicroLogicCompletes_7 : ∃ (k : Clu) (w : Micro) (ti : Nat) (s : State),
    (s.fetches k 0x09 w ti = true) :=
  ⟨0, mw, 5, eng 0x09 mw, by decide⟩

theorem witness_MicroLogicCompletes_8 : ∃ (k : Clu) (w : Micro) (ti : Nat) (s : State),
    (s.fetches k 0x10 w ti = true) ∧
    ((s.uB k ti w).toNat + widthOf w.c.toNat ≤ 128) :=
  ⟨0, mw, 5, eng 0x10 mw, by decide⟩

theorem witness_MicroLogicCompletes_9 : ∃ (k : Clu) (w : Micro) (ti : Nat) (s : State),
    (s.fetches k 0x10 w ti = true) ∧
    (128 < (s.uB k ti w).toNat + widthOf w.c.toNat) :=
  ⟨0, ⟨0, 0xFF, 15, false, false, 7⟩, 5, eng 0x10 ⟨0, 0xFF, 15, false, false, 7⟩, by decide⟩

theorem witness_MicroProgramOpsComplete_1 : ∃ (k : Clu) (w : Micro) (ti : Nat) (L : Nat) (s : State),
    (s.fetches k 0x11 w ti = true) ∧
    (laneOf k ti ((s.cl k).thread ti) = some L) :=
  ⟨0, mw, 5, 5, eng 0x11 mw, by decide⟩

theorem witness_MicroProgramOpsComplete_2 : ∃ (k : Clu) (w : Micro) (ti : Nat) (s : State),
    (s.fetches k 0x12 w ti = true) :=
  ⟨0, mw, 5, eng 0x12 mw, by decide⟩

theorem witness_MicroProgramOpsComplete_3 : ∃ (k : Clu) (w : Micro) (ti : Nat) (s : State),
    (s.fetches k 0x13 w ti = true) :=
  ⟨0, mw, 5, eng 0x13 mw, by decide⟩

theorem witness_MicroProgramOpsComplete_4 : ∃ (k : Clu) (w : Micro) (ti : Nat) (L : Nat) (s : State),
    (s.fetches k 0x14 w ti = true) ∧
    (laneOf k ti ((s.cl k).thread ti) = some L) ∧
    (((s.toDev.view ((s.cl k).thread ti)).lane L).loops.length < 8) :=
  ⟨0, mw, 5, 5, eng 0x14 mw, by decide⟩

theorem witness_MicroProgramOpsComplete_5 : ∃ (k : Clu) (w : Micro) (ti L : Nat) (f : LoopFrame) (fs : List LoopFrame) (s : State),
    (s.fetches k 0x15 w ti = true) ∧
    (laneOf k ti ((s.cl k).thread ti) = some L) ∧
    (((s.toDev.view ((s.cl k).thread ti)).lane L).loops = f :: fs ∧ f.zero ((s.toDev.view ((s.cl k).thread ti)).lane L) = false) :=
  ⟨0, mw, 5, 5, ⟨0, 2, false, 1, 0, true, [], false, false⟩, [], eng 0x15 mw 5 id fun d => d.modLane 5 fun l => { l with loops := [⟨0, 2, false, 1, 0, true, [], false, false⟩], calls := [⟨7, 1, 0, 0, false⟩] }, by decide⟩

theorem witness_MicroProgramOpsComplete_6 : ∃ (k : Clu) (w : Micro) (ti : Nat) (L : Nat) (s : State),
    (s.fetches k 0x16 w ti = true) ∧
    (laneOf k ti ((s.cl k).thread ti) = some L) ∧
    (((s.toDev.view ((s.cl k).thread ti)).lane L).calls.length < 8) :=
  ⟨0, mw, 5, 5, eng 0x16 mw, by decide⟩

theorem witness_MicroProgramOpsComplete_7 : ∃ (k : Clu) (w : Micro) (ti L : Nat) (f : CallFrame) (fs : List CallFrame) (s : State),
    (s.fetches k 0x17 w ti = true) ∧
    (laneOf k ti ((s.cl k).thread ti) = some L) ∧
    (((s.toDev.view ((s.cl k).thread ti)).lane L).calls = f :: fs ∧ ((s.toDev.view ((s.cl k).thread ti)).lane L).loops.length ≤ f.loops) :=
  ⟨0, mw, 5, 5, ⟨7, 1, 0, 0, false⟩, [], eng 0x17 mw 5 id fun d => d.modLane 5 fun l => { l with loops := [⟨0, 2, false, 1, 0, true, [], false, false⟩], calls := [⟨7, 1, 0, 0, false⟩] }, by decide⟩

theorem witness_MicroProgramOpsComplete_8 : ∃ (k : Clu) (w : Micro) (ti : Nat) (L : Nat) (s : State),
    (s.fetches k 0x18 w ti = true) ∧
    (laneOf k ti ((s.cl k).thread ti) = some L) :=
  ⟨0, mw, 5, 5, eng 0x18 mw, by decide⟩

theorem witness_MicroProgramOpsComplete_9 : ∃ (k : Clu) (w : Micro) (ti : Nat) (L : Nat) (s : State),
    (s.fetches k 0x19 w ti = true) ∧
    (laneOf k ti ((s.cl k).thread ti) = some L) :=
  ⟨0, mw, 5, 5, eng 0x19 mw, by decide⟩

theorem witness_MicroProgramOpsComplete_10 : ∃ (k : Clu) (w : Micro) (ti : Nat) (L : Nat) (s : State),
    (s.fetches k 0x1A w ti = true) ∧
    (laneOf k ti ((s.cl k).thread ti) = some L) :=
  ⟨0, mw, 5, 5, eng 0x1A mw, by decide⟩

theorem witness_MicroProgramOpsComplete_11 : ∃ (k : Clu) (w : Micro) (ti : Nat) (L : Nat) (s : State),
    (s.fetches k 0x1B w ti = true) ∧
    (laneOf k ti ((s.cl k).thread ti) = some L) :=
  ⟨0, mw, 5, 5, eng 0x1B mw, by decide⟩

theorem witness_MicroProgramOpsComplete_12 : ∃ (k : Clu) (w : Micro) (ti : Nat) (L : Nat) (s : State),
    (s.fetches k 0x1C w ti = true) ∧
    (laneOf k ti ((s.cl k).thread ti) = some L) :=
  ⟨0, mw, 5, 5, eng 0x1C mw, by decide⟩

theorem witness_MicroProgramOpsComplete_13 : ∃ (k : Clu) (w : Micro) (ti : Nat) (L : Nat) (s : State),
    (s.fetches k 0x1D w ti = true) ∧
    (laneOf k ti ((s.cl k).thread ti) = some L) :=
  ⟨0, mw, 5, 5, eng 0x1D mw, by decide⟩

theorem witness_MicroProgramOpsComplete_14 : ∃ (k : Clu) (w : Micro) (ti : Nat) (L : Nat) (s : State),
    (s.fetches k 0x1E w ti = true) ∧
    (laneOf k ti ((s.cl k).thread ti) = some L) :=
  ⟨0, mw, 5, 5, eng 0x1E mw, by decide⟩

theorem witness_MicroProgramOpsComplete_15 : ∃ (k : Clu) (w : Micro) (ti : Nat) (L : Nat) (s : State),
    (s.fetches k 0x1F w ti = true) ∧
    (laneOf k ti ((s.cl k).thread ti) = some L) :=
  ⟨0, mw, 5, 5, eng 0x1F mw, by decide⟩

theorem witness_MicroControlCompletes_1 : ∃ (k : Clu) (w : Micro) (ti : Nat) (s : State),
    (s.fetches k 0x21 w ti = true) :=
  ⟨0, mw, 5, eng 0x21 mw, by decide⟩

theorem witness_MicroControlCompletes_2 : ∃ (k : Clu) (w : Micro) (ti : Nat) (s : State),
    (s.fetches k 0x22 w ti = true) :=
  ⟨0, mw, 5, eng 0x22 mw, by decide⟩

theorem witness_MicroControlCompletes_3 : ∃ (k : Clu) (w : Micro) (ti : Nat) (s : State),
    (s.fetches k 0x23 w ti = true) :=
  ⟨0, mw, 5, eng 0x23 mw, by decide⟩

theorem witness_MicroControlCompletes_4 : ∃ (k : Clu) (w : Micro) (ti L : Nat) (s : State),
    (s.fetches k 0x20 w ti = true) ∧
    (laneOf k ti ((s.cl k).thread ti) = some L ∧ ((s.cl k).thread ti).shadow = [] ∧ s.atStop L = true) :=
  ⟨0, mw, 5, 5, eng 0x20 mw 5 id fun d => d.set (PROG_STAT.STATE 5) 4, by decide⟩

theorem witness_MicroControlCompletes_5 : ∃ (k : Clu) (w : Micro) (ti L : Nat) (s : State),
    (s.fetches k 0x20 w ti = true) ∧
    (laneOf k ti ((s.cl k).thread ti) = some L ∧ ((s.cl k).thread ti).shadow = [] ∧ s.atStop L = false ∧ (s.lane L).stopErr = none) :=
  ⟨0, mw, 5, 5, eng 0x20 mw, by decide⟩

theorem witness_MicroControlCompletes_6 : ∃ (k : Clu) (w : Micro) (ti : Nat) (s : State),
    (s.fetches k 0x24 w ti = true) :=
  ⟨0, mw, 5, eng 0x24 mw, by decide⟩

theorem witness_MicroMemoryCompletes_1 : ∃ (k : Clu) (w : Micro) (ti : Nat) (s : State),
    (s.fetches k 0x28 w ti = true) ∧
    (memOk (s.uB k ti w).toNat = true) :=
  ⟨0, mw, 5, eng 0x28 mw, by decide⟩

theorem witness_MicroMemoryCompletes_2 : ∃ (k : Clu) (w : Micro) (ti : Nat) (s : State),
    (s.fetches k 0x28 w ti = true) ∧
    (memOk (s.uB k ti w).toNat = false) :=
  ⟨0, mw, 5, eng 0x28 mw 5 fun t => { t with g := [(1, 0x8000)] }, by decide⟩

theorem witness_MicroMemoryCompletes_3 : ∃ (k : Clu) (w : Micro) (ti : Nat) (s : State),
    (s.fetches k 0x29 w ti = true) ∧
    (memOk (s.uB k ti w).toNat = true ∧ (s.uB k ti w).toNat < 0x8000) :=
  ⟨0, mw, 5, eng 0x29 mw, by decide⟩

theorem witness_MicroMemoryCompletes_4 : ∃ (k : Clu) (w : Micro) (ti : Nat) (s : State),
    (s.fetches k 0x29 w ti = true) ∧
    (memOk (s.uB k ti w).toNat = true ∧ 0x8000 ≤ (s.uB k ti w).toNat) :=
  ⟨0, mw, 5, eng 0x29 mw 5 fun t => { t with g := [(1, 0x10000)] }, by decide⟩

theorem witness_MicroMemoryCompletes_5 : ∃ (k : Clu) (w : Micro) (ti : Nat) (s : State),
    (s.fetches k 0x2A w ti = true) ∧
    ((s.uB k ti w).toNat + 64 ≤ hbmSize) :=
  ⟨0, mw, 5, eng 0x2A mw, by decide⟩

theorem witness_MicroMemoryCompletes_6 : ∃ (k : Clu) (w : Micro) (ti : Nat) (s : State),
    (s.fetches k 0x2B w ti = true) ∧
    ((s.uB k ti w).toNat + 64 ≤ hbmSize) :=
  ⟨0, mw, 5, eng 0x2B mw, by decide⟩

theorem witness_MicroMemoryCompletes_7 : ∃ (k : Clu) (w : Micro) (ti : Nat) (s : State),
    (s.fetches k 0x2A w ti = true) ∧
    (hbmSize < (s.uB k ti w).toNat + 64) :=
  ⟨0, mw, 5, eng 0x2A mw 5 fun t => { t with g := [(1, 0x400000000)] }, by decide⟩

theorem witness_MicroMemoryCompletes_8 : ∃ (k : Clu) (w : Micro) (ti : Nat) (s : State),
    (s.fetches k 0x2B w ti = true) ∧
    (hbmSize < (s.uB k ti w).toNat + 64) :=
  ⟨0, mw, 5, eng 0x2B mw 5 fun t => { t with g := [(1, 0x400000000)] }, by decide⟩

theorem witness_MicroMemoryCompletes_9 : ∃ (k : Clu) (w : Micro) (ti : Nat) (s : State),
    (s.fetches k 0x2C w ti = true) :=
  ⟨0, mw, 5, eng 0x2C mw, by decide⟩

theorem witness_MicroMemoryCompletes_10 : ∃ (k : Clu) (level : Fin 3) (poison : Bool) (s : State),
    (((s.cl k).thread (64 + level)).posted ≠ [] ∨ ((s.cl k).thread (64 + level)).suspended = true) :=
  ⟨0, 1, false, eng 0 mw 65 fun t => { t with suspended := true }, by decide⟩

theorem witness_MicroServiceOpsComplete_1 : ∃ (k : Clu) (w : Micro) (ti : Nat) (s : State),
    (s.fetches k 0x2D w ti = true) :=
  ⟨0, mw, 5, eng 0x2D mw, by decide⟩

theorem witness_MicroServiceOpsComplete_2 : ∃ (k : Clu) (w : Micro) (ti : Nat) (s : State),
    (s.fetches k 0x2E w ti = true) :=
  ⟨0, mw, 5, eng 0x2E mw, by decide⟩

theorem witness_MicroServiceOpsComplete_3 : ∃ (k : Clu) (w : Micro) (ti : Nat) (s : State),
    (s.fetches k 0x2F w ti = true) :=
  ⟨0, mw, 5, eng 0x2F mw, by decide⟩

theorem witness_MicroServiceOpsComplete_4 : ∃ (k : Clu) (w : Micro) (ti : Nat) (s : State),
    (s.fetches k 0x30 w ti = true) :=
  ⟨0, mw, 5, eng 0x30 mw, by decide⟩

theorem witness_MicroServiceOpsComplete_5 : ∃ (k : Clu) (w : Micro) (ti : Nat) (L : Nat) (s : State),
    (s.fetches k 0x31 w ti = true) ∧
    (laneOf k ti ((s.cl k).thread ti) = some L) :=
  ⟨0, mw, 5, 5, eng 0x31 mw, by decide⟩

theorem witness_MicroServiceOpsComplete_6 : ∃ (k : Clu) (w : Micro) (ti : Nat) (L : Nat) (s : State),
    (s.fetches k 0x32 w ti = true) ∧
    (laneOf k ti ((s.cl k).thread ti) = some L) :=
  ⟨0, mw, 5, 5, eng 0x32 mw, by decide⟩

theorem witness_MicroServiceOpsComplete_7 : ∃ (k : Clu) (w : Micro) (ti : Nat) (s : State),
    (s.fetches k 0x33 w ti = true) :=
  ⟨0, mw, 5, eng 0x33 mw, by decide⟩

theorem witness_MicroServiceOpsComplete_8 : ∃ (k : Clu) (v j t0 : Nat) (r : List (Nat × Nat × Nat)) (s : State),
    (s.get (CL_STATE.MCHK k) = 0 ∧ s.get (CL_STATE.QUIESCED k) = 0 ∧ (s.cl k).halted = false ∧ (s.cl k).active = none) ∧
    ((s.cl k).pend2 = (v, j, t0) :: r ∧ s.levelReady k 2 = true ∧ ((s.cl k).thread 66).preempted = false) ∧
    (s.svcWindow k ≤ s.get (SEQ_CTRL.SVC_THRESH k)) :=
  ⟨0, 1, 5, 0, [], st [.seq 0, .ctl 0] [] fun d => d.modCl 0 fun c => { c with pend2 := [(1, 5, 0)] }, by decide⟩

theorem witness_ControlStoreLoadCompletes_1 : ∃ (ss : Sess) (k : Clu) (val : Word) (s : State),
    (s.lets ss (.seq k) 0x11C (whoOf (.seq k) 0x11C) true = true) ∧
    (wbit val 0 = true ∧ wbit val 1 = false ∧ wbit val 2 = false ∧ (s.cl k).load = none ∧ s.loadBusy k = []) :=
  ⟨0, 0, 1, st [.seq 0], by decide⟩

theorem witness_ControlStoreLoadCompletes_2 : ∃ (ss : Sess) (k : Clu) (val : Word) (s : State),
    (s.lets ss (.seq k) 0x11C (whoOf (.seq k) 0x11C) true = true) ∧
    (wbit val 0 = false ∧ wbit val 2 = true ∧ s.get (SEQ_LOAD_STAT.STATE k) = 1) :=
  ⟨0, 0, 4, st [.seq 0] [(SEQ_LOAD_STAT.STATE 0, 1)], by decide⟩

theorem witness_ControlStoreLoadCompletes_3 : ∃ (k : Clu) (s : State),
    (s.get (SEQ_LOAD_STAT.STATE k) = 1 ∧ s.loadBusy k = [] ∧ (s.cl k).atRest = true) :=
  ⟨0, st [.seq 0] [(SEQ_LOAD_STAT.STATE 0, 1)], by decide⟩

theorem witness_ControlStoreLoadCompletes_4 : ∃ (k : Clu) (l : Load) (s : State),
    ((s.cl k).load = some l ∧ s.get (SEQ_LOAD_STAT.STATE k) = 2) ∧
    (l.fromNvm = false ∧ l.offset + l.len ≤ 0x400000000 ∧ s.poison = []) :=
  ⟨0, ⟨false, false, 0, 0, 0, some 0, 0, [], false⟩, st [.seq 0] [(SEQ_LOAD_STAT.STATE 0, 2)] fun d => d.modCl 0 fun c => { c with load := some ⟨false, false, 0, 0, 0, some 0, 0, [], false⟩ }, by decide⟩

theorem witness_ControlStoreLoadCompletes_5 : ∃ (k : Clu) (l : Load) (err : Nat) (wd : Option Nat) (s : State),
    ((s.cl k).load = some l ∧ s.get (SEQ_LOAD_STAT.STATE k) = 3) ∧
    (checkImage l.image l.fromNvm l.len = some (err, wd) ∧ err < 16 ∧ s.again = []) :=
  ⟨0, ⟨false, false, 0, 0, 0, some 0, 0, [], false⟩, 3, none, st [.seq 0] [(SEQ_LOAD_STAT.STATE 0, 3)] fun d => d.modCl 0 fun c => { c with load := some ⟨false, false, 0, 0, 0, some 0, 0, [], false⟩ }, by decide⟩

theorem witness_ControlStoreLoadCompletes_6 : ∃ (k : Clu) (l : Load) (s : State),
    ((s.cl k).load = some l ∧ s.get (SEQ_LOAD_STAT.STATE k) = 4 ∧ s.get (CL_STATE.MCHK k) = 0 ∧ s.again = [] ∧ s.clFailed k = false) :=
  ⟨0, ⟨false, false, 0, 0, 0, some 0, 0, [], false⟩, st [.seq 0] [(SEQ_LOAD_STAT.STATE 0, 4)] fun d => d.modCl 0 fun c => { c with load := some ⟨false, false, 0, 0, 0, some 0, 0, [], false⟩ }, by decide⟩

theorem witness_ControlStoreLoadCompletes_7 : ∃ (ss : Sess) (k : Clu) (val : Word) (s : State),
    (s.lets ss (.seq k) 0x100 .owner true = true ∧ wbit val 10 = true) ∧
    (s.get (CL_STATE.MCHK k) = 1 ∧ (s.get (SEQ_MCHK_INFO.CAUSE k) = 1 ∨ s.get (SEQ_MCHK_INFO.CAUSE k) = 2)) ∧
    (s.get (CL_STATE.FIFO_ERR k) = 0 ∧ s.get TB_STAT.PLL_LOCK = 1) :=
  ⟨0, 0, 0x400, st [.seq 0] [(CL_STATE.MCHK 0, 1), (SEQ_MCHK_INFO.CAUSE 0, 1), (TB_STAT.PLL_LOCK, 1)], by decide⟩

theorem witness_MeasurementRequestsComplete_1 : ∃ (L : Lch) (iw : BitVec 128) (s : State),
    (s.stands L iw 0x0B none = true ∧ ((s.cl (L / 64)).queue.filter fun x => x.queue == L.val % 64).length < 32) :=
  ⟨0, 0x2C400000000000000000000000000000, prog 4, by decide⟩

theorem witness_MeasurementRequestsComplete_2 : ∃ (ss : Sess) (k : Clu) (n : Fin 32) (reg : SlotReg) (val : DWord) (s : State),
    (s.lets ss (poolPage k) (slotOff reg n) .any false = true ∧ s.slotOwner k n ss = true) ∧
    (reg = .cfg → s.slotCfgOk k n ss (val.setWidth 32) = true) :=
  ⟨0, 0, 1, .tmo, 5, tm 0 {} fun d => (d.setOwn 0 258 true ⟨some 0, 2, false⟩).setOwn 0 259 true ⟨some 0, 2, false⟩, by decide⟩

theorem witness_MeasurementRequestsComplete_3 : ∃ (k : Clu) (n : Nat) (r : Req) (s : State),
    (r ∈ (s.cl k).queue ∧ r.id = n ∧ r.eligible = none ∧ r.ts / 4096 ≤ s.epoch + 64) :=
  ⟨0, 1, rq, tm 0 {} fun d => d.modCl 0 fun c => { c with queue := [rq] }, by decide⟩

theorem witness_MeasurementRequestsComplete_4 : ∃ (k : Clu) (r : Req) (q u : Nat) (rest : List Nat) (s : State),
    (s.quiesced (poolPage k) = false ∧ s.powered k = true ∧ (s.cl k).arbCyc ≠ some s.cycle ∧ s.bgOn k = false) ∧
    (s.readyPos k = q :: rest ∧ s.posTmu k q = some u ∧ s.unmet k < (s.idlePos k).length) ∧
    ((s.cl k).queue = [r] ∧ r.src = .measure ∧ r.eligible.isSome = true ∧ r.lane < 64) :=
  ⟨0, { rq with eligible := some 0 }, 0, 0, [], tm 0 {} fun d => d.modCl 0 fun c => { c with queue := [{ rq with eligible := some 0 }] }, by decide⟩

theorem witness_MeasurementsComplete_1 : ∃ (k : Clu) (u : TmuId) (a : Nat) (up : Bool) (r : Req) (S : Nat) (s : State),
    (s.tmuState k u = 1 ∧ (s.tmu k u).req = some r ∧ r.src = .measure ∧ r.start = .timed S ∧ S < tq (s.epoch + 1) ∧ (s.tmu k u).unrouted = false) :=
  ⟨0, 0, 0, false, rq, 0, tm 1 { req := some rq }, by decide⟩

theorem witness_MeasurementsComplete_2 : ∃ (k : Clu) (u : TmuId) (a : Nat) (up : Bool) (r : Req) (pol : Nat) (s : State),
    (s.tmuState k u = 1 ∧ (s.tmu k u).req = some r ∧ r.src = .measure ∧ r.start = .edge pol) ∧
    (a < tq (s.epoch + 1) ∧ (s.tmu k u).sees r ≤ a ∧ cyc a ≤ cyc (r.ts + tq r.timeout) ∧ (s.tmu k u).startT = none) ∧
    ((s.tmu k u).route.isSome = true ∧ (s.tmu k u).unrouted = false ∧ s.polOk k r.lane pol up = true) :=
  ⟨0, 0, 32768, true, rq (.edge 1), 1, tm 1 { req := some (rq (.edge 1)), route := some 0 } fun d => { d with epoch := 8 }, by decide⟩

theorem witness_MeasurementsComplete_3 : ∃ (k : Clu) (u : TmuId) (a : Nat) (up : Bool) (L : Lch) (r : Req) (S pol : Nat) (s : State),
    (s.tmuState k u = 2 ∧ (s.tmu k u).req = some r ∧ r.src = .measure ∧ (s.tmu k u).startT = some S ∧ r.stop = .edge pol) ∧
    (a < tq (s.epoch + 1) ∧ (s.tmu k u).sees r ≤ a ∧ S + 2048 ≤ a ∧ cyc a ≤ cyc (S + tq r.timeout)) ∧
    ((s.tmu k u).stopT.all (fun p => decide (p < a)) = true ∧ r.stopN ≤ (s.tmu k u).stops) ∧
    ((s.tmu k u).stopRoute.isSome = true ∧ s.polOk k r.stopLane pol up = true ∧ 64 * k.val + r.stopLane = L.val) :=
  ⟨0, 0, 40960, true, 0, rq (.timed 0) (.edge 1), 0, 1, tm 2 { req := some (rq (.timed 0) (.edge 1)), startT := some 0, stopRoute := some 0 } fun d => { d with epoch := 10 }, by decide⟩

theorem witness_MeasurementsComplete_4 : ∃ (k : Clu) (u : TmuId) (r : Req) (S : Nat) (s : State),
    (s.tmuState k u = 2 ∧ (s.tmu k u).req = some r ∧ r.src = .measure ∧ (s.tmu k u).startT = some S) ∧
    (S + tq r.timeout + tq 48 < tq (s.epoch + 1)) :=
  ⟨0, 0, rq, 0, tm 2 { req := some rq, startT := some 0 } fun d => { d with epoch := 148 }, by decide⟩

theorem witness_MeasurementsComplete_5 : ∃ (k : Clu) (u : TmuId) (c0 c1 : Codes) (r : Req) (v : Conv) (s : State),
    (s.tmuState k u = 3 ∧ (s.tmu k u).req = some r ∧ r.src = .measure ∧ (s.tmu k u).endT0 + 128 ≤ s.epoch) ∧
    (s.convert k u r (s.tmu k u) c0 c1 = v ∧ v.bad0 = false ∧ v.bad1 = false) :=
  ⟨0, 0, ⟨0, 0, 0, 0⟩, ⟨0, 0, 0, 0⟩, rq, ⟨10, 0xC0, 0, false, false⟩, tm 3 { req := some rq, startT := some 0, stopT := some 10, stops := 1 } fun d => { d with epoch := 128 }, by decide⟩

theorem witness_TmuServiceAndCreditsComplete_1 : ∃ (k : Clu) (u : TmuId) (i : Fin 2) (r1 r2 : BitVec 12) (s : State),
    (s.tmuState k u = 1) :=
  ⟨0, 0, 1, 1850, 3600, tm 1, by decide⟩

theorem witness_TmuServiceAndCreditsComplete_2 : ∃ (k : Clu) (u : TmuId) (i0 i1 : BitVec 10) (s : State),
    (s.tmuState k u = 5 ∧ s.cycle ≤ (s.tmu k u).rampT0 / 4 + 2 * rampMaxT0 / 4) :=
  ⟨0, 0, 3, 4, tm 5, by decide⟩

theorem witness_TmuServiceAndCreditsComplete_3 : ∃ (k : Clu) (u : TmuId) (s : State),
    (s.tmuState k u = 5 ∧ s.get (TMU_STAT.ROLE k u) ≠ 3 ∧ (s.tmu k u).rampT0 + rampMaxT0 ≤ s.up) :=
  ⟨0, 0, tm 5 {} fun d => { d with up := 640000 }, by decide⟩

theorem witness_TmuServiceAndCreditsComplete_4 : ∃ (k : Clu) (q : Fin 32) (u : Nat) (rest : List Nat) (s : State),
    (s.posTmu k q = none ∧ s.tmuSpares k = u :: rest) :=
  ⟨0, 1, 1, [], tm 0 {} fun d => ((d.set (TMU_POOL_MAP.VALID 0 1) 0).set (TMU_STAT.ROLE 0 1) 0).set (TMU_STAT.STATE 0 1) 0, by decide⟩

theorem witness_TmuServiceAndCreditsComplete_5 : ∃ (k : Clu) (u : TmuId) (r : Req) (body : BitVec 128) (x : Ring) (s : State),
    (s.tmuState k u = 4 ∧ (s.tmu k u).req = some r ∧ r.src = .measure ∧ (s.tmu k u).record = some body) ∧
    (s.ring r.ring = some x ∧ s.ringBad r.ring r.session = false ∧ s.ringRoom k r.ring = true ∧ (s.cl k).waitRec = []) ∧
    (s.cycle ≤ s.creditCycle k (s.tmu k u).creditT0 ∧ s.creditBehind k u r (s.tmu k u).creditT0 = false) :=
  ⟨0, 0, rq, 5, rg, tm 4 { req := some rq, record := some 5 }, by decide⟩

theorem witness_TmuServiceAndCreditsComplete_6 : ∃ (k : Clu) (u : TmuId) (r : Req) (body : BitVec 128) (x : Ring) (s : State),
    (s.tmuState k u = 4 ∧ (s.tmu k u).req = some r ∧ r.src = .measure ∧ (s.tmu k u).record = some body) ∧
    (s.ring r.ring = some x ∧ s.ringBad r.ring r.session = false ∧ s.ringRoom k r.ring = false ∧ (s.cl k).waitRec = []) ∧
    (s.creditCycle k (s.tmu k u).creditT0 < s.cycle) :=
  ⟨0, 0, rq, 5, { rg with head := 256 }, tm 4 { req := some rq, record := some 5 } fun d => { d.setRing 0 (some { rg with head := 256 }) with up := 1000000 }, by decide⟩

theorem witness_TmuServiceAndCreditsComplete_7 : ∃ (ss : Sess) (k : Clu) (val : Word) (n : Nat) (x : Ring) (s : State),
    (s.lets ss (poolPage k) 0x110 (whoOf (poolPage k) 0x110) true = true ∧ wbit val 31 = true) ∧
    (s.get (TMU_INJ_RING.RING ss k) = n ∧ s.ring n = some x ∧ s.ringBad n ss = false ∧ s.ringRoom k n = true) ∧
    ((s.cl k).waitRec = [] ∧ s.creditWanted n = false) :=
  ⟨0, 0, 0x80000000, 0, rg, tm 0, by decide⟩

theorem witness_EstimatorCompletes_1 : ∃ (ss : Sess) (k : Clu) (val : Word) (s : State),
    (s.lets ss (freqPage k) 0x100 .owner false = true ∧ wfield val 11 3 ≠ 7 ∧ wfield val 9 2 ≠ 3) :=
  ⟨0, 0, 1, st [.freq 0], by decide⟩

theorem witness_EstimatorCompletes_2 : ∃ (ss : Sess) (k : Clu) (val : Word) (s : State),
    (s.lets ss (freqPage k) 0x120 (whoOf (freqPage k) 0x120) true = true ∧ s.holdsStarts = false) ∧
    (wbit val 0 = true ∧ wbit val 1 = false ∧ wbit val 2 = false ∧ (s.fq k).stopCyc ≠ some s.cycle) ∧
    (s.freqGoBad ss k = false ∧ s.get (FREQ_CFG.START_MODE k) = 0) :=
  ⟨0, 0, 1, st [.freq 0], by decide⟩

theorem witness_EstimatorCompletes_3 : ∃ (ss : Sess) (k : Clu) (val : Word) (s : State),
    (s.lets ss (freqPage k) 0x120 (whoOf (freqPage k) 0x120) true = true ∧ s.holdsStarts = false) ∧
    (wbit val 0 = true ∧ wbit val 1 = false ∧ wbit val 2 = false ∧ (s.fq k).stopCyc ≠ some s.cycle) ∧
    (s.freqGoBad ss k = false ∧ s.get (FREQ_CFG.START_MODE k) = 1) :=
  ⟨0, 0, 1, st [.freq 0] [(FREQ_CFG.START_MODE 0, 1)] fun d => (d.setOwn 0 256 true ⟨some 0, 2, false⟩).setOwn 0 257 true ⟨some 0, 2, false⟩, by decide⟩

theorem witness_EstimatorCompletes_4 : ∃ (ss : Sess) (k : Clu) (val : Word) (s : State),
    (s.lets ss (freqPage k) 0x120 (whoOf (freqPage k) 0x120) true = true ∧ s.holdsStarts = false) ∧
    (wbit val 1 = true ∧ wbit val 2 = false ∧ s.freqState k = 1) :=
  ⟨0, 0, 2, st [.freq 0] [(FREQ_STAT.STATE 0, 1)], by decide⟩

theorem witness_EstimatorCompletes_5 : ∃ (ss : Sess) (k : Clu) (val : Word) (g : FreqGate) (s : State),
    (s.lets ss (freqPage k) 0x120 (whoOf (freqPage k) 0x120) true = true ∧ s.holdsStarts = false) ∧
    (wbit val 2 = true ∧ s.freqState k = 2 ∧ (s.fq k).gate = some g) :=
  ⟨0, 0, 4, { g0 := 0 }, st [.freq 0] [(FREQ_STAT.STATE 0, 2)] fun d => d.setFq 0 { gate := some { g0 := 0 } }, by decide⟩

theorem witness_EstimatorCompletes_6 : ∃ (L : Lch) (arrival : Nat) (level : Bool) (s : State),
    ((s.lane L).cmp ≠ level ∧ arrival < tq (s.epoch + 1)) :=
  ⟨0, 0, true, prog 0, by decide⟩

theorem witness_EstimatorCompletes_7 : ∃ (i : Fin 4) (arrival : Nat) (level : Bool) (x : FinIn) (s : State),
    (tget (fun _ => {}) s.fins i = x ∧ x.level ≠ level ∧ arrival < tq (s.epoch + 1)) :=
  ⟨0, 0, true, {}, prog 0, by decide⟩

theorem witness_EstimatorCompletes_8 : ∃ (ss : Sess) (k : Clu) (s : State),
    (s.acts ss = true ∧ s.waits ss = false ∧ s.gated (freqPage k) = false ∧ (s.fq k).was.all (fun x => x.1 != s.cycle) = true) :=
  ⟨0, 0, st [.freq 0], by decide⟩

theorem witness_EstimatorCompletes_9 : ∃ (k : Clu) (run : FreqRun) (g : FreqGate) (s : State),
    (s.freqState k = 1 ∧ (s.fq k).run = some run ∧ (s.fq k).gate = some g ∧ g.g0 < tq (s.epoch + 1)) :=
  ⟨0, ⟨0, 3200, 3, 0, 1066, 0⟩, { g0 := 0 }, st [.freq 0] [(FREQ_STAT.STATE 0, 1)] fun d => d.setFq 0 { gate := some { g0 := 0 }, run := some ⟨0, 3200, 3, 0, 1066, 0⟩ }, by decide⟩

theorem witness_EstimatorCompletes_10 : ∃ (k : Clu) (run : FreqRun) (g : FreqGate) (s : State),
    ((s.fq k).run = some run ∧ (s.fq k).gate = some g ∧ s.stampDue run g = true ∧ (s.fq k).busy < run.maxTmu) :=
  ⟨0, ⟨0, 3200, 3, 0, 1066, 0⟩, { g0 := 0 }, st [.freq 0] [(FREQ_STAT.STATE 0, 2)] fun d => d.setFq 0 { gate := some { g0 := 0 }, run := some ⟨0, 3200, 3, 0, 1066, 0⟩ }, by decide⟩

theorem witness_EstimatorCompletes_11 : ∃ (k : Clu) (run : FreqRun) (g : FreqGate) (s : State),
    (s.freqState k = 2 ∧ (s.fq k).run = some run ∧ (s.fq k).gate = some g ∧ run.close g < tq (s.epoch + 1) ∧ run.cont = false) :=
  ⟨0, ⟨0, 3200, 3, 0, 1066, 0⟩, { g0 := 0 }, st [.freq 0] [(FREQ_STAT.STATE 0, 2)] fun d => { d.setFq 0 { gate := some { g0 := 0 }, run := some ⟨0, 3200, 3, 0, 1066, 0⟩ } with epoch := 3200 }, by decide⟩

theorem witness_EstimatorCompletes_12 : ∃ (k : Clu) (run : FreqRun) (g : FreqGate) (s : State),
    ((s.fq k).run = some run ∧ (s.fq k).closed = [g] ∧ (s.fq k).gate = none ∧ g.postT0 ≤ s.epoch) :=
  ⟨0, ⟨0, 3200, 3, 0, 1066, 0⟩, { g0 := 0 }, st [.freq 0] [(FREQ_STAT.STATE 0, 3)] fun d => d.setFq 0 { closed := [{ g0 := 0 }], run := some ⟨0, 3200, 3, 0, 1066, 0⟩ }, by decide⟩

theorem witness_EstimatorCompletes_13 : ∃ (k : Clu) (run : FreqRun) (g : FreqGate) (v : FreqResult) (s : State),
    ((s.fq k).run = some run ∧ (s.fq k).closed = [g] ∧ (s.fq k).gate = none ∧ g.postT0 ≤ s.epoch) ∧
    (g.err (keptStamps g.stamps).length = 0
          ∧ freqRegress (keptStamps g.stamps).length run.k2 (freqSums (keptStamps g.stamps)) = some v) :=
  ⟨0, ⟨0, 3200, 3, 0, 1066, 0⟩, { g0 := 0, stamps := [⟨0, 1, 8192⟩, ⟨1, 2, 16384⟩, ⟨2, 3, 24576⟩] }, ((freqRegress 3 2 (freqSums [⟨0, 1, 8192⟩, ⟨1, 2, 16384⟩, ⟨2, 3, 24576⟩])).getD ⟨0, 0, 0, 0⟩), st [.freq 0] [(FREQ_STAT.STATE 0, 3)] fun d => d.setFq 0 { closed := [{ g0 := 0, stamps := [⟨0, 1, 8192⟩, ⟨1, 2, 16384⟩, ⟨2, 3, 24576⟩] }], run := some ⟨0, 3200, 3, 0, 1066, 0⟩ }, by decide⟩

end Sys2Proof.Tests
end

