-- ==== Sys2Proof/Tests/WitnessesC.lean ====
section
/-! SUPPORT. For each clause of the statements with hypotheses, a state and operands that meet all of them: Armature, Caliper, the Pointing Engine and self-test. -/

set_option linter.unusedVariables false
set_option maxRecDepth 4000

open Sys2Proof Sys2Proof.Machine

namespace Sys2Proof.Tests

theorem witness_EventsComplete_1 : ∃ (ss : Sess) (k : Clu) (val : Word) (i : Fin 16) (s : State),
    (s.lets ss (armPage k) 0x100 .any true = true ∧ s.holdsStarts = false ∧ s.powered k = true) ∧
    (s.armFireBad ss k val = none ∧ wbit val i = true ∧ (s.rowOwn k (224 + i)).owner = some ss.val) :=
  ⟨0, 0, 4, 2, st [.arm 0] [] fun d => d.setOwn 0 226 false ⟨some 0, 2, false⟩, by decide⟩

theorem witness_EventsComplete_2 : ∃ (k : Clu) (x : Staged) (c : Nat) (s : State),
    (s.powered k = true ∧ (s.cl k).stage = [x] ∧ (s.cl k).events = [] ∧ x.at_ = s.ecyc ∧ s.colsOf k x.src x.at_ = [c] ∧ c < 256) :=
  ⟨0, ⟨1, 5, false, 0, 0⟩, 4, st [.arm 0] [] fun d => d.modCl 0 fun c => { c with stage := [⟨1, 5, false, 0, 0⟩], mx := [(32, 2)] }, by decide⟩

theorem witness_EventsComplete_3 : ∃ (k : Clu) (n : Fin 32) (e : Event) (s : State),
    (s.powered k = true ∧ (s.cl k).stage = [] ∧ (s.cl k).events = [e] ∧ e.arrive ≤ s.ecyc ∧ e.col = 256 + 2 * n.val) ∧
    (s.slotBorrowed k n = false ∧ s.get (TMU_SLOT_CFG.ENABLE k n) = 1 ∧ s.slotBusy k n = false ∧ s.holdsStarts = false) ∧
    (((s.cl k).queue.filter fun r => r.queue == s.get (TMU_SLOT_CFG.START_LANE k n)).length < 32) :=
  ⟨0, 1, ⟨258, 5, false, 0, 0⟩, st [.pool 0] [(TMU_SLOT_CFG.ENABLE 0 1, 1)] fun d => d.modCl 0 fun c => { c with events := [⟨258, 5, false, 0, 0⟩] }, by decide⟩

theorem witness_EventsComplete_4 : ∃ (k : Clu) (i : Fin 32) (x : Staged) (s : State),
    (s.gStage = [x] ∧ x.at_ ≤ s.ecyc ∧ s.gcolsOf x.src x.at_ = [] ∧ s.ginsAt x.src x.at_ = [(k.val, i.val)]) ∧
    ((s.rowOwn k (192 + i)).owner.isSome = true ∧ s.powered k = true) :=
  ⟨0, 1, ⟨5, 7, true, 0, 0⟩, st [.arm 0] [(ARM_GIN.VALID 0 1, 1), (ARM_GIN.LINE 0 1, 5)] fun d => { d.setOwn 0 193 false ⟨some 0, 2, false⟩ with gStage := [⟨5, 7, true, 0, 0⟩] }, by decide⟩

theorem witness_EventsComplete_5 : ∃ (k : Clu) (c : Fin 384) (w : Fin 8) (o : Nat) (s : State),
    (s.powered k = true ∧ (s.cl k).stage = [] ∧ (s.cl k).events = [] ∧ (s.cl k).badWords.contains (8 * c.val + w.val) = false) ∧
    ((s.colOwn k c).owner = some o) :=
  ⟨0, 300, 1, 0, st [.arm 0] [] fun d => d.setOwn 0 300 true ⟨some 0, 2, false⟩, by decide⟩

theorem witness_MatrixWritesComplete_1 : ∃ (ss : Sess) (k : Clu) (c : Fin 384) (w : Fin 8) (val : Word) (s : State),
    (s.acts ss = true ∧ s.waits ss = false ∧ s.powered k = true ∧ val ≠ s.mxRaw k c w ∧ s.mxErr ss k c w val = none ∧ val &&& ~~~ (s.mxRaw k c w) = 0) :=
  ⟨0, 0, 300, 0, 0, st [.arm 0] [] fun d => (d.setOwn 0 300 true ⟨some 0, 2, false⟩).modCl 0 fun c => { c with mx := [(2400, 1)] }, by decide⟩

theorem witness_MatrixWritesComplete_2 : ∃ (ss : Sess) (k : Clu) (c : Fin 384) (w : Fin 8) (val : Word) (s : State),
    (s.acts ss = true ∧ s.waits ss = false ∧ s.powered k = true ∧ s.mxErr ss k c w val = none ∧ val &&& ~~~ (s.mxRaw k c w) ≠ 0) :=
  ⟨0, 0, 300, 0, 1, st [.arm 0] [] fun d => (d.setOwn 0 300 true ⟨some 0, 2, false⟩).modLane 0 fun l => { l with holder := some 0 }, by decide⟩

theorem witness_MatrixWritesComplete_3 : ∃ (ss : Sess) (c : Fin 128) (w : Fin 2) (val : Word) (s : State),
    (s.lets ss glPage (0x400 + 8 * c + 4 * w) .any false = true ∧ val ≠ tget (fun _ => 0) s.gmx (2 * c + w)) ∧
    ((s.gcolOwn c).owner = some ss.val) ∧
    (((bitsOf w (val &&& ~~~ (tget (fun _ => 0) s.gmx (2 * c + w)))).any fun L => (s.line L).lg.isSome || !readable (s.line L).own (s.gcolOwn c)) = false) :=
  ⟨0, 3, 1, 2, st [glPage] [] fun d => (d.modLg 3 fun x => { x with owner := some 0 }).modLine 33 fun x => { x with own := ⟨some 0, 2, false⟩ }, by decide⟩

theorem witness_MatrixWritesComplete_4 : ∃ (ss : Sess) (k : Clu) (i : Fin 32) (val : Word) (s : State),
    (s.lets ss (armPage k) (0x180 + 4 * i) .any false = true ∧ s.ginErr ss k i val = 0 ∧ wbit val 6 = false) :=
  ⟨0, 0, 1, 0, st [.arm 0] [] fun d => d.setOwn 0 193 false ⟨some 0, 2, false⟩, by decide⟩

theorem witness_MatrixWritesComplete_5 : ∃ (ss : Sess) (k : Clu) (i : Fin 32) (val : Word) (s : State),
    (s.lets ss (armPage k) (0x180 + 4 * i) .any false = true ∧ s.ginErr ss k i val = 0 ∧ wbit val 6 = true) ∧
    (val &&& 0x7F ≠ s.reg (ARM_GIN k i)) :=
  ⟨0, 0, 1, 0x45, st [.arm 0] [] fun d => (d.setOwn 0 193 false ⟨some 0, 2, false⟩).modLine 5 fun x => { x with own := ⟨some 0, 2, false⟩ }, by decide⟩

theorem witness_MatrixWritesComplete_6 : ∃ (ss : Sess) (L : Lch) (n : Fin 4) (reg : TrigReg) (val : DWord) (s : State),
    (s.lets ss (lanePage L) (trigOff n reg) .owner false = true) :=
  ⟨0, 0, 1, .delay, 0x100000, prog 0, by decide⟩

theorem witness_MatrixWritesComplete_7 : ∃ (ss : Sess) (k : Clu) (c : Fin 384) (w : Fin 8) (val : Word) (rest : List LoopReq) (s : State),
    (s.loopQ = .matrix ss k c w val :: rest ∧ s.stalled = [] ∧ s.mxErr ss k c w val = none) ∧
    (({ s.toDev with loopQ := rest }.mxStore k c w val).loops (s.mxArcs k c w val) = false) :=
  ⟨0, 0, 300, 0, 0, [], st [.arm 0] [] fun d => { d.setOwn 0 300 true ⟨some 0, 2, false⟩ with loopQ := [.matrix 0 0 300 0 0] }, by decide⟩

theorem witness_MatrixWritesComplete_8 : ∃ (ss : Sess) (k : Clu) (c : Fin 384) (w : Fin 8) (val : Word) (rest : List LoopReq) (s : State),
    (s.loopQ = .matrix ss k c w val :: rest ∧ s.stalled = [] ∧ s.mxErr ss k c w val = none) ∧
    (({ s.toDev with loopQ := rest }.mxStore k c w val).loops (s.mxArcs k c w val) = true) :=
  ⟨0, 0, 0, 0, 2, [], st [.arm 0, .ch 0 0] [(LANE_TRIG_CFG.EG_MASK 0 0, 16)] fun d => { d.modLane 0 (fun l => { l with holder := some 0 }) with loopQ := [.matrix 0 0 0 0 2] }, by decide⟩

theorem witness_ArmatureOwnershipCompletes_1 : ∃ (ss : Sess) (k : Clu) (r : Nat) (s : State),
    (s.lets ss (armPage k) 0x10C .any true = true ∧ s.get (ARM_OWN_SEL.INDEX ss k) = r ∧ s.get (ARM_OWN_SEL.COLUMN ss k) = 0) ∧
    (128 ≤ r ∧ r < 243 ∧ (s.rowOwn k r).owner = none) :=
  ⟨0, 0, 224, st [.arm 0] [(ARM_OWN_SEL.INDEX 0 0, 224)], by decide⟩

theorem witness_ArmatureOwnershipCompletes_2 : ∃ (ss : Sess) (k : Clu) (c : Nat) (s : State),
    (s.lets ss (armPage k) 0x10C .any true = true ∧ s.get (ARM_OWN_SEL.INDEX ss k) = c ∧ s.get (ARM_OWN_SEL.COLUMN ss k) = 1) ∧
    (256 ≤ c ∧ c < 384 ∧ (s.colOwn k c).owner = none) :=
  ⟨0, 0, 300, st [.arm 0] [(ARM_OWN_SEL.INDEX 0 0, 300), (ARM_OWN_SEL.COLUMN 0 0, 1)], by decide⟩

theorem witness_ArmatureOwnershipCompletes_3 : ∃ (ss : Sess) (k : Clu) (r : Nat) (s : State),
    (s.lets ss (armPage k) 0x10C .any true = true ∧ s.get (ARM_OWN_SEL.INDEX ss k) = r ∧ s.get (ARM_OWN_SEL.COLUMN ss k) = 0) ∧
    (128 ≤ r ∧ r < 243 ∧ (s.rowOwn k r).owner = some ss.val) :=
  ⟨0, 0, 224, st [.arm 0] [(ARM_OWN_SEL.INDEX 0 0, 224)] fun d => d.setOwn 0 224 false ⟨some 0, 2, false⟩, by decide⟩

theorem witness_ArmatureOwnershipCompletes_4 : ∃ (ss : Sess) (k : Clu) (r : Nat) (s : State),
    (s.lets ss (armPage k) 0x10C .any true = true ∧ s.get (ARM_OWN_SEL.INDEX ss k) = r ∧ s.get (ARM_OWN_SEL.COLUMN ss k) = 0) ∧
    (r < 243 ∧ (s.rowOwn k r).owner = some ss.val) :=
  ⟨0, 0, 224, st [.arm 0] [(ARM_OWN_SEL.INDEX 0 0, 224)] fun d => d.setOwn 0 224 false ⟨some 0, 2, false⟩, by decide⟩

theorem witness_ArmatureOwnershipCompletes_5 : ∃ (ss : Sess) (k : Clu) (r : Nat) (s : State),
    (s.lets ss (armPage k) 0x10C .any true = true ∧ s.get (ARM_OWN_SEL.INDEX ss k) = r ∧ s.get (ARM_OWN_SEL.COLUMN ss k) = 0) ∧
    (r < 243 ∧ (s.rowOwn k r).owner = some ss.val) :=
  ⟨0, 0, 224, st [.arm 0] [(ARM_OWN_SEL.INDEX 0 0, 224)] fun d => d.setOwn 0 224 false ⟨some 0, 2, true⟩, by decide⟩

theorem witness_ArmatureOwnershipCompletes_6 : ∃ (ss : Sess) (L : Nat) (s : State),
    (s.lets ss glPage 0x104 .any true = true ∧ s.get (GL_SEL.LINE ss) = L ∧ (s.line L).lg = none ∧ (s.line L).own.owner = none) :=
  ⟨0, 5, st [glPage] [(GL_SEL.LINE 0, 5)], by decide⟩

theorem witness_ArmatureOwnershipCompletes_7 : ∃ (ss : Sess) (L : Nat) (s : State),
    (s.lets ss glPage 0x104 .any true = true ∧ s.get (GL_SEL.LINE ss) = L ∧ (s.line L).lg = none ∧ (s.line L).own.owner = some ss.val) :=
  ⟨0, 5, st [glPage] [(GL_SEL.LINE 0, 5)] fun d => d.modLine 5 fun x => { x with own := ⟨some 0, 2, false⟩ }, by decide⟩

theorem witness_ArmatureOwnershipCompletes_8 : ∃ (ss : Sess) (L : Nat) (s : State),
    (s.lets ss glPage 0x104 .any true = true ∧ s.get (GL_SEL.LINE ss) = L ∧ (s.line L).lg = none ∧ (s.line L).own.owner = some ss.val) :=
  ⟨0, 5, st [glPage] [(GL_SEL.LINE 0, 5)] fun d => d.modLine 5 fun x => { x with own := ⟨some 0, 2, false⟩ }, by decide⟩

theorem witness_ArmatureOwnershipCompletes_9 : ∃ (ss : Sess) (L : Nat) (s : State),
    (s.lets ss glPage 0x104 .any true = true ∧ s.get (GL_SEL.LINE ss) = L ∧ (s.line L).lg = none ∧ (s.line L).own.owner = some ss.val) :=
  ⟨0, 5, st [glPage] [(GL_SEL.LINE 0, 5)] fun d => d.modLine 5 fun x => { x with own := ⟨some 0, 2, true⟩ }, by decide⟩

theorem witness_ArmatureOwnershipCompletes_10 : ∃ (ss : Sess) (L : Nat) (s : State),
    (s.lets ss glPage 0x104 .any true = true ∧ s.get (GL_SEL.LINE ss) = L ∧ (s.line L).lg = none) ∧
    ((s.line L).own.owner = some ss.val ∧ s.bindErr ss L (s.get (GL_DRV.CLUSTER ss)) (s.get (GL_DRV.OUT ss)) = 0) :=
  ⟨0, 5, st [glPage] [(GL_SEL.LINE 0, 5), (GL_DRV.OUT 0, 3)] fun d => (d.setOwn 0 355 true ⟨some 0, 2, false⟩).modLine 5 fun x => { x with own := ⟨some 0, 2, false⟩ }, by decide⟩

theorem witness_ArmatureOwnershipCompletes_11 : ∃ (ss : Sess) (L : Nat) (s : State),
    (s.lets ss glPage 0x104 .any true = true ∧ s.get (GL_SEL.LINE ss) = L ∧ (s.line L).lg = none ∧ (s.line L).own.owner = some ss.val) :=
  ⟨0, 5, st [glPage] [(GL_SEL.LINE 0, 5)] fun d => d.modLine 5 fun x => { x with own := ⟨some 0, 2, false⟩, driver := some (0, 3) }, by decide⟩

theorem witness_CaliperCommandsComplete_1 : ∃ (ss : Sess) (val : Word) (s : State),
    (s.calStarts ss val 1 = true) :=
  ⟨0, 0x80000001, st [calPage, .ctl 0] [(CAL_ARG.LANES 0, 1)] fun d => d.modLane 0 fun l => { l with holder := some 0 }, by decide⟩

theorem witness_CaliperCommandsComplete_2 : ∃ (ss : Sess) (val : Word) (s : State),
    (s.calStarts ss val 2 = true) :=
  ⟨0, 0x80000002, st [calPage, .ctl 0], by decide⟩

theorem witness_CaliperCommandsComplete_3 : ∃ (ss : Sess) (val : Word) (s : State),
    (s.calStarts ss val 3 = true) :=
  ⟨0, 0x80000003, st [calPage, .ctl 0], by decide⟩

theorem witness_CaliperCommandsComplete_4 : ∃ (ss : Sess) (val : Word) (s : State),
    (s.calStarts ss val 4 = true) :=
  ⟨0, 0x80000004, st [calPage, .ctl 0] [] fun d => d.modLane 0 fun l => { l with holder := some 0 }, by decide⟩

theorem witness_CaliperCommandsComplete_5 : ∃ (ss : Sess) (val : Word) (s : State),
    (s.calStarts ss val 5 = true) :=
  ⟨0, 0x80000005, st [calPage, .ctl 0] [(CAL_ARG.LANES 0, 1)] fun d => d.modLane 0 fun l => { l with holder := some 0 }, by decide⟩

theorem witness_CaliperCommandsComplete_6 : ∃ (ss : Sess) (val : Word) (s : State),
    (s.calStarts ss val 6 = true) :=
  ⟨0, 0x80000006, st [calPage, .ctl 0], by decide⟩

theorem witness_CaliperCommandsComplete_7 : ∃ (ss : Sess) (val : Word) (s : State),
    (s.calStarts ss val 7 = true) :=
  ⟨0, 0x80000007, st [calPage], by decide⟩

theorem witness_CaliperCommandsComplete_8 : ∃ (ss : Sess) (val : Word) (s : State),
    (s.calStarts ss val 8 = true) :=
  ⟨0, 0x80000008, st [calPage], by decide⟩

theorem witness_CaliperCommandsComplete_9 : ∃ (ss : Sess) (val : Word) (c : CalCmd) (s : State),
    (s.lets ss calPage 0x120 (whoOf calPage 0x120) true = true ∧ wbit val 31 = true ∧ wfield val 0 4 = 9) ∧
    (s.cal.queue = [c] ∧ c.session = some ss.val) :=
  ⟨0, 0x80000009, ⟨6, some 0, 0, 0, false, 0⟩, st [calPage] [] fun d => { d with cal := { d.cal with queue := [⟨6, some 0, 0, 0, false, 0⟩] } }, by decide⟩

theorem witness_CaliperRunsComplete_1 : ∃ (k : Clu) (j : CalJob) (u : CalUnit) (r : CalRun) (s : State),
    (s.powered k = true ∧ s.quiesced calPage = false ∧ s.cal.queue = [] ∧ s.cal.auto = []) ∧
    (s.job k = some j ∧ j.todo = [u] ∧ j.cmd.op = 1 ∧ u.tmu = false ∧ u.part < 6 ∧ u.unit < 68) ∧
    (s.run k = some r ∧ r.unit = u ∧ r.tmus.length = 4 ∧ r.started = false ∧ r.stepAbort = false) ∧
    (r.taken = false ∧ s.get (CL_STATE.MCHK k) = 0 ∧ s.again = []) ∧
    (s.get (CH_PHYS_STAT.ROLE k u.unit) = 0 ∧ s.get (CH_PHYS_STAT.BIST_ACTIVE k u.unit) = 0) :=
  ⟨0, ⟨⟨1, some 0, 0, 1, false, 0⟩, [⟨0, false, 0, 0, 0⟩], 0⟩, ⟨0, false, 0, 0, 0⟩, { unit := ⟨0, false, 0, 0, 0⟩, tmus := [1, 2, 3, 4] }, st [calPage, .ctl 0] [] fun d => { d with cal := { d.cal with jobs := [(0, ⟨⟨1, some 0, 0, 1, false, 0⟩, [⟨0, false, 0, 0, 0⟩], 0⟩)], runs := [(0, { unit := ⟨0, false, 0, 0, 0⟩, tmus := [1, 2, 3, 4] })] } }, by decide⟩

theorem witness_CaliperRunsComplete_2 : ∃ (k : Clu) (j : CalJob) (r : CalRun) (t0 : Nat) (ss : Sess) (s : State),
    (s.run k = some r ∧ s.job k = some j ∧ j.todo = [r.unit] ∧ j.cmd.session = some ss.val ∧ s.cal.queue = [] ∧ s.cal.auto = []) ∧
    (r.waitT0 = some t0 ∧ r.started = false ∧ t0 + secT0 ≤ s.up ∧ r.unit.tmu = false) :=
  ⟨0, ⟨⟨1, some 0, 0, 1, false, 0⟩, [⟨0, false, 0, 0, 0⟩], 0⟩, { unit := ⟨0, false, 0, 0, 0⟩, waitT0 := some 0 }, 0, 0, st [calPage, .ctl 0] [] fun d => { d with up := secT0, cal := { d.cal with jobs := [(0, ⟨⟨1, some 0, 0, 1, false, 0⟩, [⟨0, false, 0, 0, 0⟩], 0⟩)], runs := [(0, { unit := ⟨0, false, 0, 0, 0⟩, waitT0 := some 0 })] } }, by decide⟩

theorem witness_CaliperRunsComplete_3 : ∃ (k : Clu) (j : CalJob) (r : CalRun) (res : PassResult) (x : PassTables) (s : State),
    (s.run k = some r ∧ s.job k = some j ∧ j.cmd.op ≠ 4 ∧ s.again = []) ∧
    (r.started = true ∧ r.stepAbort = false ∧ r.passA = none ∧ s.passEnd k r res = .tables x) ∧
    (s.passMoved k r = false ∧ r.off = false ∧ s.disturbs k = false) :=
  ⟨0, ⟨⟨5, some 0, 0, 1, false, 0⟩, [⟨0, false, 0, 6, 0⟩], 0⟩, { unit := ⟨0, false, 0, 6, 0⟩, started := true }, .path ⟨20, 20, []⟩, .table [padOut 0 20, padOut 0 20, 20 - padOut 0 20] [], st [calPage, .ctl 0] [] fun d => { d with cal := { d.cal with jobs := [(0, ⟨⟨5, some 0, 0, 1, false, 0⟩, [⟨0, false, 0, 6, 0⟩], 0⟩)], runs := [(0, { unit := ⟨0, false, 0, 6, 0⟩, started := true })] } }, by decide, ⟨by decide, by decide, by decide, rfl⟩, by decide⟩

theorem witness_CaliperRunsComplete_4 : ∃ (k : Clu) (j : CalJob) (r : CalRun) (res : PassResult) (a b v : List Int) (ss : Sess) (s : State),
    (s.run k = some r ∧ s.job k = some j ∧ j.todo = [r.unit] ∧ j.cmd.session = some ss.val ∧ j.cmd.op ≠ 4) ∧
    (s.cal.queue = [] ∧ s.cal.auto = [] ∧ s.again = []) ∧
    (r.started = true ∧ r.stepAbort = false ∧ r.passA = some (.table a []) ∧ s.passEnd k r res = .tables (.table b [])) ∧
    (s.passMoved k r = false ∧ r.off = false ∧ s.disturbs k = false) ∧
    (r.unit.tmu = false ∧ r.unit.part = 6 ∧ tableVerdict 4 pathBounds a b = (0, v)) :=
  ⟨0, ⟨⟨5, some 0, 0, 1, false, 0⟩, [⟨0, false, 0, 6, 0⟩], 0⟩, { unit := ⟨0, false, 0, 6, 0⟩, started := true, passA := some (.table [0, 0, 0] []) }, .path ⟨0, 0, []⟩, [0, 0, 0], [0, 0, 0], [0, 0, 0], 0, st [calPage, .ctl 0] [] fun d => { d with cal := { d.cal with jobs := [(0, ⟨⟨5, some 0, 0, 1, false, 0⟩, [⟨0, false, 0, 6, 0⟩], 0⟩)], runs := [(0, { unit := ⟨0, false, 0, 6, 0⟩, started := true, passA := some (.table [0, 0, 0] []) })] } }, by decide, by decide, ⟨by decide, by decide, by decide, pathPass_zero _ _⟩, by decide, by decide⟩

theorem witness_CaliperRunsComplete_5 : ∃ (k : Clu) (a b residual : Int) (s : State),
    (s.powered k = true ∧ s.disturbs k = false ∧ s.job k = none ∧ s.again = []) ∧
    (s.get (CL_STATE.TREE_ALIGNED k) = 0 ∧ (a - b).natAbs ≤ 4 ∧ 0 ≤ a ∧ 0 ≤ b) :=
  ⟨0, 5, 8, 0, st [tbPage, .ctl 0], by decide⟩

theorem witness_CaliperRunsComplete_6 : ∃ (k : Clu) (u : TmuId) (x : CdPass) (s : State),
    ((s.inBurst k).contains u.val = true ∧ hits x.hist0 = 0x10000 ∧ hits x.hist1 = 0x10000 ∧ s.bgOn k = true) ∧
    (tget (fun _ => ({} : BgAcc)) s.cal.bg (34 * k + u) = {}) :=
  ⟨0, 0, ⟨[0x10000], [0x10000], 0, 0, 0, 0⟩, st [calPage, .ctl 0] [(CAL_CTRL.BG_MODE, 1), (CAL_BG_CFG.SHARE, 1), (TMU_STAT.STATE 0 0, 7), (TMU_STAT.ROLE 0 0, 2), (TMU_POOL_MAP.VALID 0 0, 1)] fun d => { d.setTmu 0 0 { req := some { id := 0, src := .burst 0, session := 0, lane := 0, stopLane := 0, ts := 0, start := .event, stop := .event, stopN := 1, timeout := 0, ring := 0, ctx := 0, hop := 0 } } with options := 1 }, by decide⟩

theorem witness_CaliperTablesComplete_1 : ∃ (k : Clu) (s : State),
    (16 ≤ ((s.cl k).temp - (s.cl k).recompTemp).natAbs ∧ (s.cl k).recompT0 + msT0 ≤ s.up ∧ s.powered k = true) :=
  ⟨0, st [.ctl 0] [] fun d => { d.modCl 0 (fun c => { c with temp := 7000 }) with up := secT0 }, by decide⟩

theorem witness_CaliperTablesComplete_2 : ∃ (k : Clu) (p : Phy) (pd ach : Tbl Int) (path : Int × Int × Int) (s : State),
    ((s.ph k p).pdTo = some pd ∧ (s.ph k p).achTo = some ach ∧ (s.ph k p).pathTo = some path) ∧
    ((s.ph k p).stepT0 + 256 ≤ s.up ∧ s.drives k p = false) :=
  ⟨0, 1, [], [], (0, 0, 0), st [.ctl 0] [] fun d => { d.modPh 0 1 (fun x => { x with pdTo := some [], achTo := some [], pathTo := some (0, 0, 0) }) with up := 256 }, by decide⟩

theorem witness_CaliperTablesComplete_3 : ∃ (k : Clu) (u : TmuId) (cd path : Tbl Nat) (s : State),
    ((s.tmu k u).cdTo = some cd ∧ (s.tmu k u).pathTo = some path ∧ (s.tmu k u).stepT0 + 256 ≤ s.up ∧ s.get (TMU_STAT.ROLE k u) ≠ 1) :=
  ⟨0, 1, [], [], st [.ctl 0] [] fun d => { d.modTmu 0 1 (fun x => { x with cdTo := some [], pathTo := some [] }) with up := 256 }, by decide⟩

theorem witness_CaliperTablesComplete_4 : ∃ (x : Store) (s : State),
    (s.cal.store = some x ∧ x.restore = false ∧ x.abort = false ∧ (bankBytes x.body).length + 0x10000 ≤ 0x1000000) ∧
    (s.cal.queue = [] ∧ s.cal.auto = [] ∧ s.again = [] ∧ s.nvmMay 2 = true) :=
  ⟨⟨false, none, false, [], false, false⟩, st [calPage] [] fun d => { d with cal := { d.cal with store := some ⟨false, none, false, [], false, false⟩ } }, by decide⟩

theorem witness_PointingRequestsComplete_1 : ∃ (ss : Sess) (val : Word) (s : State),
    (s.lets ss pePage 0x140 .any true = true ∧ wbit val 31 = true ∧ (s.pe.queue.any fun r => r.session == ss) = false) :=
  ⟨0, 0x80000001, st [pePage], by decide⟩

theorem witness_PointingRequestsComplete_2 : ∃ (r : PeReq) (rest : List PeReq) (L : Lch) (p : Nat) (met : Bool) (s : State),
    (s.pe.queue = r :: rest ∧ s.again = [] ∧ r.op = 1 ∧ r.bad = false ∧ r.place.lg = none ∧ r.lanes = [L.val]) ∧
    ((s.lane L).holder = none ∧ (s.lane L).releaseT0 = none ∧ (s.lane L).freeT0 = none ∧ (s.lane L).clearT0 = none) ∧
    (s.choose L r.place.egMask r.place.cls .place = .found p met ∧ s.tmuFits L r.place.tmuMin = true) :=
  ⟨⟨0, 1, [5], 0, 0, 0, 0⟩, [], 5, 5, true, st [pePage, .ctl 0] [(CL_STATE.TREE_ALIGNED 0, 1), (CH_PHYS_STAT.EG_BAD 0 5, 0), (CH_PHYS_STAT.UNUSABLE 0 5, 0), (CH_PHYS_STAT.ROLE 0 5, 0)] fun d => { d with pe := { d.pe with queue := [⟨0, 1, [5], 0, 0, 0, 0⟩] } }, by decide⟩

theorem witness_PointingRequestsComplete_3 : ∃ (r : PeReq) (rest : List PeReq) (L : Lch) (p : Nat) (met : Bool) (s : State),
    (s.pe.queue = r :: rest ∧ s.again = [] ∧ r.op = 2 ∧ r.bad = false ∧ r.place.lg = none ∧ r.lanes = [L.val]) ∧
    ((s.lane L).holder = none ∧ (s.lane L).releaseT0 = none ∧ (s.lane L).freeT0 = none ∧ (s.lane L).clearT0 = none) ∧
    (s.choose L r.place.egMask r.place.cls .place = .found p met ∧ s.tmuFits L r.place.tmuMin = true) :=
  ⟨⟨0, 2, [5], 0, 0, 0, 0⟩, [], 5, 5, true, st [pePage, .ctl 0] [(CL_STATE.TREE_ALIGNED 0, 1), (CH_PHYS_STAT.EG_BAD 0 5, 0), (CH_PHYS_STAT.UNUSABLE 0 5, 0), (CH_PHYS_STAT.ROLE 0 5, 0)] fun d => { d with pe := { d.pe with queue := [⟨0, 2, [5], 0, 0, 0, 0⟩] } }, by decide⟩

theorem witness_PointingRequestsComplete_4 : ∃ (r : PeReq) (rest : List PeReq) (L : Lch) (x : PlanLane) (plan : Plan) (s : State),
    (s.pe.queue = r :: rest ∧ s.again = [] ∧ r.op = 3 ∧ tget (fun _ => ({} : Plan)) s.pe.plans r.session = plan) ∧
    (plan.lanes = [x] ∧ plan.void = false ∧ plan.lg = none ∧ x.lane = L ∧ x.result = 0 ∧ x.phys < 68) ∧
    (s.get PE_GEN.GEN = s.get (PE_PLAN_GEN.GEN r.session) ∧ (s.lane L).holder = none ∧ s.planFits r.session x = true) :=
  ⟨⟨0, 3, [5], 0, 0, 0, 0⟩, [], 5, ⟨5, 5, 0, 0, true⟩, { lanes := [⟨5, 5, 0, 0, true⟩] }, st [pePage, .ctl 0] [(CL_STATE.TREE_ALIGNED 0, 1), (CH_PHYS_STAT.ROLE 0 5, 0), (CH_PHYS_STAT.UNUSABLE 0 5, 0), (CH_PHYS_STAT.EG_BAD 0 5, 0)] fun d => { d with pe := { d.pe with queue := [⟨0, 3, [5], 0, 0, 0, 0⟩], plans := [(0, { lanes := [⟨5, 5, 0, 0, true⟩] })] } }, by decide⟩

theorem witness_PointingRequestsComplete_5 : ∃ (r : PeReq) (rest : List PeReq) (L : Lch) (s : State),
    (s.pe.queue = r :: rest ∧ s.again = [] ∧ r.op = 4 ∧ r.lanes = [L.val] ∧ (s.lane L).holder = some r.session ∧ (s.lane L).releaseT0 = none) :=
  ⟨⟨0, 4, [5], 0, 0, 0, 0⟩, [], 5, st [pePage] [] fun d => { d.modLane 5 (fun l => { l with holder := some 0 }) with pe := { d.pe with queue := [⟨0, 4, [5], 0, 0, 0, 0⟩] } }, by decide⟩

theorem witness_PointingRequestsComplete_6 : ∃ (r : PeReq) (rest : List PeReq) (n base : Nat) (s : State),
    (s.pe.queue = r :: rest ∧ s.again = [] ∧ r.op = 5 ∧ wfield r.hbm 0 2 = 0 ∧ wfield r.hbm 2 13 = n ∧ 0 < n ∧ s.evsUsed + n ≤ 128) ∧
    ((s.pe.allocs.any fun a => a.session == r.session && a.kind == 0) = false ∧ s.granPlace true n = some base) :=
  ⟨⟨0, 5, [], 4, 0, 0, 0⟩, [], 1, 0, st [pePage] [] fun d => { d with pe := { d.pe with queue := [⟨0, 5, [], 4, 0, 0, 0⟩] } }, by decide, by decide, granPlace_empty _ rfl⟩

theorem witness_PointingRequestsComplete_7 : ∃ (r : PeReq) (rest : List PeReq) (a : Alloc) (s : State),
    (s.pe.queue = r :: rest ∧ s.again = [] ∧ r.op = 6 ∧ (s.pe.allocs.find? fun a => a.handle == r.handle && a.session == r.session) = some a) ∧
    (s.allocBusy a = false) :=
  ⟨⟨0, 6, [], 4, 0, 1, 0⟩, [], ⟨1, 0, 2, 0, 1, 128, 0⟩, st [pePage] [] fun d => { d with pe := { d.pe with queue := [⟨0, 6, [], 4, 0, 1, 0⟩], allocs := [⟨1, 0, 2, 0, 1, 128, 0⟩] } }, by decide⟩

theorem witness_PointingRequestsComplete_8 : ∃ (r : PeReq) (rest : List PeReq) (s : State),
    (s.pe.queue = r :: rest ∧ s.again = [] ∧ (r.op = 0 ∨ 7 ≤ r.op)) :=
  ⟨⟨0, 9, [], 0, 0, 0, 0⟩, [], st [pePage] [] fun d => { d with pe := { d.pe with queue := [⟨0, 9, [], 0, 0, 0, 0⟩] } }, by decide⟩

theorem witness_ReleasesAndSwapsComplete_1 : ∃ (L : Lch) (t0 : Nat) (s : State),
    ((s.lane L).releaseT0 = some t0 ∧ t0 ≤ s.up ∧ s.run (L / 64) = none) :=
  ⟨0, 0, prog 4 fun l => { l with releaseT0 := some 0 }, by decide⟩

theorem witness_ReleasesAndSwapsComplete_2 : ∃ (L : Lch) (t0 : Nat) (s : State),
    ((s.lane L).clearT0 = some t0) :=
  ⟨0, 0, prog 0 fun l => { l with clearT0 := some 0 }, by decide⟩

theorem witness_ReleasesAndSwapsComplete_3 : ∃ (k : Clu) (w : Nat × SwapKind) (p : Nat) (met : Bool) (s : State),
    ((s.cl k).swap = none ∧ s.powered k = true ∧ s.run k = none ∧ p < 68 ∧ w.1 < 64) ∧
    ((s.swapOrder k).find? (fun w => (s.swapChoice k w).isSome) = some w ∧ s.swapChoice k w = some (p, met)) :=
  ⟨0, (5, .rotation), 64, true, st [.ctl 0] [(CL_STATE.TREE_ALIGNED 0, 1), (CH_PHYS_STAT.ROLE 0 5, 1), (CH_PHYS_STAT.ROLE 0 64, 0), (LANE_SERVED.VALID 5, 1), (LANE_SERVED.PHYS 5, 5)] fun d => (d.modLane 5 fun l => { l with holder := some 0 }).modCl 0 fun c => { c with swapQ := [(5, .rotation)] }, by decide⟩

theorem witness_ReleasesAndSwapsComplete_4 : ∃ (k : Clu) (w : Swap) (s : State),
    ((s.cl k).swap = some w ∧ w.loaded = false ∧ s.regionIn 5 k w.spare = false) :=
  ⟨0, { lane := 5, kind := .rotation, spare := 64, startT0 := 0 }, st [.ctl 0] [] fun d => d.modCl 0 fun c => { c with swap := some { lane := 5, kind := .rotation, spare := 64, startT0 := 0 } }, by decide⟩

theorem witness_ReleasesAndSwapsComplete_5 : ∃ (k : Clu) (w : Swap) (f : Nat) (s : State),
    ((s.cl k).swap = some w ∧ w.loaded = true ∧ w.lane < 64 ∧ w.spare < 68) ∧
    (s.flipF (64 * k + w.lane) w = some f ∧ f ≤ tq s.epoch) :=
  ⟨0, { lane := 5, kind := .rotation, spare := 64, startT0 := 0, loaded := true, flipAt := some 0 }, 0, st [.ctl 0] [] fun d => { d.modCl 0 (fun c => { c with swap := some { lane := 5, kind := .rotation, spare := 64, startT0 := 0, loaded := true, flipAt := some 0 } }) with up := 1000 }, by decide⟩

theorem witness_SelfTestSlicesComplete_1 : ∃ (i : Fin 2) (c : BistCmd) (s : State),
    (s.slotReady i = true ∧ s.bist.cmd = some c ∧ c.op = 1 ∧ s.get BIST_CMD_STAT.STATE = 1 ∧ s.eligible c.tgt = true) ∧
    ((s.tgtInfo c.tgt).aborts ≠ 16 ∧ (s.undo.any fun u => u.cyc == s.cycle && u.page == calStartKey) = false) :=
  ⟨0, ⟨1, targetAt 5, 0, 0⟩, st [bistPage, .ctl 0] [(BIST_CMD_STAT.STATE, 1)] fun d => { d with bist := { d.bist with cmd := some ⟨1, targetAt 5, 0, 0⟩ } }, by decide⟩

theorem witness_SelfTestSlicesComplete_2 : ∃ (i : Fin 2) (sl : Slice) (data : DWord) (bad : Option BadBit) (poison : Bool) (s : State),
    (s.slice i = some sl ∧ sl.tgt.ty = 0 ∧ sl.phase = 2 ∧ sl.abort = false ∧ 1 ≤ sl.step ∧ sl.step ≤ 16) ∧
    (sl.stepT0 + 2560 ≤ s.up) :=
  ⟨0, { tgt := targetAt 5, forced := false, phase := 2, stepT0 := 0, step := 16 }, 7, some ⟨1, 2, false, true, none⟩, false, st [bistPage, .ctl 0] [] fun d => { d.setSlice 0 (some { tgt := targetAt 5, forced := false, phase := 2, stepT0 := 0, step := 16 }) with up := 2560 }, by decide⟩

theorem witness_SelfTestSlicesComplete_3 : ∃ (k : Clu) (bad : List BadBit) (s : State),
    (s.get (CL_STATE.MCHK k) = 1 ∧ (s.cl k).march = true) :=
  ⟨0, [⟨1, 2, false, true, none⟩], st [.ctl 0] [(CL_STATE.MCHK 0, 1)] fun d => d.modCl 0 fun c => { c with march := true, cs := [(3, 5)] }, by decide⟩

theorem witness_SelfTestSlicesComplete_4 : ∃ (k : Clu) (s : State),
    (s.get (CL_STATE.MCHK k) = 1 ∧ (s.cl k).march = true) :=
  ⟨0, st [.ctl 0] [(CL_STATE.MCHK 0, 1)] fun d => d.modCl 0 fun c => { c with march := true, cs := [(3, 5)] }, by decide⟩

theorem witness_RepairsAndSelfTestCommandsComplete_1 : ∃ (r : RepairRec) (rest : List RepairRec) (s : State),
    (s.bist.writeQ = r :: rest ∧ s.bist.compact = false ∧ s.nvmMay 1 = true ∧ s.bist.inCopy0 = false ∧ s.get BIST_REPAIR_STAT.USED0 < 32768) :=
  ⟨{ tgt := targetAt 5 }, [], st [bistPage] [] fun d => { d with bist := { d.bist with writeQ := [{ tgt := targetAt 5 }] } }, by decide⟩

theorem witness_RepairsAndSelfTestCommandsComplete_2 : ∃ (r : RepairRec) (rest : List RepairRec) (s : State),
    (s.bist.writeQ = r :: rest ∧ s.bist.compact = false ∧ s.nvmMay 1 = true ∧ s.bist.inCopy0 = true ∧ s.get BIST_REPAIR_STAT.USED1 < 32768) :=
  ⟨{ tgt := targetAt 5, seq := 1 }, [], st [bistPage] [] fun d => { d with bist := { d.bist with writeQ := [{ tgt := targetAt 5, seq := 1 }], inCopy0 := true } }, by decide⟩

theorem witness_RepairsAndSelfTestCommandsComplete_3 : ∃ (s : State),
    (s.bist.compact = true ∧ s.nvmMay 1 = true ∧ s.bist.cmd = none ∧ s.bist.live.length ≤ 32768) :=
  ⟨st [bistPage] [] fun d => { d with bist := { d.bist with compact := true, recs0 := [{ tgt := targetAt 5, seq := 4 }] } }, by decide⟩

theorem witness_RepairsAndSelfTestCommandsComplete_4 : ∃ (ok0 : Bool) (s : State),
    (s.bist.compact = true ∧ s.nvmMay 1 = true ∧ s.bist.cmd = none) :=
  ⟨true, st [bistPage] [] fun d => { d with bist := { d.bist with compact := true, recs0 := [{ tgt := targetAt 5, seq := 4 }] } }, by decide⟩

theorem witness_RepairsAndSelfTestCommandsComplete_5 : ∃ (ss : Sess) (val : Word) (tgt : Target) (s : State),
    (s.lets ss bistPage 0x150 (whoOf bistPage 0x150) true = true ∧ wbit val 31 = true ∧ wfield val 0 3 = 1 ∧ s.bist.cmd = none) ∧
    (targetOf (wfield val 3 3) (wfield val 6 4) (wbit val 10) (wfield val 11 7) (wfield val 18 1) = some tgt) :=
  ⟨0, 0x80000001, targetAt 0, st [bistPage], by decide⟩

theorem witness_RepairsAndSelfTestCommandsComplete_6 : ∃ (ss : Sess) (val : Word) (tgt : Target) (s : State),
    (s.lets ss bistPage 0x150 (whoOf bistPage 0x150) true = true ∧ wbit val 31 = true ∧ wfield val 0 3 = 2 ∧ s.bist.cmd = none) ∧
    (targetOf (wfield val 3 3) (wfield val 6 4) (wbit val 10) (wfield val 11 7) (wfield val 18 1) = some tgt) ∧
    (s.attr ss = 2 ∧ s.bistTook tgt = true) :=
  ⟨0, 0x80000402#32 ||| 0x30#32, targetAt 6896, st [bistPage] [] fun d => { d with dirum := { d.dirum with refBad := true } }, by decide⟩

theorem witness_RepairsAndSelfTestCommandsComplete_7 : ∃ (ss : Sess) (val : Word) (s : State),
    (s.lets ss bistPage 0x150 (whoOf bistPage 0x150) true = true ∧ wbit val 31 = true ∧ wfield val 0 3 = 3 ∧ s.bist.cmd = none) :=
  ⟨0, 0x80000003, st [bistPage], by decide⟩

theorem witness_RepairsAndSelfTestCommandsComplete_8 : ∃ (ss : Sess) (val : Word) (s : State),
    (s.lets ss bistPage 0x150 (whoOf bistPage 0x150) true = true ∧ wbit val 31 = true ∧ s.bist.cmd = none) ∧
    (wfield val 0 3 = 0 ∨ 4 ≤ wfield val 0 3) :=
  ⟨0, 0x80000000, st [bistPage], by decide⟩

end Sys2Proof.Tests
end

