-- ==== Sys2Proof/Tests/WitnessesD.lean ====
section
/-! SUPPORT. For each clause of the statements with hypotheses, a state and operands that meet all of them: fault messages, sessions, ports, power and reset. -/

set_option linter.unusedVariables false
set_option maxRecDepth 4000

open Sys2Proof Sys2Proof.Machine

namespace Sys2Proof.Tests

theorem witness_FaultCollectorCompletes_1 : ∃ (m : Msg) (s : State),
    (s.fltWaiting = [m] ∧ m.inj = false ∧ s.flt.queue.length < 4096 ∧ (s.flt.took.1 ≠ s.cycle ∨ s.flt.took.2 < 8)) :=
  ⟨⟨3, 1, 0, false, 0, 0, 0, []⟩, st [fltPage] [] fun d => d.setSource 3 { buf := some ⟨3, 1, 0, false, 0, 0, 0, []⟩ }, by decide⟩

theorem witness_FaultCollectorCompletes_2 : ∃ (m : Msg) (rest : List Msg) (s : State),
    (s.flt.queue = m :: rest ∧ m.dest = [] ∧ 128 ≤ s.devBucket ∧ s.flt.device.room 2097152 m = true) :=
  ⟨⟨3, 1, 0, false, 0, 0, 0, []⟩, [], st [fltPage] [] fun d => { d with flt := { d.flt with queue := [⟨3, 1, 0, false, 0, 0, 0, []⟩] } }, by decide⟩

theorem witness_FaultCollectorCompletes_3 : ∃ (ss : Sess) (val : Word) (s : State),
    (s.lets ss fltPage 0x110 .any false = true ∧ (val.toNat + 2 ^ 32 - (s.fltRing ss).tail) % 2 ^ 32 ≤ (s.fltRing ss).held) :=
  ⟨0, 3, st [fltPage] [] fun d => d.setMirror 0 { head := 5 }, by decide⟩

theorem witness_FaultCollectorCompletes_4 : ∃ (ss : Sess) (val : Word) (s : State),
    (s.lets ss fltPage 0x108 .any false = true ∧ s.owner fltPage = some ss.val ∧ s.attr ss = 2) :=
  ⟨0, 1, st [fltPage], by decide⟩

theorem witness_FaultCollectorCompletes_5 : ∃ (ss : Sess) (w : Fin 64) (val : Word) (s : State),
    (s.lets ss fltPage (0x200 + 4 * w) .owner false = true) :=
  ⟨0, 3, 5, st [fltPage] [] fun d => { d.setReg (FLT_STICKY 3) 7 with up := 40 }, by decide⟩

theorem witness_FaultCollectorCompletes_6 : ∃ (ss : Sess) (w : Fin 64) (val : Word) (s : State),
    (s.lets ss fltPage (0x300 + 4 * w) .owner false = true) :=
  ⟨0, 3, 5, st [fltPage] [] fun d => { d.setReg (FLT_STICKY_INJ 3) 7 with up := 40 }, by decide⟩

theorem witness_FaultCollectorCompletes_7 : ∃ (ss : Sess) (val : Word) (s : State),
    (s.lets ss fltPage 0x148 (whoOf fltPage 0x148) true = true ∧ wbit val 0 = true) ∧
    ((s.flt.injected.any fun x => x.dest == [ss.val]) = false) ∧
    (injectOk (s.reg64 (FLT_INJ_MSG ss) / 2 ^ 52 % 4096) (s.reg64 (FLT_INJ_MSG ss) / 2 ^ 44 % 256) (s.reg64 (FLT_INJ_MSG ss) / 2 ^ 41 % 8) = true) :=
  ⟨0, 1, st [fltPage] [] fun d => d.setReg64 (FLT_INJ_MSG 0) (3 * 2 ^ 52 + 1 * 2 ^ 44), by decide⟩

theorem witness_FunctionsComplete_1 : ∃ (port link : Fin 2) (s : State),
    (s.hasLink port link = true ∧ (s.toDev.link port link).up = false ∧ s.boot.perst.contains port.val = true ∧ s.boot.done.contains 0 = true) :=
  ⟨1, 0, st [] [] fun d => { d with boot := { done := [0], perst := [1] } }, by decide⟩

theorem witness_FunctionsComplete_2 : ∃ (port link : Fin 2) (en : Bool) (numVfs : BitVec 16) (ari : Bool) (n : Nat) (s : State),
    (s.hasLink port link = true ∧ (s.toDev.link port link).up = true) ∧
    (n = (if en then min numVfs.toNat (if ari then s.maxVfs port else 7) else 0)) ∧
    (∀ i : Fin 31, n ≤ i.val → i < s.maxVfs port → (s.sn (s.pfOf port link + 1 + i)).live = false) :=
  ⟨0, 0, true, 3, false, 3, st [] [] fun d => { d with links := [(0, { up := true })] }, by decide⟩

theorem witness_FunctionsComplete_3 : ∃ (ss : Sess) (s : State),
    ((s.sn ss).live = true ∧ (s.sn ss).resetting = false ∧ s.calPending ss = false) :=
  ⟨0, st [pePage], by decide⟩

theorem witness_FunctionsComplete_4 : ∃ (port link : Fin 2) (s : State),
    (s.hasLink port link = true ∧ (s.toDev.link port link).up = true) ∧
    ((s.sn (s.pfOf port link)).live = true ∧ (s.sn (s.pfOf port link)).resetting = false) ∧
    (s.calPending (s.pfOf port link) = false) ∧
    (∀ i : Fin 31, i < s.maxVfs port → (s.sn (s.pfOf port link + 1 + i)).live = false) :=
  ⟨0, 0, st [] [] fun d => { d with links := [(0, { up := true })] }, by decide⟩

theorem witness_FunctionsComplete_5 : ∃ (ss : Sess) (n : Nat) (s : State),
    (s.lets ss sessPage 0x110 .attrM false = true ∧ n = s.get (SESS_SEL.TARGET ss) ∧ (s.sn n).live = true) ∧
    ((s.sn n).resetting = false ∧ s.calPending n = false) :=
  ⟨0, 0, st [sessPage], by decide⟩

theorem witness_FunctionsComplete_6 : ∃ (ss : Sess) (s : State),
    (s.resetReady ss = true ∧ s.ringsOf ss = []) :=
  ⟨0, st [sessPage] [] fun d => { d with sess := [(0, { live := true, attr := 2, resetting := true })] }, by decide⟩

theorem witness_FunctionsComplete_7 : ∃ (ss : Sess) (val : Word) (n : Nat) (s : State),
    (s.lets ss sessPage 0x10C .attrM false = true ∧ n = s.get (SESS_SEL.TARGET ss) ∧ (s.sn n).live = true) ∧
    (s.attrMay n (wfield val 0 2) = true) :=
  ⟨0, 1, 0, st [sessPage], by decide⟩

theorem witness_FunctionsComplete_8 : ∃ (ss : Sess) (d3 : Bool) (s : State),
    ((s.sn ss).live = true) :=
  ⟨0, true, st [sessPage], by decide⟩

theorem witness_HostAccessesComplete_1 : ∃ (ss : Sess) (addr : BitVec 34) (len : Nat) (s : State),
    (s.acts ss = true) :=
  ⟨0, 0, 4, st [], by decide⟩

theorem witness_HostAccessesComplete_2 : ∃ (ss : Sess) (addr : BitVec 34) (bytes : List Byte) (s : State),
    (s.acts ss = true) :=
  ⟨0, 0, [1, 2], st [], by decide⟩

theorem witness_HostAccessesComplete_3 : ∃ (ss : Sess) (addr : BitVec 34) (b : Byte) (a : Nat) (s : State),
    (s.acts ss = true ∧ s.bar2At ss addr.toNat = some a ∧ a < 0x400000000) :=
  ⟨0, 5, 7, 0x200005, st [] [] fun d => { d with pe := { allocs := [⟨1, 0, 0, 1, 1, 0, 0⟩] } }, by decide⟩

theorem witness_HostAccessesComplete_4 : ∃ (ss : Sess) (addr : BitVec 34) (bytes : List Byte) (s : State),
    (s.acts ss = true) :=
  ⟨0, 0, [1, 2], st [], by decide⟩

theorem witness_HostAccessesComplete_5 : ∃ (ss : Sess) (v : Fin 32) (m : Bool) (s : State),
    ((s.sn ss).live = true ∧ (s.sn ss).resetting = false ∧ (s.sn ss).d3 = false ∧ (s.sn ss).fnMask = true ∧ s.waits ss = false) :=
  ⟨0, 3, false, st [] [] fun d => { d with sess := [(0, { live := true, attr := 2, fnMask := true })] }, by decide⟩

theorem witness_HostAccessesComplete_6 : ∃ (ss : Sess) (on : Bool) (s : State),
    ((s.sn ss).live = true ∧ (s.sn ss).resetting = false) :=
  ⟨0, true, st [], by decide⟩

theorem witness_HostAccessesComplete_7 : ∃ (ss : Sess) (on : Bool) (s : State),
    ((s.sn ss).live = true ∧ (s.sn ss).resetting = false) :=
  ⟨0, true, st [], by decide⟩

theorem witness_HostAccessesComplete_8 : ∃ (ss : Sess) (on : Bool) (s : State),
    ((s.sn ss).live = true ∧ (s.sn ss).resetting = false) :=
  ⟨0, true, st [], by decide⟩

theorem witness_HostAccessesComplete_9 : ∃ (ss : Sess) (v : Nat) (s : State),
    ((s.sn ss).live = true ∧ (s.sn ss).resetting = false ∧ (s.sn ss).d3 = false ∧ (s.sn ss).msixEn = true ∧ (s.sn ss).bme = true) ∧
    ((s.sn ss).vecs = [(v, { masked := false, pending := true, owed := true })]) :=
  ⟨0, 3, st [] [] fun d => { d with sess := [(0, { live := true, attr := 2, fnMask := true, msixEn := true, bme := true, vecs := [(3, ⟨false, true, true⟩)] })] }, by decide⟩

theorem witness_HostAccessesComplete_10 : ∃ (port : Fin 2) (func : BitVec 6) (uncor : Bool) (s : State),
    ((s.source (16 + port.val)).buf = none) :=
  ⟨1, 0, true, st [], by decide⟩

theorem witness_HostAccessesComplete_11 : ∃ (ss : Sess) (addr : BitVec 26) (s : State),
    (s.acts ss = true ∧ s.cplInTime ss addr.toNat = false) :=
  ⟨0, 4, st [], by decide⟩

theorem witness_RingsComplete_1 : ∃ (ss : Sess) (n : Nat) (s : State),
    (s.lets ss ringPage 0x114 (whoOf ringPage 0x114) true = true ∧ s.get (RING_RESULT.PENDING ss) = 0 ∧ s.freeDesc = some n) ∧
    ((s.ringsOf ss).length < s.get SESS_RING_MAX.RINGS) ∧
    (s.inRingAlloc ss (s.get (RING_BASE.BASE ss) * 4096) (16 * 2 ^ s.get (RING_PARAM.SIZE_LOG2 ss)) = true) ∧
    (8 ≤ s.get (RING_PARAM.SIZE_LOG2 ss) ∧ s.get (RING_PARAM.SIZE_LOG2 ss) ≤ 27) ∧
    (s.get (RING_PARAM.THRESH_LOG2 ss) ≤ s.get (RING_PARAM.SIZE_LOG2 ss)) :=
  ⟨0, 1, st [ringPage] [(RING_PARAM.SIZE_LOG2 0, 8), (SESS_RING_MAX.RINGS, 4)] fun d => { d with pe := { allocs := [⟨1, 0, 1, 0, 1, 0, 0⟩] } }, by decide⟩

theorem witness_RingsComplete_2 : ∃ (ss : Sess) (n : Nat) (r : Ring) (s : State),
    (s.lets ss ringPage 0x114 (whoOf ringPage 0x114) true = true ∧ s.get (RING_RESULT.PENDING ss) = 0 ∧ s.noRecordWaits = true) ∧
    (s.get (RING_SEL.RING ss) = n ∧ s.ring n = some r ∧ r.owner = ss ∧ r.out = 0 ∧ s.lateCredit n = false) :=
  ⟨0, 3, rg, st [ringPage] [(RING_SEL.RING 0, 3)] fun d => d.setRing 3 (some rg), by decide⟩

theorem witness_RingsComplete_3 : ∃ (ss : Sess) (n : Nat) (r : Ring) (s : State),
    (s.lets ss ringPage 0x114 (whoOf ringPage 0x114) true = true ∧ s.get (RING_RESULT.PENDING ss) = 0) ∧
    (s.get (RING_SEL.RING ss) = n ∧ s.ring n = some r ∧ r.owner = ss ∧ r.out ≠ 0 ∧ s.lateCredit n = false) :=
  ⟨0, 3, { rg with out := 1 }, st [ringPage] [(RING_SEL.RING 0, 3)] fun d => d.setRing 3 (some { rg with out := 1 }), by decide⟩

theorem witness_RingsComplete_4 : ∃ (n : BitVec 20) (r : Ring) (s : State),
    (s.ring n.toNat = some r ∧ r.dying = true ∧ r.out = 0 ∧ s.noRecordWaits = true) :=
  ⟨3, { rg with dying := true }, st [ringPage] [(RING_RESULT.PENDING 0, 1)] fun d => d.setRing 3 (some { rg with dying := true }), by decide⟩

theorem witness_RingsComplete_5 : ∃ (ss : Sess) (val : Word) (n : Nat) (r : Ring) (s : State),
    (s.lets ss ringPage 0x144 .any false = true ∧ s.noRecordWaits = true) ∧
    (n = (tget (fun _ => 0) s.hold (RING_DB ss)).toNat % 2 ^ 20 ∧ s.ring n = some r ∧ r.owner = ss) ∧
    ((val.toNat + 2 ^ 32 - r.tail) % 2 ^ 32 ≤ (r.visible + 2 ^ 32 - r.tail) % 2 ^ 32) :=
  ⟨0, 2, 3, { rg with head := 5 }, st [ringPage] [] fun d => { d.setRing 3 (some { rg with head := 5 }) with hold := [(RING_DB 0, 3)] }, by decide⟩

theorem witness_RingsComplete_6 : ∃ (n : BitVec 20) (r : Ring) (m : Nat) (s : State),
    (s.ring n.toNat = some r ∧ r.copies = true ∧ r.irqEn = false ∧ s.noRecordWaits = true ∧ s.drainNext r.owner = some n.toNat) ∧
    ((s.sn r.owner).live = true ∧ (s.sn r.owner).bme = true ∧ (s.sn r.owner).d3 = false) ∧
    (m = min (min ((r.head + 2 ^ 32 - r.drain) % 2 ^ 32) (2 ^ r.sizeLog2 - (r.drain + 2 ^ 32 - r.tail) % 2 ^ 32))
          (min 256 (2 ^ r.sizeLog2 - r.drain % 2 ^ r.sizeLog2))) ∧
    (((s.bar2At r.owner (r.base + 16 * (r.drain % 2 ^ r.sizeLog2))).all fun a => !s.poisoned a (16 * m)) = true) :=
  ⟨3, { rg with dma := true, head := 5 }, 5, st [ringPage] [] fun d => { d.setRing 3 (some { rg with dma := true, head := 5 }) with sess := [(0, { live := true, bme := true })] }, by decide⟩

theorem witness_RingsComplete_7 : ∃ (n : BitVec 20) (r : Ring) (t0 : Nat) (s : State),
    (s.ring n.toNat = some r ∧ r.irqEn = true ∧ r.visible ≠ r.mark ∧ r.firstT0 = some t0 ∧ t0 + 3200 * r.coalesce ≤ s.up) ∧
    (r.msgCyc ≠ some s.cycle ∧ (s.sn r.owner).live = true ∧ (s.sn r.owner).bme = true ∧ (s.sn r.owner).d3 = false) ∧
    ((s.sn r.owner).msixEn = true ∧ (s.sn r.owner).fnMask = false ∧ (tget (fun _ => {}) (s.sn r.owner).vecs r.vec).masked = false) :=
  ⟨3, { rg with irqEn := true, head := 5, firstT0 := some 0 }, 0, st [ringPage] [] fun d => { d.setRing 3 (some { rg with irqEn := true, head := 5, firstT0 := some 0 }) with sess := [(0, { live := true, bme := true, msixEn := true, vecs := [(0, ⟨false, false, false⟩)] })] }, by decide⟩

theorem witness_RingsComplete_8 : ∃ (f k n a : Nat) (x : Xfer) (body : BitVec 128) (sched : HbmSched) (r : Ring) (s : State),
    (((List.range 16).foldl (fun d k => (d.floorAccrue k).floorSort k) s.toDev).hbmPick = some (f, x, sched)) ∧
    (x.what = .record k n body ∧ s.ring n = some r ∧ s.noRecordWaits = true ∧ a + 16 ≤ 0x400000000) ∧
    (s.bar2At r.owner (r.base + 16 * (r.head % 2 ^ r.sizeLog2)) = some a) :=
  ⟨0, 0, 3, 0, ⟨16, 0, .record 0 3 77⟩, 77, { wait := [], deficit := [(0, 240)] }, { rg with out := 1 }, st [ringPage] [] fun d => { d.setRing 3 (some { rg with out := 1 }) with pe := { allocs := [⟨1, 0, 1, 0, 1, 0, 0⟩] }, sched := { wait := [(0, [⟨16, 0, .record 0 3 77⟩])], deficit := [(0, 256)] } }, by decide⟩

theorem witness_NvmAndLifecycleComplete_1 : ∃ (ss : Sess) (val : Word) (s : State),
    (s.lets ss nvmPage 0x10C (whoOf nvmPage 0x10C) true = true ∧ wbit val 31 = true ∧ wfield val 0 2 = 1 ∧ s.nvmWaits ss = false) ∧
    (nvmRangeOk 1 (s.get (NVM_ADDR.ADDR ss)) (s.get (NVM_LEN.BYTES ss)) = true) :=
  ⟨0, 0x80000001, st [nvmPage] [(NVM_LEN.BYTES 0, 8)], by decide⟩

theorem witness_NvmAndLifecycleComplete_2 : ∃ (ss : Sess) (val : Word) (s : State),
    (s.lets ss nvmPage 0x10C (whoOf nvmPage 0x10C) true = true ∧ wbit val 31 = true ∧ wfield val 0 2 = 2 ∧ s.nvmWaits ss = false) ∧
    (nvmRangeOk 2 (s.get (NVM_ADDR.ADDR ss)) (s.get (NVM_LEN.BYTES ss)) = true) :=
  ⟨0, 0x80000002, st [nvmPage] [(NVM_LEN.BYTES 0, 512)], by decide⟩

theorem witness_NvmAndLifecycleComplete_3 : ∃ (ss : Sess) (val : Word) (s : State),
    (s.lets ss nvmPage 0x10C (whoOf nvmPage 0x10C) true = true ∧ wbit val 31 = true ∧ s.nvmWaits ss = false) ∧
    (wfield val 0 2 = 0 ∨ wfield val 0 2 = 3) :=
  ⟨0, 0x80000003, st [nvmPage], by decide⟩

theorem witness_NvmAndLifecycleComplete_4 : ∃ (c : NvmCmd) (rest : List NvmCmd) (s : State),
    (s.nvmQ = c :: rest ∧ c.op = 1 ∧ s.nvmMay 3 = true ∧ s.again = []) :=
  ⟨⟨0, 1, 0, 8⟩, [], st [nvmPage] [] fun d => { d with nvmQ := [⟨0, 1, 0, 8⟩] }, by decide⟩

theorem witness_NvmAndLifecycleComplete_5 : ∃ (c : NvmCmd) (rest : List NvmCmd) (s : State),
    (s.nvmQ = c :: rest ∧ c.op ≠ 1 ∧ s.nvmMay 3 = true ∧ s.again = []) :=
  ⟨⟨0, 2, 0, 8⟩, [], st [nvmPage] [] fun d => { d with nvmQ := [⟨0, 2, 0, 8⟩] }, by decide⟩

theorem witness_NvmAndLifecycleComplete_6 : ∃ (c : NvmCmd) (rest : List NvmCmd) (s : State),
    (s.nvmQ = c :: rest ∧ s.nvmMay 3 = true ∧ s.again = []) :=
  ⟨⟨0, 1, 0, 8⟩, [], st [nvmPage] [] fun d => { d with nvmQ := [⟨0, 1, 0, 8⟩] }, by decide⟩

theorem witness_NvmAndLifecycleComplete_7 : ∃ (ss : Sess) (val : Word) (s : State),
    (s.lets ss secPage 0x104 .ownM false = true ∧ wbit val 2 = false) :=
  ⟨0, 2, st [secPage], by decide⟩

theorem witness_NvmAndLifecycleComplete_8 : ∃ (ss : Sess) (val : Word) (s : State),
    (s.lets ss secPage 0x104 .ownM true = true ∧ wbit val 2 = true ∧ s.sec.prep = some (wfield val 0 2)) ∧
    (s.lcMay (wfield val 0 2) = true ∧ s.get SEC_STAT.LC_BUSY = 0) :=
  ⟨0, 7, st [secPage] [(SEC_STAT.LIFECYCLE, 1)] fun d => { d with sec := { d.sec with prep := some 3 } }, by decide⟩

theorem witness_NvmAndLifecycleComplete_9 : ∃ (n : Nat) (s : State),
    (s.sec.target = some n ∧ n < 3 ∧ s.nvmMay 0 = true ∧ s.again = []) :=
  ⟨2, st [secPage] [(SEC_STAT.LIFECYCLE, 1), (SEC_STAT.LC_BUSY, 1)] fun d => { d with sec := { d.sec with target := some 2 } }, by decide⟩

theorem witness_NvmAndLifecycleComplete_10 : ∃ (s : State),
    (s.sec.target = some 3 ∧ s.pln.st ≠ .active ∧ s.nvmMay 0 = true ∧ s.again = []) :=
  ⟨st [secPage] [(SEC_STAT.LIFECYCLE, 2), (SEC_STAT.LC_BUSY, 1)] fun d => { d with sec := { d.sec with target := some 3 }, pln := { d.pln with st := .drowse } }, by decide⟩

theorem witness_NvmAndLifecycleComplete_11 : ∃ (ss : Sess) (val : Word) (s : State),
    (s.lets ss secPage 0x108 (whoOf secPage 0x108) true = true ∧ wbit val 1 = true ∧ wbit val 2 = false) :=
  ⟨0, 2, st [secPage], by decide⟩

theorem witness_NvmAndLifecycleComplete_12 : ∃ (ss : Sess) (val : Word) (s : State),
    (s.lets ss secPage 0x108 (whoOf secPage 0x108) true = true ∧ wbit val 2 = true) :=
  ⟨0, 4, st [secPage] [(SEC_STAT.DBG_LEVEL, 2)], by decide⟩

theorem witness_DebugPortCompletes_1 : ∃ (cells : BitVec 25) (s : State),
    (s.pinsOpen = true) :=
  ⟨5, st [] [] fun d => { d with boot := { d.boot with rails := [.aon] } }, by decide⟩

theorem witness_DebugPortCompletes_2 : ∃ (cells : BitVec 25) (s : State),
    (s.aonPower = true ∧ s.boot.resetN = true) :=
  ⟨5, st [] [] fun d => { d with boot := { d.boot with rails := [.aon], resetN := true } }, by decide⟩

theorem witness_DebugPortCompletes_3 : ∃ (pins cells : BitVec 25) (s : State),
    (s.sampleOpen = true) :=
  ⟨5, 6, st [] [] fun d => { d with boot := { d.boot with rails := [.aon] } }, by decide⟩

theorem witness_DebugPortCompletes_4 : ∃ (s : State),
    (s.aonPower = true) :=
  ⟨st [] [] fun d => { d with boot := { d.boot with rails := [.aon] } }, by decide⟩

theorem witness_DebugPortCompletes_5 : ∃ (s : State),
    (s.pinsOpen = true) :=
  ⟨st [] [] fun d => { d with boot := { d.boot with rails := [.aon] } }, by decide⟩

theorem witness_DebugPortCompletes_6 : ∃ (s : State),
    (s.pinsOpen = true) :=
  ⟨st [] [] fun d => { d with boot := { d.boot with rails := [.aon] } }, by decide⟩

theorem witness_DebugPortCompletes_7 : ∃ (s : State),
    (s.aonPower = true) :=
  ⟨st [] [] fun d => { d with boot := { d.boot with rails := [.aon] } }, by decide⟩

theorem witness_DebugPortCompletes_8 : ∃ (s : State),
    (s.aonPower = true) :=
  ⟨st [] [] fun d => { d with boot := { d.boot with rails := [.aon] } }, by decide⟩

theorem witness_DebugPortCompletes_9 : ∃ (s : State),
    (s.aonPower = true) :=
  ⟨st [] [] fun d => { d with boot := { d.boot with rails := [.aon] } }, by decide⟩

theorem witness_DebugPortCompletes_10 : ∃ (level : Byte) (s : State),
    (s.dbgOpen = true ∧ s.get SEC_STAT.LOCKOUT = 0) ∧
    (level = 1 ∨ level = 2) :=
  ⟨2, st [] [] fun d => { d with boot := { d.boot with rails := [.aon] } }, by decide⟩

theorem witness_DebugPortCompletes_11 : ∃ (s : State),
    (s.dbgOpen = true) :=
  ⟨st [] [(SEC_STAT.DBG_LEVEL, 2)] fun d => { d with boot := { d.boot with rails := [.aon] } }, by decide⟩

theorem witness_DebugPortCompletes_12 : ∃ (key sig : List Byte) (n : Nonce) (s : State),
    (s.dbgOpen = true ∧ s.sec.nonce = some n ∧ s.up < n.t0 + 32000000000 ∧ s.responseOk n key sig = true) ∧
    (s.get SEC_STAT.DBG_LEVEL < n.level ∧ n.level ≤ 2 ∧ s.sec.dropCyc ≠ some s.cycle) ∧
    (n.level = 2 → s.sec.locked = false ∧ s.pln.st ≠ .deep) :=
  ⟨[], [], ⟨[], 1, 0⟩, st [secPage] [(SEC_STAT.LIFECYCLE, 1), (SEC_AUTH.FAILS, 2)] fun d => { d with boot := { d.boot with rails := [.aon] }, sec := { d.sec with nonce := some ⟨[], 1, 0⟩ } }, by decide⟩

theorem witness_DebugPortCompletes_13 : ∃ (key sig : List Byte) (s : State),
    (s.dbgOpen = true ∧ s.sec.nonce = none) :=
  ⟨[], [], st [secPage] [(SEC_AUTH.FAILS, 2)] fun d => { d with boot := { d.boot with rails := [.aon] } }, by decide⟩

theorem witness_DebugPortCompletes_14 : ∃ (n : Nonce) (s : State),
    (s.sec.nonce = some n ∧ n.t0 + 32000000000 ≤ s.up) :=
  ⟨⟨[], 1, 0⟩, st [secPage] [] fun d => { d with up := 32000000000, sec := { d.sec with nonce := some ⟨[], 1, 0⟩ } }, by decide⟩

theorem witness_DebugPortCompletes_15 : ∃ (t0 : Nat) (s : State),
    (s.sec.lockT0 = some t0 ∧ t0 + s.sec.lockS * 3200000000 ≤ s.up) :=
  ⟨0, st [secPage] [(SEC_STAT.LOCKOUT, 1)] fun d => { d with up := 192000000000, sec := { d.sec with lockT0 := some 0, lockS := 60 } }, by decide⟩

theorem witness_DebugPortCompletes_16 : ∃ (dr : BitVec 104) (ss : Sess) (a : Nat) (wide : Bool) (s : State),
    (ss = Fin.ofNat 64 (dr.toNat / 2 ^ 66) ∧ a = dr.toNat / 2 ^ 72 % 2 ^ 26 ∧ wide = dr.getLsbD 65) ∧
    (dr.getLsbD 64 = false ∧ dr.getLsbD 98 = false ∧ 1 ≤ s.dbgLevel ∧ dbgRefused s.dbgLevel false wide false a = false) ∧
    (s.dbgReach a = true) :=
  ⟨0, 0, 0, false, st [] [(SEC_STAT.DBG_LEVEL, 1)] fun d => { d with boot := { d.boot with rails := [.aon] } }, by decide⟩

theorem witness_DebugPortCompletes_17 : ∃ (dr : BitVec 104) (a : Nat) (s : State),
    (a = dr.toNat / 2 ^ 72 % 2 ^ 26 ∧ dr.getLsbD 64 = true ∧ dr.getLsbD 98 = false ∧ 1 ≤ s.dbgLevel) ∧
    (dbgRefused s.dbgLevel true (dr.getLsbD 65) false a = false ∧ s.dbgReach a = true) :=
  ⟨0x7108#104 <<< 72 ||| 1#104 <<< 64, 0x7108, st [] [(SEC_STAT.DBG_LEVEL, 2)] fun d => { d with boot := { d.boot with rails := [.aon] } }, by decide⟩

theorem witness_DebugPortCompletes_18 : ∃ (k : Clu) (s : State),
    (2 ≤ s.dbgLevel ∧ s.powered k = true) :=
  ⟨0, st [.ctl 0] [(SEC_STAT.DBG_LEVEL, 2)] fun d => { d with boot := { d.boot with rails := [.aon] } }, by decide⟩

theorem witness_DebugPortCompletes_19 : ∃ (k : Clu) (s : State),
    (2 ≤ s.dbgLevel ∧ s.powered k = true) :=
  ⟨0, st [.ctl 0] [(SEC_STAT.DBG_LEVEL, 2)] fun d => { d with boot := { d.boot with rails := [.aon] } }, by decide⟩

theorem witness_DebugPortCompletes_20 : ∃ (k : Clu) (r s : State),
    (2 ≤ s.dbgLevel ∧ s.powered k = true ∧ (s.cl k).halted = true) ∧
    (r = { s with toDev := { s.toDev with sec := s.sec.irLoad 0x14 } } ∧ (r.stepReady k).stepOutside k = false) :=
  ⟨0, hl.1, hl.2, by decide⟩

theorem witness_ManagementPortCompletes_1 : ∃ (s : State),
    (s.smbOpen = true) :=
  ⟨st [] [] fun d => { d with boot := { d.boot with rails := [.aon], aonOut := true }, pln := { d.pln with running := true } }, by decide⟩

theorem witness_ManagementPortCompletes_2 : ∃ (s : State),
    (s.smbOpen = true) :=
  ⟨st [] [] fun d => { d with boot := { d.boot with rails := [.aon], aonOut := true }, pln := { d.pln with running := true } }, by decide⟩

theorem witness_ManagementPortCompletes_3 : ∃ (b : Byte) (s : State),
    (s.smbOpen = true ∧ s.pln.st = .active ∧ s.pln.going = none ∧ s.pln.askCyc.map Prod.fst ≠ some s.cycle ∧ s.workOn = false ∧ b = 1) :=
  ⟨1, st [] [] fun d => { d with boot := { d.boot with rails := [.aon], aonOut := true }, pln := { d.pln with running := true } }, by decide⟩

theorem witness_ManagementPortCompletes_4 : ∃ (s : State),
    (s.smbOpen = true) :=
  ⟨st [] [] fun d => { d with boot := { d.boot with rails := [.aon], aonOut := true }, pln := { d.pln with running := true } }, by decide⟩

theorem witness_ManagementPortCompletes_5 : ∃ (s : State),
    (s.smbOpen = true) :=
  ⟨st [] [] fun d => { d with boot := { d.boot with rails := [.aon], aonOut := true }, pln := { d.pln with running := true } }, by decide⟩

theorem witness_ManagementPortCompletes_6 : ∃ (s : State),
    (s.smbOpen = true ∧ s.pln.st ≠ .deep) :=
  ⟨st [] [] fun d => { d with boot := { d.boot with rails := [.aon], aonOut := true }, pln := { d.pln with running := true } }, by decide⟩

theorem witness_ManagementPortCompletes_7 : ∃ (s : State),
    (s.smbOpen = true) :=
  ⟨st [] [] fun d => { d with boot := { d.boot with rails := [.aon], aonOut := true }, pln := { d.pln with running := true } }, by decide⟩

theorem witness_ManagementPortCompletes_8 : ∃ (bytes : List Byte) (s : State),
    (s.smbOpen = true ∧ s.retired = false ∧ s.pln.recovery = false ∧ s.pln.mbox = none ∧ 1 ≤ bytes.length ∧ bytes.length ≤ 255) :=
  ⟨[1, 7], st [] [] fun d => { d with boot := { d.boot with rails := [.aon], aonOut := true }, pln := { d.pln with running := true } }, by decide⟩

theorem witness_ManagementPortCompletes_9 : ∃ (s : State),
    (s.smbOpen = true) :=
  ⟨st [] [] fun d => { d with boot := { d.boot with rails := [.aon], aonOut := true }, pln := { d.pln with running := true } }, by decide⟩

theorem witness_PowerStatesComplete_1 : ∃ (ss : Sess) (val : Word) (s : State),
    (s.lets ss pwrPage 0x104 (whoOf pwrPage 0x104) true = true ∧ wbit val 3 = true ∧ wfield val 0 2 = 1 ∧ wbit val 2 = true) ∧
    (s.pln.st = .active ∧ s.pln.going = none ∧ s.pln.running = true ∧ s.pln.askCyc.map Prod.fst ≠ some s.cycle) :=
  ⟨0, 0xD, st [pwrPage] [] fun d => { d with pln := { d.pln with running := true } }, by decide⟩

theorem witness_PowerStatesComplete_2 : ∃ (ss : Sess) (val : Word) (s : State),
    (s.lets ss pwrPage 0x104 (whoOf pwrPage 0x104) true = true ∧ wbit val 3 = true ∧ wfield val 0 2 = 3) ∧
    (s.pln.going = none ∧ s.pln.running = true ∧ s.pln.askCyc.map Prod.fst ≠ some s.cycle) :=
  ⟨0, 0xB, st [pwrPage] [] fun d => { d with pln := { d.pln with running := true } }, by decide⟩

theorem witness_PowerStatesComplete_3 : ∃ (s : State),
    (s.pln.going = some .active ∧ s.pln.st = .drowse ∧ s.pln.held = []) ∧
    (((List.range 16).all fun k => s.get (CL_STATE.PWR k) == 2) = true) :=
  ⟨st [pwrPage] ((List.range 16).map fun k => (CL_STATE.PWR k, 2)) fun d => { d with pln := { d.pln with going := some .active, st := .drowse } }, by decide⟩

theorem witness_PowerStatesComplete_4 : ∃ (ok : Bool) (s : State),
    (s.pln.st = .deep ∧ s.pln.going = some .active ∧ s.pln.running = true ∧ s.retired = false) ∧
    (s.boot.resetN = true ∧ s.boot.supplyOk = true ∧ (s.pln.full = true ∨ s.pln.hwTripped = true)) :=
  ⟨true, st [pwrPage] [] fun d => { d with boot := { d.boot with resetN := true, supplyOk := true }, pln := { d.pln with running := true, st := .deep, going := some .active, full := true } }, by decide⟩

theorem witness_PowerStatesComplete_5 : ∃ (s : State),
    (s.pln.st = .deep ∧ s.pln.going = some .active ∧ s.pln.running = true ∧ s.retired = false) ∧
    (s.boot.resetN = true ∧ s.boot.supplyOk = true ∧ s.pln.full = false ∧ s.pln.hwTripped = false) :=
  ⟨st [pwrPage] [] fun d => { d with boot := { d.boot with resetN := true, supplyOk := true }, pln := { d.pln with running := true, st := .deep, going := some .active } }, by decide⟩

theorem witness_PowerStatesComplete_6 : ∃ (x : Samples) (s : State),
    (s.iterDue = true ∧ s.boot.done.contains 8 = false ∧ s.get PWR_STAT.THROTTLE = 0 ∧ s.pln.askCyc.map Prod.fst ≠ some s.cycle) :=
  ⟨⟨[], 0, []⟩, st [] [] fun d => { d with boot := { d.boot with done := [] }, pln := { d.pln with running := true } }, by decide⟩

theorem witness_PowerStatesComplete_7 : ∃ (what : BitVec 6) (s : State),
    (s.boot.aonOut = true ∧ s.pln.held = []) :=
  ⟨3, st [] [] fun d => { d with boot := { d.boot with aonOut := true } }, by decide⟩

theorem witness_PowerStatesComplete_8 : ∃ (k : Clu) (s : State),
    (s.get (CL_STATE.PWR k) = 3 ∧ s.pln.wakeAfter.contains k.val = false ∧ s.lanesOf k = [] ∧ s.sliceIn k = false) :=
  ⟨0, st [] [(CL_STATE.PWR 0, 3), (CL_STATE.TREE_ALIGNED 0, 1)], by decide⟩

theorem witness_PowerStatesComplete_9 : ∃ (k : Clu) (s : State),
    (s.get (CL_STATE.PWR k) = 1 ∧ s.cal.queue = [] ∧ s.cal.auto = []) :=
  ⟨0, st [] [(CL_STATE.PWR 0, 1)], by decide⟩

theorem witness_PowerStatesComplete_10 : ∃ (ss : Sess) (val : DWord) (s : State),
    (s.lets ss sensPage 0x108 .owner false = true ∧ s.lets ss sensPage 0x10C .owner false = true) ∧
    ((tget (fun _ => (0, 0)) s.fresh SENS_FAULTY).1 ≠ s.cycle ∧ (tget (fun _ => (0, 0)) s.fresh (SENS_FAULTY + 4)).1 ≠ s.cycle) :=
  ⟨0, 5, st [sensPage] [(SENS_FAULTY.FAULTY, 7)] fun d => { d with up := 40 }, by decide⟩

theorem witness_PowerStatesComplete_11 : ∃ (k : Clu) (fifo : Fin 3) (s : State),
    (s.powered k = true ∧ s.get (CL_STATE.MCHK k) = 1) :=
  ⟨0, 1, st [.ctl 0] [(CL_STATE.MCHK 0, 1)], by decide⟩

theorem witness_MailboxAndFirmwareComplete_1 : ∃ (req : List Byte) (s : State),
    (s.mboxTake 1 = some (req, none) ∧ s.again = []) :=
  ⟨[1, 7], st [] [] fun d => { d with pln := { d.pln with running := true, mbox := some ([1, 7], none) } }, by decide⟩

theorem witness_MailboxAndFirmwareComplete_2 : ∃ (req : List Byte) (ss : Nat) (s : State),
    (s.mboxTake 1 = some (req, some ss) ∧ s.again = []) :=
  ⟨[1, 7], 0, st [] [] fun d => { d with pln := { d.pln with running := true, mbox := some ([1, 7], some 0) } }, by decide⟩

theorem witness_MailboxAndFirmwareComplete_3 : ∃ (req : List Byte) (i : Byte) (r : TripRec) (s : State),
    (s.mboxTake 4 = some (req, none) ∧ s.again = [] ∧ req[2]? = some i ∧ s.pln.tripLog[i.toNat]? = some r) :=
  ⟨[4, 7, 0], 0, ⟨0, 2, 0, 5⟩, st [] [] fun d => { d with pln := { d.pln with running := true, mbox := some ([4, 7, 0], none), tripLog := [⟨0, 2, 0, 5⟩] } }, by decide⟩

theorem witness_MailboxAndFirmwareComplete_4 : ∃ (req : List Byte) (i : Nat) (s : State),
    (s.mboxTake 5 = some (req, none) ∧ s.again = [] ∧ s.retired = false ∧ 6 ≤ req.length ∧ i = leNat ((req.drop 2).take 4) ∧ i < 65536) :=
  ⟨[5, 7, 0, 0, 0, 0], 0, st [] [] fun d => { d with pln := { d.pln with running := true, mbox := some ([5, 7, 0, 0, 0, 0], none) } }, by decide⟩

theorem witness_MailboxAndFirmwareComplete_5 : ∃ (req : List Byte) (a w : Byte) (s : State),
    (s.mboxTake 6 = some (req, none) ∧ s.again = [] ∧ s.retired = false ∧ req[2]? = some a ∧ req[3]? = some w) :=
  ⟨[6, 7, 1, 0], 1, 0, st [] [] fun d => { d with pln := { d.pln with running := true, mbox := some ([6, 7, 1, 0], none) } }, by decide⟩

theorem witness_MailboxAndFirmwareComplete_6 : ∃ (ok : Bool) (req : List Byte) (off : Nat) (s : State),
    (s.mboxTake 2 = some (req, none) ∧ s.again = [] ∧ s.retired = false ∧ off = leNat ((req.drop 2).take 4)) ∧
    (6 < req.length ∧ req.length ≤ 246 ∧ off + (req.length - 6) ≤ 0x100000 ∧ s.plinthMay = true) :=
  ⟨true, [2, 7, 0, 1, 0, 0, 9], 256, st [] [] fun d => { d with pln := { d.pln with running := true, mbox := some ([2, 7, 0, 1, 0, 0, 9], none) } }, by decide⟩

theorem witness_MailboxAndFirmwareComplete_7 : ∃ (req : List Byte) (b : Bool) (r : State) (s : State),
    (s.mboxTake 3 = some (req, none) ∧ s.again = [] ∧ s.retired = false ∧ s.plinthMay = true ∧ b = !s.pln.imageB ∧ r = { s with pln := { s.pln with staging := false } }) :=
  ⟨[3, 7], true, { pl [3, 7] with pln := { (pl [3, 7]).pln with staging := false } }, pl [3, 7], by decide⟩

theorem witness_MailboxAndFirmwareComplete_8 : ∃ (req : List Byte) (s : State),
    (s.mboxTake 3 = some (req, none) ∧ s.again = [] ∧ s.retired = false ∧ s.plinthMay = true) :=
  ⟨[3, 7], pl [3, 7], by decide⟩

theorem witness_MailboxAndFirmwareComplete_9 : ∃ (req : List Byte) (s : State),
    (s.pln.mbox = some (req, none) ∧ s.mboxServes = true ∧ s.again = []) ∧
    (req.getD 0 0 = 0 ∨ 7 ≤ (req.getD 0 0).toNat) :=
  ⟨[9, 7], pl [9, 7], by decide⟩

theorem witness_MailboxAndFirmwareComplete_10 : ∃ (b : Bool) (s : State),
    (s.boot.aonOut = true ∧ s.pln.running = true ∧ s.pln.pick = some b) :=
  ⟨false, st [] [] fun d => { d with boot := { d.boot with aonOut := true }, pln := { d.pln with running := true } }, by decide⟩

theorem witness_MailboxAndFirmwareComplete_11 : ∃ (s : State),
    (s.boot.aonOut = true ∧ s.pln.running = false ∧ s.pln.recovery = false ∧ s.pln.startT0 + 320000000 ≤ s.up) ∧
    (s.pln.triedOther = false ∧ (s.pln.image (!s.pln.imageB)).valid = true) :=
  ⟨st [] [] fun d => { d with boot := { d.boot with aonOut := true }, up := 320000000, pln := { d.pln with imageB := true } }, by decide⟩

theorem witness_MailboxAndFirmwareComplete_12 : ∃ (s : State),
    (s.boot.aonOut = true ∧ s.pln.running = false ∧ s.pln.recovery = false ∧ s.pln.startT0 + 320000000 ≤ s.up) ∧
    (s.pln.triedOther = true ∨ (s.pln.image (!s.pln.imageB)).valid = false) :=
  ⟨st [] [] fun d => { d with boot := { d.boot with aonOut := true }, up := 320000000 }, by decide⟩

theorem witness_MailboxAndFirmwareComplete_13 : ∃ (s : State),
    (s.boot.aonOut = true ∧ s.pln.running = false ∧ s.pln.recovery = false ∧ s.up ≤ s.pln.startT0 + 320000000 ∧ s.pln.held = []) :=
  ⟨st [] [] fun d => { d with boot := { d.boot with aonOut := true } }, by decide⟩

theorem witness_SuppliesAndResetsComplete_1 : ∃ (rail : Rail) (inWindow : Bool) (s : State),
    (rail ≠ .aon ∨ inWindow = true) :=
  ⟨.core, true, st [], by decide⟩

theorem witness_SuppliesAndResetsComplete_3 : ∃ (s : State),
    (s.boot.aonOut = true ∧ s.pln.running = true ∧ s.railsIn = true ∧ s.boot.supplyT0 + 3200000 ≤ s.up) :=
  ⟨st [] [] fun d => { d with up := 3200000, boot := { d.boot with aonOut := true, rails := allRails }, pln := { d.pln with running := true } }, by decide⟩

theorem witness_SuppliesAndResetsComplete_4 : ∃ (devid : BitVec 12) (b : Bool) (s : State),
    (s.boot.aonOut = false ∧ s.boot.rails.contains .aon = true ∧ s.boot.rails.contains .xo = true ∧ s.pln.pick = some b) :=
  ⟨5, false, st [] [] fun d => { d with boot := { d.boot with rails := allRails } }, by decide⟩

theorem witness_SuppliesAndResetsComplete_5 : ∃ (s : State),
    (s.boot.resetN = true ∧ s.pln.held = []) :=
  ⟨st [] [] fun d => { d with boot := { d.boot with resetN := true } }, by decide⟩

theorem witness_SuppliesAndResetsComplete_6 : ∃ (devid : BitVec 12) (p0x4x4 p1x4x4 : Bool) (s : State),
    (s.boot.resetN = false) :=
  ⟨5, true, false, st [], by decide⟩

theorem witness_SuppliesAndResetsComplete_7 : ∃ (devid : BitVec 12) (p0x4x4 p1x4x4 : Bool) (s : State),
    (s.boot.resetN = false ∧ s.boot.supplyOk = true ∧ s.pln.running = true ∧ s.pln.recovery = false ∧ s.boot.released = false) ∧
    (s.pln.st ≠ .deep) :=
  ⟨5, true, false, st [] [] fun d => { d with boot := { supplyOk := true }, pln := { d.pln with running := true } }, by decide⟩

theorem witness_StartSequenceCompletes_1 : ∃ (s : State),
    (s.phaseRuns 0 = true) :=
  ⟨st [] [] fun d => { d with boot := { released := true } }, by decide⟩

theorem witness_StartSequenceCompletes_2 : ∃ (q n : Nat) (s : State),
    (s.phaseRuns 1 = true ∧ s.sec.stored = some (q, n) ∧ n < 4) :=
  ⟨1, 1, st [] [] fun d => { d with boot := { released := true, done := [0] } }, by decide⟩

theorem witness_StartSequenceCompletes_3 : ∃ (s : State),
    (s.phaseRuns 1 = true ∧ s.sec.stored = none) :=
  ⟨st [] [] fun d => { d with boot := { released := true, done := [0] }, sec := { d.sec with lc0 := none, lc1 := none } }, by decide⟩

theorem witness_StartSequenceCompletes_4 : ∃ (s : State),
    (s.phaseRuns 2 = true) :=
  ⟨st [] [] fun d => { d with boot := { released := true, done := [0, 1] } }, by decide⟩

theorem witness_StartSequenceCompletes_5 : ∃ (s : State),
    (s.phaseRuns 3 = true) :=
  ⟨st [] [] fun d => { d with boot := { released := true, done := [0] } }, by decide⟩

theorem witness_StartSequenceCompletes_6 : ∃ (s : State),
    (s.phaseRuns 3 = true) :=
  ⟨st [] [] fun d => { d with boot := { released := true, done := [0] } }, by decide⟩

theorem witness_StartSequenceCompletes_7 : ∃ (bad : List (Bool × Clu)) (s : State),
    (s.phaseRuns 4 = true) :=
  ⟨[(false, 3)], st [] [] fun d => { d with boot := { released := true, done := [0, 1, 2] } }, by decide⟩

theorem witness_StartSequenceCompletes_8 : ∃ (s : State),
    (s.phaseRuns 5 = true ∧ ∀ k : Clu, s.awaitsMarch k = false) :=
  ⟨st [] [] fun d => { d with boot := { released := true, done := [0, 1, 2, 3] } }, by decide⟩

theorem witness_StartSequenceCompletes_9 : ∃ (k : Clu) (s : State),
    (s.phaseRuns 5 = true ∧ s.boot.csLoaded = [] ∧ s.awaitsMarch k = true) :=
  ⟨2, st [.seq 2] [(CL_STATE.MCHK 2, 1)] fun d => { d.modCl 2 fun c => { c with march := true } with boot := { released := true, done := [0, 1, 2, 3] } }, by decide⟩

theorem witness_StartSequenceCompletes_10 : ∃ (s : State),
    (s.phaseRuns 6 = true) :=
  ⟨st [] [] fun d => { d with boot := { released := true, done := [0, 1, 2, 3, 4, 5] } }, by decide⟩

theorem witness_StartSequenceCompletes_11 : ∃ (s : State),
    (s.phaseRuns 7 = true) :=
  ⟨st [] [] fun d => { d with boot := { released := true, done := [0, 1, 2, 3, 4, 5, 6] } }, by decide⟩

theorem witness_StartSequenceCompletes_12 : ∃ (s : State),
    (s.phaseRuns 8 = true ∧ s.boot.done = [0, 1, 2, 3, 4, 5, 6, 7]) :=
  ⟨st [] [] fun d => { d with boot := { released := true, done := [0, 1, 2, 3, 4, 5, 6, 7] } }, by decide⟩

end Sys2Proof.Tests
end

section
/-! SUPPORT. The reset state, and plain accesses of registers: what the cluster control pages hold after reset, what a
write does to a register without behaviour of its own, and what a read of a low word captures. -/

namespace Sys2Proof.Machine

/-! ### The registers after reset (R24, R351) -/

/-- No register is listed after reset, so each reads as its reset value. -/
@[simp] theorem State.reset_reg (key : Nat) : State.reset.reg key = regReset key := rfl

/-- An address inside a cluster's 1 MiB is looked up there (R24). -/
theorem placeOf_clu (k : Clu) {o : Nat} (h : o < 0x100000) : placeOf (clu k + o) = placeInCluster k o := by
  have hb : clu k = 0x1000000 + 0x100000 * k.val := rfl
  have hk : (clu k + o - 0x1000000) / 0x100000 = k.val := by omega
  have ho : (clu k + o) % 0x100000 = o := by omega
  unfold placeOf
  rw [dif_neg (by omega), if_neg (by omega), dif_pos (by omega)]
  simp only [hk, ho]

/-- The reset value of a register of a cluster control page stands in that page's table. -/
theorem regReset_ctl (k : Clu) {o : Nat} (h : o < 0x1000) :
    regReset (clu k + o) = BitVec.ofNat 32 (pageReset (.ctl k) o) := by
  have hb : clu k = 0x1000000 + 0x100000 * k.val := rfl
  have hk : (clu k + o) % 0x4000000 = clu k + o := by omega
  unfold regReset
  rw [hk, placeOf_clu k (by omega), placeInCluster, if_pos h]

/-- CL_CONFIG shows the cluster's number above the counts that all clusters share (01). -/
theorem regReset_CL_CONFIG (k : Clu) : (regReset (CL_CONFIG k)).toNat = 0x8902200 + 0x10000000 * k := by
  have hv : pageReset (.ctl k) 0x100 = 0x8902200 + 0x10000000 * k := rfl
  rw [regReset_ctl k (by omega), hv, BitVec.toNat_ofNat]
  omega

/-- CL_STATE counts the spares and shows the cluster's power as off (01). -/
theorem regReset_CL_STATE (k : Clu) : (regReset (CL_STATE k)).toNat = 0x40200 := by
  have hv : pageReset (.ctl k) 0x104 = 0x40200 := rfl
  rw [regReset_ctl k (by omega), hv]
  rfl

/-- A cluster after reset: its number, 68 physical and 64 logical channels, 34 TMUs, power off. -/
theorem State.reset_cluster (k : Clu) :
    State.reset.get (CL_CONFIG.CLUSTER k) = k ∧ State.reset.get (CL_CONFIG.PHYS_CH k) = 68
      ∧ State.reset.get (CL_CONFIG.LOG_CH k) = 64 ∧ State.reset.get (CL_CONFIG.TMU_CNT k) = 34
      ∧ State.reset.get (CL_STATE.PWR k) = 0 := by
  have hc := regReset_CL_CONFIG k
  have hs := regReset_CL_STATE k
  refine ⟨?_, ?_, ?_, ?_, ?_⟩
  all_goals
    rw [Dev.get_narrow _ (by simp), State.reset_reg]
    dsimp only
    omega

/-! ### A write of a register without behaviour of its own (R353) -/

/-- A word that is written stands in the register file, and its port and link are noted; nothing else changes. -/
theorem Dev.putWord_frame (d : Dev) (ss key : Nat) (r : Row) (val : Word) :
    ∃ regs ports, d.putWord ss key r val = { d with regs, ports } := by
  unfold Dev.putWord
  dsimp only
  split
  · exact ⟨_, _, rfl⟩
  · split <;> exact ⟨_, _, rfl⟩

/-- A write of a register that holds a writable bit and that is performed is a write of its plain bits. -/
theorem Dev.regWrite_of_lets {d : Dev} {ss : Nat} {pg : Page} {off : Nat} {r : Row} (hr : rowOf pg off = some r)
    (hf : r.fixed = false) (h : d.lets ss pg off r.who false = true) (val : Word) :
    d.regWrite ss pg off val = d.tracked pg fun d => d.plainWrite ss pg off val := by
  unfold Dev.regWrite
  rw [hr]
  dsimp only
  rw [if_neg (by simp [hf]), Dev.hostWrite_of_lets h]
  rfl

/-- A session whose write is performed has no access in wait (R18, R226). -/
theorem Dev.waits_of_lets {d : Dev} {ss : Nat} {pg : Page} {off : Nat} {who : Who} {cmd : Bool}
    (h : d.lets ss pg off who cmd = true) : d.waits ss = false := by
  simp only [Dev.lets, Bool.and_eq_true, Bool.not_eq_true'] at h
  obtain ⟨⟨⟨⟨⟨⟨⟨⟨⟨-, hw⟩, -⟩, -⟩, -⟩, -⟩, -⟩, -⟩, -⟩, -⟩ := h
  exact hw

/-- The router hands a write of a register of a cluster control page or a TMU page to the plain write, and no load of a
control store starts. -/
theorem State.busStore_plain {s : State} {ss : Sess} {addr off : Nat} {pg : Page} {k : Clu} {t : TmuId}
    (hp : pg = .ctl k ∨ pg = .tmu k t) (ha : placeOf addr = .page pg off) (ho : 0x20 ≤ off) (hw : s.waits ss = false)
    (val : Word) : s.busStore ss addr val = { s with toDev := s.regWrite ss pg off val } := by
  have hb : s.toDev.busWrite ss addr val = s.toDev.regWrite ss pg off val := by
    unfold Dev.busWrite
    rw [if_neg (by simp [hw]), ha]
    dsimp only
    rw [if_neg (by omega)]
    rcases hp with rfl | rfl <;> rfl
  unfold State.busStore State.upd
  dsimp only
  rw [ha, hb]
  rcases hp with rfl | rfl <;> rfl

/-- REGISTER_WRITE of a 32-bit register of a cluster control page or a TMU page, where it is performed, is a write of
the register's word that is remembered for its fabric cycle. -/
theorem execRegisterWrite_plain {s : State} {ss : Sess} {addr : BitVec 26} {off : Nat} {pg : Page} {k : Clu} {t : TmuId}
    {r : Row} (hp : pg = .ctl k ∨ pg = .tmu k t) (ha : placeOf addr.toNat = .page pg off) (h4 : addr.toNat % 4 = 0)
    (ho : 0x20 ≤ off) (hr : rowOf pg off = some r) (hf : r.fixed = false) (hs : r.pair = 0)
    (h : s.lets ss pg off r.who false = true) (val : Word) :
    execRegisterWrite ss addr val s
      = .next { s with toDev := s.tracked pg fun d => d.putWord ss (r.key pg off ss) r val } := by
  unfold execRegisterWrite
  rw [if_pos h4, State.busStore_plain hp ha ho (Dev.waits_of_lets h), Dev.regWrite_of_lets hr hf h]
  simp only [Dev.plainWrite_single hr hs]

/-! ### A read of a low word (R10) -/

/-- An index that a read advances is a field of a register: no access waits for it. -/
@[simp] theorem Dev.autoInc_stalled (d : Dev) (on : Bool) (f : Fld) (size : Nat) :
    (d.autoInc on f size).stalled = d.stalled := by
  unfold Dev.autoInc
  split <;> simp

/-- The capture of a frequency result by a session whose accesses need not wait adds none that waits. -/
theorem Dev.freqCapture_stalled {d : Dev} {ss : Nat} (hw : d.waits ss = false) (k : Nat) :
    (d.freqCapture ss k).stalled = d.stalled := by
  unfold Dev.freqCapture
  split
  · rfl
  · rw [if_neg (by simp [hw])]
    split <;> rfl

/-- What a read changes besides its capture: only the capture of a timing context may have to wait, for a slice (R312). -/
theorem Dev.readEffect_stalled {d : Dev} {ss : Nat} (hw : d.waits ss = false) {pg : Page} {off : Nat}
    (hc : ∀ k p, pg = .ch k p → off ≠ 0x1C4) : (d.readEffect ss pg off).stalled = d.stalled := by
  unfold Dev.readEffect
  split
  · rfl
  · cases pg with
    | dev n => dsimp only; split <;> simp
    | ch k p =>
      dsimp only
      rw [if_neg (by simp [hc k p rfl])]
      split <;> simp
    | tmu k t => dsimp only; split <;> simp
    | freq k => dsimp only; split <;> simp [Dev.freqCapture_stalled hw]
    | ctl k | seq k | arm k | pool k => rfl

/-- The register that captures a timing context is no low word of a pair (R102). -/
theorem ctxData_not_low {addr off : Nat} {k : Clu} {p : Phy} (ha : placeOf addr = .page (.ch k p) off)
    (hp : pairOf addr = 1) : off ≠ 0x1C4 := by
  rintro rfl
  have h0 : pairOf addr = 0 := by
    unfold pairOf
    rw [ha]
    rfl
  omega

/-- A read of a low word answers it and captures the high word of the same read, whatever the register does besides. -/
theorem State.busRead_low {s : State} {ss addr : Nat} (ha : s.acts ss = true) (hw : s.waits ss = false)
    (hp : pairOf addr = 1) :
    (s.busRead ss addr).reply = leBytes 4 (s.readReg ss addr).toNat
      ∧ (s.busRead ss addr).capt
        = tput (fun _ => none) s.capt (sessKey ss + addr + 4) (some (s.readReg ss (addr + 4))) := by
  have hst : ∀ pg off, placeOf addr = .page pg off → (s.readEffect ss pg off).stalled = s.stalled :=
    fun _ _ hpl => Dev.readEffect_stalled hw fun _ _ hpg => ctxData_not_low (hpg ▸ hpl) hp
  unfold State.busRead
  dsimp only
  rw [if_neg (by simp [ha]), if_neg (by simp [hw]), if_neg]
  · rw [if_pos hp, if_neg (by omega), Option.getD_none]
    exact ⟨rfl, rfl⟩
  · split
    · next hpl => simp [hst _ _ hpl]
    · simp

/-! ### Accesses that R350 does not allow -/

/-- A write at a page's offset by a session that acts is reported at the page's block. -/
theorem Dev.badAccess_write {d : Dev} {ss addr off : Nat} {pg : Page} (ha : d.acts ss = true)
    (hp : placeOf addr = .page pg off) : d.badAccess ss true addr = d.discard ss pg off := by
  unfold Dev.badAccess
  rw [if_neg (by simp), if_neg (by simp [ha]), hp]

/-! ### The obligations -/

/-- Settles O2: every register reads as its reset value, the clusters' from the table of their control page
(`State.reset_cluster`), and nothing else is listed anywhere. -/
theorem resetState : Obligations.ResetState := by
  unfold Obligations.ResetState
  refine ⟨fun key => ?_, State.reset_cluster, fun ss L n => ?_, ?_⟩
  · exact ⟨State.reset_reg key, rfl, rfl, rfl, rfl⟩
  · exact ⟨rfl, rfl, rfl, rfl, rfl⟩
  · exact ⟨rfl, rfl⟩

/-- Settles O16: a write is the plain write of its word (`execRegisterWrite_plain`), a read of a low word stalls on
nothing and captures the high word (`State.busRead_low`), a bad access is answered or discarded by the router. -/
theorem registerAccessesComplete : Obligations.RegisterAccessesComplete := by
  unfold Obligations.RegisterAccessesComplete
  refine ⟨?_, ?_, ?_, ?_⟩
  · intro ss k t addr off r val s pg hp ⟨ha, h4, ho⟩ ⟨hr, hf, hs⟩ h
    refine ⟨_, execRegisterWrite_plain hp ha h4 ho hr hf hs h val, fun key => ?_, ?_⟩
    · exact Dev.putWord_reg (Dev.outranked_of_lets h r) r val key
    · obtain ⟨regs, ports, hput⟩ := Dev.putWord_frame s.toDev ss (r.key pg off ss) r val
      unfold Dev.tracked Dev.trackedAt
      dsimp only
      rw [hput]
      exact ⟨rfl, rfl, rfl, rfl, rfl⟩
  · intro ss addr s ⟨h4, ha, hw, hp⟩
    obtain ⟨hreply, hcapt⟩ := State.busRead_low ha hw hp
    refine ⟨s.busRead ss addr.toNat, if_pos h4, hreply, ?_⟩
    rw [hcapt, tget_tput_same]
  · intro ss addr s
    rfl
  · intro ss addr pg off s ⟨ha, hp⟩
    rw [← Dev.badAccess_write ha hp]
    rfl

end Sys2Proof.Machine
end

section
/-! SUPPORT. What a command can do to the queue and to the two byte memories: it never touches the queue, and it changes a
memory only by writing bytes inside it or by clearing bytes, which keeps its canonical form. -/

namespace Sys2Proof.Machine

/-! ### Changes of the memories -/

/-- From `s` to `t` the queue stays, HBM changes only where `h` is set and NVM only where `n` is, and a memory in canonical
form stays in it. -/
structure State.Stores (h n : Bool) (s t : State) : Prop where
  queue : t.pending = s.pending
  hbm_eq : h = false → t.hbm = s.hbm
  nvm_eq : n = false → t.nvm = s.nvm
  hbm_wf : Memory.wf hbmDefault hbmSize s.hbm = true → Memory.wf hbmDefault hbmSize t.hbm = true
  nvm_wf : Memory.wf nvmDefault nvmSize s.nvm = true → Memory.wf nvmDefault nvmSize t.nvm = true

namespace State.Stores

variable {h n : Bool} {s t u : State}

/-- A change that leaves the queue and both memories alone. -/
theorem keep (hq : t.pending = s.pending) (hh : t.hbm = s.hbm) (hn : t.nvm = s.nvm) : Stores h n s t :=
  ⟨hq, fun _ => hh, fun _ => hn, fun w => hh ▸ w, fun w => hn ▸ w⟩

theorem refl (s : State) : Stores h n s s := keep rfl rfl rfl

theorem trans (a : Stores h n s t) (b : Stores h n t u) : Stores h n s u where
  queue := b.queue.trans a.queue
  hbm_eq e := (b.hbm_eq e).trans (a.hbm_eq e)
  nvm_eq e := (b.nvm_eq e).trans (a.nvm_eq e)
  hbm_wf w := b.hbm_wf (a.hbm_wf w)
  nvm_wf w := b.nvm_wf (a.nvm_wf w)

/-- A change of the device proper after a change of the memories. -/
theorem dev (a : Stores h n s t) (d : Dev) : Stores h n s { t with toDev := d } := a.trans (keep rfl rfl rfl)

/-- Only HBM changes. -/
theorem hbmOnly (hq : t.pending = s.pending) (hn : t.nvm = s.nvm)
    (hw : Memory.wf hbmDefault hbmSize s.hbm = true → Memory.wf hbmDefault hbmSize t.hbm = true) : Stores true n s t :=
  ⟨hq, fun e => absurd e (by simp), fun _ => hn, hw, fun w => hn ▸ w⟩

/-- Only NVM changes. -/
theorem nvmOnly (hq : t.pending = s.pending) (hh : t.hbm = s.hbm)
    (hw : Memory.wf nvmDefault nvmSize s.nvm = true → Memory.wf nvmDefault nvmSize t.nvm = true) : Stores h true s t :=
  ⟨hq, fun _ => hh, fun e => absurd e (by simp), fun w => hh ▸ w, hw⟩

/-- Bytes are written to HBM. -/
theorem hbmWrite (s : State) (d : Dev) (a : Nat) (bs : List Byte) :
    Stores true n s { s with toDev := d, hbm := writeBytes hbmDefault hbmSize s.hbm a bs } :=
  hbmOnly rfl rfl (wf_writeBytes _ _ _ _ _)

/-- Bytes of HBM are cleared. -/
theorem hbmClear (s : State) (d : Dev) (a len : Nat) :
    Stores true n s { s with toDev := d, hbm := clearBytes s.hbm a len } :=
  hbmOnly rfl rfl (wf_clearBytes _ _ _ _ _)

/-- HBM loses its contents. -/
theorem hbmLost (s : State) (d : Dev) : Stores true n s { s with toDev := d, hbm := [] } :=
  hbmOnly rfl rfl fun _ => rfl

/-- Bytes are written to NVM. -/
theorem nvmWrite (s : State) (d : Dev) (a : Nat) (bs : List Byte) :
    Stores h true s { s with toDev := d, nvm := writeBytes nvmDefault nvmSize s.nvm a bs } :=
  nvmOnly rfl rfl (wf_writeBytes _ _ _ _ _)

/-- Bytes of NVM are erased. -/
theorem nvmErase (s : State) (d : Dev) (a len : Nat) :
    Stores h true s { s with toDev := d, nvm := clearBytes s.nvm a len } :=
  nvmOnly rfl rfl (wf_clearBytes _ _ _ _ _)

/-- Bytes of NVM are erased and others written. -/
theorem nvmRewrite (s : State) (d : Dev) (a len b : Nat) (bs : List Byte) :
    Stores h true s { s with toDev := d, nvm := writeBytes nvmDefault nvmSize (clearBytes s.nvm a len) b bs } :=
  nvmOnly rfl rfl fun w => wf_writeBytes _ _ _ _ _ (wf_clearBytes _ _ _ _ _ w)

theorem ite {c : Prop} [Decidable c] (ht : Stores h n s t) (hu : Stores h n s u) : Stores h n s (if c then t else u) := by
  split <;> assumption

/-- A change repeated over a list. -/
theorem foldl {α : Type} {f : State → α → State} (hf : ∀ s x, Stores h n s (f s x)) (l : List α) (s : State) :
    Stores h n s (l.foldl f s) := by
  induction l generalizing s with
  | nil => exact refl s
  | cons x l ih => exact (hf s x).trans (ih _)

end State.Stores

open State (Stores)

variable {h n : Bool} (s : State)

/-! ### The Patina log and the firmware images (R40, R391) -/

theorem State.patinaLoad_stores : Stores h n s s.patinaLoad := .keep rfl rfl rfl

theorem State.patinaErase_stores (i : Nat) : Stores h true s (s.patinaErase i) := .nvmErase s _ _ _

theorem State.patinaPut_stores (r : PatinaRec) (ok : Bool) : Stores h true s (s.patinaPut r ok) :=
  (Stores.ite (s.patinaErase_stores _) (.refl s)).trans (.nvmWrite _ _ _ _)

theorem State.patinaCut_stores : Stores h true s s.patinaCut := by
  unfold State.patinaCut
  split
  · exact .refl s
  · dsimp only
    split
    · exact .keep rfl rfl rfl
    · exact .nvmRewrite s _ _ _ _ _

theorem State.fwStage_stores (ok : Bool) : Stores h true s (s.fwStage ok) := by
  unfold State.fwStage
  split
  · exact .refl s
  · refine .ite (.keep rfl rfl rfl) (.ite (.keep rfl rfl rfl) (.ite (.refl s) ?_))
    dsimp only
    split
    · exact .nvmWrite s _ _ _
    · exact .nvmRewrite s _ _ _ _ _

theorem State.fwCommit_stores (ok : Bool) : Stores h true s (s.fwCommit ok) := by
  unfold State.fwCommit
  split
  · exact .refl s
  · exact .ite (.keep rfl rfl rfl) (.ite (.refl s) (.ite (.keep rfl rfl rfl)
      (.ite (.nvmWrite s _ _ _) (.nvmWrite s _ _ _))))

/-! ### Caliper's banks (R254, R381) -/

theorem State.storeDone_stores (st : Store) (ok : Bool) : Stores h true s (s.storeDone st ok) := by
  unfold State.storeDone
  refine .ite (.nvmErase s _ _ _) (.ite (.nvmOnly rfl rfl fun w => ?_) (.nvmRewrite s _ _ _ _ _))
  exact wf_writeBytes _ _ _ _ _ (wf_writeBytes _ _ _ _ _ (wf_clearBytes _ _ _ _ _ w))

theorem State.restoreDone_stores : Stores h true s s.restoreDone := by
  unfold State.restoreDone
  dsimp only
  have inv : Stores h true s (if s.cal.bankA.valid && s.cal.bankB.valid then
      { s with
        toDev := (s.toDev.setBank (!s.cal.bInForce) {}).showBanks
        nvm := writeBytes nvmDefault nvmSize s.nvm (bankBase (!s.cal.bInForce) + 0x20) (leBytes 4 0) }
    else if s.cal.bankA.valid then
      { s with
        toDev := (s.toDev.setBank false {}).showBanks
        nvm := writeBytes nvmDefault nvmSize s.nvm (bankBase false + 0x20) (leBytes 4 0) }
    else if s.cal.bankB.valid then
      { s with
        toDev := (s.toDev.setBank true {}).showBanks
        nvm := writeBytes nvmDefault nvmSize s.nvm (bankBase true + 0x20) (leBytes 4 0) }
    else s) :=
    .ite (.nvmWrite s _ _ _) (.ite (.nvmWrite s _ _ _) (.ite (.nvmWrite s _ _ _) (.refl s)))
  exact .ite inv (inv.dev _)

theorem State.bankZero_stores (isB : Bool) : Stores h true s (s.bankZero isB) := .nvmWrite s _ _ _

theorem State.storeCut_stores : Stores h true s s.storeCut := by
  unfold State.storeCut
  split
  · exact .refl s
  · exact .ite (.ite (s.bankZero_stores _) (.ite (s.bankZero_stores _) (.refl s))) (.nvmRewrite s _ _ _ _ _)

theorem State.banksEnd_stores : Stores h true s s.banksEnd := by
  unfold State.banksEnd
  refine .nvmOnly rfl rfl fun w => ?_
  have wA : Memory.wf nvmDefault nvmSize (if s.cal.bankA.valid then
      writeBytes nvmDefault nvmSize s.nvm (bankBase false + 0x20) (leBytes 4 0) else s.nvm) = true := by
    split
    · exact wf_writeBytes _ _ _ _ _ w
    · exact w
  dsimp only
  split
  · exact wf_writeBytes _ _ _ _ _ wA
  · exact wA

/-! ### The repair record (R324 to R326) -/

theorem State.appendRecord_stores (i : Nat) (r : RepairRec) (ok : Bool) : Stores h true s (s.appendRecord i r ok) := by
  unfold State.appendRecord
  exact .ite (.keep rfl rfl rfl) (.ite (.nvmWrite s _ _ _) (.nvmWrite s _ _ _))

theorem State.recordWritten_stores (ok : Bool) : Stores h true s (s.recordWritten ok) := by
  unfold State.recordWritten
  dsimp only
  split
  · exact .refl s
  · refine .ite (.refl s) (.ite ((s.appendRecord_stores _ _ _).dev _) ?_)
    exact .ite ((s.appendRecord_stores _ _ _).dev _) ((s.appendRecord_stores _ _ _).dev _)

theorem State.writeCopy_stores (i : Nat) (rs : List RepairRec) (ok : Bool) : Stores h true s (s.writeCopy i rs ok) := by
  unfold State.writeCopy
  exact .ite (.nvmRewrite s _ _ _ _ _) (.nvmRewrite s _ _ _ _ _)

theorem State.compacted_stores (ok0 ok1 : Bool) : Stores h true s (s.compacted ok0 ok1) := by
  unfold State.compacted
  refine .ite (.refl s) ?_
  dsimp only
  generalize (s.toDev.bist.live.zip _).map _ = rs
  have copies : Stores h true s (if ok1 then (s.writeCopy 1 rs ok1).writeCopy 0 rs ok0 else s.writeCopy 1 rs ok1) :=
    .ite ((s.writeCopy_stores _ _ _).trans (State.writeCopy_stores _ _ _ _)) (s.writeCopy_stores _ _ _)
  split
  · exact .ite (copies.dev _) (copies.dev _)
  · exact copies.dev _

theorem State.recordCut_stores : Stores h true s s.recordCut := by
  unfold State.recordCut
  exact .ite (.ite (.keep rfl rfl rfl) (((Stores.refl s).dev _).trans (State.writeCopy_stores _ _ _ _)))
    (s.recordWritten_stores _)

/-! ### The fault rings (R334, R337) -/

theorem State.mirrorWrite_stores (m : Msg) (ok : Bool) (ss : Nat) : Stores true n s (s.mirrorWrite m ok ss) := by
  unfold State.mirrorWrite
  refine .ite (.refl s) ?_
  dsimp only
  split
  · exact .hbmWrite s _ _ _
  · exact .keep rfl rfl rfl

theorem State.devRingWrite_stores (m : Msg) (ok : Bool) : Stores true n s (s.devRingWrite m ok) := by
  unfold State.devRingWrite
  dsimp only
  generalize s.flt.device.room devRingSize m = fits
  cases fits
  · exact .keep rfl rfl rfl
  · exact .hbmWrite s _ _ _

/-- A message goes to the device ring and to the mirrors of its recipients. -/
theorem State.ringsWrite_stores (m : Msg) (ok : Bool) :
    Stores true n s (m.dest.foldl (fun s ss => s.mirrorWrite m ok ss) (s.devRingWrite m ok)) :=
  (s.devRingWrite_stores m ok).trans (.foldl (fun s ss => s.mirrorWrite_stores m ok ss) _ _)

theorem State.faultRingWrite_stores (ok : Bool) : Stores true n s (s.faultRingWrite ok) := by
  unfold State.faultRingWrite
  split
  · exact .refl s
  · split
    · exact .refl s
    · dsimp only
      have rings := fun (d : Dev) (m : Msg) =>
        ((Stores.refl (h := true) (n := n) s).dev d).trans (State.ringsWrite_stores _ m ok)
      exact .ite (rings _ _) ((rings _ _).dev _)

theorem State.drainFaults_stores : Stores true n s s.drainFaults :=
  ((Stores.refl s).dev _).trans ((Stores.keep rfl rfl rfl).trans
    (.foldl (fun s m => s.ringsWrite_stores m true) _ _))

/-! ### Result rings, the BAR2 window and allocations (R360, R366, R367, R262) -/

theorem State.recordWrite_stores (k i : Nat) (body : BitVec 128) (ok : Bool) :
    Stores true n s (s.recordWrite k i body ok) := by
  unfold State.recordWrite
  dsimp only
  split
  · exact .keep rfl rfl rfl
  · refine .ite (.keep rfl rfl rfl) ?_
    split
    · exact .keep rfl rfl rfl
    · exact .hbmWrite s _ _ _

theorem State.hbmGrant_stores (e : EccOutcome) : Stores true n s (s.hbmGrant e) := by
  unfold State.hbmGrant
  dsimp only
  split
  · exact .keep rfl rfl rfl
  · split
    · exact ((Stores.refl s).dev _).trans (State.recordWrite_stores _ _ _ _ _)
    · exact .keep rfl rfl rfl

theorem State.drainBatch_stores (i : Nat) : Stores h n s (s.drainBatch i) := by
  unfold State.drainBatch
  split
  · exact .refl s
  · exact .ite (.refl s) (.keep rfl rfl rfl)

theorem State.allocClear_stores (a : Alloc) : Stores true n s (s.allocClear a) := .hbmClear s _ _ _

theorem State.sessionResetDone_stores (ss : Nat) : Stores true n s (s.sessionResetDone ss) := by
  unfold State.sessionResetDone
  exact .ite (.refl s) (((Stores.refl s).dev _).trans (.foldl (fun s a => s.allocClear_stores a) _ _))

theorem State.bar2Read_stores (ss a len : Nat) : Stores h n s (s.bar2Read ss a len) := by
  unfold State.bar2Read
  exact .ite (.keep rfl rfl rfl) (.keep rfl rfl rfl)

/-- A BAR2 write stores its bytes one by one. -/
theorem Dev.bar2Store_wf (d : Dev) (ss a : Nat) (bs : List Byte) (m : List Host.Cell)
    (w : Memory.wf hbmDefault hbmSize m = true) : Memory.wf hbmDefault hbmSize (d.bar2Store m ss a bs) = true := by
  induction bs generalizing m a with
  | nil => exact w
  | cons b bs ih =>
    refine ih _ _ ?_
    split
    · exact w
    · exact wf_writeByte _ _ _ _ _ w

theorem State.bar2Write_stores (ss a : Nat) (bytes : List Byte) (ep : Bool) :
    Stores true n s (s.bar2Write ss a bytes ep) := by
  unfold State.bar2Write
  exact .ite (.refl s) (.ite (.keep rfl rfl rfl) (.hbmOnly rfl rfl (Dev.bar2Store_wf _ _ _ _ _)))

/-- Posted operations store their bytes. -/
theorem hbmPost_wf (rd : List Host.Cell → Nat → Byte) (ps : List (Nat × Option (List Byte))) (m : List Host.Cell)
    (buf : List Byte) (w : Memory.wf hbmDefault hbmSize m = true) :
    Memory.wf hbmDefault hbmSize (hbmPost rd m buf ps).1 = true := by
  induction ps generalizing m buf with
  | nil => exact w
  | cons p ps ih =>
    obtain ⟨a, b⟩ := p
    cases b with
    | none => exact ih _ _ w
    | some b => exact ih _ _ (wf_writeBytes _ _ _ _ _ w)

/-! ### Control-store images (R150, R400) -/

theorem State.latchLoads_stores : Stores h n s s.latchLoads := by
  refine .foldl (fun s k => ?_) _ _
  split
  · exact .refl s
  · exact .ite (.refl s) (.keep rfl rfl rfl)

theorem State.loadDefault_stores (ks : List Nat) : Stores true n s (s.loadDefault ks) := by
  unfold State.loadDefault
  split
  · exact .keep rfl rfl rfl
  · next b _ =>
    refine .hbmOnly rfl rfl fun w => ?_
    exact List.foldlRecOn ks _ (motive := fun m => Memory.wf hbmDefault hbmSize m = true) w
      fun m hm k _ => wf_writeBytes _ _ b _ _ hm

/-! ### Lifecycle, resets and power (R374, R384, R394, R404) -/

theorem State.retire_stores : Stores h true s s.retire :=
  ((Stores.refl s).dev _).trans ((State.banksEnd_stores _).dev _)

theorem State.lcDone_stores : Stores h true s s.lcDone := by
  unfold State.lcDone
  split
  · exact .refl s
  · exact .ite (.refl s) (.ite (((Stores.refl s).dev _).trans (State.retire_stores _)) (.keep rfl rfl rfl))

theorem State.nvmCut_stores : Stores h true s s.nvmCut :=
  (Stores.ite s.recordCut_stores (.refl s)).trans (((Stores.refl _).dev _).trans (State.storeCut_stores _))

theorem State.devReset_stores : Stores true true s s.devReset := s.nvmCut_stores.trans (.hbmLost _ _)

theorem State.recover_stores : Stores true true s s.recover := (Stores.ite s.devReset_stores (.refl s)).dev _

theorem State.plinthStart_stores : Stores true true s s.plinthStart := by
  unfold State.plinthStart
  split
  · exact s.recover_stores
  · exact s.patinaLoad_stores.dev _

theorem State.startTimeout_stores : Stores true true s s.startTimeout := by
  unfold State.startTimeout
  exact .ite (.refl s) (.ite s.recover_stores (.keep rfl rfl rfl))

theorem State.powerOff_stores : Stores true true s s.powerOff :=
  (s.nvmCut_stores.trans (State.patinaCut_stores _)).trans (.hbmLost _ _)

theorem State.supply_stores (r : Rail) (inW : Bool) : Stores true true s (s.supply r inW) := by
  unfold State.supply
  exact .ite (((Stores.refl s).dev _).trans (State.powerOff_stores _)) (.ite (.keep rfl rfl rfl) (.keep rfl rfl rfl))

theorem State.aonRelease_stores (devid : BitVec 12) : Stores true true s (s.aonRelease devid) := by
  unfold State.aonRelease
  exact .ite (.refl s) (((Stores.refl s).dev _).trans (State.plinthStart_stores _))

theorem State.resetAssert_stores : Stores true true s s.resetAssert := by
  unfold State.resetAssert
  exact .ite (.refl s) (s.devReset_stores.dev _)

theorem State.hardTrip_stores (what : Nat) : Stores true true s (s.hardTrip what) := by
  unfold State.hardTrip
  exact .ite (.refl s) (s.devReset_stores.dev _)

theorem State.deepEntry_stores : Stores true n s s.deepEntry := s.drainFaults_stores.trans (.hbmClear _ _ _ _)

theorem State.wakeShort_stores (on : Bool) : Stores true n s (s.wakeShort on) :=
  (((Stores.refl s).dev _).trans (State.loadDefault_stores _ _)).dev _

theorem State.deepWake_stores (ok : Bool) : Stores true n s (s.deepWake ok) := by
  unfold State.deepWake
  dsimp only
  split
  · refine .ite (.refl s) (.ite (.keep rfl rfl rfl) (.ite (.keep rfl rfl rfl) (.ite ?_ (.keep rfl rfl rfl))))
    exact ((Stores.refl s).dev _).trans (State.wakeShort_stores _ _)
  · exact .refl s

/-! ### Accesses of registers (R10, R18, R379) -/

theorem State.busStore_stores (ss : Sess) (addr : Nat) (val : Word) : Stores h n s (s.busStore ss addr val) := by
  unfold State.busStore
  dsimp only
  split
  · exact ((Stores.refl s).dev _).trans (State.latchLoads_stores _)
  · exact .keep rfl rfl rfl

theorem State.busRead_stores (ss addr : Nat) : Stores h n s (s.busRead ss addr) := by
  unfold State.busRead
  exact .ite (.keep rfl rfl rfl) (.ite (.keep rfl rfl rfl) (.ite (.keep rfl rfl rfl) (.keep rfl rfl rfl)))

theorem State.unstall_stores (x : Stalled) : Stores h n s (s.unstall x) :=
  (Stores.ite (s.busRead_stores _ _) (.foldl (fun s _ => s.busStore_stores _ _ _) _ _)).dev _

theorem State.unstallAll_stores : Stores h n s s.unstallAll :=
  ((Stores.refl s).dev _).trans (.foldl State.unstall_stores _ _)

theorem State.dbgAccess_stores (dr : BitVec 104) : Stores h n s (s.dbgAccess dr) := by
  unfold State.dbgAccess
  exact .ite (.keep rfl rfl rfl) (.ite (.ite (.keep rfl rfl rfl) (.keep rfl rfl rfl))
    (.ite (.keep rfl rfl rfl) (.keep rfl rfl rfl)))

end Sys2Proof.Machine
end

section
/-! SUPPORT. Every command's effect on the queue and the memories, and where a command stops. -/

namespace Sys2Proof.Machine

open State (Stores)

/-! ### What a command answers -/

/-- The state that the command answers, if any, is reached from `s` by stores alone. -/
def State.StoresIn (h n : Bool) (s : State) (r : Result) : Prop := ∀ t, r = .next t → Stores h n s t

namespace State.StoresIn

variable {h n : Bool} {s t : State} {a b : Result}

theorem next (ht : Stores h n s t) : StoresIn h n s (.next t) := fun _ e => by cases e; exact ht

theorem fault (f : Fault) : StoresIn h n s (.fault f) := fun _ e => by cases e

/-- A command that changes only the device proper. -/
theorem on (f : Dev → Dev) : StoresIn h n s (s.on f) := next (.keep rfl rfl rfl)

theorem ite {c : Prop} [Decidable c] (ha : StoresIn h n s a) (hb : StoresIn h n s b) :
    StoresIn h n s (if c then a else b) := by
  split <;> assumption

/-- What a command that changes only the device proper answers: the queue and the memories as they were. -/
def memories : Result → Option (List Instr × List Host.Cell × List Host.Cell)
  | .next t => some (t.pending, t.hbm, t.nvm)
  | _ => none

theorem of_memories (e : memories a = some (s.pending, s.hbm, s.nvm)) : StoresIn h n s a := by
  rintro t rfl
  simp only [memories, Option.some.injEq, Prod.mk.injEq] at e
  exact .keep e.1 e.2.1 e.2.2

end State.StoresIn

/-! ### The commands whose meaning has cases of its own -/

section
open State (StoresIn)

variable {h n : Bool} (s : State)

theorem execPatinaAppend_stores (offset : Word) (temp : BitVec 16) (spread : Word) (ok : Bool) :
    StoresIn h true s (execPatinaAppend offset temp spread s ok) :=
  .ite (.next (.refl s)) (.next (((Stores.ite (s.patinaPut_stores _ _) (.refl s)).trans
    (State.patinaPut_stores _ _ _)).dev _))

theorem execPeHbmFree_stores : StoresIn true n s (execPeHbmFree s) := by
  unfold execPeHbmFree
  split
  · exact .next (.refl s)
  · refine .ite (.next (.refl s)) ?_
    split
    · exact .on _
    · exact .ite (.on _) (.next ((s.allocClear_stores _).dev _))

theorem execCalStoreDone_stores (ok : Bool) : StoresIn h true s (execCalStoreDone ok s) := by
  unfold execCalStoreDone
  split
  · exact .next (.refl s)
  · refine .ite (.next (.refl s)) (.next (Stores.dev ?_ _))
    exact .ite (.ite s.restoreDone_stores (.keep rfl rfl rfl)) (s.storeDone_stores _ _)

theorem execHbmsyncComplete_stores (k : Clu) (level : Fin 3) (poison : Bool) :
    StoresIn true n s (execHbmsyncComplete k level poison s) :=
  .ite (.next (.refl s)) (.next (.hbmOnly rfl rfl (hbmPost_wf _ _ _ _)))

theorem execPowerTransitionDone_stores : StoresIn true n s (execPowerTransitionDone s) := by
  unfold execPowerTransitionDone
  dsimp only
  split
  · exact .next (.ite s.deepEntry_stores (.refl s))
  · exact .next (.ite s.deepEntry_stores (.refl s))
  · exact .ite (.on _) (.next (.refl s))
  · exact .ite (.on _) (.next (.refl s))
  · exact .ite (.on _) (.next (.refl s))
  · exact .ite (.on _) (.next (.refl s))
  · exact .next (.refl s)

theorem execLoadCopyDone_stores (k : Clu) (poison : Bool) : StoresIn true n s (execLoadCopyDone k poison s) := by
  unfold execLoadCopyDone
  have stopped := fun d => StoresIn.next (((Stores.refl (h := true) (n := n) s).dev d).trans (State.latchLoads_stores _))
  split
  · exact .next (.refl s)
  · exact .ite (.next (.refl s)) (.ite (stopped _) (.ite (stopped _) (.next (.hbmWrite s _ _ _))))

/-- The device region is cleared (R399). -/
theorem execPhaseHbmDone_stores (ok : Bool) : StoresIn true n s (execPhaseHbmDone ok s) :=
  .ite (.next (.refl s)) (.ite
    (.next (.hbmOnly rfl rfl fun w => wf_clearBytes _ _ _ _ _ (wf_clearBytes _ _ _ _ _ w))) (.on _))

/-- A change of the device proper, after which the loads that begin take their images. -/
theorem latched_stores (d : Dev) : StoresIn h n s (.next ({ s with toDev := d } : State).latchLoads) :=
  .next (((Stores.refl s).dev d).trans (State.latchLoads_stores _))

/-- A change of the device proper, after which the accesses that waited are performed. -/
theorem unstalled_stores (d : Dev) : Stores h n s ({ s with toDev := d } : State).unstallAll :=
  ((Stores.refl s).dev d).trans (State.unstallAll_stores _)

end

/-- What a command can do to the queue and the memories. Each arm is the operation that the command goes through; a command
that is not named here changes only the device proper. -/
theorem exec_stores (i : Instr) (s : State) : s.StoresIn (touches i .hbm) (touches i .nvm) (exec i s) := by
  cases i with
  | registerWrite ss addr val => exact .ite (.next (s.busStore_stores _ _ _)) (.on _)
  | reg64LowRead ss addr => exact .ite (.next (s.busRead_stores _ _)) (.on _)
  | patinaAppend offset temp spread ok => exact execPatinaAppend_stores s offset temp spread ok
  | peHbmFree => exact execPeHbmFree_stores s
  | calStoreDone ok => exact execCalStoreDone_stores s ok
  | uHbmrd k w => exact .ite (.fault _) (.on _)
  | uHbmwr k w => exact .ite (.fault _) (.on _)
  | hbmsyncComplete k level poison => exact execHbmsyncComplete_stores s k level poison
  | repairRecordWritten ok => exact .next (s.recordWritten_stores ok)
  | compactionDone ok0 ok1 => exact .next (s.compacted_stores ok0 ok1)
  | faultRingWrite ok => exact .next (s.faultRingWrite_stores ok)
  | hbmGrant ecc => exact .next (s.hbmGrant_stores ecc)
  | drainBatch ring => exact .next (s.drainBatch_stores _)
  | sessionResetDone ss => exact .next (s.sessionResetDone_stores ss)
  | bar2Read ss addr len => exact .next (s.bar2Read_stores ss _ len)
  | bar2Write ss addr bytes ep => exact .next (s.bar2Write_stores ss _ bytes ep)
  | powerTransitionDone => exact execPowerTransitionDone_stores s
  | lifecycleRecordDone => exact .next s.lcDone_stores
  | plinthRestart => exact .ite (.next s.plinthStart_stores) (.next (.refl s))
  | fwStartTimeout => exact .next s.startTimeout_stores
  | supplyChange rail inWindow => exact .next (s.supply_stores rail inWindow)
  | aonRstRelease devid => exact .next (s.aonRelease_stores devid)
  | resetNAssert => exact .next s.resetAssert_stores
  | seqLoad ss k val => exact latched_stores s _
  | seqLoadAbort ss k val => exact latched_stores s _
  | loadCheckDone k => exact latched_stores s _
  | loadInstallDone k bad => exact latched_stores s _
  | loadCopyDone k poison => exact execLoadCopyDone_stores s k poison
  | phaseHbmDone ok => exact execPhaseHbmDone_stores s ok
  | phaseCalDone bad => exact .ite (.next (.keep rfl rfl rfl)) (.next (.refl s))
  | phaseCstoreDone verify => exact .ite (.next (.refl s)) (.next ((s.loadDefault_stores _).dev _))
  | deepWake ok => exact .next (s.deepWake_stores ok)
  | hardwareTrip what => exact .next (s.hardTrip_stores _)
  | mboxFwStage ok => exact .next (s.fwStage_stores ok)
  | mboxFwCommit ok => exact .next (s.fwCommit_stores ok)
  | loopCheckDone => exact .next (unstalled_stores s _)
  | sliceStepDone slot data bad poison => exact .next (.ite (unstalled_stores s _) (.keep rfl rfl rfl))
  | dbgAccess dr => exact .ite (.next ((s.dbgAccess_stores dr).trans (State.latchLoads_stores _))) (.on _)
  | dbgClusterStep k => exact .ite (.on _) (.ite (.fault _) (.next (.keep rfl rfl rfl)))
  | _ => exact .of_memories rfl

/-- What a step can do to the memories: an idle step changes only the device proper. -/
theorem step_stores {s t : State} (e : step s = .next t) :
    (Memory.wf hbmDefault hbmSize s.hbm = true → Memory.wf hbmDefault hbmSize t.hbm = true)
      ∧ (Memory.wf nvmDefault nvmSize s.nvm = true → Memory.wf nvmDefault nvmSize t.nvm = true) := by
  unfold step at e
  split at e
  · cases e
    exact ⟨id, id⟩
  · have h := exec_stores _ _ t e
    exact ⟨h.hbm_wf, h.nvm_wf⟩

/-! ### Where a command stops -/

/-- The command answers a next state. -/
def answersNext : Result → Bool
  | .next _ => true
  | _ => false

theorem answersNext_ite {c : Prop} [Decidable c] {a b : Result} (ha : answersNext a = true) (hb : answersNext b = true) :
    answersNext (if c then a else b) = true := by
  split <;> assumption

theorem execPeHbmFree_answersNext (s : State) : answersNext (execPeHbmFree s) = true := by
  unfold execPeHbmFree
  split
  · rfl
  · refine answersNext_ite rfl ?_
    split
    · rfl
    · exact answersNext_ite rfl rfl

theorem execCalStoreDone_answersNext (s : State) (ok : Bool) : answersNext (execCalStoreDone ok s) = true := by
  unfold execCalStoreDone
  split
  · rfl
  · exact answersNext_ite rfl rfl

theorem execPowerTransitionDone_answersNext (s : State) : answersNext (execPowerTransitionDone s) = true := by
  unfold execPowerTransitionDone
  dsimp only
  split
  · rfl
  · rfl
  · exact answersNext_ite rfl rfl
  · exact answersNext_ite rfl rfl
  · exact answersNext_ite rfl rfl
  · exact answersNext_ite rfl rfl
  · rfl

theorem execLoadCopyDone_answersNext (s : State) (k : Clu) (poison : Bool) : answersNext (execLoadCopyDone k poison s) = true := by
  unfold execLoadCopyDone
  split
  · rfl
  · exact answersNext_ite rfl (answersNext_ite rfl (answersNext_ite rfl rfl))

/-- The command's microword reaches outside HBM, or it steps a halted engine that a debug level of 2 lets it step (R141,
R379). -/
def mayStop (i : Instr) (s : State) : Prop :=
  (∃ k w, i = .uHbmrd k w ∧ s.hbmOutside k 0x2A w = true) ∨ (∃ k w, i = .uHbmwr k w ∧ s.hbmOutside k 0x2B w = true)
    ∨ ∃ k, i = .dbgClusterStep k ∧ 2 ≤ s.dbgLevel ∧ (s.cl k).halted = true

/-- A debug step stops only where the engine is halted and the level allows it. -/
theorem execDbgClusterStep_answersNext (s : State) (k : Clu) : answersNext (execDbgClusterStep k s) = true
    ∨ (execDbgClusterStep k s = .fault .hbmAddress ∧ 2 ≤ s.dbgLevel ∧ (s.cl k).halted = true) := by
  unfold execDbgClusterStep
  dsimp only
  split
  · exact .inl rfl
  · next hc =>
    simp only [Bool.or_eq_true, decide_eq_true_eq, Bool.not_eq_true', not_or, not_lt, Bool.not_eq_false] at hc
    obtain ⟨⟨hlevel, -⟩, hhalt⟩ := hc
    split
    · exact .inr ⟨rfl, hlevel, hhalt⟩
    · exact .inl rfl

/-- A command goes on, or it stops with the one fault where its microword reaches outside HBM. -/
theorem exec_answersNext_or (i : Instr) (s : State) :
    answersNext (exec i s) = true ∨ (exec i s = .fault .hbmAddress ∧ mayStop i s) := by
  cases i with
  | uHbmrd k w =>
    change answersNext (execUHbmrd k w s) = true ∨ (execUHbmrd k w s = _ ∧ _)
    unfold execUHbmrd
    split
    · next ho => exact .inr ⟨rfl, .inl ⟨k, w, rfl, ho⟩⟩
    · exact .inl rfl
  | uHbmwr k w =>
    change answersNext (execUHbmwr k w s) = true ∨ (execUHbmwr k w s = _ ∧ _)
    unfold execUHbmwr
    split
    · next ho => exact .inr ⟨rfl, .inr (.inl ⟨k, w, rfl, ho⟩)⟩
    · exact .inl rfl
  | dbgClusterStep k =>
    exact (execDbgClusterStep_answersNext s k).imp_right fun ⟨hf, hl, hh⟩ => ⟨hf, .inr (.inr ⟨k, rfl, hl, hh⟩)⟩
  | peHbmFree => exact .inl (execPeHbmFree_answersNext s)
  | calStoreDone ok => exact .inl (execCalStoreDone_answersNext s ok)
  | powerTransitionDone => exact .inl (execPowerTransitionDone_answersNext s)
  | loadCopyDone k poison => exact .inl (execLoadCopyDone_answersNext s k poison)
  | registerWrite ss addr val => exact .inl (answersNext_ite rfl rfl)
  | reg64LowRead ss addr => exact .inl (answersNext_ite rfl rfl)
  | patinaAppend offset temp spread ok => exact .inl (answersNext_ite rfl rfl)
  | hbmsyncComplete k level poison => exact .inl (answersNext_ite rfl rfl)
  | plinthRestart => exact .inl (answersNext_ite rfl rfl)
  | phaseHbmDone ok => exact .inl (answersNext_ite rfl (answersNext_ite rfl rfl))
  | phaseCalDone bad => exact .inl (answersNext_ite rfl rfl)
  | phaseCstoreDone verify => exact .inl (answersNext_ite rfl rfl)
  | dbgAccess dr => exact .inl (answersNext_ite rfl rfl)
  | _ => exact .inl rfl

/-! ### The obligations -/

/-- Settles O3: the queue's front command stores bytes inside a memory or clears them (`exec_stores`), and an idle step
stores nothing. -/
theorem everyStepKeepsMemory : Obligations.EveryStepKeepsMemory := by
  unfold Obligations.EveryStepKeepsMemory
  intro s t ⟨hh, hn⟩ e
  obtain ⟨keepsHbm, keepsNvm⟩ := step_stores e
  exact ⟨keepsHbm hh, keepsNvm hn⟩

/-- Settles O4: a command that does not go on stops with the one fault (`exec_answersNext_or`). -/
theorem stopsOnlyOutsideHbm : Obligations.StopsOnlyOutsideHbm := by
  unfold Obligations.StopsOnlyOutsideHbm
  refine ⟨fun i s r e => ?_, fun i s f e => ?_⟩
  · rcases exec_answersNext_or i s with h | ⟨h, -⟩ <;> rw [e] at h <;> cases h
  · rcases exec_answersNext_or i s with h | ⟨h, hstop⟩ <;> rw [e] at h <;> cases h
    exact ⟨rfl, hstop⟩

/-- Settles O5: no store reaches the queue, and a command stores in the memories that `touches` names (`exec_stores`). -/
theorem commandsKeepQueueAndMemories : Obligations.CommandsKeepQueueAndMemories := by
  unfold Obligations.CommandsKeepQueueAndMemories
  intro i s t e
  have h := exec_stores i s t e
  exact ⟨h.queue, h.hbm_eq, h.nvm_eq⟩

end Sys2Proof.Machine
end

