-- ==== Sys2Proof/Proofs/Pages.lean ====
section
/-! SUPPORT. A page claim by a session whose ATTR has no place in PAGE_OWNER (R352): the model keeps ATTR as
a number without a bound, and PAGE_CLAIM adds 256 times the number to the word it writes, so that an ATTR of 4
carries into the bit above the field, which is OWNED. -/

namespace Sys2Proof.Machine

/-- Session 0 is live with ATTR 4, and no session owns the sequencer page of cluster 0. -/
def attrFour : State :=
  Tests.st [.seq 0] [(PAGE_OWNER.OWNED (Page.base (.seq 0)), 0)] fun d => { d with sess := [(0, { live := true, attr := 4 })] }

theorem attrFour_mayClaim : attrFour.lets 0 (.seq 0) 0x10 .any false = true
    ∧ (Page.claimable (.seq 0) = true ∧ attrFour.owner (.seq 0) = none ∧ attrFour.claimMay 0 (.seq 0) = true) := by
  decide

/-- The claim is performed and its word has OWNED clear: 256 * 4 and the bit of OWNED are the same 1,024. -/
theorem pageClaim_attrFour_unowned (t : State) (e : exec (.pageClaim 0 (.seq 0)) attrFour = .next t) :
    t.owner (.seq 0) = none := by
  cases e
  decide

/-- Refutes O17: after session 0, which holds ATTR 4, claims a page that nobody owns, nobody owns it. -/
theorem not_pagesComplete : ¬ Obligations.PagesComplete := by
  unfold Obligations.PagesComplete
  intro ⟨_, _, _, claims, _⟩
  obtain ⟨hlets, hmay⟩ := attrFour_mayClaim
  obtain ⟨t, e, howner, _⟩ := claims 0 (.seq 0) attrFour hlets hmay
  rw [pageClaim_attrFour_unowned t e] at howner
  cases howner

end Sys2Proof.Machine
end

