-- ==== Sys2Proof/Proofs/FaultCollector.lean ====
section
/-! SUPPORT. The fault collector's operations, one equation each: what a collect, a ring write, a write of FLT_TAIL, of
FLT_WIN_SEL and of a sticky word, and an injection leave in the collector's registers, queue and rings (R333 to R343). -/

namespace Sys2Proof.Machine
variable {d : Dev}

/-! ### Collection, the device ring and its tail (R334 to R338) -/

/-- A real message leaves its source's buffer for the collector's queue. -/
theorem Dev.fltTake_real {m : Msg} (hi : m.inj = false) : d.fltTake m = { d with flt := { d.flt with
    sources := tput (fun _ => {}) d.flt.sources m.source { d.source m.source with buf := none }
    queue := d.flt.queue ++ [m] } } := by
  unfold Dev.fltTake
  rw [if_neg (by simp [hi])]
  rfl

/-- The collector takes the one real message that waits, if the cycle's 8 are not used up and its queue has room. -/
theorem Dev.faultCollect_single {m : Msg} (hm : d.fltWaiting = [m]) (hi : m.inj = false)
    (hq : d.flt.queue.length < 4096) (ht : d.flt.took.1 ≠ d.cycle ∨ d.flt.took.2 < 8) :
    d.faultCollect.flt.queue = d.flt.queue ++ [m] ∧ (d.faultCollect.source m.source).buf = none := by
  have hlen : 0 < min (8 - if d.flt.took.1 = d.cycle then d.flt.took.2 else 0) (4096 - d.flt.queue.length) := by
    split <;> omega
  obtain ⟨n, hn⟩ := Nat.exists_eq_add_of_lt hlen
  unfold Dev.faultCollect
  simp only [hm, hn, Nat.zero_add, List.take_succ_cons, List.take_nil, List.foldl_cons, List.foldl_nil,
    Dev.fltTake_real hi]
  exact ⟨trivial, by simp [Dev.source, tget_tput_same]⟩

theorem leBytes_length (n v : Nat) : (leBytes n v).length = n := by
  induction n generalizing v with
  | zero => rfl
  | succ n ih => simp [leBytes, ih]

theorem Dev.devSpend_of_bucket {n : Nat} (h : 16 * n ≤ d.devBucket) : ∃ sched, d.devSpend n = some { d with sched } := by
  unfold Dev.devSpend
  rw [if_neg (by omega)]
  exact ⟨_, rfl⟩

/-- A message for which the device ring has room stands at the ring's head, which moves on. -/
theorem State.devRingWrite_room (s : State) {m : Msg} (hr : s.flt.device.room devRingSize m = true) :
    (s.devRingWrite m true).flt.queue = s.flt.queue
      ∧ (s.devRingWrite m true).flt.device.head = (s.flt.device.head + 1) % 2 ^ 32
      ∧ readBytes hbmDefault (s.devRingWrite m true).hbm (devRingBase + 8 * (s.flt.device.head % devRingSize)) 8
        = leBytes 8 m.word.toNat := by
  have hlen : (leBytes 8 m.word.toNat).length = 8 := leBytes_length 8 _
  have hfits : devRingBase + 8 * (s.flt.device.head % devRingSize) + 8 ≤ hbmSize := by
    have := Nat.mod_lt s.flt.device.head (by decide : 0 < devRingSize)
    simp only [devRingBase, devRingSize, hbmSize] at *
    omega
  unfold State.devRingWrite
  simp only [hr, if_true, Dev.fltBytes, FltRing.take, Bool.true_and]
  refine ⟨?_, ?_, ?_⟩
  · split
    · rfl
    · split
      · rw [Dev.irqAt_flt]
      · rfl
  · split
    · rfl
    · split
      · rw [Dev.irqAt_flt]
      · rfl
  · have := readBytes_writeBytes hbmDefault hbmSize _ s.hbm _ (hlen ▸ hfits)
    rwa [hlen] at this

/-- A message that goes to the device ring alone. -/
theorem State.faultRingWrite_alone {s : State} {m : Msg} {rest : List Msg} (hq : s.flt.queue = m :: rest)
    (hd : m.dest = []) (hb : 128 ≤ s.devBucket) : ∃ sched, s.faultRingWrite true
      = ({ s with toDev := { s.toDev with sched, flt := { s.flt with queue := rest } } } : State).devRingWrite m true := by
  obtain ⟨sched, hs⟩ := Dev.devSpend_of_bucket (d := s.toDev) (n := 8) hb
  unfold State.faultRingWrite
  rw [hq]
  simp only [hd, List.length_nil, Nat.mul_zero, Nat.add_zero, hs]
  exact ⟨sched, rfl⟩

theorem Dev.fltRing_setFltRing (ss : Nat) (r : FltRing) : (d.setFltRing ss r).fltRing ss = r := by
  unfold Dev.setFltRing
  split
  · next h =>
    have h' : ({ d with flt := { d.flt with device := r } } : Dev).fltDevice ss = true := h
    unfold Dev.fltRing
    rw [if_pos h']
  · next h =>
    have h' : ¬(d.setMirror ss r).fltDevice ss = true := h
    unfold Dev.fltRing
    rw [if_neg h']
    exact tget_tput_same ..

/-- A note of the change for what the page may take back leaves the rings as they are. -/
theorem Dev.fltRing_tracked (pg : Page) (f : Dev → Dev) (c : Option (Nat × Nat)) (ss : Nat) :
    (d.tracked pg f c).fltRing ss = (f d).fltRing ss := rfl

/-- FLT_TAIL written by a session, up to the messages that its ring holds. -/
theorem Dev.fltTailWrite_of_lets {ss : Nat} (h : d.lets ss fltPage 0x110 .any false = true) {val : Word}
    (hv : (val.toNat + 2 ^ 32 - (d.fltRing ss).tail) % 2 ^ 32 ≤ (d.fltRing ss).held) :
    (d.fltTailWrite ss val).fltRing ss = { d.fltRing ss with tail := val.toNat } := by
  unfold Dev.fltTailWrite
  rw [Dev.hostWrite_of_lets h, Dev.fltRing_tracked]
  dsimp only
  rw [if_pos hv, Dev.fltRing_setFltRing]

/-! ### The window and the sticky words (R340, R343) -/

/-- The row of FLT_WIN_SEL: one copy for each session, with RING alone. -/
def fltWinSelRow : Row := ⟨0x108, 0, 1, true, 0x1, 0x0, [], 0x0, 0x0, 0x0, .any, 0⟩

theorem rowOf_fltWinSel : rowOf fltPage 0x108 = some fltWinSelRow := by decide

theorem Dev.fltWinSelWrite_ring {ss : Nat} (h : d.lets ss fltPage 0x108 .any false = true) {val : Word}
    (ho : d.owner fltPage = some ss) (ha : d.attr ss = 2) :
    (d.fltWinSelWrite ss val).get (FLT_WIN_SEL.RING ss) = b2n (wbit val 0) := by
  unfold Dev.fltWinSelWrite
  rw [Dev.hostWrite_of_lets h, Dev.tracked_get, if_neg (by simp [ho, ha, Dev.isOwn]),
    Dev.get_plainWrite rowOf_fltWinSel rfl rfl (f := FLT_WIN_SEL.RING ss) (by simp [Row.writable, fltWinSelRow])
      (Dev.outranked_of_lets h _)]
  have h2 := val.toNat.mod_two_eq_zero_or_one
  simp only [wfield, wbit, b2n, BitVec.getLsbD, Nat.testBit_zero, Nat.pow_zero, Nat.div_one, Nat.pow_one,
    decide_eq_true_eq]
  split <;> omega

/-- The row of a run of 64 sticky words from `off` on: writing 1 to a bit clears it. -/
def fltStickyRow (off : Nat) : Row := ⟨off, 4, 64, false, 0x0, 0xFFFFFFFF, [], 0x0, 0x0, 0x0, .owner, 0⟩

theorem rowOf_fltSticky : ∀ w : Fin 64, rowOf fltPage (0x200 + 4 * w) = some (fltStickyRow 0x200) := by decide

theorem rowOf_fltStickyInj : ∀ w : Fin 64, rowOf fltPage (0x300 + 4 * w) = some (fltStickyRow 0x300) := by decide

theorem fltSticky_key (w : Nat) : fltPage.base + (0x200 + 4 * w) = FLT_STICKY w := (Nat.add_assoc 0x6000 0x200 _).symm

theorem fltStickyInj_key (w : Nat) : fltPage.base + (0x300 + 4 * w) = FLT_STICKY_INJ w :=
  (Nat.add_assoc 0x6000 0x300 _).symm

/-- A write clears the bits of a sticky word that it writes 1 to and that hardware has not set in this cycle. -/
theorem fltStickyRow_merge_bit (off : Nat) (old val fresh : Word) (i : Fin 32) :
    ((fltStickyRow off).merge old val fresh).getLsbD i = (old.getLsbD i && (!val.getLsbD i || fresh.getLsbD i)) := by
  have hw : (0xFFFFFFFF : Nat).testBit i = true := by revert i; decide
  rw [Row.merge_bit rfl _ _ _ _ i.isLt]
  simp only [fltStickyRow, Nat.zero_testBit, Bool.false_eq_true, if_false, hw, Bool.and_true]
  cases old.getLsbD i <;> cases val.getLsbD i <;> cases fresh.getLsbD i <;> rfl

theorem Dev.freshBits_bit (key : Nat) (i : Nat) : (d.freshBits key).getLsbD i
    = (decide ((tget (fun _ => (0, 0)) d.fresh key).1 = d.cycle) && (tget (fun _ => (0, 0)) d.fresh key).2.getLsbD i) := by
  unfold Dev.freshBits
  dsimp only
  split
  · next h => rw [decide_eq_true h, Bool.true_and]
  · next h => rw [decide_eq_false h, Bool.false_and]; exact BitVec.getLsbD_zero

/-- A write of a sticky word by the page's owner. -/
theorem Dev.fltStickyClear_bit {ss : Nat} {inj : Bool} {w off key first : Nat}
    (hoff : (if inj then 0x300 else 0x200) + 4 * w = off) (hkey : fltPage.base + off = key)
    (hrow : rowOf fltPage off = some (fltStickyRow first)) (h : d.lets ss fltPage off .owner false = true) (val : Word)
    (i : Fin 32) : ((d.fltStickyClear ss inj w val).reg key).getLsbD i = ((d.reg key).getLsbD i
      && (!val.getLsbD i || (decide ((tget (fun _ => (0, 0)) d.fresh key).1 = d.cycle)
        && (tget (fun _ => (0, 0)) d.fresh key).2.getLsbD i))) := by
  have ho := Dev.outranked_of_lets h (fltStickyRow first)
  have hk : (fltStickyRow first).key fltPage off ss = key := hkey
  unfold Dev.fltStickyClear
  dsimp only
  rw [hoff, Dev.hostWrite_of_lets h, Dev.tracked_reg, Dev.plainWrite_single hrow rfl, Dev.putWord_reg ho, hk,
    if_pos rfl, fltStickyRow_merge_bit, Dev.freshBits_bit]

/-! ### Injection (R342) -/

/-- The row of FLT_INJ_CTRL: GO is a command bit, and only hardware changes the others. -/
def fltInjCtrlRow : Row := ⟨0x148, 0, 1, true, 0x0, 0x0, [], 0x1, 0xE, 0x0, .any, 0⟩

theorem rowOf_fltInjCtrl : rowOf fltPage 0x148 = some fltInjCtrlRow := by decide

/-- The message that FLT_INJ_MSG of session `ss` describes, with INJ set, for that session alone. -/
def Dev.fltInjMsg (d : Dev) (ss : Nat) : Msg where
  source := d.reg64 (FLT_INJ_MSG ss) / 2 ^ 52 % 4096
  kind := d.reg64 (FLT_INJ_MSG ss) / 2 ^ 44 % 256
  sev := d.reg64 (FLT_INJ_MSG ss) / 2 ^ 41 % 8
  inj := true
  addr := BitVec.ofNat 32 (d.reg64 (FLT_INJ_MSG ss) / 256)
  seq := (d.source (d.reg64 (FLT_INJ_MSG ss) / 2 ^ 52 % 4096)).injSeq
  cycle := d.cycle
  dest := [ss]

/-- The collector's own state holds no register. -/
theorem Dev.get_withFlt (flt : Collector) (f : Fld) : ({ d with flt } : Dev).get f = d.get f := rfl

/-- The field of a written word, with its numerals. -/
theorem Dev.get_set_word {key lo w : Nat} (h : lo + w ≤ 32) (v : Nat) :
    (d.set ⟨key, lo, w⟩ v).get ⟨key, lo, w⟩ = v % 2 ^ w := d.get_set h v

/-- A message that R342 allows goes to the collector, while the session has none there. -/
theorem Dev.faultInject_ok {ss : Nat} (hn : (d.flt.injected.any fun x => x.dest == [ss]) = false)
    (hok : injectOk (d.fltInjMsg ss).source (d.fltInjMsg ss).kind (d.fltInjMsg ss).sev = true) :
    (d.faultInject ss).flt.injected = d.flt.injected ++ [d.fltInjMsg ss]
      ∧ (d.faultInject ss).get (FLT_INJ_CTRL.BUSY ss) = 1 ∧ (d.faultInject ss).get (FLT_INJ_CTRL.ERR ss) = 0 := by
  simp only [Dev.fltInjMsg] at hok
  unfold Dev.faultInject
  simp only [hn, hok, Bool.false_eq_true, Bool.not_true, if_false]
  refine ⟨?_, ?_, ?_⟩
  · simp only [Dev.set_flt, Dev.markSource_flt, Dev.setSource, Dev.fltInjMsg]
  · rw [Dev.get_withFlt, Dev.get_set_word (show 1 + 1 ≤ 32 by decide), Nat.mod_eq_of_lt (by decide)]
  · rw [Dev.get_withFlt, Dev.get_set_ne _ (by simp [Fld.apart]), Dev.get_set_word (show 2 + 2 ≤ 32 by decide),
      Nat.zero_mod]

/-- A write of FLT_INJ_CTRL leaves the collector, its sources, time and FLT_INJ_MSG as they are. -/
theorem Dev.plainWrite_fltInjCtrl (d : Dev) (ss : Nat) (val : Word) :
    (d.plainWrite ss fltPage 0x148 val).flt = d.flt ∧ (d.plainWrite ss fltPage 0x148 val).fltInjMsg ss = d.fltInjMsg ss := by
  have hreg : ∀ j, j ≠ FLT_INJ_MSG ss + 8 → (d.plainWrite ss fltPage 0x148 val).reg j = d.reg j := fun j hj =>
    Dev.plainWrite_reg_ne rowOf_fltInjCtrl rfl hj d val
  have hmsg : (d.plainWrite ss fltPage 0x148 val).reg64 (FLT_INJ_MSG ss) = d.reg64 (FLT_INJ_MSG ss) := by
    unfold Dev.reg64
    rw [hreg _ (by omega), hreg _ (by omega)]
  obtain ⟨regs, ports, hput⟩ := Dev.putWord_frame d ss
    (fltInjCtrlRow.key fltPage 0x148 ss) fltInjCtrlRow val
  have hplain : d.plainWrite ss fltPage 0x148 val = { d with regs, ports } := by
    rw [Dev.plainWrite_single rowOf_fltInjCtrl rfl, hput]
  constructor
  · rw [hplain]
  · unfold Dev.fltInjMsg
    rw [hmsg, hplain]
    rfl

/-- A GO in FLT_INJ_CTRL of a message that R342 allows. -/
theorem Dev.fltInjCtrlWrite_ok {ss : Nat} {val : Word} (h : d.lets ss fltPage 0x148 (whoOf fltPage 0x148) true = true)
    (hgo : wbit val 0 = true) (hn : (d.flt.injected.any fun x => x.dest == [ss]) = false)
    (hok : injectOk (d.fltInjMsg ss).source (d.fltInjMsg ss).kind (d.fltInjMsg ss).sev = true) :
    (d.fltInjCtrlWrite ss val).flt.injected = d.flt.injected ++ [d.fltInjMsg ss]
      ∧ (d.fltInjCtrlWrite ss val).get (FLT_INJ_CTRL.BUSY ss) = 1
      ∧ (d.fltInjCtrlWrite ss val).get (FLT_INJ_CTRL.ERR ss) = 0 := by
  have hw : d.fltInjCtrlWrite ss val = d.tracked fltPage
      (fun d => (d.plainWrite ss fltPage 0x148 val).faultInject ss) (some (ss, 0x148)) := by
    unfold Dev.fltInjCtrlWrite
    rw [hgo, Dev.cmdWrite_of_lets h]
    simp only [if_true]
  obtain ⟨hflt, hmsg⟩ := d.plainWrite_fltInjCtrl ss val
  obtain ⟨hinj, hbusy, herr⟩ := Dev.faultInject_ok (d := d.plainWrite ss fltPage 0x148 val) (ss := ss)
    (by rw [hflt]; exact hn) (by rw [hmsg]; exact hok)
  rw [hflt, hmsg] at hinj
  rw [hw, Dev.tracked_get, Dev.tracked_get]
  exact ⟨hinj, hbusy, herr⟩

/-! ### The obligation -/

/-- Settles O50: each clause is the equation of its command, read off the state. -/
theorem faultCollectorCompletes : Obligations.FaultCollectorCompletes := by
  unfold Obligations.FaultCollectorCompletes
  refine ⟨?collect, ?ringWrite, ?tail, ?window, ?sticky, ?stickyInj, ?inject⟩
  case collect =>
    intro m s ⟨hm, hi, hq, ht⟩
    exact ⟨_, rfl, Dev.faultCollect_single hm hi hq ht⟩
  case ringWrite =>
    intro m rest s ⟨hq, hd, hb, hr⟩
    obtain ⟨sched, hs⟩ := State.faultRingWrite_alone hq hd hb
    refine ⟨_, rfl, ?_⟩
    rw [hs]
    exact State.devRingWrite_room { s with toDev := { s.toDev with sched, flt := { s.flt with queue := rest } } } hr
  case tail =>
    intro ss val s ⟨h, hv⟩
    have ht : ∀ t : State, t.toDev = s.fltTailWrite ss val → t.fltRing ss = { s.fltRing ss with tail := val.toNat } :=
      fun t e => e ▸ Dev.fltTailWrite_of_lets h hv
    refine ⟨_, rfl, ?_⟩
    rw [ht _ rfl]
    exact ⟨rfl, rfl, rfl⟩
  case window =>
    intro ss val s ⟨h, ho, ha⟩
    exact ⟨_, rfl, Dev.fltWinSelWrite_ring h ho ha⟩
  case sticky =>
    intro ss w val s h
    exact ⟨_, rfl, Dev.fltStickyClear_bit (inj := false) rfl (fltSticky_key w) (rowOf_fltSticky w) h val⟩
  case stickyInj =>
    intro ss w val s h
    exact ⟨_, rfl, Dev.fltStickyClear_bit (inj := true) rfl (fltStickyInj_key w) (rowOf_fltStickyInj w) h val⟩
  case inject =>
    intro ss val s ⟨h, hgo⟩ hn hok
    obtain ⟨hinj, hbusy, herr⟩ := Dev.fltInjCtrlWrite_ok h hgo hn hok
    exact ⟨_, s.toDev.fltInjMsg ss, rfl, hinj, rfl, rfl, rfl, rfl, rfl, hbusy, herr⟩

end Sys2Proof.Machine
end

