-- ==== Sys2Proof/Proofs/FrameBasis.lean ====
section
/-! SUPPORT. The part to which a register belongs, and what the shared operations of a device leave alone: for a set `A` of
parts that may change, `Dev.rest A` is all of the others, and one lemma for each operation says which parts `A` must hold
for the rest to stay as it was. -/

namespace Sys2Proof.Machine

/-! ### The part of a register -/

/-- The part of a page's registers from offset 0x20 upwards. -/
def partOf : Page → Part
  | .dev n => .dev n.val
  | .ctl _ => .ctl
  | .seq _ => .seq
  | .arm _ => .arm
  | .pool _ => .pool
  | .freq _ => .freq
  | .ch _ _ => .ch
  | .tmu _ _ => .tmu

theorem placeOf_dev {n off : Nat} (hn : n < 15) (h : off < 0x1000) : placeOf (0x1000 * n + off) = .page (.dev ⟨n,
    hn⟩) off := by
  have hq : (0x1000 * n + off) / 0x1000 = n := by omega
  have hm : (0x1000 * n + off) % 0x1000 = off := by omega
  unfold placeOf
  simp only [hq, hm, hn, dite_true]

theorem placeInCluster_ch (k : Clu) (p : Phy) {o off : Nat} (h : off < 0x1000) (ho : o = 0x40000 + 0x1000 * p + off) :
    placeInCluster k o = .page (.ch k p) off := by
  have hq : (o - 0x40000) / 0x1000 = p := by omega
  have hm : o % 0x1000 = off := by omega
  have hge : 0x40000 ≤ o := by omega
  unfold placeInCluster
  simp only [hq, hm, p.isLt, dite_true]
  iterate 8 rw [if_neg (by omega)]

theorem placeInCluster_tmu (k : Clu) (t : TmuId) {o off : Nat} (h : off < 0x1000)
    (ho : o = 0xC0000 + 0x1000 * t + off) :
    placeInCluster k o = .page (.tmu k t) off := by
  have hq : (o - 0xC0000) / 0x1000 = t := by omega
  have hm : o % 0x1000 = off := by omega
  have hge : 0xC0000 ≤ o := by omega
  have hch : ¬ (o - 0x40000) / 0x1000 < 68 := by omega
  unfold placeInCluster
  simp only [hq, hm, t.isLt, hch, dite_true, dite_false]
  iterate 9 rw [if_neg (by omega)]

/-- A page is found at its base. -/
theorem placeOf_base (pg : Page) {off : Nat} (h : off < 0x1000) : placeOf (pg.base + off) = .page pg off := by
  cases pg with
  | dev n => exact placeOf_dev n.isLt h
  | ctl k =>
    rw [Page.base, placeOf_clu k (by omega)]
    exact if_pos h
  | seq k =>
    rw [Page.base, Nat.add_assoc, placeOf_clu k (by omega)]
    unfold placeInCluster
    rw [if_neg (by omega), if_pos (by omega), Nat.add_sub_cancel_left]
  | arm k =>
    rw [Page.base, Nat.add_assoc, placeOf_clu k (by omega)]
    unfold placeInCluster
    iterate 3 rw [if_neg (by omega)]
    rw [if_pos (by omega), Nat.add_sub_cancel_left]
  | pool k =>
    rw [Page.base, Nat.add_assoc, placeOf_clu k (by omega)]
    unfold placeInCluster
    iterate 4 rw [if_neg (by omega)]
    rw [if_pos (by omega), Nat.add_sub_cancel_left]
  | freq k =>
    rw [Page.base, Nat.add_assoc, placeOf_clu k (by omega)]
    unfold placeInCluster
    iterate 5 rw [if_neg (by omega)]
    rw [if_pos (by omega), Nat.add_sub_cancel_left]
  | ch k p =>
    rw [Page.base, show chPg k p + off = clu k + (0x40000 + 0x1000 * p + off) by simp only [Nat.add_assoc],
      placeOf_clu k (by omega)]
    exact placeInCluster_ch k p h rfl
  | tmu k t =>
    rw [Page.base, show tmuPg k t + off = clu k + (0xC0000 + 0x1000 * t + off) by simp only [Nat.add_assoc],
      placeOf_clu k (by omega)]
    exact placeInCluster_tmu k t h rfl

theorem base_le (pg : Page) : pg.base + 0x1000 ≤ 0x4000000 := by
  have hclu : ∀ k : Clu, clu k ≤ 0x1F00000 := fun k => by
    have hk := k.isLt
    show 0x1000000 + 0x100000 * k.val ≤ 0x1F00000
    omega
  cases pg with
  | dev n =>
    have hn := n.isLt
    simp only [Page.base]
    omega
  | ctl k | seq k | arm k | pool k | freq k =>
    have hk := hclu k
    simp only [Page.base]
    omega
  | ch k p =>
    have hk := hclu k
    have hp := p.isLt
    show clu k + 0x40000 + 0x1000 * p.val + 0x1000 ≤ _
    omega
  | tmu k t =>
    have hk := hclu k
    have ht := t.isLt
    show clu k + 0xC0000 + 0x1000 * t.val + 0x1000 ≤ _
    omega

theorem keyPart_page (pg : Page) {off : Nat} (h : off < 0x1000) :
    keyPart (pg.base + off) = if off < 0x20 then .common else partOf pg := by
  have hb := base_le pg
  unfold keyPart
  rw [Nat.mod_eq_of_lt (by omega), placeOf_base pg h]
  cases pg <;> rfl

theorem keyPart_of_mod {a b : Nat} (h : a % 0x4000000 = b % 0x4000000) : keyPart a = keyPart b := by
  unfold keyPart
  rw [h]

/-- A session's copy of a register belongs to the part of the register. -/
theorem keyPart_sess (ss c : Nat) : keyPart (sessKey ss + c) = keyPart c := keyPart_of_mod (Nat.mul_add_mod ..)

theorem keyPart_isReg (key : Nat) : (keyPart key).isReg = true := by
  unfold keyPart
  split
  · split
    · rfl
    · split <;> rfl
  · rfl

/-! ### What is left alone -/

/-- The parts that `A` names may change; this is everything else of a device. -/
def Dev.rest (A : Part → Bool) (d : Dev) : Dev × (Nat → Word) :=
  ({ epoch := if A .time then 0 else d.epoch
     up := if A .time then 0 else d.up
     free := if A .free then 0 else d.free
     options := if A .options then 0 else d.options
     hold := if A .access then [] else d.hold
     capt := if A .access then [] else d.capt
     fresh := if A .access then [] else d.fresh
     pageReset := if A .access then [] else d.pageReset
     ports := if A .access then [] else d.ports
     again := if A .access then [] else d.again
     undo := if A .access then [] else d.undo
     serves := if A .access then [] else d.serves
     stalled := if A .access then [] else d.stalled
     tb := if A .timeBase then {} else d.tb
     dirum := if A .dirum then {} else d.dirum
     lgs := if A .lockGroups then [] else d.lgs
     lanes := if A .lanes then [] else d.lanes
     phys := if A .phys then [] else d.phys
     tmus := if A .tmus then [] else d.tmus
     freqs := if A .freqs then [] else d.freqs
     fins := if A .freqs then [] else d.fins
     clusters := if A .clusters then [] else d.clusters
     lines := if A .lines then [] else d.lines
     gmx := if A .matrix then [] else d.gmx
     gStage := if A .matrix then [] else d.gStage
     fade := if A .matrix then [] else d.fade
     loopQ := if A .matrix then [] else d.loopQ
     cal := if A .caliper then {} else d.cal
     pe := if A .pointing then {} else d.pe
     sched := if A .sched then {} else d.sched
     bist := if A .selfTest then {} else d.bist
     flt := if A .faults then {} else d.flt
     sess := if A .sessions then [] else d.sess
     links := if A .links then [] else d.links
     rings := if A .rings then [] else d.rings
     nvmQ := if A .nvmQueue then [] else d.nvmQ
     nvmCur := if A .nvmQueue then none else d.nvmCur
     sec := if A .security then {} else d.sec
     pln := if A .plinth then {} else d.pln
     boot := if A .boot then {} else d.boot
     poison := if A .poison then [] else d.poison
     out := if A .sent then [] else d.out
     dbg := if A .dbg then false else d.dbg
     reply := if A .reply then [] else d.reply
     replyEp := if A .reply then false else d.replyEp
     smb := if A .smbReply then [] else d.smb
     tdo := if A .tdo then [] else d.tdo }, fun key => if A (keyPart key) then 0 else d.reg key)

variable {A : Part → Bool}

/-- All registers may change. -/
def AllRegs (A : Part → Bool) : Prop := ∀ p, p.isReg = true → A p = true

/-- The parts of the list may change. -/
def Allows (A : Part → Bool) (l : List Part) : Prop := ∀ p ∈ l, A p = true

theorem AllRegs.key (hr : AllRegs A) (key : Nat) : A (keyPart key) = true := hr _ (keyPart_isReg key)

theorem AllRegs.allows {l : List Part} (hr : AllRegs A) (hs : ∀ p ∈ l, p.isReg = true) : Allows A l :=
  fun p hp => hr p (hs p hp)

theorem Allows.of {l l' : List Part} (h : Allows A l) (hs : ∀ p ∈ l', p ∈ l) : Allows A l' := fun p hp => h p (hs p hp)

/-- Registers of every part, and what the list names. -/
theorem Allows.plus {l l' : List Part} (h : Allows A l) (hr : AllRegs A) (hs : ∀ p ∈ l', p.isReg = true ∨ p ∈ l) :
    Allows A l' := fun p hp => (hs p hp).elim (hr p) (h p)

theorem Allows.at {l : List Part} {p : Part} (h : Allows A l) (hp : p ∈ l) : A p = true := h p hp

theorem Allows.key {l : List Part} {key : Nat} (h : Allows A l) (hp : keyPart key ∈ l) : A
    (keyPart key) = true := h _ hp

theorem Allows.sess {l : List Part} {ss c : Nat} (h : Allows A l) (hp : keyPart c ∈ l) : A (keyPart
    (sessKey ss + c)) = true := by
  rw [keyPart_sess]
  exact h _ hp

theorem Allows.page {l : List Part} (h : Allows A l) (hp : Part.common ∈ l) (pg : Page) {off : Nat} (ho : off < 0x20) :
    A (keyPart (pg.base + off)) = true := by
  rw [keyPart_page pg (by omega), if_pos ho]
  exact h _ hp

/-- A key between offset 0x20 and the end of a device page. -/
theorem Allows.dev {l : List Part} {n key : Nat} (h : Allows A l) (hp : Part.dev n ∈ l) (hn : n < 15)
    (h1 : 0x1000 * n + 0x20 ≤ key) (h2 : key < 0x1000 * n + 0x1000) : A (keyPart key) = true := by
  obtain ⟨off, rfl⟩ := Nat.exists_eq_add_of_le (Nat.le_of_add_right_le h1)
  rw [show 0x1000 * n + off = Page.base (.dev ⟨n, hn⟩) + off from rfl, keyPart_page _ (by omega), if_neg (by omega)]
  exact h _ hp

theorem rest_ite {c : Prop} [Decidable c] (d e : Dev) :
    (if c then d else e).rest A = if c then d.rest A else e.rest A := apply_ite ..

theorem foldl_rest {α : Type} {f : Dev → α → Dev} (h : ∀ d x, (f d x).rest A = d.rest A) (l : List α) (d : Dev) :
    (l.foldl f d).rest A = d.rest A := by
  induction l generalizing d with
  | nil => rfl
  | cons x l ih => exact (ih _).trans (h d x)

theorem foldl_rest_mem {α : Type} {f : Dev → α → Dev} {l : List α} (h : ∀ d, ∀ x ∈ l, (f d x).rest A = d.rest A)
    (d : Dev) :
    (l.foldl f d).rest A = d.rest A := by
  induction l generalizing d with
  | nil => rfl
  | cons x l ih => exact (ih (fun d y hy => h d y (List.mem_cons_of_mem _ hy)) _).trans (h d x List.mem_cons_self)

theorem foldr_rest {α : Type} {f : α → Dev → Dev} (h : ∀ x d, (f x d).rest A = d.rest A) (l : List α) (d : Dev) :
    (l.foldr f d).rest A = d.rest A := by
  induction l with
  | nil => rfl
  | cons x l ih => exact (h x _).trans ih

theorem Dev.withRegs_rest (hr : AllRegs A) (d : Dev) (regs : Tbl Word) : ({ d with regs } : Dev).rest A = d.rest A := by
  refine Prod.ext rfl (funext fun j => ?_)
  simp only [Dev.rest, hr.key j, if_true]

theorem Dev.withFree_rest (h : A .free = true) (d : Dev) (free) :
    ({ d with free } : Dev).rest A = d.rest A := by
  simp only [Dev.rest, h, if_true]
  rfl

theorem Dev.withAccess_rest (h : A .access = true) (d : Dev)
    (hold capt fresh pageReset ports again undo serves stalled) :
    ({ d with hold, capt, fresh, pageReset, ports, again, undo, serves, stalled } : Dev).rest A = d.rest A := by
  simp only [Dev.rest, h, if_true]
  rfl

theorem Dev.withTimeBase_rest (h : A .timeBase = true) (d : Dev) (tb) :
    ({ d with tb } : Dev).rest A = d.rest A := by
  simp only [Dev.rest, h, if_true]
  rfl

theorem Dev.withDirum_rest (h : A .dirum = true) (d : Dev) (dirum) :
    ({ d with dirum } : Dev).rest A = d.rest A := by
  simp only [Dev.rest, h, if_true]
  rfl

theorem Dev.withLockGroups_rest (h : A .lockGroups = true) (d : Dev) (lgs) :
    ({ d with lgs } : Dev).rest A = d.rest A := by
  simp only [Dev.rest, h, if_true]
  rfl

theorem Dev.withLanes_rest (h : A .lanes = true) (d : Dev) (lanes) :
    ({ d with lanes } : Dev).rest A = d.rest A := by
  simp only [Dev.rest, h, if_true]
  rfl

theorem Dev.withPhys_rest (h : A .phys = true) (d : Dev) (phys) :
    ({ d with phys } : Dev).rest A = d.rest A := by
  simp only [Dev.rest, h, if_true]
  rfl

theorem Dev.withTmus_rest (h : A .tmus = true) (d : Dev) (tmus) :
    ({ d with tmus } : Dev).rest A = d.rest A := by
  simp only [Dev.rest, h, if_true]
  rfl

theorem Dev.withFreqs_rest (h : A .freqs = true) (d : Dev) (freqs fins) :
    ({ d with freqs, fins } : Dev).rest A = d.rest A := by
  simp only [Dev.rest, h, if_true]
  rfl

theorem Dev.withClusters_rest (h : A .clusters = true) (d : Dev) (clusters) :
    ({ d with clusters } : Dev).rest A = d.rest A := by
  simp only [Dev.rest, h, if_true]
  rfl

theorem Dev.withLines_rest (h : A .lines = true) (d : Dev) (lines) :
    ({ d with lines } : Dev).rest A = d.rest A := by
  simp only [Dev.rest, h, if_true]
  rfl

theorem Dev.withMatrix_rest (h : A .matrix = true) (d : Dev) (gmx gStage fade loopQ) :
    ({ d with gmx, gStage, fade, loopQ } : Dev).rest A = d.rest A := by
  simp only [Dev.rest, h, if_true]
  rfl

theorem Dev.withCaliper_rest (h : A .caliper = true) (d : Dev) (cal) :
    ({ d with cal } : Dev).rest A = d.rest A := by
  simp only [Dev.rest, h, if_true]
  rfl

theorem Dev.withPointing_rest (h : A .pointing = true) (d : Dev) (pe) :
    ({ d with pe } : Dev).rest A = d.rest A := by
  simp only [Dev.rest, h, if_true]
  rfl

theorem Dev.withSched_rest (h : A .sched = true) (d : Dev) (sched) :
    ({ d with sched } : Dev).rest A = d.rest A := by
  simp only [Dev.rest, h, if_true]
  rfl

theorem Dev.withSelfTest_rest (h : A .selfTest = true) (d : Dev) (bist) :
    ({ d with bist } : Dev).rest A = d.rest A := by
  simp only [Dev.rest, h, if_true]
  rfl

theorem Dev.withFaults_rest (h : A .faults = true) (d : Dev) (flt) :
    ({ d with flt } : Dev).rest A = d.rest A := by
  simp only [Dev.rest, h, if_true]
  rfl

theorem Dev.withSessions_rest (h : A .sessions = true) (d : Dev) (sess) :
    ({ d with sess } : Dev).rest A = d.rest A := by
  simp only [Dev.rest, h, if_true]
  rfl

theorem Dev.withLinks_rest (h : A .links = true) (d : Dev) (links) :
    ({ d with links } : Dev).rest A = d.rest A := by
  simp only [Dev.rest, h, if_true]
  rfl

theorem Dev.withRings_rest (h : A .rings = true) (d : Dev) (rings) :
    ({ d with rings } : Dev).rest A = d.rest A := by
  simp only [Dev.rest, h, if_true]
  rfl

theorem Dev.withNvmQueue_rest (h : A .nvmQueue = true) (d : Dev) (nvmQ nvmCur) :
    ({ d with nvmQ, nvmCur } : Dev).rest A = d.rest A := by
  simp only [Dev.rest, h, if_true]
  rfl

theorem Dev.withSecurity_rest (h : A .security = true) (d : Dev) (sec) :
    ({ d with sec } : Dev).rest A = d.rest A := by
  simp only [Dev.rest, h, if_true]
  rfl

theorem Dev.withPlinth_rest (h : A .plinth = true) (d : Dev) (pln) :
    ({ d with pln } : Dev).rest A = d.rest A := by
  simp only [Dev.rest, h, if_true]
  rfl

theorem Dev.withBoot_rest (h : A .boot = true) (d : Dev) (boot) :
    ({ d with boot } : Dev).rest A = d.rest A := by
  simp only [Dev.rest, h, if_true]
  rfl

theorem Dev.withPoison_rest (h : A .poison = true) (d : Dev) (poison) :
    ({ d with poison } : Dev).rest A = d.rest A := by
  simp only [Dev.rest, h, if_true]
  rfl

theorem Dev.withSent_rest (h : A .sent = true) (d : Dev) (out) :
    ({ d with out } : Dev).rest A = d.rest A := by
  simp only [Dev.rest, h, if_true]
  rfl

theorem Dev.withDbg_rest (h : A .dbg = true) (d : Dev) (dbg) :
    ({ d with dbg } : Dev).rest A = d.rest A := by
  simp only [Dev.rest, h, if_true]
  rfl

theorem Dev.withReply_rest (h : A .reply = true) (d : Dev) (reply replyEp) :
    ({ d with reply, replyEp } : Dev).rest A = d.rest A := by
  simp only [Dev.rest, h, if_true]
  rfl

theorem Dev.withSmbReply_rest (h : A .smbReply = true) (d : Dev) (smb) :
    ({ d with smb } : Dev).rest A = d.rest A := by
  simp only [Dev.rest, h, if_true]
  rfl

theorem Dev.withTdo_rest (h : A .tdo = true) (d : Dev) (tdo) :
    ({ d with tdo } : Dev).rest A = d.rest A := by
  simp only [Dev.rest, h, if_true]
  rfl

theorem Dev.setReg_rest_at {key : Nat} (hk : A (keyPart key) = true) (d : Dev) (v : Word) :
    (d.setReg key v).rest A = d.rest A := by
  refine Prod.ext rfl (funext fun j => ?_)
  show (if A (keyPart j) then 0 else (d.setReg key v).reg j) = if A (keyPart j) then 0 else d.reg j
  rw [Dev.setReg_reg]
  by_cases hj : j = key
  · rw [hj, if_pos hk, if_pos hk]
  · rw [if_neg hj]

theorem Dev.setReg_rest (hr : AllRegs A) (d : Dev) (key : Nat) (v : Word) : (d.setReg key v).rest A = d.rest A :=
  d.withRegs_rest hr _

theorem Dev.setReg64_rest (hr : AllRegs A) (d : Dev) (key v : Nat) :
    (d.setReg64 key v).rest A = d.rest A := by
  unfold Dev.setReg64
  simp only [Dev.setReg_rest hr]

theorem Dev.set_rest_at (f : Fld) (hk : A (keyPart f.key) = true) (d : Dev) (v : Nat)
    (hw : decide (f.lo + f.w ≤ 32) = true := by rfl) : (d.set f v).rest A = d.rest A := by
  rw [Dev.set_narrow _ (of_decide_eq_true hw)]
  exact Dev.setReg_rest_at hk ..

theorem Dev.set_rest (hr : AllRegs A) (d : Dev) (f : Fld) (v : Nat) :
    (d.set f v).rest A = d.rest A := by
  unfold Dev.set
  simp only [Dev.setReg_rest hr, Dev.setReg64_rest hr, rest_ite, ite_self]

theorem Dev.setInt_rest (hr : AllRegs A) (d : Dev) (f : Fld) (v : Int) :
    (d.setInt f v).rest A = d.rest A := by
  unfold Dev.setInt
  simp only [Dev.set_rest hr]

theorem Dev.stick_rest_at (f : Fld) (hk : A (keyPart f.key) = true) (ha : A .access = true) (d : Dev) :
    (d.stick f).rest A = d.rest A := by
  unfold Dev.stick
  dsimp only
  exact (Dev.withAccess_rest ha ..).trans (Dev.setReg_rest_at hk ..)

theorem Dev.stick_rest (hr : AllRegs A) (h : Allows A [.access]) (d : Dev) (f : Fld) :
    (d.stick f).rest A = d.rest A := by
  unfold Dev.stick
  simp only [Dev.setReg_rest hr, Dev.withAccess_rest (h.at (by decide))]

theorem Dev.stickIf_rest (hr : AllRegs A) (h : Allows A [.access]) (d : Dev) (c : Bool) (f : Fld) :
    (d.stickIf c f).rest A = d.rest A := by
  unfold Dev.stickIf
  simp only [Dev.stick_rest hr h, rest_ite, ite_self]

theorem Dev.bump_rest_at (f : Fld) (hk : A (keyPart f.key) = true) (d : Dev) (n : Nat)
    (hw : decide (f.lo + f.w ≤ 32) = true := by rfl) : (d.bump f n).rest A = d.rest A := Dev.set_rest_at f hk _ _ hw

theorem Dev.bump_rest (hr : AllRegs A) (d : Dev) (f : Fld) (n : Nat) :
    (d.bump f n).rest A = d.rest A := by
  unfold Dev.bump
  simp only [Dev.set_rest hr]

theorem Dev.wrapUp_rest (hr : AllRegs A) (d : Dev) (f : Fld) (n : Nat) :
    (d.wrapUp f n).rest A = d.rest A := by
  unfold Dev.wrapUp
  simp only [Dev.set_rest hr]

theorem Dev.maxUp_rest (hr : AllRegs A) (d : Dev) (f : Fld) (v : Nat) :
    (d.maxUp f v).rest A = d.rest A := by
  unfold Dev.maxUp
  simp only [Dev.set_rest hr, rest_ite, ite_self]

theorem Dev.draw_rest (h : Allows A [.free]) (d : Dev) :
    (d.draw).2.rest A = d.rest A := by
  unfold Dev.draw
  simp only [Dev.withFree_rest (h.at (by decide))]

theorem Dev.setLane_rest (h : Allows A [.lanes]) (d : Dev) (L : Nat) (l : Lane) :
    (d.setLane L l).rest A = d.rest A := by
  unfold Dev.setLane
  simp only [Dev.withLanes_rest (h.at (by decide))]

theorem Dev.modLane_rest (h : Allows A [.lanes]) (d : Dev) (L : Nat) (f : Lane → Lane) :
    (d.modLane L f).rest A = d.rest A := by
  unfold Dev.modLane
  simp only [Dev.setLane_rest h]

theorem Dev.setCl_rest (h : Allows A [.clusters]) (d : Dev) (k : Nat) (c : Cluster) :
    (d.setCl k c).rest A = d.rest A := by
  unfold Dev.setCl
  simp only [Dev.withClusters_rest (h.at (by decide))]

theorem Dev.modCl_rest (h : Allows A [.clusters]) (d : Dev) (k : Nat) (f : Cluster → Cluster) :
    (d.modCl k f).rest A = d.rest A := by
  unfold Dev.modCl
  simp only [Dev.setCl_rest h]

theorem Dev.setPh_rest (h : Allows A [.phys]) (d : Dev) (k p : Nat) (x : Phys) :
    (d.setPh k p x).rest A = d.rest A := by
  unfold Dev.setPh
  simp only [Dev.withPhys_rest (h.at (by decide))]

theorem Dev.setTmu_rest (h : Allows A [.tmus]) (d : Dev) (k t : Nat) (x : Tmu) :
    (d.setTmu k t x).rest A = d.rest A := by
  unfold Dev.setTmu
  simp only [Dev.withTmus_rest (h.at (by decide))]

theorem Dev.modTmu_rest (h : Allows A [.tmus]) (d : Dev) (k t : Nat) (f : Tmu → Tmu) :
    (d.modTmu k t f).rest A = d.rest A := by
  unfold Dev.modTmu
  simp only [Dev.setTmu_rest h]

theorem Dev.setFq_rest (h : Allows A [.freqs]) (d : Dev) (k : Nat) (x : Freq) :
    (d.setFq k x).rest A = d.rest A := by
  unfold Dev.setFq
  simp only [Dev.withFreqs_rest (h.at (by decide))]

theorem Dev.modFq_rest (h : Allows A [.freqs]) (d : Dev) (k : Nat) (f : Freq → Freq) :
    (d.modFq k f).rest A = d.rest A := by
  unfold Dev.modFq
  simp only [Dev.setFq_rest h]

theorem Dev.setLg_rest (h : Allows A [.lockGroups]) (d : Dev) (g : Nat) (x : LockGroup) :
    (d.setLg g x).rest A = d.rest A := by
  unfold Dev.setLg
  simp only [Dev.withLockGroups_rest (h.at (by decide))]

theorem Dev.modLg_rest (h : Allows A [.lockGroups]) (d : Dev) (g : Nat) (f : LockGroup → LockGroup) :
    (d.modLg g f).rest A = d.rest A := by
  unfold Dev.modLg
  simp only [Dev.setLg_rest h]

theorem Dev.setLine_rest (h : Allows A [.lines]) (d : Dev) (g : Nat) (x : Line) :
    (d.setLine g x).rest A = d.rest A := by
  unfold Dev.setLine
  simp only [Dev.withLines_rest (h.at (by decide))]

theorem Dev.modLine_rest (h : Allows A [.lines]) (d : Dev) (g : Nat) (f : Line → Line) :
    (d.modLine g f).rest A = d.rest A := by
  unfold Dev.modLine
  simp only [Dev.setLine_rest h]

theorem Dev.setSn_rest (h : Allows A [.sessions]) (d : Dev) (s : Nat) (x : Session) :
    (d.setSn s x).rest A = d.rest A := by
  unfold Dev.setSn
  simp only [Dev.withSessions_rest (h.at (by decide))]

theorem Dev.modSn_rest (h : Allows A [.sessions]) (d : Dev) (s : Nat) (f : Session → Session) :
    (d.modSn s f).rest A = d.rest A := by
  unfold Dev.modSn
  simp only [Dev.setSn_rest h]

theorem Dev.setRing_rest (h : Allows A [.rings]) (d : Dev) (r : Nat) (x : Option Ring) :
    (d.setRing r x).rest A = d.rest A := by
  unfold Dev.setRing
  simp only [Dev.withRings_rest (h.at (by decide))]

theorem Dev.setSource_rest (h : Allows A [.faults]) (d : Dev) (n : Nat) (x : Source) :
    (d.setSource n x).rest A = d.rest A := by
  unfold Dev.setSource
  simp only [Dev.withFaults_rest (h.at (by decide))]

theorem Dev.msix_rest (h : Allows A [.sessions, .sent]) (d : Dev) (ss v : Nat) (owed : Bool) :
    (d.msix ss v owed).rest A = d.rest A := by
  unfold Dev.msix
  simp only [Dev.setSn_rest (h.of (by decide)), Dev.withSent_rest (h.at (by decide)), rest_ite, ite_self]

theorem Dev.irqAt_rest (h : Allows A [.common, .access, .sessions, .sent]) (d : Dev) (pg : Page) (ss : Nat)
    (bit : Nat) :
    (d.irqAt pg ss bit).rest A = d.rest A := by
  have hp := h.page (by decide) pg (show 0x1C < 0x20 by decide)
  have hkey : A (keyPart (if pg.perIrq then sessKey ss + PAGE_IRQ_STAT pg.base else PAGE_IRQ_STAT pg.base)) = true := by
    split
    · rw [keyPart_sess]
      exact hp
    · exact hp
  unfold Dev.irqAt
  dsimp only
  rw [rest_ite, Dev.msix_rest (h.of (by decide)), ite_self]
  exact Dev.stick_rest_at _ hkey (h.at (by decide)) d

theorem Dev.irqOwner_rest (h : Allows A [.common, .access, .sessions, .sent]) (d : Dev) (pg : Page) (bit : Nat) :
    (d.irqOwner pg bit).rest A = d.rest A := by
  unfold Dev.irqOwner
  split
  · exact Dev.irqAt_rest h ..
  · exact Dev.stick_rest_at _ (h.page (by decide) pg (by decide)) (h.at (by decide)) _

theorem Dev.irqAll_rest (h : Allows A [.common, .access, .sessions, .sent]) (d : Dev) (pg : Page) (ss : List Nat)
    (bit : Nat) :
    (d.irqAll pg ss bit).rest A = d.rest A := by
  unfold Dev.irqAll
  exact foldl_rest (fun _ _ => Dev.irqAt_rest h ..) _ _

theorem Dev.irqAfterWrite_rest (h : Allows A [.sessions, .sent]) (d : Dev) (ss v : Nat) :
    (d.irqAfterWrite ss v).rest A = d.rest A := by
  unfold Dev.irqAfterWrite
  simp only [Dev.msix_rest h, rest_ite, ite_self]

theorem srcPage_base {src b : Nat} (h : srcPage src = some b) : ∃ pg : Page, b = pg.base := by
  unfold srcPage at h
  split at h
  · next hs => exact ⟨.dev ⟨src, hs⟩, (Option.some.inj h).symm⟩
  · split at h
    · cases h
    · dsimp only at h
      generalize (src - 256) % 112 = u at h
      split at h
      · cases h
      · next hk =>
        obtain ⟨k, hkv⟩ : ∃ k : Clu, k.val = (src - 256) / 112 := ⟨⟨_, Nat.lt_of_not_le hk⟩, rfl⟩
        rw [← hkv] at h
        split at h
        · next hu => exact ⟨.ch k ⟨u, hu⟩, (Option.some.inj h).symm⟩
        · split at h
          · next hu => exact ⟨.tmu k ⟨u - 68, by omega⟩, (Option.some.inj h).symm⟩
          · split at h
            · exact ⟨.pool k, (Option.some.inj h).symm⟩
            · split at h
              · exact ⟨.seq k, (Option.some.inj h).symm⟩
              · split at h
                · exact ⟨.arm k, (Option.some.inj h).symm⟩
                · split at h
                  · exact ⟨.freq k, (Option.some.inj h).symm⟩
                  · split at h
                    · exact ⟨.ctl k, (Option.some.inj h).symm⟩
                    · cases h

theorem Dev.markSource_rest_at (h : Allows A [.dev 6, .common, .access]) {src : Nat} (hs : src < 4096) (d : Dev)
    (sev : Nat)
    (inj : Bool) : (d.markSource src sev inj).rest A = d.rest A := by
  have hkey : ∀ inj : Bool, A (keyPart ((if inj then FLT_STICKY_INJ else FLT_STICKY)
    (src / 32))) = true := fun inj => by
    have hi : src / 32 < 128 := by omega
    generalize src / 32 = i at hi
    cases inj with
    | true =>
      exact h.dev (n := 6) (by decide) (by decide) (show 0x6020 ≤ 0x6300 + 4 * i by omega)
        (show 0x6300 + 4 * i < 0x7000 by omega)
    | false =>
      exact h.dev (n := 6) (by decide) (by decide) (show 0x6020 ≤ 0x6200 + 4 * i by omega)
        (show 0x6200 + 4 * i < 0x7000 by omega)
  unfold Dev.markSource
  dsimp only
  split
  · exact Dev.stick_rest_at _ (hkey inj) (h.at (by decide)) _
  · next b hb =>
    obtain ⟨pg, rfl⟩ := srcPage_base hb
    have hpage := h.page (by decide) pg (show 0x14 < 0x20 by decide)
    split
    · exact (Dev.stick_rest_at _ hpage (h.at (by decide)) _).trans (Dev.stick_rest_at _ (hkey true) (h.at
      (by decide)) _)
    · exact (Dev.stick_rest_at _ hpage (h.at (by decide)) _).trans (Dev.stick_rest_at _ (hkey false) (h.at
      (by decide)) _)

theorem Dev.markSource_rest (hr : AllRegs A) (h : Allows A [.access]) (d : Dev) (src sev : Nat) (inj : Bool) :
    (d.markSource src sev inj).rest A = d.rest A := by
  unfold Dev.markSource
  dsimp only
  repeat' split
  all_goals simp only [Dev.stick_rest hr h]

theorem Dev.raise_rest_at (h : Allows A [.dev 6, .common, .access, .faults]) {src : Nat} (hs : src < 4096) (d : Dev)
    (kind sev addr : Nat) (dest : List Nat) : (d.raise src kind sev addr dest).rest A = d.rest A := by
  unfold Dev.raise
  dsimp only
  split
  · simp only [Dev.setSource_rest (h.of (by decide)), Dev.markSource_rest_at (h.of (by decide)) hs]
  · simp only [Dev.setSource_rest (h.of (by decide)), Dev.withFaults_rest (h.at (by decide)),
      Dev.markSource_rest_at (h.of (by decide)) hs]

theorem Dev.raise_rest (hr : AllRegs A) (h : Allows A [.access, .faults]) (d : Dev) (src kind sev addr : Nat)
    (dest : List Nat) :
    (d.raise src kind sev addr dest).rest A = d.rest A := by
  unfold Dev.raise
  dsimp only
  repeat' split
  all_goals simp only [Dev.markSource_rest hr (h.of (by decide)), Dev.setSource_rest (h.of (by decide)),
    Dev.withFaults_rest (h.at (by decide))]

theorem page_src_lt (pg : Page) : pg.src < 4096 := by
  cases pg with
  | dev n | ctl k | seq k | arm k | pool k | freq k => simp only [Page.src]; omega
  | ch k p => simp only [Page.src]; omega
  | tmu k t => simp only [Page.src]; omega

theorem Dev.discard_rest (h : Allows A [.dev 6, .common, .access, .faults]) (d : Dev) (ss : Nat) (pg : Page)
    (off : Nat) :
    (d.discard ss pg off).rest A = d.rest A := Dev.raise_rest_at h (page_src_lt pg) ..

theorem Dev.discardAt_rest (h : Allows A [.dev 6, .common, .access, .faults]) (d : Dev) (ss addr : Nat) :
    (d.discardAt ss addr).rest A = d.rest A := Dev.raise_rest_at h (by decide) ..

theorem Dev.wrote_rest (h : Allows A [.access]) (d : Dev) (ss key : Nat) (val : Word) :
    (d.wrote ss key val).rest A = d.rest A := by
  unfold Dev.wrote
  simp only [Dev.withAccess_rest (h.at (by decide))]

theorem Dev.unwrite_rest (hr : AllRegs A) (h : Allows A [.access, .timeBase, .dirum, .lockGroups, .lanes, .phys, .tmus,
    .freqs, .clusters, .lines, .matrix, .caliper, .pointing, .sched, .selfTest, .faults, .sessions, .rings, .nvmQueue,
      .security, .plinth, .boot, .sent]) (d : Dev) (u : Undo) :
    (d.unwrite u).rest A = d.rest A := by
  simp only [Allows, List.forall_mem_cons] at h
  refine Prod.ext ?_ (funext fun j => ?_)
  · simp only [Dev.unwrite, Dev.rest, h, if_true]
  · simp only [Dev.rest, hr.key j, if_true]

theorem Dev.trackedAt_rest (h : Allows A [.access]) (d : Dev) (key : Nat) (f : Dev → Dev) (cmd : Option (Nat × Nat))
    (hf : ∀ d, (f d).rest A = d.rest A) :
    (d.trackedAt key f cmd).rest A = d.rest A := by
  unfold Dev.trackedAt
  simp only [Dev.withAccess_rest (h.at (by decide)), hf]

theorem Dev.tracked_rest (h : Allows A [.access]) (d : Dev) (pg : Page) (f : Dev → Dev) (cmd : Option (Nat × Nat))
    (hf : ∀ d, (f d).rest A = d.rest A) :
    (d.tracked pg f cmd).rest A = d.rest A := by
  unfold Dev.tracked
  simp only [Dev.trackedAt_rest h, implies_true, hf]

theorem Dev.undoKey_rest (hr : AllRegs A) (h : Allows A [.access, .timeBase, .dirum, .lockGroups, .lanes, .phys, .tmus,
    .freqs, .clusters, .lines, .matrix, .caliper, .pointing, .sched, .selfTest, .faults, .sessions, .rings, .nvmQueue,
      .security, .plinth, .boot, .sent]) (d : Dev) (key : Nat) :
    (d.undoKey key).rest A = d.rest A := by
  unfold Dev.undoKey
  simp only [Dev.unwrite_rest hr h, Dev.withAccess_rest (h.at (by decide)), foldr_rest, implies_true]

theorem Dev.unwritePage_rest (hr : AllRegs A) (h : Allows A [.access, .timeBase, .dirum, .lockGroups, .lanes, .phys,
    .tmus, .freqs, .clusters, .lines, .matrix, .caliper, .pointing, .sched, .selfTest, .faults, .sessions, .rings,
      .nvmQueue, .security, .plinth, .boot, .sent]) (d : Dev) (pg : Page) :
    (d.unwritePage pg).rest A = d.rest A := by
  unfold Dev.unwritePage
  simp only [Dev.undoKey_rest hr h]

theorem Dev.uncommand_rest (hr : AllRegs A) (h : Allows A [.access, .timeBase, .dirum, .lockGroups, .lanes, .phys,
    .tmus, .freqs, .clusters, .lines, .matrix, .caliper, .pointing, .sched, .selfTest, .faults, .sessions, .rings,
      .nvmQueue, .security, .plinth, .boot, .sent]) (d : Dev) (pg : Page) :
    (d.uncommand pg).rest A = d.rest A := by
  have back : ∀ (u : Undo) (d : Dev), (match u.cmd with
      | some (ss, off) => (d.unwrite u).discard ss pg off
      | none => d).rest A = d.rest A := fun u d => by
    split
    · rw [Dev.discard_rest (h.plus hr (by decide)), Dev.unwrite_rest hr h]
    · rfl
  unfold Dev.uncommand
  dsimp only
  rw [Dev.withAccess_rest (h.at (by decide))]
  exact foldr_rest back _ _

theorem Dev.askAgain_rest (h : Allows A [.access]) (d : Dev) (key ss : Nat) (val : Word) :
    (d.askAgain key ss val).rest A = d.rest A := by
  unfold Dev.askAgain
  simp only [Dev.withAccess_rest (h.at (by decide))]

theorem Dev.stall_rest (h : Allows A [.access]) (d : Dev) (ss addr : Nat) (vals : List Word) :
    (d.stall ss addr vals).rest A = d.rest A := by
  unfold Dev.stall
  simp only [Dev.withAccess_rest (h.at (by decide))]

theorem Dev.hostWrite_rest (h : Allows A [.dev 6, .common, .access, .faults]) (d : Dev) (ss : Nat) (pg : Page)
    (off : Nat) (vals : List Word) (who : Who) (cmd : Bool) (f : Dev → Dev) (hf : ∀ d, (f d).rest A = d.rest A) :
    (d.hostWrite ss pg off vals who cmd f).rest A = d.rest A := by
  unfold Dev.hostWrite
  simp only [Dev.discard_rest h, Dev.tracked_rest (h.of (by decide)), Dev.stall_rest (h.of (by decide)), rest_ite,
    implies_true, ite_self, hf]

end Sys2Proof.Machine
end

