-- ==== Sys2Proof/Proofs/FrameUnits.lean ====
section
/-! SUPPORT. What the operations of lanes, TMUs, Armature, Caliper, the Pointing Engine, and self-test leave alone, one
lemma for each (`Dev.rest`). -/

namespace Sys2Proof.Machine
variable {A : Part → Bool}

theorem Dev.nvmPin_rest (h : Allows A [.nvmQueue]) (d : Dev) :
    (d.nvmPin).rest A = d.rest A := by
  unfold Dev.nvmPin
  simp only [Dev.withNvmQueue_rest (h.at (by decide))]

theorem Dev.nvmAsk_rest (h : Allows A [.nvmQueue]) (d : Dev) (r : Nat) (f : Dev → Dev) (hf : ∀ d,
    (f d).rest A = d.rest A) :
    (d.nvmAsk r f).rest A = d.rest A := by
  unfold Dev.nvmAsk
  dsimp only
  repeat' split
  all_goals simp only [Dev.nvmPin_rest h, Dev.withNvmQueue_rest (h.at (by decide)), hf]

theorem Dev.fadeOut_rest (h : Allows A [.matrix]) (d : Dev) (key : Nat) (old : Word) :
    (d.fadeOut key old).rest A = d.rest A := by
  unfold Dev.fadeOut
  simp only [Dev.withMatrix_rest (h.at (by decide))]

theorem Dev.offer_rest (h : Allows A [.clusters]) (d : Dev) (k r origin hop at_ : Nat) (glob : Bool) :
    (d.offer k r origin hop at_ glob).rest A = d.rest A := by
  unfold Dev.offer
  simp only [Dev.modCl_rest h]

theorem Dev.hopDrop_rest (hr : AllRegs A) (h : Allows A [.access, .faults, .sessions, .sent]) (d : Dev) (k r : Nat)
    (owner : Nat) :
    (d.hopDrop k r owner).rest A = d.rest A := by
  unfold Dev.hopDrop
  split
  all_goals simp only [Dev.stick_rest hr (h.of (by decide)), Dev.raise_rest hr (h.of (by decide)), Dev.bump_rest hr,
    Dev.irqAt_rest (h.plus hr (by decide))]

theorem Dev.emit_rest (hr : AllRegs A) (h : Allows A [.access, .clusters, .faults, .sessions, .sent]) (d : Dev)
    (k r origin hop : Nat) :
    (d.emit k r origin hop).rest A = d.rest A := by
  unfold Dev.emit
  split
  all_goals simp only [Dev.offer_rest (h.of (by decide)), Dev.hopDrop_rest hr (h.of (by decide)), rest_ite, ite_self]

theorem Dev.clearCol_rest (h : Allows A [.clusters, .lines]) (d : Dev) (k c : Nat) :
    (d.clearCol k c).rest A = d.rest A := by
  unfold Dev.clearCol
  simp only [Dev.modCl_rest (h.of (by decide)), Dev.modLine_rest (h.of (by decide)), rest_ite, foldl_rest,
    implies_true, ite_self]

theorem Dev.clearGcols_rest (h : Allows A [.matrix]) (d : Dev) (g : Nat) :
    (d.clearGcols g).rest A = d.rest A := by
  unfold Dev.clearGcols
  simp only [Dev.withMatrix_rest (h.at (by decide))]

theorem Dev.resetLine_rest (hr : AllRegs A) (h : Allows A [.lines, .matrix]) (d : Dev) (L : Nat) :
    (d.resetLine L).rest A = d.rest A := by
  unfold Dev.resetLine
  simp only [Dev.modLine_rest (h.of (by decide)), Dev.set_rest hr, Dev.withMatrix_rest (h.at (by decide)), foldl_rest,
    implies_true]

theorem Dev.revoke_rest (hr : AllRegs A) (h : Allows A [.clusters]) (d : Dev) (k : Nat) :
    (d.revoke k).rest A = d.rest A := by
  unfold Dev.revoke
  simp only [Dev.modCl_rest h, Dev.set_rest hr, rest_ite, foldl_rest, implies_true, ite_self]

theorem Dev.revokeGlobal_rest (h : Allows A [.matrix]) (d : Dev) :
    (d.revokeGlobal).rest A = d.rest A := by
  unfold Dev.revokeGlobal
  simp only [Dev.withMatrix_rest (h.at (by decide))]

theorem Dev.revokeAll_rest (hr : AllRegs A) (h : Allows A [.clusters, .matrix]) (d : Dev) :
    (d.revokeAll).rest A = d.rest A := by
  unfold Dev.revokeAll
  simp only [Dev.revokeGlobal_rest (h.of (by decide)), Dev.revoke_rest hr (h.of (by decide)), foldl_rest, implies_true]

theorem Dev.groupIdle_rest (hr : AllRegs A) (h : Allows A [.lockGroups, .lines]) (d : Dev) (g : Nat) :
    (d.groupIdle g).rest A = d.rest A := by
  unfold Dev.groupIdle
  dsimp only
  repeat' split
  all_goals simp only [Dev.setLg_rest (h.of (by decide)), Dev.modLine_rest (h.of (by decide)), Dev.set_rest hr]

theorem Dev.groupCheck_rest (hr : AllRegs A) (h : Allows A [.lockGroups, .lines]) (d : Dev) (g : Nat) :
    (d.groupCheck g).rest A = d.rest A := by
  unfold Dev.groupCheck
  simp only [Dev.groupIdle_rest hr h, rest_ite, ite_self]

theorem Dev.dropResults_rest (h : Allows A [.lanes]) (d : Dev) (L : Nat) (ids : List Nat) :
    (d.dropResults L ids).rest A = d.rest A := by
  unfold Dev.dropResults
  simp only [Dev.modLane_rest h]

theorem Dev.loseCands_rest (h : Allows A [.lanes]) (d : Dev) (L : Nat) (cs : List Cand) :
    (d.loseCands L cs).rest A = d.rest A := by
  unfold Dev.loseCands
  simp only [Dev.dropResults_rest h, Dev.setLane_rest h]

theorem Dev.newResult_rest (h : Allows A [.lanes]) (d : Dev) (L p mode : Nat) (own : Bool) (expect : Option Nat)
    (hop : Nat) :
    (d.newResult L p mode own expect hop).2.rest A = d.rest A := by
  unfold Dev.newResult
  simp only [Dev.setLane_rest h]

theorem Dev.addCand_rest (h : Allows A [.lanes]) (d : Dev) (L : Nat) (c : Cand) :
    (d.addCand L c).rest A = d.rest A := by
  unfold Dev.addCand
  simp only [Dev.modLane_rest h, Dev.loseCands_rest h, rest_ite, ite_self]

theorem Dev.addEdge_rest (h : Allows A [.lanes]) (d : Dev) (L eg sched : Nat) (src : CandSrc) (iss : Nat) (uses : List
    (Nat × Nat)) :
    (d.addEdge L eg sched src iss uses).rest A = d.rest A := by
  unfold Dev.addEdge
  simp only [Dev.addCand_rest h]

theorem Dev.ownStrobe_rest (h : Allows A [.lanes]) (d : Dev) (L eg t : Nat) (src : CandSrc) (iss hop : Nat) :
    (d.ownStrobe L eg t src iss hop).rest A = d.rest A := by
  unfold Dev.ownStrobe
  simp only [Dev.newResult_rest h, Dev.addEdge_rest h]

theorem Dev.ownWindow_rest (h : Allows A [.lanes]) (d : Dev) (L t w : Nat) (src : CandSrc) (iss hop : Nat) :
    (d.ownWindow L t w src iss hop).rest A = d.rest A := by
  unfold Dev.ownWindow
  simp only [Dev.newResult_rest h, Dev.addEdge_rest h]

theorem Dev.fireAt_rest (h : Allows A [.lanes]) (d : Dev) (L mask t : Nat) (src : CandSrc) (iss hop : Nat) :
    (d.fireAt L mask t src iss hop).rest A = d.rest A := by
  unfold Dev.fireAt
  simp only [Dev.ownStrobe_rest h, Dev.addEdge_rest h, rest_ite, foldl_rest, implies_true, ite_self]

theorem Dev.pulseAt_rest (h : Allows A [.lanes]) (d : Dev) (L mask t w : Nat) (src : CandSrc) (iss hop : Nat) :
    (d.pulseAt L mask t w src iss hop).rest A = d.rest A := by
  unfold Dev.pulseAt
  simp only [Dev.addEdge_rest h, Dev.ownStrobe_rest h, Dev.ownWindow_rest h, rest_ite, foldl_rest, implies_true,
    ite_self]

theorem Dev.shadowBoundary_rest (h : Allows A [.clusters]) (d : Dev) (L p : Nat) :
    (d.shadowBoundary L p).rest A = d.rest A := by
  unfold Dev.shadowBoundary
  split
  all_goals simp only [Dev.modCl_rest h, rest_ite, ite_self]

theorem Dev.roleIdle_rest (hr : AllRegs A) (d : Dev) (k p : Nat) :
    (d.roleIdle k p).rest A = d.rest A := by
  unfold Dev.roleIdle
  simp only [Dev.set_rest hr]

theorem Dev.swapAbandon_rest (hr : AllRegs A) (h : Allows A [.access, .clusters, .faults]) (d : Dev) (k : Nat)
    (again : Bool) :
    (d.swapAbandon k again).rest A = d.rest A := by
  unfold Dev.swapAbandon
  split
  all_goals simp only [Dev.wrapUp_rest hr, Dev.modCl_rest (h.of (by decide)), Dev.raise_rest hr (h.of (by decide)),
    Dev.roleIdle_rest hr, Dev.set_rest hr]

theorem Dev.setHold_rest (hr : AllRegs A) (d : Dev) (L set : Nat) :
    (d.setHold L set).rest A = d.rest A := by
  unfold Dev.setHold
  simp only [Dev.set_rest hr]

theorem Dev.markStale_rest (h : Allows A [.tmus, .freqs]) (d : Dev) (L : Nat) :
    (d.markStale L).rest A = d.rest A := by
  unfold Dev.markStale
  simp only [Dev.modFq_rest (h.of (by decide)), Dev.withTmus_rest (h.at (by decide))]

theorem Dev.markHold_rest (h : Allows A [.tmus, .freqs]) (d : Dev) (L cause : Nat) :
    (d.markHold L cause).rest A = d.rest A := by
  unfold Dev.markHold
  simp only [Dev.markStale_rest h, rest_ite, ite_self]

theorem Dev.holdEnter_rest (hr : AllRegs A) (h : Allows A [.access, .lanes, .tmus, .freqs, .clusters, .faults])
    (d : Dev) (L cause : Nat) :
    (d.holdEnter L cause).rest A = d.rest A := by
  unfold Dev.holdEnter
  dsimp only
  repeat' split
  all_goals simp only [Dev.markHold_rest (h.of (by decide)), Dev.modLane_rest (h.of (by decide)),
    Dev.swapAbandon_rest hr (h.of (by decide)), Dev.setHold_rest hr, Dev.loseCands_rest (h.of (by decide))]

theorem Dev.holdEnd_rest (hr : AllRegs A) (h : Allows A [.tmus, .freqs]) (d : Dev) (L cause : Nat) :
    (d.holdEnd L cause).rest A = d.rest A := by
  unfold Dev.holdEnd
  simp only [Dev.markHold_rest h, Dev.setHold_rest hr, rest_ite, ite_self]

theorem Dev.cutCands_rest (h : Allows A [.lanes]) (d : Dev) (L : Nat) (p : Cand → Bool) :
    (d.cutCands L p).rest A = d.rest A := by
  unfold Dev.cutCands
  simp only [Dev.setLane_rest h, Dev.dropResults_rest h]

theorem Dev.takeBack_rest (h : Allows A [.lanes]) (d : Dev) (L t : Nat) :
    (d.takeBack L t).rest A = d.rest A := by
  unfold Dev.takeBack
  simp only [Dev.modLane_rest h, Dev.cutCands_rest h]

theorem Dev.unresolve_rest (hr : AllRegs A) (h : Allows A [.lanes]) (d : Dev) (L : Nat) :
    (d.unresolve L).rest A = d.rest A := by
  unfold Dev.unresolve
  split
  all_goals simp only [Dev.takeBack_rest h, Dev.modLane_rest h, Dev.set_rest hr, rest_ite, ite_self]

theorem Dev.askStop_rest (hr : AllRegs A) (h : Allows A [.lanes]) (d : Dev) (L t err : Nat) :
    (d.askStop L t err).rest A = d.rest A := by
  unfold Dev.askStop
  simp only [Dev.modLane_rest h, Dev.takeBack_rest h, Dev.unresolve_rest hr h, Dev.setLane_rest h]

theorem Dev.groupStop_rest (hr : AllRegs A) (h : Allows A [.lockGroups, .lanes]) (d : Dev) (g t err : Nat)
    (except : Option Nat) :
    (d.groupStop g t err except).rest A = d.rest A := by
  unfold Dev.groupStop
  simp only [Dev.setLg_rest (h.of (by decide)), Dev.modLane_rest (h.of (by decide)), Dev.askStop_rest hr (h.of
    (by decide)), rest_ite, foldl_rest, implies_true, ite_self]

theorem Dev.showReq_rest (hr : AllRegs A) (d : Dev) (k : Nat) :
    (d.showReq k).rest A = d.rest A := by
  unfold Dev.showReq
  simp only [Dev.set_rest hr]

theorem Dev.request2_rest (hr : AllRegs A) (h : Allows A [.clusters]) (d : Dev) (k vec j : Nat) :
    (d.request2 k vec j).rest A = d.rest A := by
  unfold Dev.request2
  simp only [Dev.setCl_rest h, Dev.showReq_rest hr, rest_ite, ite_self]

theorem Dev.dropPrime_rest (hr : AllRegs A) (h : Allows A [.clusters]) (d : Dev) (k j : Nat) :
    (d.dropPrime k j).rest A = d.rest A := by
  unfold Dev.dropPrime
  simp only [Dev.modCl_rest h, Dev.showReq_rest hr]

theorem Dev.progStopped_rest (hr : AllRegs A) (h : Allows A [.access, .lanes, .clusters, .sessions, .sent]) (d : Dev)
    (L err : Nat) :
    (d.progStopped L err).rest A = d.rest A := by
  unfold Dev.progStopped
  simp only [Dev.modLane_rest (h.of (by decide)), Dev.set_rest hr, Dev.request2_rest hr (h.of (by decide)),
    Dev.cutCands_rest (h.of (by decide)), Dev.dropPrime_rest hr (h.of (by decide)), Dev.irqOwner_rest (h.plus hr
      (by decide))]

theorem Dev.progFault_rest (hr : AllRegs A) (h : Allows A [.access, .lockGroups, .lanes, .clusters, .lines, .sessions,
    .sent]) (d : Dev) (L err t : Nat) :
    (d.progFault L err t).rest A = d.rest A := by
  unfold Dev.progFault
  dsimp only
  repeat' split
  all_goals simp only [Dev.groupStop_rest hr (h.of (by decide)), Dev.groupCheck_rest hr (h.of (by decide)),
    Dev.progStopped_rest hr (h.of (by decide))]

theorem Dev.putWord_rest_at {key : Nat} (hk : A (keyPart key) = true) (ha : A .access = true) (d : Dev) (ss : Nat)
    (r : Row)
    (val : Word) : (d.putWord ss key r val).rest A = d.rest A := by
  unfold Dev.putWord Dev.wrote
  simp only [Dev.setReg_rest_at hk, Dev.withAccess_rest ha, rest_ite, ite_self]

theorem Dev.putWord_rest (hr : AllRegs A) (h : Allows A [.access]) (d : Dev) (ss key : Nat) (r : Row) (val : Word) :
    (d.putWord ss key r val).rest A = d.rest A := by
  unfold Dev.putWord
  simp only [Dev.setReg_rest hr, Dev.wrote_rest h, rest_ite, ite_self]

theorem Dev.holdLow_rest (h : Allows A [.access]) (d : Dev) (ss key : Nat) (r : Row) (val : Word) :
    (d.holdLow ss key r val).rest A = d.rest A := by
  unfold Dev.holdLow
  simp only [Dev.wrote_rest h, Dev.withAccess_rest (h.at (by decide)), rest_ite, ite_self]

/-- The registers of a device page from offset 0x24 upwards. -/
theorem Dev.plainWrite_rest_at {n : Fin 15} {off : Nat} (h1 : 0x24 ≤ off) (h2 : off < 0x1000) (hn : A
    (.dev n.val) = true)
    (h : Allows A [.dev 6, .common, .access, .faults]) (d : Dev) (ss : Nat) (val : Word) :
    (d.plainWrite ss (.dev n) off val).rest A = d.rest A := by
  have hpage : ∀ {off}, 0x20 ≤ off → off < 0x1000 → A (keyPart (Page.base (.dev n) + off)) = true := fun h1 h2 => by
    rw [keyPart_page _ h2, if_neg (by omega)]
    exact hn
  have hsess : ∀ {off}, 0x20 ≤ off → off < 0x1000 → A (keyPart (sessKey ss + (Page.base (.dev n) + off))) = true :=
    fun h1 h2 => by
      rw [keyPart_sess]
      exact hpage h1 h2
  have hkey : ∀ r : Row, A (keyPart (r.key (.dev n) off ss)) = true := fun r => by
    unfold Row.key
    split
    · exact hsess (by omega) h2
    · exact hpage (by omega) h2
  have hlow : ∀ r : Row, A (keyPart (r.key (.dev n) off ss - 4)) = true := fun r => by
    unfold Row.key
    split
    · rw [Nat.add_sub_assoc (by omega), Nat.add_sub_assoc (by omega)]
      exact hsess (by omega) (by omega)
    · rw [Nat.add_sub_assoc (by omega)]
      exact hpage (by omega) (by omega)
  unfold Dev.plainWrite
  dsimp only
  split
  · exact Dev.discard_rest h ..
  · split
    · exact Dev.holdLow_rest (h.of (by decide)) ..
    · split
      · split
        · rfl
        · rw [Dev.putWord_rest_at (hkey _) (h.at (by decide)), Dev.putWord_rest_at (hlow _) (h.at (by decide))]
      · exact Dev.putWord_rest_at (hkey _) (h.at (by decide)) ..

theorem Dev.plainWrite_rest (hr : AllRegs A) (h : Allows A [.access, .faults]) (d : Dev) (ss : Nat) (pg : Page)
    (off : Nat) (val : Word) :
    (d.plainWrite ss pg off val).rest A = d.rest A := by
  unfold Dev.plainWrite
  dsimp only
  repeat' split
  all_goals simp only [Dev.putWord_rest hr (h.of (by decide)), Dev.holdLow_rest (h.of (by decide)), Dev.discard_rest
    (h.plus hr (by decide))]

theorem Dev.cmdWrite_rest_at {n : Fin 15} {off : Nat} (h1 : 0x24 ≤ off) (h2 : off < 0x1000) (hn : A (.dev n.val) = true)
    (h : Allows A [.dev 6, .common, .access, .faults]) (d : Dev) (ss : Nat) (val : Word) (go : Bool) (f : Dev → Dev)
    (hf : ∀ d, (f d).rest A = d.rest A) : (d.cmdWrite ss (.dev n) off val go f).rest A = d.rest A := by
  unfold Dev.cmdWrite
  simp only [Dev.plainWrite_rest_at h1 h2 hn h, Dev.hostWrite_rest h, rest_ite, implies_true, ite_self, hf]

theorem Dev.cmdWrite_rest (hr : AllRegs A) (h : Allows A [.access, .faults]) (d : Dev) (ss : Nat) (pg : Page)
    (off : Nat) (val : Word) (go : Bool) (f : Dev → Dev) (hf : ∀ d, (f d).rest A = d.rest A) :
    (d.cmdWrite ss pg off val go f).rest A = d.rest A := by
  unfold Dev.cmdWrite
  simp only [Dev.plainWrite_rest hr h, Dev.hostWrite_rest (h.plus hr (by decide)), rest_ite, implies_true, ite_self, hf]

theorem Dev.slotIdle_rest (hr : AllRegs A) (h : Allows A [.clusters]) (d : Dev) (k s : Nat) :
    (d.slotIdle k s).rest A = d.rest A := by
  unfold Dev.slotIdle
  dsimp only
  repeat' split
  all_goals simp only [Dev.set_rest hr, Dev.modCl_rest h]

theorem Dev.hbmQueue_rest (h : Allows A [.sched]) (d : Dev) (flow : Nat) (x : Xfer) :
    (d.hbmQueue flow x).rest A = d.rest A := by
  unfold Dev.hbmQueue
  simp only [Dev.withSched_rest (h.at (by decide))]

theorem Dev.creditTake_rest (h : Allows A [.clusters, .sched, .rings, .sent]) (d : Dev) (k ring : Nat)
    (body : BitVec 128) :
    (d.creditTake k ring body).rest A = d.rest A := by
  unfold Dev.creditTake
  split
  all_goals simp only [Dev.setRing_rest (h.of (by decide)), Dev.modCl_rest (h.of (by decide)), Dev.hbmQueue_rest (h.of
    (by decide))]

theorem Dev.recordDrop_rest (hr : AllRegs A) (h : Allows A [.access, .sessions, .rings, .sent]) (d : Dev)
    (k ring : Nat) :
    (d.recordDrop k ring).rest A = d.rest A := by
  unfold Dev.recordDrop
  split
  all_goals simp only [Dev.wrapUp_rest hr, Dev.setRing_rest (h.of (by decide)), Dev.irqOwner_rest (h.plus hr
    (by decide))]

theorem Dev.recordBad_rest (hr : AllRegs A) (h : Allows A [.access, .faults, .sessions, .sent]) (d : Dev)
    (k ring session : Nat) :
    (d.recordBad k ring session).rest A = d.rest A := by
  unfold Dev.recordBad
  simp only [Dev.stick_rest hr (h.of (by decide)), Dev.irqOwner_rest (h.plus hr (by decide)), Dev.raise_rest hr (h.of
    (by decide))]

theorem Dev.slotFree_rest (hr : AllRegs A) (h : Allows A [.clusters]) (d : Dev) (k : Nat) (slot : Option Nat) :
    (d.slotFree k slot).rest A = d.rest A := by
  unfold Dev.slotFree
  split
  all_goals simp only [Dev.slotIdle_rest hr h]

theorem Dev.serveRec_rest (hr : AllRegs A) (h : Allows A [.access, .clusters, .sched, .faults, .sessions, .rings,
    .sent]) (d : Dev) (k : Nat) (late : Bool) (r : WaitRec) :
    (d.serveRec k late r).rest A = d.rest A := by
  unfold Dev.serveRec
  simp only [Dev.slotFree_rest hr (h.of (by decide)), Dev.recordDrop_rest hr (h.of (by decide)), Dev.modCl_rest (h.of
    (by decide)), Dev.recordBad_rest hr (h.of (by decide)), Dev.creditTake_rest (h.of (by decide)), rest_ite, ite_self]

theorem Dev.serveWaiting_rest (hr : AllRegs A) (h : Allows A [.access, .clusters, .sched, .faults, .sessions, .rings,
    .sent]) (d : Dev) (k : Nat) (late : Bool) :
    (d.serveWaiting k late).rest A = d.rest A := by
  unfold Dev.serveWaiting
  simp only [Dev.modCl_rest (h.of (by decide)), Dev.serveRec_rest hr h, rest_ite, foldl_rest, implies_true, ite_self]

theorem Dev.serveAll_rest (hr : AllRegs A) (h : Allows A [.access, .clusters, .sched, .faults, .sessions, .rings,
    .sent]) (d : Dev) :
    (d.serveAll).rest A = d.rest A := by
  unfold Dev.serveAll
  simp only [Dev.serveWaiting_rest hr h, foldl_rest, implies_true]

theorem Dev.recordWait_rest (hr : AllRegs A) (h : Allows A [.access, .clusters, .sched, .faults, .sessions, .rings,
    .sent]) (d : Dev) (k : Nat) (r : WaitRec) :
    (d.recordWait k r).rest A = d.rest A := by
  unfold Dev.recordWait
  simp only [Dev.modCl_rest (h.of (by decide)), Dev.serveWaiting_rest hr h]

theorem Dev.stampEnd_rest (h : Allows A [.freqs]) (d : Dev) (k g0 : Nat) (f : FreqGate → FreqGate) :
    (d.stampEnd k g0 f).rest A = d.rest A := by
  unfold Dev.stampEnd
  simp only [Dev.modFq_rest h]

theorem Dev.freqNote_rest (h : Allows A [.freqs]) (d : Dev) :
    (d.freqNote).rest A = d.rest A := by
  unfold Dev.freqNote
  simp only [Dev.withFreqs_rest (h.at (by decide))]

theorem Dev.stampMissed_rest (h : Allows A [.freqs]) (d : Dev) (k g0 : Nat) (stale : Bool) :
    (d.stampMissed k g0 stale).rest A = d.rest A := by
  unfold Dev.stampMissed
  simp only [Dev.stampEnd_rest h]

theorem Dev.reqDiscard_rest (hr : AllRegs A) (h : Allows A [.freqs, .clusters]) (d : Dev) (k : Nat) (r : Req) :
    (d.reqDiscard k r).rest A = d.rest A := by
  unfold Dev.reqDiscard
  split
  all_goals simp only [Dev.stampMissed_rest (h.of (by decide)), Dev.slotIdle_rest hr (h.of (by decide))]

theorem Dev.poolDiscard_rest (hr : AllRegs A) (h : Allows A [.freqs, .clusters]) (d : Dev) (k : Nat) :
    (d.poolDiscard k).rest A = d.rest A := by
  unfold Dev.poolDiscard
  simp only [Dev.modCl_rest (h.of (by decide)), Dev.reqDiscard_rest hr h, foldl_rest, implies_true]

theorem Dev.genUp_rest (hr : AllRegs A) (d : Dev) :
    (d.genUp).rest A = d.rest A := by
  unfold Dev.genUp
  simp only [Dev.wrapUp_rest hr]

theorem Dev.swTrigger_rest (hr : AllRegs A) (h : Allows A [.access, .lanes]) (d : Dev) (L : Nat) :
    (d.swTrigger L).rest A = d.rest A := by
  unfold Dev.swTrigger
  simp only [Dev.stickIf_rest hr (h.of (by decide)), Dev.pulseAt_rest (h.of (by decide)), Dev.fireAt_rest (h.of
    (by decide)), rest_ite, ite_self]

theorem Dev.swTriggerWrite_rest (hr : AllRegs A) (h : Allows A [.access, .lanes, .faults]) (d : Dev) (ss L : Nat)
    (val : Word) :
    (d.swTriggerWrite ss L val).rest A = d.rest A := by
  unfold Dev.swTriggerWrite
  simp only [Dev.cmdWrite_rest hr (h.of (by decide)), Dev.swTrigger_rest hr (h.of (by decide)), implies_true]

theorem Dev.laneCfgWrite_rest (hr : AllRegs A) (h : Allows A [.access, .faults]) (d : Dev) (ss L : Nat) (val : Word) :
    (d.laneCfgWrite ss L val).rest A = d.rest A := by
  unfold Dev.laneCfgWrite
  simp only [Dev.hostWrite_rest (h.plus hr (by decide)), Dev.discard_rest (h.plus hr (by decide)),
    Dev.plainWrite_rest hr h, rest_ite, implies_true, ite_self]

theorem Dev.modInfo_rest (h : Allows A [.caliper]) (d : Dev) (u : CalUnit) (f : UnitInfo → UnitInfo) :
    (d.modInfo u f).rest A = d.rest A := by
  unfold Dev.modInfo
  simp only [Dev.withCaliper_rest (h.at (by decide))]

theorem Dev.passesOff_rest (h : Allows A [.caliper]) (d : Dev) :
    (d.passesOff).rest A = d.rest A := by
  unfold Dev.passesOff
  simp only [Dev.withCaliper_rest (h.at (by decide))]

theorem Dev.setJob_rest (h : Allows A [.caliper]) (d : Dev) (k : Nat) (j : CalJob) :
    (d.setJob k j).rest A = d.rest A := by
  unfold Dev.setJob
  simp only [Dev.withCaliper_rest (h.at (by decide))]

theorem Dev.showCal_rest (hr : AllRegs A) (d : Dev) :
    (d.showCal).rest A = d.rest A := by
  unfold Dev.showCal
  simp only [Dev.set_rest hr]

theorem Dev.calEnd_rest (hr : AllRegs A) (h : Allows A [.access, .sessions, .sent]) (d : Dev) (session : Option Nat)
    (result : Nat) :
    (d.calEnd session result).rest A = d.rest A := by
  unfold Dev.calEnd
  split
  all_goals simp only [Dev.irqAt_rest (h.plus hr (by decide)), Dev.set_rest hr, Dev.stick_rest hr (h.of (by decide))]

theorem Dev.rejTell_rest (hr : AllRegs A) (h : Allows A [.access, .faults]) (d : Dev) (u : CalUnit) (code : Nat)
    (dest : List Nat) :
    (d.rejTell u code dest).rest A = d.rest A := by
  unfold Dev.rejTell
  simp only [Dev.raise_rest hr h]

theorem Dev.unitNote_rest (hr : AllRegs A) (h : Allows A [.access, .caliper, .faults, .sessions, .sent]) (d : Dev)
    (k : Nat) (cmd : Bool) (u : CalUnit) (code : Nat) :
    (d.unitNote k cmd u code).rest A = d.rest A := by
  unfold Dev.unitNote
  dsimp only
  repeat' split
  all_goals simp only [Dev.modInfo_rest (h.of (by decide)), Dev.setJob_rest (h.of (by decide)), Dev.setReg_rest hr,
    Dev.rejTell_rest hr (h.of (by decide)), Dev.bump_rest hr, Dev.irqAt_rest (h.plus hr (by decide))]

theorem Dev.maintFree_rest (hr : AllRegs A) (h : Allows A [.tmus]) (d : Dev) (k t : Nat) :
    (d.maintFree k t).rest A = d.rest A := by
  unfold Dev.maintFree
  simp only [Dev.set_rest hr, Dev.modTmu_rest h, rest_ite, ite_self]

theorem Dev.maintCancel_rest (h : Allows A [.clusters]) (d : Dev) (k : Nat) (bist : Bool) :
    (d.maintCancel k bist).rest A = d.rest A := by
  unfold Dev.maintCancel
  simp only [Dev.modCl_rest h]

theorem Dev.runFree_rest (hr : AllRegs A) (h : Allows A [.tmus, .freqs, .clusters, .caliper]) (d : Dev) (k : Nat) :
    (d.runFree k).rest A = d.rest A := by
  unfold Dev.runFree
  dsimp only
  repeat' split
  all_goals simp only [Dev.set_rest hr, Dev.maintCancel_rest (h.of (by decide)), Dev.holdEnd_rest hr (h.of
    (by decide)), Dev.maintFree_rest hr (h.of (by decide)), Dev.showCal_rest hr, Dev.withCaliper_rest (h.at
      (by decide)), foldl_rest, implies_true]

theorem Dev.showBg_rest (hr : AllRegs A) (d : Dev) :
    (d.showBg).rest A = d.rest A := by
  unfold Dev.showBg
  simp only [Dev.set_rest hr]

theorem Dev.burstsEnd_rest (hr : AllRegs A) (h : Allows A [.tmus]) (d : Dev) (k : Nat) :
    (d.burstsEnd k).rest A = d.rest A := by
  unfold Dev.burstsEnd
  simp only [Dev.showBg_rest hr, Dev.maintFree_rest hr h, rest_ite, foldl_rest, implies_true, ite_self]

theorem Dev.jobOver_rest (hr : AllRegs A) (h : Allows A [.access, .caliper, .sessions, .sent]) (d : Dev) (k : Nat) :
    (d.jobOver k).rest A = d.rest A := by
  unfold Dev.jobOver
  split
  all_goals simp only [Dev.showCal_rest hr, Dev.calEnd_rest hr (h.of (by decide)), Dev.withCaliper_rest (h.at
    (by decide))]

theorem Dev.jobAbort_rest (hr : AllRegs A) (h : Allows A [.access, .tmus, .freqs, .clusters, .caliper, .faults,
    .sessions, .sent]) (d : Dev) (k : Nat) :
    (d.jobAbort k).rest A = d.rest A := by
  unfold Dev.jobAbort
  dsimp only
  repeat' split
  all_goals simp only [Dev.setJob_rest (h.of (by decide)), Dev.runFree_rest hr (h.of (by decide)),
    Dev.unitNote_rest hr (h.of (by decide)), Dev.jobOver_rest hr (h.of (by decide)), foldl_rest, implies_true]

theorem Dev.calMchk_rest (hr : AllRegs A) (h : Allows A [.access, .tmus, .freqs, .clusters, .caliper, .faults,
    .sessions, .sent]) (d : Dev) (k : Nat) :
    (d.calMchk k).rest A = d.rest A := by
  unfold Dev.calMchk
  dsimp only
  repeat' split
  all_goals simp only [Dev.burstsEnd_rest hr (h.of (by decide)), Dev.jobAbort_rest hr h]

theorem Dev.setSlice_rest (h : Allows A [.selfTest]) (d : Dev) (i : Nat) (x : Option Slice) :
    (d.setSlice i x).rest A = d.rest A := by
  unfold Dev.setSlice
  simp only [Dev.withSelfTest_rest (h.at (by decide))]

theorem Dev.bistMark_rest (hr : AllRegs A) (d : Dev) (t : Target) (on : Bool) :
    (d.bistMark t on).rest A = d.rest A := by
  unfold Dev.bistMark
  simp only [Dev.set_rest hr, rest_ite, ite_self]

theorem Dev.sliceBack_rest (hr : AllRegs A) (h : Allows A [.tmus, .clusters, .selfTest]) (d : Dev) (i : Nat)
    (sl : Slice) :
    (d.sliceBack i sl).rest A = d.rest A := by
  unfold Dev.sliceBack
  simp only [Dev.set_rest hr, Dev.bistMark_rest hr, Dev.showReq_rest hr, Dev.maintFree_rest hr (h.of (by decide)),
    Dev.setSlice_rest (h.of (by decide)), Dev.modCl_rest (h.of (by decide)), Dev.withSelfTest_rest (h.at (by decide)),
      rest_ite, ite_self]

theorem Dev.serve_rest (hr : AllRegs A) (h : Allows A [.access, .tmus, .clusters, .selfTest]) (d : Dev) (ty k : Nat)
    (inst : Option Nat) :
    (d.serve ty k inst).rest A = d.rest A := by
  unfold Dev.serve
  dsimp only
  refine (foldl_rest (fun d i => ?_) _ _).trans ?_
  all_goals
    repeat' split
    all_goals simp only [Dev.sliceBack_rest hr (h.of (by decide)), Dev.setSlice_rest (h.of (by decide)),
      Dev.withAccess_rest (h.at (by decide))]

theorem Dev.serveRegion_rest (hr : AllRegs A) (h : Allows A [.access, .tmus, .clusters, .selfTest]) (d : Dev)
    (ty k inst : Nat) :
    (d.serveRegion ty k inst).rest A = d.rest A := by
  unfold Dev.serveRegion
  simp only [Dev.serve_rest hr h]

theorem Dev.afterSlices_rest (hr : AllRegs A) (h : Allows A [.access, .tmus, .clusters, .selfTest]) (d : Dev)
    (ss L off : Nat) (vals : List Word) (tys : List Nat) (go : Bool) (f : Dev → Dev) (hf : ∀ d,
      (f d).rest A = d.rest A) :
    (d.afterSlices ss L off vals tys go f).rest A = d.rest A := by
  unfold Dev.afterSlices
  simp only [Dev.serveRegion_rest hr h, Dev.stall_rest (h.of (by decide)), rest_ite, foldl_rest, implies_true,
    ite_self, hf]

theorem Dev.showDepths_rest (hr : AllRegs A) (d : Dev) (L : Nat) :
    (d.showDepths L).rest A = d.rest A := by
  unfold Dev.showDepths
  simp only [Dev.set_rest hr]

theorem Dev.prime_rest (hr : AllRegs A) (h : Allows A [.access, .lanes, .tmus, .freqs, .clusters, .selfTest])
    (d : Dev) (L : Nat) :
    (d.prime L).rest A = d.rest A := by
  unfold Dev.prime
  simp only [Dev.modLane_rest (h.of (by decide)), Dev.set_rest hr, Dev.serveRegion_rest hr (h.of (by decide)),
    Dev.holdEnd_rest hr (h.of (by decide)), Dev.request2_rest hr (h.of (by decide)), Dev.modCl_rest (h.of (by decide))]

theorem Dev.rangeStop_rest (hr : AllRegs A) (h : Allows A [.access, .lockGroups, .lanes, .clusters, .lines, .faults,
    .sessions, .sent]) (d : Dev) (L : Nat) :
    (d.rangeStop L).rest A = d.rest A := by
  unfold Dev.rangeStop
  simp only [Dev.raise_rest hr (h.of (by decide)), Dev.progFault_rest hr (h.of (by decide))]

theorem Dev.opcodeStop_rest (hr : AllRegs A) (h : Allows A [.access, .lockGroups, .lanes, .clusters, .lines, .faults,
    .sessions, .sent]) (d : Dev) (L : Nat) :
    (d.opcodeStop L).rest A = d.rest A := by
  unfold Dev.opcodeStop
  simp only [Dev.raise_rest hr (h.of (by decide)), Dev.progFault_rest hr (h.of (by decide))]

theorem Dev.stackStop_rest (hr : AllRegs A) (h : Allows A [.access, .lockGroups, .lanes, .clusters, .lines, .sessions,
    .sent]) (d : Dev) (L : Nat) :
    (d.stackStop L).rest A = d.rest A := by
  unfold Dev.stackStop
  simp only [Dev.progFault_rest hr h]

theorem Dev.stopAhead_rest (hr : AllRegs A) (h : Allows A [.access, .lockGroups, .lanes, .clusters, .lines, .faults,
    .sessions, .sent]) (d : Dev) (L err : Nat) :
    (d.stopAhead L err).rest A = d.rest A := by
  unfold Dev.stopAhead
  simp only [Dev.opcodeStop_rest hr h, Dev.progFault_rest hr (h.of (by decide)), Dev.rangeStop_rest hr h, rest_ite,
    ite_self]

theorem Dev.decodeStop_rest (hr : AllRegs A) (h : Allows A [.access, .lockGroups, .lanes, .clusters, .lines, .faults,
    .sessions, .sent]) (d : Dev) (L err : Nat) :
    (d.decodeStop L err).rest A = d.rest A := by
  unfold Dev.decodeStop
  simp only [Dev.modLane_rest (h.of (by decide)), Dev.stopAhead_rest hr h, rest_ite, ite_self]

theorem Dev.fixStart_rest (h : Allows A [.lanes]) (d : Dev) (L t : Nat) :
    (d.fixStart L t).rest A = d.rest A := by
  unfold Dev.fixStart
  simp only [Dev.modLane_rest h]

theorem Dev.modTgt_rest (h : Allows A [.selfTest]) (d : Dev) (t : Target) (f : TgtInfo → TgtInfo) :
    (d.modTgt t f).rest A = d.rest A := by
  unfold Dev.modTgt
  simp only [Dev.withSelfTest_rest (h.at (by decide))]

theorem Dev.sliceAborted_rest (hr : AllRegs A) (h : Allows A [.selfTest]) (d : Dev) (sl : Slice) (counts : Bool) :
    (d.sliceAborted sl counts).rest A = d.rest A := by
  unfold Dev.sliceAborted
  simp only [Dev.wrapUp_rest hr, Dev.modTgt_rest h]

theorem Dev.sliceStop_rest (hr : AllRegs A) (h : Allows A [.selfTest]) (d : Dev) (i : Nat) :
    (d.sliceStop i).rest A = d.rest A := by
  unfold Dev.sliceStop
  split
  all_goals simp only [Dev.sliceAborted_rest hr h, Dev.setSlice_rest h, rest_ite, ite_self]

theorem Dev.slicesStop_rest (hr : AllRegs A) (h : Allows A [.selfTest]) (d : Dev) (k : Nat) :
    (d.slicesStop k).rest A = d.rest A := by
  unfold Dev.slicesStop
  refine (foldl_rest (fun d i => ?_) _ _).trans ?_
  all_goals
    repeat' split
    all_goals simp only [Dev.sliceStop_rest hr h]

theorem Dev.abortMaint_rest (hr : AllRegs A) (h : Allows A [.access, .tmus, .freqs, .clusters, .caliper, .selfTest,
    .faults, .sessions, .sent]) (d : Dev) (k : Nat) :
    (d.abortMaint k).rest A = d.rest A := by
  unfold Dev.abortMaint
  simp only [Dev.calMchk_rest hr (h.of (by decide)), Dev.slicesStop_rest hr (h.of (by decide))]

theorem Dev.machineCheck_rest (hr : AllRegs A) (h : Allows A [.access, .lockGroups, .lanes, .tmus, .freqs, .clusters,
    .lines, .caliper, .selfTest, .faults, .sessions, .sent]) (d : Dev) (k upc thread cause code word : Nat) :
    (d.machineCheck k upc thread cause code word).rest A = d.rest A := by
  unfold Dev.machineCheck
  dsimp only
  repeat' split
  all_goals simp only [Dev.modLane_rest (h.of (by decide)), Dev.set_rest hr, Dev.showReq_rest hr, Dev.raise_rest hr
    (h.of (by decide)), Dev.holdEnter_rest hr (h.of (by decide)), Dev.poolDiscard_rest hr (h.of (by decide)),
      Dev.abortMaint_rest hr (h.of (by decide)), Dev.irqOwner_rest (h.plus hr (by decide)), Dev.modCl_rest (h.of
        (by decide)), Dev.progFault_rest hr (h.of (by decide)), rest_ite, foldl_rest, implies_true, ite_self]

theorem Dev.machineCheckEnd_rest (hr : AllRegs A) (h : Allows A [.tmus, .freqs]) (d : Dev) (k : Nat) :
    (d.machineCheckEnd k).rest A = d.rest A := by
  unfold Dev.machineCheckEnd
  simp only [Dev.holdEnd_rest hr h, Dev.set_rest hr, foldl_rest, implies_true]

theorem Dev.touchMem_rest (h : Allows A [.clusters]) (d : Dev) (k addr : Nat) :
    (d.touchMem k addr).rest A = d.rest A := by
  unfold Dev.touchMem
  simp only [Dev.modCl_rest h]

theorem Dev.ctxCommit_rest (hr : AllRegs A) (h : Allows A [.access, .lanes, .tmus, .clusters, .selfTest]) (d : Dev)
    (L : Nat) :
    (d.ctxCommit L).rest A = d.rest A := by
  unfold Dev.ctxCommit
  simp only [Dev.touchMem_rest (h.of (by decide)), Dev.modLane_rest (h.of (by decide)), Dev.set_rest hr,
    Dev.serveRegion_rest hr (h.of (by decide)), rest_ite, ite_self]

theorem Dev.ctxCommitWrite_rest (hr : AllRegs A) (h : Allows A [.access, .lanes, .tmus, .clusters, .selfTest,
    .faults]) (d : Dev) (ss L : Nat) (val : Word) :
    (d.ctxCommitWrite ss L val).rest A = d.rest A := by
  unfold Dev.ctxCommitWrite
  simp only [Dev.hostWrite_rest (h.plus hr (by decide)), Dev.afterSlices_rest hr (h.of (by decide)),
    Dev.plainWrite_rest hr (h.of (by decide)), Dev.ctxCommit_rest hr (h.of (by decide)), implies_true]

theorem Dev.skipReq_rest (h : Allows A [.lockGroups]) (d : Dev) (g id : Nat) :
    (d.skipReq g id).rest A = d.rest A := by
  unfold Dev.skipReq
  simp only [Dev.setLg_rest h, rest_ite, ite_self]

theorem Dev.applySwitches_rest (h : Allows A [.lockGroups, .lanes]) (d : Dev) (L : Nat) :
    (d.applySwitches L).rest A = d.rest A := by
  unfold Dev.applySwitches
  dsimp only
  repeat' split
  all_goals simp only [Dev.skipReq_rest (h.of (by decide)), Dev.setLane_rest (h.of (by decide)), foldl_rest,
    implies_true]

theorem Dev.newIssue_rest (h : Allows A [.lanes]) (d : Dev) (L : Nat) (iw : BitVec 128) (i : Nat) (period : Bool)
    (expect : Option Nat) :
    (d.newIssue L iw i period expect).2.rest A = d.rest A := by
  unfold Dev.newIssue
  simp only [Dev.setLane_rest h]

theorem Dev.periodStrobes_rest (h : Allows A [.lanes]) (d : Dev) (L p iss : Nat) (c : BitVec 128)
    (expect : Option Nat) :
    (d.periodStrobes L p iss c expect).rest A = d.rest A := by
  unfold Dev.periodStrobes
  simp only [Dev.addEdge_rest h, Dev.newResult_rest h, rest_ite, ite_self]

theorem Dev.issuePeriodAt_rest (hr : AllRegs A) (h : Allows A [.access, .lanes, .clusters]) (d : Dev) (L : Nat)
    (iw : BitVec 128) (i : Nat) (expect : Option Nat) :
    (d.issuePeriodAt L iw i expect).rest A = d.rest A := by
  unfold Dev.issuePeriodAt
  simp only [Dev.addEdge_rest (h.of (by decide)), Dev.periodStrobes_rest (h.of (by decide)), Dev.stickIf_rest hr (h.of
    (by decide)), Dev.modLane_rest (h.of (by decide)), Dev.set_rest hr, Dev.newIssue_rest (h.of (by decide)),
      Dev.shadowBoundary_rest (h.of (by decide)), foldl_rest, implies_true]

theorem Dev.issuePeriod_rest (hr : AllRegs A) (h : Allows A [.access, .lockGroups, .lanes, .clusters, .lines,
    .sessions, .sent]) (d : Dev) (L : Nat) (iw : BitVec 128) (i : Nat) (expect : Option Nat) :
    (d.issuePeriod L iw i expect).rest A = d.rest A := by
  unfold Dev.issuePeriod
  simp only [Dev.issuePeriodAt_rest hr (h.of (by decide)), Dev.progFault_rest hr h, Dev.applySwitches_rest (h.of
    (by decide)), rest_ite, ite_self]

theorem Dev.burstAt_rest (h : Allows A [.lanes]) (d : Dev) (L : Nat) (iw : BitVec 128) (p iss : Nat) :
    (d.burstAt L iw p iss).rest A = d.rest A := by
  unfold Dev.burstAt
  simp only [Dev.pulseAt_rest h, foldl_rest, implies_true]

theorem Dev.expandOther_rest (h : Allows A [.lanes]) (d : Dev) (L : Nat) (iw : BitVec 128) :
    (d.expandOther L iw).rest A = d.rest A := by
  unfold Dev.expandOther
  simp only [Dev.pulseAt_rest h, Dev.setLane_rest h, Dev.newIssue_rest h, Dev.burstAt_rest h, Dev.fireAt_rest h,
    rest_ite, ite_self]

theorem Dev.reexpand_rest (hr : AllRegs A) (h : Allows A [.access, .lockGroups, .lanes, .clusters, .lines, .sessions,
    .sent]) (d : Dev) (L t : Nat) :
    (d.reexpand L t).rest A = d.rest A := by
  unfold Dev.reexpand
  simp only [Dev.expandOther_rest (h.of (by decide)), Dev.takeBack_rest (h.of (by decide)), Dev.issuePeriod_rest hr h,
    Dev.modLane_rest (h.of (by decide)), rest_ite, foldl_rest, implies_true, ite_self]

theorem Dev.groupSwitch_rest (hr : AllRegs A) (h : Allows A [.access, .lockGroups, .lanes, .clusters, .lines,
    .sessions, .sent]) (d : Dev) (g o rank ctx : Nat) :
    (d.groupSwitch g o rank ctx).rest A = d.rest A := by
  unfold Dev.groupSwitch
  simp only [Dev.setLg_rest (h.of (by decide)), Dev.modLane_rest (h.of (by decide)), Dev.reexpand_rest hr h, rest_ite,
    foldl_rest, implies_true, ite_self]

theorem Dev.pcAdd_rest (hr : AllRegs A) (d : Dev) (L : Nat) (n : Int) :
    (d.pcAdd L n).rest A = d.rest A := by
  unfold Dev.pcAdd
  simp only [Dev.set_rest hr]

theorem Dev.pushLoop_rest (hr : AllRegs A) (h : Allows A [.access, .lockGroups, .lanes, .clusters, .lines, .sessions,
    .sent]) (d : Dev) (L pc : Nat) (iw : BitVec 128) :
    (d.pushLoop L pc iw).rest A = d.rest A := by
  unfold Dev.pushLoop
  simp only [Dev.showDepths_rest hr, Dev.setLane_rest (h.of (by decide)), Dev.stackStop_rest hr h, rest_ite, ite_self]

theorem Dev.endLoop_rest (hr : AllRegs A) (h : Allows A [.access, .lockGroups, .lanes, .clusters, .lines, .sessions,
    .sent]) (d : Dev) (L : Nat) :
    (d.endLoop L).rest A = d.rest A := by
  unfold Dev.endLoop
  dsimp only
  repeat' split
  all_goals simp only [Dev.set_rest hr, Dev.showDepths_rest hr, Dev.setLane_rest (h.of (by decide)),
    Dev.progFault_rest hr h, Dev.stackStop_rest hr h]

theorem Dev.pushCall_rest (hr : AllRegs A) (h : Allows A [.access, .lockGroups, .lanes, .clusters, .lines, .sessions,
    .sent]) (d : Dev) (L ret : Nat) (iw : BitVec 128) :
    (d.pushCall L ret iw).rest A = d.rest A := by
  unfold Dev.pushCall
  simp only [Dev.showDepths_rest hr, Dev.setLane_rest (h.of (by decide)), Dev.stackStop_rest hr h, rest_ite, ite_self]

theorem Dev.popCall_rest (hr : AllRegs A) (h : Allows A [.access, .lockGroups, .lanes, .clusters, .lines, .sessions,
    .sent]) (d : Dev) (L : Nat) :
    (d.popCall L).rest A = d.rest A := by
  unfold Dev.popCall
  dsimp only
  repeat' split
  all_goals simp only [Dev.showDepths_rest hr, Dev.set_rest hr, Dev.setLane_rest (h.of (by decide)),
    Dev.stackStop_rest hr h]

theorem Dev.enqueue_rest (h : Allows A [.lanes]) (d : Dev) (L : Nat) (r : Rec) :
    (d.enqueue L r).rest A = d.rest A := by
  unfold Dev.enqueue
  simp only [Dev.modLane_rest h]

theorem Dev.mark_rest (h : Allows A [.lanes]) (d : Dev) (L : Nat) (iw : BitVec 128) :
    (d.mark L iw).rest A = d.rest A := by
  unfold Dev.mark
  simp only [Dev.modLane_rest h]

theorem Dev.cmdErr_rest (hr : AllRegs A) (h : Allows A [.access]) (d : Dev) (L : Nat) :
    (d.cmdErr L).rest A = d.rest A := by
  unfold Dev.cmdErr
  simp only [Dev.stick_rest hr h]

theorem Dev.primeCmd_rest (hr : AllRegs A) (h : Allows A [.access, .lanes, .tmus, .freqs, .clusters, .selfTest])
    (d : Dev) (L : Nat) :
    (d.primeCmd L).rest A = d.rest A := by
  unfold Dev.primeCmd
  simp only [Dev.cmdErr_rest hr (h.of (by decide)), Dev.prime_rest hr h, rest_ite, ite_self]

theorem Dev.goCmd_rest (hr : AllRegs A) (h : Allows A [.access, .lanes, .tmus, .freqs, .clusters, .selfTest])
    (d : Dev) (L : Nat) :
    (d.goCmd L).rest A = d.rest A := by
  unfold Dev.goCmd
  simp only [Dev.stickIf_rest hr (h.of (by decide)), Dev.cmdErr_rest hr (h.of (by decide)), Dev.set_rest hr,
    Dev.serveRegion_rest hr (h.of (by decide)), Dev.prime_rest hr h, Dev.fixStart_rest (h.of (by decide)), rest_ite,
      ite_self]

theorem Dev.stopCmd_rest (hr : AllRegs A) (h : Allows A [.access, .lanes]) (d : Dev) (L : Nat) :
    (d.stopCmd L).rest A = d.rest A := by
  unfold Dev.stopCmd
  simp only [Dev.cmdErr_rest hr (h.of (by decide)), Dev.askStop_rest hr (h.of (by decide)), rest_ite, ite_self]

theorem Dev.progCtrlWrite_rest (hr : AllRegs A) (h : Allows A [.access, .lanes, .tmus, .freqs, .clusters, .selfTest,
    .faults]) (d : Dev) (ss L : Nat) (val : Word) :
    (d.progCtrlWrite ss L val).rest A = d.rest A := by
  unfold Dev.progCtrlWrite
  simp only [Dev.cmdWrite_rest hr (h.of (by decide)), Dev.goCmd_rest hr (h.of (by decide)), Dev.afterSlices_rest hr
    (h.of (by decide)), Dev.stopCmd_rest hr (h.of (by decide)), Dev.primeCmd_rest hr (h.of (by decide)), rest_ite,
      implies_true, ite_self]

theorem Dev.holdStart_rest (h : Allows A [.dirum]) (d : Dev) (c : Instr) :
    (d.holdStart c).rest A = d.rest A := by
  unfold Dev.holdStart
  simp only [Dev.withDirum_rest (h.at (by decide))]

theorem Dev.tmuInject_rest (hr : AllRegs A) (h : Allows A [.access, .clusters, .sched, .faults, .sessions, .rings,
    .sent]) (d : Dev) (ss k : Nat) (val : Word) :
    (d.tmuInject ss k val).rest A = d.rest A := by
  unfold Dev.tmuInject
  simp only [Dev.cmdWrite_rest hr (h.of (by decide)), Dev.recordWait_rest hr h, implies_true]

theorem Dev.slotCfgWrite_rest (hr : AllRegs A) (h : Allows A [.access, .faults]) (d : Dev) (ss k s : Nat)
    (reg : SlotReg) (val : DWord) :
    (d.slotCfgWrite ss k s reg val).rest A = d.rest A := by
  unfold Dev.slotCfgWrite
  simp only [Dev.stick_rest hr (h.of (by decide)), Dev.hostWrite_rest (h.plus hr (by decide)),
    Dev.plainWrite_rest hr h, rest_ite, implies_true, ite_self]

theorem Dev.freqCfgWrite_rest (hr : AllRegs A) (h : Allows A [.access, .faults]) (d : Dev) (ss k : Nat) (val : Word) :
    (d.freqCfgWrite ss k val).rest A = d.rest A := by
  unfold Dev.freqCfgWrite
  simp only [Dev.stick_rest hr (h.of (by decide)), Dev.hostWrite_rest (h.plus hr (by decide)),
    Dev.plainWrite_rest hr h, rest_ite, implies_true, ite_self]

theorem Dev.freqGo_rest (hr : AllRegs A) (h : Allows A [.access, .freqs, .clusters]) (d : Dev) (ss k : Nat) :
    (d.freqGo ss k).rest A = d.rest A := by
  unfold Dev.freqGo
  simp only [Dev.stickIf_rest hr (h.of (by decide)), Dev.set_rest hr, Dev.stick_rest hr (h.of (by decide)),
    Dev.modCl_rest (h.of (by decide)), Dev.modFq_rest (h.of (by decide)), rest_ite, ite_self]

theorem Dev.dropStamps_rest (h : Allows A [.freqs, .clusters]) (d : Dev) (k g0 : Nat) (missed : Bool) :
    (d.dropStamps k g0 missed).rest A = d.rest A := by
  unfold Dev.dropStamps
  simp only [Dev.stampMissed_rest (h.of (by decide)), Dev.modCl_rest (h.of (by decide)), Dev.stampEnd_rest (h.of
    (by decide)), rest_ite, foldl_rest, implies_true, ite_self]

theorem Dev.freqDisarm_rest (hr : AllRegs A) (h : Allows A [.freqs, .clusters]) (d : Dev) (k : Nat) :
    (d.freqDisarm k).rest A = d.rest A := by
  unfold Dev.freqDisarm
  split
  all_goals simp only [Dev.dropStamps_rest h, Dev.set_rest hr, Dev.modCl_rest (h.of (by decide)), Dev.modFq_rest (h.of
    (by decide))]

theorem Dev.freqNoMore_rest (h : Allows A [.freqs, .clusters]) (d : Dev) (k : Nat) :
    (d.freqNoMore k).rest A = d.rest A := by
  unfold Dev.freqNoMore
  split
  all_goals simp only [Dev.dropStamps_rest h, Dev.modFq_rest (h.of (by decide))]

theorem Dev.freqStop_rest (hr : AllRegs A) (h : Allows A [.freqs, .clusters]) (d : Dev) (k : Nat) :
    (d.freqStop k).rest A = d.rest A := by
  unfold Dev.freqStop
  simp only [Dev.freqNoMore_rest h, Dev.freqDisarm_rest hr h, Dev.modFq_rest (h.of (by decide)), rest_ite, ite_self]

theorem Dev.freqAbort_rest (hr : AllRegs A) (h : Allows A [.freqs, .clusters]) (d : Dev) (k : Nat) :
    (d.freqAbort k).rest A = d.rest A := by
  unfold Dev.freqAbort
  dsimp only
  repeat' split
  all_goals simp only [Dev.dropStamps_rest h, Dev.freqDisarm_rest hr h, Dev.set_rest hr, Dev.freqNoMore_rest h,
    Dev.modFq_rest (h.of (by decide))]

theorem Dev.freqCtrlWrite_rest (hr : AllRegs A) (h : Allows A [.access, .freqs, .clusters, .faults]) (d : Dev)
    (ss k : Nat) (val : Word) :
    (d.freqCtrlWrite ss k val).rest A = d.rest A := by
  unfold Dev.freqCtrlWrite
  simp only [Dev.freqStop_rest hr (h.of (by decide)), Dev.freqGo_rest hr (h.of (by decide)), Dev.cmdWrite_rest hr
    (h.of (by decide)), Dev.freqAbort_rest hr (h.of (by decide)), rest_ite, implies_true, ite_self]

theorem Dev.lgMembers_rest (hr : AllRegs A) (h : Allows A [.access, .lockGroups, .faults]) (d : Dev) (ss : Nat)
    (val : Word) :
    (d.lgMembers ss val).rest A = d.rest A := by
  unfold Dev.lgMembers
  simp only [Dev.hostWrite_rest (h.plus hr (by decide)), Dev.set_rest hr, Dev.modLg_rest (h.of (by decide)), rest_ite,
    implies_true, ite_self]

theorem Dev.armMember_rest (hr : AllRegs A) (h : Allows A [.access, .lanes, .tmus, .freqs, .clusters, .selfTest])
    (d : Dev) (m : Nat) :
    (d.armMember m).rest A = d.rest A := by
  unfold Dev.armMember
  simp only [Dev.cmdErr_rest hr (h.of (by decide)), Dev.set_rest hr, Dev.prime_rest hr h, rest_ite, ite_self]

theorem Dev.groupFix_rest (h : Allows A [.lockGroups, .lanes]) (d : Dev) (g t : Nat) :
    (d.groupFix g t).rest A = d.rest A := by
  unfold Dev.groupFix
  simp only [Dev.setLg_rest (h.of (by decide)), Dev.fixStart_rest (h.of (by decide)), rest_ite, foldl_rest,
    implies_true, ite_self]

theorem Dev.groupGo_rest (hr : AllRegs A) (h : Allows A [.access, .lockGroups, .lanes, .tmus, .freqs, .clusters,
    .lines, .selfTest]) (d : Dev) (g : Nat) :
    (d.groupGo g).rest A = d.rest A := by
  unfold Dev.groupGo
  dsimp only
  repeat' split
  all_goals simp only [Dev.setLg_rest (h.of (by decide)), Dev.armMember_rest hr (h.of (by decide)), Dev.modLg_rest
    (h.of (by decide)), Dev.modLine_rest (h.of (by decide)), Dev.groupFix_rest (h.of (by decide)), Dev.set_rest hr,
      foldl_rest, implies_true]

theorem Dev.groupStopCmd_rest (hr : AllRegs A) (h : Allows A [.lockGroups, .lanes]) (d : Dev) (g : Nat) :
    (d.groupStopCmd g).rest A = d.rest A := by
  unfold Dev.groupStopCmd
  simp only [Dev.groupStop_rest hr h, Dev.setLg_rest (h.of (by decide)), rest_ite, ite_self]

theorem Dev.lgCtrlDo_rest (hr : AllRegs A) (h : Allows A [.access, .lockGroups, .lanes, .tmus, .freqs, .clusters,
    .lines, .matrix, .selfTest, .sessions, .sent]) (d : Dev) (ss g : Nat) (val : Word) :
    (d.lgCtrlDo ss g val).rest A = d.rest A := by
  unfold Dev.lgCtrlDo
  simp only [Dev.groupSwitch_rest hr (h.of (by decide)), Dev.modLg_rest (h.of (by decide)), Dev.groupStopCmd_rest hr
    (h.of (by decide)), Dev.clearGcols_rest (h.of (by decide)), Dev.groupGo_rest hr (h.of (by decide)), rest_ite,
      ite_self]

theorem Dev.lgCtrlAt_rest (hr : AllRegs A) (h : Allows A [.access, .lockGroups, .lanes, .tmus, .freqs, .clusters,
    .lines, .matrix, .selfTest, .faults, .sessions, .sent]) (d : Dev) (ss g : Nat) (val : Word) :
    (d.lgCtrlAt ss g val).rest A = d.rest A := by
  unfold Dev.lgCtrlAt
  simp only [Dev.hostWrite_rest (h.plus hr (by decide)), Dev.discard_rest (h.plus hr (by decide)),
    Dev.lgCtrlDo_rest hr (h.of (by decide)), Dev.modLg_rest (h.of (by decide)), Dev.set_rest hr, rest_ite,
      implies_true, ite_self]

theorem Dev.lgCtrlWrite_rest (hr : AllRegs A) (h : Allows A [.access, .lockGroups, .lanes, .tmus, .freqs, .clusters,
    .lines, .matrix, .selfTest, .faults, .sessions, .sent]) (d : Dev) (ss : Nat) (val : Word) :
    (d.lgCtrlWrite ss val).rest A = d.rest A := by
  unfold Dev.lgCtrlWrite
  simp only [Dev.lgCtrlAt_rest hr h]

theorem Dev.lgStatWrite_rest (hr : AllRegs A) (h : Allows A [.access, .lockGroups, .faults]) (d : Dev) (ss : Nat)
    (val : Word) :
    (d.lgStatWrite ss val).rest A = d.rest A := by
  unfold Dev.lgStatWrite
  simp only [Dev.hostWrite_rest (h.plus hr (by decide)), Dev.modLg_rest (h.of (by decide)), Dev.set_rest hr, rest_ite,
    implies_true, ite_self]

theorem Dev.lgStartWrite_rest (hr : AllRegs A) (h : Allows A [.access, .lockGroups, .faults]) (d : Dev) (ss : Nat)
    (high : Bool) (val : Word) :
    (d.lgStartWrite ss high val).rest A = d.rest A := by
  unfold Dev.lgStartWrite
  simp only [Dev.hostWrite_rest (h.plus hr (by decide)), Dev.modLg_rest (h.of (by decide)), Dev.set_rest hr,
    Dev.withAccess_rest (h.at (by decide)), rest_ite, implies_true, ite_self]

theorem Dev.modCnt_rest (h : Allows A [.clusters]) (d : Dev) (k c : Nat) (f : ColCnt → ColCnt) :
    (d.modCnt k c f).rest A = d.rest A := by
  unfold Dev.modCnt
  simp only [Dev.modCl_rest h]

theorem Dev.armFireDo_rest (hr : AllRegs A) (h : Allows A [.access, .clusters, .faults, .sessions, .sent]) (d : Dev)
    (ss k : Nat) (val : Word) :
    (d.armFireDo ss k val).rest A = d.rest A := by
  unfold Dev.armFireDo
  simp only [Dev.emit_rest hr h, rest_ite, foldl_rest, implies_true, ite_self]

theorem Dev.armErr_rest (hr : AllRegs A) (h : Allows A [.access]) (d : Dev) (ss k code index : Nat) (column : Bool) :
    (d.armErr ss k code index column).rest A = d.rest A := by
  unfold Dev.armErr
  simp only [Dev.stickIf_rest hr h, Dev.set_rest hr, rest_ite, ite_self]

theorem Dev.armFire_rest (hr : AllRegs A) (h : Allows A [.access, .clusters, .faults, .sessions, .sent]) (d : Dev)
    (ss k : Nat) (val : Word) :
    (d.armFire ss k val).rest A = d.rest A := by
  unfold Dev.armFire
  refine Dev.hostWrite_rest (h.plus hr (by decide)) _ _ _ _ _ _ _ _ fun d => ?_
  dsimp only
  repeat' split
  all_goals simp only [Dev.armErr_rest hr (h.of (by decide)), Dev.armFireDo_rest hr h]

theorem Dev.mxStore_rest (h : Allows A [.clusters]) (d : Dev) (k c w : Nat) (val : Word) :
    (d.mxStore k c w val).rest A = d.rest A := by
  unfold Dev.mxStore
  simp only [Dev.modCl_rest h]

theorem Dev.showPending_rest (hr : AllRegs A) (d : Dev) (ss : Nat) :
    (d.showPending ss).rest A = d.rest A := by
  unfold Dev.showPending
  simp only [Dev.set_rest hr, foldl_rest, implies_true]

theorem Dev.askLoop_rest (hr : AllRegs A) (h : Allows A [.matrix]) (d : Dev) (r : LoopReq) :
    (d.askLoop r).rest A = d.rest A := by
  unfold Dev.askLoop
  simp only [Dev.showPending_rest hr, Dev.withMatrix_rest (h.at (by decide))]

theorem Dev.mxGate_rest (hr : AllRegs A) (h : Allows A [.access, .faults]) (d : Dev) (ss k off : Nat) (val : Word)
    (f : Dev → Dev) (hf : ∀ d, (f d).rest A = d.rest A) :
    (d.mxGate ss k off val f).rest A = d.rest A := by
  unfold Dev.mxGate
  simp only [Dev.raise_rest hr h, Dev.stall_rest (h.of (by decide)), rest_ite, ite_self, hf]

theorem Dev.matrixWrite_rest (hr : AllRegs A) (h : Allows A [.access, .clusters, .matrix, .faults]) (d : Dev)
    (ss k c w : Nat) (val : Word) :
    (d.matrixWrite ss k c w val).rest A = d.rest A := by
  unfold Dev.matrixWrite
  refine Dev.mxGate_rest hr (h.of (by decide)) _ _ _ _ _ _ fun d => ?_
  dsimp only
  repeat' split
  all_goals simp only [Dev.askLoop_rest hr (h.of (by decide)), Dev.armErr_rest hr (h.of (by decide)), Dev.fadeOut_rest
    (h.of (by decide)), Dev.mxStore_rest (h.of (by decide))]

theorem Dev.glErr_rest (hr : AllRegs A) (d : Dev) (ss code : Nat) :
    (d.glErr ss code).rest A = d.rest A := by
  unfold Dev.glErr
  simp only [Dev.set_rest hr]

theorem Dev.globalMatrixWrite_rest (hr : AllRegs A) (h : Allows A [.access, .matrix, .faults]) (d : Dev)
    (ss c w : Nat) (val : Word) :
    (d.globalMatrixWrite ss c w val).rest A = d.rest A := by
  unfold Dev.globalMatrixWrite
  simp only [Dev.hostWrite_rest (h.plus hr (by decide)), Dev.glErr_rest hr, Dev.fadeOut_rest (h.of (by decide)),
    Dev.withMatrix_rest (h.at (by decide)), rest_ite, implies_true, ite_self]

theorem Dev.setOwn_rest (h : Allows A [.clusters]) (d : Dev) (k i : Nat) (column : Bool) (o : Own) :
    (d.setOwn k i column o).rest A = d.rest A := by
  unfold Dev.setOwn
  simp only [Dev.modCl_rest h]

theorem Dev.ownChanged_rest (hr : AllRegs A) (h : Allows A [.clusters, .lines]) (d : Dev) (k i : Nat) (column : Bool) :
    (d.ownChanged k i column).rest A = d.rest A := by
  unfold Dev.ownChanged
  simp only [Dev.clearCol_rest h, Dev.revoke_rest hr (h.of (by decide)), rest_ite, ite_self]

theorem Dev.ownCmd_rest (hr : AllRegs A) (h : Allows A [.clusters, .lines]) (d : Dev) (ss k cmd : Nat) :
    (d.ownCmd ss k cmd).2.rest A = d.rest A := by
  unfold Dev.ownCmd
  dsimp only
  repeat' split
  all_goals simp only [Dev.setOwn_rest (h.of (by decide)), Dev.ownChanged_rest hr h, Dev.revoke_rest hr (h.of
    (by decide))]

theorem Dev.armOwnCtrl_rest (hr : AllRegs A) (h : Allows A [.access, .clusters, .lines, .faults]) (d : Dev)
    (ss k : Nat) (val : Word) :
    (d.armOwnCtrl ss k val).rest A = d.rest A := by
  unfold Dev.armOwnCtrl
  refine Dev.hostWrite_rest (h.plus hr (by decide)) _ _ _ _ _ _ _ _ fun d => ?_
  have hfold : ∀ (l : List Nat) (acc : Nat × Dev), (l.foldl (fun (acc : Nat × Dev) cmd =>
      if acc.1 = 0 && wbit val cmd then acc.2.ownCmd ss k cmd else acc) acc).2.rest A = acc.2.rest A := fun l => by
    induction l with
    | nil => exact fun acc => rfl
    | cons x l ih =>
      intro acc
      rw [List.foldl_cons, ih]
      split
      · exact Dev.ownCmd_rest hr (h.of (by decide)) ..
      · rfl
  dsimp only
  rw [Dev.armErr_rest hr (h.of (by decide)), hfold]

theorem Dev.ginStore_rest (hr : AllRegs A) (d : Dev) (k i : Nat) (val : Word) :
    (d.ginStore k i val).rest A = d.rest A := by
  unfold Dev.ginStore
  simp only [Dev.setReg_rest hr]

theorem Dev.ginWrite_rest (hr : AllRegs A) (h : Allows A [.access, .matrix, .faults]) (d : Dev) (ss k i : Nat)
    (val : Word) :
    (d.ginWrite ss k i val).rest A = d.rest A := by
  unfold Dev.ginWrite
  simp only [Dev.hostWrite_rest (h.plus hr (by decide)), Dev.askLoop_rest hr (h.of (by decide)), Dev.armErr_rest hr
    (h.of (by decide)), Dev.fadeOut_rest (h.of (by decide)), Dev.ginStore_rest hr, rest_ite, implies_true, ite_self]

theorem Dev.glCmd_rest (hr : AllRegs A) (h : Allows A [.clusters, .lines, .matrix]) (d : Dev) (ss cmd : Nat) :
    (d.glCmd ss cmd).2.rest A = d.rest A := by
  unfold Dev.glCmd
  dsimp only
  repeat' split
  all_goals simp only [Dev.resetLine_rest hr (h.of (by decide)), Dev.fadeOut_rest (h.of (by decide)), Dev.set_rest hr,
    Dev.askLoop_rest hr (h.of (by decide)), Dev.setLine_rest (h.of (by decide)), Dev.revokeAll_rest hr (h.of
      (by decide))]

theorem Dev.glCtrl_rest (hr : AllRegs A) (h : Allows A [.access, .clusters, .lines, .matrix, .faults]) (d : Dev)
    (ss : Nat) (val : Word) :
    (d.glCtrl ss val).rest A = d.rest A := by
  unfold Dev.glCtrl
  refine Dev.hostWrite_rest (h.plus hr (by decide)) _ _ _ _ _ _ _ _ fun d => ?_
  have hfold : ∀ (l : List Nat) (acc : Option Nat × Dev), (l.foldl (fun (acc : Option Nat × Dev) cmd =>
      if acc.1 = some 0 && wbit val cmd then acc.2.glCmd ss cmd else acc) acc).2.rest A = acc.2.rest A := fun l => by
    induction l with
    | nil => exact fun acc => rfl
    | cons x l ih =>
      intro acc
      rw [List.foldl_cons, ih]
      split
      · exact Dev.glCmd_rest hr (h.of (by decide)) ..
      · rfl
  dsimp only
  split
  · exact hfold _ _
  · rw [Dev.glErr_rest hr, hfold]

theorem Dev.trigStore_rest (hr : AllRegs A) (h : Allows A [.access, .faults]) (d : Dev) (ss L n : Nat) (reg : TrigReg)
    (val : DWord) :
    (d.trigStore ss L n reg val).rest A = d.rest A := by
  unfold Dev.trigStore
  split
  all_goals simp only [Dev.plainWrite_rest hr h]

theorem Dev.trigWrite_rest (hr : AllRegs A) (h : Allows A [.access, .matrix, .faults]) (d : Dev) (ss L n : Nat)
    (reg : TrigReg) (val : DWord) :
    (d.trigWrite ss L n reg val).rest A = d.rest A := by
  unfold Dev.trigWrite
  simp only [Dev.hostWrite_rest (h.plus hr (by decide)), Dev.askLoop_rest hr (h.of (by decide)), Dev.trigStore_rest hr
    (h.of (by decide)), rest_ite, implies_true, ite_self]

theorem Dev.loopWithdraw_rest (hr : AllRegs A) (h : Allows A [.access, .matrix]) (d : Dev) (ss : Nat) :
    (d.loopWithdraw ss).rest A = d.rest A := by
  unfold Dev.loopWithdraw
  rw [Dev.showPending_rest hr]
  exact (Dev.withMatrix_rest (h.at (by decide))
    { d with stalled := d.stalled.filter fun x => x.ss != ss } _ _ _ _).trans
    (Dev.withAccess_rest (h.at (by decide)) d _ _ _ _ _ _ _ _ _)

theorem Dev.outerLoop_rest (h : Allows A [.free, .timeBase]) (d : Dev) :
    (d.outerLoop).rest A = d.rest A := by
  unfold Dev.outerLoop
  simp only [Dev.draw_rest (h.of (by decide)), Dev.withTimeBase_rest (h.at (by decide)), rest_ite, ite_self]

theorem Dev.hbRestart_rest (hr : AllRegs A) (h : Allows A [.dirum]) (d : Dev) :
    (d.hbRestart).rest A = d.rest A := by
  unfold Dev.hbRestart
  simp only [Dev.set_rest hr, Dev.withDirum_rest (h.at (by decide))]

theorem Dev.srcState_rest (hr : AllRegs A) (h : Allows A [.dirum, .freqs, .caliper]) (d : Dev) (st : Nat) :
    (d.srcState st).rest A = d.rest A := by
  unfold Dev.srcState
  simp only [Dev.set_rest hr, Dev.passesOff_rest (h.of (by decide)), Dev.hbRestart_rest hr (h.of (by decide)),
    Dev.freqNote_rest (h.of (by decide)), rest_ite, ite_self]

theorem Dev.slewSettle_rest (h : Allows A [.timeBase]) (d : Dev) :
    (d.slewSettle).rest A = d.rest A := by
  unfold Dev.slewSettle
  simp only [Dev.withTimeBase_rest (h.at (by decide))]

theorem Dev.revert_rest (hr : AllRegs A) (h : Allows A [.access, .timeBase, .dirum, .freqs, .caliper, .faults])
    (d : Dev) (phase : Int) :
    (d.revert phase).rest A = d.rest A := by
  unfold Dev.revert
  dsimp only
  repeat' split
  all_goals simp only [Dev.raise_rest hr (h.of (by decide)), Dev.setInt_rest hr, Dev.stick_rest hr (h.of (by decide)),
    Dev.srcState_rest hr (h.of (by decide)), Dev.withTimeBase_rest (h.at (by decide))]

theorem Dev.qualify_rest (hr : AllRegs A) (h : Allows A [.access, .timeBase, .dirum, .freqs, .caliper, .faults])
    (d : Dev) (phase : Int) :
    (d.qualify phase).rest A = d.rest A := by
  unfold Dev.qualify
  simp only [Dev.revert_rest hr h, Dev.srcState_rest hr (h.of (by decide)), Dev.set_rest hr, rest_ite, ite_self]

theorem Dev.refSelect_rest (hr : AllRegs A) (h : Allows A [.free, .access, .timeBase, .dirum, .freqs, .caliper,
    .faults]) (d : Dev) (src freq : Nat) (ref : RefIn) :
    (d.refSelect src freq ref).rest A = d.rest A := by
  unfold Dev.refSelect
  simp only [Dev.set_rest hr, Dev.revert_rest hr (h.of (by decide)), Dev.srcState_rest hr (h.of (by decide)),
    Dev.outerLoop_rest (h.of (by decide)), Dev.qualify_rest hr (h.of (by decide)), Dev.withTimeBase_rest (h.at
      (by decide)), rest_ite, ite_self]

theorem Dev.refSelWrite_rest (hr : AllRegs A) (h : Allows A [.free, .access, .timeBase, .dirum, .freqs, .caliper,
    .faults]) (d : Dev) (ss : Nat) (val : Word) (ref : RefIn) :
    (d.refSelWrite ss val ref).rest A = d.rest A := by
  unfold Dev.refSelWrite
  simp only [Dev.hostWrite_rest (h.plus hr (by decide)), Dev.discard_rest (h.plus hr (by decide)),
    Dev.refSelect_rest hr h, Dev.plainWrite_rest hr (h.of (by decide)), rest_ite, implies_true, ite_self]

theorem Dev.refQualWrite_rest (hr : AllRegs A) (h : Allows A [.access, .timeBase, .dirum, .freqs, .caliper, .faults])
    (d : Dev) (ss : Nat) (val : Word) (ref : RefIn) :
    (d.refQualWrite ss val ref).rest A = d.rest A := by
  unfold Dev.refQualWrite
  simp only [Dev.hostWrite_rest (h.plus hr (by decide)), Dev.plainWrite_rest hr (h.of (by decide)),
    Dev.qualify_rest hr h, Dev.set_rest hr, rest_ite, implies_true, ite_self]

theorem Dev.adjUndo_rest (hr : AllRegs A) (h : Allows A [.access, .timeBase, .faults]) (d : Dev) :
    (d.adjUndo).rest A = d.rest A := by
  unfold Dev.adjUndo
  split
  all_goals simp only [Dev.discard_rest (h.plus hr (by decide)), Dev.set_rest hr, Dev.setInt_rest hr,
    Dev.withTimeBase_rest (h.at (by decide)), rest_ite, ite_self]

theorem Dev.refRevertWrite_rest (hr : AllRegs A) (h : Allows A [.access, .timeBase, .dirum, .freqs, .caliper,
    .faults]) (d : Dev) (ss : Nat) (val : Word) (ref : RefIn) :
    (d.refRevertWrite ss val ref).rest A = d.rest A := by
  unfold Dev.refRevertWrite
  simp only [Dev.hostWrite_rest (h.plus hr (by decide)), Dev.revert_rest hr h, Dev.plainWrite_rest hr (h.of
    (by decide)), Dev.adjUndo_rest hr (h.of (by decide)), rest_ite, implies_true, ite_self]

theorem Dev.ageAdj_rest (hr : AllRegs A) (h : Allows A [.access, .timeBase, .faults]) (d : Dev) (v : Int) :
    (d.ageAdj v).rest A = d.rest A := by
  unfold Dev.ageAdj
  simp only [Dev.stick_rest hr (h.of (by decide)), Dev.raise_rest hr (h.of (by decide)), Dev.setInt_rest hr,
    Dev.withTimeBase_rest (h.at (by decide)), rest_ite, ite_self]

theorem Dev.ageAdjWrite_rest (hr : AllRegs A) (h : Allows A [.access, .timeBase, .faults]) (d : Dev) (ss : Nat)
    (val : Word) :
    (d.ageAdjWrite ss val).rest A = d.rest A := by
  unfold Dev.ageAdjWrite
  simp only [Dev.hostWrite_rest (h.plus hr (by decide)), Dev.discard_rest (h.plus hr (by decide)),
    Dev.ageAdj_rest hr h, Dev.withTimeBase_rest (h.at (by decide)), rest_ite, implies_true, ite_self]

theorem Dev.tbRangeWrite_rest (hr : AllRegs A) (h : Allows A [.access, .timeBase, .faults]) (d : Dev) (ss off : Nat)
    (val : Word) :
    (d.tbRangeWrite ss off val).rest A = d.rest A := by
  unfold Dev.tbRangeWrite
  simp only [Dev.hostWrite_rest (h.plus hr (by decide)), Dev.slewSettle_rest (h.of (by decide)),
    Dev.plainWrite_rest hr (h.of (by decide)), Dev.set_rest hr, rest_ite, implies_true, ite_self]

theorem Dev.setArmed_rest (hr : AllRegs A) (h : Allows A [.dirum]) (d : Dev) (on : Bool) :
    (d.setArmed on).rest A = d.rest A := by
  unfold Dev.setArmed
  simp only [Dev.set_rest hr, Dev.withDirum_rest (h.at (by decide))]

theorem Dev.dirumCtrlWrite_rest (hr : AllRegs A) (h : Allows A [.access, .dirum, .faults]) (d : Dev) (ss : Nat)
    (val : Word) :
    (d.dirumCtrlWrite ss val).rest A = d.rest A := by
  unfold Dev.dirumCtrlWrite
  simp only [Dev.cmdWrite_rest hr (h.of (by decide)), Dev.setArmed_rest hr (h.of (by decide)), Dev.hbRestart_rest hr
    (h.of (by decide)), rest_ite, implies_true, ite_self]

theorem Dev.setPaths_rest (hr : AllRegs A) (d : Dev) (k p : Nat) (v : Int × Int × Int) :
    (d.setPaths k p v).rest A = d.rest A := by
  unfold Dev.setPaths
  simp only [Dev.setInt_rest hr]

theorem Dev.installPhys_rest (hr : AllRegs A) (h : Allows A [.phys]) (d : Dev) (k p : Nat) :
    (d.installPhys k p).rest A = d.rest A := by
  unfold Dev.installPhys
  simp only [Dev.setPaths_rest hr, Dev.set_rest hr, Dev.setInt_rest hr, Dev.setPh_rest h, rest_ite, ite_self]

theorem Dev.installTmu_rest (hr : AllRegs A) (h : Allows A [.tmus]) (d : Dev) (k t : Nat) :
    (d.installTmu k t).rest A = d.rest A := by
  unfold Dev.installTmu
  simp only [Dev.setTmu_rest h, Dev.setInt_rest hr, Dev.set_rest hr, rest_ite, ite_self]

theorem Dev.updateLater_rest (h : Allows A [.selfTest]) (d : Dev) (k p : Nat) :
    (d.updateLater k p).rest A = d.rest A := by
  unfold Dev.updateLater
  refine (foldl_rest (fun d i => ?_) _ _).trans ?_
  all_goals
    repeat' split
    all_goals simp only [Dev.setSlice_rest h]

theorem Dev.installCluster_rest (hr : AllRegs A) (h : Allows A [.access, .phys, .tmus, .clusters, .selfTest, .faults])
    (d : Dev) (k : Nat) :
    (d.installCluster k).rest A = d.rest A := by
  unfold Dev.installCluster
  simp only [Dev.installPhys_rest hr (h.of (by decide)), Dev.installTmu_rest hr (h.of (by decide)), Dev.modCl_rest
    (h.of (by decide)), Dev.raise_rest hr (h.of (by decide)), Dev.updateLater_rest (h.of (by decide)),
      Dev.serve_rest hr (h.of (by decide)), Dev.set_rest hr, rest_ite, foldl_rest, implies_true, ite_self]

theorem Dev.peGo_rest (hr : AllRegs A) (h : Allows A [.lanes, .pointing]) (d : Dev) (ss : Nat) (val : Word) :
    (d.peGo ss val).rest A = d.rest A := by
  unfold Dev.peGo
  simp only [Dev.set_rest hr, Dev.withPointing_rest (h.at (by decide))]

theorem Dev.peReqWrite_rest (hr : AllRegs A) (h : Allows A [.access, .lanes, .pointing, .faults]) (d : Dev) (ss : Nat)
    (val : Word) :
    (d.peReqWrite ss val).rest A = d.rest A := by
  unfold Dev.peReqWrite
  simp only [Dev.stick_rest hr (h.of (by decide)), Dev.hostWrite_rest (h.plus hr (by decide)), Dev.plainWrite_rest hr
    (h.of (by decide)), Dev.peGo_rest hr (h.of (by decide)), Dev.askAgain_rest (h.of (by decide)), rest_ite,
      implies_true, ite_self]

theorem Dev.askRelease_rest (h : Allows A [.lanes]) (d : Dev) (L t : Nat) :
    (d.askRelease L t).rest A = d.rest A := by
  unfold Dev.askRelease
  simp only [Dev.modLane_rest h]

theorem Dev.peCfgWrite_rest (hr : AllRegs A) (h : Allows A [.access, .faults]) (d : Dev) (ss : Nat) (val : Word) :
    (d.peCfgWrite ss val).rest A = d.rest A := by
  unfold Dev.peCfgWrite
  simp only [Dev.hostWrite_rest (h.plus hr (by decide)), Dev.plainWrite_rest hr h, Dev.genUp_rest hr, Dev.set_rest hr,
    rest_ite, implies_true, ite_self]

theorem Dev.storeBegin_rest (hr : AllRegs A) (h : Allows A [.caliper, .nvmQueue]) (d : Dev) (session : Option Nat)
    (restore : Bool) :
    (d.storeBegin session restore).rest A = d.rest A := by
  unfold Dev.storeBegin
  simp only [Dev.nvmAsk_rest (h.of (by decide)), Dev.set_rest hr, Dev.withCaliper_rest (h.at (by decide)), implies_true]

theorem Dev.calBegin_rest (hr : AllRegs A) (h : Allows A [.caliper, .nvmQueue]) (d : Dev) (c : CalCmd) :
    (d.calBegin c).rest A = d.rest A := by
  unfold Dev.calBegin
  split
  all_goals simp only [Dev.setJob_rest (h.of (by decide)), Dev.storeBegin_rest hr h, Dev.set_rest hr, rest_ite,
    ite_self]

theorem Dev.calPump_rest (hr : AllRegs A) (h : Allows A [.caliper, .nvmQueue]) (d : Dev) (n : Nat) :
    (d.calPump n).rest A = d.rest A := by
  induction n generalizing d with
  | zero => rfl
  | succ n ih =>
    unfold Dev.calPump
    dsimp only
    split
    · exact Dev.showCal_rest hr d
    · refine (ih _).trans ((Dev.calBegin_rest hr h _ _).trans ?_)
      exact Dev.withCaliper_rest (h.at (by decide)) d _

theorem Dev.jobEnd_rest (hr : AllRegs A) (h : Allows A [.access, .caliper, .sessions, .nvmQueue, .sent]) (d : Dev)
    (k : Nat) :
    (d.jobEnd k).rest A = d.rest A := by
  unfold Dev.jobEnd
  simp only [Dev.calPump_rest hr (h.of (by decide)), Dev.jobOver_rest hr (h.of (by decide))]

theorem Dev.calAbort_rest (hr : AllRegs A) (h : Allows A [.access, .tmus, .freqs, .clusters, .caliper, .faults,
    .sessions, .nvmQueue, .sent]) (d : Dev) (ss : Nat) :
    (d.calAbort ss).rest A = d.rest A := by
  unfold Dev.calAbort
  dsimp only
  repeat' split
  · simp only [Dev.showCal_rest hr, Dev.calEnd_rest hr (h.of (by decide)), Dev.withCaliper_rest (h.at (by decide))]
  · simp only [Dev.calEnd_rest hr (h.of (by decide))]
  · refine foldl_rest (fun d x => ?_) _ _
    repeat' split
    all_goals simp only [Dev.jobAbort_rest hr (h.of (by decide)), Dev.calPump_rest hr (h.of (by decide)),
      Dev.withCaliper_rest (h.at (by decide))]

theorem Dev.calAbortAll_rest (hr : AllRegs A) (h : Allows A [.access, .tmus, .freqs, .clusters, .caliper, .faults,
    .sessions, .nvmQueue, .sent]) (d : Dev) :
    (d.calAbortAll).rest A = d.rest A := by
  unfold Dev.calAbortAll
  simp only [Dev.jobAbort_rest hr (h.of (by decide)), Dev.calPump_rest hr (h.of (by decide)), Dev.calEnd_rest hr (h.of
    (by decide)), Dev.withCaliper_rest (h.at (by decide)), foldl_rest, implies_true]

theorem Dev.calRefuse_rest (hr : AllRegs A) (h : Allows A [.access, .faults]) (d : Dev) (ss : Nat) (c : CalCmd)
    (code : Nat) :
    (d.calRefuse ss c code).rest A = d.rest A := by
  unfold Dev.calRefuse
  simp only [Dev.rejTell_rest hr h]

theorem Dev.calGo_rest (hr : AllRegs A) (h : Allows A [.access, .tmus, .freqs, .clusters, .caliper, .faults, .sessions,
    .nvmQueue, .sent]) (d : Dev) (ss : Nat) (c : CalCmd) :
    (d.calGo ss c).rest A = d.rest A := by
  unfold Dev.calGo
  simp only [Dev.calAbortAll_rest hr h, Dev.irqAt_rest (h.plus hr (by decide)), Dev.set_rest hr,
    Dev.calAbort_rest hr h, Dev.stick_rest hr (h.of (by decide)), Dev.askAgain_rest (h.of (by decide)),
      Dev.calRefuse_rest hr (h.of (by decide)), Dev.calPump_rest hr (h.of (by decide)), Dev.calEnd_rest hr (h.of
        (by decide)), Dev.withCaliper_rest (h.at (by decide)), rest_ite, ite_self]

theorem Dev.calCmdWrite_rest (hr : AllRegs A) (h : Allows A [.access, .tmus, .freqs, .clusters, .caliper, .faults,
    .sessions, .nvmQueue, .sent]) (d : Dev) (ss : Nat) (val : Word) :
    (d.calCmdWrite ss val).rest A = d.rest A := by
  unfold Dev.calCmdWrite
  simp only [Dev.calGo_rest hr h, Dev.cmdWrite_rest hr (h.of (by decide)), implies_true]

theorem Dev.showBanks_rest (hr : AllRegs A) (d : Dev) :
    (d.showBanks).rest A = d.rest A := by
  unfold Dev.showBanks
  simp only [Dev.set_rest hr]

theorem Dev.setBank_rest (h : Allows A [.caliper]) (d : Dev) (isB : Bool) (x : Bank) :
    (d.setBank isB x).rest A = d.rest A := by
  unfold Dev.setBank
  simp only [Dev.withCaliper_rest (h.at (by decide))]

theorem Dev.storeEnd_rest (hr : AllRegs A) (h : Allows A [.access, .caliper, .faults, .sessions, .nvmQueue, .sent])
    (d : Dev) (code : Nat) :
    (d.storeEnd code).rest A = d.rest A := by
  unfold Dev.storeEnd
  dsimp only
  repeat' split
  all_goals simp only [Dev.setJob_rest (h.of (by decide)), Dev.nvmPin_rest (h.of (by decide)), Dev.jobEnd_rest hr
    (h.of (by decide)), Dev.calRefuse_rest hr (h.of (by decide)), Dev.irqAll_rest (h.plus hr (by decide)),
      Dev.set_rest hr, Dev.withCaliper_rest (h.at (by decide))]

theorem Dev.toFactory_rest (hr : AllRegs A) (h : Allows A [.access, .phys, .tmus, .clusters, .caliper, .selfTest,
    .faults]) (d : Dev) :
    (d.toFactory).rest A = d.rest A := by
  have three : ∀ (phys : Tbl Phys) (tmus : Tbl Tmu) (cal : Caliper),
    ({ d with phys, tmus, cal } : Dev).rest A = d.rest A :=
    fun phys tmus cal => (Dev.withPhys_rest (h.at (by decide)) { d with tmus, cal } phys).trans
      ((Dev.withTmus_rest (h.at (by decide)) { d with cal } tmus).trans (Dev.withCaliper_rest (h.at (by decide)) d cal))
  unfold Dev.toFactory
  dsimp only
  rw [Dev.genUp_rest hr, Dev.set_rest hr, foldl_rest fun d k => Dev.installCluster_rest hr (h.of (by decide)) d k]
  exact three _ _ _

theorem Dev.calRangeWrite_rest (hr : AllRegs A) (h : Allows A [.access, .faults]) (d : Dev) (ss off : Nat)
    (val : Word) :
    (d.calRangeWrite ss off val).rest A = d.rest A := by
  unfold Dev.calRangeWrite
  simp only [Dev.hostWrite_rest (h.plus hr (by decide)), Dev.discard_rest (h.plus hr (by decide)),
    Dev.plainWrite_rest hr h, Dev.set_rest hr, rest_ite, implies_true, ite_self]

theorem Dev.setThread_rest (h : Allows A [.clusters]) (d : Dev) (k i : Nat) (t : Thread) :
    (d.setThread k i t).rest A = d.rest A := by
  unfold Dev.setThread
  simp only [Dev.modCl_rest h]

theorem Dev.flip_rest (h : Allows A [.phys, .clusters]) (d : Dev) (k p mask : Nat) :
    (d.flip k p mask).rest A = d.rest A := by
  unfold Dev.flip
  simp only [Dev.setCl_rest (h.of (by decide)), Dev.setPh_rest (h.of (by decide)), rest_ite, ite_self]

theorem Dev.askLines_rest (h : Allows A [.sched]) (d : Dev) (L n : Nat) :
    (d.askLines L n).rest A = d.rest A := by
  unfold Dev.askLines
  simp only [Dev.withSched_rest (h.at (by decide))]

theorem Dev.applyShadow_rest (hr : AllRegs A) (h : Allows A [.access, .lockGroups, .lanes, .phys, .tmus, .freqs,
    .clusters, .lines, .sched, .selfTest, .sessions, .sent]) (d : Dev) (w : ShadowW) :
    (d.applyShadow w).rest A = d.rest A := by
  unfold Dev.applyShadow
  split
  all_goals simp only [Dev.pcAdd_rest hr, Dev.flip_rest (h.of (by decide)), Dev.modLane_rest (h.of (by decide)),
    Dev.endLoop_rest hr (h.of (by decide)), Dev.set_rest hr, Dev.askLines_rest (h.of (by decide)), Dev.enqueue_rest
      (h.of (by decide)), Dev.showDepths_rest hr, Dev.mark_rest (h.of (by decide)), Dev.pushLoop_rest hr (h.of
        (by decide)), Dev.popCall_rest hr (h.of (by decide)), Dev.pushCall_rest hr (h.of (by decide)), rest_ite,
          ite_self]

theorem Dev.view_rest (hr : AllRegs A) (h : Allows A [.access, .lockGroups, .lanes, .phys, .tmus, .freqs, .clusters,
    .lines, .sched, .selfTest, .sessions, .sent]) (d : Dev) (t : Thread) :
    (d.view t).rest A = d.rest A := by
  unfold Dev.view
  simp only [Dev.applyShadow_rest hr h, foldl_rest, implies_true]

theorem Dev.commitShadow_rest (hr : AllRegs A) (h : Allows A [.access, .lockGroups, .lanes, .phys, .tmus, .freqs,
    .clusters, .lines, .sched, .selfTest, .sessions, .sent]) (d : Dev) (k ti : Nat) (t : Thread) :
    (d.commitShadow k ti t).rest A = d.rest A := by
  unfold Dev.commitShadow
  simp only [Dev.view_rest hr h, Dev.modCl_rest (h.of (by decide))]

end Sys2Proof.Machine
end

