-- ==== Sys2Proof/Proofs/FrameEngines.lean ====
section
/-! SUPPORT. What the micro-engines and the dispatcher leave alone, one lemma for each operation (`Dev.rest`). -/

namespace Sys2Proof.Machine
variable {A : Part → Bool}

theorem Dev.countSvc_rest (hr : AllRegs A) (h : Allows A [.clusters]) (d : Dev) (k : Nat) :
    (d.countSvc k).rest A = d.rest A := by
  unfold Dev.countSvc
  simp only [Dev.setCl_rest h, Dev.set_rest hr]

theorem Dev.uopEnd_rest (hr : AllRegs A) (h : Allows A [.access, .lockGroups, .lanes, .phys, .tmus, .freqs, .clusters,
    .lines, .sched, .selfTest, .sessions, .sent]) (d : Dev) (k ti : Nat) (w : Micro) (t : Thread) (ends : Bool)
      (nxt : Nat) :
    (d.uopEnd k ti w t ends nxt).rest A = d.rest A := by
  unfold Dev.uopEnd
  simp only [Dev.commitShadow_rest hr h, Dev.setThread_rest (h.of (by decide)), Dev.modCl_rest (h.of (by decide)),
    Dev.countSvc_rest hr (h.of (by decide)), Dev.set_rest hr, rest_ite, ite_self]

theorem Dev.uopRun_rest (hr : AllRegs A) (h : Allows A [.access, .lockGroups, .lanes, .phys, .tmus, .freqs, .clusters,
    .lines, .sched, .selfTest, .sessions, .sent]) (d : Dev) (k ti : Nat) (w : Micro) (f : UOp) (hf : ∀ d k ti t w,
      (f d k ti t w).d.rest A = d.rest A) :
    (d.uopRun k ti w f).rest A = d.rest A := by
  unfold Dev.uopRun
  simp only [Dev.uopEnd_rest hr h, rest_ite, ite_self, hf]

theorem Dev.uop_rest (hr : AllRegs A) (h : Allows A [.access, .lockGroups, .lanes, .phys, .tmus, .freqs, .clusters,
    .lines, .caliper, .sched, .selfTest, .faults, .sessions, .sent]) (d : Dev) (k op : Nat) (w : Micro) (f : UOp)
      (hf : ∀ d k ti t w, (f d k ti t w).d.rest A = d.rest A) :
    (d.uop k op w f).rest A = d.rest A := by
  unfold Dev.uop
  split
  all_goals simp only [Dev.uopRun_rest hr (h.of (by decide)), Dev.machineCheck_rest hr (h.of (by decide)), rest_ite,
    implies_true, ite_self, hf]

theorem uStep_rest (d : Dev) (w : Micro) (t : Thread) :
    (uStep d w t).d.rest A = d.rest A := by
  unfold uStep
  simp only []

theorem uEnd_rest (d : Dev) (w : Micro) (t : Thread) :
    (uEnd d w t).d.rest A = d.rest A := by
  unfold uEnd
  simp only []

theorem uStop_rest (hr : AllRegs A) (h : Allows A [.access, .lockGroups, .lanes, .phys, .tmus, .freqs, .clusters,
    .lines, .sched, .selfTest, .faults, .sessions, .sent]) (d : Dev) (k ti : Nat) (w : Micro) (t : Thread) (err : Nat) :
    (uStop d k ti w t err).d.rest A = d.rest A := by
  unfold uStop
  split
  all_goals simp only [uEnd_rest, Dev.decodeStop_rest hr (h.of (by decide)), Dev.commitShadow_rest hr (h.of
    (by decide)), rest_ite, ite_self]

theorem opNop_rest (d : Dev) (k ti : Nat) (t : Thread) (w : Micro) :
    (opNop d k ti t w).d.rest A = d.rest A := by
  unfold opNop
  simp only [uStep_rest]

theorem opMov_rest (d : Dev) (k ti : Nat) (t : Thread) (w : Micro) :
    (opMov d k ti t w).d.rest A = d.rest A := by
  unfold opMov
  simp only [uStep_rest]

theorem opAdd_rest (d : Dev) (k ti : Nat) (t : Thread) (w : Micro) :
    (opAdd d k ti t w).d.rest A = d.rest A := by
  unfold opAdd
  simp only [uStep_rest]

theorem opSub_rest (h : Allows A [.free]) (d : Dev) (k ti : Nat) (t : Thread) (w : Micro) :
    (opSub d k ti t w).d.rest A = d.rest A := by
  unfold opSub
  simp only [uStep_rest, Dev.draw_rest h]

theorem opLogic_rest (f : DWord → DWord → DWord) (d : Dev) (k ti : Nat) (t : Thread) (w : Micro) :
    (opLogic f d k ti t w).d.rest A = d.rest A := by
  unfold opLogic
  simp only [uStep_rest]

theorem opPlain_rest (f : DWord → DWord → DWord) (d : Dev) (k ti : Nat) (t : Thread) (w : Micro) :
    (opPlain f d k ti t w).d.rest A = d.rest A := by
  unfold opPlain
  simp only [uStep_rest]

theorem opLdi_rest (d : Dev) (k ti : Nat) (t : Thread) (w : Micro) :
    (opLdi d k ti t w).d.rest A = d.rest A := by
  unfold opLdi
  simp only [uStep_rest]

theorem opCmp_rest (h : Allows A [.free]) (d : Dev) (k ti : Nat) (t : Thread) (w : Micro) :
    (opCmp d k ti t w).d.rest A = d.rest A := by
  unfold opCmp
  simp only [uStep_rest, Dev.draw_rest h]

theorem opTst_rest (d : Dev) (k ti : Nat) (t : Thread) (w : Micro) :
    (opTst d k ti t w).d.rest A = d.rest A := by
  unfold opTst
  simp only [uStep_rest]

theorem opSext_rest (d : Dev) (k ti : Nat) (t : Thread) (w : Micro) :
    (opSext d k ti t w).d.rest A = d.rest A := by
  unfold opSext
  simp only [uStep_rest]

theorem opFld_rest (h : Allows A [.free]) (d : Dev) (k ti : Nat) (t : Thread) (w : Micro) :
    (opFld d k ti t w).d.rest A = d.rest A := by
  unfold opFld
  dsimp only
  repeat' split
  all_goals simp only [uStep_rest, Dev.draw_rest h]

theorem opNexti_rest (d : Dev) (k ti : Nat) (t : Thread) (w : Micro) :
    (opNexti d k ti t w).d.rest A = d.rest A := by
  unfold opNexti
  split
  all_goals simp only [uEnd_rest]

theorem opEndt_rest (d : Dev) (k ti : Nat) (t : Thread) (w : Micro) :
    (opEndt d k ti t w).d.rest A = d.rest A := by
  unfold opEndt
  simp only [uEnd_rest]

theorem opJpc_rest (d : Dev) (k ti : Nat) (t : Thread) (w : Micro) :
    (opJpc d k ti t w).d.rest A = d.rest A := by
  unfold opJpc
  simp only [uEnd_rest]

theorem opPushl_rest (hr : AllRegs A) (h : Allows A [.access, .lockGroups, .lanes, .phys, .tmus, .freqs, .clusters,
    .lines, .sched, .selfTest, .faults, .sessions, .sent]) (d : Dev) (k ti : Nat) (t : Thread) (w : Micro) :
    (opPushl d k ti t w).d.rest A = d.rest A := by
  unfold opPushl
  dsimp only
  repeat' split
  all_goals simp only [uStep_rest, uStop_rest hr h]

theorem opEndl_rest (hr : AllRegs A) (h : Allows A [.access, .lockGroups, .lanes, .phys, .tmus, .freqs, .clusters,
    .lines, .sched, .selfTest, .faults, .sessions, .sent]) (d : Dev) (k ti : Nat) (t : Thread) (w : Micro) :
    (opEndl d k ti t w).d.rest A = d.rest A := by
  unfold opEndl
  dsimp only
  repeat' split
  all_goals simp only [uStop_rest hr h, uEnd_rest]

theorem opPushc_rest (hr : AllRegs A) (h : Allows A [.access, .lockGroups, .lanes, .phys, .tmus, .freqs, .clusters,
    .lines, .sched, .selfTest, .faults, .sessions, .sent]) (d : Dev) (k ti : Nat) (t : Thread) (w : Micro) :
    (opPushc d k ti t w).d.rest A = d.rest A := by
  unfold opPushc
  dsimp only
  repeat' split
  all_goals simp only [uStep_rest, uStop_rest hr h]

theorem opPopc_rest (hr : AllRegs A) (h : Allows A [.access, .lockGroups, .lanes, .phys, .tmus, .freqs, .clusters,
    .lines, .sched, .selfTest, .faults, .sessions, .sent]) (d : Dev) (k ti : Nat) (t : Thread) (w : Micro) :
    (opPopc d k ti t w).d.rest A = d.rest A := by
  unfold opPopc
  dsimp only
  repeat' split
  all_goals simp only [uStop_rest hr h, uEnd_rest]

theorem opEnq_rest (kind : RecKind) (d : Dev) (k ti : Nat) (t : Thread) (w : Micro) :
    (opEnq kind d k ti t w).d.rest A = d.rest A := by
  unfold opEnq
  simp only [uStep_rest]

theorem opEnqEnd_rest (kind : RecKind) (d : Dev) (k ti : Nat) (t : Thread) (w : Micro) :
    (opEnqEnd kind d k ti t w).d.rest A = d.rest A := by
  unfold opEnqEnd
  simp only [uEnd_rest]

theorem opStopl_rest (hr : AllRegs A) (h : Allows A [.access, .lockGroups, .lanes, .phys, .tmus, .freqs, .clusters,
    .lines, .sched, .selfTest, .faults, .sessions, .sent]) (d : Dev) (k ti : Nat) (t : Thread) (w : Micro) :
    (opStopl d k ti t w).d.rest A = d.rest A := by
  unfold opStopl
  simp only [uStop_rest hr h]

theorem opBr_rest (d : Dev) (k ti : Nat) (t : Thread) (w : Micro) :
    (opBr d k ti t w).d.rest A = d.rest A := by
  unfold opBr
  simp only []

theorem opCallu_rest (d : Dev) (k ti : Nat) (t : Thread) (w : Micro) :
    (opCallu d k ti t w).d.rest A = d.rest A := by
  unfold opCallu
  simp only []

theorem opRetu_rest (d : Dev) (k ti : Nat) (t : Thread) (w : Micro) :
    (opRetu d k ti t w).d.rest A = d.rest A := by
  unfold opRetu
  simp only []

theorem opTrap_rest (hr : AllRegs A) (h : Allows A [.access, .lockGroups, .lanes, .tmus, .freqs, .clusters, .lines,
    .caliper, .selfTest, .faults, .sessions, .sent]) (d : Dev) (k ti : Nat) (t : Thread) (w : Micro) :
    (opTrap d k ti t w).d.rest A = d.rest A := by
  unfold opTrap
  simp only [uStep_rest, Dev.machineCheck_rest hr h]

theorem uAddrErr_rest (hr : AllRegs A) (h : Allows A [.access]) (d : Dev) (k : Nat) (t : Thread) (w : Micro) :
    (uAddrErr d k t w).d.rest A = d.rest A := by
  unfold uAddrErr
  simp only [Dev.stick_rest hr h, uStep_rest]

theorem opLdx_rest (hr : AllRegs A) (h : Allows A [.access, .lockGroups, .lanes, .phys, .tmus, .freqs, .clusters,
    .lines, .sched, .selfTest, .sessions, .sent]) (d : Dev) (k ti : Nat) (t : Thread) (w : Micro) :
    (opLdx d k ti t w).d.rest A = d.rest A := by
  unfold opLdx
  dsimp only
  repeat' split
  all_goals simp only [uAddrErr_rest hr (h.of (by decide)), uStep_rest]

theorem opStx_rest (hr : AllRegs A) (h : Allows A [.access, .clusters]) (d : Dev) (k ti : Nat) (t : Thread)
    (w : Micro) :
    (opStx d k ti t w).d.rest A = d.rest A := by
  unfold opStx
  dsimp only
  repeat' split
  all_goals simp only [uStep_rest, uAddrErr_rest hr (h.of (by decide)), Dev.modCl_rest (h.of (by decide))]

theorem opHbmrd_rest (d : Dev) (k ti : Nat) (t : Thread) (w : Micro) :
    (opHbmrd d k ti t w).d.rest A = d.rest A := by
  unfold opHbmrd
  simp only [uStep_rest]

theorem opHbmwr_rest (d : Dev) (k ti : Nat) (t : Thread) (w : Micro) :
    (opHbmwr d k ti t w).d.rest A = d.rest A := by
  unfold opHbmwr
  simp only [uStep_rest]

theorem opHbmsync_rest (d : Dev) (k ti : Nat) (t : Thread) (w : Micro) :
    (opHbmsync d k ti t w).d.rest A = d.rest A := by
  unfold opHbmsync
  simp only [uEnd_rest]

theorem opSigf_rest (d : Dev) (k ti : Nat) (t : Thread) (w : Micro) :
    (opSigf d k ti t w).d.rest A = d.rest A := by
  unfold opSigf
  simp only [uStep_rest]

theorem opMbox_rest (h : Allows A [.clusters]) (d : Dev) (k ti : Nat) (t : Thread) (w : Micro) :
    (opMbox d k ti t w).d.rest A = d.rest A := by
  unfold opMbox
  simp only [uStep_rest, Dev.modCl_rest h]

theorem opSell_rest (d : Dev) (k ti : Nat) (t : Thread) (w : Micro) :
    (opSell d k ti t w).d.rest A = d.rest A := by
  unfold opSell
  simp only [uStep_rest]

theorem opFlip_rest (d : Dev) (k ti : Nat) (t : Thread) (w : Micro) :
    (opFlip d k ti t w).d.rest A = d.rest A := by
  unfold opFlip
  simp only [uStep_rest]

theorem opInvc_rest (d : Dev) (k ti : Nat) (t : Thread) (w : Micro) :
    (opInvc d k ti t w).d.rest A = d.rest A := by
  unfold opInvc
  simp only [uStep_rest]

theorem opFetchq_rest (d : Dev) (k ti : Nat) (t : Thread) (w : Micro) :
    (opFetchq d k ti t w).d.rest A = d.rest A := by
  unfold opFetchq
  simp only [uStep_rest]

theorem opReti_rest (d : Dev) (k ti : Nat) (t : Thread) (w : Micro) :
    (opReti d k ti t w).d.rest A = d.rest A := by
  unfold opReti
  simp only [uEnd_rest]

theorem Dev.engage_rest (hr : AllRegs A) (h : Allows A [.clusters]) (d : Dev) (k ti upc : Nat) (t : Thread) :
    (d.engage k ti upc t).rest A = d.rest A := by
  unfold Dev.engage
  simp only [Dev.modCl_rest h, Dev.setThread_rest h, Dev.set_rest hr]

theorem Dev.runLevel_rest (hr : AllRegs A) (h : Allows A [.clusters]) (d : Dev) (k lv : Nat) :
    (d.runLevel k lv).rest A = d.rest A := by
  unfold Dev.runLevel
  dsimp only
  repeat' split
  all_goals simp only [Dev.setCl_rest h, Dev.maxUp_rest hr, Dev.showReq_rest hr, Dev.engage_rest hr h, Dev.bump_rest hr]

theorem Dev.runDecode_rest (hr : AllRegs A) (h : Allows A [.access, .lockGroups, .lanes, .clusters, .lines, .faults,
    .sessions, .sent]) (d : Dev) (k j : Nat) (iw : BitVec 128) :
    (d.runDecode k j iw).rest A = d.rest A := by
  unfold Dev.runDecode
  simp only [Dev.modLane_rest (h.of (by decide)), Dev.modCl_rest (h.of (by decide)), Dev.setThread_rest (h.of
    (by decide)), Dev.bump_rest hr, Dev.decodeStop_rest hr h, Dev.engage_rest hr (h.of (by decide)), rest_ite, ite_self]

end Sys2Proof.Machine
end

