-- ==== Sys2Proof/Proofs/FramePages.lean ====
section
/-! SUPPORT. What the operations of the fault collector, rings, NVM, the security page, power and every page leave alone,
one lemma for each (`Dev.rest`). -/

namespace Sys2Proof.Machine
variable {A : Part → Bool}

theorem Dev.dispatch_rest (hr : AllRegs A) (h : Allows A [.access, .lockGroups, .lanes, .clusters, .lines, .faults,
    .sessions, .sent]) (d : Dev) (k : Nat) (entry : Nat → BitVec 128) :
    (d.dispatch k entry).rest A = d.rest A := by
  unfold Dev.dispatch
  dsimp only
  repeat' split
  all_goals simp only [Dev.runLevel_rest hr (h.of (by decide)), Dev.set_rest hr, Dev.engage_rest hr (h.of (by decide)),
    Dev.runDecode_rest hr h, Dev.modCl_rest (h.of (by decide))]

theorem Dev.bistEnd_rest (h : Allows A [.dev 5, .common, .access, .selfTest, .sessions, .sent]) (d : Dev)
    (result : Nat) :
    (d.bistEnd result).rest A = d.rest A := by
  unfold Dev.bistEnd
  simp only [Dev.withSelfTest_rest (h.at (by decide)), Dev.irqAll_rest (h.of (by decide)),
    Dev.stick_rest_at BIST_CMD_STAT.DONE (h.key (by decide)) (h.at (by decide)),
    Dev.set_rest_at BIST_CMD_STAT.RESULT (h.key (by decide)), Dev.set_rest_at BIST_CMD_STAT.STATE (h.key (by decide))]

theorem Dev.bistGo_rest (h : Allows A [.dev 5, .common, .access, .selfTest, .sessions, .nvmQueue, .sent]) (d : Dev)
    (ss : Nat) (val : Word) :
    (d.bistGo ss val).rest A = d.rest A := by
  unfold Dev.bistGo
  dsimp only
  repeat' split
  all_goals simp only [Dev.set_rest_at BIST_REPAIR_STAT2.COMPACTING (h.key (by decide)),
    Dev.set_rest_at BIST_CMD_STAT.RESULT (h.key (by decide)), Dev.set_rest_at BIST_CMD_STAT.STATE (h.key (by decide)),
    Dev.stick_rest_at BIST_CMD_STAT.DONE (h.key (by decide)) (h.at (by decide)), Dev.irqAll_rest (h.of (by decide)),
    Dev.askAgain_rest (h.of (by decide)), Dev.nvmAsk_rest (h.of (by decide)), Dev.bistEnd_rest (h.of (by decide)),
    Dev.withSelfTest_rest (h.at (by decide)), implies_true]

theorem Dev.bistCmdWrite_rest (h : Allows A [.dev 5, .dev 6, .common, .access, .selfTest, .faults, .sessions,
    .nvmQueue, .sent]) (d : Dev) (ss : Nat) (val : Word) :
    (d.bistCmdWrite ss val).rest A = d.rest A := by
  unfold Dev.bistCmdWrite
  exact Dev.cmdWrite_rest_at (by decide) (by decide) (h.at (by decide)) (h.of (by decide)) _ _ _ _ _
    fun _ => Dev.bistGo_rest (h.of (by decide)) ..

theorem Dev.bistSessionEnd_rest (hr : AllRegs A) (h : Allows A [.selfTest]) (d : Dev) (ss : Nat) :
    (d.bistSessionEnd ss).rest A = d.rest A := by
  unfold Dev.bistSessionEnd
  split
  all_goals simp only [Dev.set_rest hr, Dev.withSelfTest_rest (h.at (by decide)), rest_ite, ite_self]

theorem Dev.setMirror_rest (h : Allows A [.faults]) (d : Dev) (ss : Nat) (r : FltRing) :
    (d.setMirror ss r).rest A = d.rest A := by
  unfold Dev.setMirror
  simp only [Dev.withFaults_rest (h.at (by decide))]

theorem Dev.setFltRing_rest (h : Allows A [.faults]) (d : Dev) (ss : Nat) (r : FltRing) :
    (d.setFltRing ss r).rest A = d.rest A := by
  unfold Dev.setFltRing
  simp only [Dev.setMirror_rest h, Dev.withFaults_rest (h.at (by decide)), rest_ite, ite_self]

theorem Dev.fltSelCheck_rest (h : Allows A [.dev 6]) (d : Dev) (ss : Nat) :
    (d.fltSelCheck ss).rest A = d.rest A := by
  unfold Dev.fltSelCheck
  simp only [Dev.set_rest_at (FLT_WIN_SEL.RING ss) (h.sess (by decide)), rest_ite, ite_self]

theorem Dev.fltTailWrite_rest (h : Allows A [.dev 6, .common, .access, .faults]) (d : Dev) (ss : Nat) (val : Word) :
    (d.fltTailWrite ss val).rest A = d.rest A := by
  unfold Dev.fltTailWrite
  simp only [Dev.hostWrite_rest h, Dev.setFltRing_rest (h.of (by decide)), Dev.discard_rest h, rest_ite, implies_true,
    ite_self]

theorem Dev.fltWinSelWrite_rest (h : Allows A [.dev 6, .common, .access, .faults]) (d : Dev) (ss : Nat) (val : Word) :
    (d.fltWinSelWrite ss val).rest A = d.rest A := by
  unfold Dev.fltWinSelWrite
  refine Dev.hostWrite_rest h _ _ _ _ _ _ _ _ fun d => ?_
  rw [rest_ite, Dev.discard_rest h, Dev.plainWrite_rest_at (by decide) (by decide) (h.at (by decide)) h, ite_self]

theorem Dev.fltLostWrite_rest (hr : AllRegs A) (h : Allows A [.access, .faults]) (d : Dev) (ss : Nat) (val : Word) :
    (d.fltLostWrite ss val).rest A = d.rest A := by
  unfold Dev.fltLostWrite
  simp only [Dev.hostWrite_rest (h.plus hr (by decide)), Dev.setFltRing_rest (h.of (by decide)), rest_ite,
    implies_true, ite_self]

theorem Dev.fltIrqCfgWrite_rest (hr : AllRegs A) (h : Allows A [.access, .faults]) (d : Dev) (ss : Nat) (val : Word) :
    (d.fltIrqCfgWrite ss val).rest A = d.rest A := by
  unfold Dev.fltIrqCfgWrite
  simp only [Dev.hostWrite_rest (h.plus hr (by decide)), Dev.plainWrite_rest hr h, Dev.set_rest hr, implies_true]

theorem Dev.fltStickyClear_rest_at (h : Allows A [.dev 6, .common, .access, .faults]) {w : Nat} (hw : w < 64) (d : Dev)
    (ss : Nat) (inj : Bool) (val : Word) : (d.fltStickyClear ss inj w val).rest A = d.rest A := by
  unfold Dev.fltStickyClear
  refine Dev.hostWrite_rest h _ _ _ _ _ _ _ _ fun d => ?_
  exact Dev.plainWrite_rest_at (by split <;> omega) (by split <;> omega) (h.at (by decide)) h ..

theorem Dev.fltStickyClear_rest (hr : AllRegs A) (h : Allows A [.access, .faults]) (d : Dev) (ss : Nat) (inj : Bool)
    (w : Nat) (val : Word) :
    (d.fltStickyClear ss inj w val).rest A = d.rest A := by
  unfold Dev.fltStickyClear
  simp only [Dev.plainWrite_rest hr h, Dev.hostWrite_rest (h.plus hr (by decide)), implies_true]

theorem Dev.faultInject_rest (h : Allows A [.dev 6, .common, .access, .faults]) (d : Dev) (ss : Nat) :
    (d.faultInject ss).rest A = d.rest A := by
  unfold Dev.faultInject
  have hs : d.reg64 (FLT_INJ_MSG ss) / 2 ^ 52 % 4096 < 4096 := Nat.mod_lt _ (by decide)
  simp only [Dev.withFaults_rest (h.at (by decide)), Dev.set_rest_at (FLT_INJ_CTRL.BUSY ss) (h.sess (by decide)),
    Dev.set_rest_at (FLT_INJ_CTRL.ERR ss) (h.sess (by decide)), Dev.markSource_rest_at (h.of (by decide)) hs,
    Dev.setSource_rest (h.of (by decide)), rest_ite, ite_self]

theorem Dev.fltInjCtrlWrite_rest (h : Allows A [.dev 6, .common, .access, .faults]) (d : Dev) (ss : Nat) (val : Word) :
    (d.fltInjCtrlWrite ss val).rest A = d.rest A := by
  unfold Dev.fltInjCtrlWrite
  exact Dev.cmdWrite_rest_at (by decide) (by decide) (h.at (by decide)) h _ _ _ _ _ fun _ => Dev.faultInject_rest h ..

theorem Dev.fltBlockReset_rest (hr : AllRegs A) (h : Allows A [.faults]) (d : Dev) :
    (d.fltBlockReset).rest A = d.rest A := by
  have two : ∀ (flt : Collector) (regs : Tbl Word), ({ d with flt, regs } : Dev).rest A = d.rest A := fun flt regs =>
    (Dev.withRegs_rest hr { d with flt } regs).trans (Dev.withFaults_rest (h.at (by decide)) d flt)
  unfold Dev.fltBlockReset
  exact two _ _

theorem Dev.ringMsg_rest (h : Allows A [.sessions, .rings, .sent]) (d : Dev) (n : Nat) (r : Ring) :
    (d.ringMsg n r).rest A = d.rest A := by
  unfold Dev.ringMsg
  simp only [Dev.setRing_rest (h.of (by decide)), Dev.msix_rest (h.of (by decide)), rest_ite, ite_self]

theorem Dev.ringNote_rest (h : Allows A [.sessions, .rings, .sent]) (d : Dev) (n : Nat) :
    (d.ringNote n).rest A = d.rest A := by
  unfold Dev.ringNote
  split
  all_goals simp only [Dev.setRing_rest (h.of (by decide)), Dev.ringMsg_rest h, rest_ite, ite_self]

theorem Dev.ringErr_rest (hr : AllRegs A) (d : Dev) (ss err : Nat) :
    (d.ringErr ss err).rest A = d.rest A := by
  unfold Dev.ringErr
  simp only [Dev.set_rest hr]

theorem Dev.ringCreate_rest (hr : AllRegs A) (h : Allows A [.rings]) (d : Dev) (ss : Nat) :
    (d.ringCreate ss).rest A = d.rest A := by
  unfold Dev.ringCreate
  split
  all_goals simp only [Dev.ringErr_rest hr, Dev.set_rest hr, Dev.setRing_rest h, rest_ite, ite_self]

theorem Dev.ringFree_rest (hr : AllRegs A) (h : Allows A [.access, .clusters, .sched, .faults, .sessions, .rings,
    .sent]) (d : Dev) (n : Nat) :
    (d.ringFree n).rest A = d.rest A := by
  unfold Dev.ringFree
  split
  all_goals simp only [Dev.setRing_rest (h.of (by decide)), Dev.serveAll_rest hr h, Dev.set_rest hr]

theorem Dev.creditsBack_rest (hr : AllRegs A) (h : Allows A [.access, .clusters, .sched, .faults, .sessions, .rings,
    .sent]) (d : Dev) (n : Nat) :
    (d.creditsBack n).rest A = d.rest A := by
  have back : ∀ (k : Nat) (l : List Xfer) (d : Dev), (l.foldl (fun (d : Dev) _ =>
      match d.ring n with
      | none => d
      | some r =>
        let d := d.setRing n (some { r with out := r.out - 1 })
        (d.modCl k fun c => { c with resultBuf := c.resultBuf - 1 }).recordBad k n r.owner) d).rest A = d.rest A :=
    fun k l d => foldl_rest (fun d x => by split; all_goals simp only [Dev.setRing_rest (h.of (by decide)),
      Dev.modCl_rest (h.of (by decide)), Dev.recordBad_rest hr (h.of (by decide))]) l d
  unfold Dev.creditsBack
  refine foldl_rest (fun d k => ?_) _ _
  dsimp only
  exact (back k _ _).trans (Dev.withSched_rest (h.at (by decide)) d _)

theorem Dev.ringDestroy_rest (hr : AllRegs A) (h : Allows A [.access, .clusters, .sched, .faults, .sessions, .rings,
    .sent]) (d : Dev) (ss n : Nat) :
    (d.ringDestroy ss n).rest A = d.rest A := by
  unfold Dev.ringDestroy
  split
  all_goals simp only [Dev.setRing_rest (h.of (by decide)), Dev.creditsBack_rest hr h, Dev.ringErr_rest hr,
    Dev.ringFree_rest hr h, Dev.set_rest hr, rest_ite, ite_self]

theorem Dev.ringCtrlWrite_rest (hr : AllRegs A) (h : Allows A [.access, .clusters, .sched, .faults, .sessions, .rings,
    .sent]) (d : Dev) (ss : Nat) (val : Word) :
    (d.ringCtrlWrite ss val).rest A = d.rest A := by
  unfold Dev.ringCtrlWrite
  simp only [Dev.ringErr_rest hr, Dev.ringCreate_rest hr (h.of (by decide)), Dev.cmdWrite_rest hr (h.of (by decide)),
    Dev.ringDestroy_rest hr h, rest_ite, implies_true, ite_self]

theorem Dev.ringDbWrite_rest (hr : AllRegs A) (h : Allows A [.access, .clusters, .sched, .faults, .sessions, .rings,
    .sent]) (d : Dev) (ss : Nat) (val : Word) :
    (d.ringDbWrite ss val).rest A = d.rest A := by
  unfold Dev.ringDbWrite
  refine Dev.hostWrite_rest (h.plus hr (by decide)) _ _ _ _ _ _ _ _ fun d => ?_
  dsimp only
  repeat' split
  all_goals simp only [Dev.setRing_rest (h.of (by decide)), Dev.discard_rest (h.plus hr (by decide)),
    Dev.serveAll_rest hr h]

theorem Dev.flowBytes_rest (h : Allows A [.sched]) (d : Dev) (f n : Nat) :
    (d.flowBytes f n).rest A = d.rest A := by
  unfold Dev.flowBytes
  simp only [Dev.withSched_rest (h.at (by decide))]

theorem Dev.hbmCfgWrite_rest (hr : AllRegs A) (h : Allows A [.access, .faults]) (d : Dev) (ss off : Nat) (val : Word) :
    (d.hbmCfgWrite ss off val).rest A = d.rest A := by
  unfold Dev.hbmCfgWrite
  simp only [Dev.hostWrite_rest (h.plus hr (by decide)), Dev.setReg_rest hr, Dev.plainWrite_rest hr h, Dev.set_rest hr,
    rest_ite, implies_true, ite_self]

theorem Dev.flowWaitWrite_rest (hr : AllRegs A) (h : Allows A [.access, .sched, .faults]) (d : Dev) (ss : Nat)
    (val : Word) :
    (d.flowWaitWrite ss val).rest A = d.rest A := by
  unfold Dev.flowWaitWrite
  simp only [Dev.hostWrite_rest (h.plus hr (by decide)), Dev.withSched_rest (h.at (by decide)), rest_ite, implies_true,
    ite_self]

theorem State.drainBatch_rest (hr : AllRegs A) (h : Allows A [.access, .clusters, .sched, .faults, .sessions, .rings,
    .sent]) (s : State) (n : Nat) :
    (s.drainBatch n).rest A = s.rest A := by
  unfold State.drainBatch
  dsimp only
  repeat' split
  all_goals simp only [Dev.setRing_rest (h.of (by decide)), Dev.ringNote_rest (h.of (by decide)), Dev.flowBytes_rest
    (h.of (by decide)), Dev.setSn_rest (h.of (by decide)), Dev.raise_rest hr (h.of (by decide)),
      Dev.serveAll_rest hr h, Dev.withSent_rest (h.at (by decide))]

theorem Dev.calForget_rest (h : Allows A [.caliper]) (d : Dev) (ss : Nat) :
    (d.calForget ss).rest A = d.rest A := by
  unfold Dev.calForget
  simp only [Dev.withCaliper_rest (h.at (by decide))]

theorem Dev.sessReset_rest (hr : AllRegs A) (h : Allows A [.access, .lanes, .tmus, .freqs, .clusters, .matrix,
    .caliper, .pointing, .selfTest, .faults, .sessions, .rings, .nvmQueue, .sent]) (d : Dev) (ss : Nat) :
    (d.sessReset ss).rest A = d.rest A := by
  have two : ∀ (e : Dev) (pe : Pointing) (nvmQ : List NvmCmd), ({ e with pe, nvmQ } : Dev).rest A = e.rest A :=
    fun e pe nvmQ => (Dev.withPointing_rest (h.at (by decide)) { e with nvmQ } pe).trans
      (Dev.withNvmQueue_rest (h.at (by decide)) e nvmQ e.nvmCur)
  unfold Dev.sessReset
  dsimp only
  split
  · rfl
  · refine (foldl_rest (fun d x => Dev.setRing_rest (h.of (by decide)) ..) _ _).trans ?_
    refine (foldl_rest (fun d L => Dev.askRelease_rest (h.of (by decide)) ..) _ _).trans ?_
    rw [Dev.loopWithdraw_rest hr (h.of (by decide)), Dev.bistSessionEnd_rest hr (h.of (by decide)), rest_ite,
      Dev.calForget_rest (h.of (by decide)), Dev.calAbort_rest hr (h.of (by decide)), ite_self, two,
      Dev.setSn_rest (h.of (by decide))]

theorem Dev.sessCtrlWrite_rest (hr : AllRegs A) (h : Allows A [.access, .lanes, .tmus, .freqs, .clusters, .matrix,
    .caliper, .pointing, .selfTest, .faults, .sessions, .rings, .nvmQueue, .sent]) (d : Dev) (ss : Nat) (val : Word) :
    (d.sessCtrlWrite ss val).rest A = d.rest A := by
  unfold Dev.sessCtrlWrite
  simp only [Dev.hostWrite_rest (h.plus hr (by decide)), Dev.discard_rest (h.plus hr (by decide)),
    Dev.sessReset_rest hr h, rest_ite, implies_true, ite_self]

theorem Dev.pageFree_rest_at (h : Allows A [.dev 6, .common]) (d : Dev) (pg : Page) :
    (d.pageFree pg.base).rest A = d.rest A := by
  unfold Dev.pageFree
  simp only [Dev.fltSelCheck_rest (h.of (by decide)), Dev.setReg_rest_at (h.page (by decide) pg
    (show 0x10 < 0x20 by decide)), rest_ite, ite_self]

theorem Dev.msixFlush_rest (h : Allows A [.sessions, .sent]) (d : Dev) (ss : Nat) :
    (d.msixFlush ss).rest A = d.rest A := by
  unfold Dev.msixFlush
  simp only [Dev.modSn_rest (h.of (by decide)), Dev.withSent_rest (h.at (by decide)), rest_ite, foldl_rest,
    implies_true, ite_self]

theorem Dev.vecMask_rest (h : Allows A [.sessions, .sent]) (d : Dev) (ss v : Nat) (masked : Bool) :
    (d.vecMask ss v masked).rest A = d.rest A := by
  unfold Dev.vecMask
  simp only [Dev.modSn_rest (h.of (by decide)), Dev.msixFlush_rest h]

theorem Dev.nvmEnd_rest (h : Allows A [.dev 11, .common, .access, .sessions, .sent]) (d : Dev) (ss err : Nat) :
    (d.nvmEnd ss err).rest A = d.rest A := by
  unfold Dev.nvmEnd
  simp only [Dev.irqAt_rest (h.of (by decide)), Dev.stick_rest_at (NVM_CMD_STAT.DONE ss) (h.sess (by decide)) (h.at
    (by decide)),
    Dev.set_rest_at (NVM_CMD_STAT.ERR ss) (h.sess (by decide))]

theorem Dev.nvmGo_rest (h : Allows A [.dev 11, .common, .access, .sessions, .nvmQueue, .sent]) (d : Dev) (ss : Nat) :
    (d.nvmGo ss).rest A = d.rest A := by
  unfold Dev.nvmGo
  simp only [Dev.nvmEnd_rest (h.of (by decide)), Dev.askAgain_rest (h.of (by decide)), Dev.nvmAsk_rest (h.of
    (by decide)),
    Dev.set_rest_at (NVM_CMD_STAT.STATE ss) (h.sess (by decide)), Dev.withNvmQueue_rest (h.at (by decide)), rest_ite,
      implies_true, ite_self]

theorem Dev.nvmCmdWrite_rest (h : Allows A [.dev 6, .dev 11, .common, .access, .faults, .sessions, .nvmQueue, .sent])
    (d : Dev) (ss : Nat) (val : Word) :
    (d.nvmCmdWrite ss val).rest A = d.rest A := by
  unfold Dev.nvmCmdWrite
  exact Dev.cmdWrite_rest_at (by decide) (by decide) (h.at (by decide)) (h.of (by decide)) _ _ _ _ _
    fun _ => Dev.nvmGo_rest (h.of (by decide)) ..

theorem Dev.unrise_rest (h : Allows A [.dev 7, .common, .security]) (d : Dev) :
    (d.unrise).rest A = d.rest A := by
  have hirq : ∀ (d : Dev) (ss : Nat), (d.set ⟨sessKey ss + PAGE_IRQ_STAT 0x7000, 0, 1⟩ 0).rest A = d.rest A :=
    fun d ss => Dev.set_rest_at ⟨sessKey ss + PAGE_IRQ_STAT 0x7000, 0, 1⟩ (h.sess (by decide)) d 0
  unfold Dev.unrise
  split
  · rfl
  · simp only [hirq, Dev.set_rest_at SEC_STAT.DBG_LEVEL (h.key (by decide)), Dev.withSecurity_rest (h.at (by decide)),
    rest_ite, foldl_rest, implies_true, ite_self]

theorem Dev.dbgDrop_rest (h : Allows A [.dev 6, .dev 7, .common, .access, .clusters, .faults, .security]) (d : Dev)
    (cause : Nat) :
    (d.dbgDrop cause).rest A = d.rest A := by
  unfold Dev.dbgDrop
  simp only [Dev.raise_rest_at (h.of (by decide)) (show 7 < 4096 by decide), Dev.unrise_rest (h.of (by decide)),
    Dev.set_rest_at SEC_STAT.DBG_LEVEL (h.key (by decide)), Dev.withClusters_rest (h.at (by decide)),
      Dev.withSecurity_rest (h.at (by decide)), rest_ite, ite_self]

theorem Dev.asBypass_rest (h : Allows A [.security, .tdo]) (d : Dev) (code : Nat) :
    (d.asBypass code).rest A = d.rest A := by
  unfold Dev.asBypass
  split
  · exact (Dev.withTdo_rest (h.at (by decide)) { d with sec := d.sec.irLoad code } _).trans
      (Dev.withSecurity_rest (h.at (by decide)) d _)
  · rfl

theorem Dev.showGated_rest (hr : AllRegs A) (d : Dev) :
    (d.showGated).rest A = d.rest A := by
  unfold Dev.showGated
  simp only [Dev.set_rest hr]

theorem Dev.wakeBegin_rest (hr : AllRegs A) (d : Dev) (k : Nat) :
    (d.wakeBegin k).rest A = d.rest A := by
  unfold Dev.wakeBegin
  simp only [Dev.showGated_rest hr, Dev.set_rest hr, rest_ite, ite_self]

theorem Dev.wakeAsk_rest (hr : AllRegs A) (h : Allows A [.plinth]) (d : Dev) (k : Nat) :
    (d.wakeAsk k).rest A = d.rest A := by
  unfold Dev.wakeAsk
  dsimp only
  repeat' split
  all_goals simp only [Dev.wakeBegin_rest hr, Dev.set_rest hr, Dev.withPlinth_rest (h.at (by decide))]

theorem Dev.showPower_rest (hr : AllRegs A) (d : Dev) :
    (d.showPower).rest A = d.rest A := by
  unfold Dev.showPower
  simp only [Dev.set_rest hr]

theorem Dev.goTo_rest (hr : AllRegs A) (h : Allows A [.plinth]) (d : Dev) (p : PowerState) :
    (d.goTo p).rest A = d.rest A := by
  unfold Dev.goTo
  simp only [Dev.showPower_rest hr, Dev.withPlinth_rest (h.at (by decide))]

theorem Dev.deepLeave_rest (hr : AllRegs A) (h : Allows A [.plinth, .boot]) (d : Dev) (p : PowerState) :
    (d.deepLeave p).rest A = d.rest A := by
  unfold Dev.deepLeave
  simp only [Dev.goTo_rest hr (h.of (by decide)), Dev.withBoot_rest (h.at (by decide))]

theorem Dev.logTrip_rest (h : Allows A [.plinth]) (d : Dev) (cause what : Nat) (value : Int) :
    (d.logTrip cause what value).rest A = d.rest A := by
  unfold Dev.logTrip
  simp only [Dev.withPlinth_rest (h.at (by decide))]

theorem Dev.deepBegin_rest (hr : AllRegs A) (h : Allows A [.access, .clusters, .selfTest, .faults, .security,
    .plinth]) (d : Dev) :
    (d.deepBegin).rest A = d.rest A := by
  unfold Dev.deepBegin
  simp only [Dev.goTo_rest hr (h.of (by decide)), Dev.sliceStop_rest hr (h.of (by decide)), Dev.dbgDrop_rest
    (h.plus hr (by decide)), rest_ite, foldl_rest, implies_true, ite_self]

theorem Dev.tripNote_rest (hr : AllRegs A) (h : Allows A [.access, .faults, .plinth]) (d : Dev) (cause what : Nat)
    (value : Int) :
    (d.tripNote cause what value).rest A = d.rest A := by
  unfold Dev.tripNote
  simp only [Dev.raise_rest hr (h.of (by decide)), Dev.logTrip_rest (h.of (by decide))]

theorem Dev.deepCommanded_rest (hr : AllRegs A) (h : Allows A [.free, .access, .clusters, .selfTest, .faults,
    .security, .plinth]) (d : Dev) :
    (d.deepCommanded).rest A = d.rest A := by
  unfold Dev.deepCommanded
  simp only [Dev.tripNote_rest hr (h.of (by decide)), Dev.deepBegin_rest hr (h.of (by decide)), Dev.draw_rest (h.of
    (by decide))]

theorem Dev.drowseBegin_rest (hr : AllRegs A) (h : Allows A [.lanes, .freqs, .clusters, .selfTest, .plinth]) (d : Dev) :
    (d.drowseBegin).rest A = d.rest A := by
  unfold Dev.drowseBegin
  simp only [Dev.goTo_rest hr (h.of (by decide)), Dev.slicesStop_rest hr (h.of (by decide)), Dev.freqAbort_rest hr
    (h.of (by decide)), Dev.askStop_rest hr (h.of (by decide)), foldl_rest, implies_true]

theorem Dev.wakeAll_rest (hr : AllRegs A) (h : Allows A [.plinth]) (d : Dev) :
    (d.wakeAll).rest A = d.rest A := by
  unfold Dev.wakeAll
  simp only [Dev.wakeAsk_rest hr h, foldl_rest, implies_true]

theorem Dev.pwrErr_rest (hr : AllRegs A) (d : Dev) (e : Nat) :
    (d.pwrErr e).rest A = d.rest A := by
  unfold Dev.pwrErr
  simp only [Dev.set_rest hr]

theorem Dev.powerTry_rest (hr : AllRegs A) (h : Allows A [.free, .access, .lanes, .freqs, .clusters, .selfTest,
    .faults, .security, .plinth, .boot]) (d : Dev) (target : Nat) (force : Bool) :
    (d.powerTry target force).rest A = d.rest A := by
  unfold Dev.powerTry
  split
  all_goals simp only [Dev.wakeAll_rest hr (h.of (by decide)), Dev.goTo_rest hr (h.of (by decide)), Dev.pwrErr_rest hr,
    Dev.deepCommanded_rest hr (h.of (by decide)), Dev.drowseBegin_rest hr (h.of (by decide)), Dev.deepLeave_rest hr
      (h.of (by decide)), rest_ite, ite_self]

theorem Dev.powerDecide_rest (hr : AllRegs A) (h : Allows A [.free, .access, .lanes, .freqs, .clusters, .selfTest,
    .faults, .security, .plinth, .boot]) (d : Dev) (who : PowerWho) (target : Nat) (force : Bool) :
    (d.powerDecide who target force).rest A = d.rest A := by
  unfold Dev.powerDecide
  split
  all_goals simp only [Dev.deepBegin_rest hr (h.of (by decide)), Dev.powerTry_rest hr h, rest_ite, ite_self]

theorem Dev.powerTake_rest (hr : AllRegs A) (h : Allows A [.free, .access, .lanes, .freqs, .clusters, .selfTest,
    .faults, .security, .plinth, .boot]) (d : Dev) (who : PowerWho) (target : Nat) (force : Bool) :
    (d.powerTake who target force).rest A = d.rest A := by
  unfold Dev.powerTake
  simp only [Dev.powerDecide_rest hr h, Dev.trackedAt_rest (h.of (by decide)), Dev.withPlinth_rest (h.at (by decide)),
    implies_true]

theorem Dev.powerYield_rest (hr : AllRegs A) (h : Allows A [.access, .timeBase, .dirum, .lockGroups, .lanes, .phys,
    .tmus, .freqs, .clusters, .lines, .matrix, .caliper, .pointing, .sched, .selfTest, .faults, .sessions, .rings,
      .nvmQueue, .security, .plinth, .boot, .sent]) (d : Dev) (place : Nat) :
    (d.powerYield place).rest A = d.rest A := by
  unfold Dev.powerYield
  split
  all_goals simp only [Dev.undoKey_rest hr h, rest_ite, ite_self]

theorem Dev.powerAsk_rest (hr : AllRegs A) (h : Allows A [.free, .access, .timeBase, .dirum, .lockGroups, .lanes,
    .phys, .tmus, .freqs, .clusters, .lines, .matrix, .caliper, .pointing, .sched, .selfTest, .faults, .sessions,
      .rings, .nvmQueue, .security, .plinth, .boot, .sent]) (d : Dev) (who : PowerWho) (target : Nat) (force : Bool) :
    (d.powerAsk who target force).rest A = d.rest A := by
  unfold Dev.powerAsk
  split
  all_goals simp only [Dev.pwrErr_rest hr, Dev.powerTake_rest hr (h.of (by decide)), Dev.powerYield_rest hr (h.of
    (by decide)), Dev.withPlinth_rest (h.at (by decide)), rest_ite, ite_self]

theorem Dev.pwrReqWrite_rest (hr : AllRegs A) (h : Allows A [.free, .access, .timeBase, .dirum, .lockGroups, .lanes,
    .phys, .tmus, .freqs, .clusters, .lines, .matrix, .caliper, .pointing, .sched, .selfTest, .faults, .sessions,
      .rings, .nvmQueue, .security, .plinth, .boot, .sent]) (d : Dev) (ss : Nat) (val : Word) :
    (d.pwrReqWrite ss val).rest A = d.rest A := by
  unfold Dev.pwrReqWrite
  simp only [Dev.cmdWrite_rest hr (h.of (by decide)), Dev.powerAsk_rest hr h, implies_true]

theorem Dev.secTouch_rest (h : Allows A [.security]) (d : Dev) (ss : Nat) :
    (d.secTouch ss).rest A = d.rest A := by
  unfold Dev.secTouch
  simp only [Dev.withSecurity_rest (h.at (by decide)), rest_ite, ite_self]

theorem Dev.lcGo_rest (h : Allows A [.dev 7, .access, .nvmQueue, .security]) (d : Dev) (prep : Option Nat) (t : Nat) :
    (d.lcGo prep t).rest A = d.rest A := by
  unfold Dev.lcGo
  simp only [Dev.stick_rest_at SEC_STAT.LC_ERR (h.key (by decide)) (h.at (by decide)), Dev.askAgain_rest (h.of
    (by decide)),
    Dev.nvmAsk_rest (h.of (by decide)), Dev.set_rest_at SEC_STAT.LC_BUSY (h.key (by decide)), Dev.withSecurity_rest
      (h.at (by decide)), rest_ite, implies_true, ite_self]

theorem Dev.lcCtrlWrite_rest (h : Allows A [.dev 6, .dev 7, .common, .access, .faults, .nvmQueue, .security])
    (d : Dev) (ss : Nat) (val : Word) :
    (d.lcCtrlWrite ss val).rest A = d.rest A := by
  unfold Dev.lcCtrlWrite
  dsimp only
  refine (Dev.hostWrite_rest (h.of (by decide)) _ _ _ _ _ _ _ _ fun d => ?_).trans (Dev.secTouch_rest (h.of
    (by decide)) ..)
  simp only [Dev.plainWrite_rest_at (n := 7) (off := 0x104) (by decide) (by decide) (h.at (by decide)) (h.of
    (by decide)),
    Dev.lcGo_rest (h.of (by decide)), Dev.withSecurity_rest (h.at (by decide)), rest_ite, ite_self]

theorem Dev.dbgCtrlWrite_rest (h : Allows A [.dev 6, .dev 7, .common, .access, .clusters, .faults, .security])
    (d : Dev) (ss : Nat) (val : Word) :
    (d.dbgCtrlWrite ss val).rest A = d.rest A := by
  unfold Dev.dbgCtrlWrite
  refine (Dev.cmdWrite_rest_at (by decide) (by decide) (h.at (by decide)) (h.of
    (by decide)) _ _ _ _ _ fun d => ?_).trans
    (Dev.secTouch_rest (h.of (by decide)) ..)
  simp only [Dev.dbgDrop_rest h, Dev.set_rest_at SEC_DBG_CTRL.LOCK (h.key (by decide)), Dev.withSecurity_rest (h.at
    (by decide)), rest_ite, ite_self]

theorem Dev.ownerKeyWrite_rest (hr : AllRegs A) (h : Allows A [.access, .faults, .security]) (d : Dev) (ss off : Nat)
    (val : Word) :
    (d.ownerKeyWrite ss off val).rest A = d.rest A := by
  unfold Dev.ownerKeyWrite
  simp only [Dev.hostWrite_rest (h.plus hr (by decide)), Dev.discard_rest (h.plus hr (by decide)),
    Dev.plainWrite_rest hr (h.of (by decide)), Dev.secTouch_rest (h.of (by decide)), rest_ite, implies_true, ite_self]

theorem State.banksEnd_rest (hr : AllRegs A) (h : Allows A [.access, .phys, .tmus, .clusters, .caliper, .selfTest,
    .faults, .sessions, .nvmQueue, .sent]) (s : State) :
    (s.banksEnd).rest A = s.rest A := by
  unfold State.banksEnd
  simp only [Dev.showBanks_rest hr, Dev.toFactory_rest hr (h.of (by decide)), Dev.setBank_rest (h.of (by decide)),
    Dev.storeEnd_rest hr (h.of (by decide)), rest_ite, ite_self]

theorem Dev.attrSetWrite_rest (h : Allows A [.dev 6, .common, .access, .faults, .sessions]) (d : Dev) (ss : Nat)
    (val : Word) :
    (d.attrSetWrite ss val).rest A = d.rest A := by
  unfold Dev.attrSetWrite
  simp only [Dev.hostWrite_rest (h.of (by decide)), Dev.discard_rest (h.of (by decide)), Dev.fltSelCheck_rest (h.of
    (by decide)), Dev.modSn_rest (h.of (by decide)), rest_ite, implies_true, ite_self]

theorem Dev.loadEnd_rest (hr : AllRegs A) (h : Allows A [.access, .clusters, .sessions, .sent]) (d : Dev) (k : Nat)
    (err : Nat) (word : Option Nat) :
    (d.loadEnd k err word).rest A = d.rest A := by
  unfold Dev.loadEnd
  split
  all_goals simp only [Dev.set_rest hr, Dev.stick_rest hr (h.of (by decide)), Dev.irqOwner_rest (h.plus hr
    (by decide)), Dev.modCl_rest (h.of (by decide))]

theorem Dev.loadRefused_rest (hr : AllRegs A) (h : Allows A [.access, .sessions, .sent]) (d : Dev) (k err : Nat) :
    (d.loadRefused k err).rest A = d.rest A := by
  unfold Dev.loadRefused
  split
  all_goals simp only [Dev.set_rest hr, Dev.stick_rest hr (h.of (by decide)), Dev.irqOwner_rest (h.plus hr (by decide))]

theorem Dev.forceStop_rest (hr : AllRegs A) (h : Allows A [.access, .lockGroups, .lanes, .faults]) (d : Dev) (k : Nat) :
    (d.forceStop k).rest A = d.rest A := by
  unfold Dev.forceStop
  dsimp only
  refine (foldl_rest (fun d L => ?_) _ _).trans ?_
  all_goals
    repeat' split
    all_goals simp only [Dev.groupStop_rest hr (h.of (by decide)), Dev.raise_rest hr (h.of (by decide)),
      Dev.askStop_rest hr (h.of (by decide))]

theorem Dev.loadCmd_rest (hr : AllRegs A) (h : Allows A [.access, .lockGroups, .lanes, .clusters, .faults, .sessions,
    .sent]) (d : Dev) (ss k : Nat) :
    (d.loadCmd ss k).rest A = d.rest A := by
  unfold Dev.loadCmd
  simp only [Dev.set_rest hr, Dev.loadRefused_rest hr (h.of (by decide)), Dev.askAgain_rest (h.of (by decide)),
    Dev.modCl_rest (h.of (by decide)), Dev.forceStop_rest hr (h.of (by decide)), rest_ite, ite_self]

theorem Dev.loadCtrlWrite_rest (hr : AllRegs A) (h : Allows A [.access, .lockGroups, .lanes, .clusters, .faults,
    .sessions, .sent]) (d : Dev) (ss : Nat) (k : Clu) (val : Word) :
    (d.loadCtrlWrite ss k val).rest A = d.rest A := by
  unfold Dev.loadCtrlWrite
  simp only [Dev.loadRefused_rest hr (h.of (by decide)), Dev.cmdWrite_rest hr (h.of (by decide)),
    Dev.loadCmd_rest hr h, Dev.loadEnd_rest hr (h.of (by decide)), rest_ite, implies_true, ite_self]

theorem State.latchLoads_rest (h : Allows A [.clusters]) (s : State) :
    (s.latchLoads).rest A = s.rest A := by
  unfold State.latchLoads
  have hfold : ∀ (l : List Nat) (s : State), (l.foldl (fun (s : State) k => match (s.toDev.cl k).load with
      | none => s
      | some l =>
        if l.latched || l.fromNvm then s
        else { s with toDev := s.toDev.modCl k fun c => { c with load := some { l with image := s.loadSource l, latched := true } } })
      s).rest A = s.rest A := fun l => by
    induction l with
    | nil => exact fun s => rfl
    | cons k l ih =>
      intro s
      rw [List.foldl_cons, ih]
      repeat' split
      all_goals simp only [Dev.modCl_rest h]
  exact hfold _ _

theorem Dev.seqCtrlPlain_rest (hr : AllRegs A) (h : Allows A [.access, .faults]) (d : Dev) (ss : Nat) (k : Clu)
    (val : Word) :
    (d.seqCtrlPlain ss k val).rest A = d.rest A := by
  unfold Dev.seqCtrlPlain
  simp only [Dev.plainWrite_rest hr h, Dev.set_rest hr]

theorem Dev.mchkClr_rest (hr : AllRegs A) (h : Allows A [.access, .tmus, .freqs, .faults]) (d : Dev) (ss : Nat)
    (k : Clu) :
    (d.mchkClr ss k).rest A = d.rest A := by
  unfold Dev.mchkClr
  simp only [Dev.machineCheckEnd_rest hr (h.of (by decide)), Dev.discard_rest (h.plus hr (by decide)), rest_ite,
    ite_self]

theorem Dev.seqCtrlWrite_rest (hr : AllRegs A) (h : Allows A [.access, .tmus, .freqs, .faults]) (d : Dev) (ss : Nat)
    (k : Clu) (val : Word) :
    (d.seqCtrlWrite ss k val).rest A = d.rest A := by
  unfold Dev.seqCtrlWrite
  simp only [Dev.hostWrite_rest (h.plus hr (by decide)), Dev.seqCtrlPlain_rest hr (h.of (by decide)),
    Dev.mchkClr_rest hr h, rest_ite, implies_true, ite_self]

theorem Dev.plnWrite_rest (hr : AllRegs A) (h : Allows A [.access, .faults]) (d : Dev) (ss off : Nat) (val : Word) :
    (d.plnWrite ss off val).rest A = d.rest A := by
  unfold Dev.plnWrite
  simp only [Dev.set_rest hr, Dev.hostWrite_rest (h.plus hr (by decide)), Dev.plainWrite_rest hr h, rest_ite,
    implies_true, ite_self]

theorem Dev.sensFaultyWord_rest_at (h : Allows A [.dev 6, .dev 14, .common, .access, .faults, .plinth]) {off : Nat}
    (h1 : 0x24 ≤ off) (h2 : off < 0x1000) (d : Dev) (ss : Nat) (val : Word) :
      (d.sensFaultyWord ss off val).rest A = d.rest A := by
  unfold Dev.sensFaultyWord
  refine Dev.hostWrite_rest (h.of (by decide)) _ _ _ _ _ _ _ _ fun d => ?_
  exact (Dev.withPlinth_rest (h.at (by decide)) ..).trans
    (Dev.plainWrite_rest_at h1 h2 (h.at (by decide)) (h.of (by decide)) ..)

theorem Dev.sensFaultyWord_rest (hr : AllRegs A) (h : Allows A [.access, .faults, .plinth]) (d : Dev) (ss off : Nat)
    (val : Word) :
    (d.sensFaultyWord ss off val).rest A = d.rest A := by
  unfold Dev.sensFaultyWord
  simp only [Dev.hostWrite_rest (h.plus hr (by decide)), Dev.plainWrite_rest hr (h.of (by decide)),
    Dev.withPlinth_rest (h.at (by decide)), implies_true]

theorem Dev.mboxAnswer_rest (h : Allows A [.dev 8, .common, .access, .sessions, .plinth, .sent]) (d : Dev)
    (who : Option Nat) (req : List Byte) (status : Nat) (payload : List Byte) :
    (d.mboxAnswer who req status payload).rest A = d.rest A := by
  have hrsp : ∀ w : Nat, w < 64 → A (keyPart (PLN_MBOX_RSP w)) = true := fun w hw => by
    exact h.dev (n := 8) (by decide) (by decide) (show 0x8020 ≤ 0x8300 + 4 * w by omega)
      (show 0x8300 + 4 * w < 0x9000 by omega)
  unfold Dev.mboxAnswer
  split
  · exact Dev.withPlinth_rest (h.at (by decide)) ..
  · simp only [Dev.set_rest_at PLN_MBOX_CTRL.RSP_LEN (h.key (by decide)),
      Dev.stick_rest_at PLN_MBOX_CTRL.DONE (h.key (by decide)) (h.at (by decide)), Dev.irqOwner_rest (h.of (by decide))]
    exact foldl_rest_mem (fun d w hw => Dev.setReg_rest_at (hrsp w (List.mem_range.mp hw)) ..) _

theorem Dev.mboxGo_rest (h : Allows A [.dev 8, .common, .access, .sessions, .plinth, .sent]) (d : Dev) (ss : Nat) :
    (d.mboxGo ss).rest A = d.rest A := by
  unfold Dev.mboxGo
  simp only [Dev.mboxAnswer_rest h, Dev.askAgain_rest (h.of (by decide)), Dev.withPlinth_rest (h.at (by decide)),
    rest_ite, ite_self]

theorem Dev.mboxCtrlWrite_rest (hr : AllRegs A) (h : Allows A [.access, .faults, .sessions, .plinth, .sent]) (d : Dev)
    (ss : Nat) (val : Word) :
    (d.mboxCtrlWrite ss val).rest A = d.rest A := by
  unfold Dev.mboxCtrlWrite
  simp only [Dev.mboxGo_rest (h.plus hr (by decide)), Dev.cmdWrite_rest hr (h.of (by decide)), implies_true]

theorem Dev.ctrlGate_rest (hr : AllRegs A) (h : Allows A [.access, .faults]) (d : Dev) (ss : Nat) (pg : Page)
    (val : Word) (enable : Bool) (f : Dev → Dev) (hf : ∀ d, (f d).rest A = d.rest A) :
    (d.ctrlGate ss pg val enable f).rest A = d.rest A := by
  unfold Dev.ctrlGate
  simp only [Dev.discard_rest (h.plus hr (by decide)), Dev.stall_rest (h.of (by decide)), rest_ite, ite_self, hf]

theorem Dev.enableSet_rest (hr : AllRegs A) (h : Allows A [.access, .timeBase, .dirum, .lockGroups, .lanes, .phys,
    .tmus, .freqs, .clusters, .lines, .matrix, .caliper, .pointing, .sched, .selfTest, .faults, .sessions, .rings,
      .nvmQueue, .security, .plinth, .boot, .sent]) (d : Dev) (pg : Page) (en : Bool) :
    (d.enableSet pg en).rest A = d.rest A := by
  unfold Dev.enableSet
  dsimp only
  repeat' split
  all_goals simp only [Dev.wakeAsk_rest hr (h.of (by decide)), Dev.uncommand_rest hr h, Dev.set_rest hr]

theorem Dev.quiesceSet_rest (hr : AllRegs A) (h : Allows A [.access, .timeBase, .dirum, .lockGroups, .lanes, .phys,
    .tmus, .freqs, .clusters, .lines, .matrix, .caliper, .pointing, .sched, .selfTest, .faults, .sessions, .rings,
      .nvmQueue, .security, .plinth, .boot, .sent]) (d : Dev) (pg : Page) (on : Bool) :
    (d.quiesceSet pg on).rest A = d.rest A := by
  unfold Dev.quiesceSet
  simp only [Dev.uncommand_rest hr h, Dev.set_rest hr, rest_ite, ite_self]

theorem Dev.rwReset_rest (hr : AllRegs A) (h : Allows A [.access]) (d : Dev) (pg : Page) :
    (d.rwReset pg).rest A = d.rest A := by
  unfold Dev.rwReset
  simp only [Dev.setReg_rest hr, Dev.withAccess_rest (h.at (by decide)), foldl_rest, implies_true]

theorem Dev.freeRef_rest (h : Allows A [.free]) (d : Dev) :
    (d.freeRef).2.rest A = d.rest A := by
  unfold Dev.freeRef
  simp only [Dev.draw_rest h]

theorem Dev.blockReset_rest (hr : AllRegs A) (h : Allows A [.free, .access, .timeBase, .dirum, .lockGroups, .lanes,
    .phys, .tmus, .freqs, .clusters, .lines, .matrix, .caliper, .pointing, .sched, .selfTest, .faults, .sessions,
      .rings, .nvmQueue, .security, .plinth, .boot, .sent]) (d : Dev) (ss : Nat) (pg : Page) :
    (d.blockReset ss pg).rest A = d.rest A := by
  unfold Dev.blockReset
  split
  all_goals simp only [Dev.slewSettle_rest (h.of (by decide)), Dev.secTouch_rest (h.of (by decide)),
    Dev.rwReset_rest hr (h.of (by decide)), Dev.fltBlockReset_rest hr (h.of (by decide)), Dev.freeRef_rest (h.of
      (by decide)), Dev.refSelect_rest hr (h.of (by decide)), Dev.unwritePage_rest hr (h.of (by decide)),
        Dev.withAccess_rest (h.at (by decide)), Dev.withTimeBase_rest (h.at (by decide)), rest_ite, ite_self]

theorem Dev.ctrlWrite_rest (hr : AllRegs A) (h : Allows A [.free, .access, .timeBase, .dirum, .lockGroups, .lanes,
    .phys, .tmus, .freqs, .clusters, .lines, .matrix, .caliper, .pointing, .sched, .selfTest, .faults, .sessions,
      .rings, .nvmQueue, .security, .plinth, .boot, .sent]) (d : Dev) (ss : Nat) (pg : Page) (val : Word) :
    (d.ctrlWrite ss pg val).rest A = d.rest A := by
  unfold Dev.ctrlWrite
  simp only [Dev.blockReset_rest hr h, Dev.ctrlGate_rest hr (h.of (by decide)), Dev.enableSet_rest hr (h.of
    (by decide)), Dev.tracked_rest (h.of (by decide)), Dev.quiesceSet_rest hr (h.of (by decide)), rest_ite,
      implies_true, ite_self]

theorem Dev.claim_rest (h : Allows A [.dev 6, .common, .access, .faults, .sessions, .sent]) (d : Dev) (ss : Nat)
    (pg : Page) {e : Dev} (he : d.claim ss pg = some e) :
    e.rest A = d.rest A := by
  unfold Dev.claim at he
  dsimp only at he
  split at he
  · cases he
    simp only [Dev.discard_rest (h.of (by decide)), Dev.setReg_rest_at (h.page (by decide) pg
      (show 0x10 < 0x20 by decide)), Dev.wrote_rest (h.of (by decide)), Dev.irqAfterWrite_rest (h.of (by decide)),
        rest_ite, ite_self]
  · cases he

theorem Dev.releasePage_rest (h : Allows A [.dev 6, .common]) (d : Dev) (ss : Nat) (pg : Page) {e : Dev}
    (he : d.releasePage ss pg = some e) :
    e.rest A = d.rest A := by
  unfold Dev.releasePage at he
  split at he
  · cases he
    exact Dev.pageFree_rest_at h d pg
  · cases he

theorem Dev.lockPage_rest (h : Allows A [.common]) (d : Dev) (ss : Nat) (pg : Page) (lock : Bool) {e : Dev}
    (he : d.lockPage ss pg lock = some e) :
    e.rest A = d.rest A := by
  unfold Dev.lockPage at he
  split at he
  · cases he
    exact Dev.set_rest_at (PAGE_OWNER.LOCK pg.base) (h.page (by decide) pg (by decide)) ..
  · cases he

theorem Dev.ownerWrite_rest (hr : AllRegs A) (h : Allows A [.access, .faults, .sessions, .sent]) (d : Dev) (ss : Nat)
    (pg : Page) (val : Word) :
    (d.ownerWrite ss pg val).rest A = d.rest A := by
  have part : ∀ (on : Bool) (f : Dev → Option Dev) (acc : Dev × Bool), (∀ d e, f d = some e → e.rest A = d.rest A) →
      (if on then (match f acc.1 with | some d => (d, acc.2) | none => (acc.1,
        true)) else acc).1.rest A = acc.1.rest A :=
    fun on f acc hf => by
      split
      · split
        · next e he => exact hf _ _ he
        · rfl
      · rfl
  unfold Dev.ownerWrite
  refine Dev.hostWrite_rest (h.plus hr (by decide)) _ _ _ _ _ _ _ _ fun d => ?_
  dsimp only
  rw [rest_ite, Dev.discard_rest (h.plus hr (by decide)), ite_self]
  exact (part _ _ _ fun d e he => Dev.lockPage_rest (hr.allows (by decide)) d ss pg _ he).trans
    ((part _ _ _ fun d e he => Dev.releasePage_rest (hr.allows (by decide)) d ss pg he).trans
      (part _ _ (d, false) fun d e he => Dev.claim_rest (h.plus hr (by decide)) d ss pg he))

theorem Dev.irqWrite_rest (hr : AllRegs A) (h : Allows A [.access, .faults, .sessions, .sent]) (d : Dev) (ss : Nat)
    (pg : Page) (off : Nat) (val : Word) :
    (d.irqWrite ss pg off val).rest A = d.rest A := by
  unfold Dev.irqWrite
  simp only [Dev.hostWrite_rest (h.plus hr (by decide)), Dev.setReg_rest hr, Dev.irqAfterWrite_rest (h.of (by decide)),
    implies_true]

theorem Dev.fltWrite_rest (hr : AllRegs A) (h : Allows A [.access, .faults]) (d : Dev) (ss : Nat) (pg : Page)
    (val : Word) :
    (d.fltWrite ss pg val).rest A = d.rest A := by
  unfold Dev.fltWrite
  simp only [Dev.hostWrite_rest (h.plus hr (by decide)), Dev.setReg_rest hr, implies_true]

theorem Dev.commonWrite_rest (hr : AllRegs A) (h : Allows A [.free, .access, .timeBase, .dirum, .lockGroups, .lanes,
    .phys, .tmus, .freqs, .clusters, .lines, .matrix, .caliper, .pointing, .sched, .selfTest, .faults, .sessions,
      .rings, .nvmQueue, .security, .plinth, .boot, .sent]) (d : Dev) (ss : Nat) (pg : Page) (off : Nat) (val : Word) :
    (d.commonWrite ss pg off val).rest A = d.rest A := by
  unfold Dev.commonWrite
  simp only [Dev.ownerWrite_rest hr (h.of (by decide)), Dev.hostWrite_rest (h.plus hr (by decide)),
    Dev.irqWrite_rest hr (h.of (by decide)), Dev.ctrlWrite_rest hr h, Dev.fltWrite_rest hr (h.of (by decide)),
      rest_ite, implies_true, ite_self]

theorem Dev.regWrite_rest (hr : AllRegs A) (h : Allows A [.access, .faults]) (d : Dev) (ss : Nat) (pg : Page)
    (off : Nat) (val : Word) :
    (d.regWrite ss pg off val).rest A = d.rest A := by
  unfold Dev.regWrite
  split
  all_goals simp only [Dev.hostWrite_rest (h.plus hr (by decide)), Dev.discard_rest (h.plus hr (by decide)),
    Dev.plainWrite_rest hr h, rest_ite, implies_true, ite_self]

theorem Dev.rangeWrite_rest (hr : AllRegs A) (h : Allows A [.access, .faults]) (d : Dev) (ss : Nat) (pg : Page)
    (off : Nat) (val : Word) (f : Dev → Dev) (hf : ∀ d, (f d).rest A = d.rest A) :
    (d.rangeWrite ss pg off val f).rest A = d.rest A := by
  unfold Dev.rangeWrite
  simp only [Dev.plainWrite_rest hr h, Dev.hostWrite_rest (h.plus hr (by decide)), implies_true, hf]

theorem Dev.bistCtrl_rest (hr : AllRegs A) (d : Dev) :
    (d.bistCtrl).rest A = d.rest A := by
  unfold Dev.bistCtrl
  simp only [Dev.set_rest hr]

theorem Dev.arbCfg_rest (hr : AllRegs A) (d : Dev) (k : Nat) :
    (d.arbCfg k).rest A = d.rest A := by
  unfold Dev.arbCfg
  simp only [Dev.set_rest hr]

theorem Dev.tbWrite_rest (hr : AllRegs A) (h : Allows A [.free, .access, .timeBase, .dirum, .lockGroups, .lanes, .tmus,
    .freqs, .clusters, .lines, .matrix, .caliper, .selfTest, .faults, .sessions, .sent]) (d : Dev) (ss : Sess)
      (off : Nat) (val : Word) :
    (d.tbWrite ss off val).rest A = d.rest A := by
  unfold Dev.tbWrite
  simp only [Dev.lgStartWrite_rest hr (h.of (by decide)), Dev.refRevertWrite_rest hr (h.of (by decide)),
    Dev.tbRangeWrite_rest hr (h.of (by decide)), Dev.ageAdjWrite_rest hr (h.of (by decide)), Dev.lgCtrlWrite_rest hr
      (h.of (by decide)), Dev.lgMembers_rest hr (h.of (by decide)), Dev.holdStart_rest (h.of (by decide)),
        Dev.refQualWrite_rest hr (h.of (by decide)), Dev.lgStatWrite_rest hr (h.of (by decide)), Dev.regWrite_rest hr
          (h.of (by decide)), Dev.freeRef_rest (h.of (by decide)), Dev.refSelWrite_rest hr (h.of (by decide)),
            rest_ite, ite_self]

theorem Dev.secWrite_rest (hr : AllRegs A) (h : Allows A [.access, .clusters, .faults, .nvmQueue, .security])
    (d : Dev) (ss : Nat) (off : Nat) (val : Word) :
    (d.secWrite ss off val).rest A = d.rest A := by
  unfold Dev.secWrite
  simp only [Dev.dbgCtrlWrite_rest (h.plus hr (by decide)), Dev.lcCtrlWrite_rest (h.plus hr (by decide)),
    Dev.ownerKeyWrite_rest hr (h.of (by decide)), Dev.secTouch_rest (h.of (by decide)), Dev.regWrite_rest hr (h.of
      (by decide)), rest_ite, ite_self]

theorem Dev.collectorWrite_rest (hr : AllRegs A) (h : Allows A [.access, .faults]) (d : Dev) (ss : Nat) (off : Nat)
    (val : Word) :
    (d.collectorWrite ss off val).rest A = d.rest A := by
  unfold Dev.collectorWrite
  simp only [Dev.fltInjCtrlWrite_rest (h.plus hr (by decide)), Dev.fltWinSelWrite_rest (h.plus hr (by decide)),
    Dev.fltIrqCfgWrite_rest hr h, Dev.fltStickyClear_rest hr h, Dev.fltTailWrite_rest (h.plus hr (by decide)),
      Dev.fltLostWrite_rest hr h, Dev.regWrite_rest hr h, rest_ite, ite_self]

theorem Dev.glWrite_rest (hr : AllRegs A) (h : Allows A [.access, .clusters, .lines, .matrix, .faults]) (d : Dev)
    (ss : Nat) (off : Nat) (val : Word) :
    (d.glWrite ss off val).rest A = d.rest A := by
  unfold Dev.glWrite
  simp only [Dev.glCtrl_rest hr h, Dev.globalMatrixWrite_rest hr (h.of (by decide)), Dev.hostWrite_rest (h.plus hr
    (by decide)), Dev.glErr_rest hr, Dev.plainWrite_rest hr (h.of (by decide)), Dev.regWrite_rest hr (h.of
      (by decide)), rest_ite, implies_true, ite_self]

theorem Dev.devWrite_rest (hr : AllRegs A) (h : Allows A [.free, .access, .timeBase, .dirum, .lockGroups, .lanes,
    .phys, .tmus, .freqs, .clusters, .lines, .matrix, .caliper, .pointing, .sched, .selfTest, .faults, .sessions,
      .rings, .nvmQueue, .security, .plinth, .boot, .sent]) (d : Dev) (ss : Sess) (n : Fin 15) (off : Nat)
        (val : Word) :
    (d.devWrite ss n off val).rest A = d.rest A := by
  unfold Dev.devWrite
  split
  all_goals simp only [Dev.bistCtrl_rest hr, Dev.mboxCtrlWrite_rest hr (h.of (by decide)), Dev.bistCmdWrite_rest
    (h.plus hr (by decide)), Dev.pwrReqWrite_rest hr h, Dev.set_rest hr, Dev.peReqWrite_rest hr (h.of (by decide)),
      Dev.plnWrite_rest hr (h.of (by decide)), Dev.rangeWrite_rest hr (h.of (by decide)), Dev.calRangeWrite_rest hr
        (h.of (by decide)), Dev.attrSetWrite_rest (h.plus hr (by decide)), Dev.hbmCfgWrite_rest hr (h.of (by decide)),
          Dev.sensFaultyWord_rest hr (h.of (by decide)), Dev.dirumCtrlWrite_rest hr (h.of (by decide)),
            Dev.flowWaitWrite_rest hr (h.of (by decide)), Dev.collectorWrite_rest hr (h.of (by decide)),
              Dev.ringDbWrite_rest hr (h.of (by decide)), Dev.glWrite_rest hr (h.of (by decide)), Dev.secWrite_rest hr
                (h.of (by decide)), Dev.calCmdWrite_rest hr (h.of (by decide)), Dev.peCfgWrite_rest hr (h.of
                  (by decide)), Dev.regWrite_rest hr (h.of (by decide)), Dev.ringCtrlWrite_rest hr (h.of (by decide)),
                    Dev.tbWrite_rest hr (h.of (by decide)), Dev.sessCtrlWrite_rest hr (h.of (by decide)),
                      Dev.nvmCmdWrite_rest (h.plus hr (by decide)), rest_ite, implies_true, ite_self]

theorem Dev.slotWrite_rest (hr : AllRegs A) (h : Allows A [.access, .faults]) (d : Dev) (ss k off : Nat) (val : Word) :
    (d.slotWrite ss k off val).rest A = d.rest A := by
  unfold Dev.slotWrite
  split
  all_goals simp only [Dev.stick_rest hr (h.of (by decide)), Dev.hostWrite_rest (h.plus hr (by decide)),
    Dev.slotCfgWrite_rest hr h, Dev.regWrite_rest hr h, rest_ite, implies_true, ite_self]

theorem Dev.cntWrite_rest (hr : AllRegs A) (h : Allows A [.access, .clusters, .faults]) (d : Dev) (ss k off : Nat)
    (val : Word) :
    (d.cntWrite ss k off val).rest A = d.rest A := by
  unfold Dev.cntWrite
  simp only [Dev.hostWrite_rest (h.plus hr (by decide)), Dev.armErr_rest hr (h.of (by decide)), Dev.modCnt_rest (h.of
    (by decide)), rest_ite, implies_true, ite_self]

theorem Dev.trigWord_rest (hr : AllRegs A) (h : Allows A [.access, .matrix, .faults]) (d : Dev) (ss L off : Nat)
    (val : Word) :
    (d.trigWord ss L off val).rest A = d.rest A := by
  unfold Dev.trigWord
  split
  all_goals simp only [Dev.trigWrite_rest hr h, Dev.regWrite_rest hr (h.of (by decide))]

theorem Dev.chWrite_rest (hr : AllRegs A) (h : Allows A [.access, .dirum, .lanes, .tmus, .freqs, .clusters, .matrix,
    .selfTest, .faults]) (d : Dev) (ss : Sess) (k : Clu) (p : Phy) (off : Nat) (val : Word) :
    (d.chWrite ss k p off val).rest A = d.rest A := by
  unfold Dev.chWrite
  split
  all_goals simp only [Dev.progCtrlWrite_rest hr (h.of (by decide)), Dev.ctxCommitWrite_rest hr (h.of (by decide)),
    Dev.discard_rest (h.plus hr (by decide)), Dev.holdStart_rest (h.of (by decide)), Dev.swTriggerWrite_rest hr (h.of
      (by decide)), Dev.laneCfgWrite_rest hr (h.of (by decide)), Dev.trigWord_rest hr (h.of (by decide)),
        Dev.regWrite_rest hr (h.of (by decide)), rest_ite, ite_self]

theorem Dev.clusterWrite_rest (hr : AllRegs A) (h : Allows A [.access, .dirum, .lockGroups, .lanes, .tmus, .freqs,
    .clusters, .lines, .matrix, .sched, .selfTest, .faults, .sessions, .rings, .sent]) (d : Dev) (ss : Sess)
      (pg : Page) (off : Nat) (val : Word) :
    (d.clusterWrite ss pg off val).rest A = d.rest A := by
  unfold Dev.clusterWrite
  split
  all_goals simp only [Dev.chWrite_rest hr (h.of (by decide)), Dev.loadCtrlWrite_rest hr (h.of (by decide)),
    Dev.seqCtrlWrite_rest hr (h.of (by decide)), Dev.set_rest hr, Dev.freqCfgWrite_rest hr (h.of (by decide)),
      Dev.rangeWrite_rest hr (h.of (by decide)), Dev.arbCfg_rest hr, Dev.holdStart_rest (h.of (by decide)),
        Dev.freqCtrlWrite_rest hr (h.of (by decide)), Dev.slotWrite_rest hr (h.of (by decide)), Dev.tmuInject_rest hr
          (h.of (by decide)), Dev.armFire_rest hr (h.of (by decide)), Dev.cntWrite_rest hr (h.of (by decide)),
            Dev.armOwnCtrl_rest hr (h.of (by decide)), Dev.regWrite_rest hr (h.of (by decide)), Dev.ginWrite_rest hr
              (h.of (by decide)), rest_ite, implies_true, ite_self]

theorem Dev.msixWrite_rest (hr : AllRegs A) (h : Allows A [.access, .faults, .sessions, .sent]) (d : Dev)
    (ss off : Nat) (val : Word) :
    (d.msixWrite ss off val).rest A = d.rest A := by
  unfold Dev.msixWrite
  simp only [Dev.discardAt_rest (h.plus hr (by decide)), Dev.setReg_rest hr, Dev.vecMask_rest (h.of (by decide)),
    rest_ite, ite_self]

theorem Dev.busWrite_rest (hr : AllRegs A) (h : Allows A [.free, .access, .timeBase, .dirum, .lockGroups, .lanes,
    .phys, .tmus, .freqs, .clusters, .lines, .matrix, .caliper, .pointing, .sched, .selfTest, .faults, .sessions,
      .rings, .nvmQueue, .security, .plinth, .boot, .sent]) (d : Dev) (ss : Sess) (addr : Nat) (val : Word) :
    (d.busWrite ss addr val).rest A = d.rest A := by
  unfold Dev.busWrite
  repeat' split
  all_goals simp only [Dev.msixWrite_rest hr (h.of (by decide)), Dev.devWrite_rest hr h, Dev.discardAt_rest (h.plus hr
    (by decide)), Dev.discard_rest (h.plus hr (by decide)), Dev.matrixWrite_rest hr (h.of (by decide)),
      Dev.clusterWrite_rest hr (h.of (by decide)), Dev.secTouch_rest (h.of (by decide)), Dev.stall_rest (h.of
        (by decide)), Dev.commonWrite_rest hr h]

theorem Dev.badAccess_rest (h : Allows A [.dev 6, .common, .access, .faults, .sent]) (d : Dev) (ss : Nat)
    (write : Bool) (addr : Nat) :
    (d.badAccess ss write addr).rest A = d.rest A := by
  unfold Dev.badAccess
  repeat' split
  all_goals simp only [Dev.discardAt_rest (h.of (by decide)), Dev.discard_rest (h.of (by decide)), Dev.withSent_rest
    (h.at (by decide))]

theorem State.busStore_rest (hr : AllRegs A) (h : Allows A [.free, .access, .timeBase, .dirum, .lockGroups, .lanes,
    .phys, .tmus, .freqs, .clusters, .lines, .matrix, .caliper, .pointing, .sched, .selfTest, .faults, .sessions,
      .rings, .nvmQueue, .security, .plinth, .boot, .sent]) (s : State) (ss : Sess) (addr : Nat) (val : Word) :
    (s.busStore ss addr val).rest A = s.rest A := by
  unfold State.busStore
  dsimp only
  split
  · rw [State.latchLoads_rest (h.of (by decide))]
    exact Dev.busWrite_rest hr h ..
  · exact Dev.busWrite_rest hr h ..

theorem Dev.dbgStore_rest (hr : AllRegs A) (h : Allows A [.free, .access, .timeBase, .dirum, .lockGroups, .lanes,
    .phys, .tmus, .freqs, .clusters, .lines, .matrix, .caliper, .pointing, .sched, .selfTest, .faults, .sessions,
      .rings, .nvmQueue, .security, .plinth, .boot, .sent, .dbg]) (d : Dev) (ss : Sess) (a : Nat) (wide : Bool)
        (data : Nat) :
    (d.dbgStore ss a wide data).rest A = d.rest A := by
  unfold Dev.dbgStore
  simp only [Dev.wrapUp_rest hr, Dev.busWrite_rest hr (h.of (by decide)), Dev.withDbg_rest (h.at (by decide)),
    rest_ite, ite_self]

theorem State.dbgAccess_rest (hr : AllRegs A) (h : Allows A [.free, .access, .timeBase, .dirum, .lockGroups, .lanes,
    .phys, .tmus, .freqs, .clusters, .lines, .matrix, .caliper, .pointing, .sched, .selfTest, .faults, .sessions,
      .rings, .nvmQueue, .security, .plinth, .boot, .sent, .dbg, .tdo]) (s : State) (dr : BitVec 104) :
    (s.dbgAccess dr).rest A = s.rest A := by
  have two : ∀ (tdo : List Byte) (sec : Security), ({ s.toDev with tdo, sec } : Dev).rest A = s.rest A := fun tdo sec =>
    (Dev.withTdo_rest (h.at (by decide)) { s.toDev with sec } tdo).trans (Dev.withSecurity_rest (h.at
      (by decide)) _ sec)
  have done : ∀ (d : Dev) (sec : Security), ({ d with sec } : Dev).rest A = d.rest A := fun d sec =>
    d.withSecurity_rest (h.at (by decide)) sec
  unfold State.dbgAccess
  dsimp only
  split
  · exact two _ _
  · split
    · split
      · exact two _ _
      · exact (done _ _).trans ((Dev.draw_rest (h.of (by decide)) _).trans (two _ _))
    · split
      · exact (done _ _).trans ((Dev.dbgStore_rest hr (h.of (by decide)) ..).trans (two _ _))
      · exact two _ _

theorem Dev.dbgCluster_rest (h : Allows A [.security, .tdo]) (d : Dev) (k : Nat) (f : Dev → Dev) (hf : ∀ d,
    (f d).rest A = d.rest A) :
    (d.dbgCluster k f).rest A = d.rest A := by
  unfold Dev.dbgCluster
  simp only [Dev.asBypass_rest h, Dev.withSecurity_rest (h.at (by decide)), rest_ite, ite_self, hf]

theorem uopOf_rest (hr : AllRegs A) (h : Allows A [.free, .access, .lockGroups, .lanes, .phys, .tmus, .freqs,
    .clusters, .lines, .caliper, .sched, .selfTest, .faults, .sessions, .sent]) (op : Nat) {f : UOp}
      (hf : uopOf op = some f) :
    ∀ d k ti t w, (f d k ti t w).d.rest A = d.rest A := by
  unfold uopOf at hf
  split at hf
  all_goals cases hf
  all_goals
    intro d k ti t w
    simp only [opPlain_rest, opFld_rest (h.of (by decide)), opPushl_rest hr (h.of (by decide)), opSext_rest,
      opAdd_rest, opEndl_rest hr (h.of (by decide)), opEndt_rest, opLdx_rest hr (h.of (by decide)), opReti_rest,
        opEnqEnd_rest, opMbox_rest (h.of (by decide)), opHbmsync_rest, opCallu_rest, opEnq_rest, opRetu_rest,
          opSigf_rest, opInvc_rest, opStx_rest hr (h.of (by decide)), opFlip_rest, opLdi_rest, opLogic_rest,
            opHbmwr_rest, opFetchq_rest, opPushc_rest hr (h.of (by decide)), opNop_rest, opHbmrd_rest, opCmp_rest
              (h.of (by decide)), opBr_rest, opStopl_rest hr (h.of (by decide)), opTrap_rest hr (h.of (by decide)),
                opNexti_rest, opSell_rest, opSub_rest (h.of (by decide)), opMov_rest, opTst_rest, opJpc_rest,
                  opPopc_rest hr (h.of (by decide))]

theorem State.stepReady_rest (hr : AllRegs A) (h : Allows A [.access, .lockGroups, .lanes, .clusters, .lines, .faults,
    .sessions, .sent]) (s : State) (k : Nat) :
    (s.stepReady k).rest A = s.rest A := by
  unfold State.stepReady
  simp only [Dev.modCl_rest (h.of (by decide)), Dev.dispatch_rest hr h, rest_ite, ite_self]

theorem Dev.stepWord_rest (hr : AllRegs A) (h : Allows A [.free, .access, .lockGroups, .lanes, .phys, .tmus, .freqs,
    .clusters, .lines, .caliper, .sched, .selfTest, .faults, .sessions, .sent]) (d : Dev) (k : Nat) :
    (d.stepWord k).rest A = d.rest A := by
  unfold Dev.stepWord
  dsimp only
  rw [Dev.modCl_rest (h.of (by decide))]
  split
  · rfl
  · next f hf => exact Dev.uop_rest hr (h.of (by decide)) d _ _ _ f (uopOf_rest hr h _ hf)

theorem Dev.smbSay_rest (h : Allows A [.smbReply]) (d : Dev) (b : List Byte) :
    (d.smbSay b).rest A = d.rest A := by
  unfold Dev.smbSay
  simp only [Dev.withSmbReply_rest (h.at (by decide))]

theorem Dev.smbServe_rest (h : Allows A [.smbReply]) (d : Dev) (f : Dev → Dev) (hf : ∀ d, (f d).rest A = d.rest A) :
    (d.smbServe f).rest A = d.rest A := by
  unfold Dev.smbServe
  simp only [Dev.smbSay_rest h, rest_ite, ite_self, hf]

/-- Every part but `p`. -/
def allBut (p q : Part) : Bool := q != p

theorem allBut_regs {p : Part} (hp : p.isReg = false) : AllRegs (allBut p) := fun q hq => by
  refine bne_iff_ne.mpr fun h => ?_
  rw [h, hp] at hq
  cases hq

theorem allBut_allows {p : Part} {l : List Part} (h : ∀ q ∈ l, q ≠ p) : Allows (allBut p) l :=
  fun q hq => bne_iff_ne.mpr (h q hq)

end Sys2Proof.Machine
end

