-- ==== Sys2Proof/Proofs/NvmLifecycle.lean ====
section
/-! SUPPORT. The NVM commands from GO to their end (R373), the transitions of the lifecycle (R374, R375), and LOCK and
CLOSE of the debug port (R377, R380). -/

namespace Sys2Proof.Machine
variable {d : Dev}

/-! ### Registers beside the one written -/

theorem Dev.set_reg_ne {f : Fld} (hw : f.lo + f.w ≤ 32) {j : Nat} (hj : j ≠ f.key) (v : Nat) : (d.set f v).reg j = d.reg j := by
  rw [Dev.set_narrow _ hw, Dev.setReg_reg, if_neg hj]

theorem Dev.stick_reg_ne {f : Fld} {j : Nat} (hj : j ≠ f.key) : (d.stick f).reg j = d.reg j := by
  rw [Dev.stick_reg, if_neg hj]

theorem Dev.irqAt_reg_ne {pg : Page} {ss j : Nat}
    (hj : j ≠ if pg.perIrq then sessKey ss + PAGE_IRQ_STAT pg.base else PAGE_IRQ_STAT pg.base) (bit : Nat) :
    (d.irqAt pg ss bit).reg j = d.reg j := by
  unfold Dev.irqAt
  generalize (if pg.perIrq then sessKey ss + PAGE_IRQ_STAT pg.base else PAGE_IRQ_STAT pg.base) = key at hj ⊢
  dsimp only
  split
  · rw [Dev.msix_reg]
    exact Dev.stick_reg_ne hj
  · exact Dev.stick_reg_ne hj

/-! ### NVM commands (R373) -/

/-- The row of NVM_CMD: OP is written, and GO is a command bit. -/
def nvmCmdRow : Row := ⟨0x10C, 0, 1, true, 0x3, 0x0, [], 0x80000000, 0x0, 0x0, .any, 0⟩

theorem rowOf_nvmCmd : rowOf nvmPage 0x10C = some nvmCmdRow := by decide

theorem nvmCmdRow_op {key : Nat} : nvmCmdRow.writable ⟨key, 0, 2⟩ = true := by
  have h : nvmCmdRow.writable ⟨0, 0, 2⟩ = true := by decide
  exact h

/-- A write of NVM_CMD leaves OP as written, and ADDR, LEN and the commands in wait as they are. -/
theorem Dev.plainWrite_nvmCmd {ss : Nat} (h : d.outranked ss (nvmCmdRow.key nvmPage 0x10C ss) = false) (val : Word) :
    ∃ e : Dev, d.plainWrite ss nvmPage 0x10C val = e ∧ e.get (NVM_CMD.OP ss) = wfield val 0 2
      ∧ e.get (NVM_ADDR.ADDR ss) = d.get (NVM_ADDR.ADDR ss) ∧ e.get (NVM_LEN.BYTES ss) = d.get (NVM_LEN.BYTES ss)
      ∧ e.nvmQ = d.nvmQ := by
  have hreg : ∀ f : Fld, f.lo + f.w ≤ 32 → f.key ≠ NVM_CMD ss → (d.plainWrite ss nvmPage 0x10C val).get f = d.get f :=
    fun f hw hj => by
      rw [Dev.get_narrow _ hw, Dev.get_narrow _ hw, Dev.plainWrite_reg_ne rowOf_nvmCmd rfl hj]
  refine ⟨_, rfl, ?_, hreg _ (show 0 + 26 ≤ 32 by decide) ?_, hreg _ (show 0 + 25 ≤ 32 by decide) ?_, ?_⟩
  · exact Dev.get_plainWrite rowOf_nvmCmd rfl rfl (f := NVM_CMD.OP ss) nvmCmdRow_op h val
  · show sessKey ss + 0xB104 ≠ sessKey ss + 0xB10C
    omega
  · show sessKey ss + 0xB108 ≠ sessKey ss + 0xB10C
    omega
  · obtain ⟨regs, ports, hput⟩ := Dev.putWord_frame d ss (nvmCmdRow.key nvmPage 0x10C ss) nvmCmdRow val
    rw [Dev.plainWrite_single rowOf_nvmCmd rfl, hput]

/-- A command that asks for the NVM is in line for it; which one has it is `nvmCur`. -/
theorem Dev.nvmAsk_eq (r : Nat) (f : Dev → Dev) : ∃ cur, d.nvmAsk r f = { f d.nvmPin with nvmCur := cur } := by
  unfold Dev.nvmAsk
  dsimp only
  split
  · exact ⟨_, rfl⟩
  · split <;> exact ⟨_, rfl⟩

/-- An NVM command of a session with none in wait, over a range that R373 allows, is in line. -/
theorem Dev.nvmGo_asks {ss op : Nat} (hw : d.nvmWaits ss = false) (hop : d.get (NVM_CMD.OP ss) = op) (h0 : op ≠ 0) (h3 : op ≠ 3)
    (hr : nvmRangeOk op (d.get (NVM_ADDR.ADDR ss)) (d.get (NVM_LEN.BYTES ss)) = true) :
    (d.nvmGo ss).get (NVM_CMD_STAT.STATE ss) = 1
      ∧ (d.nvmGo ss).nvmQ = d.nvmQ ++ [{ session := ss, op, addr := d.get (NVM_ADDR.ADDR ss), len := d.get (NVM_LEN.BYTES ss) }] := by
  obtain ⟨cur, hask⟩ := d.nvmAsk_eq 3 fun e => { e with nvmQ := e.nvmQ ++
    [{ session := ss, op, addr := d.get (NVM_ADDR.ADDR ss), len := d.get (NVM_LEN.BYTES ss) }] }
  unfold Dev.nvmGo
  simp only [hw, hop, hr, h0, h3, decide_false, Bool.or_false, Bool.false_eq_true, if_false, Bool.not_true, hask]
  exact ⟨Dev.get_set_word (show 0 + 2 ≤ 32 by decide) 1, Dev.set_nvmQ ..⟩

/-- What the end of an NVM command leaves. -/
theorem Dev.nvmEnd_get (ss err : Nat) : (d.nvmEnd ss err).get (NVM_CMD_STAT.STATE ss) = d.get (NVM_CMD_STAT.STATE ss)
    ∧ (d.nvmEnd ss err).get (NVM_CMD_STAT.ERR ss) = err % 8 ∧ (d.nvmEnd ss err).get (NVM_CMD_STAT.DONE ss) = 1 := by
  have hirq : NVM_CMD_STAT ss ≠ if nvmPage.perIrq then sessKey ss + PAGE_IRQ_STAT nvmPage.base else PAGE_IRQ_STAT nvmPage.base := by
    show sessKey ss + 0xB110 ≠ sessKey ss + 0xB01C
    omega
  unfold Dev.nvmEnd
  refine ⟨?_, ?_, ?_⟩
  · rw [Dev.get_irqAt _ _ _ (show 0 + 2 ≤ 32 by decide) hirq, Dev.get_stick_ne _ (by simp [Fld.apart]),
      Dev.get_set_ne _ (by simp [Fld.apart])]
  · rw [Dev.get_irqAt _ _ _ (show 3 + 3 ≤ 32 by decide) hirq, Dev.get_stick_ne _ (by simp [Fld.apart]),
      Dev.get_set_word (show 3 + 3 ≤ 32 by decide)]
    rfl
  · rw [Dev.get_irqAt _ _ _ (show 2 + 1 ≤ 32 by decide) hirq, Dev.get_stick _ (show 2 + 1 ≤ 32 by decide)]
    rfl

/-- An NVM command of OP 0 or 3 ends at once with ERR INVALID. -/
theorem Dev.nvmGo_invalid {ss op : Nat} (hw : d.nvmWaits ss = false) (hop : d.get (NVM_CMD.OP ss) = op) (h : op = 0 ∨ op = 3) :
    d.nvmGo ss = (d.set (NVM_CMD_STAT.STATE ss) 3).nvmEnd ss 3 := by
  unfold Dev.nvmGo
  simp only [hw, hop, Bool.false_eq_true, if_false]
  rw [if_pos (by simpa using h)]

/-- A GO in NVM_CMD that is performed writes OP and then gives the command. -/
theorem Dev.nvmCmdWrite_of_lets {ss : Nat} {val : Word} (h : d.lets ss nvmPage 0x10C (whoOf nvmPage 0x10C) true = true)
    (hgo : wbit val 31 = true) : d.nvmCmdWrite ss val
      = d.tracked nvmPage (fun d => (d.plainWrite ss nvmPage 0x10C val).nvmGo ss) (some (ss, 0x10C)) := by
  unfold Dev.nvmCmdWrite
  rw [hgo, Dev.cmdWrite_of_lets h]
  simp only [if_true]

/-- A READ or a CHECK over a range that R373 allows is in line behind the others. -/
theorem Dev.nvmCmdWrite_asks {ss : Nat} {val : Word} {op : Nat}
    (h : d.lets ss nvmPage 0x10C (whoOf nvmPage 0x10C) true = true) (hgo : wbit val 31 = true) (hop : wfield val 0 2 = op)
    (h0 : op ≠ 0) (h3 : op ≠ 3) (hw : d.nvmWaits ss = false)
    (hr : nvmRangeOk op (d.get (NVM_ADDR.ADDR ss)) (d.get (NVM_LEN.BYTES ss)) = true) :
    (d.nvmCmdWrite ss val).get (NVM_CMD_STAT.STATE ss) = 1
      ∧ (d.nvmCmdWrite ss val).nvmQ = d.nvmQ ++ [{ session := ss, op, addr := d.get (NVM_ADDR.ADDR ss), len := d.get (NVM_LEN.BYTES ss) }] := by
  obtain ⟨e, he, heop, hea, hel, heq⟩ := Dev.plainWrite_nvmCmd (Dev.outranked_of_lets h nvmCmdRow) val
  have hew : e.nvmWaits ss = false := by
    unfold Dev.nvmWaits at hw ⊢
    rwa [heq]
  have hgoes := Dev.nvmGo_asks hew (heop.trans hop) h0 h3 (by rwa [hea, hel])
  rw [hea, hel, heq] at hgoes
  rw [Dev.nvmCmdWrite_of_lets h hgo, Dev.tracked_get, he]
  exact ⟨hgoes.1, Eq.trans (by unfold Dev.tracked Dev.trackedAt; dsimp only; rw [he]) hgoes.2⟩

/-- A lookup in line again that nobody asked for changes nothing. -/
theorem Dev.startAgain_of_nil (h : d.again = []) (key : Nat) (f : Dev → Nat → Word → Dev) : d.startAgain key f = d := by
  have hd : ({ d with again := [] } : Dev) = d := congrArg (fun l => ({ d with again := l } : Dev)) h.symm
  unfold Dev.startAgain
  simp only [h, List.filter_nil, List.foldl_nil]
  exact hd

/-- The words that a fold writes from register `k` on, four addresses each. -/
theorem Dev.reg_foldl_setReg (k : Nat) (v : Nat → Word) (n j : Nat) :
    ((List.range n).foldl (fun (e : Dev) w => e.setReg (k + 4 * w) (v w)) d).reg j
      = if k ≤ j ∧ j < k + 4 * n ∧ (j - k) % 4 = 0 then v ((j - k) / 4) else d.reg j := by
  induction n with
  | zero => rw [if_neg (by omega)]; rfl
  | succ n ih =>
    rw [List.range_succ, List.foldl_append, List.foldl_cons, List.foldl_nil, Dev.setReg_reg, ih]
    by_cases hj : j = k + 4 * n
    · rw [if_pos hj, if_pos (by omega), hj]
      congr
      omega
    · rw [if_neg hj]
      exact if_congr (by omega) rfl rfl

theorem Dev.foldl_setReg_only (k : Nat → Nat) (v : Nat → Word) (l : List Nat) (d : Dev) :
    ∃ regs, l.foldl (fun (e : Dev) w => e.setReg (k w) (v w)) d = { d with regs } := by
  induction l generalizing d with
  | nil => exact ⟨_, rfl⟩
  | cons w l ih => exact ih (d.setReg (k w) (v w))

theorem Dev.drawBytes_only (n : Nat) (d : Dev) : ∃ free, (d.drawBytes n).2 = { d with free } := by
  induction n generalizing d with
  | zero => exact ⟨_, rfl⟩
  | succ n ih => exact ih d.draw.2

/-- A word of NVM_DATA after a READ, and the registers outside NVM_DATA. -/
theorem Dev.nvmData_reg (ss : Nat) (bytes : List Byte) (w : Fin 64) :
    (d.nvmData ss bytes).reg (NVM_DATA ss w) = BitVec.ofNat 32 (leNat ((bytes.drop (4 * w)).take 4)) := by
  have hkey : NVM_DATA ss w = sessKey ss + 0xB200 + 4 * w := (Nat.add_assoc ..).symm
  have hfold : d.nvmData ss bytes = (List.range 64).foldl (fun (e : Dev) w => e.setReg (sessKey ss + 0xB200 + 4 * w)
      (BitVec.ofNat 32 (leNat ((bytes.drop (4 * w)).take 4)))) d := by
    simp only [Nat.add_assoc]
    rfl
  have hw : (sessKey ss + 0xB200 + 4 * w - (sessKey ss + 0xB200)) / 4 = w.val := by omega
  rw [hfold, Dev.reg_foldl_setReg, hkey, if_pos (by omega), hw]

/-- What a command read from the NVM stands in the registers; the rest but the free values drawn is as it was. -/
theorem Dev.nvmResult_only (nvm : List Host.Cell) (c : NvmCmd) (readErr : Bool) :
    ∃ regs free, d.nvmResult nvm c readErr = { d with regs, free } := by
  unfold Dev.nvmResult
  split
  · cases readErr
    · obtain ⟨regs, h⟩ := Dev.foldl_setReg_only (NVM_DATA c.session) (fun w => BitVec.ofNat 32 (leNat
        ((((List.range c.len).map fun i => d.nvmByte nvm (c.addr + i)).drop (4 * w)).take 4))) (List.range 64) d
      exact ⟨regs, d.free, h⟩
    · obtain ⟨free, hf⟩ := Dev.drawBytes_only (c.len / 4) d
      obtain ⟨regs, h⟩ := Dev.foldl_setReg_only (NVM_DATA c.session) (fun w => BitVec.ofNat 32 (leNat
        (((d.drawBytes (c.len / 4)).1.drop (4 * w)).take 4))) (List.range 64) (d.drawBytes (c.len / 4)).2
      exact ⟨regs, free, h.trans (by rw [hf])⟩
  · cases readErr <;> exact ⟨_, _, Dev.set_narrow _ (show 0 + 32 ≤ 32 by decide) _⟩

@[simp] theorem Dev.nvmPin_get (d : Dev) (f : Fld) : d.nvmPin.get f = d.get f := rfl
@[simp] theorem Dev.nvmPin_reg (d : Dev) (j : Nat) : d.nvmPin.reg j = d.reg j := rfl
@[simp] theorem Dev.nvmPin_nvmQ (d : Dev) : d.nvmPin.nvmQ = d.nvmQ := rfl
@[simp] theorem Dev.nvmPin_again (d : Dev) : d.nvmPin.again = d.again := rfl

/-- The device after the command `c` at the head of the NVM's line, with the commands `rest` behind it. -/
def Dev.nvmDone (d : Dev) (nvm : List Host.Cell) (c : NvmCmd) (rest : List NvmCmd) (readErr : Bool) : Dev :=
  ((({ d with nvmQ := rest, nvmCur := none } : Dev).nvmResult nvm c readErr).set (NVM_CMD_STAT.STATE c.session) 3).nvmEnd
    c.session (if readErr then 4 else 0)

theorem Dev.nvmDone_again (nvm : List Host.Cell) (c : NvmCmd) (rest : List NvmCmd) (readErr : Bool) :
    (d.nvmDone nvm c rest readErr).again = d.again := by
  obtain ⟨regs, free, hres⟩ := ({ d with nvmQ := rest, nvmCur := none } : Dev).nvmResult_only nvm c readErr
  unfold Dev.nvmDone Dev.nvmEnd
  rw [Dev.irqAt_again, Dev.stick_again, Dev.set_again, Dev.set_again, hres]

/-- An NVM command that is done, where no GO of the same cycle waits behind it. -/
theorem execNvmCmdDone_of_head {s : State} {c : NvmCmd} {rest : List NvmCmd} (hq : s.nvmQ = c :: rest)
    (hm : s.nvmMay 3 = true) (ha : s.again = []) (readErr : Bool) :
    exec (.nvmCmdDone readErr) s = .next { s with toDev := (s.nvmDone s.nvm c rest readErr).nvmPin } := by
  have hagain : (s.nvmDone s.nvm c rest readErr).nvmPin.again = [] := by rw [Dev.nvmPin_again, Dev.nvmDone_again, ha]
  change execNvmCmdDone readErr s = _
  unfold execNvmCmdDone State.on
  simp only [hq, hm, Bool.not_true, Bool.false_eq_true, if_false]
  unfold Dev.nvmDone at hagain ⊢
  rw [Dev.startAgain_of_nil hagain]

theorem Dev.nvmEnd_nvmQ (ss err : Nat) : (d.nvmEnd ss err).nvmQ = d.nvmQ := by
  unfold Dev.nvmEnd
  rw [Dev.irqAt_nvmQ, Dev.stick_nvmQ, Dev.set_nvmQ]

/-- The end of an NVM command keeps every register but NVM_CMD_STAT and PAGE_IRQ_STAT. -/
theorem Dev.nvmEnd_reg_ne {ss j : Nat} (h1 : j ≠ NVM_CMD_STAT ss) (h2 : j ≠ sessKey ss + 0xB01C) (err : Nat) :
    (d.nvmEnd ss err).reg j = d.reg j := by
  unfold Dev.nvmEnd
  rw [Dev.irqAt_reg_ne (pg := nvmPage) h2, Dev.stick_reg_ne h1, Dev.set_reg_ne (show 3 + 3 ≤ 32 by decide) h1]

/-- The end of a command: STATE 3, ERR as found, DONE, and the next command at the head. -/
theorem Dev.nvmDone_ends (nvm : List Host.Cell) (c : NvmCmd) (rest : List NvmCmd) (readErr : Bool) :
    (d.nvmDone nvm c rest readErr).nvmQ = rest
      ∧ (d.nvmDone nvm c rest readErr).get (NVM_CMD_STAT.STATE c.session) = 3
      ∧ (d.nvmDone nvm c rest readErr).get (NVM_CMD_STAT.ERR c.session) = (if readErr then 4 else 0)
      ∧ (d.nvmDone nvm c rest readErr).get (NVM_CMD_STAT.DONE c.session) = 1 := by
  obtain ⟨regs, free, hres⟩ := ({ d with nvmQ := rest, nvmCur := none } : Dev).nvmResult_only nvm c readErr
  unfold Dev.nvmDone
  obtain ⟨hstate, herr, hdone⟩ := ((({ d with nvmQ := rest, nvmCur := none } : Dev).nvmResult nvm c readErr).set
    (NVM_CMD_STAT.STATE c.session) 3).nvmEnd_get c.session (if readErr then 4 else 0)
  refine ⟨?_, ?_, ?_, hdone⟩
  · rw [Dev.nvmEnd_nvmQ, Dev.set_nvmQ, hres]
  · rw [hstate, Dev.get_set_word (show 0 + 2 ≤ 32 by decide)]
    rfl
  · rw [herr]
    cases readErr <;> rfl

/-- A READ without error leaves its bytes in NVM_DATA. -/
theorem Dev.nvmDone_data {c : NvmCmd} (hc : c.op = 1) (nvm : List Host.Cell) (rest : List NvmCmd) (w : Fin 64) :
    (d.nvmDone nvm c rest false).reg (NVM_DATA c.session w) = BitVec.ofNat 32
      (leNat ((((List.range c.len).map fun i => d.nvmByte nvm (c.addr + i)).drop (4 * w)).take 4)) := by
  have hstat : NVM_DATA c.session w ≠ NVM_CMD_STAT c.session := by
    show sessKey c.session + (0xB200 + 4 * w) ≠ sessKey c.session + 0xB110
    omega
  have hirq : NVM_DATA c.session w ≠ sessKey c.session + 0xB01C := by
    show sessKey c.session + (0xB200 + 4 * w) ≠ sessKey c.session + 0xB01C
    omega
  unfold Dev.nvmDone
  rw [Dev.nvmEnd_reg_ne hstat hirq, Dev.set_reg_ne (show 0 + 2 ≤ 32 by decide) hstat]
  unfold Dev.nvmResult
  rw [if_pos hc]
  exact Dev.nvmData_reg ..

/-- A CHECK without error leaves the CRC-32 in NVM_RESULT. -/
theorem Dev.nvmDone_crc {c : NvmCmd} (hc : c.op ≠ 1) (nvm : List Host.Cell) (rest : List NvmCmd) :
    (d.nvmDone nvm c rest false).get (NVM_RESULT.CRC c.session)
      = crc32 ((List.range c.len).map fun i => d.nvmByte nvm (c.addr + i)) % 2 ^ 32 := by
  have hstat : NVM_RESULT c.session ≠ NVM_CMD_STAT c.session := by
    show sessKey c.session + 0xB114 ≠ sessKey c.session + 0xB110
    omega
  have hirq : NVM_RESULT c.session ≠ sessKey c.session + 0xB01C := by
    show sessKey c.session + 0xB114 ≠ sessKey c.session + 0xB01C
    omega
  have hreg : (d.nvmDone nvm c rest false).get (NVM_RESULT.CRC c.session)
      = (({ d with nvmQ := rest, nvmCur := none } : Dev).nvmResult nvm c false).get (NVM_RESULT.CRC c.session) := by
    unfold Dev.nvmDone
    rw [Dev.get_narrow _ (show 0 + 32 ≤ 32 by decide), Dev.get_narrow _ (show 0 + 32 ≤ 32 by decide),
      Dev.nvmEnd_reg_ne hstat hirq, Dev.set_reg_ne (show 0 + 2 ≤ 32 by decide) hstat]
  rw [hreg]
  unfold Dev.nvmResult
  rw [if_neg hc]
  exact Dev.get_set_word (show 0 + 32 ≤ 32 by decide) _

/-! ### SEC_LC_CTRL and SEC_DBG_CTRL (R374, R380) -/

/-- A touch of the security page takes back a transition prepared before, and nothing else. -/
theorem Dev.secTouch_only (d : Dev) (ss : Nat) : ∃ prep, d.secTouch ss = { d with sec := { d.sec with prep := prep } } := by
  unfold Dev.secTouch
  split <;> exact ⟨_, rfl⟩

theorem Dev.lets_withSec (sec : Security) (ss : Nat) (pg : Page) (off : Nat) (who : Who) (cmd : Bool) :
    ({ d with sec } : Dev).lets ss pg off who cmd = d.lets ss pg off who cmd := rfl

/-- What each step of a fold leaves unchanged, the fold leaves unchanged. -/
theorem foldl_keeps {α β : Type} {f : Dev → α → Dev} (π : Dev → β) (h : ∀ d x, π (f d x) = π d) (l : List α) (d : Dev) :
    π (l.foldl f d) = π d := by
  induction l generalizing d with
  | nil => rfl
  | cons x l ih => exact (ih _).trans (h d x)

theorem Dev.get_set_key_ne {f g : Fld} (hf : f.lo + f.w ≤ 32) (hg : g.lo + g.w ≤ 32) (h : g.key ≠ f.key) (v : Nat) :
    (d.set f v).get g = d.get g := by
  rw [Dev.get_narrow _ hg, Dev.get_narrow _ hg, Dev.set_reg_ne hf h]

/-- The level that a drop leaves is 0; the sections of SEC_STAT beside it stay. -/
theorem Dev.unrise_get {lo w : Nat} (h : (SEC_STAT.DBG_LEVEL).apart ⟨SEC_STAT, lo, w⟩ = true) :
    d.unrise.get ⟨SEC_STAT, lo, w⟩ = d.get ⟨SEC_STAT, lo, w⟩ := by
  have hw : lo + w ≤ 32 := by
    simp only [Fld.apart, Bool.and_eq_true, decide_eq_true_eq] at h
    exact h.1.2
  unfold Dev.unrise
  split
  · rfl
  · split
    · rfl
    · refine (Dev.get_set_ne _ h _).trans (foldl_keeps (fun d => d.get ⟨SEC_STAT, lo, w⟩) (fun d ss => ?_) _ _)
      refine Dev.get_set_key_ne (show 0 + 1 ≤ 32 by decide) hw ?_ 0
      show 0x7100 ≠ 0x4000000 * (ss + 1) + (0x7000 + 0x1C)
      omega

/-- Of the security state what a drop of the debug level keeps, with the commands that ask again. -/
def Dev.secKept (d : Dev) : (Option Nat × Bool × Option (Nat × Nat) × Option (Nat × Nat)) × List (Nat × Nat × Nat × Word) :=
  ((d.sec.target, d.sec.locked, d.sec.lc0, d.sec.lc1), d.again)

theorem Dev.set_secKept (d : Dev) (f : Fld) (v : Nat) : (d.set f v).secKept = d.secKept := by
  unfold Dev.secKept
  rw [Dev.set_sec, Dev.set_again]

theorem Dev.unrise_secKept (d : Dev) : d.unrise.secKept = d.secKept := by
  unfold Dev.unrise
  split
  · rfl
  · next level _ _ =>
    split
    · rfl
    · exact (Dev.set_secKept _ SEC_STAT.DBG_LEVEL level).trans (foldl_keeps Dev.secKept (fun d ss => Dev.set_secKept ..) _ _)

/-- A drop leaves debug level 0, and of the security state changes only what it notes of drops and rises. -/
theorem Dev.dbgDrop_level (cause : Nat) : (d.dbgDrop cause).get SEC_STAT.DBG_LEVEL = 0 := by
  unfold Dev.dbgDrop
  dsimp only
  split
  · next h => exact h
  · rw [Dev.get_raise _ (by decide)]
    exact (Dev.get_set_word (show 2 + 2 ≤ 32 by decide) 0)

theorem Dev.dbgDrop_get {lo w : Nat} (h : (SEC_STAT.DBG_LEVEL).apart ⟨SEC_STAT, lo, w⟩ = true)
    (h7 : Fld.aside ⟨SEC_STAT, lo, w⟩ 7 = true) (cause : Nat) :
    (d.dbgDrop cause).get ⟨SEC_STAT, lo, w⟩ = d.get ⟨SEC_STAT, lo, w⟩ := by
  unfold Dev.dbgDrop
  dsimp only
  split
  · exact Dev.unrise_get h
  · rw [Dev.get_raise _ h7]
    exact (Dev.get_set_ne _ h 0).trans (Dev.unrise_get h)

theorem Dev.dbgDrop_secKept (d : Dev) (cause : Nat) : (d.dbgDrop cause).secKept = d.secKept := by
  unfold Dev.dbgDrop
  dsimp only
  split
  · exact d.unrise_secKept
  · refine Eq.trans ?_ d.unrise_secKept
    unfold Dev.secKept
    rw [Dev.raise_sec, Dev.raise_again]
    exact Dev.set_secKept _ SEC_STAT.DBG_LEVEL 0

/-! ### The end of a transition (R375) -/

theorem Dev.attrsLower_only (d : Dev) (t : Nat) : ∃ sess, d.attrsLower t = { d with sess } := by
  unfold Dev.attrsLower
  split
  · exact ⟨_, rfl⟩
  · split <;> exact ⟨_, rfl⟩

/-- What the last part of a transition keeps: the security state, SEC_STAT and the commands that ask again. -/
def Dev.lcView (d : Dev) : Security × Word × List (Nat × Nat × Nat × Word) := (d.sec, d.reg SEC_STAT, d.again)

theorem Dev.fltSelCheck_lcView (d : Dev) (ss : Nat) : (d.fltSelCheck ss).lcView = d.lcView := by
  unfold Dev.fltSelCheck
  split
  · have hkey : SEC_STAT ≠ (FLT_WIN_SEL.RING ss).key := by
      show 0x7100 ≠ 0x4000000 * (ss + 1) + 0x6108
      omega
    unfold Dev.lcView
    rw [Dev.set_sec, Dev.set_again, Dev.set_reg_ne (show 0 + 1 ≤ 32 by decide) hkey]
  · rfl

theorem Dev.irqAt_sec_lcView (d : Dev) (ss bit : Nat) : (d.irqAt secPage ss bit).lcView = d.lcView := by
  have hkey : SEC_STAT ≠ if secPage.perIrq then sessKey ss + PAGE_IRQ_STAT secPage.base else PAGE_IRQ_STAT secPage.base := by
    show 0x7100 ≠ 0x4000000 * (ss + 1) + (0x7000 + 0x1C)
    omega
  unfold Dev.lcView
  rw [Dev.irqAt_sec, Dev.irqAt_again, Dev.irqAt_reg_ne hkey]

theorem Dev.lcAgain_of_nil (h : d.again = []) (t : Nat) : d.lcAgain t = d := Dev.startAgain_of_nil h _ _

/-- The device once the record of a transition to state `n` stands in NVM, before what only RETIRED does. -/
def Dev.lcMoved (d : Dev) (n : Nat) : Dev :=
  let d : Dev := { d with sec := d.sec.record n }
  let d := (((d.set SEC_STAT.LIFECYCLE n).set SEC_STAT.LC_BUSY 0).dbgDrop 2).attrsLower n
  let d := d.liveSessions.foldl Dev.fltSelCheck d
  (d.irqAll secPage d.liveSessions 1).nvmPin

/-- A transition leaves SEC_STAT, the record's copies and the line of the NVM as the move and the drop of the level do. -/
theorem Dev.lcMoved_lcView (d : Dev) (n : Nat) : (d.lcMoved n).lcView
    = (((({ d with sec := d.sec.record n } : Dev).set SEC_STAT.LIFECYCLE n).set SEC_STAT.LC_BUSY 0).dbgDrop 2).lcView := by
  obtain ⟨sess, hattr⟩ := Dev.attrsLower_only
    (((({ d with sec := d.sec.record n } : Dev).set SEC_STAT.LIFECYCLE n).set SEC_STAT.LC_BUSY 0).dbgDrop 2) n
  unfold Dev.lcMoved
  dsimp only
  rw [hattr]
  exact (foldl_keeps Dev.lcView (fun d ss => d.irqAt_sec_lcView ss 1) _ _).trans
    (foldl_keeps Dev.lcView (fun d ss => d.fltSelCheck_lcView ss) _ _)

theorem Dev.lcMoved_get (d : Dev) (n : Nat) {lo w : Nat} (hw : lo + w ≤ 32) : (d.lcMoved n).get ⟨SEC_STAT, lo, w⟩
    = (((({ d with sec := d.sec.record n } : Dev).set SEC_STAT.LIFECYCLE n).set SEC_STAT.LC_BUSY 0).dbgDrop 2).get
      ⟨SEC_STAT, lo, w⟩ := by
  have hreg := congrArg (fun x => x.2.1) (d.lcMoved_lcView n)
  rw [Dev.get_narrow _ hw, Dev.get_narrow _ hw]
  exact congrArg (fun v : Word => v.toNat / 2 ^ lo % 2 ^ w) hreg

theorem Dev.lcMoved_secKept (d : Dev) (n : Nat) : (d.lcMoved n).secKept = ({ d with sec := d.sec.record n } : Dev).secKept := by
  have hview : ∀ d e : Dev, d.lcView = e.lcView → d.secKept = e.secKept := fun d e h => by
    obtain ⟨hsec, hrest⟩ := Prod.mk.inj h
    obtain ⟨_, hagain⟩ := Prod.mk.inj hrest
    unfold Dev.secKept
    rw [hsec, hagain]
  rw [hview _ _ (d.lcMoved_lcView n), Dev.dbgDrop_secKept, Dev.set_secKept, Dev.set_secKept]

/-- The end of a transition, while the NVM can be at its record and no other asks for it again. -/
theorem State.lcDone_eq {s : State} {n : Nat} (ht : s.sec.target = some n) (hm : s.nvmMay 0 = true) (ha : s.again = []) :
    s.lcDone = if n = 3 then ({ s with toDev := s.lcMoved 3 } : State).retire else { s with toDev := s.lcMoved n } := by
  have hagain : (s.lcMoved n).again = [] := (congrArg Prod.snd (s.lcMoved_secKept n)).trans ha
  have hdone : s.lcDone = if n = 3 then ({ s with toDev := ((s.lcMoved n).lcAgain 2).lcAgain 3 } : State).retire
      else { s with toDev := ((s.lcMoved n).lcAgain 2).lcAgain 3 } := by
    unfold State.lcDone
    rw [ht]
    simp only [hm, Bool.not_true, Bool.false_eq_true, if_false]
    rfl
  rw [hdone, Dev.lcAgain_of_nil hagain, Dev.lcAgain_of_nil hagain]
  split
  · next h => rw [h]
  · rfl

/-- A transition to an ordinary state `n` leaves it in force and in both copies of the record. -/
theorem Dev.lcMoved_ends (n : Nat) (hn : n < 3) : (d.lcMoved n).get SEC_STAT.LIFECYCLE = n
    ∧ (d.lcMoved n).get SEC_STAT.LC_BUSY = 0 ∧ (d.lcMoved n).get SEC_STAT.DBG_LEVEL = 0 := by
  refine ⟨?_, ?_, ?_⟩
  · rw [Dev.lcMoved_get _ _ (by decide), Dev.dbgDrop_get (by decide) (by decide), Dev.get_set_ne _ (by decide),
      Dev.get_set_word (show 0 + 2 ≤ 32 by decide)]
    omega
  · rw [Dev.lcMoved_get _ _ (by decide), Dev.dbgDrop_get (by decide) (by decide), Dev.get_set_word (show 5 + 1 ≤ 32 by decide)]
    rfl
  · rw [Dev.lcMoved_get _ _ (by decide), Dev.dbgDrop_level]

/-- An NVM command of OP 0 or 3 ends with ERR INVALID and is not in line. -/
theorem Dev.nvmCmdWrite_invalid {ss : Nat} {val : Word} (h : d.lets ss nvmPage 0x10C (whoOf nvmPage 0x10C) true = true)
    (hgo : wbit val 31 = true) (hop : wfield val 0 2 = 0 ∨ wfield val 0 2 = 3) (hw : d.nvmWaits ss = false) :
    (d.nvmCmdWrite ss val).get (NVM_CMD_STAT.STATE ss) = 3 ∧ (d.nvmCmdWrite ss val).get (NVM_CMD_STAT.ERR ss) = 3
      ∧ (d.nvmCmdWrite ss val).get (NVM_CMD_STAT.DONE ss) = 1 ∧ (d.nvmCmdWrite ss val).nvmQ = d.nvmQ := by
  obtain ⟨e, he, heop, -, -, heq⟩ := Dev.plainWrite_nvmCmd (Dev.outranked_of_lets h nvmCmdRow) val
  have hew : e.nvmWaits ss = false := by
    unfold Dev.nvmWaits at hw ⊢
    rwa [heq]
  have hgoes := Dev.nvmGo_invalid hew rfl (heop ▸ hop)
  obtain ⟨hstate, herr, hdone⟩ := (e.set (NVM_CMD_STAT.STATE ss) 3).nvmEnd_get ss 3
  have hq : (d.nvmCmdWrite ss val).nvmQ = (e.nvmGo ss).nvmQ := by
    rw [Dev.nvmCmdWrite_of_lets h hgo]
    unfold Dev.tracked Dev.trackedAt
    dsimp only
    rw [he]
  refine ⟨?_, ?_, ?_, ?_⟩
  · rw [Dev.nvmCmdWrite_of_lets h hgo, Dev.tracked_get, he, hgoes, hstate, Dev.get_set_word (show 0 + 2 ≤ 32 by decide)]
    rfl
  · rw [Dev.nvmCmdWrite_of_lets h hgo, Dev.tracked_get, he, hgoes, herr]
  · rw [Dev.nvmCmdWrite_of_lets h hgo, Dev.tracked_get, he, hgoes, hdone]
  · rw [hq, hgoes, Dev.nvmEnd_nvmQ, Dev.set_nvmQ, heq]

/-! ### Transitions asked for (R374) -/

/-- The row of SEC_LC_CTRL: TARGET is written, and GO is a command bit. -/
def lcCtrlRow : Row := ⟨0x104, 0, 1, false, 0x3, 0, [], 0x4, 0, 0, .ownM, 0⟩

theorem rowOf_lcCtrl : rowOf secPage 0x104 = some lcCtrlRow := by decide

theorem Dev.plainWrite_lcCtrl_reg (d : Dev) (ss : Nat) (val : Word) {j : Nat} (hj : j ≠ SEC_LC_CTRL) :
    (d.plainWrite ss secPage 0x104 val).reg j = d.reg j :=
  Dev.plainWrite_reg_ne rowOf_lcCtrl rfl hj d val

/-- Whether R374 permits a move turns on SEC_STAT and the owner's key alone. -/
theorem Dev.lcMay_congr {e : Dev} (h : ∀ j, j ≠ SEC_LC_CTRL → e.reg j = d.reg j) (t : Nat) : e.lcMay t = d.lcMay t := by
  have hkey : ∀ w, e.reg (SEC_OWNER_KEY w) = d.reg (SEC_OWNER_KEY w) := fun w => h _ (by
    show 0x7140 + 4 * w ≠ 0x7104
    omega)
  have hlc : e.get SEC_STAT.LIFECYCLE = d.get SEC_STAT.LIFECYCLE := by
    rw [Dev.get_narrow _ (by decide), Dev.get_narrow _ (by decide), h _ (by decide)]
  unfold Dev.lcMay
  simp only [hkey, hlc]

/-- A transition that was prepared, that R374 permits and that meets none in progress is asked of the NVM. -/
theorem Dev.lcGo_asks {t : Nat} (hm : d.lcMay t = true) (hb : d.get SEC_STAT.LC_BUSY = 0) :
    (d.lcGo (some t) t).sec.target = some t ∧ (d.lcGo (some t) t).get SEC_STAT.LC_BUSY = 1 := by
  obtain ⟨cur, hask⟩ := d.nvmAsk_eq 0 fun e => { e.set SEC_STAT.LC_BUSY 1 with sec := { e.sec with target := some t } }
  have hoff : d.on SEC_STAT.LC_BUSY = false := by
    unfold Dev.on
    rw [hb]
    rfl
  unfold Dev.lcGo
  simp only [hm, hoff, beq_self_eq_true, Bool.and_self, Bool.not_false, if_true, hask]
  exact ⟨trivial, Dev.get_set_word (show 5 + 1 ≤ 32 by decide) 1⟩

theorem Dev.tracked_sec (pg : Page) (f : Dev → Dev) (c : Option (Nat × Nat)) : (d.tracked pg f c).sec = (f d).sec := rfl

/-- A write of TARGET alone prepares the transition and leaves SEC_STAT as it was. -/
theorem Dev.lcCtrlWrite_prepares {ss : Nat} {val : Word} (h : d.lets ss secPage 0x104 .ownM false = true)
    (hgo : wbit val 2 = false) : (d.lcCtrlWrite ss val).sec.prep = some (wfield val 0 2)
      ∧ (d.lcCtrlWrite ss val).get SEC_STAT.LIFECYCLE = d.get SEC_STAT.LIFECYCLE := by
  obtain ⟨prep, hp⟩ := d.secTouch_only ss
  unfold Dev.lcCtrlWrite
  simp only [hp, hgo]
  rw [Dev.hostWrite_of_lets ((Dev.lets_withSec ..).trans h), Dev.tracked_sec, Dev.tracked_get]
  refine ⟨rfl, ?_⟩
  have hreg := Dev.plainWrite_lcCtrl_reg ({ d with sec := { d.sec with prep } } : Dev) ss val (j := SEC_STAT) (by decide)
  refine (Dev.get_narrow _ (by decide)).trans (.trans ?_ (Dev.get_narrow _ (by decide)).symm)
  exact congrArg (fun v : Word => v.toNat / 2 ^ 0 % 2 ^ 2) hreg

/-- GO in SEC_LC_CTRL of the TARGET prepared asks for the transition, where R374 permits the move. -/
theorem Dev.lcCtrlWrite_goes {ss : Nat} {val : Word} (h : d.lets ss secPage 0x104 .ownM true = true)
    (hgo : wbit val 2 = true) (hprep : d.sec.prep = some (wfield val 0 2)) (hm : d.lcMay (wfield val 0 2) = true)
    (hb : d.get SEC_STAT.LC_BUSY = 0) : (d.lcCtrlWrite ss val).sec.target = some (wfield val 0 2)
      ∧ (d.lcCtrlWrite ss val).get SEC_STAT.LC_BUSY = 1 := by
  obtain ⟨prep, hp⟩ := d.secTouch_only ss
  unfold Dev.lcCtrlWrite
  simp only [hp, hgo, hprep]
  rw [Dev.hostWrite_of_lets ((Dev.lets_withSec ..).trans h), Dev.tracked_sec, Dev.tracked_get, if_pos trivial]
  have hreg : ∀ j, j ≠ SEC_LC_CTRL →
      (({ d with sec := { d.sec with prep } } : Dev).plainWrite ss secPage 0x104 val).reg j = d.reg j :=
    fun j hj => Dev.plainWrite_lcCtrl_reg _ ss val hj
  refine Dev.lcGo_asks ((Dev.lcMay_congr hreg _).trans hm) (Eq.trans ?_ hb)
  rw [Dev.get_narrow _ (by decide), Dev.get_narrow _ (by decide), hreg _ (by decide)]

/-! ### LOCK and CLOSE (R377, R380) -/

/-- The device with LOCK set where the write asks for it. -/
def Dev.dbgLocked (d : Dev) (lock : Bool) : Dev :=
  if lock then { d.set SEC_DBG_CTRL.LOCK 1 with sec := { d.sec with locked := true } } else d

theorem Dev.dbgLocked_lock : (d.dbgLocked true).sec.locked = true ∧ (d.dbgLocked true).get SEC_DBG_CTRL.LOCK = 1 :=
  ⟨rfl, Dev.get_set_word (show 1 + 1 ≤ 32 by decide) 1⟩

/-- A write of SEC_DBG_CTRL with LOCK or CLOSE that is performed. -/
theorem Dev.dbgCtrlWrite_of_lets {ss : Nat} {val : Word} (h : d.lets ss secPage 0x108 (whoOf secPage 0x108) true = true)
    (hgo : (wbit val 1 || wbit val 2) = true) : ∃ (e : Dev) (c : Option (Nat × Nat)), d.dbgCtrlWrite ss val
      = e.tracked secPage (fun e => if wbit val 2 then ((e.plainWrite ss secPage 0x108 val).dbgLocked (wbit val 1)).dbgDrop 0
        else (e.plainWrite ss secPage 0x108 val).dbgLocked (wbit val 1)) c := by
  obtain ⟨prep, hp⟩ := d.secTouch_only ss
  unfold Dev.dbgCtrlWrite
  rw [hp, hgo, Dev.cmdWrite_of_lets ((Dev.lets_withSec ..).trans h)]
  exact ⟨_, _, rfl⟩

/-- LOCK, while CLOSE is not written, stands until power-on. -/
theorem Dev.dbgCtrlWrite_locks {ss : Nat} {val : Word} (h : d.lets ss secPage 0x108 (whoOf secPage 0x108) true = true)
    (hl : wbit val 1 = true) (hc : wbit val 2 = false) :
    (d.dbgCtrlWrite ss val).sec.locked = true ∧ (d.dbgCtrlWrite ss val).get SEC_DBG_CTRL.LOCK = 1 := by
  obtain ⟨e, c, he⟩ := Dev.dbgCtrlWrite_of_lets h (by rw [hl]; rfl)
  rw [he, Dev.tracked_sec, Dev.tracked_get, hl, hc]
  exact Dev.dbgLocked_lock

/-- CLOSE leaves debug level 0. -/
theorem Dev.dbgCtrlWrite_closes {ss : Nat} {val : Word} (h : d.lets ss secPage 0x108 (whoOf secPage 0x108) true = true)
    (hc : wbit val 2 = true) : (d.dbgCtrlWrite ss val).get SEC_STAT.DBG_LEVEL = 0 := by
  obtain ⟨e, c, he⟩ := Dev.dbgCtrlWrite_of_lets h (by rw [hc, Bool.or_true])
  rw [he, Dev.tracked_get, hc]
  exact Dev.dbgDrop_level 0

/-! ### RETIRED (R375) -/

theorem Dev.pln_of_rest {e : Dev} (h : d.rest (allBut .plinth) = e.rest (allBut .plinth)) : d.pln = e.pln :=
  congrArg (fun x : Dev × (Nat → Word) => x.1.pln) h

theorem Dev.sessReset_pln (d : Dev) (ss : Nat) : (d.sessReset ss).pln = d.pln :=
  Dev.pln_of_rest (Dev.sessReset_rest (allBut_regs rfl) (allBut_allows (by decide)) d ss)

theorem State.banksEnd_pln (s : State) : s.banksEnd.pln = s.pln :=
  Dev.pln_of_rest (State.banksEnd_rest (allBut_regs rfl) (allBut_allows (by decide)) s)

theorem Dev.lcMoved_pln (d : Dev) (n : Nat) : (d.lcMoved n).pln = d.pln := by
  obtain ⟨sess, hattr⟩ := Dev.attrsLower_only
    (((({ d with sec := d.sec.record n } : Dev).set SEC_STAT.LIFECYCLE n).set SEC_STAT.LC_BUSY 0).dbgDrop 2) n
  refine Dev.pln_of_rest ?_
  unfold Dev.lcMoved
  dsimp only
  rw [hattr, Dev.nvmPin_rest (allBut_allows (by decide)), Dev.irqAll_rest (allBut_allows (by decide)),
    foldl_rest fun d ss => Dev.fltSelCheck_rest (allBut_allows (by decide)) d ss, Dev.withSessions_rest (by decide),
    Dev.dbgDrop_rest (allBut_allows (by decide)), Dev.set_rest (allBut_regs rfl), Dev.set_rest (allBut_regs rfl),
    Dev.withSecurity_rest (by decide)]

theorem Dev.reg_foldl_zeros (k : Nat) {n w : Nat} (h : w < n) :
    ((List.range n).foldl (fun (e : Dev) w => e.setReg (k + 4 * w) 0) d).reg (k + 4 * w) = 0 :=
  (Dev.reg_foldl_setReg k (fun _ => 0) n (k + 4 * w)).trans (if_pos (by omega))

/-- Where the device is not in ACTIVE, RETIRED leaves no owner's key. -/
theorem State.retire_ownerKey {s : State} (h : s.pln.st ≠ .active) (w : Fin 12) :
    s.retire.reg (SEC_OWNER_KEY w) = 0 := by
  have hsess : (s.toDev.liveSessions.foldl Dev.sessReset s.toDev).pln = s.pln :=
    foldl_keeps (fun d : Dev => d.pln) Dev.sessReset_pln _ _
  generalize he : (({ s with toDev := s.toDev.liveSessions.foldl Dev.sessReset s.toDev } : State).banksEnd).toDev = e
  have hpln : e.pln = s.pln := by rw [← he, State.banksEnd_pln, hsess]
  have hst : ((List.range 12).foldl (fun (d : Dev) w => d.setReg (SEC_OWNER_KEY w) 0) e).pln.st != .active := by
    rw [foldl_keeps (fun d : Dev => d.pln) (f := fun d w => d.setReg (SEC_OWNER_KEY w) 0) (fun d w => rfl), hpln]
    exact bne_iff_ne.mpr h
  unfold State.retire
  simp only [he, hst, if_true]
  exact Dev.reg_foldl_zeros 0x7140 w.isLt

/-- The record of a transition is what the command leaves. -/
theorem exec_lifecycleRecordDone {s t : State} (h : s.lcDone = t) : exec .lifecycleRecordDone s = .next t := h ▸ rfl

/-- Settles O54: the NVM's commands from GO to their end, the transitions of the lifecycle, LOCK and CLOSE, each by the
equation of its operation; that RETIRED clears the owner's key rests on what session resets leave of Plinth. -/
theorem nvmAndLifecycleComplete : Obligations.NvmAndLifecycleComplete := by
  unfold Obligations.NvmAndLifecycleComplete
  refine ⟨?_, ?_, ?_, ?_, ?_, ?_, ?_, ?_, ?_, ?_, ?_, ?_⟩
  · intro ss val s ⟨h, hgo, hop, hw⟩ hr
    exact ⟨_, rfl, Dev.nvmCmdWrite_asks h hgo hop (by decide) (by decide) hw hr⟩
  · intro ss val s ⟨h, hgo, hop, hw⟩ hr
    exact ⟨_, rfl, Dev.nvmCmdWrite_asks h hgo hop (by decide) (by decide) hw hr⟩
  · intro ss val s ⟨h, hgo, hw⟩ hop
    exact ⟨_, rfl, Dev.nvmCmdWrite_invalid h hgo hop hw⟩
  · intro c rest s ⟨hq, hc, hm, ha⟩
    obtain ⟨hend, hstate, herr, -⟩ := s.toDev.nvmDone_ends s.nvm c rest false
    exact ⟨_, execNvmCmdDone_of_head hq hm ha false, (Dev.nvmPin_nvmQ _).trans hend, (Dev.nvmPin_get ..).trans hstate,
      (Dev.nvmPin_get ..).trans herr, fun w => (Dev.nvmPin_reg ..).trans (Dev.nvmDone_data hc s.nvm rest w)⟩
  · intro c rest s ⟨hq, hc, hm, ha⟩
    obtain ⟨hend, hstate, herr, -⟩ := s.toDev.nvmDone_ends s.nvm c rest false
    exact ⟨_, execNvmCmdDone_of_head hq hm ha false, (Dev.nvmPin_nvmQ _).trans hend, (Dev.nvmPin_get ..).trans hstate,
      (Dev.nvmPin_get ..).trans herr, (Dev.nvmPin_get ..).trans (Dev.nvmDone_crc hc s.nvm rest)⟩
  · intro c rest s ⟨hq, hm, ha⟩
    obtain ⟨hend, hstate, herr, hdone⟩ := s.toDev.nvmDone_ends s.nvm c rest true
    exact ⟨_, execNvmCmdDone_of_head hq hm ha true, (Dev.nvmPin_nvmQ _).trans hend, (Dev.nvmPin_get ..).trans hstate,
      (Dev.nvmPin_get ..).trans herr, (Dev.nvmPin_get ..).trans hdone, rfl, rfl⟩
  · intro ss val s ⟨h, hgo⟩
    exact ⟨_, rfl, Dev.lcCtrlWrite_prepares h hgo⟩
  · intro ss val s ⟨h, hgo, hprep⟩ ⟨hm, hb⟩
    exact ⟨_, rfl, Dev.lcCtrlWrite_goes h hgo hprep hm hb⟩
  · intro n s ⟨ht, hn, hm, ha⟩
    have hdone : s.lcDone = { s with toDev := s.lcMoved n } := by
      rw [State.lcDone_eq ht hm ha, if_neg (by omega)]
    obtain ⟨hlc, hbusy, hlevel⟩ := Dev.lcMoved_ends (d := s.toDev) n hn
    have hkept : (s.lcMoved n).secKept = ({ s.toDev with sec := s.sec.record n } : Dev).secKept := s.toDev.lcMoved_secKept n
    simp only [Dev.secKept, Security.record, Prod.mk.injEq] at hkept
    obtain ⟨⟨htarget, -, h0, h1⟩, -⟩ := hkept
    exact ⟨_, exec_lifecycleRecordDone hdone, hlc, hbusy, hlevel, htarget, h0, h1.trans h0.symm⟩
  · intro s ⟨ht, hst, hm, ha⟩
    have hdone := State.lcDone_eq ht hm ha
    rw [if_pos rfl] at hdone
    exact ⟨_, exec_lifecycleRecordDone hdone, fun w => State.retire_ownerKey (by rw [Dev.lcMoved_pln]; exact hst) w⟩
  · intro ss val s ⟨h, hl, hc⟩
    exact ⟨_, rfl, Dev.dbgCtrlWrite_locks h hl hc⟩
  · intro ss val s ⟨h, hc⟩
    exact ⟨_, rfl, Dev.dbgCtrlWrite_closes h hc⟩

end Sys2Proof.Machine
end

