-- ==== Sys2Proof/Proofs/Power.lean ====
section
/-! SUPPORT. Power requests and transitions (R382, R383, R385), DEEP_WAKE (R404), an iteration of Plinth and the trips
(R386, R387), gating, SENS_FAULTY, and the errors of crossing FIFOs (R23). -/

namespace Sys2Proof.Machine
variable {d : Dev}

/-! ### Requests (R385) -/

/-- The row of PWR_REQ: TARGET and FORCE are written, and GO is a command bit. -/
def pwrReqRow : Row := ⟨0x104, 0, 1, false, 0x7, 0, [], 0x8, 0, 0, .ownPwr, 0⟩

theorem rowOf_pwrReq : rowOf pwrPage 0x104 = some pwrReqRow := by decide

/-- A write of PWR_REQ leaves TARGET and FORCE as written, and Plinth and the time as they were. -/
theorem Dev.plainWrite_pwrReq {ss : Nat} (h : d.outranked ss (pwrReqRow.key pwrPage 0x104 ss) = false) (val : Word) :
    ∃ regs ports, d.plainWrite ss pwrPage 0x104 val = { d with regs, ports }
      ∧ (d.plainWrite ss pwrPage 0x104 val).get PWR_REQ.TARGET = wfield val 0 2
      ∧ (d.plainWrite ss pwrPage 0x104 val).get PWR_REQ.FORCE = wfield val 2 1 := by
  obtain ⟨regs, ports, hput⟩ := Dev.putWord_frame d ss (pwrReqRow.key pwrPage 0x104 ss) pwrReqRow val
  refine ⟨regs, ports, (Dev.plainWrite_single rowOf_pwrReq rfl ..).trans hput, ?_, ?_⟩
  · exact Dev.get_plainWrite rowOf_pwrReq rfl rfl (f := PWR_REQ.TARGET) (by decide) h val
  · exact Dev.get_plainWrite rowOf_pwrReq rfl rfl (f := PWR_REQ.FORCE) (by decide) h val

theorem Dev.askCyc_filter (ha : d.pln.askCyc.map Prod.fst ≠ some d.cycle) :
    d.pln.askCyc.filter (fun x => x.1 == d.cycle) = none := by
  cases hc : d.pln.askCyc with
  | none => rfl
  | some x =>
    rw [hc] at ha
    rw [Option.filter_some, if_neg]
    exact fun hx => ha (congrArg some (beq_iff_eq.mp hx))

/-- A request that meets neither a transition nor another request of its cycle is decided at once. -/
theorem Dev.powerAsk_takes {who : PowerWho} {target : Nat} {force : Bool} (ha : d.pln.askCyc.map Prod.fst ≠ some d.cycle)
    (hg : d.pln.going = none) (hr : d.pln.running = true) : d.powerAsk who target force = d.powerTake who target force := by
  unfold Dev.powerAsk
  rw [Dev.askCyc_filter ha]
  simp [hg, hr]

/-- What a transition that begins shows. -/
theorem Dev.goTo_shows (p : PowerState) : (d.goTo p).pln.going = some p ∧ (d.goTo p).get PWR_STAT.TRANSITION = 1 := by
  unfold Dev.goTo Dev.showPower
  refine ⟨by rw [Dev.set_pln, Dev.set_pln], ?_⟩
  rw [Dev.get_set_word (show 2 + 1 ≤ 32 by decide)]
  rfl

/-- The device that remembers a request decided in this cycle. -/
def Dev.powerAsked (d : Dev) (place : Nat) : Dev := { d with pln := { d.pln with askCyc := some (d.cycle, place) } }

theorem Dev.powerTake_shows (who : PowerWho) (target : Nat) (force : Bool) :
    (d.powerTake who target force).pln = ((d.powerAsked (d.powerPlace who)).powerDecide who target force).pln
      ∧ ∀ f, (d.powerTake who target force).get f = ((d.powerAsked (d.powerPlace who)).powerDecide who target force).get f :=
  ⟨rfl, fun _ => rfl⟩

/-- The request that PWR_REQ.GO of a session gives is decided by `powerTry`. -/
theorem Dev.pwrReqWrite_tries {ss : Nat} {val : Word} (h : d.lets ss pwrPage 0x104 (whoOf pwrPage 0x104) true = true)
    (hgo : wbit val 3 = true) (ha : d.pln.askCyc.map Prod.fst ≠ some d.cycle)
    (hg : d.pln.going = none) (hr : d.pln.running = true) :
    ∃ e : Dev, e.pln.st = d.pln.st ∧ e.pln.going = none
      ∧ (d.pwrReqWrite ss val).pln = (e.powerTry (wfield val 0 2) (wfield val 2 1 == 1)).pln
      ∧ ∀ f, (d.pwrReqWrite ss val).get f = (e.powerTry (wfield val 0 2) (wfield val 2 1 == 1)).get f := by
  obtain ⟨regs, ports, hd, htarget, hforce⟩ := Dev.plainWrite_pwrReq (Dev.outranked_of_lets h pwrReqRow) val
  obtain ⟨e, he⟩ : ∃ e, d.plainWrite ss pwrPage 0x104 val = e := ⟨_, rfl⟩
  have hwrite : (d.pwrReqWrite ss val).pln = (e.powerAsk (.session ss) (e.get PWR_REQ.TARGET) (e.on PWR_REQ.FORCE)).pln
      ∧ ∀ f, (d.pwrReqWrite ss val).get f = (e.powerAsk (.session ss) (e.get PWR_REQ.TARGET) (e.on PWR_REQ.FORCE)).get f := by
    unfold Dev.pwrReqWrite
    rw [hgo, Dev.cmdWrite_of_lets h, ← he]
    exact ⟨rfl, fun _ => rfl⟩
  rw [he] at hd htarget hforce
  have hon : e.on PWR_REQ.FORCE = (wfield val 2 1 == 1) := by
    unfold Dev.on
    rw [hforce]
  have htakes := Dev.powerAsk_takes (d := e) (who := .session ss) (target := wfield val 0 2)
    (force := wfield val 2 1 == 1) (by rw [hd]; exact ha) (by rw [hd]; exact hg) (by rw [hd]; exact hr)
  obtain ⟨hpln, hget⟩ := e.powerTake_shows (.session ss) (wfield val 0 2) (wfield val 2 1 == 1)
  rw [htarget, hon, htakes] at hwrite
  exact ⟨e.powerAsked (e.powerPlace (.session ss)), by rw [hd]; rfl, by rw [hd]; exact hg, hwrite.1.trans hpln,
    fun f => (hwrite.2 f).trans (hget f)⟩

theorem Dev.powerTry_drowse (h : d.pln.st = .active) : (d.powerTry 1 true).pln.going = some .drowse
    ∧ (d.powerTry 1 true).get PWR_STAT.TRANSITION = 1 := by
  have htarget : d.powerTarget 1 = 1 := by
    unfold Dev.powerTarget
    split <;> rfl
  have htry : d.powerTry 1 true = (d.pwrErr 0).drowseBegin := by
    unfold Dev.powerTry
    simp [htarget, h]
  rw [htry]
  exact Dev.goTo_shows .drowse

theorem Dev.powerTry_invalid (force : Bool) : d.powerTry 3 force = d.pwrErr 3 := by
  have htarget : d.powerTarget 3 = 3 := by
    unfold Dev.powerTarget
    rw [if_neg (by simp)]
  unfold Dev.powerTry
  simp [htarget]

/-! ### The end of a transition, and DEEP_WAKE (R383, R404) -/

theorem Dev.irqOwner_reg_ne {pg : Page} {j : Nat} (hj : j ≠ PAGE_IRQ_STAT pg.base)
    (hs : ∀ ss, j ≠ sessKey ss + PAGE_IRQ_STAT pg.base) (bit : Nat) : (d.irqOwner pg bit).reg j = d.reg j := by
  unfold Dev.irqOwner
  split
  · next ss _ =>
    refine Dev.irqAt_reg_ne ?_ bit
    split
    · exact hs ss
    · exact hj
  · exact Dev.stick_reg_ne hj

/-- What the power state shows. -/
theorem Dev.showPower_get : d.showPower.get PWR_STAT.STATE = (match d.pln.st with | .active => 0 | .drowse => 1 | .deep => 2)
    ∧ d.showPower.get PWR_STAT.TRANSITION = b2n d.pln.going.isSome := by
  unfold Dev.showPower
  refine ⟨?_, ?_⟩
  · rw [Dev.get_set_ne _ (by decide), Dev.get_set_word (show 0 + 2 ≤ 32 by decide)]
    cases d.pln.st <;> rfl
  · rw [Dev.get_set_word (show 2 + 1 ≤ 32 by decide)]
    cases d.pln.going <;> rfl

@[simp] theorem Dev.showPower_pln (d : Dev) : d.showPower.pln = d.pln := by
  unfold Dev.showPower
  rw [Dev.set_pln, Dev.set_pln]

@[simp] theorem Dev.showPower_boot (d : Dev) : d.showPower.boot = d.boot := by
  unfold Dev.showPower
  rw [Dev.set_boot, Dev.set_boot]

theorem Dev.powerHeld_of_nil (h : d.pln.held = []) (n : Nat) : d.powerHeld n = d := by
  cases n with
  | zero => rfl
  | succ n =>
    unfold Dev.powerHeld
    rw [h]

/-- A transition that ends with no request held leaves the state that it went to. -/
theorem Dev.powerDone_shows {st : PowerState} (h : d.pln.held = []) : (d.powerDone st).pln.st = st
    ∧ (d.powerDone st).pln.going = none
    ∧ (d.powerDone st).get PWR_STAT.STATE = (match st with | .active => 0 | .drowse => 1 | .deep => 2)
    ∧ (d.powerDone st).get PWR_STAT.TRANSITION = 0 := by
  have hirq : ∀ e : Dev, ∀ f : Fld, f.lo + f.w ≤ 32 → f.key = PWR_STAT → (e.irqOwner pwrPage 0).get f = e.get f :=
    fun e f hw hk => by
      rw [Dev.get_narrow _ hw, Dev.get_narrow _ hw, Dev.irqOwner_reg_ne]
      · rw [hk]
        decide
      · intro ss
        rw [hk]
        show 0x8100 ≠ 0x4000000 * (ss + 1) + (0x8000 + 0x1C)
        omega
  obtain ⟨hst, hgoing⟩ := Dev.showPower_get (d := { d with pln := { d.pln with st, going := none } })
  unfold Dev.powerDone
  dsimp only
  rw [Dev.powerHeld_of_nil (by rw [Dev.irqOwner_pln, Dev.showPower_pln]; exact h), Dev.irqOwner_pln, Dev.showPower_pln]
  exact ⟨rfl, rfl, (hirq _ _ (by decide) rfl).trans hst, (hirq _ _ (by decide) rfl).trans hgoing⟩

/-- The end of DEEP leaves the boot state as it was, and the transition begun. -/
theorem Dev.deepExit_shows (st : PowerState) : (d.deepExit st).boot = d.boot ∧ (d.deepExit st).pln.st = st
    ∧ (d.deepExit st).pln.going = some st := by
  unfold Dev.deepExit
  dsimp only
  rw [Dev.showPower_pln, Dev.showPower_boot]
  refine ⟨?_, rfl, rfl⟩
  have hstick : ∀ e : Dev, ∀ c f, (e.stickIf c f).boot = e.boot := fun e c f => by
    unfold Dev.stickIf
    split
    · rw [Dev.stick_boot]
    · rfl
  refine (hstick ..).trans ?_
  split
  · exact congrArg (fun x : Dev × (Nat → Word) => x.1.boot)
      (Dev.dbgDrop_rest (A := allBut .boot) (allBut_allows (by decide)) d 1)
  · rfl

theorem Dev.showBoot_pln (d : Dev) : d.showBoot.pln = d.pln := by
  unfold Dev.showBoot
  refine (foldl_keeps (fun d : Dev => d.pln) (fun d n => Dev.set_pln ..) _ _).trans ?_
  rw [Dev.set_pln, Dev.set_pln]

theorem Dev.showBoot_boot (d : Dev) : d.showBoot.boot = d.boot := by
  unfold Dev.showBoot
  refine (foldl_keeps (fun d : Dev => d.boot) (fun d n => Dev.set_boot ..) _ _).trans ?_
  rw [Dev.set_boot, Dev.set_boot]

theorem Dev.showBoot_cause (d : Dev) : d.showBoot.get BOOT_STAT.CAUSE = d.get BOOT_STAT.CAUSE := by
  unfold Dev.showBoot
  refine (foldl_keeps (fun d : Dev => d.get BOOT_STAT.CAUSE) (fun d n => ?_) _ _).trans ?_
  · refine Dev.get_set_key_ne (show 0 + 1 ≤ 32 by decide) (by decide) ?_ _
    show 0x120 ≠ 0x1000 * n + 0xC
    omega
  · rw [Dev.get_set_ne _ (by decide), Dev.get_set_ne _ (by decide)]

/-- A device let out of reset has its phases before it, under the cause given. -/
theorem Dev.release_shows (cause : Nat) : (d.release cause).boot.released = true ∧ (d.release cause).boot.done = []
    ∧ (d.release cause).pln = d.pln ∧ (d.release cause).get BOOT_STAT.CAUSE = cause % 4 := by
  unfold Dev.release
  dsimp only
  rw [Dev.showBoot_boot, Dev.showBoot_pln, Dev.showBoot_cause, Dev.set_boot, Dev.set_boot, Dev.set_pln, Dev.set_pln,
    Dev.get_set_word (show 5 + 2 ≤ 32 by decide)]
  exact ⟨rfl, rfl, rfl, rfl⟩

/-- The PLL in lock leaves Plinth and the boot state as they were. -/
theorem Dev.pllUp_keeps (d : Dev) : d.pllUp.pln = d.pln ∧ d.pllUp.boot = d.boot := by
  have hsrc := fun (p : Part) (hp : p.isReg = false) (hq : ∀ q ∈ [Part.dirum, .freqs, .caliper], q ≠ p) (e : Dev) (st : Nat) =>
    Dev.srcState_rest (allBut_regs hp) (allBut_allows hq) e st
  unfold Dev.pllUp
  exact ⟨(Dev.pln_of_rest (hsrc .plinth rfl (by decide) _ _)).trans rfl,
    (congrArg (fun x : Dev × (Nat → Word) => x.1.boot) (hsrc .boot rfl (by decide) _ _)).trans rfl⟩

/-- DEEP_WAKE to ACTIVE by the full sequence: after a reset in DEEP, or a hardware trip. -/
theorem State.deepWake_full {s : State} (hst : s.pln.st = .deep) (hg : s.pln.going = some .active) (hr : s.pln.running = true)
    (hret : s.retired = false) (hn : s.boot.resetN = true) (ho : s.boot.supplyOk = true)
    (hf : s.pln.full = true ∨ s.pln.hwTripped = true) (ok : Bool) :
    s.deepWake ok = { s with toDev := (s.toDev.deepExit .active).release (if s.pln.hwTripped then 2 else 3) } := by
  have hboot := (Dev.deepExit_shows (d := s.toDev) .active).1
  have hfull : (s.pln.hwTripped || s.pln.full) = true := by
    rcases hf with h | h <;> simp [h]
  unfold State.deepWake
  simp [hst, hg, hr, hret, hboot, hn, ho, hfull]

/-- DEEP_WAKE to ACTIVE with a check that failed starts the phases from 4 on. -/
theorem State.deepWake_failed {s : State} (hst : s.pln.st = .deep) (hg : s.pln.going = some .active) (hr : s.pln.running = true)
    (hret : s.retired = false) (hn : s.boot.resetN = true) (ho : s.boot.supplyOk = true)
    (hf : s.pln.full = false) (hw : s.pln.hwTripped = false) :
    s.deepWake false = { s with toDev := ({ ((s.toDev.deepExit .active).release 3).pllUp with boot :=
      { ((s.toDev.deepExit .active).release 3).pllUp.boot with done := [0, 1, 2, 3], t1 := s.boot.t1 } } : Dev).showBoot } := by
  have hboot := (Dev.deepExit_shows (d := s.toDev) .active).1
  unfold State.deepWake
  simp [hst, hg, hr, hret, hboot, hn, ho, hf, hw]

/-! ### HARDWARE_TRIP (R387): what the loss of the NVM's supply cuts off leaves Plinth as it was -/

theorem Dev.copyLost_pln (d : Dev) (n : Nat) : (d.copyLost n).pln = d.pln := by
  unfold Dev.copyLost
  rw [Dev.raise_pln, Dev.stick_pln]

theorem State.appendRecord_pln (s : State) (n : Nat) (r : RepairRec) (ok : Bool) : (s.appendRecord n r ok).pln = s.pln := by
  unfold State.appendRecord
  dsimp only
  split
  · exact Dev.copyLost_pln ..
  · split
    · exact Dev.set_pln ..
    · exact (Dev.copyLost_pln ..).trans (Dev.set_pln ..)

theorem State.recordWritten_pln (s : State) (ok : Bool) : (s.recordWritten ok).pln = s.pln := by
  unfold State.recordWritten
  dsimp only
  split
  · rfl
  · split
    · rfl
    · split
      · exact State.appendRecord_pln ..
      · split
        · exact (Dev.set_pln ..).trans (State.appendRecord_pln ..)
        · exact State.appendRecord_pln ..

theorem State.writeCopy_lost_pln (s : State) (n : Nat) (rs : List RepairRec) (ok : Bool) : (s.writeCopy n rs ok).pln = s.pln := by
  unfold State.writeCopy
  dsimp only
  split
  · exact Dev.set_pln ..
  · exact Dev.copyLost_pln ..

theorem State.recordCut_pln (s : State) : s.recordCut.pln = s.pln := by
  unfold State.recordCut
  dsimp only
  split
  · split
    · rfl
    · exact State.writeCopy_lost_pln ..
  · exact State.recordWritten_pln ..

theorem Dev.lcCut_pln (d : Dev) : d.lcCut.pln = d.pln := by
  unfold Dev.lcCut
  split
  · rfl
  · exact Dev.set_pln ..

theorem State.storeCut_pln (s : State) : s.storeCut.pln = s.pln := by
  unfold State.storeCut
  dsimp only
  repeat' split
  all_goals rfl

theorem State.nvmCut_pln (s : State) : s.nvmCut.pln = s.pln := by
  unfold State.nvmCut
  refine (State.storeCut_pln _).trans ((Dev.lcCut_pln _).trans ?_)
  split
  · exact State.recordCut_pln s
  · rfl

theorem Dev.outerLoop_pln (d : Dev) : d.outerLoop.pln = d.pln := by
  unfold Dev.outerLoop
  dsimp only
  split <;> rfl

/-- A cold device holds only what the always-on island keeps: no session, and no request of one. -/
theorem Dev.cold_shows (h : d.pln.held = []) : d.cold.sess = [] ∧ d.cold.pln.held = [] := by
  unfold Dev.cold
  dsimp only
  rw [Dev.set_sess, Dev.set_pln, h]
  exact ⟨rfl, rfl⟩

/-- A reset of the device leaves no session, no request held, no HBM, and the device held in reset. -/
theorem State.devReset_shows {s : State} (h : s.pln.held = []) : s.devReset.sess = [] ∧ s.devReset.pln.held = []
    ∧ s.devReset.boot.released = false ∧ s.devReset.hbm = [] := by
  have hheld : (s.nvmCut.toDev.pllStops).pln.held = [] := by
    unfold Dev.pllStops
    dsimp only
    rw [Dev.outerLoop_pln, State.nvmCut_pln, h]
  obtain ⟨hsess, hcold⟩ := Dev.cold_shows hheld
  unfold State.devReset
  dsimp only
  rw [Dev.showPower_pln, Dev.showPower_boot, Dev.set_pln, Dev.set_boot]
  refine ⟨?_, hcold, rfl, rfl⟩
  unfold Dev.showPower
  rw [Dev.set_sess, Dev.set_sess, Dev.set_sess]
  exact hsess

/-- A hardware trip with no request held leaves the device in DEEP, with nothing of HBM. -/
theorem State.hardTrip_shows {s : State} (ha : s.boot.aonOut = true) (h : s.pln.held = []) (what : Nat) :
    (s.hardTrip what).pln.st = .deep ∧ (s.hardTrip what).pln.hwTripped = true ∧ (s.hardTrip what).pln.going = none
      ∧ (s.hardTrip what).hbm = [] ∧ (s.hardTrip what).boot.released = false ∧ (s.hardTrip what).sess = [] := by
  obtain ⟨hsess, hheld, hboot, hhbm⟩ := State.devReset_shows h
  unfold State.hardTrip
  rw [if_neg (by simp [ha])]
  dsimp only
  rw [Dev.powerHeld_of_nil (by rw [Dev.showPower_pln]; exact hheld), Dev.showPower_pln, Dev.showPower_boot]
  refine ⟨rfl, rfl, rfl, hhbm, hboot, ?_⟩
  unfold Dev.showPower
  rw [Dev.set_sess, Dev.set_sess]
  exact hsess

/-! ### Gating and waking a cluster (R382, R383) -/

theorem Dev.clState_ne {key : Nat} (h : key < 0x1000000) (k : Nat) : CL_STATE k ≠ key := by
  show 0x1000000 + 0x100000 * k + 0x104 ≠ key
  omega

theorem Dev.sessKey_ne_clState (ss c : Nat) (k : Clu) : CL_STATE k ≠ sessKey ss + c := by
  show 0x1000000 + 0x100000 * k.val + 0x104 ≠ 0x4000000 * (ss + 1) + c
  omega

theorem Dev.showGated_clState (k : Nat) {lo w : Nat} (hw : lo + w ≤ 32) :
    d.showGated.get ⟨CL_STATE k, lo, w⟩ = d.get ⟨CL_STATE k, lo, w⟩ :=
  Dev.get_set_key_ne (show 8 + 16 ≤ 32 by decide) hw (Dev.clState_ne (by decide) k) _

theorem Dev.genUp_clState (k : Nat) {lo w : Nat} (hw : lo + w ≤ 32) :
    d.genUp.get ⟨CL_STATE k, lo, w⟩ = d.get ⟨CL_STATE k, lo, w⟩ :=
  Dev.get_set_key_ne (show 0 + 32 ≤ 32 by decide) hw (Dev.clState_ne (by decide) k) _

/-- The device as CLUSTER_GATE_DONE leaves cluster `k`, before what it does to the lanes held. -/
def Dev.gated0 (d : Dev) (k : Nat) : Dev :=
  (((((d.set (CL_STATE.PWR k) 0).set (CL_STATE.TREE_ALIGNED k) 0).genUp).modCl k fun c =>
    { c with events := [], stage := [], treeTo := none }).set (TB_TREE_PHASE.SLEWING k) 0).showGated

theorem Dev.gated0_keeps (k : Nat) : (d.gated0 k).lanes = d.lanes ∧ (d.gated0 k).pln = d.pln := by
  unfold Dev.gated0 Dev.showGated Dev.genUp Dev.wrapUp
  rw [Dev.set_lanes, Dev.set_lanes, Dev.modCl_lanes, Dev.set_lanes, Dev.set_lanes, Dev.set_lanes]
  rw [Dev.set_pln, Dev.set_pln, Dev.modCl_pln, Dev.set_pln, Dev.set_pln, Dev.set_pln]
  exact ⟨rfl, rfl⟩

theorem Dev.gated0_shows (k : Clu) : (d.gated0 k).get (CL_STATE.PWR k) = 0 ∧ (d.gated0 k).get (CL_STATE.TREE_ALIGNED k) = 0
    ∧ ((d.gated0 k).cl k).events = [] := by
  have hslew : CL_STATE k ≠ TB_TREE_PHASE k := by
    show 0x1000000 + 0x100000 * k.val + 0x104 ≠ 0x1140 + 4 * k.val
    omega
  unfold Dev.gated0
  refine ⟨?_, ?_, ?_⟩
  · rw [Dev.showGated_clState _ (by decide), Dev.get_set_key_ne (show 21 + 1 ≤ 32 by decide) (show 30 + 2 ≤ 32 by decide) hslew,
      Dev.modCl_get, Dev.genUp_clState _ (by decide), Dev.get_set_ne _ (by simp [Fld.apart]),
      Dev.get_set_word (show 30 + 2 ≤ 32 by decide), Nat.zero_mod]
  · rw [Dev.showGated_clState _ (by decide), Dev.get_set_key_ne (show 21 + 1 ≤ 32 by decide) (show 29 + 1 ≤ 32 by decide) hslew,
      Dev.modCl_get, Dev.genUp_clState _ (by decide), Dev.get_set_word (show 29 + 1 ≤ 32 by decide), Nat.zero_mod]
  · unfold Dev.showGated Dev.cl Dev.modCl Dev.setCl
    rw [Dev.set_clusters, Dev.set_clusters]
    exact congrArg Cluster.events (tget_tput_same ..)

/-- The gating of a cluster whose lanes nobody holds, and that no request wakes again. -/
theorem Dev.gatingDone_idle {k : Clu} (hp : d.get (CL_STATE.PWR k) = 3) (hw : d.pln.wakeAfter.contains k.val = false)
    (hl : d.lanesOf k = []) (hs : d.sliceIn k = false) : d.gatingDone k = d.gated0 k := by
  obtain ⟨hlanes, hpln⟩ := Dev.gated0_keeps (d := d) k
  have hl0 : (d.gated0 k).lanesOf k = [] := by
    unfold Dev.lanesOf at hl ⊢
    rwa [hlanes]
  have hwake : ((d.gated0 k).pln.wakeAfter.contains k.val && (d.gated0 k).pln.running) = false := by
    rw [hpln, hw, Bool.false_and]
  unfold Dev.gatingDone
  rw [if_neg (by simp [hp, hs])]
  unfold Dev.gated0 at hl0 hwake ⊢
  simp only [hl0, List.foldl_nil, hwake, Bool.false_eq_true, if_false]

/-! What a Caliper command that begins leaves of a cluster's state. -/

theorem Dev.showCal_clState (k : Nat) {lo w : Nat} (hw : lo + w ≤ 32) :
    d.showCal.get ⟨CL_STATE k, lo, w⟩ = d.get ⟨CL_STATE k, lo, w⟩ := by
  unfold Dev.showCal
  rw [Dev.get_set_key_ne (show 1 + 5 ≤ 32 by decide) hw (Dev.clState_ne (by decide) k),
    Dev.get_set_key_ne (show 0 + 1 ≤ 32 by decide) hw (Dev.clState_ne (by decide) k)]

theorem Dev.nvmAsk_get (r : Nat) (f : Dev → Dev) (x : Fld) : (d.nvmAsk r f).get x = (f d.nvmPin).get x := by
  obtain ⟨cur, hask⟩ := d.nvmAsk_eq r f
  rw [hask]
  rfl

theorem Dev.storeBegin_clState (session : Option Nat) (restore : Bool) (k : Nat) {lo w : Nat} (hw : lo + w ≤ 32) :
    (d.storeBegin session restore).get ⟨CL_STATE k, lo, w⟩ = d.get ⟨CL_STATE k, lo, w⟩ := by
  unfold Dev.storeBegin
  dsimp only
  rw [Dev.get_set_key_ne (show 6 + 1 ≤ 32 by decide) hw (Dev.clState_ne (by decide) k), Dev.nvmAsk_get]
  rfl

theorem Dev.calBegin_clState (c : CalCmd) (k : Clu) {lo w : Nat} (hw : lo + w ≤ 32) :
    (d.calBegin c).get ⟨CL_STATE k, lo, w⟩ = d.get ⟨CL_STATE k, lo, w⟩ := by
  have hsess : ∀ (e : Dev) (ss : Nat), (((e.set (CAL_CMD_STAT.STATE ss) 2).set (CAL_CMD_CNT.ACCEPTED ss) 0).set
      (CAL_CMD_CNT.REJECTED ss) 0).get ⟨CL_STATE k, lo, w⟩ = e.get ⟨CL_STATE k, lo, w⟩ := fun e ss => by
    rw [Dev.get_set_key_ne (show 16 + 16 ≤ 32 by decide) hw (Dev.sessKey_ne_clState ss _ k),
      Dev.get_set_key_ne (show 0 + 16 ≤ 32 by decide) hw (Dev.sessKey_ne_clState ss _ k),
      Dev.get_set_key_ne (show 0 + 2 ≤ 32 by decide) hw (Dev.sessKey_ne_clState ss _ k)]
  have hjob : ∀ (e : Dev) (n : Nat) (j : CalJob) (f : Fld), (e.setJob n j).get f = e.get f := fun _ _ _ _ => rfl
  unfold Dev.calBegin
  dsimp only
  split
  · rw [Dev.storeBegin_clState _ _ _ hw, hjob]
    split
    · rfl
    · exact hsess ..
  · rw [hjob]
    split
    · rfl
    · exact hsess ..

theorem Dev.calPump_clState (n : Nat) (d : Dev) (k : Clu) {lo w : Nat} (hw : lo + w ≤ 32) :
    (d.calPump n).get ⟨CL_STATE k, lo, w⟩ = d.get ⟨CL_STATE k, lo, w⟩ := by
  induction n generalizing d with
  | zero => rfl
  | succ n ih =>
    unfold Dev.calPump
    dsimp only
    split
    · exact Dev.showCal_clState k hw
    · exact (ih _).trans (Dev.calBegin_clState _ k hw)

theorem Dev.wakeCal_clState (k : Clu) {lo w : Nat} (hw : lo + w ≤ 32) :
    d.wakeCal.get ⟨CL_STATE k, lo, w⟩ = d.get ⟨CL_STATE k, lo, w⟩ := by
  unfold Dev.wakeCal Dev.autoQueue
  dsimp only
  split
  · split
    · rfl
    · exact Dev.calPump_clState 32 _ k hw
  · rfl

/-- A cluster that wakes is powered. -/
theorem Dev.wakeDone_powers {k : Clu} (hp : d.get (CL_STATE.PWR k) = 1) : (d.wakeDone k).get (CL_STATE.PWR k) = 2 := by
  unfold Dev.wakeDone
  rw [if_neg (by simp [hp]), Dev.wakeCal_clState k (by decide), Dev.calPump_clState 32 _ k (by decide),
    Dev.showGated_clState _ (by decide), Dev.genUp_clState _ (by decide), Dev.modCl_get,
    Dev.get_set_word (show 30 + 2 ≤ 32 by decide), Nat.mod_eq_of_lt (by decide)]

/-! ### An error of a crossing FIFO (R23) -/

theorem Dev.fifoDrop_get (k fifo : Nat) (f : Fld) : (d.fifoDrop k fifo).get f = d.get f := by
  unfold Dev.fifoDrop
  dsimp only
  split
  · rfl
  · split <;> rfl

theorem Dev.clState_aside (k : Clu) {lo w : Nat} (hw : lo + w ≤ 32) :
    Fld.aside ⟨CL_STATE k, lo, w⟩ (256 + 112 * k + 107) = true := by
  have hpage : srcPage (256 + 112 * k + 107) = some (clu k) := by
    revert k
    decide
  have hsticky : CL_STATE k ≠ FLT_STICKY ((256 + 112 * k + 107) / 32) := by
    show 0x1000000 + 0x100000 * k.val + 0x104 ≠ 0x6200 + 4 * ((256 + 112 * k.val + 107) / 32)
    omega
  have hflt : CL_STATE k ≠ PAGE_FLT (clu k) := by
    show 0x1000000 + 0x100000 * k.val + 0x104 ≠ 0x1000000 + 0x100000 * k.val + 0x14
    omega
  simp only [Fld.aside, hpage, Bool.and_eq_true, decide_eq_true_eq, bne_iff_ne]
  exact ⟨⟨hw, hsticky⟩, hflt⟩

/-- An error of a FIFO of a cluster that stands at a machine check marks the FIFO. -/
theorem Dev.fifoError_marks {k : Clu} {fifo : Fin 3} (hp : d.powered k = true) (hm : d.get (CL_STATE.MCHK k) = 1) :
    (d.fifoError k fifo).get ⟨CL_STATE k, 24 + fifo, 1⟩ = 1 := by
  have hw : 24 + fifo.val + 1 ≤ 32 := by omega
  have hap : Fld.apart ⟨CL_STATE k, 24 + fifo, 1⟩ (CL_STATE.MCHK k) = true := by
    simp only [Fld.apart, Bool.and_eq_true, Bool.or_eq_true, decide_eq_true_eq]
    omega
  have hon : ∀ kind sev addr dest, (((d.stick ⟨CL_STATE k, 24 + fifo, 1⟩).raise (256 + 112 * k + 107) kind sev addr dest).fifoDrop
      k fifo).on (CL_STATE.MCHK k) = true := fun kind sev addr dest => by
    unfold Dev.on
    rw [Dev.fifoDrop_get, Dev.get_raise _ (Dev.clState_aside k (by decide)), Dev.get_stick_ne _ hap, hm]
    rfl
  unfold Dev.fifoError Dev.machineCheck
  rw [if_neg (by simp [hp])]
  dsimp only
  rw [if_pos (hon ..), Dev.fifoDrop_get, Dev.get_raise _ (Dev.clState_aside k hw), Dev.get_stick _ hw]
  rfl

/-! ### SENS_FAULTY (R386) -/

/-- The rows of SENS_FAULTY: its low word is held until the high one is written, and 1s clear. -/
def sensFaultyLowRow : Row := ⟨0x108, 0, 1, false, 0, 0xFFFFFFFF, [], 0, 0, 0, .owner, 1⟩
def sensFaultyHighRow : Row := ⟨0x10C, 0, 1, false, 0, 0xFFFF, [], 0, 0, 0, .owner, 2⟩

theorem rowOf_sensFaulty : rowOf sensPage 0x108 = some sensFaultyLowRow ∧ rowOf sensPage 0x10C = some sensFaultyHighRow := by
  decide

/-- The device that remembers a write of session `ss`, with what else the write of a held word leaves. -/
def Dev.heldWord (d : Dev) (ss key : Nat) (val : Word) (odd : Tbl Nat) (undo : List Undo) : Dev :=
  { d with hold := tput (fun _ => 0) d.hold key val, ports := tput (fun _ => (0, 0, 0)) d.ports key (d.cycle, d.rank ss, val),
           pln := { d.pln with odd }, undo }

theorem Dev.plainWrite_sensFaultyLow {ss : Nat} (h : d.outranked ss SENS_FAULTY = false) (val : Word) :
    d.plainWrite ss sensPage 0x108 val = { d with
      hold := tput (fun _ => 0) d.hold SENS_FAULTY val
      ports := tput (fun _ => (0, 0, 0)) d.ports SENS_FAULTY (d.cycle, d.rank ss, val) } := by
  unfold Dev.plainWrite
  rw [rowOf_sensFaulty.1]
  show d.holdLow ss SENS_FAULTY sensFaultyLowRow val = _
  unfold Dev.holdLow
  rw [if_neg (by simp [h])]
  rfl

/-- The write of the low word is held. -/
theorem Dev.sensFaultyWord_low {ss : Nat} (h : d.lets ss sensPage 0x108 .owner false = true) (val : Word) :
    ∃ odd undo, d.sensFaultyWord ss 0x108 val = d.heldWord ss SENS_FAULTY val odd undo := by
  unfold Dev.sensFaultyWord
  rw [Dev.hostWrite_of_lets h, Dev.tracked, Dev.trackedAt]
  dsimp only
  rw [Dev.plainWrite_sensFaultyLow (Dev.outranked_of_lets h sensFaultyLowRow)]
  exact ⟨_, _, rfl⟩

theorem Dev.heldWord_outranked (ss key : Nat) (val : Word) (odd : Tbl Nat) (undo : List Undo) (j : Nat) :
    (d.heldWord ss key val odd undo).outranked ss j = if j = key then false else d.outranked ss j := by
  have hports : (d.heldWord ss key val odd undo).outranked ss j =
      ((tget (fun _ => (0, 0, 0)) (tput (fun _ => (0, 0, 0)) d.ports key (d.cycle, d.rank ss, val)) j).1 == d.cycle
        && decide (d.rank ss < (tget (fun _ => (0, 0, 0)) (tput (fun _ => (0, 0, 0)) d.ports key (d.cycle, d.rank ss, val)) j).2.1)) := rfl
  rw [hports, tget_tput]
  by_cases h : j = key
  · simp [h]
  · simp only [h, if_false]
    rfl

theorem Dev.heldWord_lets {ss key : Nat} {val : Word} {odd : Tbl Nat} {undo : List Undo} {pg : Page} {off : Nat} {who : Who}
    {cmd : Bool} (h : d.lets ss pg off who cmd = true) : (d.heldWord ss key val odd undo).lets ss pg off who cmd = true := by
  simp only [Dev.lets, Bool.and_eq_true] at h ⊢
  refine ⟨h.1, ?_⟩
  have hf := h.2
  simp only [Dev.foremost, List.all_eq_true] at hf ⊢
  intro j hj
  rw [Dev.heldWord_outranked]
  split
  · rfl
  · exact hf j hj

theorem Dev.putWord_outranked_ne {ss key j : Nat} (h : j ≠ key) (r : Row) (val : Word) :
    (d.putWord ss key r val).outranked ss j = d.outranked ss j := by
  unfold Dev.putWord
  dsimp only
  split
  · rfl
  · split
    · rfl
    · have hports : ((d.setReg key (r.merge (d.reg key) val (d.freshBits key))).wrote ss key val).outranked ss j =
          ((tget (fun _ => (0, 0, 0)) (tput (fun _ => (0, 0, 0)) d.ports key (d.cycle, d.rank ss, val)) j).1 == d.cycle
            && decide (d.rank ss < (tget (fun _ => (0, 0, 0))
              (tput (fun _ => (0, 0, 0)) d.ports key (d.cycle, d.rank ss, val)) j).2.1)) := rfl
      rw [hports, tget_tput_ne _ _ _ h]
      rfl

theorem Dev.freshBits_of_old {key : Nat} (h : (tget (fun _ => (0, 0)) d.fresh key).1 ≠ d.cycle) : d.freshBits key = 0 :=
  if_neg h

/-- Both words of SENS_FAULTY once the high one is written. -/
theorem Dev.sensFaultyWord_high {ss : Nat} (h : d.lets ss sensPage 0x10C .owner false = true)
    (hl : d.outranked ss SENS_FAULTY = false) (h0 : d.freshBits SENS_FAULTY = 0) (h4 : d.freshBits (SENS_FAULTY + 4) = 0)
    (val : Word) :
    (d.sensFaultyWord ss 0x10C val).reg SENS_FAULTY
        = sensFaultyLowRow.merge (d.reg SENS_FAULTY) (tget (fun _ => 0) d.hold SENS_FAULTY) 0
      ∧ (d.sensFaultyWord ss 0x10C val).reg (SENS_FAULTY + 4)
        = sensFaultyHighRow.merge (d.reg (SENS_FAULTY + 4)) val 0 := by
  have hh : d.outranked ss (SENS_FAULTY + 4) = false := Dev.outranked_of_lets h sensFaultyHighRow
  have hplain : d.plainWrite ss sensPage 0x10C val = (d.putWord ss SENS_FAULTY sensFaultyLowRow
      (tget (fun _ => 0) d.hold SENS_FAULTY)).putWord ss (SENS_FAULTY + 4) sensFaultyHighRow val := by
    unfold Dev.plainWrite
    rw [rowOf_sensFaulty.2]
    show (match rowOf sensPage 0x108 with | none => d | some lo => (d.putWord ss SENS_FAULTY lo
      (tget (fun _ => 0) d.hold SENS_FAULTY)).putWord ss (SENS_FAULTY + 4) sensFaultyHighRow val) = _
    rw [rowOf_sensFaulty.1]
  have hreg : ∀ j, (d.sensFaultyWord ss 0x10C val).reg j = (d.plainWrite ss sensPage 0x10C val).reg j := fun j => by
    unfold Dev.sensFaultyWord
    rw [Dev.hostWrite_of_lets h]
    rfl
  have hlow : ∀ j, (d.putWord ss SENS_FAULTY sensFaultyLowRow (tget (fun _ => 0) d.hold SENS_FAULTY)).freshBits j
      = d.freshBits j := fun j => by
    obtain ⟨regs, ports, hput⟩ := Dev.putWord_frame d ss SENS_FAULTY sensFaultyLowRow (tget (fun _ => 0) d.hold SENS_FAULTY)
    rw [hput]
    rfl
  rw [hreg, hreg, hplain]
  refine ⟨?_, ?_⟩
  · rw [Dev.putWord_reg_ne (by decide), Dev.putWord_reg hl, if_pos rfl, h0]
  · rw [Dev.putWord_reg ((Dev.putWord_outranked_ne (by decide) _ _).trans hh), if_pos rfl, hlow, h4,
      Dev.putWord_reg_ne (by decide)]

/-- A sensor's bit of SENS_FAULTY, by word. -/
theorem Dev.faulty_bit (n : Fin 48) : d.faulty n = if n.val < 32 then (d.reg SENS_FAULTY).getLsbD n
    else (d.reg (SENS_FAULTY + 4)).getLsbD (n - 32) := by
  have hget : d.get SENS_FAULTY.FAULTY = (2 ^ 32 * (d.reg (SENS_FAULTY + 4)).toNat + (d.reg SENS_FAULTY).toNat) % 2 ^ 48 := by
    unfold Dev.get Dev.reg64
    rw [if_neg (by decide), Nat.pow_zero, Nat.div_one, Nat.add_comm]
    rfl
  have hbit : d.faulty n = (d.get SENS_FAULTY.FAULTY).testBit n := by
    unfold Dev.faulty
    rw [Nat.testBit_eq_decide_div_mod_eq]
    rfl
  rw [hbit, hget, Nat.testBit_mod_two_pow, decide_eq_true n.isLt, Bool.true_and,
    Nat.testBit_two_pow_mul_add _ (d.reg SENS_FAULTY).isLt]
  rfl

/-- SENS_FAULTY_WRITE returns the sensors written 1 to use. -/
theorem Dev.sensFaultyWords_bit {ss : Nat} {val : DWord} (hl : d.lets ss sensPage 0x108 .owner false = true)
    (hh : d.lets ss sensPage 0x10C .owner false = true) (h0 : (tget (fun _ => (0, 0)) d.fresh SENS_FAULTY).1 ≠ d.cycle)
    (h4 : (tget (fun _ => (0, 0)) d.fresh (SENS_FAULTY + 4)).1 ≠ d.cycle) (n : Fin 48) :
    ((d.sensFaultyWord ss 0x108 (val.setWidth 32)).sensFaultyWord ss 0x10C ((val >>> 32).setWidth 32)).faulty n
      = (d.faulty n && !val.getLsbD n) := by
  obtain ⟨odd, undo, hlow⟩ := Dev.sensFaultyWord_low hl (val.setWidth 32)
  obtain ⟨hw0, hw4⟩ := Dev.sensFaultyWord_high (d := d.heldWord ss SENS_FAULTY (val.setWidth 32) odd undo)
    (Dev.heldWord_lets hh) (by rw [Dev.heldWord_outranked, if_pos rfl]) (Dev.freshBits_of_old h0) (Dev.freshBits_of_old h4)
    ((val >>> 32).setWidth 32)
  have hhold : tget (fun _ => (0 : Word)) (d.heldWord ss SENS_FAULTY (val.setWidth 32) odd undo).hold SENS_FAULTY
      = val.setWidth 32 := tget_tput_same ..
  have hregs : ∀ j, (d.heldWord ss SENS_FAULTY (val.setWidth 32) odd undo).reg j = d.reg j := fun _ => rfl
  rw [hhold, hregs] at hw0
  rw [hregs] at hw4
  have hones : ∀ i : Fin 32, (0xFFFFFFFF : Nat).testBit i = true := by decide
  have hhalf : ∀ i : Fin 16, (0xFFFF : Nat).testBit i = true := by decide
  rw [hlow, Dev.faulty_bit, Dev.faulty_bit, hw0, hw4]
  by_cases hn : n.val < 32
  · have hi := hones ⟨n, hn⟩
    simp only at hi
    rw [if_pos hn, if_pos hn, Row.merge_bit rfl _ _ _ _ hn]
    simp [sensFaultyLowRow, hi, hn]
  · have hi := hhalf ⟨n - 32, by omega⟩
    simp only at hi
    have hlt : n.val - 32 < 32 := by omega
    have hadd : 32 + (n.val - 32) = n.val := by omega
    rw [if_neg hn, if_neg hn, Row.merge_bit rfl _ _ _ _ hlt]
    simp [sensFaultyHighRow, hi, hlt, hadd]

/-! ### An iteration of Plinth (R386, R387) -/

/-- What an iteration keeps once the samples are taken: when it ran, the raw samples, and the phases done. -/
def Dev.sampled (d : Dev) : (Nat × Bool × Tbl Int) × List Nat := ((d.pln.iterT0, d.pln.primed, d.pln.raw), d.boot.done)

/-- With them, what decides whether a request comes first in its cycle, and PWR_STAT. -/
def Dev.iterView (d : Dev) : ((Nat × Bool × Tbl Int) × List Nat) × Option (Nat × Nat) × Nat × Word :=
  (d.sampled, d.pln.askCyc, d.up, d.reg PWR_STAT)

theorem Dev.set_iterView {f : Fld} (hw : f.lo + f.w ≤ 32) (hk : PWR_STAT ≠ f.key) (v : Nat) : (d.set f v).iterView = d.iterView := by
  unfold Dev.iterView Dev.sampled
  rw [Dev.set_pln, Dev.set_boot, Dev.set_up, Dev.set_reg_ne hw hk]

theorem Dev.opTime_iterView (d : Dev) : d.opTime.iterView = d.iterView :=
  (Dev.set_iterView (show 0 + 32 ≤ 32 by decide) (by decide) _).trans rfl

theorem Dev.judgeSensor_iterView (d : Dev) (n : Nat) : (d.judgeSensor n).iterView = d.iterView := by
  have hkey : PWR_STAT ≠ SENS_FAULTY + 4 * (n / 32) := by
    show 0x8100 ≠ 0xE108 + 4 * (n / 32)
    omega
  have hstick : ∀ (e : Dev) (b : Bool), (if b then e.stick ⟨SENS_FAULTY + 4 * (n / 32), n % 32, 1⟩ else e).iterView
      = e.iterView := fun e b => by
    split
    · unfold Dev.iterView Dev.sampled
      rw [Dev.stick_pln, Dev.stick_boot, Dev.stick_up, Dev.stick_reg_ne hkey]
    · rfl
  unfold Dev.judgeSensor
  exact (hstick ..).trans rfl

theorem Dev.tempsSet_iterView (d : Dev) : d.tempsSet.iterView = d.iterView := by
  refine foldl_keeps Dev.iterView (fun d k => ?_) _ d
  dsimp only
  split <;> rfl

theorem Dev.countSupplies_iterView (d : Dev) : d.countSupplies.iterView = d.iterView :=
  foldl_keeps Dev.iterView (fun _ _ => by rfl) _ d

/-- The raw samples that a run of sensors from `k` on leaves. -/
theorem Dev.samples_raw (l : List Int) (k : Nat) (d : Dev) (n : Nat) :
    (((List.range' k l.length).zip l).foldl (fun (d : Dev) (q : Nat × Int) => d.sample q.1 q.2) d).rawOf n
      = if k ≤ n ∧ n < k + l.length then l.getD (n - k) 0 else d.rawOf n := by
  induction l generalizing k d with
  | nil => rw [if_neg (by simp only [List.length_nil]; omega)]; rfl
  | cons x l ih =>
    have hone : (d.sample k x).rawOf n = if n = k then x else d.rawOf n := tget_tput ..
    rw [List.length_cons, List.range'_succ, List.zip_cons_cons, List.foldl_cons, ih, hone]
    by_cases hn : n = k
    · rw [if_neg (by omega), if_pos hn, if_pos (by omega), hn, Nat.sub_self]
      rfl
    · rw [if_neg hn]
      by_cases hin : k + 1 ≤ n ∧ n < k + 1 + l.length
      · rw [if_pos hin, if_pos (by omega), show n - k = n - (k + 1) + 1 by omega, List.getD_cons_succ]
      · rw [if_neg hin, if_neg (by omega)]

theorem samplesAll_length (x : Samples) : (samplesAll x).length = 57 := by
  simp [samplesAll]

/-- The device with the raw samples `l` taken. -/
def Dev.sampleList (d : Dev) (l : List Int) : Dev :=
  let d := ((List.range l.length).zip l).foldl (fun d (q : Nat × Int) => d.sample q.1 q.2) d
  { d with pln := { d.pln with primed := true } }

theorem Dev.sampleAll_eq (x : Samples) : d.sampleAll x = d.sampleList (samplesAll x) := rfl

theorem Dev.sampleList_shows (d : Dev) (l : List Int) : (d.sampleList l).pln.primed = true
    ∧ (∀ n, n < l.length → (d.sampleList l).rawOf n = l.getD n 0)
    ∧ (d.sampleList l).pln.iterT0 = d.pln.iterT0 ∧ (d.sampleList l).boot = d.boot ∧ (d.sampleList l).pln.askCyc = d.pln.askCyc
    ∧ (d.sampleList l).up = d.up ∧ (d.sampleList l).regs = d.regs := by
  have hkeep := foldl_keeps (fun d : Dev => (d.pln.iterT0, d.boot, d.pln.askCyc, d.up, d.regs))
    (f := fun (d : Dev) (q : Nat × Int) => d.sample q.1 q.2) (fun d q => rfl) ((List.range l.length).zip l) d
  have hraw := Dev.samples_raw l 0 d
  rw [← List.range_eq_range'] at hraw
  unfold Dev.sampleList
  generalize ((List.range l.length).zip l).foldl (fun (d : Dev) (q : Nat × Int) => d.sample q.1 q.2) d = e at hkeep hraw
  simp only [Prod.mk.injEq] at hkeep
  obtain ⟨ht0, hboot, hask, hup, hregs⟩ := hkeep
  refine ⟨rfl, fun n hn => (hraw n).trans ?_, ht0, hboot, hask, hup, hregs⟩
  rw [if_pos (by omega), Nat.sub_zero]

/-! What follows the samples: a trip, or the throttle, the wake from DEEP and the gating of clusters. -/

theorem Dev.sampled_of_rest {e : Dev} (hp : d.rest (allBut .plinth) = e.rest (allBut .plinth))
    (hb : d.rest (allBut .boot) = e.rest (allBut .boot)) : d.sampled = e.sampled := by
  unfold Dev.sampled
  rw [Dev.pln_of_rest hp, show d.boot = e.boot from congrArg (fun x : Dev × (Nat → Word) => x.1.boot) hb]

theorem Dev.goTo_sampled (p : PowerState) : (d.goTo p).sampled = d.sampled := by
  unfold Dev.goTo Dev.sampled
  rw [Dev.showPower_pln, Dev.showPower_boot]

theorem Dev.deepBegin_sampled (d : Dev) : d.deepBegin.sampled = d.sampled := by
  unfold Dev.deepBegin
  dsimp only
  have hslices : ([0, 1].foldl Dev.sliceStop d).sampled = d.sampled := foldl_keeps Dev.sampled (fun d i => Dev.sampled_of_rest
    (Dev.sliceStop_rest (allBut_regs rfl) (allBut_allows (by decide)) d i)
    (Dev.sliceStop_rest (allBut_regs rfl) (allBut_allows (by decide)) d i)) [0, 1] d
  refine (Dev.goTo_sampled _).trans (Eq.trans ?_ hslices)
  split
  · exact Dev.sampled_of_rest (Dev.dbgDrop_rest (allBut_allows (by decide)) ..)
      (Dev.dbgDrop_rest (allBut_allows (by decide)) ..)
  · rfl

/-- A trip in a cycle without a request keeps the samples. -/
theorem Dev.trip_sampled (ha : d.pln.askCyc.map Prod.fst ≠ some d.cycle) (cause n : Nat) :
    (d.trip cause n).sampled = d.sampled := by
  have hyield : d.powerYield 0 = d := by
    unfold Dev.powerYield
    split
    · next c q hc =>
      refine if_neg fun h => ?_
      rw [hc] at ha
      simp only [Bool.and_eq_true, decide_eq_true_eq] at h
      exact ha (congrArg some h.1)
    · rfl
  have hnote : (d.tripNote cause n (d.filtOf n)).sampled = d.sampled
      ∧ (d.tripNote cause n (d.filtOf n)).pln.askCyc = d.pln.askCyc ∧ (d.tripNote cause n (d.filtOf n)).up = d.up := by
    unfold Dev.tripNote Dev.logTrip Dev.sampled
    dsimp only
    rw [Dev.raise_pln, Dev.raise_boot, Dev.raise_up]
    exact ⟨rfl, rfl, rfl⟩
  obtain ⟨hs, hask, hup⟩ := hnote
  unfold Dev.trip
  rw [hyield]
  generalize d.tripNote cause n (d.filtOf n) = e at hs hask hup
  rw [← hs]
  have hnone : e.pln.askCyc.filter (fun x => x.1 == e.cycle) = none := by
    rw [hask]
    unfold Dev.cycle
    rw [hup]
    exact Dev.askCyc_filter ha
  unfold Dev.powerAsk
  dsimp only
  rw [show ({ e with pln := { e.pln with tripped := true } } : Dev).cycle = e.cycle from rfl, hnone]
  dsimp only
  split
  · rfl
  · unfold Dev.powerTake Dev.trackedAt Dev.powerDecide
    dsimp only
    split
    · rfl
    · exact (Dev.deepBegin_sampled _).trans rfl

theorem Dev.irqOwner_sampled (pg : Page) (bit : Nat) : (d.irqOwner pg bit).sampled = d.sampled := by
  unfold Dev.sampled
  rw [Dev.irqOwner_pln, Dev.irqOwner_boot]

theorem Dev.set_sampled (f : Fld) (v : Nat) : (d.set f v).sampled = d.sampled := by
  unfold Dev.sampled
  rw [Dev.set_pln, Dev.set_boot]

theorem Dev.raise_sampled (src kind sev addr : Nat) (dest : List Nat) : (d.raise src kind sev addr dest).sampled = d.sampled := by
  unfold Dev.sampled
  rw [Dev.raise_pln, Dev.raise_boot]

theorem Dev.withCool_sampled (t : Option Nat) :
    ({ d with pln := { d.pln with coolT0 := t } } : Dev).sampled = d.sampled := rfl

/-- The throttle that is not set keeps the samples. -/
theorem Dev.throttle_sampled (h : d.get PWR_STAT.THROTTLE = 0) : d.throttle.sampled = d.sampled := by
  unfold Dev.throttle
  rw [if_pos (by simp [Dev.on, h])]
  split
  · rfl
  · dsimp only
    split
    · rw [Dev.withCool_sampled, Dev.irqOwner_sampled, Dev.set_sampled]
    · rw [Dev.raise_sampled, Dev.withCool_sampled, Dev.irqOwner_sampled, Dev.set_sampled]

theorem Dev.deepLeave_sampled (p : PowerState) : (d.deepLeave p).sampled = d.sampled := by
  unfold Dev.deepLeave
  rw [Dev.goTo_sampled]
  rfl

theorem Dev.autoWake_sampled (d : Dev) : d.autoWake.sampled = d.sampled := by
  unfold Dev.autoWake
  split
  · rfl
  · dsimp only
    generalize (if ((List.range 48).all fun n => d.faulty n || decide (d.filtOf n < quarter (d.get PLN_THRESH.RESUME))) = true
      then some (d.pln.belowT0.getD d.up) else none) = since
    cases since with
    | none => rfl
    | some t =>
      dsimp only
      split
      · rw [Dev.deepLeave_sampled]
        rfl
      · rfl

/-- Before the start sequence is complete, no cluster is gated, woken or calibrated by an iteration. -/
theorem Dev.gating_before_ready (h : d.boot.done.contains 8 = false) : d.needWake.gateIdle.autoCal = d := by
  have hoff : d.gatingOn = false := by
    unfold Dev.gatingOn
    rw [h, Bool.and_false]
  have hneed : d.needWake = d := by
    unfold Dev.needWake
    rw [hoff]
    rfl
  have hgate : d.gateIdle = d := by
    unfold Dev.gateIdle
    rw [hoff]
    rfl
  rw [hneed, hgate]
  unfold Dev.autoCal
  rw [h]
  simp

/-- An iteration before READY, unthrottled and in a cycle without a request, keeps every raw sample. -/
theorem Dev.iteration_shows (x : Samples) (hd : d.iterDue = true) (h8 : d.boot.done.contains 8 = false)
    (ht : d.get PWR_STAT.THROTTLE = 0) (ha : d.pln.askCyc.map Prod.fst ≠ some d.cycle) :
    (d.iteration x).pln.iterT0 = d.up + 1 ∧ (d.iteration x).pln.primed = true
      ∧ ∀ n : Fin 57, (d.iteration x).rawOf n = (samplesAll x).getD n 0 := by
  have hop := ({ d with pln := { d.pln with iterT0 := d.up + 1 } } : Dev).opTime_iterView
  obtain ⟨o, ho⟩ : ∃ o, ({ d with pln := { d.pln with iterT0 := d.up + 1 } } : Dev).opTime = o := ⟨_, rfl⟩
  rw [ho] at hop
  simp only [Dev.iterView, Dev.sampled, Prod.mk.injEq] at hop
  obtain ⟨⟨⟨hot0, -, -⟩, hodone⟩, hoask, houp, hostat⟩ := hop
  obtain ⟨hprimed, hraw, ht0, hboot, hask, hup, hregs⟩ := o.sampleList_shows (samplesAll x)
  obtain ⟨e, he⟩ : ∃ e, o.sampleList (samplesAll x) = e := ⟨_, rfl⟩
  rw [he] at hprimed hraw ht0 hboot hask hup hregs
  obtain ⟨u, hu⟩ : ∃ u, ((List.range 48).foldl Dev.judgeSensor e).tempsSet.countSupplies = u := ⟨_, rfl⟩
  have hview : u.iterView = e.iterView := by
    rw [← hu, Dev.countSupplies_iterView, Dev.tempsSet_iterView]
    exact foldl_keeps Dev.iterView Dev.judgeSensor_iterView _ e
  have hsampled : u.sampled = e.sampled := congrArg Prod.fst hview
  simp only [Dev.iterView, Prod.mk.injEq] at hview
  obtain ⟨-, huask, huup, hustat⟩ := hview
  have hask' : u.pln.askCyc.map Prod.fst ≠ some u.cycle := by
    unfold Dev.cycle
    rw [huask, hask, hoask, huup, hup, houp]
    exact ha
  have hthrottle : u.get PWR_STAT.THROTTLE = 0 := by
    rw [Dev.get_narrow _ (by decide), show u.reg PWR_STAT.THROTTLE.key = d.reg PWR_STAT from
      hustat.trans ((congrArg (fun r => tget regReset r PWR_STAT) hregs).trans hostat), ← ht, Dev.get_narrow _ (by decide)]
  have hdone : u.boot.done.contains 8 = false := by
    rw [show u.boot.done = e.boot.done from congrArg Prod.snd hsampled, hboot, hodone]
    exact h8
  have hend : (d.iteration x).sampled = u.sampled := by
    unfold Dev.iteration
    rw [if_neg (by simp [hd])]
    dsimp only
    rw [ho, Dev.sampleAll_eq, he, hu]
    split
    · exact Dev.trip_sampled hask' _ _
    · rw [Dev.gating_before_ready, Dev.autoWake_sampled, Dev.throttle_sampled hthrottle]
      rw [show u.throttle.autoWake.boot.done = u.boot.done from
        congrArg Prod.snd ((Dev.autoWake_sampled _).trans (Dev.throttle_sampled hthrottle))]
      exact hdone
  have hfinal := hend.trans hsampled
  simp only [Dev.sampled, Prod.mk.injEq] at hfinal
  obtain ⟨⟨h0, hp, hr⟩, -⟩ := hfinal
  refine ⟨h0.trans (ht0.trans hot0), hp.trans hprimed, fun n => ?_⟩
  exact (congrArg (fun t => tget (fun _ => (0 : Int)) t n) hr).trans (hraw n (by rw [samplesAll_length]; exact n.isLt))

theorem wfield_one (v : Word) (i : Nat) : (wfield v i 1 == 1) = wbit v i := by
  unfold wfield wbit BitVec.getLsbD
  rw [Nat.testBit_eq_decide_div_mod_eq]
  rfl

theorem exec_hardwareTrip (what : BitVec 6) (s : State) : exec (.hardwareTrip what) s = .next (s.hardTrip what.toNat) := rfl

theorem exec_plinthIteration (x : Samples) (s : State) :
    exec (.plinthIteration x) s = .next { s with toDev := s.toDev.iteration x } := rfl

theorem exec_deepWake {s t : State} {ok : Bool} (h : s.deepWake ok = t) : exec (.deepWake ok) s = .next t := h ▸ rfl

theorem exec_clusterGateDone {s : State} {k : Clu} {d : Dev} (h : s.toDev.gatingDone k = d) :
    exec (.clusterGateDone k) s = .next { s with toDev := d } := h ▸ rfl

/-- Settles O57: each request, transition, wake, trip and gating by the equation of its operation; what the other blocks do
beside it is a frame. -/
theorem powerStatesComplete : Obligations.PowerStatesComplete := by
  unfold Obligations.PowerStatesComplete
  refine ⟨?_, ?_, ?_, ?_, ?_, ?_, ?_, ?_, ?_, ?_, ?_⟩
  · intro ss val s ⟨h, hgo, htarget, hforce⟩ ⟨hst, hg, hr, ha⟩
    obtain ⟨e, hest, -, hpln, hget⟩ := Dev.pwrReqWrite_tries h hgo ha hg hr
    have hf : (wfield val 2 1 == 1) = true := by
      rw [wfield_one, hforce]
    rw [htarget, hf] at hpln hget
    obtain ⟨hgoing, hshown⟩ := Dev.powerTry_drowse (hest.trans hst)
    exact ⟨_, rfl, (congrArg Plinth.going hpln).trans hgoing, (hget _).trans hshown⟩
  · intro ss val s ⟨h, hgo, htarget⟩ ⟨hg, hr, ha⟩
    obtain ⟨e, -, heg, hpln, hget⟩ := Dev.pwrReqWrite_tries h hgo ha hg hr
    rw [htarget, Dev.powerTry_invalid] at hpln hget
    refine ⟨_, rfl, (congrArg Plinth.going hpln).trans ?_, (hget _).trans ?_⟩
    · unfold Dev.pwrErr
      rw [Dev.set_pln]
      exact heg
    · exact Dev.get_set_word (show 5 + 3 ≤ 32 by decide) 3
  · intro s ⟨hg, hst, hheld⟩ hon
    have hdone : exec .powerTransitionDone s = s.on fun d => d.powerDone .active := by
      show execPowerTransitionDone s = _
      unfold execPowerTransitionDone
      simp only [hg, hst, hon, if_true]
    exact ⟨_, hdone, Dev.powerDone_shows hheld⟩
  · intro ok s ⟨hst, hg, hr, hret⟩ ⟨hn, ho, hf⟩
    have hwake := exec_deepWake (State.deepWake_full hst hg hr hret hn ho hf ok)
    obtain ⟨-, hst', hg'⟩ := Dev.deepExit_shows (d := s.toDev) .active
    obtain ⟨hrel, hdone, hpln, hcause⟩ := Dev.release_shows (d := s.toDev.deepExit .active) (if s.pln.hwTripped then 2 else 3)
    refine ⟨_, hwake, hrel, hdone, (congrArg Plinth.st hpln).trans hst', (congrArg Plinth.going hpln).trans hg', hcause.trans ?_⟩
    split <;> rfl
  · intro s ⟨hst, hg, hr, hret⟩ ⟨hn, ho, hf, hw⟩
    have hwake := exec_deepWake (State.deepWake_failed hst hg hr hret hn ho hf hw)
    obtain ⟨-, hst', -⟩ := Dev.deepExit_shows (d := s.toDev) .active
    obtain ⟨hrel, -, hpln, -⟩ := Dev.release_shows (d := s.toDev.deepExit .active) 3
    obtain ⟨hpln', hboot'⟩ := ((s.toDev.deepExit .active).release 3).pllUp_keeps
    refine ⟨_, hwake, ?_, ?_, ?_⟩
    · rw [Dev.showBoot_boot]
      exact (congrArg Boot.released hboot').trans hrel
    · rw [Dev.showBoot_boot]
    · rw [Dev.showBoot_pln]
      exact (congrArg Plinth.st (hpln'.trans hpln)).trans hst'
  · intro x s ⟨hd, h8, ht, ha⟩
    exact ⟨_, exec_plinthIteration x s, Dev.iteration_shows (d := s.toDev) x hd h8 ht ha⟩
  · intro what s ⟨ha, hheld⟩
    exact ⟨_, exec_hardwareTrip what s, State.hardTrip_shows ha hheld what.toNat⟩
  · intro k s ⟨hp, hw, hl, hs⟩
    exact ⟨_, exec_clusterGateDone (Dev.gatingDone_idle hp hw hl hs), Dev.gated0_shows k⟩
  · intro k s ⟨hp, _, _⟩
    exact ⟨_, rfl, Dev.wakeDone_powers hp⟩
  · intro ss val s ⟨hl, hh⟩ ⟨h0, h4⟩
    exact ⟨_, rfl, Dev.sensFaultyWords_bit hl hh h0 h4⟩
  · intro k fifo s ⟨hp, hm⟩
    exact ⟨_, rfl, Dev.fifoError_marks hp hm⟩

end Sys2Proof.Machine
end

