-- ==== Sys2Proof/Proofs/Micro.lean ====
section
/-! SUPPORT. The machine check (R23, R156) by the registers, the engine and the records that it leaves, and the end of a
word by COMMIT, IRQ_OK and NEXT (R143). -/

namespace Sys2Proof.Machine
variable {d : Dev}

/-! ### What a machine check finds and keeps: its two words, the thread of the engine, the records of lanes -/

/-- The registers and the state that a machine check of cluster `k` leaves to be found, with the records of every lane. -/
def Dev.checked (d : Dev) (k : Clu) : (Word × Word) × Option Nat × (Nat → List Rec) :=
  ((d.reg (CL_STATE k), d.reg (SEQ_MCHK_INFO k)), (d.cl k).active, fun L => (d.lane L).records)

/-- The register at `key` is neither of the two. -/
def clearOf (k : Clu) (key : Nat) : Prop := CL_STATE k ≠ key ∧ SEQ_MCHK_INFO k ≠ key

section
variable {k : Clu}

theorem clearOf_low {key : Nat} (h : key < 0x1000000) : clearOf k key := by
  show 0x1000000 + 0x100000 * k.val + 0x104 ≠ key ∧ 0x1000000 + 0x100000 * k.val + 0x1000 + 0x124 ≠ key
  omega

theorem clearOf_sess (ss c : Nat) : clearOf k (sessKey ss + c) := by
  show 0x1000000 + 0x100000 * k.val + 0x104 ≠ 0x4000000 * (ss + 1) + c
    ∧ 0x1000000 + 0x100000 * k.val + 0x1000 + 0x124 ≠ 0x4000000 * (ss + 1) + c
  omega

/-- A register of a channel page, whatever the channel's number. -/
theorem clearOf_ch (p off : Nat) : clearOf k (chPg k p + off) := by
  show 0x1000000 + 0x100000 * k.val + 0x104 ≠ 0x1000000 + 0x100000 * k.val + 0x40000 + 0x1000 * p + off
    ∧ 0x1000000 + 0x100000 * k.val + 0x1000 + 0x124 ≠ 0x1000000 + 0x100000 * k.val + 0x40000 + 0x1000 * p + off
  omega

/-- A register of a TMU page, whatever the TMU's number. -/
theorem clearOf_tmu (t off : Nat) : clearOf k (tmuPg k t + off) := by
  show 0x1000000 + 0x100000 * k.val + 0x104 ≠ 0x1000000 + 0x100000 * k.val + 0xC0000 + 0x1000 * t + off
    ∧ 0x1000000 + 0x100000 * k.val + 0x1000 + 0x124 ≠ 0x1000000 + 0x100000 * k.val + 0xC0000 + 0x1000 * t + off
  omega

/-- A register of a lane's page, of any cluster. -/
theorem clearOf_lane (L : Nat) {off : Nat} (h : off < 0x1000) : clearOf k (lanePg L + off) := by
  show 0x1000000 + 0x100000 * k.val + 0x104 ≠ 0x1000000 + 0x100000 * (L / 64) + 0x40000 + 0x1000 * (L % 64) + off
    ∧ 0x1000000 + 0x100000 * k.val + 0x1000 + 0x124 ≠ 0x1000000 + 0x100000 * (L / 64) + 0x40000 + 0x1000 * (L % 64) + off
  omega

/-- A register of a sequencer page, other than those of machine checks. -/
theorem clearOf_seq (j : Nat) {off : Nat} (h : off < 0x1000 ∧ off ≠ 0x124) : clearOf k (clu j + 0x1000 + off) := by
  show 0x1000000 + 0x100000 * k.val + 0x104 ≠ 0x1000000 + 0x100000 * j + 0x1000 + off
    ∧ 0x1000000 + 0x100000 * k.val + 0x1000 + 0x124 ≠ 0x1000000 + 0x100000 * j + 0x1000 + off
  omega

/-! One rule for each operation on the state. -/

theorem Dev.setReg_checked {key : Nat} (h : clearOf k key) (v : Word) : (d.setReg key v).checked k = d.checked k := by
  unfold Dev.checked
  rw [Dev.setReg_reg, Dev.setReg_reg, if_neg h.1, if_neg h.2]
  rfl

theorem Dev.set_checked {f : Fld} (hw : f.lo + f.w ≤ 32) (h : clearOf k f.key) (v : Nat) : (d.set f v).checked k = d.checked k := by
  rw [Dev.set_narrow _ hw, Dev.setReg_checked h]

theorem Dev.stick_checked {f : Fld} (h : clearOf k f.key) : (d.stick f).checked k = d.checked k := by
  unfold Dev.checked Dev.cl Dev.lane
  rw [Dev.stick_reg_ne h.1, Dev.stick_reg_ne h.2, Dev.stick_clusters, Dev.stick_lanes]

theorem Dev.setLane_checked {L : Nat} {l : Lane} (h : l.records = (d.lane L).records) : (d.setLane L l).checked k = d.checked k := by
  refine Prod.ext rfl (Prod.ext rfl (funext fun j => ?_))
  show ((d.setLane L l).lane j).records = (d.lane j).records
  rw [Dev.lane_setLane]
  split
  · next hj => rw [hj, h]
  · rfl

theorem Dev.modLane_checked {L : Nat} {g : Lane → Lane} (h : (g (d.lane L)).records = (d.lane L).records) :
    (d.modLane L g).checked k = d.checked k := Dev.setLane_checked h

theorem Dev.setCl_checked {j : Nat} {c : Cluster} (h : c.active = (d.cl j).active) : (d.setCl j c).checked k = d.checked k := by
  refine Prod.ext rfl (Prod.ext ?_ rfl)
  show ((d.setCl j c).cl k).active = (d.cl k).active
  rw [Dev.cl_setCl]
  split
  · next hj => rw [h, ← hj]
  · rfl

theorem Dev.modCl_checked {j : Nat} {g : Cluster → Cluster} (h : (g (d.cl j)).active = (d.cl j).active) :
    (d.modCl j g).checked k = d.checked k := Dev.setCl_checked h

theorem checked_if {c : Prop} [Decidable c] {d e : Dev} (h : d.checked k = e.checked k) :
    (if c then d else e).checked k = e.checked k := by
  split
  · exact h
  · rfl

theorem foldl_checked {α : Type} {f : Dev → α → Dev} (h : ∀ d x, (f d x).checked k = d.checked k) (l : List α) (d : Dev) :
    (l.foldl f d).checked k = d.checked k := foldl_keeps (fun d : Dev => d.checked k) h l d

theorem Dev.irqAt_checked (pg : Page) (ss bit : Nat) (h : clearOf k (PAGE_IRQ_STAT pg.base)) :
    (d.irqAt pg ss bit).checked k = d.checked k := by
  have hkey : clearOf k (if pg.perIrq then sessKey ss + PAGE_IRQ_STAT pg.base else PAGE_IRQ_STAT pg.base) := by
    split
    · exact clearOf_sess ..
    · exact h
  unfold Dev.checked Dev.cl Dev.lane
  rw [Dev.irqAt_reg_ne hkey.1, Dev.irqAt_reg_ne hkey.2, Dev.irqAt_clusters, Dev.irqAt_lanes]

theorem Dev.irqOwner_checked (pg : Page) (bit : Nat) (h : clearOf k (PAGE_IRQ_STAT pg.base)) :
    (d.irqOwner pg bit).checked k = d.checked k := by
  unfold Dev.irqOwner
  split
  · exact Dev.irqAt_checked _ _ _ h
  · exact Dev.stick_checked h

theorem Dev.raise_checked {src : Nat} (h1 : clearOf k (FLT_STICKY (src / 32))) (h2 : ∀ b, srcPage src = some b → clearOf k (PAGE_FLT b))
    (kind sev addr : Nat) (dest : List Nat) : (d.raise src kind sev addr dest).checked k = d.checked k := by
  unfold Dev.checked Dev.cl Dev.lane
  rw [Dev.raise_reg _ _ _ _ _ _ _ h1.1 fun b hb => (h2 b hb).1, Dev.raise_reg _ _ _ _ _ _ _ h1.2 fun b hb => (h2 b hb).2,
    Dev.raise_clusters, Dev.raise_lanes]

/-- A message of a block outside the clusters. -/
theorem Dev.raise_checked_dev {src : Nat} (h : src < 15) (kind sev addr : Nat) (dest : List Nat) :
    (d.raise src kind sev addr dest).checked k = d.checked k := by
  refine Dev.raise_checked (clearOf_low ?_) (fun b hb => ?_) kind sev addr dest
  · show 0x6200 + 4 * (src / 32) < 0x1000000
    omega
  · unfold srcPage at hb
    rw [if_pos h] at hb
    cases hb
    refine clearOf_low ?_
    show 0x1000 * src + 0x14 < 0x1000000
    omega

/-- A message of a sequencer. -/
theorem Dev.raise_checked_seq (j : Clu) (kind sev addr : Nat) (dest : List Nat) :
    (d.raise (256 + 112 * j + 103) kind sev addr dest).checked k = d.checked k := by
  refine Dev.raise_checked (clearOf_low ?_) (fun b hb => ?_) kind sev addr dest
  · show 0x6200 + 4 * ((256 + 112 * j.val + 103) / 32) < 0x1000000
    omega
  · have hpage : ∀ j : Clu, srcPage (256 + 112 * j + 103) = some (clu j + 0x1000) := by decide
    rw [hpage] at hb
    cases hb
    exact clearOf_seq j (by decide)

/-! Programs that a fault ends, and the holds of lanes (R137, R249). -/

theorem Dev.dropResults_checked (L : Nat) (ids : List Nat) : (d.dropResults L ids).checked k = d.checked k :=
  Dev.modLane_checked rfl

theorem Dev.cutCands_checked (L : Nat) (p : Cand → Bool) : (d.cutCands L p).checked k = d.checked k :=
  (Dev.dropResults_checked ..).trans (Dev.setLane_checked rfl)

theorem Dev.loseCands_checked (L : Nat) (cs : List Cand) : (d.loseCands L cs).checked k = d.checked k :=
  (Dev.dropResults_checked ..).trans (Dev.setLane_checked rfl)

theorem Dev.showReq_checked (j : Nat) : (d.showReq j).checked k = d.checked k := by
  unfold Dev.showReq
  dsimp only
  rw [Dev.set_checked (show 9 + 1 ≤ 32 by decide) (clearOf_seq j (by decide)),
    Dev.set_checked (show 8 + 1 ≤ 32 by decide) (clearOf_seq j (by decide)),
    Dev.set_checked (show 0 + 8 ≤ 32 by decide) (clearOf_seq j (by decide))]

theorem Dev.dropPrime_checked (j p : Nat) : (d.dropPrime j p).checked k = d.checked k :=
  (Dev.showReq_checked j).trans (Dev.modCl_checked rfl)

theorem Dev.request2_checked (j vec p : Nat) : (d.request2 j vec p).checked k = d.checked k := by
  unfold Dev.request2
  dsimp only
  split
  · rfl
  · exact (Dev.showReq_checked j).trans (Dev.setCl_checked rfl)

theorem Dev.takeBack_checked (L t : Nat) : (d.takeBack L t).checked k = d.checked k :=
  (Dev.modLane_checked rfl).trans (Dev.cutCands_checked ..)

theorem Dev.unresolve_checked (L : Nat) : (d.unresolve L).checked k = d.checked k := by
  have hstate := fun (e : Dev) v => Dev.set_checked (d := e) (f := PROG_STAT.STATE L) (show 0 + 3 ≤ 32 by decide)
    (clearOf_lane (k := k) L (show 0x1DC < 0x1000 by decide)) v
  have hlate := fun (e : Dev) v => Dev.set_checked (d := e) (f := PROG_STAT.LATE L) (show 4 + 1 ≤ 32 by decide)
    (clearOf_lane (k := k) L (show 0x1DC < 0x1000 by decide)) v
  have hcnt := fun (e : Dev) v => Dev.set_checked (d := e) (f := PROG_CNT.LATE L) (show 0 + 16 ≤ 32 by decide)
    (clearOf_lane (k := k) L (show 0x1FC < 0x1000 by decide)) v
  unfold Dev.unresolve
  dsimp only
  split
  · rfl
  · split
    · rfl
    · rw [checked_if (hstate _ 5), hcnt, hlate, Dev.modLane_checked rfl, Dev.takeBack_checked]

theorem Dev.askStop_checked (L t err : Nat) : (d.askStop L t err).checked k = d.checked k := by
  unfold Dev.askStop
  dsimp only
  rw [Dev.takeBack_checked, Dev.setLane_checked (by rfl), Dev.unresolve_checked, Dev.modLane_checked rfl]

theorem Dev.setLg_checked (g : Nat) (x : LockGroup) : (d.setLg g x).checked k = d.checked k := rfl

theorem Dev.groupStop_checked (g t err : Nat) (except : Option Nat) : (d.groupStop g t err except).checked k = d.checked k := by
  unfold Dev.groupStop
  dsimp only
  refine (foldl_checked (fun d m => ?_) _ _).trans (checked_if (Dev.setLg_checked ..))
  split
  · rfl
  · rw [Dev.askStop_checked, checked_if (Dev.modLane_checked rfl)]

theorem Dev.groupIdle_checked (g : Nat) : (d.groupIdle g).checked k = d.checked k := by
  unfold Dev.groupIdle
  dsimp only
  split
  · rfl
  · exact (Dev.set_checked (d := d.modLine _ _) (f := GL_FREE.FREE) (by decide) (clearOf_low (by decide)) _)

theorem Dev.groupCheck_checked (g : Nat) : (d.groupCheck g).checked k = d.checked k := by
  unfold Dev.groupCheck
  dsimp only
  split
  · exact Dev.groupIdle_checked g
  · rfl

end

section
variable {k : Clu}

theorem Dev.lanePage_irq_clear (L : Nat) : clearOf k (PAGE_IRQ_STAT (lanePage L).base) := by
  show 0x1000000 + 0x100000 * k.val + 0x104 ≠ 0x1000000 + 0x100000 * (L / 64 % 16) + 0x40000 + 0x1000 * (L % 64) + 0x1C
    ∧ 0x1000000 + 0x100000 * k.val + 0x1000 + 0x124
      ≠ 0x1000000 + 0x100000 * (L / 64 % 16) + 0x40000 + 0x1000 * (L % 64) + 0x1C
  omega

/-- The end of a program whose lane holds no record keeps the rest. -/
theorem Dev.progStopped_checked {L : Nat} (h : (d.lane L).records = []) (err : Nat) : (d.progStopped L err).checked k = d.checked k := by
  have hcut : ((d.cutCands L fun c => c.src == .burst).lane L).records = [] :=
    (congrArg (fun v => v.2.2 L) (Dev.cutCands_checked (k := k) L fun c => c.src == .burst)).trans h
  unfold Dev.progStopped
  dsimp only
  rw [Dev.irqOwner_checked _ _ (Dev.lanePage_irq_clear L), Dev.request2_checked,
    Dev.set_checked (f := PROG_STAT.ERR L) (show 8 + 4 ≤ 32 by decide) (clearOf_lane L (show 0x1DC < 0x1000 by decide)),
    Dev.set_checked (f := PROG_STAT.STATE L) (show 0 + 3 ≤ 32 by decide) (clearOf_lane L (show 0x1DC < 0x1000 by decide)),
    Dev.dropPrime_checked, Dev.modLane_checked (g := Lane.ended) hcut.symm, Dev.cutCands_checked]

theorem Dev.progFault_checked {L : Nat} (h : (d.lane L).records = []) (err t : Nat) :
    (d.progFault L err t).checked k = d.checked k := by
  unfold Dev.progFault
  dsimp only
  split
  · exact Dev.progStopped_checked h err
  · rw [Dev.groupCheck_checked, checked_if (Dev.groupStop_checked ..), Dev.progStopped_checked h]

theorem Dev.set_ch_checked (p off : Nat) {lo w : Nat} (hw : lo + w ≤ 32) (v : Nat) :
    (d.set ⟨chPg k p + off, lo, w⟩ v).checked k = d.checked k := Dev.set_checked hw (clearOf_ch p off) v

theorem Dev.set_tmu_checked (t off : Nat) {lo w : Nat} (hw : lo + w ≤ 32) (v : Nat) :
    (d.set ⟨tmuPg k t + off, lo, w⟩ v).checked k = d.checked k := Dev.set_checked hw (clearOf_tmu t off) v

theorem Dev.set_dev_checked {key lo w : Nat} (h : key < 0x1000000) (hw : lo + w ≤ 32) (v : Nat) :
    (d.set ⟨key, lo, w⟩ v).checked k = d.checked k := Dev.set_checked hw (clearOf_low h) v

theorem Dev.set_sess_checked (ss c : Nat) {lo w : Nat} (hw : lo + w ≤ 32) (v : Nat) :
    (d.set ⟨sessKey ss + c, lo, w⟩ v).checked k = d.checked k := Dev.set_checked hw (clearOf_sess ss c) v

theorem Dev.roleIdle_checked (p : Nat) : (d.roleIdle k p).checked k = d.checked k := by
  unfold Dev.roleIdle
  rw [Dev.set_ch_checked _ _ (by decide), Dev.set_ch_checked _ _ (by decide), Dev.set_ch_checked _ _ (by decide)]

theorem Dev.swapAbandon_checked (again : Bool) : (d.swapAbandon k again).checked k = d.checked k := by
  unfold Dev.swapAbandon
  dsimp only
  split
  · rfl
  · rw [Dev.raise_checked_dev (by decide), Dev.set_checked (f := PE_STAT.SWAPS_ACTIVE) (by decide) (clearOf_low (by decide))]
    unfold Dev.wrapUp
    rw [Dev.set_checked (f := PE_SWAP_CNT.ABORTED) (by decide) (clearOf_low (by decide)), Dev.roleIdle_checked, Dev.modCl_checked rfl]

theorem Dev.markStale_checked (L : Nat) : (d.markStale L).checked k = d.checked k := rfl

theorem Dev.markHold_checked (L cause : Nat) : (d.markHold L cause).checked k = d.checked k :=
  checked_if (Dev.markStale_checked L)

theorem Dev.setHold_checked (L set : Nat) : (d.setHold L set).checked k = d.checked k := by
  have hset : ∀ (e : Dev) (lo w v : Nat), lo + w ≤ 32 → (e.set ⟨LANE_STAT L, lo, w⟩ v).checked k = e.checked k :=
    fun e lo w v hw => Dev.set_checked hw (clearOf_lane L (show 0x114 < 0x1000 by decide)) v
  unfold Dev.setHold
  dsimp only
  rw [hset _ _ _ _ (by decide), hset _ _ _ _ (by decide), hset _ _ _ _ (by decide), hset _ _ _ _ (by decide)]

theorem Dev.holdEnd_checked (L cause : Nat) : (d.holdEnd L cause).checked k = d.checked k :=
  checked_if ((Dev.setHold_checked ..).trans (Dev.markHold_checked ..))

/-- A hold of a lane of the cluster. -/
theorem Dev.holdEnter_checked {L : Nat} (hL : L / 64 = k) (cause : Nat) : (d.holdEnter L cause).checked k = d.checked k := by
  unfold Dev.holdEnter
  dsimp only
  rw [hL]
  split
  · rfl
  · split
    · rw [Dev.loseCands_checked, Dev.modLane_checked rfl, Dev.markHold_checked, Dev.setHold_checked]
    · rw [checked_if (Dev.swapAbandon_checked true), Dev.loseCands_checked, Dev.modLane_checked rfl, Dev.markHold_checked,
        Dev.setHold_checked]

/-! Maintenance that a machine check ends (R255, R313). -/

theorem Dev.modTmu_checked (j t : Nat) (g : Tmu → Tmu) : (d.modTmu j t g).checked k = d.checked k := rfl

theorem Dev.maintFree_checked (t : Nat) : (d.maintFree k t).checked k = d.checked k := by
  have hstate : (((((d.set (PAGE_STAT.STALE (tmuPg k t)) 0).set (PAGE_STAT.CAL_ACTIVE (tmuPg k t)) 0).set
      (PAGE_STAT.BIST_ACTIVE (tmuPg k t)) 0).modTmu k t fun x => { x with req := none, record := none }).set
      (TMU_STAT.STATE k t) 0).checked k = d.checked k := by
    rw [Dev.set_tmu_checked _ _ (by decide), Dev.modTmu_checked, Dev.set_tmu_checked _ _ (by decide),
      Dev.set_tmu_checked _ _ (by decide), Dev.set_tmu_checked _ _ (by decide)]
  unfold Dev.maintFree
  dsimp only
  split
  · exact hstate
  · exact (Dev.set_tmu_checked _ _ (by decide) _).trans hstate

theorem Dev.maintCancel_checked (bist : Bool) : (d.maintCancel k bist).checked k = d.checked k := Dev.modCl_checked rfl

theorem Dev.showCal_checked (d : Dev) : d.showCal.checked k = d.checked k := by
  unfold Dev.showCal
  rw [Dev.set_dev_checked (by decide) (by decide), Dev.set_dev_checked (by decide) (by decide)]

theorem Dev.showBg_checked (d : Dev) : d.showBg.checked k = d.checked k := Dev.set_dev_checked (by decide) (by decide) _

theorem Dev.withCal_checked (cal : Caliper) : ({ d with cal } : Dev).checked k = d.checked k := rfl

theorem Dev.runFree_checked (d : Dev) : (d.runFree k).checked k = d.checked k := by
  have hshown : ∀ (e : Dev) (held : Option Nat), (match held with | none => e | some L => e.holdEnd L holdStale).showCal.checked k
      = e.checked k := fun e held => by
    rw [Dev.showCal_checked]
    cases held with
    | none => rfl
    | some L => exact Dev.holdEnd_checked L holdStale
  unfold Dev.runFree
  dsimp only
  split
  · rfl
  · refine (hshown _ _).trans ((Dev.withCal_checked _).trans ?_)
    split
    · rw [foldl_checked fun d t => Dev.maintFree_checked t, Dev.maintCancel_checked]
    · rw [Dev.set_ch_checked _ _ (by decide), Dev.set_ch_checked _ _ (by decide), Dev.set_ch_checked _ _ (by decide),
        Dev.set_ch_checked _ _ (by decide), foldl_checked fun d t => Dev.maintFree_checked t, Dev.maintCancel_checked]

theorem Dev.burstsEnd_checked (d : Dev) : (d.burstsEnd k).checked k = d.checked k := by
  unfold Dev.burstsEnd
  dsimp only
  split
  · rfl
  · rw [Dev.showBg_checked, foldl_checked fun d t => Dev.maintFree_checked t]

theorem Dev.rejTell_checked (u : CalUnit) (code : Nat) (dest : List Nat) : (d.rejTell u code dest).checked k = d.checked k :=
  Dev.raise_checked_dev (by decide) ..

theorem Dev.unitNote_checked (j : Nat) (cmd : Bool) (u : CalUnit) (code : Nat) : (d.unitNote j cmd u code).checked k = d.checked k := by
  have hnote : ∀ e : Dev, (if code = 0 then e else e.rejTell u code []).checked k = e.checked k := fun e => by
    split
    · rfl
    · exact Dev.rejTell_checked ..
  have hjob : ∀ (e : Dev) (n : Nat) (x : CalJob), (e.setJob n x).checked k = e.checked k := fun _ _ _ => rfl
  unfold Dev.unitNote
  dsimp only
  split
  · exact (hnote _).trans (Dev.withCal_checked _)
  · split
    · exact (hnote _).trans ((checked_if (hjob ..)).trans (Dev.withCal_checked _))
    · split
      · exact (Dev.set_sess_checked _ _ (by decide) _).trans ((checked_if (hjob ..)).trans (Dev.withCal_checked _))
      · refine (Dev.irqAt_checked _ _ _ (clearOf_low (by decide))).trans ((Dev.rejTell_checked ..).trans ?_)
        refine (Dev.setReg_checked (clearOf_sess ..) _).trans ((Dev.set_sess_checked _ _ (by decide) _).trans ?_)
        exact (checked_if (hjob ..)).trans (Dev.withCal_checked _)

theorem Dev.calEnd_checked (session : Option Nat) (result : Nat) : (d.calEnd session result).checked k = d.checked k := by
  unfold Dev.calEnd
  cases session with
  | none => rfl
  | some ss =>
    dsimp only
    rw [Dev.irqAt_checked _ _ _ (clearOf_low (by decide)), Dev.stick_checked (clearOf_sess ss _),
      Dev.set_sess_checked _ _ (by decide), Dev.set_sess_checked _ _ (by decide)]

theorem Dev.jobOver_checked (j : Nat) : (d.jobOver j).checked k = d.checked k := by
  unfold Dev.jobOver
  split
  · rfl
  · rw [Dev.showCal_checked, Dev.calEnd_checked, Dev.withCal_checked]

theorem Dev.jobAbort_checked (d : Dev) : (d.jobAbort k).checked k = d.checked k := by
  have hunits : ∀ (e : Dev) (l : List CalUnit), (l.foldl (fun d u => d.unitNote k true u 6) e).checked k = e.checked k :=
    fun e l => foldl_checked (fun d u => Dev.unitNote_checked ..) l e
  unfold Dev.jobAbort
  dsimp only
  split
  · exact d.runFree_checked
  · split
    · exact (hunits ..).trans d.runFree_checked
    · exact (Dev.jobOver_checked k).trans (.trans rfl ((hunits ..).trans d.runFree_checked))

theorem Dev.calMchk_checked (d : Dev) : (d.calMchk k).checked k = d.checked k := by
  unfold Dev.calMchk
  dsimp only
  split
  · exact d.burstsEnd_checked
  · exact (checked_if (Dev.jobAbort_checked _)).trans d.burstsEnd_checked

theorem Dev.sliceStop_checked (i : Nat) : (d.sliceStop i).checked k = d.checked k := by
  unfold Dev.sliceStop
  split
  · rfl
  · split
    · rfl
    · exact .trans rfl (Dev.set_dev_checked (d := d) (key := BIST_CNT0) (lo := 16) (w := 16) (by decide) (by decide) _)

theorem Dev.slicesStop_checked (j : Nat) : (d.slicesStop j).checked k = d.checked k := by
  unfold Dev.slicesStop
  refine foldl_checked (fun d i => ?_) _ d
  split
  · rfl
  · exact checked_if (Dev.sliceStop_checked i)

theorem Dev.abortMaint_checked (d : Dev) : (d.abortMaint k).checked k = d.checked k :=
  (Dev.slicesStop_checked k).trans d.calMchk_checked

end

/-! ### The machine check itself (R156) -/

section
variable {k : Clu}

theorem Dev.slotIdle_checked (s : Nat) : (d.slotIdle k s).checked k = d.checked k := by
  have hslot : ∀ (e : Dev) (lo w v : Nat), lo + w ≤ 32 → (e.set ⟨TMU_SLOT_STAT k s, lo, w⟩ v).checked k = e.checked k :=
    fun e lo w v hw => Dev.set_checked hw (by
      show 0x1000000 + 0x100000 * k.val + 0x104 ≠ 0x1000000 + 0x100000 * k.val + 0x6000 + 0x21C + 64 * s
        ∧ 0x1000000 + 0x100000 * k.val + 0x1000 + 0x124 ≠ 0x1000000 + 0x100000 * k.val + 0x6000 + 0x21C + 64 * s
      omega) v
  unfold Dev.slotIdle
  dsimp only
  split
  · exact hslot _ _ _ _ (by decide)
  · rw [Dev.modCl_checked rfl, hslot _ _ _ _ (by decide), hslot _ _ _ _ (by decide)]

theorem Dev.reqDiscard_checked (r : Req) : (d.reqDiscard k r).checked k = d.checked k := by
  unfold Dev.reqDiscard
  split
  · exact Dev.slotIdle_checked _
  · rfl
  · rfl

theorem Dev.poolDiscard_checked (d : Dev) : (d.poolDiscard k).checked k = d.checked k :=
  (foldl_checked (fun _ r => Dev.reqDiscard_checked r) _ _).trans (Dev.modCl_checked rfl)

theorem Dev.set_wide_reg_ne {f : Fld} (hw : ¬f.lo + f.w ≤ 32) {j : Nat} (h : j ≠ f.key) (h4 : j ≠ f.key + 4) (v : Nat) :
    (d.set f v).reg j = d.reg j := by
  unfold Dev.set Dev.setReg64
  rw [if_neg hw, Dev.setReg_reg, if_neg h4, Dev.setReg_reg, if_neg h]

/-- What a machine check of cluster `k` notes, before what it does to the lanes. -/
def Dev.mchkNoted (d : Dev) (k upc thread cause code word : Nat) : Dev :=
  let d := d.modCl k fun c => { c with
    active := none
    threads := c.threads.map fun (i, t) => (i, { t with
      shadow := [], resume := none, suspended := false, restart := false, mustCommit := false })
    pend2 := [], pend1 := none, pend0 := none, march := c.march || cause == 0 }
  let d := d.poolDiscard k
  let d := ((d.set (CL_STATE.MCHK k) 1).set (SEQ_STAT.ACTIVE k) 0).showReq k
  let d := (((d.set (SEQ_MCHK_INFO.UPC k) upc).set (SEQ_MCHK_INFO.THREAD k) thread).set (SEQ_MCHK_INFO.CAUSE k)
    cause).set (SEQ_MCHK_INFO.CODE k) code
  (d.set (SEQ_MCHK_INFO.VALID k) 1).set (SEQ_MCHK_WORD.WORD k) word

theorem Dev.mchkNoted_active (upc thread cause code word : Nat) : ((d.mchkNoted k upc thread cause code word).cl k).active = none := by
  have hreq : ∀ e : Dev, ((e.showReq k).cl k).active = (e.cl k).active := fun e =>
    congrArg (fun v => v.2.1) (Dev.showReq_checked (d := e) (k := k) k)
  have hset : ∀ (e : Dev) (f : Fld) (v : Nat), ((e.set f v).cl k).active = (e.cl k).active := fun e f v => by
    unfold Dev.cl
    rw [Dev.set_clusters]
  unfold Dev.mchkNoted
  dsimp only
  rw [hset, hset, hset, hset, hset, hset, hreq, hset, hset]
  refine (congrArg (fun v => v.2.1) (Dev.poolDiscard_checked (k := k) _)).trans ?_
  show ((d.modCl k _).cl k).active = none
  rw [Dev.cl_modCl, if_pos rfl]

/-- CL_STATE keeps its bits beside MCHK. -/
theorem Dev.mchkNoted_clState (upc thread cause code word : Nat) {lo w : Nat} (hw : lo + w ≤ 28) :
    (d.mchkNoted k upc thread cause code word).get (CL_STATE.MCHK k) = 1
      ∧ (d.mchkNoted k upc thread cause code word).get ⟨CL_STATE k, lo, w⟩ = d.get ⟨CL_STATE k, lo, w⟩ := by
  have hinfo : ∀ (e : Dev) (lo' w' v lo w : Nat), lo' + w' ≤ 32 → lo + w ≤ 32 →
      (e.set ⟨SEQ_MCHK_INFO k, lo', w'⟩ v).get ⟨CL_STATE k, lo, w⟩ = e.get ⟨CL_STATE k, lo, w⟩ := fun e lo' w' v lo w h' h =>
    Dev.get_set_key_ne h' h (by
      show 0x1000000 + 0x100000 * k.val + 0x104 ≠ 0x1000000 + 0x100000 * k.val + 0x1000 + 0x124
      omega) v
  have hword : ∀ (e : Dev) (v lo w : Nat), lo + w ≤ 32 →
      (e.set (SEQ_MCHK_WORD.WORD k) v).get ⟨CL_STATE k, lo, w⟩ = e.get ⟨CL_STATE k, lo, w⟩ := fun e v lo w h => by
    rw [Dev.get_narrow _ h, Dev.get_narrow _ h, Dev.set_wide_reg_ne (show ¬0 + 40 ≤ 32 by decide)]
    · show 0x1000000 + 0x100000 * k.val + 0x104 ≠ 0x1000000 + 0x100000 * k.val + 0x1000 + 0x128
      omega
    · show 0x1000000 + 0x100000 * k.val + 0x104 ≠ 0x1000000 + 0x100000 * k.val + 0x1000 + 0x128 + 4
      omega
  have hreq : ∀ (e : Dev) (lo w : Nat), lo + w ≤ 32 →
      ((e.set (SEQ_STAT.ACTIVE k) 0).showReq k).get ⟨CL_STATE k, lo, w⟩ = e.get ⟨CL_STATE k, lo, w⟩ := fun e lo w h => by
    rw [Dev.get_narrow _ h, Dev.get_narrow _ h]
    have hv := congrArg (fun v => v.1.1) ((Dev.showReq_checked (d := e.set (SEQ_STAT.ACTIVE k) 0) (k := k) k).trans
      (Dev.set_checked (show 2 + 3 ≤ 32 by decide) (clearOf_seq (k := k) k (by decide)) 0))
    exact congrArg (fun v : Word => v.toNat / 2 ^ lo % 2 ^ w) hv
  unfold Dev.mchkNoted
  dsimp only
  refine ⟨?_, ?_⟩
  · rw [hword _ _ _ _ (by decide), hinfo _ _ _ _ _ _ (by decide) (by decide), hinfo _ _ _ _ _ _ (by decide) (by decide),
      hinfo _ _ _ _ _ _ (by decide) (by decide), hinfo _ _ _ _ _ _ (by decide) (by decide),
      hinfo _ _ _ _ _ _ (by decide) (by decide), hreq _ _ _ (by decide), Dev.get_set_word (show 28 + 1 ≤ 32 by decide)]
    rfl
  · rw [hword _ _ _ _ (by omega), hinfo _ _ _ _ _ _ (by decide) (by omega), hinfo _ _ _ _ _ _ (by decide) (by omega),
      hinfo _ _ _ _ _ _ (by decide) (by omega), hinfo _ _ _ _ _ _ (by decide) (by omega),
      hinfo _ _ _ _ _ _ (by decide) (by omega), hreq _ _ _ (by omega), Dev.get_set_ne]
    · have hv := congrArg (fun v => v.1.1) ((Dev.poolDiscard_checked (k := k) (d.modCl k fun c => { c with
        active := none
        threads := c.threads.map fun (i, t) => (i, { t with
          shadow := [], resume := none, suspended := false, restart := false, mustCommit := false })
        pend2 := [], pend1 := none, pend0 := none, march := c.march || cause == 0 })))
      rw [Dev.get_narrow _ (by show lo + w ≤ 32; omega), Dev.get_narrow _ (by show lo + w ≤ 32; omega)]
      exact congrArg (fun v : Word => v.toNat / 2 ^ lo % 2 ^ w) hv
    · simp only [Fld.apart, Bool.and_eq_true, Bool.or_eq_true, decide_eq_true_eq]
      omega

/-- SEQ_MCHK_INFO as a machine check writes it. -/
theorem Dev.mchkNoted_info (upc thread cause code word : Nat) :
    (d.mchkNoted k upc thread cause code word).get (SEQ_MCHK_INFO.VALID k) = 1
      ∧ (d.mchkNoted k upc thread cause code word).get (SEQ_MCHK_INFO.CAUSE k) = cause % 4
      ∧ (d.mchkNoted k upc thread cause code word).get (SEQ_MCHK_INFO.UPC k) = upc % 2048
      ∧ (d.mchkNoted k upc thread cause code word).get (SEQ_MCHK_INFO.THREAD k) = thread % 128 := by
  have hword : ∀ (e : Dev) (v lo w : Nat), lo + w ≤ 32 →
      (e.set (SEQ_MCHK_WORD.WORD k) v).get ⟨SEQ_MCHK_INFO k, lo, w⟩ = e.get ⟨SEQ_MCHK_INFO k, lo, w⟩ := fun e v lo w h => by
    rw [Dev.get_narrow _ h, Dev.get_narrow _ h, Dev.set_wide_reg_ne (show ¬0 + 40 ≤ 32 by decide)]
    · show 0x1000000 + 0x100000 * k.val + 0x1000 + 0x124 ≠ 0x1000000 + 0x100000 * k.val + 0x1000 + 0x128
      omega
    · show 0x1000000 + 0x100000 * k.val + 0x1000 + 0x124 ≠ 0x1000000 + 0x100000 * k.val + 0x1000 + 0x128 + 4
      omega
  unfold Dev.mchkNoted
  dsimp only
  refine ⟨?_, ?_, ?_, ?_⟩
  · rw [hword _ _ _ _ (by decide), Dev.get_set_word (show 31 + 1 ≤ 32 by decide)]
    rfl
  · rw [hword _ _ _ _ (by decide), Dev.get_set_ne _ (by simp [Fld.apart]), Dev.get_set_ne _ (by simp [Fld.apart]),
      Dev.get_set_word (show 18 + 2 ≤ 32 by decide)]
    rfl
  · rw [hword _ _ _ _ (by decide), Dev.get_set_ne _ (by simp [Fld.apart]), Dev.get_set_ne _ (by simp [Fld.apart]),
      Dev.get_set_ne _ (by simp [Fld.apart]), Dev.get_set_ne _ (by simp [Fld.apart]),
      Dev.get_set_word (show 0 + 11 ≤ 32 by decide)]
    rfl
  · rw [hword _ _ _ _ (by decide), Dev.get_set_ne _ (by simp [Fld.apart]), Dev.get_set_ne _ (by simp [Fld.apart]),
      Dev.get_set_ne _ (by simp [Fld.apart]), Dev.get_set_word (show 11 + 7 ≤ 32 by decide)]
    rfl

/-- What a machine check does to one lane of the cluster. -/
def Dev.mchkLane (d : Dev) (L : Nat) : Dev :=
  let d := d.modLane L fun l => { l with records := [], fires := [] }
  let d := if d.progBusy L then d.progFault L 7 (tq d.epoch) else d
  d.holdEnter L holdMchk

theorem Dev.mchkLane_checked {L : Nat} (hL : L / 64 = k) : (d.mchkLane L).checked k
    = ((d.checked k).1, (d.checked k).2.1, fun j => if j = L then [] else (d.lane j).records) := by
  have hnone : ((d.modLane L fun l => { l with records := [], fires := [] }).lane L).records = [] := by
    rw [Dev.lane_modLane, if_pos rfl]
  unfold Dev.mchkLane
  dsimp only
  rw [Dev.holdEnter_checked hL, checked_if (Dev.progFault_checked hnone ..)]
  refine Prod.ext rfl (Prod.ext rfl (funext fun j => ?_))
  show ((d.modLane L _).lane j).records = if j = L then [] else (d.lane j).records
  rw [Dev.lane_modLane]
  split <;> rfl

/-- All lanes of the cluster: none holds a record, and what the check noted stands. -/
theorem Dev.mchkLanes_checked (n : Nat) (hn : n ≤ 64) (d : Dev) :
    (((List.range n).foldl (fun d j => d.mchkLane (64 * k + j)) d).checked k).1 = (d.checked k).1
      ∧ (((List.range n).foldl (fun d j => d.mchkLane (64 * k + j)) d).checked k).2.1 = (d.checked k).2.1
      ∧ ∀ j < n, (((List.range n).foldl (fun d j => d.mchkLane (64 * k + j)) d).lane (64 * k + j)).records = [] := by
  induction n with
  | zero => exact ⟨rfl, rfl, fun j hj => absurd hj (Nat.not_lt_zero j)⟩
  | succ n ih =>
    obtain ⟨hregs, hactive, hrecs⟩ := ih (by omega)
    rw [List.range_succ, List.foldl_append, List.foldl_cons, List.foldl_nil]
    have hlane := Dev.mchkLane_checked (d := (List.range n).foldl (fun d j => d.mchkLane (64 * k + j)) d) (k := k)
      (L := 64 * k + n) (by omega)
    refine ⟨(congrArg (fun v => v.1) hlane).trans hregs, (congrArg (fun v => v.2.1) hlane).trans hactive, fun j hj => ?_⟩
    refine (congrArg (fun v => v.2.2 (64 * k + j)) hlane).trans ?_
    dsimp only
    split
    · rfl
    · exact hrecs j (by omega)

/-- The device that a machine check leaves. -/
theorem Dev.machineCheck_checked (hm : d.on (CL_STATE.MCHK k) = false) (upc thread cause code word : Nat) :
    (d.machineCheck k upc thread cause code word).checked k = ((List.range 64).foldl (fun d j => d.mchkLane (64 * k + j))
      (d.mchkNoted k upc thread cause code word)).checked k := by
  have hirq : clearOf k (PAGE_IRQ_STAT (Page.seq k).base) := clearOf_seq k (by decide)
  have hraise : ∀ e : Dev, (if cause = 0 then e.raise (256 + 112 * k + 103) 0x28 4 (upc + 2048 * thread) (e.holdersIn k)
      else if cause = 3 then e.raise (256 + 112 * k + 103) 0x29 4 (upc + 2048 * thread + 262144 * code) (e.holdersIn k)
      else e).checked k = e.checked k := fun e => by
    split
    · exact Dev.raise_checked_seq k ..
    · exact checked_if (Dev.raise_checked_seq k ..)
  unfold Dev.machineCheck
  rw [if_neg (by simp [hm])]
  dsimp only
  rw [dif_pos k.isLt]
  exact (Dev.irqOwner_checked _ _ hirq).trans ((Dev.abortMaint_checked _).trans (hraise _))

end

section
variable {k : Clu}

/-- A machine check that meets no other leaves its two words, no thread on the engine and no record in the lanes. -/
theorem Dev.machineCheck_shows (hm : d.on (CL_STATE.MCHK k) = false) (upc thread cause code word : Nat) :
    (∀ lo w, lo + w ≤ 32 → (d.machineCheck k upc thread cause code word).get ⟨CL_STATE k, lo, w⟩
        = (d.mchkNoted k upc thread cause code word).get ⟨CL_STATE k, lo, w⟩)
      ∧ (∀ lo w, lo + w ≤ 32 → (d.machineCheck k upc thread cause code word).get ⟨SEQ_MCHK_INFO k, lo, w⟩
        = (d.mchkNoted k upc thread cause code word).get ⟨SEQ_MCHK_INFO k, lo, w⟩)
      ∧ ((d.machineCheck k upc thread cause code word).cl k).active = none
      ∧ ∀ j : Fin 64, ((d.machineCheck k upc thread cause code word).lane (64 * k + j)).records = [] := by
  have hend := Dev.machineCheck_checked hm upc thread cause code word
  obtain ⟨hregs, hactive, hrecs⟩ := Dev.mchkLanes_checked (k := k) 64 (by decide) (d.mchkNoted k upc thread cause code word)
  have hwords := (congrArg (fun v => v.1) hend).trans hregs
  refine ⟨fun lo w h => ?_, fun lo w h => ?_, ?_, fun j => ?_⟩
  · rw [Dev.get_narrow _ h, Dev.get_narrow _ h]
    exact congrArg (fun v : Word × Word => v.1.toNat / 2 ^ lo % 2 ^ w) hwords
  · rw [Dev.get_narrow _ h, Dev.get_narrow _ h]
    exact congrArg (fun v : Word × Word => v.2.toNat / 2 ^ lo % 2 ^ w) hwords
  · exact (congrArg (fun v => v.2.1) hend).trans (hactive.trans (Dev.mchkNoted_active ..))
  · exact (congrArg (fun v => v.2.2 (64 * k + j)) hend).trans (hrecs j j.isLt)

/-- What the two words of a machine check say. -/
theorem Dev.machineCheck_words (hm : d.on (CL_STATE.MCHK k) = false) (upc thread cause code word : Nat) :
    (d.machineCheck k upc thread cause code word).get (CL_STATE.MCHK k) = 1
      ∧ (d.machineCheck k upc thread cause code word).get (SEQ_MCHK_INFO.VALID k) = 1
      ∧ (d.machineCheck k upc thread cause code word).get (SEQ_MCHK_INFO.CAUSE k) = cause % 4
      ∧ (d.machineCheck k upc thread cause code word).get (SEQ_MCHK_INFO.UPC k) = upc % 2048
      ∧ (d.machineCheck k upc thread cause code word).get (SEQ_MCHK_INFO.THREAD k) = thread % 128 := by
  obtain ⟨hstate, hinfo, -⟩ := Dev.machineCheck_shows hm upc thread cause code word
  obtain ⟨hvalid, hcause, hupc, hthread⟩ := Dev.mchkNoted_info (d := d) (k := k) upc thread cause code word
  exact ⟨(hstate 28 1 (by decide)).trans (Dev.mchkNoted_clState (lo := 0) (w := 0) _ _ _ _ _ (by decide)).1,
    (hinfo 31 1 (by decide)).trans hvalid, (hinfo 18 2 (by decide)).trans hcause,
    (hinfo 0 11 (by decide)).trans hupc, (hinfo 11 7 (by decide)).trans hthread⟩

/-- A machine check leaves the bits of CL_STATE below its own. -/
theorem Dev.machineCheck_clState (hm : d.on (CL_STATE.MCHK k) = false) (upc thread cause code word : Nat) {lo w : Nat}
    (hw : lo + w ≤ 28) : (d.machineCheck k upc thread cause code word).get ⟨CL_STATE k, lo, w⟩ = d.get ⟨CL_STATE k, lo, w⟩ :=
  ((Dev.machineCheck_shows hm upc thread cause code word).1 lo w (by omega)).trans (Dev.mchkNoted_clState _ _ _ _ _ hw).2

/-! ### The end of a word (R143) -/

/-- A word that fails parity is a machine check, whatever the command names. -/
theorem Dev.uop_of_parity {ti : Nat} (ho : d.onEngine k = some ti) (hp : evenParity ((d.cl k).word (d.cl k).upc) = true)
    (op : Nat) (w : Micro) (f : UOp) :
    d.uop k op w f = d.machineCheck k (d.cl k).upc ti 0 0 ((d.cl k).word (d.cl k).upc).toNat := by
  unfold Dev.uop
  rw [ho]
  dsimp only
  rw [if_pos hp]

/-- A word that fails parity reads and writes no HBM. -/
theorem Dev.not_hbmOutside_of_parity (hp : evenParity ((d.cl k).word (d.cl k).upc) = true) (op : Nat) (w : Micro) :
    d.hbmOutside k op w = false := by
  unfold Dev.hbmOutside
  split
  · rfl
  · by_cases hw : (d.cl k).word (d.cl k).upc = microWord op w
    · rw [← hw, hp, Bool.not_true, Bool.and_false, Bool.false_and]
    · rw [beq_false_of_ne hw, Bool.false_and, Bool.false_and]

theorem on_uop_of_parity {s : State} {ti : Nat} (ho : s.onEngine k = some ti)
    (hp : evenParity ((s.cl k).word (s.cl k).upc) = true) (op : Nat) (w : Micro) (f : UOp) :
    (s.on fun d => d.uop k op w f)
      = .next { s with toDev := s.machineCheck k (s.cl k).upc ti 0 0 ((s.cl k).word (s.cl k).upc).toNat } :=
  congrArg (fun d : Dev => (Host.Outcome.next { s with toDev := d } : Result)) (Dev.uop_of_parity ho hp op w f)

/-- Every micro-op on a word that fails parity is the machine check. -/
theorem exec_micro_of_parity {i : Instr} {s : State} {ti : Nat} (hi : microOf i = some k) (ho : s.onEngine k = some ti)
    (hp : evenParity ((s.cl k).word (s.cl k).upc) = true) :
    exec i s = .next { s with toDev := s.machineCheck k (s.cl k).upc ti 0 0 ((s.cl k).word (s.cl k).upc).toNat } := by
  have hin := Dev.not_hbmOutside_of_parity hp
  cases i with
  | uHbmrd j w =>
    cases hi
    exact (if_neg (by simp [hin])).trans (on_uop_of_parity ho hp ..)
  | uHbmwr j w =>
    cases hi
    exact (if_neg (by simp [hin])).trans (on_uop_of_parity ho hp ..)
  | uNop j w | uMov j w | uAdd j w | uSub j w | uAnd j w | uOr j w | uXor j w | uShl j w | uShr j w | uSar j w | uLdi j w
  | uCmp j w | uTst j w | uMin j w | uMax j w | uSext j w | uFld j w | uNexti j w | uEndt j w | uJpc j w | uPushl j w
  | uEndl j w | uPushc j w | uPopc j w | uPerq j w | uCanq j w | uCtxq j w | uMatq j w | uFireq j w | uMeasq j w | uWaitq j w
  | uHaltq j w | uStopl j w | uBr j w | uCallu j w | uRetu j w | uTrap j w | uLdx j w | uStx j w | uHbmsync j w | uSigf j w
  | uMbox j w | uSell j w | uFlip j w | uInvc j w | uFetchq j w | uReti j w =>
    cases hi
    exact on_uop_of_parity ho hp ..
  | _ => cases hi

end

section
variable {k : Clu} {ti : Nat} {w : Micro} {t : Thread} {nxt : Nat}

theorem Dev.active_of_onEngine (h : d.onEngine k = some ti) : (d.cl k).active = some ti := by
  unfold Dev.onEngine at h
  dsimp only at h
  split at h
  · cases h
  · exact h

theorem Dev.active_of_fetches {op : Nat} (h : d.fetches k op w ti = true) : (d.cl k).active = some ti := by
  simp only [Dev.fetches, Bool.and_eq_true, beq_iff_eq] at h
  exact Dev.active_of_onEngine h.1.1

theorem Dev.cl_setThread (i : Nat) (t : Thread) (j : Nat) : (d.setThread k i t).cl j
    = if j = k then { d.cl j with threads := tput (fun _ => {}) (d.cl j).threads i t } else d.cl j := by
  unfold Dev.setThread
  exact Dev.cl_modCl ..

theorem Dev.thread_setThread (i : Nat) (t : Thread) : ((d.setThread k i t).cl k).thread i = t := by
  rw [Dev.cl_setThread, if_pos rfl]
  exact tget_tput_same ..

/-- A word without COMMIT and IRQ_OK goes on at its next address. -/
theorem Dev.uopEnd_goes (hc : w.commit = false) (hi : w.irqOk = false) (ht : ti < 64) :
    d.uopEnd k ti w t false nxt = (d.setThread k ti t).modCl k fun c => { c with upc := nxt } := by
  unfold Dev.uopEnd
  simp [hc, hi, Nat.not_le.mpr ht]

/-- A word with IRQ_OK and without COMMIT stands at a dispatch point. -/
theorem Dev.uopEnd_dispatches (hc : w.commit = false) (hi : w.irqOk = true) (ht : ti < 64) :
    d.uopEnd k ti w t false nxt
      = (d.setThread k ti { t with resume := some nxt }).modCl k fun c => { c with atDispatch := true } := by
  unfold Dev.uopEnd
  simp [hc, hi, Nat.not_le.mpr ht]

/-- The end of a word sets the thread, and then the cluster's engine alone. -/
theorem Dev.modCl_setThread_thread (e : Dev) (g : Cluster → Cluster) (hg : ∀ c, (g c).threads = c.threads) :
    (((e.setThread k ti t).modCl k g).cl k).thread ti = t := by
  rw [Dev.cl_modCl, if_pos rfl]
  unfold Cluster.thread
  rw [hg]
  exact Dev.thread_setThread ti t

/-- COMMIT leaves the thread without a shadow. -/
theorem Dev.uopEnd_commit (hc : w.commit = true) : (((d.uopEnd k ti w t false nxt).cl k).thread ti).shadow = []
    ∧ (((d.uopEnd k ti w t false nxt).cl k).thread ti).mustCommit = false := by
  unfold Dev.uopEnd
  simp only [hc, if_true, Bool.false_eq_true, if_false]
  split
  · rw [Dev.modCl_setThread_thread _ (fun c => { c with atDispatch := true }) fun _ => rfl]
    exact ⟨rfl, rfl⟩
  · rw [Dev.modCl_setThread_thread _ (fun c => { c with upc := nxt }) fun _ => rfl]
    exact ⟨rfl, rfl⟩

/-- ENDT leaves no thread on the engine. -/
theorem Dev.uopEnd_ends : ((d.uopEnd k ti w t true nxt).cl k).active = none
    ∧ (d.uopEnd k ti w t true nxt).get (SEQ_STAT.ACTIVE k) = 0 := by
  unfold Dev.uopEnd
  simp only [if_true]
  refine ⟨?_, Dev.get_set_word (show 2 + 3 ≤ 32 by decide) 0⟩
  show (((Dev.modCl _ k _).set (SEQ_STAT.ACTIVE k) 0).cl k).active = none
  unfold Dev.cl
  rw [Dev.set_clusters]
  show ((Dev.modCl _ k _).cl k).active = none
  rw [Dev.cl_modCl, if_pos rfl]

end

/-! ### An error of a crossing FIFO with no check before it (R23) -/

/-- The FIFO is marked, and the check of cause 1 stands. -/
theorem Dev.fifoError_checks {k : Clu} {n : Fin 3} (hp : d.powered k = true) (hm : d.get (CL_STATE.MCHK k) = 0) :
    (d.fifoError k n).get (CL_STATE.MCHK k) = 1 ∧ (d.fifoError k n).get (SEQ_MCHK_INFO.CAUSE k) = 1
      ∧ (d.fifoError k n).get (SEQ_MCHK_INFO.VALID k) = 1 ∧ ((d.fifoError k n).cl k).active = none
      ∧ (d.fifoError k n).get ⟨CL_STATE k, 24 + n, 1⟩ = 1 := by
  have hw : 24 + n.val + 1 ≤ 32 := by omega
  have hap : Fld.apart ⟨CL_STATE k, 24 + n, 1⟩ (CL_STATE.MCHK k) = true := by
    simp only [Fld.apart, Bool.and_eq_true, Bool.or_eq_true, decide_eq_true_eq]
    omega
  obtain ⟨e, he⟩ : ∃ e, ((d.stick ⟨CL_STATE k, 24 + n, 1⟩).raise (256 + 112 * k + 107) 0x18 3
    ((d.stick ⟨CL_STATE k, 24 + n, 1⟩).get (CL_STATE.FIFO_ERR k)) ((d.stick ⟨CL_STATE k, 24 + n, 1⟩).holdersIn k)).fifoDrop
      k n = e := ⟨_, rfl⟩
  have hon : e.on (CL_STATE.MCHK k) = false := by
    rw [← he]
    unfold Dev.on
    rw [Dev.fifoDrop_get, Dev.get_raise _ (Dev.clState_aside k (by decide)), Dev.get_stick_ne _ hap, hm]
    rfl
  have hbit : e.get ⟨CL_STATE k, 24 + n, 1⟩ = 1 := by
    rw [← he, Dev.fifoDrop_get, Dev.get_raise _ (Dev.clState_aside k hw), Dev.get_stick _ hw]
    rfl
  unfold Dev.fifoError
  rw [if_neg (by simp [hp])]
  dsimp only
  rw [he]
  obtain ⟨hmchk, hvalid, hcause, -⟩ := Dev.machineCheck_words hon _ _ 1 0 0
  exact ⟨hmchk, hcause, hvalid, (Dev.machineCheck_shows hon _ _ 1 0 0).2.2.1,
    (Dev.machineCheck_clState hon _ _ 1 0 0 (by omega)).trans hbit⟩

/-! ### The statement -/

section
variable {s : State} {k : Clu} {w : Micro} {ti : Nat}

theorem exec_uNop (h : s.fetches k 0x00 w ti = true) : exec (.uNop k w) s
    = .next { s with toDev := s.uopEnd k ti w ((s.cl k).thread ti) false w.next.toNat } :=
  congrArg (fun d : Dev => (Host.Outcome.next { s with toDev := d } : Result)) (Dev.uop_end h rfl rfl)

theorem exec_uEndt (h : s.fetches k 0x12 w ti = true) : exec (.uEndt k w) s
    = .next { s with toDev := s.uopEnd k ti w ((s.cl k).thread ti) true w.next.toNat } :=
  congrArg (fun d : Dev => (Host.Outcome.next { s with toDev := d } : Result)) (Dev.uop_end h rfl rfl)

/-- Another cluster is as it was. -/
theorem Dev.cl_setThread_modCl_ne {d : Dev} {t : Thread} {g : Cluster → Cluster} {j : Nat} (hj : j ≠ k) :
    ((d.setThread k ti t).modCl k g).cl j = d.cl j := by
  rw [Dev.cl_modCl, if_neg hj, Dev.cl_setThread, if_neg hj]

theorem Dev.cl_setThread_modCl {d : Dev} {t : Thread} {g : Cluster → Cluster} :
    ((d.setThread k ti t).modCl k g).cl k = g { d.cl k with threads := tput (fun _ => {}) (d.cl k).threads ti t } := by
  rw [Dev.cl_modCl, if_pos rfl, Dev.cl_setThread, if_pos rfl]

theorem nop_goes_on (h : s.fetches k 0x00 w ti = true) (hc : w.commit = false) (hi : w.irqOk = false) (ht : ti < 64) :
    ∃ t, exec (.uNop k w) s = .next t ∧ (t.cl k).upc = w.next.toNat ∧ (t.cl k).active = some ti
      ∧ (t.cl k).thread ti = (s.cl k).thread ti ∧ t.regs = s.regs ∧ t.lanes = s.lanes
      ∧ (∀ j : Clu, j ≠ k → t.cl j = s.cl j) := by
  refine ⟨_, exec_uNop h, ?_⟩
  dsimp only
  rw [Dev.uopEnd_goes hc hi ht, Dev.cl_setThread_modCl]
  exact ⟨rfl, Dev.active_of_fetches h, tget_tput_same .., rfl, rfl,
    fun j hj => Dev.cl_setThread_modCl_ne fun he => hj (Fin.ext he)⟩

theorem nop_dispatches (h : s.fetches k 0x00 w ti = true) (hc : w.commit = false) (hi : w.irqOk = true) (ht : ti < 64) :
    ∃ t, exec (.uNop k w) s = .next t ∧ (t.cl k).atDispatch = true ∧ (t.cl k).upc = (s.cl k).upc
      ∧ (t.cl k).thread ti = { (s.cl k).thread ti with resume := some w.next.toNat } ∧ t.regs = s.regs
      ∧ t.lanes = s.lanes := by
  refine ⟨_, exec_uNop h, ?_⟩
  dsimp only
  rw [Dev.uopEnd_dispatches hc hi ht, Dev.cl_setThread_modCl]
  exact ⟨rfl, rfl, tget_tput_same .., rfl, rfl⟩

theorem micro_on_bad_parity {i : Instr} (hi : microOf i = some k) (ho : s.onEngine k = some ti)
    (hp : evenParity ((s.cl k).word (s.cl k).upc) = true) :
    ∃ t, exec i s = .next t ∧ t.get (CL_STATE.MCHK k) = 1 ∧ t.get (SEQ_MCHK_INFO.VALID k) = 1
      ∧ t.get (SEQ_MCHK_INFO.CAUSE k) = 0 ∧ t.get (SEQ_MCHK_INFO.UPC k) = (s.cl k).upc % 2048
      ∧ t.get (SEQ_MCHK_INFO.THREAD k) = ti % 128 ∧ (t.cl k).active = none
      ∧ (∀ j : Fin 64, (t.lane (64 * k + j)).records = []) := by
  have hm := Dev.not_mchk_of_onEngine ho
  obtain ⟨hmchk, hvalid, hcause, hupc, hthread⟩ :=
    Dev.machineCheck_words hm (s.cl k).upc ti 0 0 ((s.cl k).word (s.cl k).upc).toNat
  obtain ⟨-, -, hactive, hrecords⟩ :=
    Dev.machineCheck_shows hm (s.cl k).upc ti 0 0 ((s.cl k).word (s.cl k).upc).toNat
  exact ⟨_, exec_micro_of_parity hi ho hp, hmchk, hvalid, hcause, hupc, hthread, hactive, hrecords⟩

theorem crossingFifoError_checks {n : Fin 3} (hp : s.powered k = true) (hm : s.get (CL_STATE.MCHK k) = 0) :
    ∃ t, exec (.crossingFifoError k n) s = .next t ∧ t.get (CL_STATE.MCHK k) = 1 ∧ t.get (SEQ_MCHK_INFO.CAUSE k) = 1
      ∧ t.get (SEQ_MCHK_INFO.VALID k) = 1 ∧ (t.cl k).active = none ∧ (t.reg (CL_STATE k)).getLsbD (24 + n) = true := by
  obtain ⟨hmchk, hcause, hvalid, hactive, hfifo⟩ := Dev.fifoError_checks (n := n) hp hm
  refine ⟨_, rfl, hmchk, hcause, hvalid, hactive, ?_⟩
  have hbit := Dev.get_testBit (s.fifoError k n) (f := ⟨CL_STATE k, 24 + n, 1⟩) (show 24 + n.val + 1 ≤ 32 by omega) 0
  rw [hfifo] at hbit
  exact hbit.symm.trans rfl

end

/-- Settles O7: a word ends by its COMMIT, IRQ_OK and NEXT, and a word of wrong parity and an error of a crossing FIFO
are machine checks. -/
theorem microWordEnds : Obligations.MicroWordEnds := by
  refine ⟨?_, ?_, ?_, ?_, ?_, ?_⟩
  · rintro k w ti s ⟨h, hc, hi, ht⟩
    exact nop_goes_on h hc hi ht
  · rintro k w ti s ⟨h, hc, hi, ht⟩
    exact nop_dispatches h hc hi ht
  · rintro k w ti s ⟨h, hc⟩
    exact ⟨_, exec_uNop h, Dev.uopEnd_commit hc⟩
  · intro k w ti s h
    exact ⟨_, exec_uEndt h, Dev.uopEnd_ends⟩
  · rintro i k ti s ⟨hi, ho, -⟩ hp
    exact micro_on_bad_parity hi ho hp
  · rintro k n s ⟨hp, hm⟩
    exact crossingFifoError_checks hp hm

end Sys2Proof.Machine
end

