-- ==== Sys2Proof/Proofs/Ports.lean ====
section
/-! SUPPORT. What each command at a port leaves alone: the operations that only the ports use, the reads that have an effect,
and the parts of a state from the rest of its device. -/

namespace Sys2Proof.Machine
variable {A : Part → Bool}

/-! ### What only the ports use -/

theorem rest_branch {c : Prop} [Decidable c] {d e : Dev} {r : Dev × (Nat → Word)} (hd : d.rest A = r)
    (he : e.rest A = r) :
    (if c then d else e).rest A = r := by
  rw [rest_ite, hd, he, ite_self]

theorem Dev.startAgain_rest (h : Allows A [.access]) (d : Dev) (key : Nat) (f : Dev → Nat → Word → Dev)
    (hf : ∀ d ss val, (f d ss val).rest A = d.rest A) :
    (d.startAgain key f).rest A = d.rest A := by
  unfold Dev.startAgain
  exact (foldl_rest (fun d _ => hf d _ _) _ _).trans (Dev.withAccess_rest (h.at (by decide)) ..)

theorem Dev.ownerCmd_rest (h : Allows A [.dev 6, .common, .access, .faults]) (d : Dev) (ss : Nat) (pg : Page)
    (val : Word) (f : Dev → Option Dev) (hf : ∀ d e, f d = some e → e.rest A = d.rest A) :
    (d.ownerCmd ss pg val f).rest A = d.rest A := by
  unfold Dev.ownerCmd
  refine Dev.hostWrite_rest h _ _ _ _ _ _ _ _ fun d => ?_
  cases hfd : f d with
  | none => exact Dev.discard_rest h ..
  | some e => exact hf d e hfd

theorem Dev.fltTake_rest (h : Allows A [.dev 6, .faults]) (d : Dev) (m : Msg) : (d.fltTake m).rest A = d.rest A := by
  have hbusy : ∀ (d : Dev) (ss : Nat), (d.set (FLT_INJ_CTRL.BUSY ss) 0).rest A = d.rest A := fun d ss =>
    Dev.set_rest_at (FLT_INJ_CTRL.BUSY ss) (h.sess (by decide)) d 0
  unfold Dev.fltTake
  simp only [Dev.withFaults_rest (h.at (by decide)), Dev.setSource_rest (h.of (by decide)), rest_ite]
  rw [foldl_rest hbusy, Dev.withFaults_rest (h.at (by decide)), ite_self]

theorem Dev.faultCollect_rest (h : Allows A [.dev 6, .faults]) (d : Dev) : d.faultCollect.rest A = d.rest A := by
  unfold Dev.faultCollect
  exact (Dev.withFaults_rest (h.at (by decide)) ..).trans (foldl_rest (Dev.fltTake_rest h) _ _)

theorem Dev.mirrorIrq_rest (h : Allows A [.common, .access, .sessions, .sent]) (d : Dev) (ss : Nat) (m : Msg)
    (fits : Bool) :
    (d.mirrorIrq ss m fits).rest A = d.rest A := by
  unfold Dev.mirrorIrq
  simp only [Dev.irqAt_rest h, rest_ite, ite_self]

theorem State.mirrorWrite_rest (h : Allows A [.common, .access, .faults, .sessions, .sent]) (s : State) (m : Msg)
    (ok : Bool) (ss : Nat) :
    (s.mirrorWrite m ok ss).rest A = s.rest A := by
  unfold State.mirrorWrite
  split
  · rfl
  · exact (Dev.mirrorIrq_rest (h.of (by decide)) ..).trans (Dev.setMirror_rest (h.of (by decide)) ..)

theorem State.devRingWrite_rest (h : Allows A [.common, .access, .faults, .sessions, .sent]) (s : State) (m : Msg)
    (ok : Bool) :
    (s.devRingWrite m ok).rest A = s.rest A := by
  unfold State.devRingWrite
  dsimp only
  split
  · exact Dev.withFaults_rest (h.at (by decide)) ..
  · rw [rest_ite, Dev.irqAt_rest (h.of (by decide)), ite_self]
    exact Dev.withFaults_rest (h.at (by decide)) ..

theorem Dev.devSpend_rest (h : Allows A [.sched]) (d : Dev) (n : Nat) {e : Dev}
    (he : d.devSpend n = some e) : e.rest A = d.rest A := by
  unfold Dev.devSpend at he
  split at he
  · cases he
  · cases he
    exact Dev.withSched_rest (h.at (by decide)) ..

theorem State.mirrors_rest (h : Allows A [.common, .access, .faults, .sessions, .sent]) (m : Msg) (ok : Bool)
    (l : List Nat) (s : State) :
    (l.foldl (fun s ss => s.mirrorWrite m ok ss) s).rest A = s.rest A := by
  induction l generalizing s with
  | nil => rfl
  | cons ss l ih => exact (ih _).trans (s.mirrorWrite_rest h m ok ss)

theorem State.faultRingWrite_rest (h : Allows A [.dev 6, .common, .free, .access, .sched, .faults, .sessions, .sent])
    (s : State) (ok : Bool) :
    (s.faultRingWrite ok).rest A = s.rest A := by
  unfold State.faultRingWrite
  split
  · rfl
  · next m rest _ =>
    split
    · rfl
    · next d hd =>
      have hring : ((m.dest.foldl (fun s ss => s.mirrorWrite m ok ss)
          (({ s with toDev := { d with flt := { d.flt with queue := rest } } } : State).devRingWrite m ok)).rest A) = s.rest A :=
        (State.mirrors_rest (h.of (by decide)) ..).trans ((State.devRingWrite_rest (h.of (by decide)) ..).trans
          ((Dev.withFaults_rest (h.at (by decide)) ..).trans (Dev.devSpend_rest (h.of (by decide)) _ _ hd)))
      dsimp only
      split
      · exact hring
      · exact (Dev.stick_rest_at FLT_STAT.RING_ERR (h.key (by decide)) (h.at (by decide)) _).trans
          ((Dev.draw_rest (h.of (by decide)) _).trans hring)

theorem Dev.ringCoalesce_rest (h : Allows A [.rings, .sessions, .sent]) (d : Dev) (n : Nat) :
    (d.ringCoalesce n).rest A = d.rest A := by
  unfold Dev.ringCoalesce
  split
  · rfl
  · split
    · rfl
    · rw [rest_ite, Dev.ringMsg_rest (h.of (by decide)), ite_self]

theorem Dev.linkUp_rest (h : Allows A [.sessions, .links]) (d : Dev) (p n : Nat) :
    (d.linkUp p n).rest A = d.rest A := by
  unfold Dev.linkUp Dev.setLink
  dsimp only
  split
  · rfl
  · exact (foldl_rest (fun _ _ => Dev.modSn_rest (h.of (by decide)) ..) _ _).trans
      ((Dev.modSn_rest (h.of (by decide)) ..).trans (Dev.withLinks_rest (h.at (by decide)) ..))

theorem Dev.missIf_rest (h : Allows A [.dev 9]) (d : Dev) (ss : Nat) (c : Bool) :
    (d.missIf ss c).rest A = d.rest A := by
  unfold Dev.missIf
  rw [rest_ite, Dev.bump_rest_at (SESS_BAR2_MISS.COUNT ss) (h.sess (by decide)), ite_self]

theorem State.bar2Read_rest (h : Allows A [.dev 6, .dev 9, .common, .access, .sched, .faults, .sent, .reply]) {ss : Nat}
    (s : State) (a n : Nat) : (s.bar2Read ss a n).rest A = s.rest A := by
  unfold State.bar2Read
  dsimp only
  split
  · exact Dev.withSent_rest (h.at (by decide)) ..
  · have hread : ∀ (reply : List Byte) (replyEp c : Bool),
        ((({ s.toDev with reply, replyEp } : Dev).missIf ss c).flowBytes
          (16 + ss) n).rest A = s.rest A := fun reply ep c =>
      (Dev.flowBytes_rest (h.of (by decide)) ..).trans ((Dev.missIf_rest (h.of (by decide)) ..).trans
        (Dev.withReply_rest (h.at (by decide)) ..))
    split
    · exact hread _ _ _
    · exact (Dev.raise_rest_at (h.of (by decide)) (by decide) ..).trans (hread _ _ _)

theorem State.bar2Write_rest (h : Allows A [.dev 6, .dev 9, .common, .access, .sched, .faults, .poison]) (s : State)
    (ss : Sess)
    (a : Nat) (bytes : List Byte) (ep : Bool) : (s.bar2Write ss a bytes ep).rest A = s.rest A := by
  unfold State.bar2Write
  dsimp only
  split
  · rfl
  · split
    · exact Dev.raise_rest_at (h.of (by decide)) (by omega) ..
    · exact (Dev.withPoison_rest (h.at (by decide)) ..).trans ((Dev.flowBytes_rest (h.of (by decide)) ..).trans
        (Dev.missIf_rest (h.of (by decide)) ..))

theorem Dev.msixChange_rest (h : Allows A [.access, .sessions, .sent]) (d : Dev) (ss : Nat) (c : MsixChange) :
    (d.msixChange ss c).rest A = d.rest A := by
  unfold Dev.msixChange
  split
  · rfl
  · split
    · simp only [Dev.stall_rest (h.of (by decide)), Dev.vecMask_rest (h.of (by decide)), rest_ite, ite_self]
    all_goals rw [Dev.msixFlush_rest (h.of (by decide)), Dev.modSn_rest (h.of (by decide))]

theorem Dev.nvmData_rest (h : Allows A [.dev 11]) (d : Dev) (ss : Nat) (bytes : List Byte) :
    (d.nvmData ss bytes).rest A = d.rest A := by
  have hdata : ∀ w : Nat, w < 64 → A (keyPart (NVM_DATA ss w)) = true := fun w hw => by
    rw [keyPart_sess]
    exact h.dev (n := 11) (by decide) (by decide) (show 0xB020 ≤ 0xB200 + 4 * w by omega)
      (show 0xB200 + 4 * w < 0xC000 by omega)
  unfold Dev.nvmData
  exact foldl_rest_mem (fun d w hw => Dev.setReg_rest_at (hdata w (List.mem_range.mp hw)) ..) _

theorem Dev.drawBytes_rest (h : Allows A [.free]) (d : Dev) (n : Nat) : (d.drawBytes n).2.rest A = d.rest A := by
  induction n generalizing d with
  | zero => rfl
  | succ n ih => exact (ih _).trans (Dev.draw_rest h d)

theorem Dev.nvmResult_rest (h : Allows A [.dev 11, .free]) (d : Dev) (nvm : List Host.Cell) (c : NvmCmd)
    (readErr : Bool) :
    (d.nvmResult nvm c readErr).rest A = d.rest A := by
  unfold Dev.nvmResult
  dsimp only
  split
  · rw [Dev.nvmData_rest (h.of (by decide))]
    split
    · exact Dev.drawBytes_rest (h.of (by decide)) ..
    · rfl
  · rw [Dev.set_rest_at (NVM_RESULT.CRC c.session) (h.sess (by decide))]
    split
    · exact Dev.draw_rest (h.of (by decide)) ..
    · rfl

theorem Dev.dbgRise_rest (h : Allows A [.dev 7, .common, .access, .sessions, .security, .sent]) (d : Dev)
    (level : Nat) :
    (d.dbgRise level).rest A = d.rest A := by
  unfold Dev.dbgRise
  simp only [Dev.irqAll_rest (h.of (by decide)), Dev.set_rest_at SEC_STAT.DBG_LEVEL (h.key (by decide)),
    Dev.withSecurity_rest (h.at (by decide)), rest_ite, ite_self]

/-- An instruction of the JTAG port loads the instruction register and its data register. -/
theorem Dev.withJtag_rest (h : Allows A [.security, .tdo]) (d : Dev) (sec : Security) (tdo : List Byte) :
    ({ d with sec, tdo } : Dev).rest A = d.rest A :=
  (Dev.withTdo_rest (h.at (by decide)) { d with sec } tdo).trans (Dev.withSecurity_rest (h.at (by decide)) d sec)

theorem Dev.challenge_rest (h : Allows A [.dev 6, .dev 7, .common, .free, .access, .clusters, .faults, .security,
    .tdo]) (d : Dev) (level : Nat) :
    (d.challenge level).rest A = d.rest A := by
  unfold Dev.challenge
  dsimp only
  split
  · exact (Dev.dbgDrop_rest (h.of (by decide)) ..).trans (Dev.withJtag_rest (h.of (by decide)) ..)
  · split
    · exact Dev.withJtag_rest (h.of (by decide)) ..
    · exact (Dev.withJtag_rest (h.of (by decide)) ..).trans ((Dev.drawBytes_rest (h.of (by decide)) ..).trans
        (Dev.withJtag_rest (h.of (by decide)) ..))

theorem Dev.authFail_rest (h : Allows A [.dev 6, .dev 7, .common, .access, .faults, .security]) (d : Dev) :
    d.authFail.rest A = d.rest A := by
  unfold Dev.authFail
  simp only [Dev.withSecurity_rest (h.at (by decide)), Dev.set_rest_at SEC_STAT.LOCKOUT (h.key (by decide)),
    Dev.raise_rest_at (h.of (by decide)) (show 7 < 4096 by decide), Dev.bump_rest_at SEC_AUTH.FAILS (h.key
      (by decide)), rest_ite, ite_self]

theorem Dev.response_rest (h : Allows A [.dev 6, .dev 7, .common, .access, .faults, .sessions, .security, .sent,
    .tdo]) (d : Dev) (key sig : List Byte) :
    (d.response key sig).rest A = d.rest A := by
  unfold Dev.response
  dsimp only
  split
  · exact (Dev.authFail_rest (h.of (by decide)) _).trans (Dev.withJtag_rest (h.of (by decide)) ..)
  · rw [rest_ite, Dev.authFail_rest (h.of (by decide)), Dev.dbgRise_rest (h.of (by decide)),
      Dev.set_rest_at SEC_AUTH.FAILS (h.key (by decide)), ite_self]
    exact Dev.withJtag_rest (h.of (by decide)) ..

theorem Dev.extest_rest (h : Allows A [.free, .security, .tdo]) (d : Dev) (cells : BitVec 25) :
    (d.extest cells).rest A = d.rest A := by
  unfold Dev.extest
  exact (Dev.withJtag_rest (h.of (by decide)) ..).trans (Dev.draw_rest (h.of (by decide)) d)

/-! ### The mailbox (R391) -/

theorem Dev.imageStart_rest (h : Allows A [.dev 8, .plinth]) (d : Dev) (isB again : Bool) :
    (d.imageStart isB again).rest A = d.rest A := by
  unfold Dev.imageStart Dev.showImage
  simp only [Dev.set_rest_at PLN_FW_VERSION.VERSION (h.key (by decide)), Dev.set_rest_at PLN_FW.RUNNING (h.key
    (by decide)), Dev.withPlinth_rest (h.at (by decide))]

theorem Dev.mboxFromSmb_rest (h : Allows A [.dev 8, .common, .access, .sessions, .plinth, .sent]) (d : Dev)
    (req : List Byte) :
    (d.mboxFromSmb req).rest A = d.rest A := by
  unfold Dev.mboxFromSmb
  rw [Dev.withPlinth_rest (h.at (by decide))]
  split
  · exact Dev.mboxAnswer_rest h ..
  · rfl

theorem Dev.mboxEnd_rest (h : Allows A [.dev 8, .common, .access, .sessions, .plinth, .sent]) (d : Dev)
    (who : Option Nat) (req : List Byte) (status : Nat) (payload : List Byte) :
    (d.mboxEnd who req status payload).rest A = d.rest A := by
  unfold Dev.mboxEnd
  rw [Dev.startAgain_rest (h.of (by decide)) _ _ _ fun d ss _ => Dev.mboxGo_rest h d ss, Dev.mboxAnswer_rest h,
    Dev.withPlinth_rest (h.at (by decide))]

theorem Dev.mboxState_rest (h : Allows A [.dev 8, .common, .free, .access, .sessions, .plinth, .sent]) (d : Dev) :
    d.mboxState.rest A = d.rest A := by
  unfold Dev.mboxState
  split
  · rfl
  · exact (Dev.mboxEnd_rest (h.of (by decide)) ..).trans (Dev.draw_rest (h.of (by decide)) d)

theorem Dev.mboxTrips_rest (h : Allows A [.dev 8, .common, .access, .sessions, .plinth, .sent]) (d : Dev) :
    d.mboxTrips.rest A = d.rest A := by
  unfold Dev.mboxTrips
  split
  · rfl
  · split
    · exact Dev.mboxEnd_rest h ..
    · split
      · exact Dev.mboxEnd_rest h ..
      · exact Dev.mboxEnd_rest h ..

theorem Dev.mboxPatina_rest (h : Allows A [.dev 8, .common, .access, .sessions, .plinth, .sent]) (d : Dev)
    (nvm : List Host.Cell) :
    (d.mboxPatina nvm).rest A = d.rest A := by
  unfold Dev.mboxPatina
  split
  · rfl
  · simp only [Dev.mboxEnd_rest h, rest_ite, ite_self]

theorem Dev.mboxWake_rest (h : Allows A [.dev 8, .common, .access, .sessions, .plinth, .sent]) (d : Dev) :
    d.mboxWake.rest A = d.rest A := by
  unfold Dev.mboxWake
  split
  · rfl
  · refine rest_branch (Dev.mboxEnd_rest h ..) ?_
    split
    · dsimp only
      rw [Dev.mboxEnd_rest h, Dev.set_rest_at PLN_CFG.WAKE_S (h.key (by decide)),
        Dev.set_rest_at PLN_CFG.AUTO_WAKE (h.key (by decide))]
    · exact Dev.mboxEnd_rest h ..

theorem State.fwStage_rest (h : Allows A [.dev 8, .common, .free, .access, .sessions, .plinth, .sent]) (s : State)
    (ok : Bool) :
    (s.fwStage ok).rest A = s.rest A := by
  have two : ∀ (pln : Plinth) (free : Nat), ({ s.toDev with pln, free } : Dev).rest A = s.rest A := fun pln free =>
    (Dev.withFree_rest (h.at (by decide)) { s.toDev with pln } free).trans (Dev.withPlinth_rest (h.at
      (by decide)) _ pln)
  unfold State.fwStage
  split
  · rfl
  · dsimp only
    split
    · exact Dev.mboxEnd_rest (h.of (by decide)) ..
    · split
      · exact Dev.mboxEnd_rest (h.of (by decide)) ..
      · split
        · rfl
        · exact (Dev.mboxEnd_rest (h.of (by decide)) ..).trans (two _ _)

theorem State.fwCommit_rest (h : Allows A [.dev 8, .common, .free, .access, .sessions, .plinth, .sent]) (s : State)
    (ok : Bool) :
    (s.fwCommit ok).rest A = s.rest A := by
  have hend := @Dev.mboxEnd_rest A (h.of (by decide))
  have hpln := @Dev.withPlinth_rest A (h.at (by decide))
  unfold State.fwCommit
  split
  · rfl
  · dsimp only
    split
    · exact hend ..
    · split
      · rfl
      · split
        · exact (hend ..).trans (hpln ..)
        · split
          · exact (Dev.withFree_rest (h.at (by decide)) ..).trans ((hend ..).trans (hpln ..))
          · exact (Dev.imageStart_rest (h.of (by decide)) ..).trans ((hend ..).trans ((hpln ..).trans (hpln ..)))

/-! ### Reads that have an effect (R18) -/

theorem Allows.at_page {l : List Part} (h : Allows A l) (pg : Page) (hp : partOf pg ∈ l) {off : Nat} (h1 : 0x20 ≤ off)
    (h2 : off < 0x1000) : A (keyPart (pg.base + off)) = true := by
  rw [keyPart_page _ h2, if_neg (by omega)]
  exact h _ hp

theorem Dev.showReq_rest_at (h : Allows A [.seq]) (d : Dev) (k : Clu) : (d.showReq k).rest A = d.rest A := by
  have hk := h.at_page (.seq k) (by simp [partOf]) (show 0x20 ≤ 0x138 by decide) (by decide)
  unfold Dev.showReq
  simp only [Dev.set_rest_at (SEQ_REQ.PEND0 k) hk, Dev.set_rest_at (SEQ_REQ.PEND1 k) hk, Dev.set_rest_at
    (SEQ_REQ.PEND2 k) hk]

theorem within_lane {t : Target} {k inst : Nat} (h : t.within 0 k (some inst) = true) :
    t.ty = 0 ∧ t.cluster = k ∧ t.trunk = false ∧ t.inst = inst := by
  simp only [Target.within, Option.all_some, Bool.and_eq_true, beq_iff_eq, Bool.not_eq_true'] at h
  obtain ⟨⟨⟨hty, hk⟩, htrunk⟩, hinst⟩ := h
  exact ⟨hty, hk, htrunk, hinst⟩

/-- A slice of a lane is taken back. -/
theorem Dev.sliceBack_rest_at (h : Allows A [.dev 5, .common, .seq, .clusters, .selfTest]) (d : Dev) (i : Nat)
    {sl : Slice}
    {k : Clu} {p : Phy} (hsl : sl.tgt.within 0 k (some p.val) = true) : (d.sliceBack i sl).rest A = d.rest A := by
  obtain ⟨hty, hk, htrunk, hinst⟩ := within_lane hsl
  have hp := h.page (by decide) (.ch k p) (show 0xC < 0x20 by decide)
  unfold Dev.sliceBack Dev.bistMark
  simp only [hty, hk, htrunk, hinst, Bool.false_eq_true, if_false, Nat.zero_le, if_true, show ¬(0 = 6) by decide]
  refine rest_branch ?_ ?_
  · rw [Dev.set_rest_at BIST_CMD_STAT.STATE (h.key (by decide)), Dev.showReq_rest_at (h.of (by decide)),
      Dev.modCl_rest (h.of (by decide)), Dev.set_rest_at (PAGE_STAT.BIST_ACTIVE (chPg k p)) hp,
      Dev.withSelfTest_rest (h.at (by decide)), Dev.setSlice_rest (h.of (by decide))]
  · rw [Dev.showReq_rest_at (h.of (by decide)), Dev.modCl_rest (h.of (by decide)),
      Dev.set_rest_at (PAGE_STAT.BIST_ACTIVE (chPg k p)) hp, Dev.withSelfTest_rest (h.at (by decide)),
      Dev.setSlice_rest (h.of (by decide))]

theorem Dev.serveRegion_rest_at (h : Allows A [.dev 5, .common, .seq, .access, .clusters, .selfTest]) (d : Dev)
    (k : Clu)
    (p : Phy) : (d.serveRegion 0 k p).rest A = d.rest A := by
  unfold Dev.serveRegion Dev.serve
  refine (foldl_rest (fun d i => ?_) _ _).trans (Dev.withAccess_rest (h.at (by decide)) ..)
  split
  · rfl
  · next sl _ =>
    cases hsl : sl.tgt.within 0 k (some p.val) with
    | false => rfl
    | true =>
      exact rest_branch rfl (rest_branch (Dev.sliceBack_rest_at (h.of (by decide)) d i hsl)
        (rest_branch rfl (Dev.setSlice_rest (h.of (by decide)) ..)))

theorem Dev.ctxCapture_rest (h : Allows A [.dev 5, .common, .seq, .access, .lanes, .clusters, .selfTest, .reply])
    (d : Dev)
    (ss : Nat) (k : Clu) (p : Phy) (hp : p.val < 64) : (d.ctxCapture ss (64 * k + p)).rest A = d.rest A := by
  have hdiv : (64 * k.val + p.val) / 64 = k := by omega
  have hmod : (64 * k.val + p.val) % 64 = p := by omega
  have hserve := fun e : Dev => Dev.serveRegion_rest_at (h.of (by decide)) e k p
  have hcapture : ∀ (e : Dev) (f : Lane → Lane) (reply : List Byte),
      (({ e.modLane (64 * k + p) f with reply } : Dev).serveRegion 0 k p).rest A = e.rest A := fun e f reply =>
    (hserve _).trans ((Dev.withReply_rest (h.at (by decide)) _ reply _).trans (Dev.modLane_rest (h.of (by decide)) ..))
  unfold Dev.ctxCapture
  refine rest_branch rfl (rest_branch (Dev.stall_rest (h.of (by decide)) ..) (rest_branch
    (Dev.withReply_rest (h.at (by decide)) d _ d.replyEp) ?_))
  unfold Dev.afterSlices
  simp only [hdiv, hmod]
  refine rest_branch (hcapture ..) (rest_branch ?_ ?_)
  · exact (Dev.stall_rest (h.of (by decide)) ..).trans (hserve d)
  · exact (hcapture ..).trans (hserve d)

theorem Dev.freqCapture_rest (h : Allows A [.access, .freqs, .reply]) (d : Dev) (ss k : Nat) :
    (d.freqCapture ss k).rest A = d.rest A := by
  unfold Dev.freqCapture
  refine rest_branch rfl (rest_branch (Dev.stall_rest (h.of (by decide)) ..) (rest_branch
    (Dev.withReply_rest (h.at (by decide)) d _ d.replyEp) ?_))
  exact (Dev.withReply_rest (h.at (by decide)) (d.modFq k _) _ _).trans (Dev.modFq_rest (h.of (by decide)) ..)

theorem Dev.autoInc_rest (d : Dev) (on : Bool) (f : Fld) (size : Nat) (hk : A (keyPart f.key) = true)
    (hw : decide (f.lo + f.w ≤ 32) = true) : (d.autoInc on f size).rest A = d.rest A := by
  unfold Dev.autoInc
  exact rest_branch (Dev.set_rest_at f hk d _ hw) rfl

theorem Dev.readEffect_rest (h : Allows A [.dev 5, .common, .seq, .ch, .tmu, .access, .lanes, .freqs, .clusters,
    .selfTest, .sessions, .reply])
    (d : Dev) (ss : Nat) (pg : Page) (off : Nat) : (d.readEffect ss pg off).rest A = d.rest A := by
  unfold Dev.readEffect
  refine rest_branch rfl ?_
  cases pg with
  | dev n => exact rest_branch (Dev.modSn_rest (h.of (by decide)) ..) rfl
  | ch k p =>
    have hsel : A (keyPart (CH_TBL_SEL ss k p)) = true := by
      rw [keyPart_sess]
      exact h.at_page (.ch k p) (by simp [partOf]) (show 0x20 ≤ 0x210 by decide) (by decide)
    dsimp only
    split
    · next hc =>
      simp only [Bool.and_eq_true, decide_eq_true_eq] at hc
      exact Dev.ctxCapture_rest (h.of (by decide)) d ss k p hc.2
    · exact rest_branch (Dev.autoInc_rest d _ _ _ hsel rfl) rfl
  | tmu k t =>
    have hsel : A (keyPart (TMU_CD_SEL ss k t)) = true := by
      rw [keyPart_sess]
      exact h.at_page (.tmu k t) (by simp [partOf]) (show 0x20 ≤ 0x120 by decide) (by decide)
    exact rest_branch (Dev.autoInc_rest d _ _ _ hsel rfl) rfl
  | freq k => exact rest_branch (Dev.freqCapture_rest (h.of (by decide)) ..) rfl
  | ctl k | seq k | arm k | pool k => rfl

theorem State.busRead_rest (h : Allows A [.dev 5, .dev 6, .common, .seq, .ch, .tmu, .access, .lanes, .freqs, .clusters,
    .selfTest, .faults, .sessions, .sent, .reply])
    (s : State) (ss addr : Nat) : (s.busRead ss addr).rest A = s.rest A := by
  have hlast : ∀ (e : Dev) (capt : Tbl (Option Word)) (reply : List Byte) (replyEp : Bool),
      ({ e with capt, reply, replyEp } : Dev).rest A = e.rest A := fun e capt reply replyEp =>
    (Dev.withReply_rest (h.at (by decide)) { e with capt } reply replyEp).trans
      (Dev.withAccess_rest (h.at
        (by decide)) e e.hold capt e.fresh e.pageReset e.ports e.again e.undo e.serves e.stalled)
  have hfinish : ∀ e : Dev, e.rest A = s.rest A → ∀ (bad : Option Nat) (capt : Tbl (Option Word)) (reply : List Byte)
    (replyEp : Bool),
      ({ (match bad with | none => e | some a => e.raise 13 0x59 3 (a / 8) [ss]) with capt, reply, replyEp } : Dev).rest A
        = s.rest A := fun e he bad capt reply replyEp => by
    refine (hlast ..).trans ?_
    cases bad with
    | none => exact he
    | some a => exact (Dev.raise_rest_at (h.of (by decide)) (by decide) ..).trans he
  unfold State.busRead
  dsimp only
  split
  · exact Dev.withSent_rest (h.at (by decide)) ..
  · split
    · exact Dev.stall_rest (h.of (by decide)) ..
    · cases placeOf addr with
      | page pg off =>
        have he := s.toDev.readEffect_rest (h.of (by decide)) ss pg off
        dsimp only
        split
        · exact he
        · exact hfinish _ he ..
      | _ =>
        dsimp only
        split
        · rfl
        · exact hfinish _ rfl ..

/-! ### From the rest to the parts -/

theorem Allows.all {l : List Part} (h : l.all A = true) : Allows A l := List.all_eq_true.mp h

theorem AllRegs.of_or {l : List Part} (h : ∀ p, A p = (p.isReg || l.contains p)) : AllRegs A := fun p hp => by
  rw [h, hp, Bool.true_or]

theorem AllRegs.of_not {l : List Part} (h : ∀ p, A p = !l.contains p) (hl : l.all
    (fun q => !q.isReg) = true) : AllRegs A :=
  fun p hp => by
    rw [h, Bool.not_eq_true', List.contains_eq_mem, decide_eq_false_iff_not]
    intro hm
    have hq := List.all_eq_true.mp hl p hm
    rw [hp] at hq
    cases hq

theorem sameRegs_of_rest {s t : State} (hr : t.rest A = s.rest A) {p : Part}
    (hp : A p = false) : sameRegs p s t := fun key hk => by
  have hkey := congrFun (congrArg Prod.snd hr) key
  simpa only [Dev.rest, hk, hp, Bool.false_eq_true, if_false] using hkey

/-- What the rest holds is the same, and the queue and the memories beside it. -/
theorem same_of_rest {s t : State} (hr : t.rest A = s.rest A) (hqueue : t.pending = s.pending)
    (hhbm : A .hbm = false → t.hbm = s.hbm) (hnvm : A .nvm = false → t.nvm = s.nvm) {p : Part} (hp : A p = false) :
    p.same s t := by
  have hd := congrArg Prod.fst hr
  cases p with
  | queue => exact hqueue
  | hbm => exact hhbm hp
  | nvm => exact hnvm hp
  | common | msixTable | dev n | ctl | seq | arm | pool | freq | ch | tmu => exact sameRegs_of_rest hr hp
  | _ =>
    simp only [Dev.rest, Dev.mk.injEq, Parts.mk.injEq, hp, Bool.false_eq_true, if_false] at hd
    simp only [Part.same, hd, and_self]

/-! ### The commands at the ports -/

section
variable {s t u : State}

theorem rest_of_next (hx : (.next u : Result) = .next t) (hu : u.rest A = s.rest A) : t.rest A = s.rest A := by
  cases hx
  exact hu

theorem rest_of_ite {c : Prop} [Decidable c] {a b : Result} (hx : (if c then a else b) = .next t)
    (ha : a = .next t → t.rest A = s.rest A) (hb : b = .next t → t.rest A = s.rest A) : t.rest A = s.rest A := by
  split at hx
  · exact ha hx
  · exact hb hx

theorem cplLimitExpire_rest (h : Allows A [.dev 6, .dev 9, .common, .access, .faults, .sent]) (ss : Sess)
    (addr : BitVec 26)
    (hx : execCplLimitExpire ss addr s = .next t) : t.rest A = s.rest A := by
  have hstall : ∀ (d : Dev) (stalled : List Stalled) (out : List Out),
    ({ d with stalled, out } : Dev).rest A = d.rest A :=
    fun d stalled out => (Dev.withSent_rest (h.at (by decide)) { d with stalled } out).trans
      (Dev.withAccess_rest (h.at
        (by decide)) d d.hold d.capt d.fresh d.pageReset d.ports d.again d.undo d.serves stalled)
  exact rest_of_next hx (rest_branch rfl ((Dev.raise_rest_at (h.of (by decide)) (by decide) ..).trans
    ((Dev.bump_rest_at (SESS_CPL_EXPIRED.COUNT ss) (h.sess (by decide)) ..).trans (hstall ..))))

theorem ringDestroyDone_rest (hr : AllRegs A) (h : Allows A [.access, .clusters, .sched, .faults, .sessions, .rings,
    .sent])
    (n : BitVec 20) (hx : execRingDestroyDone n s = .next t) : t.rest A = s.rest A := by
  refine rest_of_next hx ?_
  show Dev.rest A (match s.ring n.toNat with
    | none => s.toDev
    | some r => if r.dying && r.out == 0 then s.ringFree n.toNat else s.toDev) = _
  split
  · rfl
  · exact rest_branch (Dev.ringFree_rest hr h ..) rfl

theorem nvmCmdDone_rest (h : Allows A [.dev 11, .common, .free, .access, .sessions, .nvmQueue, .sent]) (readErr : Bool)
    (hx : execNvmCmdDone readErr s = .next t) : t.rest A = s.rest A := by
  refine rest_of_next hx ?_
  dsimp only
  split
  · rfl
  · next c rest _ =>
    refine rest_branch rfl ?_
    rw [Dev.startAgain_rest (h.of (by decide)) _ _ _ fun d ss _ => Dev.nvmGo_rest (h.of (by decide)) d ss,
      Dev.nvmPin_rest (h.of (by decide)), Dev.nvmEnd_rest (h.of (by decide)),
      Dev.set_rest_at (NVM_CMD_STAT.STATE c.session) (h.sess (by decide)), Dev.nvmResult_rest (h.of (by decide)),
      Dev.withNvmQueue_rest (h.at (by decide))]

theorem nonceExpire_rest (h : Allows A [.security]) (hx : execNonceExpire s = .next t) : t.rest A = s.rest A := by
  refine rest_of_next hx ?_
  dsimp only
  split
  · rfl
  · exact rest_branch (Dev.withSecurity_rest (h.at (by decide)) ..) rfl

theorem authLockoutExpire_rest (h : Allows A [.dev 7, .security]) (hx : execAuthLockoutExpire s = .next t) :
    t.rest A = s.rest A :=
  rest_of_next hx (rest_branch ((Dev.withSecurity_rest (h.at (by decide)) ..).trans
    (Dev.set_rest_at SEC_STAT.LOCKOUT (h.key (by decide)) ..)) rfl)

theorem mboxInvalidOp_rest (h : Allows A [.dev 8, .common, .access, .sessions, .plinth, .sent])
    (hx : execMboxInvalidOp s = .next t) : t.rest A = s.rest A := by
  refine rest_of_next hx ?_
  dsimp only
  split
  · exact rest_branch (Dev.mboxEnd_rest h ..) rfl
  · rfl

theorem smbMboxWr_rest (h : Allows A [.dev 8, .common, .access, .sessions, .plinth, .sent, .smbReply])
    (bytes : List Byte)
    (hx : execSmbMboxWr bytes s = .next t) : t.rest A = s.rest A :=
  rest_of_next hx (rest_branch ((Dev.smbSay_rest (h.of (by decide)) ..).trans (Dev.mboxFromSmb_rest (h.of
    (by decide)) ..))
    (Dev.smbSay_rest (h.of (by decide)) ..))

theorem dbgClusterStep_rest (hr : AllRegs A) (h : Allows A [.free, .access, .lockGroups, .lanes, .phys, .tmus, .freqs,
    .clusters,
    .lines, .caliper, .sched, .selfTest, .faults, .sessions, .security, .sent, .tdo]) (k : Clu)
    (hx : execDbgClusterStep k s = .next t) : t.rest A = s.rest A :=
  rest_of_ite hx (fun hx => rest_of_next hx (Dev.dbgCluster_rest (h.of (by decide)) _ _ _ fun _ => rfl)) fun hx =>
    rest_of_ite hx (fun hx => nomatch hx) fun hx => rest_of_next hx ((Dev.stepWord_rest hr (h.of (by decide)) ..).trans
      ((State.stepReady_rest hr (h.of (by decide)) ..).trans (Dev.withSecurity_rest (h.at (by decide)) ..)))

/-- A port's command leaves alone what `touches` does not name. -/
theorem exec_port_rest {i : Instr} (hi : sect i = .port) (hx : exec i s = .next t) : t.rest (touches i) = s.rest
    (touches i) := by
  cases i with
  | registerWrite ss addr val =>
    have hr : AllRegs (touches (.registerWrite ss addr val)) := .of_not (fun _ => rfl) (by decide)
    exact rest_of_ite hx (fun hx => rest_of_next hx (State.busStore_rest hr (.all rfl) ..))
      fun hx => rest_of_next hx (Dev.badAccess_rest (.all rfl) ..)
  | blockReset ss pg =>
    have hr : AllRegs (touches (.blockReset ss pg)) := .of_not (fun _ => rfl) (by decide)
    exact rest_of_next hx (Dev.ctrlGate_rest hr (.all rfl) _ _ _ _ _ _ fun d => Dev.blockReset_rest hr (.all rfl) ..)
  | pageEnableWrite ss pg en =>
    have hr : AllRegs (touches (.pageEnableWrite ss pg en)) := .of_not (fun _ => rfl) (by decide)
    exact rest_of_next hx (Dev.ctrlGate_rest hr (.all rfl) _ _ _ _ _ _ fun d =>
      Dev.tracked_rest (.all rfl) _ _ _ _ fun d => Dev.enableSet_rest hr (.all rfl) ..)
  | pageQuiesceWrite ss pg on =>
    have hr : AllRegs (touches (.pageQuiesceWrite ss pg on)) := .of_not (fun _ => rfl) (by decide)
    exact rest_of_next hx (Dev.ctrlGate_rest hr (.all rfl) _ _ _ _ _ _ fun d =>
      Dev.tracked_rest (.all rfl) _ _ _ _ fun d => Dev.quiesceSet_rest hr (.all rfl) ..)
  | reg64LowRead ss addr =>
    exact rest_of_ite hx (fun hx => rest_of_next hx (State.busRead_rest (.all rfl) ..))
      fun hx => rest_of_next hx (Dev.badAccess_rest (.all rfl) ..)
  | bar0BadAccess ss write addr => exact rest_of_next hx (Dev.badAccess_rest (.all rfl) ..)
  | pageClaim ss pg =>
    exact rest_of_next hx (Dev.ownerCmd_rest (.all rfl) _ _ _ _ _ fun d e => Dev.claim_rest (.all rfl) d ss pg)
  | pageRelease ss pg =>
    exact rest_of_next hx (Dev.ownerCmd_rest (.all rfl) _ _ _ _ _ fun d e => Dev.releasePage_rest (.all rfl) d ss pg)
  | pageLockWrite ss pg lock =>
    exact rest_of_next hx (Dev.ownerCmd_rest (.all rfl) _ _ _ _ _ fun d e => Dev.lockPage_rest (.all rfl) d ss pg lock)
  | cplLimitExpire ss addr => exact cplLimitExpire_rest (.all rfl) ss addr hx
  | bistRun ss val | bistClearUnit ss val | bistCompact ss val | bistInvalidCmd ss val =>
    exact rest_of_next hx (Dev.bistCmdWrite_rest (.all rfl) _ ss val)
  | faultCollect => exact rest_of_next hx (Dev.faultCollect_rest (.all rfl) _)
  | faultRingWrite ok => exact rest_of_next hx (State.faultRingWrite_rest (.all rfl) s ok)
  | fltTailWrite ss val => exact rest_of_next hx (Dev.fltTailWrite_rest (.all rfl) ..)
  | fltWinSelWrite ss val => exact rest_of_next hx (Dev.fltWinSelWrite_rest (.all rfl) ..)
  | fltStickyClear ss inj w val => exact rest_of_next hx (Dev.fltStickyClear_rest_at (.all rfl) w.isLt ..)
  | faultInject ss val => exact rest_of_next hx (Dev.fltInjCtrlWrite_rest (.all rfl) ..)
  | linkUp port link => exact rest_of_next hx (Dev.linkUp_rest (.all rfl) ..)
  | sessAttrSet ss val => exact rest_of_next hx (Dev.attrSetWrite_rest (.all rfl) ..)
  | bar2Read ss addr len => exact rest_of_next hx (State.bar2Read_rest (.all rfl) ..)
  | bar2Write ss addr bytes ep => exact rest_of_next hx (State.bar2Write_rest (.all rfl) ..)
  | msixMaskChange ss c => exact rest_of_next hx (Dev.msixChange_rest (.all rfl) ..)
  | ringCreate ss => exact rest_of_next hx (Dev.ringCtrlWrite_rest (.of_or fun _ => rfl) (.all rfl) ..)
  | ringDestroy ss => exact rest_of_next hx (Dev.ringCtrlWrite_rest (.of_or fun _ => rfl) (.all rfl) ..)
  | ringDestroyDone n => exact ringDestroyDone_rest (.of_or fun _ => rfl) (.all rfl) n hx
  | ringDbWrite ss val => exact rest_of_next hx (Dev.ringDbWrite_rest (.of_or fun _ => rfl) (.all rfl) ..)
  | drainBatch n => exact rest_of_next hx (State.drainBatch_rest (.of_or fun _ => rfl) (.all rfl) ..)
  | ringCoalesceExpire n => exact rest_of_next hx (Dev.ringCoalesce_rest (.all rfl) ..)
  | smbIdent => exact rest_of_next hx (rest_branch (Dev.smbSay_rest (.all rfl) ..) (Dev.smbSay_rest (.all rfl) ..))
  | smbMboxRd => exact rest_of_next hx (rest_branch (Dev.smbSay_rest (.all rfl) ..) (Dev.smbSay_rest (.all rfl) ..))
  | smbBadCommand code pecFail => exact rest_of_next hx (Dev.smbSay_rest (.all rfl) ..)
  | smbPower | smbTemps | smbSupplies | smbFaults | smbEpoch =>
    exact rest_of_next hx (Dev.smbServe_rest (.all rfl) _ _ fun d => Dev.smbSay_rest (.all rfl) ..)
  | smbPowerReq b =>
    have hr : AllRegs (touches (.smbPowerReq b)) := .of_not (fun _ => rfl) (by decide)
    exact rest_of_next hx (Dev.smbServe_rest (.all rfl) _ _ fun d =>
      (Dev.smbSay_rest (.all rfl) ..).trans (Dev.powerAsk_rest hr (.all rfl) ..))
  | smbMboxWr bytes => exact smbMboxWr_rest (.all rfl) bytes hx
  | nvmRead ss val | nvmCheck ss val | nvmInvalidCmd ss val =>
    exact rest_of_next hx (Dev.nvmCmdWrite_rest (.all rfl) _ ss val)
  | nvmCmdDone readErr => exact nvmCmdDone_rest (.all rfl) readErr hx
  | lcTargetWrite ss val | lifecycleGo ss val => exact rest_of_next hx (Dev.lcCtrlWrite_rest (.all rfl) _ ss val)
  | dbgLock ss val | dbgClose ss val => exact rest_of_next hx (Dev.dbgCtrlWrite_rest (.all rfl) _ ss val)
  | extest cells =>
    exact rest_of_next hx (rest_branch (Dev.extest_rest (.all rfl) ..) (Dev.asBypass_rest (.all rfl) ..))
  | samplePreload pins cells =>
    exact rest_of_next hx (rest_branch (Dev.withJtag_rest (.all rfl) ..) (Dev.asBypass_rest (.all rfl) ..))
  | clamp | highz =>
    exact rest_of_next hx (rest_branch (Dev.withJtag_rest (.all rfl) ..) (Dev.asBypass_rest (.all rfl) ..))
  | idcode | dbgStatus => exact rest_of_next hx (rest_branch (Dev.withJtag_rest (.all rfl) ..) rfl)
  | bypass => exact rest_of_next hx (Dev.asBypass_rest (.all rfl) ..)
  | dbgChallenge level =>
    exact rest_of_next hx (rest_branch (Dev.challenge_rest (.all rfl) ..) (Dev.asBypass_rest (.all rfl) ..))
  | dbgResponse key sig =>
    exact rest_of_next hx (rest_branch (Dev.response_rest (.all rfl) ..) (Dev.asBypass_rest (.all rfl) ..))
  | nonceExpire => exact nonceExpire_rest (.all rfl) hx
  | authLockoutExpire => exact authLockoutExpire_rest (.all rfl) hx
  | dbgAccess dr =>
    have hr : AllRegs (touches (.dbgAccess dr)) := .of_not (fun _ => rfl) (by decide)
    exact rest_of_ite hx (fun hx => rest_of_next hx ((State.latchLoads_rest (.all rfl) _).trans
      (State.dbgAccess_rest hr (.all rfl) ..)))
      fun hx => rest_of_next hx (Dev.asBypass_rest (.all rfl) ..)
  | dbgClusterHalt k | dbgClusterRun k =>
    exact rest_of_next hx (Dev.dbgCluster_rest (.all rfl) _ _ _ fun d => Dev.modCl_rest (.all rfl) ..)
  | dbgClusterStep k => exact dbgClusterStep_rest (.of_or fun _ => rfl) (.all rfl) k hx
  | sensFaultyWrite ss val =>
    exact rest_of_next hx ((Dev.sensFaultyWord_rest_at (.all rfl) (by decide) (by decide) ..).trans
      (Dev.sensFaultyWord_rest_at (.all rfl) (by decide) (by decide) ..))
  | mboxGetState => exact rest_of_next hx (Dev.mboxState_rest (.all rfl) _)
  | mboxFwStage ok => exact rest_of_next hx (State.fwStage_rest (.all rfl) ..)
  | mboxFwCommit ok => exact rest_of_next hx (State.fwCommit_rest (.all rfl) ..)
  | mboxTripLog => exact rest_of_next hx (Dev.mboxTrips_rest (.all rfl) _)
  | mboxPatinaRead => exact rest_of_next hx (Dev.mboxPatina_rest (.all rfl) ..)
  | mboxSetWake => exact rest_of_next hx (Dev.mboxWake_rest (.all rfl) _)
  | mboxInvalidOp => exact mboxInvalidOp_rest (.all rfl) hx
  | aerError port func uncor => exact rest_of_next hx (Dev.raise_rest_at (.all rfl) (by omega) ..)
  | d3hotTransition ss d3 =>
    exact rest_of_next hx (rest_branch rfl ((Dev.msixFlush_rest (.all rfl) ..).trans (Dev.modSn_rest (.all rfl) ..)))
  | testLogicReset => exact rest_of_next hx (rest_branch (Dev.withSecurity_rest rfl ..) rfl)
  | _ => cases hi

end

/-- Settles O12: what `touches` does not name for a port's command is in the rest that the command leaves alone
(`exec_port_rest`), or in the queue and the memories (`exec_stores`). -/
theorem portCommandsKeepTheRest : Obligations.PortCommandsKeepTheRest := by
  unfold Obligations.PortCommandsKeepTheRest
  rintro i s t p ⟨hi, hp⟩ hx
  have hstores := exec_stores i s t hx
  exact same_of_rest (exec_port_rest hi hx) hstores.queue hstores.hbm_eq hstores.nvm_eq hp

end Sys2Proof.Machine
end

