-- ==== Sys2Proof/Proofs/FrameLanes.lean ====
section
-- Proofs one at a time: run side by side, the whole text outgrows the memory limit of the check.
set_option Elab.async false
/-! SUPPORT. What the lane logic, the program instructions and the loads of a control store leave alone, one lemma for each
operation (`Dev.rest`). -/

namespace Sys2Proof.Machine
variable {A : Part → Bool}

/-! ### Trigger slots, the gate, strobe results (R73, R75, R88) -/

theorem Dev.slotBusyEnd_rest (hr : AllRegs A) (h : Allows A [.lanes]) (d : Dev) (L n : Nat) :
    (d.slotBusyEnd L n).rest A = d.rest A := by
  unfold Dev.slotBusyEnd
  simp only [Dev.set_rest hr, Dev.modLane_rest h, rest_ite, ite_self]

theorem Dev.gateChange_rest (hr : AllRegs A) (h : Allows A [.lanes]) (d : Dev) (L : Nat) :
    (d.gateChange L).rest A = d.rest A := by
  unfold Dev.gateChange
  dsimp only
  split
  · rfl
  · simp only [Dev.setLane_rest h, Dev.set_rest hr, rest_ite, ite_self]

/-- What MATCH makes of a verdict (R118, R119). -/
theorem Dev.finishResult_rest (hr : AllRegs A) (h : Allows A [.access, .lanes, .clusters, .faults, .sessions, .sent])
    (d : Dev) (L : Nat) (r : PendRes) :
    (d.finishResult L r).rest A = d.rest A := by
  unfold Dev.finishResult
  dsimp only
  rw [rest_ite, Dev.emit_rest hr (h.of (by decide)), Dev.modLane_rest (h.of (by decide)), ite_self]
  split
  · simp only [Dev.set_rest hr, Dev.stickIf_rest hr (h.of (by decide))]
  · simp only [Dev.set_rest hr, Dev.stickIf_rest hr (h.of (by decide)), Dev.stick_rest hr (h.of (by decide)),
      Dev.bump_rest hr, Dev.irqOwner_rest (h.plus hr (by decide)), Dev.modLane_rest (h.of (by decide)), rest_ite, ite_self]

theorem Dev.deliverResults_rest (hr : AllRegs A) (h : Allows A [.access, .lanes, .clusters, .faults, .sessions, .sent])
    (d : Dev) (L : Nat) :
    (d.deliverResults L).rest A = d.rest A := by
  unfold Dev.deliverResults
  simp only [Dev.finishResult_rest hr h, Dev.setLane_rest (h.of (by decide)), foldl_rest, implies_true]

theorem Dev.resolveSide_rest (hr : AllRegs A) (h : Allows A [.access, .lanes, .clusters, .faults, .sessions, .sent])
    (d : Dev) (L : Nat) (u : Nat × Nat) (s : StbSide) :
    (d.resolveSide L u s).rest A = d.rest A := by
  unfold Dev.resolveSide
  simp only [Dev.deliverResults_rest hr h, Dev.modLane_rest (h.of (by decide))]

theorem Dev.resolveUses_rest (hr : AllRegs A) (h : Allows A [.access, .lanes, .clusters, .faults, .sessions, .sent])
    (d : Dev) (L : Nat) (uses : List (Nat × Nat)) (s : StbSide) :
    (d.resolveUses L uses s).rest A = d.rest A := by
  unfold Dev.resolveUses
  simp only [Dev.resolveSide_rest hr h, foldl_rest, implies_true]

theorem Dev.strobeSample_rest (hr : AllRegs A) (h : Allows A [.access, .lanes, .clusters, .faults, .sessions, .sent])
    (d : Dev) (L : Nat) (level changed : Bool) :
    (d.strobeSample L level changed).rest A = d.rest A := by
  unfold Dev.strobeSample
  dsimp only
  split
  · rfl
  · simp only [Dev.deliverResults_rest hr h, Dev.resolveSide_rest hr h, Dev.setLane_rest (h.of (by decide)), foldl_rest,
      implies_true, rest_ite, ite_self]

/-! ### The lane logic (R77, R79, R278) -/

theorem Dev.edgeRoute_rest (h : Allows A [.clusters]) (d : Dev) (L eg t : Nat) (uses : List (Nat × Nat)) :
    (d.edgeRoute L eg t uses).2.rest A = d.rest A := by
  unfold Dev.edgeRoute
  dsimp only
  repeat' split
  all_goals simp only [Dev.modCl_rest h]

theorem Dev.launch_rest (hr : AllRegs A) (h : Allows A [.phys, .clusters]) (d : Dev) (L eg t : Nat)
    (uses : List (Nat × Nat)) :
    (d.launch L eg t uses).rest A = d.rest A := by
  unfold Dev.launch
  dsimp only
  split
  · exact Dev.edgeRoute_rest (h.of (by decide)) ..
  · simp only [Dev.wrapUp_rest hr, Dev.setPh_rest (h.of (by decide)), Dev.edgeRoute_rest (h.of (by decide))]

theorem Dev.commitAt_rest (hr : AllRegs A) (h : Allows A [.lanes, .phys, .clusters]) (d : Dev) (L eg t : Nat)
    (uses : List (Nat × Nat)) :
    (d.commitAt L eg t uses).rest A = d.rest A := by
  unfold Dev.commitAt
  simp only [Dev.launch_rest hr (h.of (by decide)), Dev.modLane_rest (h.of (by decide))]

theorem Dev.commitEdge_rest (hr : AllRegs A) (h : Allows A [.access, .lanes, .phys, .clusters]) (d : Dev)
    (L eg t : Nat) :
    (d.commitEdge L eg t).rest A = d.rest A := by
  unfold Dev.commitEdge
  simp only [Dev.set_rest hr, Dev.bump_rest hr, Dev.stick_rest hr (h.of (by decide)), Dev.modLane_rest (h.of (by decide)),
    Dev.commitAt_rest hr (h.of (by decide)), rest_ite, ite_self]

theorem Dev.commitPair_rest (hr : AllRegs A) (h : Allows A [.access, .lanes, .phys, .clusters]) (d : Dev)
    (L set t : Nat) (cs : List Cand) :
    (d.commitPair L set t cs).rest A = d.rest A := by
  unfold Dev.commitPair
  simp only [Dev.stick_rest hr (h.of (by decide)), Dev.commitEdge_rest hr h, Dev.bump_rest hr, rest_ite, ite_self]

theorem Dev.commitStrobe_rest (hr : AllRegs A) (h : Allows A [.access, .lanes, .phys, .clusters, .faults, .sessions,
    .sent]) (d : Dev) (L eg t : Nat) (cs : List Cand) :
    (d.commitStrobe L eg t cs).rest A = d.rest A := by
  unfold Dev.commitStrobe
  simp only [Dev.resolveUses_rest hr (h.of (by decide)), Dev.commitAt_rest hr (h.of (by decide)), Dev.bump_rest hr,
    Dev.stick_rest hr (h.of (by decide)), rest_ite, ite_self]

theorem Dev.candidateCommit_rest (hr : AllRegs A) (h : Allows A [.access, .lanes, .phys, .clusters, .faults, .sessions,
    .sent]) (d : Dev) (L : Nat) :
    (d.candidateCommit L).rest A = d.rest A := by
  unfold Dev.candidateCommit
  dsimp only
  split
  · rfl
  · simp only [Dev.cutCands_rest (h.of (by decide)), Dev.commitStrobe_rest hr h, Dev.commitPair_rest hr (h.of (by decide)),
      Dev.resolveUses_rest hr (h.of (by decide)), Dev.setLane_rest (h.of (by decide)), rest_ite, ite_self]

/-! ### Transitions of a ball (R89, R188 to R190) -/

theorem Dev.cmpStamp_rest (hr : AllRegs A) (h : Allows A [.access, .lanes, .clusters, .faults, .sessions, .sent])
    (d : Dev) (L arrival : Nat) (rise : Bool) :
    (d.cmpStamp L arrival rise).rest A = d.rest A := by
  unfold Dev.cmpStamp
  simp only [Dev.bump_rest hr, Dev.emit_rest hr (h.of (by decide)), Dev.modLane_rest (h.of (by decide)), rest_ite,
    ite_self]

theorem Dev.prescaledEdge_rest (hr : AllRegs A) (h : Allows A [.access, .freqs]) (d : Dev) (k arrival : Nat) :
    (d.prescaledEdge k arrival).rest A = d.rest A := by
  unfold Dev.prescaledEdge
  exact (Dev.setFq_rest (h.of (by decide)) ..).trans (Dev.stickIf_rest hr (h.of (by decide)) ..)

theorem Dev.prescIn_rest (hr : AllRegs A) (h : Allows A [.access, .freqs]) (d : Dev) (k arrival : Nat) (run : FreqRun) :
    (d.prescIn k arrival run).rest A = d.rest A := by
  unfold Dev.prescIn
  simp only [Dev.setFq_rest (h.of (by decide)), Dev.prescaledEdge_rest hr h, rest_ite, ite_self]

theorem Dev.presc_rest (hr : AllRegs A) (h : Allows A [.access, .freqs]) (d : Dev) (L arrival : Nat) (rise : Bool) :
    (d.presc L arrival rise).rest A = d.rest A := by
  unfold Dev.presc
  dsimp only
  split
  · rfl
  · simp only [Dev.prescIn_rest hr h, rest_ite, ite_self]

theorem Dev.finCycle_rest (hr : AllRegs A) (h : Allows A [.access, .freqs]) (d : Dev) (i arrival : Nat) :
    (d.finCycle i arrival).rest A = d.rest A := by
  unfold Dev.finCycle
  refine foldl_rest (fun d k => ?_) _ _
  split
  · rfl
  · simp only [Dev.prescIn_rest hr h, rest_ite, ite_self]

theorem Dev.finTransition_rest (hr : AllRegs A) (h : Allows A [.access, .freqs]) (d : Dev) (i arrival : Nat)
    (level : Bool) :
    (d.finTransition i arrival level).rest A = d.rest A := by
  unfold Dev.finTransition
  simp only [Dev.finCycle_rest hr h, Dev.withFreqs_rest (h.at (by decide)), rest_ite, ite_self]

theorem Dev.cmpTransition_rest (hr : AllRegs A) (h : Allows A [.access, .lanes, .freqs, .clusters, .faults, .sessions,
    .sent]) (d : Dev) (L arrival : Nat) (level : Bool) :
    (d.cmpTransition L arrival level).rest A = d.rest A := by
  unfold Dev.cmpTransition
  simp only [Dev.presc_rest hr (h.of (by decide)), Dev.cmpStamp_rest hr (h.of (by decide)), Dev.modLane_rest (h.of
    (by decide)), rest_ite, ite_self]

/-! ### Ends of a program (R107, R130, R137) -/

theorem Dev.poisonStop_rest (hr : AllRegs A) (h : Allows A [.access, .lockGroups, .lanes, .clusters, .lines, .faults,
    .sessions, .sent]) (d : Dev) (L a : Nat) :
    (d.poisonStop L a).rest A = d.rest A := by
  unfold Dev.poisonStop
  simp only [Dev.raise_rest hr (h.of (by decide)), Dev.progFault_rest hr (h.of (by decide))]

theorem Dev.progUnderrun_rest (hr : AllRegs A) (h : Allows A [.access, .lockGroups, .lanes, .tmus, .freqs, .clusters,
    .lines, .faults, .sessions, .sent]) (d : Dev) (L t : Nat) :
    (d.progUnderrun L t).rest A = d.rest A := by
  unfold Dev.progUnderrun
  simp only [Dev.holdEnter_rest hr (h.of (by decide)), Dev.progFault_rest hr (h.of (by decide)), Dev.raise_rest hr (h.of
    (by decide)), Dev.stick_rest hr (h.of (by decide))]

theorem Dev.underFall_rest (hr : AllRegs A) (h : Allows A [.access, .lockGroups, .lanes, .tmus, .freqs, .clusters,
    .lines, .faults, .sessions, .sent]) (d : Dev) (L : Nat) :
    (d.underFall L).rest A = d.rest A := by
  unfold Dev.underFall
  split
  · rfl
  · simp only [Dev.progUnderrun_rest hr h, rest_ite, ite_self]

theorem Dev.askUnder_rest (hr : AllRegs A) (h : Allows A [.access, .lockGroups, .lanes, .tmus, .freqs, .clusters,
    .lines, .faults, .sessions, .sent]) (d : Dev) (L t : Nat) :
    (d.askUnder L t).rest A = d.rest A := by
  unfold Dev.askUnder
  simp only [Dev.underFall_rest hr h, Dev.modLane_rest (h.of (by decide))]

theorem Dev.decodeEnd_rest (hr : AllRegs A) (h : Allows A [.access, .lockGroups, .lanes, .clusters, .lines, .faults,
    .sessions, .sent]) (d : Dev) (L : Nat) :
    (d.decodeEnd L).rest A = d.rest A := by
  unfold Dev.decodeEnd
  split
  · rfl
  · simp only [Dev.stopAhead_rest hr h, rest_ite, ite_self]

theorem Dev.groupCheckOf_rest (hr : AllRegs A) (h : Allows A [.lockGroups, .lines]) (d : Dev) (L : Nat) :
    (d.groupCheckOf L).rest A = d.rest A := by
  unfold Dev.groupCheckOf
  split
  · rfl
  · exact Dev.groupCheck_rest hr h ..

/-! ### The next instruction (R105, R127, R130) -/

theorem Dev.refill_rest (hr : AllRegs A) (h : Allows A [.lanes]) (d : Dev) (L : Nat) :
    (d.refill L).rest A = d.rest A := by
  unfold Dev.refill
  dsimp only
  split
  · rfl
  · simp only [Dev.setLane_rest h, Dev.set_rest hr, Dev.showDepths_rest hr, rest_ite, ite_self]

theorem Dev.atPc_rest (hr : AllRegs A) (h : Allows A [.access, .lockGroups, .lanes, .clusters, .lines, .faults,
    .sessions, .sent]) (d : Dev) (L : Nat) (iw : BitVec 128) (f : Dev → Dev) (hf : ∀ d, (f d).rest A = d.rest A) :
    (d.atPc L iw f).rest A = d.rest A := by
  unfold Dev.atPc
  simp only [Dev.rangeStop_rest hr h, Dev.poisonStop_rest hr h, Dev.opcodeStop_rest hr h, hf, Dev.pcAdd_rest hr,
    rest_ite, ite_self]

theorem Dev.takeRecWith_rest (hr : AllRegs A) (h : Allows A [.access, .lockGroups, .lanes, .tmus, .freqs, .clusters,
    .lines, .faults, .sessions, .sent]) (d : Dev) (L : Nat) (iw : BitVec 128) (op : Nat) (kind : RecKind)
    (due : Option Nat) (f : Dev → Rec → Dev) (hf : ∀ d r, (f d r).rest A = d.rest A) :
    (d.takeRecWith L iw op kind due f).rest A = d.rest A := by
  unfold Dev.takeRecWith
  rw [rest_ite]
  dsimp only
  split
  · rfl
  · split
    · simp only [Dev.askUnder_rest hr h, Dev.decodeEnd_rest hr (h.of (by decide)), hf, Dev.modLane_rest (h.of (by decide)),
        Dev.refill_rest hr (h.of (by decide)), rest_ite, ite_self]
    · simp only [Dev.askUnder_rest hr h, Dev.atPc_rest hr (h.of (by decide)), hf, Dev.modLane_rest (h.of (by decide)),
        Dev.refill_rest hr (h.of (by decide)), implies_true, rest_ite, ite_self]

theorem Dev.takeRec_rest (hr : AllRegs A) (h : Allows A [.access, .lockGroups, .lanes, .tmus, .freqs, .clusters,
    .lines, .faults, .sessions, .sent]) (d : Dev) (L : Nat) (iw : BitVec 128) (op : Nat) (kind : RecKind)
    (due : Option Nat) (f : Dev → Dev) (hf : ∀ d, (f d).rest A = d.rest A) :
    (d.takeRec L iw op kind due f).rest A = d.rest A :=
  Dev.takeRecWith_rest hr h d L iw op kind due _ fun d _ => hf d

theorem Dev.takePc_rest (hr : AllRegs A) (h : Allows A [.access, .lockGroups, .lanes, .clusters, .lines, .faults,
    .sessions, .sent]) (d : Dev) (L : Nat) (iw : BitVec 128) (op : Nat) (f : Dev → Dev)
    (hf : ∀ d, (f d).rest A = d.rest A) :
    (d.takePc L iw op f).rest A = d.rest A := by
  unfold Dev.takePc
  rw [rest_ite]
  dsimp only
  split
  · rfl
  · split
    · simp only [Dev.modLane_rest (h.of (by decide)), Dev.refill_rest hr (h.of (by decide)), rest_ite, ite_self]
    · exact (Dev.atPc_rest hr h _ _ _ _ hf).trans (Dev.refill_rest hr (h.of (by decide)) ..)

/-! ### The instructions (R111 to R125) -/

theorem Dev.issuePeriods_rest (hr : AllRegs A) (h : Allows A [.access, .lockGroups, .lanes, .clusters, .lines,
    .sessions, .sent]) (d : Dev) (L : Nat) (iw : BitVec 128) :
    (d.issuePeriods L iw).rest A = d.rest A := by
  unfold Dev.issuePeriods
  simp only [Dev.issuePeriod_rest hr h, Dev.setLane_rest (h.of (by decide)), rest_ite, ite_self, foldl_rest, implies_true]

theorem Dev.ctxInstr_rest (hr : AllRegs A) (h : Allows A [.access, .lockGroups, .lanes, .clusters, .lines, .sessions,
    .sent]) (d : Dev) (L : Nat) (iw : BitVec 128) :
    (d.ctxInstr L iw).rest A = d.rest A := by
  unfold Dev.ctxInstr
  dsimp only
  split
  all_goals simp only [Dev.expandOther_rest (h.of (by decide)), Dev.groupSwitch_rest hr h, Dev.modLane_rest (h.of
    (by decide)), rest_ite, ite_self]

theorem Dev.waitInstr_rest (hr : AllRegs A) (h : Allows A [.lanes]) (d : Dev) (L : Nat) (iw : BitVec 128) :
    (d.waitInstr L iw).rest A = d.rest A := by
  unfold Dev.waitInstr
  simp only [Dev.expandOther_rest h, Dev.modLane_rest h, Dev.set_rest hr, rest_ite, ite_self]

theorem Dev.waitOver_rest (hr : AllRegs A) (h : Allows A [.access, .lockGroups, .lanes, .clusters, .lines, .faults,
    .sessions, .sent]) (d : Dev) (L p : Nat) :
    (d.waitOver L p).rest A = d.rest A := by
  unfold Dev.waitOver
  simp only [Dev.decodeEnd_rest hr h, Dev.set_rest hr, Dev.modLane_rest (h.of (by decide)), rest_ite, ite_self]

theorem Dev.waitTimeout_rest (hr : AllRegs A) (h : Allows A [.access, .lockGroups, .lanes, .clusters, .lines, .faults,
    .sessions, .sent]) (d : Dev) (L : Nat) :
    (d.waitTimeout L).rest A = d.rest A := by
  unfold Dev.waitTimeout
  split
  · rfl
  · simp only [Dev.pcAdd_rest hr, Dev.waitOver_rest hr h, Dev.irqOwner_rest (h.plus hr (by decide)), Dev.bump_rest hr,
      Dev.stick_rest hr (h.of (by decide)), rest_ite, ite_self]

theorem Dev.callInstr_rest (hr : AllRegs A) (h : Allows A [.access, .lockGroups, .lanes, .clusters, .lines, .sessions,
    .sent]) (d : Dev) (L : Nat) (iw : BitVec 128) :
    (d.callInstr L iw).rest A = d.rest A := by
  unfold Dev.callInstr
  simp only [Dev.stackStop_rest hr h, Dev.set_rest hr, Dev.pushCall_rest hr h, rest_ite, ite_self]

theorem Dev.slotState_rest (hr : AllRegs A) (h : Allows A [.clusters]) (d : Dev) (k : Nat) (r : Req) (st : Nat) :
    (d.slotState k r st).rest A = d.rest A := by
  unfold Dev.slotState
  split
  · simp only [Dev.slotIdle_rest hr h, Dev.set_rest hr, rest_ite, ite_self]
  · rfl

theorem Dev.refuse_rest (hr : AllRegs A) (h : Allows A [.access, .clusters, .sched, .faults, .sessions, .rings, .sent])
    (d : Dev) (k : Nat) (r : Req) :
    (d.refuse k r).rest A = d.rest A := by
  unfold Dev.refuse
  dsimp only
  rw [Dev.recordWait_rest hr h]
  repeat' split
  all_goals simp only [Dev.wrapUp_rest hr, Dev.slotState_rest hr (h.of (by decide)), Dev.bump_rest hr]

theorem Dev.poolRequest_rest (hr : AllRegs A) (h : Allows A [.access, .clusters, .sched, .faults, .sessions, .rings,
    .sent]) (d : Dev) (k : Nat) (r : Req) :
    (d.poolRequest k r).rest A = d.rest A := by
  unfold Dev.poolRequest
  simp only [Dev.refuse_rest hr h, Dev.slotState_rest hr (h.of (by decide)), Dev.modCl_rest (h.of (by decide)),
    Dev.setCl_rest (h.of (by decide)), rest_ite, ite_self]

theorem Dev.measure_rest (hr : AllRegs A) (h : Allows A [.access, .clusters, .sched, .faults, .sessions, .rings, .sent])
    (d : Dev) (L : Nat) (iw : BitVec 128) (r : Rec) :
    (d.measure L iw r).rest A = d.rest A := by
  unfold Dev.measure
  exact Dev.poolRequest_rest hr h ..

theorem Dev.matchInstr_rest (h : Allows A [.lanes]) (d : Dev) (L : Nat) (iw : BitVec 128) :
    (d.matchInstr L iw).rest A = d.rest A := Dev.modLane_rest h ..

theorem Dev.fireEmit_rest (hr : AllRegs A) (h : Allows A [.access, .lanes, .clusters, .faults, .sessions, .sent])
    (d : Dev) (L : Nat) :
    (d.fireEmit L).rest A = d.rest A := by
  unfold Dev.fireEmit
  dsimp only
  split
  · rfl
  · simp only [Dev.emit_rest hr (h.of (by decide)), Dev.setLane_rest (h.of (by decide)), rest_ite, ite_self]

theorem Dev.haltInstr_rest (hr : AllRegs A) (h : Allows A [.access, .lockGroups, .lanes, .clusters, .lines, .sessions,
    .sent]) (d : Dev) (L : Nat) :
    (d.haltInstr L).rest A = d.rest A := by
  unfold Dev.haltInstr
  simp only [Dev.groupCheckOf_rest hr (h.of (by decide)), Dev.request2_rest hr (h.of (by decide)), Dev.irqOwner_rest
    (h.plus hr (by decide)), Dev.set_rest hr, Dev.modLane_rest (h.of (by decide))]

theorem Dev.underrun_rest (hr : AllRegs A) (h : Allows A [.access, .lockGroups, .lanes, .tmus, .freqs, .clusters,
    .lines, .faults, .sessions, .sent]) (d : Dev) (L : Nat) :
    (d.underrun L).rest A = d.rest A := by
  unfold Dev.underrun
  simp only [Dev.askUnder_rest hr h, Dev.refill_rest hr (h.of (by decide)), rest_ite, ite_self]

theorem Dev.fetchDone_rest (hr : AllRegs A) (h : Allows A [.access, .lockGroups, .lanes, .clusters, .lines, .faults,
    .sessions, .sent]) (d : Dev) (L line : Nat) (poison : Bool) :
    (d.fetchDone L line poison).rest A = d.rest A := by
  unfold Dev.fetchDone
  simp only [Dev.poisonStop_rest hr h, Dev.rangeStop_rest hr h, Dev.modLane_rest (h.of (by decide)), rest_ite, ite_self]

/-! ### Priming, starting and stopping (R131 to R134) -/

theorem Dev.primeShow_rest (hr : AllRegs A) (h : Allows A [.lanes, .clusters]) (d : Dev) (L : Nat) :
    (d.primeShow L).rest A = d.rest A := by
  unfold Dev.primeShow
  split
  · rfl
  · simp only [Dev.dropPrime_rest hr (h.of (by decide)), Dev.showDepths_rest hr, Dev.set_rest hr, Dev.modLane_rest (h.of
      (by decide))]

/-- One instruction decoded ahead changes what the instruction itself and the lane's queue change. -/
theorem Dev.decodeOne_rest (hr : AllRegs A) (h : Allows A [.access, .lockGroups, .lanes, .clusters, .lines, .sessions,
    .sent]) (d : Dev) (L : Nat) (iw : BitVec 128) {e : Dev} (he : d.decodeOne L iw = some e) : e.rest A = d.rest A := by
  have marked : ∀ e : Dev, e.rest A = (d.pcAdd L 1).rest A → (e.mark L iw).rest A = d.rest A := fun e he =>
    (Dev.mark_rest (h.of (by decide)) ..).trans (he.trans (Dev.pcAdd_rest hr ..))
  unfold Dev.decodeOne at he
  dsimp only at he
  split at he
  · cases he
  · split at he
    · obtain rfl := Option.some.inj he
      exact (Dev.enqueue_rest (h.of (by decide)) ..).trans (Dev.pcAdd_rest hr ..)
    · split at he
      · split at he
        · cases he
        · obtain rfl := Option.some.inj he
          exact marked _ (Dev.pushLoop_rest hr h ..)
      · split at he
        · split at he
          · cases he
          · split at he
            · cases he
            · obtain rfl := Option.some.inj he
              exact marked _ (Dev.endLoop_rest hr h ..)
        · split at he
          · split at he
            · cases he
            · obtain rfl := Option.some.inj he
              exact marked _ (Dev.callInstr_rest hr h ..)
          · split at he
            · cases he
            · obtain rfl := Option.some.inj he
              exact marked _ (Dev.popCall_rest hr h ..)

theorem Dev.primeDecode_rest (hr : AllRegs A) (h : Allows A [.access, .lockGroups, .lanes, .clusters, .lines,
    .sessions, .sent]) (L : Nat) (entry : Nat → BitVec 128) (n : Nat) (d : Dev) :
    (d.primeDecode L entry n).rest A = d.rest A := by
  induction n generalizing d with
  | zero => rfl
  | succ n ih =>
    unfold Dev.primeDecode
    dsimp only
    split
    · rfl
    · split
      · rfl
      · next e he =>
        exact (ih _).trans ((Dev.modLane_rest (h.of (by decide)) ..).trans (Dev.decodeOne_rest hr h d L _ he))

theorem Dev.primeComplete_rest (hr : AllRegs A) (h : Allows A [.access, .lockGroups, .lanes, .clusters, .lines,
    .faults, .sessions, .sent]) (d : Dev) (L : Nat) (entry : Nat → BitVec 128) :
    (d.primeComplete L entry).rest A = d.rest A := by
  unfold Dev.primeComplete Dev.primeFetch
  dsimp only
  split
  · rfl
  · split
    · exact (Dev.poisonStop_rest hr h ..).trans (Dev.primeShow_rest hr (h.of (by decide)) ..)
    · simp only [Dev.set_rest hr, Dev.modLane_rest (h.of (by decide)), Dev.primeDecode_rest hr (h.of (by decide)),
        Dev.primeShow_rest hr (h.of (by decide)), rest_ite, ite_self]

theorem Dev.begin_rest (hr : AllRegs A) (h : Allows A [.access, .lockGroups, .lanes, .tmus, .freqs, .clusters, .lines,
    .faults, .sessions, .sent]) (d : Dev) (L t : Nat) :
    (d.begin L t).rest A = d.rest A := by
  unfold Dev.begin
  dsimp only
  split
  all_goals simp only [Dev.decodeEnd_rest hr (h.of (by decide)), Dev.underFall_rest hr h, Dev.progUnderrun_rest hr h,
    Dev.set_rest hr, Dev.setLane_rest (h.of (by decide)), rest_ite, ite_self]

theorem Dev.progStart_rest (hr : AllRegs A) (h : Allows A [.access, .lockGroups, .lanes, .tmus, .freqs, .clusters,
    .lines, .faults, .sessions, .sent]) (d : Dev) (L : Nat) :
    (d.progStart L).rest A = d.rest A := by
  unfold Dev.progStart
  split
  · rfl
  · simp only [Dev.begin_rest hr h, rest_ite, ite_self]

theorem Dev.stopEffect_rest (hr : AllRegs A) (h : Allows A [.access, .lockGroups, .lanes, .tmus, .freqs, .clusters,
    .lines, .faults, .sessions, .sent]) (d : Dev) (L : Nat) :
    (d.stopEffect L).rest A = d.rest A := by
  unfold Dev.stopEffect
  dsimp only
  split
  · rfl
  · simp only [Dev.groupCheckOf_rest hr (h.of (by decide)), Dev.holdEnter_rest hr (h.of (by decide)),
      Dev.progStopped_rest hr (h.of (by decide)), rest_ite, ite_self]

/-! ### Loads of a control store (R150 to R155) -/

theorem Dev.quiesceComplete_rest (hr : AllRegs A) (d : Dev) (k : Nat) : (d.quiesceComplete k).rest A = d.rest A := by
  unfold Dev.quiesceComplete
  simp only [Dev.set_rest hr, rest_ite, ite_self]

theorem Dev.loadOver_rest (hr : AllRegs A) (h : Allows A [.access, .lockGroups, .lanes, .clusters, .faults, .sessions,
    .sent]) (d : Dev) (k err : Nat) (word : Option Nat) :
    (d.loadOver k err word).rest A = d.rest A := by
  unfold Dev.loadOver
  rw [Dev.startAgain_rest (h.of (by decide)) _ _ _ fun d ss _ => Dev.loadCmd_rest hr h d ss k,
    Dev.loadEnd_rest hr (h.of (by decide))]

theorem Dev.loadPoison_rest (hr : AllRegs A) (h : Allows A [.access, .faults]) (d : Dev) (l : Load) :
    (d.loadPoison l).rest A = d.rest A := by
  unfold Dev.loadPoison
  split
  · rfl
  · exact Dev.raise_rest hr h ..

theorem Dev.loadCheck_rest (hr : AllRegs A) (h : Allows A [.access, .lockGroups, .lanes, .clusters, .faults, .sessions,
    .sent]) (d : Dev) (k : Nat) :
    (d.loadCheck k).rest A = d.rest A := by
  unfold Dev.loadCheck
  split
  · rfl
  · rw [rest_ite]
    split
    · rfl
    · split
      · exact Dev.loadOver_rest hr h ..
      · exact Dev.set_rest hr ..

theorem Dev.installBad_rest (hr : AllRegs A) (h : Allows A [.free, .access, .lockGroups, .lanes, .tmus, .freqs,
    .clusters, .lines, .caliper, .selfTest, .faults, .sessions, .sent]) (d : Dev) (k w : Nat) :
    (d.installBad k w).rest A = d.rest A := by
  unfold Dev.installBad
  dsimp only
  rw [Dev.startAgain_rest (h.of (by decide)) _ _ _ fun d ss _ => Dev.loadCmd_rest hr (h.of (by decide)) d ss k]
  simp only [Dev.set_rest hr, Dev.modCl_rest (h.of (by decide)), Dev.machineCheck_rest hr (h.of (by decide)),
    Dev.loadEnd_rest hr (h.of (by decide)), Dev.draw_rest (h.of (by decide)), rest_ite, ite_self]

theorem Dev.loadInstall_rest (hr : AllRegs A) (h : Allows A [.free, .access, .lockGroups, .lanes, .tmus, .freqs,
    .clusters, .lines, .caliper, .selfTest, .faults, .sessions, .sent]) (d : Dev) (k : Nat) (bad : Option Nat) :
    (d.loadInstall k bad).rest A = d.rest A := by
  unfold Dev.loadInstall Dev.install
  split
  · rfl
  · rw [rest_ite]
    dsimp only
    split
    · rfl
    · split
      · exact (Dev.installBad_rest hr h ..).trans (Dev.modCl_rest (h.of (by decide)) ..)
      · simp only [Dev.loadOver_rest hr (h.of (by decide)), Dev.machineCheckEnd_rest hr (h.of (by decide)),
          Dev.set_rest hr, Dev.modCl_rest (h.of (by decide)), rest_ite, ite_self]

theorem Dev.passOff_rest (h : Allows A [.caliper]) (d : Dev) (k : Nat) : (d.passOff k).rest A = d.rest A := by
  unfold Dev.passOff Dev.modRun
  exact Dev.withCaliper_rest (h.at (by decide)) ..

theorem Dev.markTree_rest (h : Allows A [.tmus, .freqs]) (d : Dev) (k : Nat) : (d.markTree k).rest A = d.rest A := by
  unfold Dev.markTree
  simp only [Dev.modFq_rest (h.of (by decide)), Dev.withTmus_rest (h.at (by decide))]

theorem Dev.treeAccept_rest (hr : AllRegs A) (h : Allows A [.access, .tmus, .freqs, .clusters, .caliper, .faults])
    (d : Dev) (k corr : Nat) (residual : Int) :
    (d.treeAccept k corr residual).rest A = d.rest A := by
  unfold Dev.treeAccept
  simp only [Dev.passOff_rest (h.of (by decide)), Dev.markTree_rest (h.of (by decide)), Dev.modCl_rest (h.of (by decide)),
    Dev.set_rest hr, Dev.setInt_rest hr, Dev.raise_rest hr (h.of (by decide)), Dev.modInfo_rest (h.of (by decide)),
    rest_ite, ite_self]

theorem Dev.treeFree_rest (hr : AllRegs A) (h : Allows A [.free, .access, .tmus, .freqs, .clusters, .caliper, .faults])
    (d : Dev) (k : Nat) :
    (d.treeFree k).rest A = d.rest A := by
  unfold Dev.treeFree
  simp only [Dev.treeAccept_rest hr (h.of (by decide)), Dev.modCl_rest (h.of (by decide)), Dev.draw_rest (h.of
    (by decide)), rest_ite, ite_self]

theorem Dev.rampBegin_rest (hr : AllRegs A) (h : Allows A [.tmus]) (d : Dev) (k : Nat) :
    (d.rampBegin k).rest A = d.rest A := by
  unfold Dev.rampBegin
  simp only [Dev.modTmu_rest h, Dev.set_rest hr, rest_ite, ite_self, foldl_rest, implies_true]

theorem Dev.clusterUp_rest (hr : AllRegs A) (h : Allows A [.free, .access, .freqs, .phys, .tmus, .clusters, .caliper,
    .selfTest, .faults]) (d : Dev) (on : Bool) (k : Nat) :
    (d.clusterUp on k).rest A = d.rest A := by
  unfold Dev.clusterUp
  simp only [Dev.rampBegin_rest hr (h.of (by decide)), Dev.treeFree_rest hr (h.of (by decide)), Dev.installCluster_rest hr
    (h.of (by decide)), Dev.modCl_rest (h.of (by decide)), Dev.set_rest hr, rest_ite, ite_self]

theorem Dev.rejoin_rest (hr : AllRegs A) (h : Allows A [.free, .access, .freqs, .phys, .tmus, .clusters, .caliper,
    .selfTest, .faults]) (d : Dev) (k : Nat) :
    (d.rejoin k).rest A = d.rest A := by
  unfold Dev.rejoin
  simp only [Dev.clusterUp_rest hr h, Dev.set_rest hr, rest_ite, ite_self]

end Sys2Proof.Machine
end

