-- ==== Sys2Proof/Proofs/EngineCommands.lean ====
section
-- Proofs one at a time: run side by side, the whole text outgrows the memory limit of the check.
set_option Elab.async false
/-! SUPPORT. What each command of a lane, a program, a micro-engine or its control store leaves alone. -/

namespace Sys2Proof.Machine

section
variable {A : Part → Bool} {s t : State}

theorem hbmsyncComplete_rest (hr : AllRegs A) (h : Allows A [.access, .clusters]) (k : Clu) (level : Fin 3)
    (poison : Bool) (hx : execHbmsyncComplete k level poison s = .next t) : t.rest A = s.rest A :=
  rest_of_ite hx (fun hx => rest_of_next hx rfl) fun hx => rest_of_next hx
    ((Dev.stickIf_rest hr (h.of (by decide)) ..).trans (Dev.setThread_rest (h.of (by decide)) ..))

/-- A copy that goes wrong ends the load, one that goes well stages the image (R151). -/
theorem loadCopyDone_rest (hr : AllRegs A) (h : Allows A [.access, .lockGroups, .lanes, .clusters, .faults, .sessions,
    .sent]) (k : Clu) (poison : Bool) (hx : execLoadCopyDone k poison s = .next t) : t.rest A = s.rest A := by
  unfold execLoadCopyDone at hx
  split at hx
  · exact rest_of_next hx rfl
  · refine rest_of_ite hx (fun hx => rest_of_next hx rfl) fun hx => rest_of_ite hx (fun hx => rest_of_next hx ?_)
      fun hx => rest_of_ite hx (fun hx => rest_of_next hx ?_) fun hx => rest_of_next hx ?_
    · exact (State.latchLoads_rest (h.of (by decide)) _).trans ((Dev.loadOver_rest hr h ..).trans
        (Dev.loadPoison_rest hr (h.of (by decide)) ..))
    · exact (State.latchLoads_rest (h.of (by decide)) _).trans (Dev.loadOver_rest hr h ..)
    · exact (Dev.set_rest hr ..).trans (Dev.modCl_rest (h.of (by decide)) ..)

/-- A micro-op, where its microword does not reach outside HBM. -/
theorem uop_rest_of_on (hr : AllRegs A) (h : Allows A [.free, .access, .lockGroups, .lanes, .phys, .tmus, .freqs,
    .clusters, .lines, .caliper, .sched, .selfTest, .faults, .sessions, .sent]) {k op : Nat} {w : Micro} {f : UOp}
    (hx : (s.on fun d => d.uop k op w f) = .next t) (hf : uopOf op = some f) : t.rest A = s.rest A :=
  rest_of_next hx (Dev.uop_rest hr (h.of (by decide)) _ _ _ _ _ (uopOf_rest hr h op hf))

/-- An instruction that leaves a record (R130). -/
theorem takeRec_rest_of_on (hr : AllRegs A) (h : Allows A [.access, .lockGroups, .lanes, .tmus, .freqs, .clusters,
    .lines, .faults, .sessions, .sent]) {L op : Nat} {iw : BitVec 128} {kind : RecKind} {due : Option Nat}
    {f : Dev → Dev} (hf : ∀ d, (f d).rest A = d.rest A) (hx : (s.on fun d => d.takeRec L iw op kind due f) = .next t) :
    t.rest A = s.rest A :=
  rest_of_next hx (Dev.takeRec_rest hr h _ _ _ _ _ _ _ hf)

/-- An instruction that leaves no record. -/
theorem takePc_rest_of_on (hr : AllRegs A) (h : Allows A [.access, .lockGroups, .lanes, .clusters, .lines, .faults,
    .sessions, .sent]) {L op : Nat} {iw : BitVec 128} {f : Dev → Dev} (hf : ∀ d, (f d).rest A = d.rest A)
    (hx : (s.on fun d => d.takePc L iw op f) = .next t) : t.rest A = s.rest A :=
  rest_of_next hx (Dev.takePc_rest hr h _ _ _ _ _ hf)

end

/-- A micro-op leaves alone what `touches` does not name. -/
theorem exec_micro_rest {i : Instr} {k : Clu} {s t : State} (hi : microOf i = some k) (hx : exec i s = .next t) :
    t.rest (touches i) = s.rest (touches i) := by
  cases i with
  | uHbmrd k w =>
    exact rest_of_ite hx (fun hx => nomatch hx) fun hx =>
      uop_rest_of_on (.of_or fun _ => rfl) (.all rfl) hx rfl
  | uHbmwr k w =>
    exact rest_of_ite hx (fun hx => nomatch hx) fun hx =>
      uop_rest_of_on (.of_or fun _ => rfl) (.all rfl) hx rfl
  | uNop k w | uMov k w | uAdd k w | uSub k w | uAnd k w | uOr k w | uXor k w | uShl k w | uShr k w | uSar k w
  | uLdi k w | uCmp k w | uTst k w | uMin k w | uMax k w | uSext k w | uFld k w | uNexti k w | uEndt k w | uJpc k w
  | uPushl k w | uEndl k w | uPushc k w | uPopc k w | uPerq k w | uCanq k w | uCtxq k w | uMatq k w | uFireq k w
  | uMeasq k w | uWaitq k w | uHaltq k w | uStopl k w | uBr k w | uCallu k w | uRetu k w | uTrap k w | uLdx k w
  | uStx k w | uHbmsync k w | uSigf k w | uMbox k w | uSell k w | uFlip k w | uInvc k w | uFetchq k w | uReti k w =>
    exact uop_rest_of_on (.of_or fun _ => rfl) (.all rfl) hx rfl
  | _ => cases hi

/-- An engine's command leaves alone what `touches` does not name. -/
theorem exec_engine_rest {i : Instr} {s t : State} (hi : sect i = .engine) (hx : exec i s = .next t) :
    t.rest (touches i) = s.rest (touches i) := by
  cases i with
  | triggerSlotBusyEnd L n => exact rest_of_next hx (Dev.slotBusyEnd_rest (.of_or fun _ => rfl) (.all rfl) ..)
  | gateChange L => exact rest_of_next hx (Dev.gateChange_rest (.of_or fun _ => rfl) (.all rfl) ..)
  | swTriggerGo ss L val => exact rest_of_next hx (Dev.swTriggerWrite_rest (.of_or fun _ => rfl) (.all rfl) ..)
  | laneCfgWrite ss L val => exact rest_of_next hx (Dev.laneCfgWrite_rest (.of_or fun _ => rfl) (.all rfl) ..)
  | candidateCommit L => exact rest_of_next hx (Dev.candidateCommit_rest (.of_or fun _ => rfl) (.all rfl) ..)
  | strobeSample L level changed => exact rest_of_next hx (Dev.strobeSample_rest (.of_or fun _ => rfl) (.all rfl) ..)
  | cmpTransition ball arrival level =>
    cases ball with
    | cmp L => exact rest_of_next hx (Dev.cmpTransition_rest (.of_or fun _ => rfl) (.all rfl) ..)
    | fin i => exact rest_of_next hx (Dev.finTransition_rest (.of_or fun _ => rfl) (.all rfl) ..)
  | ctxCommitWrite ss L val => exact rest_of_next hx (Dev.ctxCommitWrite_rest (.of_or fun _ => rfl) (.all rfl) ..)
  | ctxReadCapture ss L =>
    have hr : AllRegs (touches (.ctxReadCapture ss L)) := .of_or fun _ => rfl
    have hL : 64 * (L.val / 64) + L.val % 64 = L.val := Nat.div_add_mod ..
    have h := Dev.ctxCapture_rest (Allows.plus (l := [.access, .lanes, .clusters, .selfTest, .reply]) (.all rfl) hr
      (by decide)) s.toDev ss ⟨L / 64, by omega⟩ ⟨L % 64, by omega⟩ (Nat.mod_lt _ (by decide))
    simp only [hL] at h
    exact rest_of_next hx h
  | edgeFetchDone L line poison => exact rest_of_next hx (Dev.fetchDone_rest (.of_or fun _ => rfl) (.all rfl) ..)
  | period L iw =>
    exact takeRec_rest_of_on (.of_or fun _ => rfl) (.all rfl) (fun d =>
      Dev.issuePeriods_rest (.of_or fun _ => rfl) (.all rfl) ..) hx
  | edge L iw | pulse L iw | burst L iw | fire L iw =>
    exact takeRec_rest_of_on (.of_or fun _ => rfl) (.all rfl) (fun d =>
      Dev.expandOther_rest (.all rfl) ..) hx
  | ctx L iw =>
    exact takeRec_rest_of_on (.of_or fun _ => rfl) (.all rfl) (fun d =>
      Dev.ctxInstr_rest (.of_or fun _ => rfl) (.all rfl) ..) hx
  | waitEvt L iw =>
    exact takeRec_rest_of_on (.of_or fun _ => rfl) (.all rfl) (fun d =>
      Dev.waitInstr_rest (.of_or fun _ => rfl) (.all rfl) ..) hx
  | waitEvtTimeout L => exact rest_of_next hx (Dev.waitTimeout_rest (.of_or fun _ => rfl) (.all rfl) ..)
  | loop L iw =>
    exact takePc_rest_of_on (.of_or fun _ => rfl) (.all rfl) (fun d =>
      Dev.pushLoop_rest (.of_or fun _ => rfl) (.all rfl) ..) hx
  | endloop L iw =>
    exact takePc_rest_of_on (.of_or fun _ => rfl) (.all rfl) (fun d =>
      Dev.endLoop_rest (.of_or fun _ => rfl) (.all rfl) ..) hx
  | call L iw =>
    exact takePc_rest_of_on (.of_or fun _ => rfl) (.all rfl) (fun d =>
      Dev.callInstr_rest (.of_or fun _ => rfl) (.all rfl) ..) hx
  | ret L iw =>
    exact takePc_rest_of_on (.of_or fun _ => rfl) (.all rfl) (fun d =>
      Dev.popCall_rest (.of_or fun _ => rfl) (.all rfl) ..) hx
  | measure L iw =>
    exact rest_of_next hx (Dev.takeRecWith_rest (.of_or fun _ => rfl) (.all rfl) _ _ _ _ _ _ _ fun d r =>
      Dev.measure_rest (.of_or fun _ => rfl) (.all rfl) ..)
  | matchResults L iw =>
    exact takeRec_rest_of_on (.of_or fun _ => rfl) (.all rfl) (fun d =>
      Dev.matchInstr_rest (.all rfl) ..) hx
  | fireEmit L => exact rest_of_next hx (Dev.fireEmit_rest (.of_or fun _ => rfl) (.all rfl) ..)
  | halt L iw =>
    exact rest_of_next hx (rest_branch (Dev.takeRec_rest (.of_or fun _ => rfl) (.all rfl) _ _ _ _ _ _ _ fun d =>
      Dev.haltInstr_rest (.of_or fun _ => rfl) (.all rfl) ..) rfl)
  | reservedOpcode L iw =>
    exact rest_of_next hx (rest_branch (Dev.atPc_rest (.of_or fun _ => rfl) (.all rfl) _ _ _ _ fun d => rfl) rfl)
  | underrun L => exact rest_of_next hx (Dev.underrun_rest (.of_or fun _ => rfl) (.all rfl) ..)
  | prime ss L val | progGo ss L val | progStop ss L val =>
    exact rest_of_next hx (rest_branch (Dev.holdStart_rest (.all rfl) ..)
      (Dev.progCtrlWrite_rest (.of_or fun _ => rfl) (.all rfl) ..))
  | primeComplete L => exact rest_of_next hx (Dev.primeComplete_rest (.of_or fun _ => rfl) (.all rfl) ..)
  | progStart L => exact rest_of_next hx (Dev.progStart_rest (.of_or fun _ => rfl) (.all rfl) ..)
  | stopEffect L => exact rest_of_next hx (Dev.stopEffect_rest (.of_or fun _ => rfl) (.all rfl) ..)
  | engineDispatch k => exact rest_of_next hx (Dev.dispatch_rest (.of_or fun _ => rfl) (.all rfl) ..)
  | hbmsyncComplete k level poison => exact hbmsyncComplete_rest (.of_or fun _ => rfl) (.all rfl) k level poison hx
  | seqLoad ss k val | seqLoadAbort ss k val =>
    exact rest_of_next hx ((State.latchLoads_rest (.all rfl) _).trans
      (Dev.loadCtrlWrite_rest (.of_or fun _ => rfl) (.all rfl) ..))
  | quiesceComplete k => exact rest_of_next hx (Dev.quiesceComplete_rest (fun _ h => h) ..)
  | loadCopyDone k poison => exact loadCopyDone_rest (.of_or fun _ => rfl) (.all rfl) k poison hx
  | loadCheckDone k =>
    exact rest_of_next hx ((State.latchLoads_rest (.all rfl) _).trans
      (Dev.loadCheck_rest (.of_or fun _ => rfl) (.all rfl) ..))
  | loadInstallDone k bad =>
    exact rest_of_next hx ((State.latchLoads_rest (.all rfl) _).trans ((Dev.rejoin_rest (.of_or fun _ => rfl) (.all rfl) ..).trans
      (Dev.loadInstall_rest (.of_or fun _ => rfl) (.all rfl) ..)))
  | mchkClr ss k val => exact rest_of_next hx (Dev.seqCtrlWrite_rest (.of_or fun _ => rfl) (.all rfl) ..)
  | uNop k w | uMov k w | uAdd k w | uSub k w | uAnd k w | uOr k w | uXor k w | uShl k w | uShr k w | uSar k w
  | uLdi k w | uCmp k w | uTst k w | uMin k w | uMax k w | uSext k w | uFld k w | uNexti k w | uEndt k w | uJpc k w
  | uPushl k w | uEndl k w | uPushc k w | uPopc k w | uPerq k w | uCanq k w | uCtxq k w | uMatq k w | uFireq k w
  | uMeasq k w | uWaitq k w | uHaltq k w | uStopl k w | uBr k w | uCallu k w | uRetu k w | uTrap k w | uLdx k w
  | uStx k w | uHbmsync k w | uSigf k w | uMbox k w | uSell k w | uFlip k w | uInvc k w | uFetchq k w | uReti k w
  | uHbmrd k w | uHbmwr k w => exact exec_micro_rest rfl hx
  | _ => cases hi

/-- Settles O13: what `touches` does not name for an engine's command is in the rest that the command leaves alone
(`exec_engine_rest`), or in the queue and the memories (`exec_stores`). -/
theorem engineCommandsKeepTheRest : Obligations.EngineCommandsKeepTheRest := by
  unfold Obligations.EngineCommandsKeepTheRest
  rintro i s t p ⟨hi, hp⟩ hx
  have hstores := exec_stores i s t hx
  exact same_of_rest (exec_engine_rest hi hx) hstores.queue hstores.hbm_eq hstores.nvm_eq hp

end Sys2Proof.Machine
end

