-- ==== Sys2Proof/Proofs/EdgePrograms.lean ====
section
-- Proofs one at a time: run side by side, the whole text outgrows the memory limit of the check.
set_option Elab.async false
/-! SUPPORT. The candidates that a lane takes while it is not in hold (R72, R85), and the advance of P by a period (R111). -/

namespace Sys2Proof.Machine

/-! ### Candidates of a lane that is not in hold -/

/-- From `d` to `e` the lane loses no candidate, and its hold stays as it was. -/
structure Dev.Adds (L : Nat) (d e : Dev) : Prop where
  hold : e.get (LANE_STAT.HOLD L) = d.get (LANE_STAT.HOLD L)
  kept : ∀ c ∈ (d.lane L).cands, c ∈ (e.lane L).cands

section
variable {L : Nat} {d e f : Dev}

theorem Dev.Adds.refl (L : Nat) (d : Dev) : Dev.Adds L d d := ⟨rfl, fun _ h => h⟩

theorem Dev.Adds.trans (h : Dev.Adds L d e) (g : Dev.Adds L e f) : Dev.Adds L d f :=
  ⟨g.hold.trans h.hold, fun c hc => g.kept c (h.kept c hc)⟩

theorem Dev.Adds.free (h : Dev.Adds L d e) (hd : d.get (LANE_STAT.HOLD L) = 0) : e.get (LANE_STAT.HOLD L) = 0 :=
  h.hold.trans hd

/-- Such steps in a row, one for each of a list. -/
theorem Dev.adds_foldl {α : Type} {g : Dev → α → Dev}
    (hg : ∀ e a, e.get (LANE_STAT.HOLD L) = 0 → Dev.Adds L e (g e a)) (l : List α) (d : Dev)
    (hd : d.get (LANE_STAT.HOLD L) = 0) : Dev.Adds L d (l.foldl g d) := by
  induction l generalizing d with
  | nil => exact .refl L d
  | cons a l ih => exact (hg d a hd).trans (ih _ ((hg d a hd).free hd))

/-- What the step for one of them has added is there at the end. -/
theorem Dev.foldl_added {α : Type} {P : Cand → Prop} {g : Dev → α → Dev} {a : α}
    (hg : ∀ e a, e.get (LANE_STAT.HOLD L) = 0 → Dev.Adds L e (g e a))
    (ha : ∀ e, e.get (LANE_STAT.HOLD L) = 0 → ∃ c ∈ ((g e a).lane L).cands, P c) (l : List α) (hl : a ∈ l) (d : Dev)
    (hd : d.get (LANE_STAT.HOLD L) = 0) : ∃ c ∈ ((l.foldl g d).lane L).cands, P c := by
  induction l generalizing d with
  | nil => cases hl
  | cons b l ih =>
    have hb := (hg d b hd).free hd
    rcases List.mem_cons.mp hl with rfl | hl
    · obtain ⟨c, hc, hP⟩ := ha d hd
      exact ⟨c, (Dev.adds_foldl hg l _ hb).kept c hc, hP⟩
    · exact ih hl _ hb

/-- A lane that is not in hold takes the candidate. -/
theorem Dev.addEdge_lane (hd : d.get (LANE_STAT.HOLD L) = 0) (eg sched : Nat) (src : CandSrc) (iss : Nat)
    (uses : List (Nat × Nat)) : d.addEdge L eg sched src iss uses = d.modLane L fun l => { l with
      cands := l.cands ++ [{ eg, sched, lane := sched + d.deskew L eg, src, iss, uses }] } := by
  unfold Dev.addEdge Dev.addCand
  rw [if_neg (by simp [Dev.on, hd])]

theorem Dev.addEdge_adds (hd : d.get (LANE_STAT.HOLD L) = 0) (eg sched : Nat) (src : CandSrc) (iss : Nat)
    (uses : List (Nat × Nat)) : Dev.Adds L d (d.addEdge L eg sched src iss uses) := by
  rw [Dev.addEdge_lane hd]
  exact ⟨rfl, fun c hc => by simp [hc]⟩

theorem Dev.addEdge_added (hd : d.get (LANE_STAT.HOLD L) = 0) (eg sched : Nat) (src : CandSrc) (iss : Nat)
    (uses : List (Nat × Nat)) :
    ∃ c ∈ ((d.addEdge L eg sched src iss uses).lane L).cands, c.eg = eg ∧ c.sched = sched ∧ c.src = src := by
  rw [Dev.addEdge_lane hd]
  exact ⟨_, by simp; right; rfl, rfl, rfl, rfl⟩

theorem Dev.newResult_adds (L : Nat) (d : Dev) (p mode : Nat) (own : Bool) (expect : Option Nat) (hop : Nat) :
    Dev.Adds L d (d.newResult L p mode own expect hop).2 :=
  ⟨rfl, fun c hc => by simpa [Dev.newResult] using hc⟩

theorem Dev.ownStrobe_adds (hd : d.get (LANE_STAT.HOLD L) = 0) (eg t : Nat) (src : CandSrc) (iss hop : Nat) :
    Dev.Adds L d (d.ownStrobe L eg t src iss hop) :=
  (Dev.newResult_adds ..).trans (Dev.addEdge_adds ((Dev.newResult_adds ..).free hd) ..)

theorem Dev.ownStrobe_added (hd : d.get (LANE_STAT.HOLD L) = 0) (eg t : Nat) (src : CandSrc) (iss hop : Nat) :
    ∃ c ∈ ((d.ownStrobe L eg t src iss hop).lane L).cands, c.eg = eg ∧ c.sched = t ∧ c.src = src :=
  Dev.addEdge_added ((Dev.newResult_adds ..).free hd) ..

theorem Dev.ownWindow_adds (hd : d.get (LANE_STAT.HOLD L) = 0) (t w : Nat) (src : CandSrc) (iss hop : Nat) :
    Dev.Adds L d (d.ownWindow L t w src iss hop) := by
  have hn : Dev.Adds L d (d.newResult L t 2 true none hop).2 := Dev.newResult_adds ..
  have h4 := Dev.addEdge_adds (hn.free hd) 4 t src iss [((d.newResult L t 2 true none hop).1, 0)]
  exact (hn.trans h4).trans (Dev.addEdge_adds ((hn.trans h4).free hd) ..)

/-! ### FIRE, PULSE and BURST (R72, R85) -/

/-- The bit of a mask, as the generators read it. -/
theorem mask_testBit {mask eg : Nat} : mask / 2 ^ eg % 2 = 1 ↔ mask.testBit eg = true := by
  rw [Nat.testBit_eq_decide_div_mod_eq, decide_eq_true_eq]

/-- A FIRE gives every generator of its mask a candidate. -/
theorem Dev.fireAt_added (hd : d.get (LANE_STAT.HOLD L) = 0) {mask eg : Nat} (he : eg < 6) (hm : mask.testBit eg = true)
    (t : Nat) (src : CandSrc) (iss hop : Nat) :
    ∃ c ∈ ((d.fireAt L mask t src iss hop).lane L).cands, c.eg = eg ∧ c.sched = t ∧ c.src = src := by
  refine Dev.foldl_added (a := eg) (fun e g hf => ?_) (fun e hf => ?_) _ (by simp; omega) d hd
  · split
    · split
      · exact Dev.addEdge_adds hf ..
      · exact Dev.ownStrobe_adds hf ..
    · exact .refl L e
  · rw [if_pos (mask_testBit.mpr hm)]
    split
    · exact Dev.addEdge_added hf ..
    · exact Dev.ownStrobe_added hf ..

/-- One generator of a PULSE and its partner. -/
theorem Dev.pulsePair_adds (hd : d.get (LANE_STAT.HOLD L) = 0) (mask eg t w : Nat) (src : CandSrc) (iss : Nat) :
    Dev.Adds L d (if mask / 2 ^ eg % 2 = 1 then
      (d.addEdge L eg t src iss []).addEdge L (partner eg) (t + w) src iss [] else d) := by
  split
  · have h := Dev.addEdge_adds hd eg t src iss []
    exact h.trans (Dev.addEdge_adds (h.free hd) ..)
  · exact .refl L d

/-- The strobes of a PULSE. -/
theorem Dev.pulseStrobes_adds (hd : d.get (LANE_STAT.HOLD L) = 0) (mask t w : Nat) (src : CandSrc) (iss hop : Nat) :
    Dev.Adds L d (if mask / 16 % 2 = 1 then d.ownWindow L t w src iss hop
      else if mask / 32 % 2 = 1 then (d.ownStrobe L 5 t src iss hop).ownStrobe L 4 (t + w) src iss hop else d) := by
  split
  · exact Dev.ownWindow_adds hd ..
  · split
    · have h := Dev.ownStrobe_adds hd 5 t src iss hop
      exact h.trans (Dev.ownStrobe_adds (h.free hd) ..)
    · exact .refl L d

theorem Dev.pulseAt_adds (hd : d.get (LANE_STAT.HOLD L) = 0) (mask t w : Nat) (src : CandSrc) (iss hop : Nat) :
    Dev.Adds L d (d.pulseAt L mask t w src iss hop) := by
  have h := Dev.adds_foldl (L := L) (fun e eg hf => Dev.pulsePair_adds hf mask eg t w src iss) [0, 1, 2, 3] d hd
  exact h.trans (Dev.pulseStrobes_adds (h.free hd) ..)

/-- What one generator of the mask or its partner is given, the PULSE gives. -/
theorem Dev.pulseAt_added_of {P : Cand → Prop} (hd : d.get (LANE_STAT.HOLD L) = 0) {mask eg : Nat} (he : eg < 4)
    (hm : mask.testBit eg = true) (t w : Nat) (src : CandSrc) (iss hop : Nat)
    (hP : ∀ e : Dev, e.get (LANE_STAT.HOLD L) = 0 →
      ∃ c ∈ (((e.addEdge L eg t src iss []).addEdge L (partner eg) (t + w) src iss []).lane L).cands, P c) :
    ∃ c ∈ ((d.pulseAt L mask t w src iss hop).lane L).cands, P c := by
  have hg := fun (e : Dev) eg hf => Dev.pulsePair_adds (L := L) (d := e) hf mask eg t w src iss
  obtain ⟨c, hc, h⟩ := Dev.foldl_added (a := eg) (P := P) hg
    (fun e hf => by rw [if_pos (mask_testBit.mpr hm)]; exact hP e hf) [0, 1, 2, 3] (by simp; omega) d hd
  exact ⟨c, (Dev.pulseStrobes_adds ((Dev.adds_foldl hg _ d hd).free hd) ..).kept c hc, h⟩

/-- A PULSE gives each of DRV and DEN in its mask a candidate at its time. -/
theorem Dev.pulseAt_added (hd : d.get (LANE_STAT.HOLD L) = 0) {mask eg : Nat} (he : eg < 4)
    (hm : mask.testBit eg = true) (t w : Nat) (src : CandSrc) (iss hop : Nat) :
    ∃ c ∈ ((d.pulseAt L mask t w src iss hop).lane L).cands, c.eg = eg ∧ c.sched = t ∧ c.src = src :=
  Dev.pulseAt_added_of hd he hm t w src iss hop fun e hf => by
    obtain ⟨c, hc, h⟩ := Dev.addEdge_added hf eg t src iss []
    exact ⟨c, (Dev.addEdge_adds ((Dev.addEdge_adds hf ..).free hf) ..).kept c hc, h⟩

/-- And its partner one a width later. -/
theorem Dev.pulseAt_partner (hd : d.get (LANE_STAT.HOLD L) = 0) {mask eg : Nat} (he : eg < 4)
    (hm : mask.testBit eg = true) (t w : Nat) (src : CandSrc) (iss hop : Nat) :
    ∃ c ∈ ((d.pulseAt L mask t w src iss hop).lane L).cands, c.eg = partner eg ∧ c.sched = t + w ∧ c.src = src :=
  Dev.pulseAt_added_of hd he hm t w src iss hop fun _ hf =>
    Dev.addEdge_added ((Dev.addEdge_adds hf ..).free hf) ..

/-- A BURST begins with a PULSE at P plus OFFSET. -/
theorem Dev.burstAt_added (hd : d.get (LANE_STAT.HOLD L) = 0) {iw : BitVec 128} {eg : Nat} (he : eg < 4)
    (hm : (iwEgMask iw).testBit eg = true) (p iss : Nat) :
    ∃ c ∈ ((d.burstAt L iw p iss).lane L).cands, c.eg = eg ∧ c.sched = p + burstOffset iw ∧ c.src = .burst := by
  refine Dev.foldl_added (a := 0) (fun e n hf => Dev.pulseAt_adds hf ..) (fun e hf => ?_) _ (by simp) d hd
  simpa using Dev.pulseAt_added hf he hm (p + burstOffset iw + 0 * burstSpacing iw) (burstWidth iw) .burst iss 0

end

/-! ### The instruction at which a program stands -/

/-- Noting an instruction changes the loops and the count of those that advance P. -/
theorem Lane.note_eq (l : Lane) (r : Rec) : ∃ fs n, l.note r = { l with loops := fs, moves := n } := by
  unfold Lane.note Lane.noReplay
  dsimp only
  repeat' split
  all_goals exact ⟨_, _, rfl⟩

/-- The device before the meaning of an instruction at the PC acts. -/
def Dev.atWord (d : Dev) (L : Nat) (iw : BitVec 128) (kind : RecKind) : Dev :=
  (d.pcAdd L 1).modLane L fun l => { (l.note ((d.pcAdd L 1).recordNow L kind iw)) with records := [] }

theorem Dev.atWord_lane (d : Dev) (L : Nat) (iw : BitVec 128) (kind : RecKind) :
    ∃ fs n, (d.atWord L iw kind).lane L = { (d.lane L) with loops := fs, moves := n, records := [] } := by
  obtain ⟨fs, n, h⟩ := Lane.note_eq (d.lane L) ((d.pcAdd L 1).recordNow L kind iw)
  have hl : (d.pcAdd L 1).lane L = d.lane L := by simp [Dev.pcAdd]
  exact ⟨fs, n, by rw [Dev.atWord, Dev.lane_modLane, if_pos rfl, hl, h]⟩

/-- Only the PC has changed among the registers. -/
theorem Dev.atWord_get (d : Dev) (L : Nat) (iw : BitVec 128) (kind : RecKind) {f : Fld}
    (h : (PROG_PC.PC L).apart f = true) : (d.atWord L iw kind).get f = d.get f := by
  rw [Dev.atWord, Dev.modLane_get, Dev.pcAdd, Dev.get_set_ne _ h]

theorem Dev.takeRec_atWord {d : Dev} {L : Nat} {iw : BitVec 128} {op : Nat} {due : Option Nat}
    (h : d.stands L iw op due = true) (kind : RecKind) (f : Dev → Dev) :
    d.takeRec L iw op kind due f = f (d.atWord L iw kind) :=
  Dev.takeRec_of_stands h kind f

theorem Dev.opcode_of_stands {d : Dev} {L : Nat} {iw : BitVec 128} {op : Nat} {due : Option Nat}
    (h : d.stands L iw op due = true) : iwOpcode iw = op := by
  simp only [Dev.stands, Bool.and_eq_true, beq_iff_eq] at h
  exact h.1.1.1.1.1.1.1.2

theorem Dev.canRun_of_stands {d : Dev} {L : Nat} {iw : BitVec 128} {op : Nat} {due : Option Nat}
    (h : d.stands L iw op due = true) : d.canRun L = true := by
  simp only [Dev.stands, Bool.and_eq_true] at h
  exact h.1.1.1.1.1.1.1.1

/-! ### EDGE, PULSE and BURST at P (R72, R85, R110) -/

section
variable {L : Nat} {iw : BitVec 128} {d : Dev}

theorem Dev.newIssue_hold (hd : d.get (LANE_STAT.HOLD L) = 0) (i : Nat) (period : Bool) (expect : Option Nat) :
    (d.newIssue L iw i period expect).2.get (LANE_STAT.HOLD L) = 0 := hd

theorem Dev.newIssue_lane (d : Dev) (L : Nat) (iw : BitVec 128) (i : Nat) (period : Bool) (expect : Option Nat) :
    ∃ n xs ss, (d.newIssue L iw i period expect).2.lane L =
      { (d.lane L) with nextId := n, issued := xs, switches := ss } :=
  ⟨_, _, _, by rw [Dev.newIssue, Dev.lane_setLane, if_pos rfl]⟩

theorem Dev.newIssue_p (d : Dev) (L : Nat) (iw : BitVec 128) (i : Nat) (period : Bool) (expect : Option Nat) :
    ((d.newIssue L iw i period expect).2.lane L).p = (d.lane L).p := by
  obtain ⟨_, _, _, h⟩ := d.newIssue_lane L iw i period expect
  rw [h]

theorem Dev.expandOther_edge (d : Dev) (L : Nat) (h : iwOpcode iw = 2) :
    d.expandOther L iw = (d.newIssue L iw 0 false none).2.fireAt L (iwEgMask iw) ((d.lane L).p + iwOffset iw) .instr
      (d.newIssue L iw 0 false none).1 0 := by
  unfold Dev.expandOther
  dsimp only
  rw [if_pos h, Dev.newIssue_p]

theorem Dev.expandOther_pulse (d : Dev) (L : Nat) (h : iwOpcode iw = 3) :
    d.expandOther L iw = (d.newIssue L iw 0 false none).2.pulseAt L (iwEgMask iw) ((d.lane L).p + iwOffset iw)
      (pulseWidth iw) .instr (d.newIssue L iw 0 false none).1 0 := by
  unfold Dev.expandOther
  dsimp only
  rw [if_neg (by omega), if_pos h, Dev.newIssue_p]

theorem Dev.expandOther_burst (d : Dev) (L : Nat) (h : iwOpcode iw = 4) :
    d.expandOther L iw = (d.newIssue L iw 0 false none).2.burstAt L iw (d.lane L).p (d.newIssue L iw 0 false none).1 := by
  unfold Dev.expandOther
  dsimp only
  rw [if_neg (by omega), if_neg (by omega), if_pos h, Dev.newIssue_p]

theorem Dev.atWord_hold (hd : d.get (LANE_STAT.HOLD L) = 0) (iw : BitVec 128) (kind : RecKind) :
    (d.atWord L iw kind).get (LANE_STAT.HOLD L) = 0 :=
  (Dev.atWord_get d L iw kind (by simp [Fld.apart])).trans hd

theorem Dev.atWord_p (d : Dev) (L : Nat) (iw : BitVec 128) (kind : RecKind) :
    ((d.atWord L iw kind).lane L).p = (d.lane L).p := by
  obtain ⟨_, _, h⟩ := d.atWord_lane L iw kind
  rw [h]

/-- EDGE gives every generator of its mask a candidate at P plus OFFSET. -/
theorem Dev.edge_added {due : Option Nat} (hs : d.stands L iw 2 due = true) (hd : d.get (LANE_STAT.HOLD L) = 0)
    {eg : Nat} (he : eg < 6) (hm : (iwEgMask iw).testBit eg = true) :
    ∃ c ∈ ((d.takeRec L iw 2 .cand due fun d => d.expandOther L iw).lane L).cands,
      c.eg = eg ∧ c.sched = (d.lane L).p + iwOffset iw ∧ c.src = .instr := by
  rw [Dev.takeRec_atWord hs, Dev.expandOther_edge _ _ (Dev.opcode_of_stands hs), Dev.atWord_p]
  exact Dev.fireAt_added (Dev.newIssue_hold (Dev.atWord_hold hd iw .cand) ..) he hm ..

/-- PULSE gives each of DRV and DEN in its mask a candidate at P plus OFFSET. -/
theorem Dev.pulse_added {due : Option Nat} (hs : d.stands L iw 3 due = true) (hd : d.get (LANE_STAT.HOLD L) = 0)
    {eg : Nat} (he : eg < 4) (hm : (iwEgMask iw).testBit eg = true) :
    ∃ c ∈ ((d.takeRec L iw 3 .cand due fun d => d.expandOther L iw).lane L).cands,
      c.eg = eg ∧ c.sched = (d.lane L).p + iwOffset iw ∧ c.src = .instr := by
  rw [Dev.takeRec_atWord hs, Dev.expandOther_pulse _ _ (Dev.opcode_of_stands hs), Dev.atWord_p]
  exact Dev.pulseAt_added (Dev.newIssue_hold (Dev.atWord_hold hd iw .cand) ..) he hm ..

/-- And its partner one a width later. -/
theorem Dev.pulse_partner {due : Option Nat} (hs : d.stands L iw 3 due = true) (hd : d.get (LANE_STAT.HOLD L) = 0)
    {eg : Nat} (he : eg < 4) (hm : (iwEgMask iw).testBit eg = true) :
    ∃ c ∈ ((d.takeRec L iw 3 .cand due fun d => d.expandOther L iw).lane L).cands,
      c.eg = partner eg ∧ c.sched = (d.lane L).p + iwOffset iw + pulseWidth iw ∧ c.src = .instr := by
  rw [Dev.takeRec_atWord hs, Dev.expandOther_pulse _ _ (Dev.opcode_of_stands hs), Dev.atWord_p]
  exact Dev.pulseAt_partner (Dev.newIssue_hold (Dev.atWord_hold hd iw .cand) ..) he hm ..

/-- BURST gives each of DRV and DEN in its mask a candidate at P plus OFFSET for its first pulse. -/
theorem Dev.burst_added {due : Option Nat} (hs : d.stands L iw 4 due = true) (hd : d.get (LANE_STAT.HOLD L) = 0)
    {eg : Nat} (he : eg < 4) (hm : (iwEgMask iw).testBit eg = true) :
    ∃ c ∈ ((d.takeRec L iw 4 .cand due fun d => d.expandOther L iw).lane L).cands,
      c.eg = eg ∧ c.sched = (d.lane L).p + burstOffset iw ∧ c.src = .burst := by
  rw [Dev.takeRec_atWord hs, Dev.expandOther_burst _ _ (Dev.opcode_of_stands hs), Dev.atWord_p]
  exact Dev.burstAt_added (Dev.newIssue_hold (Dev.atWord_hold hd iw .cand) ..) he hm ..

end

/-! ### PERIOD (R101, R111) -/

section
variable {L : Nat} {d : Dev}

/-- A period advances P by its length, at least one T0 (R101). -/
theorem Dev.issuePeriodAt_p (d : Dev) (L : Nat) (iw : BitVec 128) (i : Nat) (expect : Option Nat) :
    ((d.issuePeriodAt L iw i expect).lane L).p = (d.lane L).p
      + max (if iwL iw then iwPeriodTq iw else ctxPeriod ((d.lane L).ctx (d.lane L).curCtx)) 4096 := by
  obtain ⟨_, _, _, h⟩ := d.newIssue_lane L iw i true expect
  unfold Dev.issuePeriodAt
  dsimp only
  rw [Dev.set_lane, Dev.lane_modLane, if_pos rfl, h]
  rfl

/-- Without a switch or a failed context word a period is issued. -/
theorem Dev.issuePeriod_of_plain (hs : (d.lane L).switches = []) (hb : (d.lane L).badCtx = []) (iw : BitVec 128)
    (i : Nat) (expect : Option Nat) : d.issuePeriod L iw i expect = d.issuePeriodAt L iw i expect := by
  have ha : d.applySwitches L = d := by
    unfold Dev.applySwitches
    simp [hs]
  unfold Dev.issuePeriod
  simp [ha, hb]

/-- One period, of a program at work that no stop has reached. -/
theorem Dev.issuePeriods_one {iw : BitVec 128} (hc : iwCount iw = 0) (hstop : (d.lane L).stopReached = false)
    (hbusy : d.progBusy L = true) (hm : (d.lane L).mat = none) :
    d.issuePeriods L iw = (d.setLane L (d.lane L)).issuePeriod L iw 0 none := by
  unfold Dev.issuePeriods
  rw [hc, List.range_one, List.foldl_cons, List.foldl_nil, if_neg (by simp [hstop, hbusy])]
  simp only [Lane.nextExpect, hm]

theorem Dev.progBusy_of_canRun (h : d.canRun L = true) : d.progBusy L = true := by
  simp only [Dev.canRun, Bool.and_eq_true, Bool.or_eq_true, beq_iff_eq] at h
  obtain ⟨⟨⟨⟨h | ⟨h, -⟩, -⟩, -⟩, -⟩, -⟩ := h <;> simp [Dev.progBusy, h]

theorem Dev.stopReached_of_canRun (h : d.canRun L = true) : (d.lane L).stopReached = false := by
  simp only [Dev.canRun, Bool.and_eq_true, Bool.not_eq_true'] at h
  exact h.1.1.2

theorem Dev.progBusy_atWord (d : Dev) (L : Nat) (iw : BitVec 128) (kind : RecKind) :
    (d.atWord L iw kind).progBusy L = d.progBusy L := by
  unfold Dev.progBusy Dev.progState
  rw [Dev.atWord_get _ _ _ _ (by simp [Fld.apart])]

/-- PERIOD of one period, without MATCH, pending switch or failed context word, advances P by the period's length. -/
theorem Dev.period_p {iw : BitVec 128} {due : Option Nat} (hs : d.stands L iw 1 due = true) (hc : iwCount iw = 0)
    (hm : (d.lane L).mat = none) (hw : (d.lane L).switches = []) (hb : (d.lane L).badCtx = []) :
    ((d.takeRec L iw 1 .period due fun d => d.issuePeriods L iw).lane L).p = (d.lane L).p
      + max (if iwL iw then iwPeriodTq iw else ctxPeriod ((d.lane L).ctx (d.lane L).curCtx)) 4096 := by
  have hrun := Dev.canRun_of_stands hs
  obtain ⟨fs, n, hl⟩ := d.atWord_lane L iw .period
  rw [Dev.takeRec_atWord hs, Dev.issuePeriods_one hc (by rw [hl]; exact Dev.stopReached_of_canRun hrun)
      ((d.progBusy_atWord L iw .period).trans (Dev.progBusy_of_canRun hrun)) (by rw [hl]; exact hm),
    Dev.issuePeriod_of_plain (by simp [hl, hw]) (by simp [hl, hb]), Dev.issuePeriodAt_p, Dev.lane_setLane, if_pos rfl, hl]
  rfl

end

/-- Settles O25: the program comes to the instruction's meaning (`takeRec_of_stands`), and the lane, which is not in hold,
takes every candidate (`Dev.Adds`). -/
theorem edgeInstructionsComplete : Obligations.EdgeInstructionsComplete := by
  unfold Obligations.EdgeInstructionsComplete
  refine ⟨fun L iw s ⟨hs, hc⟩ ⟨hm, hw, hb⟩ => ⟨_, rfl, Dev.period_p hs hc hm hw hb⟩,
    fun L iw eg s ⟨hs, hh⟩ ⟨he, hbit⟩ => ?_, fun L iw eg s ⟨hs, hh⟩ ⟨he, hbit⟩ => ?_,
    fun L iw eg s ⟨hs, hh⟩ ⟨he, hbit⟩ => ?_⟩
  · obtain ⟨c, hc, heg, hsched, hsrc⟩ := Dev.edge_added hs hh he hbit
    exact ⟨_, c, rfl, hc, heg, hsched, hsrc⟩
  · obtain ⟨c, hc, heg, hsched, -⟩ := Dev.pulse_added hs hh he hbit
    obtain ⟨c', hc', heg', hsched', -⟩ := Dev.pulse_partner hs hh he hbit
    exact ⟨_, c, c', rfl, hc, heg, hsched, hc', heg', hsched'⟩
  · obtain ⟨c, hc, heg, hsched, hsrc⟩ := Dev.burst_added hs hh he hbit
    exact ⟨_, c, rfl, hc, heg, hsched, hsrc⟩

end Sys2Proof.Machine
end

