-- ==== Sys2Proof/Proofs/Kept.lean ====
section
-- Proofs one at a time: run side by side, the whole text outgrows the memory limit of the check.
set_option Elab.async false
/-! SUPPORT. One part, one register or one field out of the rest that an operation leaves alone (`Dev.rest`), and the
operations that leave the pages of lanes and estimators alone. -/

namespace Sys2Proof.Machine

/-! ### A part out of the rest -/

section
variable {d e : Dev}

theorem Dev.lane_of_rest (h : e.rest (allBut .lanes) = d.rest (allBut .lanes)) (L : Nat) : e.lane L = d.lane L :=
  congrArg (fun x : Dev × (Nat → Word) => x.1.lane L) h

theorem Dev.epoch_of_rest (h : e.rest (allBut .time) = d.rest (allBut .time)) : e.epoch = d.epoch :=
  congrArg (fun x : Dev × (Nat → Word) => x.1.epoch) h

theorem Dev.fq_of_rest (h : e.rest (allBut .freqs) = d.rest (allBut .freqs)) (k : Nat) : e.fq k = d.fq k :=
  congrArg (fun x : Dev × (Nat → Word) => x.1.fq k) h

theorem Dev.fins_of_rest (h : e.rest (allBut .freqs) = d.rest (allBut .freqs)) : e.fins = d.fins :=
  congrArg (fun x : Dev × (Nat → Word) => x.1.fins) h

theorem Dev.cl_of_rest (h : e.rest (allBut .clusters) = d.rest (allBut .clusters)) (k : Nat) : e.cl k = d.cl k :=
  congrArg (fun x : Dev × (Nat → Word) => x.1.cl k) h

/-- A register of a page. -/
theorem Dev.reg_of_rest {pg : Page} {off : Nat} (h1 : 0x20 ≤ off) (h2 : off < 0x1000)
    (h : e.rest (allBut (partOf pg)) = d.rest (allBut (partOf pg))) : e.reg (pg.base + off) = d.reg (pg.base + off) := by
  have hp : allBut (partOf pg) (keyPart (pg.base + off)) = false := by
    rw [keyPart_page _ h2, if_neg (by omega)]
    exact bne_self_eq_false ..
  have hkey := congrFun (congrArg Prod.snd h) (pg.base + off)
  simpa only [Dev.rest, hp, Bool.false_eq_true, if_false] using hkey

/-- A field is read from one register, or from two for more than 32 bits. -/
theorem Dev.get_of_reg {f : Fld} (h : e.reg f.key = d.reg f.key) (h4 : e.reg (f.key + 4) = d.reg (f.key + 4)) :
    e.get f = d.get f := by
  unfold Dev.get Dev.reg64
  rw [h, h4]

theorem Dev.get_of_reg_narrow {f : Fld} (hw : f.lo + f.w ≤ 32) (h : e.reg f.key = d.reg f.key) : e.get f = d.get f := by
  rw [Dev.get_narrow _ hw, Dev.get_narrow _ hw, h]

end

/-! ### Registers that an operation does not reach -/

section
variable {d : Dev}

theorem Dev.stickIf_reg_ne {f : Fld} {j : Nat} (hj : j ≠ f.key) (c : Bool) : (d.stickIf c f).reg j = d.reg j := by
  unfold Dev.stickIf
  split
  · exact Dev.stick_reg_ne hj
  · rfl

theorem Dev.get_stickIf_ne {f g : Fld} (h : f.apart g = true) (c : Bool) : (d.stickIf c f).get g = d.get g := by
  unfold Dev.stickIf
  split
  · exact Dev.get_stick_ne _ h
  · rfl

theorem Dev.get_bump_ne {f g : Fld} (h : f.apart g = true) (n : Nat) : (d.bump f n).get g = d.get g :=
  Dev.get_set_ne _ h _

/-- A field of other registers than the one written. -/
theorem Dev.get_plainWrite_ne {pg : Page} {off ss : Nat} {r : Row} {f : Fld} (hr : rowOf pg off = some r)
    (hp : r.pair = 0) (hf : f.key ≠ r.key pg off ss) (hf4 : f.key + 4 ≠ r.key pg off ss) (d : Dev) (val : Word) :
    (d.plainWrite ss pg off val).get f = d.get f :=
  Dev.get_of_reg (Dev.plainWrite_reg_ne hr hp hf d val) (Dev.plainWrite_reg_ne hr hp hf4 d val)

end

/-! ### An event raised by a producer (R208, R228) -/

section
variable {A : Part → Bool}

theorem keyPart_armHealth (owner : Nat) (k : Clu) : keyPart (ARM_HEALTH owner k) = .arm :=
  (keyPart_sess owner _).trans (keyPart_page (.arm k) (show 0x114 < 0x1000 by decide))

/-- An event that has come too far shows in the owner's ARM_HEALTH, and in no other register of a cluster's pages. -/
theorem Dev.hopDrop_rest_at (h : Allows A [.dev 6, .arm, .common, .access, .faults, .sessions, .sent]) {k : Nat}
    (hk : k < 16) (d : Dev) (r owner : Nat) : (d.hopDrop k r owner).rest A = d.rest A := by
  have hkey : A (keyPart (ARM_HEALTH owner k)) = true := h.key (by rw [keyPart_armHealth owner ⟨k, hk⟩]; decide)
  unfold Dev.hopDrop
  dsimp only
  rw [dif_pos hk, Dev.raise_rest_at (h.of (by decide)) (show 256 + 112 * k + 104 < 4096 by omega),
    Dev.irqAt_rest (h.of (by decide)), Dev.bump_rest_at (ARM_HEALTH.HOP_DROP owner k) hkey,
    Dev.stick_rest_at (ARM_HEALTH.HOP owner k) hkey (h.at (by decide))]

theorem Dev.emit_rest_at (h : Allows A [.dev 6, .arm, .common, .access, .clusters, .faults, .sessions, .sent]) {k : Nat}
    (hk : k < 16) (d : Dev) (r origin hop : Nat) : (d.emit k r origin hop).rest A = d.rest A := by
  unfold Dev.emit
  split
  · rfl
  · simp only [Dev.offer_rest (h.of (by decide)), Dev.hopDrop_rest_at (h.of (by decide)) hk, rest_ite, ite_self]

theorem Dev.emit_lane (d : Dev) (k r origin hop L : Nat) : (d.emit k r origin hop).lane L = d.lane L :=
  Dev.lane_of_rest (Dev.emit_rest (allBut_regs rfl) (allBut_allows (by decide)) ..) L

end

/-! ### A command, a host's write -/

theorem State.on_of_eq {s : State} {f : Dev → Dev} {e : Dev} (h : f s.toDev = e) : s.on f = .next { s with toDev := e } := by
  rw [State.on, h]

section
variable (d : Dev) (pg : Page) (f : Dev → Dev) (c : Option (Nat × Nat))

/-- What is remembered of the present fabric cycle is in no part but the accesses. -/
theorem Dev.tracked_lane (L : Nat) : (d.tracked pg f c).lane L = (f d).lane L := rfl
theorem Dev.tracked_fq (k : Nat) : (d.tracked pg f c).fq k = (f d).fq k := rfl
theorem Dev.tracked_cl (k : Nat) : (d.tracked pg f c).cl k = (f d).cl k := rfl

variable (ss off : Nat) (val : Word)

theorem Dev.plainWrite_lane (L : Nat) : (d.plainWrite ss pg off val).lane L = d.lane L :=
  Dev.lane_of_rest (Dev.plainWrite_rest (allBut_regs rfl) (allBut_allows (by decide)) ..) L

theorem Dev.plainWrite_epoch : (d.plainWrite ss pg off val).epoch = d.epoch :=
  Dev.epoch_of_rest (Dev.plainWrite_rest (allBut_regs rfl) (allBut_allows (by decide)) ..)

theorem Dev.plainWrite_fq (k : Nat) : (d.plainWrite ss pg off val).fq k = d.fq k :=
  Dev.fq_of_rest (Dev.plainWrite_rest (allBut_regs rfl) (allBut_allows (by decide)) ..) k

end

end Sys2Proof.Machine
end

