-- ==== Sys2Proof/Proofs/Lanes.lean ====
section
-- Proofs one at a time: run side by side, the whole text outgrows the memory limit of the check.
set_option Elab.async false
/-! SUPPORT. What the lane logic leaves of a lane, and the effects of its commands (R71 to R92). -/

namespace Sys2Proof.Machine

/-! ### Trigger slots, the gate, software triggers (R73, R75, R76) -/

section
variable {d : Dev} {L : Nat}

theorem Dev.slotBusyEnd_clears {n : Nat} (h0 : tget (fun _ => 0) (d.lane L).slotBusy n ≠ 0)
    (hd : tget (fun _ => 0) (d.lane L).slotBusy n ≤ tq d.epoch) :
    (d.slotBusyEnd L n).get (LANE_TRIG_STAT.BUSY L n) = 0
      ∧ tget (fun _ => 0) ((d.slotBusyEnd L n).lane L).slotBusy n = 0 := by
  unfold Dev.slotBusyEnd
  dsimp only
  rw [if_pos (by simp [h0, hd])]
  refine ⟨Dev.get_set _ (show 0 + 1 ≤ 32 by decide) 0, ?_⟩
  rw [Dev.set_lane, Dev.lane_modLane, if_pos rfl, tget_tput_same]

theorem Dev.gateChange_armed {g : GateEv} (hg : (d.lane L).gates.find? (fun g => !g.done) = some g)
    (ht : g.t ≤ tq d.epoch + 4095) :
    (d.gateChange L).get (LANE_GATE.ARMED L) = gateApply (d.get (LANE_GATE.ARMED L)) g % 64 := by
  unfold Dev.gateChange
  dsimp only
  rw [hg]
  dsimp only
  rw [if_neg (by omega), Dev.setLane_get]
  exact Dev.get_set _ (show 0 + 6 ≤ 32 by decide) _

theorem lanePage_base (L : Lch) : (lanePage L).base = lanePg L := by
  have hk : L.val / 64 % 16 = L / 64 := Nat.mod_eq_of_lt (by omega)
  show chPg (L.val / 64 % 16) (L % 64) = lanePg L
  rw [hk]

/-- The row of LANE_SW_CTRL: EG_MASK and ACTION, and the command GO. -/
def swCtrlRow : Row := ⟨0x130, 0, 1, false, 0x13F, 0x0, [], 0x10000, 0x0, 0x0, .owner, 0⟩

theorem rowOf_swCtrl (L : Nat) : rowOf (lanePage L) 0x130 = some swCtrlRow := rfl

theorem swCtrlRow_key (ss : Nat) (L : Lch) : swCtrlRow.key (lanePage L) 0x130 ss = LANE_SW_CTRL L := by
  show (lanePage L).base + 0x130 = _
  rw [lanePage_base]

theorem swCtrlRow_mask {key : Nat} : swCtrlRow.writable ⟨key, 0, 6⟩ = true := by
  have h : swCtrlRow.writable ⟨0, 0, 6⟩ = true := by decide
  exact h

theorem swCtrlRow_action {key : Nat} : swCtrlRow.writable ⟨key, 8, 1⟩ = true := by
  have h : swCtrlRow.writable ⟨0, 8, 1⟩ = true := by decide
  exact h

/-- A FIRE of a lane that is not in hold, from the present T0. -/
theorem Dev.swTrigger_fire (hh : d.get (LANE_STAT.HOLD L) = 0) (ha : d.on (LANE_SW_CTRL.ACTION L) = false) {eg : Nat}
    (he : eg < 6) (hm : (d.get (LANE_SW_CTRL.EG_MASK L)).testBit eg = true) :
    ∃ c ∈ ((d.swTrigger L).lane L).cands, c.eg = eg
      ∧ c.sched = tq d.epoch + max (d.get (LANE_SW_DELAY.DELAY L) % 2 ^ 52) (tq 16) ∧ c.src = .software := by
  have hon : ∀ c, (d.stickIf c (LANE_STAT.SW_LATE L)).on (LANE_SW_CTRL.ACTION L) = false := fun c => by
    unfold Dev.on at ha ⊢
    rw [Dev.get_stickIf_ne (by simp [Fld.apart])]
    exact ha
  unfold Dev.swTrigger
  dsimp only
  rw [hon, if_neg Bool.false_ne_true, Dev.stickIf_epoch]
  refine Dev.fireAt_added ?_ he ?_ ..
  · rw [Dev.get_stickIf_ne (by simp [Fld.apart])]
    exact hh
  · rw [Dev.get_stickIf_ne (by simp [Fld.apart])]
    exact hm

theorem wfield_testBit (v : Word) {lo n i : Nat} (h : i < n) : (wfield v lo n).testBit i = wbit v (lo + i) := by
  unfold wfield wbit
  rw [Nat.testBit_mod_two_pow, Nat.testBit_div_two_pow, Nat.add_comm]
  simp [h, BitVec.getLsbD]

/-- SW_TRIGGER_GO of a FIRE: its mask is that of the write itself. -/
theorem Dev.swTriggerWrite_fire {ss : Nat} {L : Lch} {val : Word}
    (h : d.lets ss (lanePage L) 0x130 (whoOf (lanePage L) 0x130) true = true) (hh : d.get (LANE_STAT.HOLD L) = 0)
    (hgo : wbit val 16 = true) (ha : wbit val 8 = false) {eg : Nat} (he : eg < 6) (hm : wbit val eg = true) :
    ∃ c ∈ ((d.swTriggerWrite ss L val).lane L).cands, c.eg = eg
      ∧ c.sched = tq d.epoch + max (d.get (LANE_SW_DELAY.DELAY L) % 2 ^ 52) (tq 16) ∧ c.src = .software := by
  have hr := rowOf_swCtrl L
  have hk := swCtrlRow_key ss L
  have ho := Dev.outranked_of_lets h swCtrlRow
  have hkeep : ∀ f : Fld, f.key ≠ LANE_SW_CTRL L → f.key + 4 ≠ LANE_SW_CTRL L →
      (d.plainWrite ss (lanePage L) 0x130 val).get f = d.get f := fun f h1 h2 =>
    Dev.get_plainWrite_ne hr rfl (by rw [hk]; exact h1) (by rw [hk]; exact h2) d val
  have hmask : (d.plainWrite ss (lanePage L) 0x130 val).get (LANE_SW_CTRL.EG_MASK L) = wfield val 0 6 :=
    Dev.get_plainWrite hr rfl hk.symm swCtrlRow_mask ho val
  have hact : (d.plainWrite ss (lanePage L) 0x130 val).get (LANE_SW_CTRL.ACTION L) = wfield val 8 1 :=
    Dev.get_plainWrite hr rfl hk.symm swCtrlRow_action ho val
  unfold Dev.swTriggerWrite
  rw [hgo, Dev.cmdWrite_of_lets h, Dev.tracked_lane, if_pos rfl]
  obtain ⟨c, hc, heg, hsched, hsrc⟩ := Dev.swTrigger_fire (d := d.plainWrite ss (lanePage L) 0x130 val) (L := L)
    (by rw [hkeep _ (by simp) (by simp)]; exact hh) ((congrArg (· == 1) hact).trans ((wfield_one val 8).trans ha)) he
    (by rw [hmask, wfield_testBit val he, Nat.zero_add]; exact hm)
  exact ⟨c, hc, heg, by rw [hsched, Dev.plainWrite_epoch, hkeep _ (by simp) (by simp)], hsrc⟩

/-- LANE_CFG_WRITE that changes no inversion while an edge is in flight. -/
theorem Dev.laneCfgWrite_of_lets {ss : Nat} {val : Word} (h : d.lets ss (lanePage L) 0x100 .owner false = true)
    (hf : (val ^^^ d.reg (LANE_CFG L)) &&& 3 = 0 ∨ d.inFlight L = false) :
    d.laneCfgWrite ss L val = d.tracked (lanePage L) fun d => d.plainWrite ss (lanePage L) 0x100 val := by
  unfold Dev.laneCfgWrite
  rw [Dev.hostWrite_of_lets h]
  simp only [Dev.tracked, Dev.trackedAt]
  rw [if_neg (by rw [Bool.and_eq_true, bne_iff_ne]; exact fun hn => hf.elim hn.1 fun hf => Bool.false_ne_true (hf.symm.trans hn.2))]
  rfl

end

/-! ### What results leave of a lane (R88) -/

/-- A part of a lane apart from what a completed result changes. -/
structure AsideVerdict {β : Type} (π : Lane → β) : Prop where
  fail : ∀ (l : Lane) b, π { l with firstFail := b } = π l
  events : ∀ (l : Lane) xs, π { l with stbEvents := xs } = π l

/-- And apart from the results in the making. -/
structure AsideResults {β : Type} (π : Lane → β) : Prop extends AsideVerdict π where
  results : ∀ (l : Lane) rs, π { l with results := rs } = π l

theorem Dev.modLane_aside {β : Type} {π : Lane → β} {f : Lane → Lane} (d : Dev) (L : Nat) (hf : ∀ l, π (f l) = π l) :
    π ((d.modLane L f).lane L) = π (d.lane L) := by
  rw [Dev.lane_modLane, if_pos rfl, hf]

theorem Dev.finishResult_lane {β : Type} {π : Lane → β} (h : AsideVerdict π) (d : Dev) (L : Nat) (r : PendRes) :
    π ((d.finishResult L r).lane L) = π (d.lane L) := by
  unfold Dev.finishResult
  dsimp only
  rw [apply_ite (fun e : Dev => π (e.lane L)), Dev.emit_lane, Dev.modLane_aside _ L fun l => h.events l _, ite_self]
  split
  · rw [Dev.set_lane, Dev.set_lane, Dev.set_lane, Dev.stickIf_lane]
  · rw [apply_ite (fun e : Dev => π (e.lane L)), apply_ite (fun e : Dev => π (e.lane L)),
      apply_ite (fun e : Dev => π (e.lane L)), Dev.irqOwner_lane, Dev.set_lane, Dev.modLane_aside _ L fun l => h.fail l _,
      Dev.stick_lane, Dev.bump_lane, ite_self, ite_self, ite_self, Dev.set_lane, Dev.set_lane, Dev.set_lane,
      Dev.stickIf_lane]

section
variable {β : Type} {π : Lane → β} (h : AsideResults π) (d : Dev) (L : Nat)
include h

theorem Dev.deliverResults_lane : π ((d.deliverResults L).lane L) = π (d.lane L) := by
  unfold Dev.deliverResults
  dsimp only
  rw [foldl_keeps (fun e : Dev => π (e.lane L)) fun e r => Dev.finishResult_lane h.toAsideVerdict e L r, Dev.lane_setLane, if_pos rfl,
    h.results]

theorem Dev.resolveSide_lane (u : Nat × Nat) (x : StbSide) : π ((d.resolveSide L u x).lane L) = π (d.lane L) := by
  unfold Dev.resolveSide
  rw [Dev.deliverResults_lane h, Dev.modLane_aside _ L fun l => h.results l _]

theorem Dev.resolveUses_lane (uses : List (Nat × Nat)) (x : StbSide) :
    π ((d.resolveUses L uses x).lane L) = π (d.lane L) :=
  foldl_keeps (fun e : Dev => π (e.lane L)) (fun e u => Dev.resolveSide_lane h e L u x) uses d

end

theorem asideResults_cands : AsideResults Lane.cands := ⟨⟨fun _ _ => rfl, fun _ _ => rfl⟩, fun _ _ => rfl⟩

theorem asideVerdict_flight : AsideVerdict Lane.flight := ⟨fun _ _ => rfl, fun _ _ => rfl⟩

theorem asideVerdict_results : AsideVerdict Lane.results := ⟨fun _ _ => rfl, fun _ _ => rfl⟩

/-! ### The lane logic (R71, R77, R79) -/

section
variable (d : Dev) (L : Nat)

theorem Dev.launch_lane (eg t : Nat) (uses : List (Nat × Nat)) (M : Nat) : (d.launch L eg t uses).lane M = d.lane M :=
  Dev.lane_of_rest (Dev.launch_rest (allBut_regs rfl) (allBut_allows (by decide)) ..) M

theorem Dev.commitAt_lane (eg t : Nat) (uses : List (Nat × Nat)) :
    (d.commitAt L eg t uses).lane L = { (d.lane L) with
      fired := tput (fun _ => 0) (d.lane L).fired eg (t + 1)
      flight := (d.lane L).flight ++ [{ eg, lane := t, uses }] } := by
  unfold Dev.commitAt
  rw [Dev.launch_lane, Dev.lane_modLane, if_pos rfl]

theorem Dev.commitEdge_cands (eg t : Nat) : ((d.commitEdge L eg t).lane L).cands = (d.lane L).cands := by
  have hshort : ∀ c : Bool, ((if c then (d.stick (LANE_STAT.PW_VIOL L)).bump (LANE_CNT.STRETCH L) else d).lane L)
      = d.lane L := fun c => by
    split
    · rw [Dev.bump_lane, Dev.stick_lane]
    · rfl
  unfold Dev.commitEdge
  dsimp only
  rw [apply_ite (fun e : Dev => (e.lane L).cands), apply_ite (fun e : Dev => (e.lane L).cands), Dev.bump_lane,
    Dev.stick_lane, hshort, Dev.set_lane, Dev.commitAt_lane]
  dsimp only
  rw [Dev.modLane_aside (π := Lane.cands) _ L fun l => by split <;> rfl, hshort, ite_self, ite_self]

theorem Dev.commitPair_cands (set t : Nat) (cs : List Cand) :
    ((d.commitPair L set t cs).lane L).cands = (d.lane L).cands := by
  unfold Dev.commitPair
  dsimp only
  split
  · rw [Dev.stick_lane, Dev.bump_lane]
  · split
    · rw [Dev.commitEdge_cands, Dev.bump_lane]
    · split
      · rw [Dev.commitEdge_cands, Dev.bump_lane]
      · rw [Dev.bump_lane]

theorem Dev.commitStrobe_cands (eg t : Nat) (cs : List Cand) :
    ((d.commitStrobe L eg t cs).lane L).cands = (d.lane L).cands := by
  unfold Dev.commitStrobe
  dsimp only
  split
  · rfl
  · split
    · rw [Dev.resolveUses_lane asideResults_cands, Dev.stick_lane, Dev.bump_lane, Dev.stick_lane, Dev.bump_lane]
    · rw [Dev.commitAt_lane, Dev.bump_lane]

/-- A candidate that the gate shuts out: a period-program edge on a generator that is not armed at its time (R75). -/
def Lane.shut (l : Lane) (c : Cand) : Bool := c.src.program && l.armedAt c.sched / 2 ^ c.eg % 2 == 0

/-- The lane without its candidates of a lane time, and without the edges that have left the ball. -/
def Dev.takeDue (t : Nat) : Dev := d.setLane L { (d.lane L) with
  cands := (d.lane L).cands.filter fun c => c.lane != t
  flight := (d.lane L).flight.filter fun f => 4 ≤ f.eg || tq d.epoch ≤ f.lane }

/-- What candidates of one lane time become: DRV, DEN and the two strobes. -/
def Dev.commitLive (t : Nat) (live : List Cand) : Dev :=
  (((d.commitPair L 0 t live).commitPair L 2 t live).commitStrobe L 4 t live).commitStrobe L 5 t live

theorem Dev.commitLive_cands (t : Nat) (live : List Cand) :
    ((d.commitLive L t live).lane L).cands = (d.lane L).cands := by
  unfold Dev.commitLive
  rw [Dev.commitStrobe_cands, Dev.commitStrobe_cands, Dev.commitPair_cands, Dev.commitPair_cands]

variable {d L} {t : Nat}

theorem Dev.candidateCommit_of_served (he : earliest (d.lane L).cands = some t) (ht : t / 4096 ≤ d.epoch + 4)
    (hs : (d.served L).isSome = true) :
    d.candidateCommit L = ((d.takeDue L t).resolveUses L
      ((((d.lane L).cands.filter fun c => c.lane == t).filter (d.lane L).shut).flatMap fun c => c.uses)
      { code := 0, valid := false, gated := true, t }).commitLive L t
        (((d.lane L).cands.filter fun c => c.lane == t).filter fun c => !(d.lane L).shut c) := by
  unfold Dev.candidateCommit
  dsimp only
  rw [he]
  dsimp only
  rw [if_neg (by omega), if_neg (by simpa using Option.isSome_iff_ne_none.mp hs)]
  rfl

theorem Dev.candidateCommit_of_unserved (he : earliest (d.lane L).cands = some t) (ht : t / 4096 ≤ d.epoch + 4)
    (hs : d.served L = none) : d.candidateCommit L = d.cutCands L fun c => c.lane == t := by
  unfold Dev.candidateCommit
  dsimp only
  rw [he]
  dsimp only
  rw [if_neg (by omega), if_pos (by rw [hs]; rfl)]

theorem Dev.cutCands_cands (p : Cand → Bool) :
    ((d.cutCands L p).lane L).cands = (d.lane L).cands.filter fun c => !p c := by
  unfold Dev.cutCands Dev.dropResults
  dsimp only
  rw [Dev.lane_modLane, if_pos rfl, Dev.lane_setLane, if_pos rfl]

/-- CANDIDATE_COMMIT takes every candidate of its lane time, whether a channel serves the lane or not. -/
theorem Dev.candidateCommit_cands (he : earliest (d.lane L).cands = some t) (ht : t / 4096 ≤ d.epoch + 4) :
    ((d.candidateCommit L).lane L).cands = (d.lane L).cands.filter fun c => c.lane != t := by
  cases hs : d.served L with
  | none =>
    rw [Dev.candidateCommit_of_unserved he ht hs, Dev.cutCands_cands]
    rfl
  | some p =>
    rw [Dev.candidateCommit_of_served he ht (by rw [hs]; rfl), Dev.commitLive_cands,
      Dev.resolveUses_lane asideResults_cands, Dev.takeDue, Dev.lane_setLane, if_pos rfl]

/-! ### A lone rise of DRV -/

theorem Dev.commitStrobe_of_none {eg : Nat} {cs : List Cand} (h : ∀ c ∈ cs, c.eg ≠ eg) : d.commitStrobe L eg t cs = d := by
  have hn : (cs.filter fun c => c.eg == eg) = [] := by simpa using h
  unfold Dev.commitStrobe
  dsimp only
  rw [hn, List.isEmpty_nil, if_pos rfl]

theorem Dev.commitPair_of_none {set : Nat} {cs : List Cand} (h : ∀ c ∈ cs, c.eg < set) :
    d.commitPair L set t cs = d.bump (LANE_CNT2.MERGE L) 0 := by
  have ha : (cs.filter fun c => c.eg == set) = [] := by simpa using fun c hc => (h c hc).ne
  have hb : (cs.filter fun c => c.eg == set + 1) = [] := by
    simpa using fun c hc => (Nat.lt_succ_of_lt (h c hc)).ne
  unfold Dev.commitPair
  dsimp only
  rw [ha, hb, List.length_nil, if_neg (by decide), if_neg (by decide), if_neg (by decide), Nat.zero_sub, Nat.add_zero]

/-- The lane has risen by an edge in flight at `t`. -/
theorem Dev.commitEdge_rise (hlow : d.get (LANE_STAT.DRV_LEVEL L) = 0) (hlast : (d.lane L).drvLast = none)
    (hf : (d.lane L).fired = []) : d.commitEdge L 0 t =
      ((d.modLane L fun l => { l with drvLast := some t }).commitAt L 0 t []).set (LANE_STAT.DRV_LEVEL L) 1 := by
  have hsoon : (d.lane L).tooSoon 0 t = false := by
    unfold Lane.tooSoon Lane.firedAt
    rw [hf]
    rfl
  unfold Dev.commitEdge
  simp only [Nat.zero_lt_two, if_true, Nat.zero_mod, hlow, Nat.zero_ne_one, if_false, hlast, hsoon, Bool.false_eq_true]

theorem Dev.commitPair_rise {c : Cand} (hc : c.eg = 0) (hlow : d.get (LANE_STAT.DRV_LEVEL L) = 0)
    (hlast : (d.lane L).drvLast = none) (hf : (d.lane L).fired = []) :
    d.commitPair L 0 t [c] = (((d.bump (LANE_CNT2.MERGE L) 0).modLane L fun l => { l with drvLast := some t }).commitAt L 0 t
      []).set (LANE_STAT.DRV_LEVEL L) 1 := by
  have ha : ([c].filter fun c => c.eg == 0) = [c] := by simp [hc]
  have hb : ([c].filter fun c => c.eg == 0 + 1) = [] := by simp [hc]
  rw [← Dev.commitEdge_rise ((Dev.get_bump_ne (by simp [Fld.apart]) 0).trans hlow) (by rw [Dev.bump_lane]; exact hlast)
    (by rw [Dev.bump_lane]; exact hf)]
  unfold Dev.commitPair
  dsimp only
  rw [ha, hb, List.length_singleton, List.length_nil, Nat.sub_self, Nat.add_zero, if_neg (by decide),
    if_pos (by decide)]

/-- A lone DRV rise of a low lane that has never fired is in flight at its lane time, and drives the lane high. -/
theorem Dev.commitLive_rise {c : Cand} (hc : c.eg = 0) (hlow : d.get (LANE_STAT.DRV_LEVEL L) = 0)
    (hlast : (d.lane L).drvLast = none) (hf : (d.lane L).fired = []) :
    ((d.commitLive L t [c]).lane L).flight = (d.lane L).flight ++ [{ eg := 0, lane := t, uses := [] }]
      ∧ (d.commitLive L t [c]).get (LANE_STAT.DRV_LEVEL L) = 1 ∧ ((d.commitLive L t [c]).lane L).drvLast = some t := by
  have hone : ∀ n, 0 < n → ∀ x ∈ [c], x.eg < n := fun n hn x hx => by rw [List.mem_singleton.mp hx, hc]; exact hn
  have hne : ∀ n, 0 < n → ∀ x ∈ [c], x.eg ≠ n := fun n hn x hx => (hone n hn x hx).ne
  unfold Dev.commitLive
  rw [Dev.commitStrobe_of_none (hne 5 (by decide)), Dev.commitStrobe_of_none (hne 4 (by decide)),
    Dev.commitPair_of_none (hone 2 (by decide)), Dev.commitPair_rise hc hlow hlast hf, Dev.get_bump_ne (by simp [Fld.apart]),
    Dev.bump_lane, Dev.set_lane, Dev.commitAt_lane, Dev.lane_modLane, if_pos rfl, Dev.bump_lane]
  exact ⟨rfl, Dev.get_set _ (show 11 + 1 ≤ 32 by decide) 1, rfl⟩

/-- CANDIDATE_COMMIT of a lone candidate that the gate does not shut out and that takes part in no result. -/
theorem Dev.candidateCommit_lone {c : Cand} (hc : (d.lane L).cands = [c]) (ht : c.lane / 4096 ≤ d.epoch + 4)
    (hs : (d.served L).isSome = true) (hsrc : c.src.program = false) :
    d.candidateCommit L = (d.takeDue L c.lane).commitLive L c.lane [c] := by
  have hshut : (d.lane L).shut c = false := by rw [Lane.shut, hsrc, Bool.false_and]
  rw [Dev.candidateCommit_of_served (t := c.lane) (by rw [hc]; rfl) ht hs, hc]
  simp only [List.filter_cons, beq_self_eq_true, if_true, List.filter_nil, hshut, Bool.false_eq_true, if_false,
    Bool.not_false, List.flatMap_nil]
  rfl

end

/-! ### Strobes (R86 to R88) -/

section
variable {d : Dev} {L : Nat}

/-- The one result in the making completes once it is decided, where no strobe is in flight. -/
theorem Dev.deliverResults_one {r : PendRes} (hr : (d.lane L).results = [r]) (hd : r.done = true)
    (hf : (d.lane L).flight = []) :
    d.deliverResults L = (d.setLane L { (d.lane L) with results := [] }).finishResult L r := by
  unfold Dev.deliverResults
  dsimp only
  rw [hr, hf]
  simp only [List.filter_cons, hd, List.all_nil, Bool.and_self, if_true, List.filter_nil, Bool.not_true,
    Bool.false_eq_true, if_false]
  rfl

theorem Dev.deliverResults_none (hr : (d.lane L).results = []) :
    d.deliverResults L = d.setLane L { (d.lane L) with results := [] } := by
  unfold Dev.deliverResults
  dsimp only
  rw [hr]
  rfl

/-- A result of a single strobe, valid and not gated, shows its level (R88). -/
theorem resultBits_single {r : PendRes} {x : StbSide} (hm : r.mode = 3) (h0 : r.s0 = some x) (h1 : r.s1 = none)
    (hv : x.valid = true) (hg : x.gated = false) : resultBits r = x.code % 2 + 2 := by
  unfold resultBits
  simp [hm, h0, h1, hv, hg]

/-- Without a comparison a result shows in LANE_STB_RESULT, whatever event it raises. -/
theorem Dev.finishResult_shows {L : Lch} {r : PendRes} (hm : matchFails r = none) :
    (d.finishResult L r).get (LANE_STB_RESULT.RESULT L) = resultBits r % 16 := by
  have hemit : ∀ (e : Dev) n o h, (e.emit (L / 64) n o h).get (LANE_STB_RESULT.RESULT L)
      = e.get (LANE_STB_RESULT.RESULT L) := fun e n o h => by
    have hk : L.val / 64 < 16 := by omega
    have hch : ∀ q ∈ [Part.dev 6, .arm, .common, .access, .clusters, .faults, .sessions, .sent], q ≠ Part.ch := by decide
    refine Dev.get_of_reg_narrow (show 0 + 4 ≤ 32 by decide) ?_
    exact Dev.reg_of_rest (pg := .ch ⟨L / 64, hk⟩ ⟨L % 64, by omega⟩) (off := 0x124) (by decide) (by decide)
      (Dev.emit_rest_at (allBut_allows hch) hk ..)
  unfold Dev.finishResult
  rw [hm]
  dsimp only
  rw [apply_ite (fun e : Dev => e.get (LANE_STB_RESULT.RESULT L)), hemit, Dev.modLane_get, ite_self,
    Dev.get_set_ne _ (by simp [Fld.apart]), Dev.get_set_ne _ (by simp [Fld.apart])]
  exact Dev.get_set _ (show 0 + 4 ≤ 32 by decide) _

theorem matchFails_of_own {r : PendRes} (h : r.own = true) : matchFails r = none := by
  unfold matchFails
  split
  · rfl
  · dsimp only
    rw [if_pos h]

/-- The first side of a result takes the level. -/
theorem Dev.sampleCode_first (lev : Nat) (changed : Bool) (uses : List (Nat × Nat)) (id : Nat) :
    d.sampleCode L lev changed uses (id, 0) = lev := by
  unfold Dev.sampleCode
  dsimp only
  split
  · rfl
  · rfl

/-- The strobe decides the one result in the making, which completes. -/
theorem Dev.resolveSide_own {r : PendRes} (hr : (d.lane L).results = [r]) (hm : r.mode = 3)
    (hf : (d.lane L).flight = []) (x : StbSide) : ∃ e : Dev,
    d.resolveSide L (r.id, 0) x = e.finishResult L { r with s0 := some x } ∧ e.lane L = { (d.lane L) with results := [] } := by
  unfold Dev.resolveSide
  generalize hd : (d.modLane L fun l => { l with results := l.results.map fun y =>
    if y.id ≠ r.id then y else if 0 = 0 then { y with s0 := some x } else { y with s1 := some x } }) = d1
  have hl : d1.lane L = { (d.lane L) with results := [{ r with s0 := some x }] } := by
    rw [← hd, Dev.lane_modLane, if_pos rfl, hr, List.map_singleton, if_neg (not_not_intro rfl), if_pos rfl]
  refine ⟨_, Dev.deliverResults_one (by rw [hl]) ?_ (by rw [hl]; exact hf), ?_⟩
  · simp [PendRes.done, hm]
  · rw [Dev.lane_setLane, if_pos rfl, hl]

/-- A single strobe's result of its own shows the strobe's level as valid. -/
theorem Dev.finishResult_own {L : Lch} {r : PendRes} {x : StbSide} (hm : r.mode = 3) (ho : r.own = true)
    (h1 : r.s1 = none) (hv : x.valid = true) (hg : x.gated = false) :
    (d.finishResult L { r with s0 := some x }).get (LANE_STB_RESULT.RESULT L) = (x.code % 2 + 2) % 16 := by
  have hown : matchFails { r with s0 := some x } = none := matchFails_of_own ho
  have hbits : resultBits { r with s0 := some x } = x.code % 2 + 2 := resultBits_single hm rfl h1 hv hg
  rw [Dev.finishResult_shows hown, hbits]

/-- The one strobe in flight is taken, and decides what it takes part in. -/
theorem Dev.strobeSample_one {level changed : Bool} {f : Flight} {id : Nat} (hf : (d.lane L).flight = [f])
    (he : 4 ≤ f.eg) (ht : f.lane / 4096 ≤ d.epoch) (hu : f.uses = [(id, 0)]) :
    d.strobeSample L level changed = ((d.setLane L { (d.lane L) with flight := [] }).resolveSide L (id, 0)
      { code := b2n (d.cmpLevel L level), valid := true, gated := false, t := f.lane }).deliverResults L := by
  unfold Dev.strobeSample
  dsimp only
  simp only [hf, hu, List.foldl_cons, List.foldl_nil, if_neg (show ¬ f.eg < 4 by omega),
    if_neg (show ¬ d.epoch < f.lane / 4096 by omega), Dev.sampleCode_first, List.filter_cons, List.filter_nil,
    bne_self_eq_false, Bool.false_eq_true, if_false]

theorem b2n_le (b : Bool) : b2n b ≤ 1 := by cases b <;> decide

/-- STROBE_SAMPLE of the one strobe in flight, for a result of its own. -/
theorem Dev.strobeSample_own {L : Lch} {level changed : Bool} {f : Flight} {r : PendRes}
    (hf : (d.lane L).flight = [f]) (he : 4 ≤ f.eg) (ht : f.lane / 4096 ≤ d.epoch) (hu : f.uses = [(r.id, 0)])
    (hr : (d.lane L).results = [r]) (hm : r.mode = 3) (ho : r.own = true) (h1 : r.s1 = none) :
    ((d.strobeSample L level changed).lane L).flight = []
      ∧ (d.strobeSample L level changed).get (LANE_STB_RESULT.RESULT L) = 2 + b2n (d.cmpLevel L level) := by
  have hlev := b2n_le (d.cmpLevel L level)
  obtain ⟨e, hres, hl⟩ := Dev.resolveSide_own (d := d.setLane L { (d.lane L) with flight := [] }) (L := L) (r := r)
    (by rw [Dev.lane_setLane, if_pos rfl]; exact hr) hm (by rw [Dev.lane_setLane, if_pos rfl])
    { code := b2n (d.cmpLevel L level), valid := true, gated := false, t := f.lane }
  rw [Dev.lane_setLane, if_pos rfl] at hl
  rw [Dev.strobeSample_one hf he ht hu, hres]
  have hdone := fun r => Dev.finishResult_lane asideVerdict_results e L r
  have hkeep := fun r => Dev.finishResult_lane asideVerdict_flight e L r
  rw [Dev.deliverResults_none (by rw [hdone, hl])]
  constructor
  · rw [Dev.lane_setLane, if_pos rfl]
    exact (hkeep _).trans (by rw [hl])
  · rw [Dev.setLane_get, Dev.finishResult_own hm ho h1 rfl rfl]
    dsimp only
    omega

end

/-- Settles O23: of a lane that is not in hold every candidate is taken (`Dev.Adds`), a commitment leaves the candidates of
other lane times (`Dev.commitLive_cands`), and the events that a result raises reach no register of a lane
(`Dev.emit_rest_at`). -/
theorem lanesComplete : Obligations.LanesComplete := by
  unfold Obligations.LanesComplete
  refine ⟨fun L n s ⟨h0, hd⟩ => ⟨_, rfl, Dev.slotBusyEnd_clears h0 hd⟩, fun L g s ⟨hg, ht⟩ => ⟨_, rfl, Dev.gateChange_armed hg ht⟩,
    fun ss L val eg s ⟨hl, hh⟩ ⟨hgo, ha, he, hm⟩ => ?_, fun ss L val s hl hf => ?_,
    fun L u s ⟨he, ht⟩ => ⟨_, rfl, Dev.candidateCommit_cands he ht⟩,
    fun L c s ⟨hc, ht, heg, hsrc, _⟩ ⟨hv, hlow, hlast, hfired⟩ => ?_,
    fun L level changed f r s ⟨hf, he, ht, hu⟩ ⟨hr, hm, ho, _, h1⟩ => ?_⟩
  · obtain ⟨c, hc, heg, hsched, hsrc⟩ := Dev.swTriggerWrite_fire hl hh hgo ha he hm
    exact ⟨_, c, rfl, hc, heg, hsrc, hsched⟩
  · exact State.on_of_eq (s := s) (f := fun d => d.laneCfgWrite ss L val) (Dev.laneCfgWrite_of_lets hl hf)
  · have hs : (s.served L).isSome = true := by
      unfold Dev.served
      rw [if_pos (by rw [Dev.on, hv]; rfl)]
      rfl
    have htl : ((s.toDev.takeDue L c.lane).lane L) = { (s.lane L) with
        cands := (s.lane L).cands.filter fun x => x.lane != c.lane
        flight := (s.lane L).flight.filter fun f => 4 ≤ f.eg || tq s.epoch ≤ f.lane } := by
      rw [Dev.takeDue, Dev.lane_setLane, if_pos rfl]
    obtain ⟨hflight, hlevel, hdrv⟩ := Dev.commitLive_rise (d := s.toDev.takeDue L c.lane) (L := L) (t := c.lane) heg hlow
      (by rw [htl]; exact hlast) (by rw [htl]; exact hfired)
    rw [← Dev.candidateCommit_lone hc ht hs (by rw [hsrc]; rfl)] at hflight hlevel hdrv
    exact ⟨_, { eg := 0, lane := c.lane, uses := [] }, rfl, by rw [hflight]; exact List.mem_append_right _ List.mem_cons_self,
      rfl, rfl, hlevel, hdrv⟩
  · obtain ⟨hflight, hres⟩ := Dev.strobeSample_own (level := level) (changed := changed) hf he ht hu hr hm ho h1
    exact ⟨_, rfl, hflight, hres⟩

end Sys2Proof.Machine
end

