-- ==== Sys2Proof/Proofs/EstimatorControl.lean ====
section
-- Proofs one at a time: run side by side, the whole text outgrows the memory limit of the check.
set_option Elab.async false
/-! SUPPORT. The commands of a frequency estimator (R189, R192 to R195), and what the stamps that leave the queue leave of
its gates. -/

namespace Sys2Proof.Machine

/-! ### The write of FREQ_CTRL -/

/-- A register without writable bits keeps its word against a write. -/
theorem Row.merge_fixed {r : Row} (hrw : r.rw = 0) (hw1c : r.w1c = 0) (hclr : r.clr = []) (old val fresh : Word) :
    r.merge old val fresh = old :=
  BitVec.eq_of_getLsbD_eq fun i hi => by
    rw [Row.merge_bit hclr _ _ _ _ hi, hrw, hw1c]
    simp

/-- The row of FREQ_CTRL: the commands GO, STOP and ABORT alone. -/
def freqCtrlRow : Row := ⟨0x120, 0, 1, false, 0x0, 0x0, [], 0x7, 0x0, 0x0, .owner, 0⟩

theorem rowOf_freqCtrl (k : Nat) : rowOf (freqPage k) 0x120 = some freqCtrlRow := rfl

/-- `e` is `d` with a write noted that has left every register its word. -/
def Dev.Noted (d e : Dev) : Prop := ∃ regs ports, e = { d with regs, ports } ∧ ∀ j, e.reg j = d.reg j

section
variable {d e : Dev} {ss k : Nat}

theorem Dev.Noted.get (h : Dev.Noted d e) (f : Fld) : e.get f = d.get f := by
  obtain ⟨_, _, -, hreg⟩ := h
  exact Dev.get_congr hreg

theorem Dev.Noted.fq (h : Dev.Noted d e) (k : Nat) : e.fq k = d.fq k := by
  obtain ⟨_, _, rfl, -⟩ := h
  rfl

theorem Dev.Noted.epoch (h : Dev.Noted d e) : e.epoch = d.epoch := by
  obtain ⟨_, _, rfl, -⟩ := h
  rfl

theorem Dev.Noted.cycle (h : Dev.Noted d e) : e.cycle = d.cycle := by
  obtain ⟨_, _, rfl, -⟩ := h
  rfl

theorem Dev.Noted.slotOwner (h : Dev.Noted d e) (j : Nat) : e.slotOwner k j ss = d.slotOwner k j ss := by
  obtain ⟨_, _, rfl, -⟩ := h
  rfl

theorem Dev.Noted.freqGoBad (h : Dev.Noted d e) : e.freqGoBad ss k = d.freqGoBad ss k := by
  unfold Dev.freqGoBad Dev.freqState Dev.on
  simp only [h.get, h.slotOwner]

theorem Dev.Noted.freqCopy (h : Dev.Noted d e) : e.freqCopy k ss = d.freqCopy k ss := by
  unfold Dev.freqCopy
  simp only [h.get]
  obtain ⟨_, _, -, hreg⟩ := h
  rw [hreg]

/-- A register given the word that it holds. -/
theorem Dev.setReg_own_reg (d : Dev) (key j : Nat) : (d.setReg key (d.reg key)).reg j = d.reg j := by
  rw [Dev.setReg_reg]
  split
  · next h => rw [h]
  · rfl

theorem Dev.plainWrite_freqCtrl (d : Dev) (ss k : Nat) (val : Word) :
    Dev.Noted d (d.plainWrite ss (freqPage k) 0x120 val) := by
  have hmerge := Row.merge_fixed (r := freqCtrlRow) rfl rfl rfl
  rw [Dev.plainWrite_single (rowOf_freqCtrl k) rfl]
  obtain ⟨regs, ports, hput⟩ := d.putWord_frame ss (freqCtrlRow.key (freqPage k) 0x120 ss) freqCtrlRow val
  refine ⟨regs, ports, hput, fun j => ?_⟩
  unfold Dev.putWord
  dsimp only
  rw [hmerge, hmerge]
  split
  · exact d.setReg_own_reg _ j
  · split
    · exact d.setReg_own_reg _ j
    · exact d.setReg_own_reg _ j

/-- FREQ_CTRL: the command acts on the device as it stands, but for the note of the write. -/
theorem Dev.freqCtrlWrite_of_lets {val : Word}
    (h : d.lets ss (freqPage k) 0x120 (whoOf (freqPage k) 0x120) true = true)
    (hgo : (wbit val 0 || wbit val 1 || wbit val 2) = true) : ∃ e, Dev.Noted d e ∧
    d.freqCtrlWrite ss k val = d.tracked (freqPage k) (fun _ => if wbit val 2 then e.freqAbort k
      else if wbit val 1 then e.freqStop k
      else if (d.fq k).stopCyc == some d.cycle then e else e.freqGo ss k) (some (ss, 0x120)) := by
  have hn := d.plainWrite_freqCtrl ss k val
  refine ⟨_, hn, ?_⟩
  unfold Dev.freqCtrlWrite
  rw [hgo, Dev.cmdWrite_of_lets h]
  simp only [Dev.tracked, Dev.trackedAt, if_true, hn.fq, hn.cycle]

end

/-! ### GO (R192 to R194) -/

section
variable {d : Dev} {ss k : Nat}

/-- START_MODE of the copy is that of FREQ_CFG. -/
theorem Dev.freqCopy_mode : (d.freqCopy k ss).1.mode = d.get (FREQ_CFG.START_MODE k) :=
  (d.get_narrow (f := FREQ_CFG.START_MODE k) (show 14 + 2 ≤ 32 by decide)).symm

theorem Dev.freqCopy_slot : (d.freqCopy k ss).1.slot = d.get (FREQ_CFG.SLOT k) :=
  (d.get_narrow (f := FREQ_CFG.SLOT k) (show 16 + 5 ≤ 32 by decide)).symm

/-- GO in START_MODE 0 arms the estimator for the start that FREQ_START asks for, at least 16 T0 after the origin. -/
theorem Dev.freqGo_epoch (h : d.freqGoBad ss k = false) (hm : d.get (FREQ_CFG.START_MODE k) = 0) :
    (d.freqGo ss k).freqState k = 1 ∧ ((d.freqGo ss k).fq k).run = some (d.freqCopy k ss).1
      ∧ ∃ g, ((d.freqGo ss k).fq k).gate = some g
        ∧ g.g0 = max (tq (d.get (FREQ_START.EPOCH k))) (tq d.epoch + tq 16) := by
  have hmode : (d.freqCopy k ss).1.mode = 0 := Dev.freqCopy_mode.trans hm
  unfold Dev.freqGo
  rw [if_neg (Bool.not_eq_true _ ▸ h)]
  dsimp only
  rw [if_neg (show ¬ (d.freqCopy k ss).1.mode = 1 by omega)]
  refine ⟨Dev.get_set _ (show 0 + 2 ≤ 32 by decide) 1, ?_⟩
  rw [Dev.set_fq, Dev.fq_modFq, if_pos rfl]
  refine ⟨rfl, ?_⟩
  dsimp only
  rw [if_neg (show ¬ (d.freqCopy k ss).1.mode = 1 by omega), if_pos hmode]
  exact ⟨_, rfl, rfl⟩

/-- GO in START_MODE 1 borrows the slot's start consumer. -/
theorem Dev.freqGo_event (h : d.freqGoBad ss k = false) (hm : d.get (FREQ_CFG.START_MODE k) = 1) :
    (d.freqGo ss k).freqState k = 1 ∧ ((d.freqGo ss k).fq k).run = some (d.freqCopy k ss).1
      ∧ ((d.freqGo ss k).fq k).gate = none ∧ ((d.freqGo ss k).cl k).borrowed = some (d.get (FREQ_CFG.SLOT k)) := by
  have hmode : (d.freqCopy k ss).1.mode = 1 := Dev.freqCopy_mode.trans hm
  unfold Dev.freqGo
  rw [if_neg (Bool.not_eq_true _ ▸ h)]
  dsimp only
  rw [if_pos hmode]
  refine ⟨Dev.get_set _ (show 0 + 2 ≤ 32 by decide) 1, ?_⟩
  rw [Dev.set_fq, Dev.modCl_fq, Dev.fq_modFq, if_pos rfl, Dev.set_cl, Dev.cl_modCl, if_pos rfl]
  refine ⟨rfl, if_pos hmode, ?_⟩
  dsimp only
  rw [Dev.freqCopy_slot]

end

/-! ### Stamps that leave the queue (R195, R199) -/

/-- What a gate keeps when a stamp of it ends. -/
def FreqGate.place (g : FreqGate) : Nat × Bool × Nat := (g.g0, g.aborted, g.postT0)

section
variable {d : Dev} {k : Nat}

theorem Dev.stampEnd_fq (d : Dev) (k g0 : Nat) {f : FreqGate → FreqGate} (hf : ∀ g, (f g).place = g.place) :
    ∃ up : FreqGate → FreqGate, (∀ g, (up g).place = g.place) ∧ (d.stampEnd k g0 f).fq k =
      { (d.fq k) with gate := (d.fq k).gate.map up, pre := (d.fq k).pre.map up, closed := (d.fq k).closed.map up } := by
  refine ⟨_, fun g => ?_, by rw [Dev.stampEnd, Dev.fq_modFq, if_pos rfl]⟩
  dsimp only
  split
  · rfl
  · split
    · rfl
    · exact hf _

/-- Two estimators alike but for the stamps of their gates. -/
structure Freq.Alike (f g : Freq) : Prop where
  run : g.run = f.run
  stopCyc : g.stopCyc = f.stopCyc
  n : g.n = f.n
  gate : g.gate.map FreqGate.place = f.gate.map FreqGate.place
  closed : g.closed.map FreqGate.place = f.closed.map FreqGate.place

theorem Freq.Alike.refl (f : Freq) : Freq.Alike f f := ⟨rfl, rfl, rfl, rfl, rfl⟩

theorem Freq.Alike.trans {f g h : Freq} (a : Freq.Alike f g) (b : Freq.Alike g h) : Freq.Alike f h :=
  ⟨b.run.trans a.run, b.stopCyc.trans a.stopCyc, b.n.trans a.n, b.gate.trans a.gate, b.closed.trans a.closed⟩

theorem Dev.stampEnd_alike (d : Dev) (k g0 : Nat) {f : FreqGate → FreqGate} (hf : ∀ g, (f g).place = g.place) :
    Freq.Alike (d.fq k) ((d.stampEnd k g0 f).fq k) := by
  obtain ⟨up, hup, h⟩ := d.stampEnd_fq k g0 hf
  rw [h]
  refine ⟨rfl, rfl, rfl, ?_, ?_⟩
  · rw [Option.map_map]
    exact congrArg (Option.map · (d.fq k).gate) (funext hup)
  · rw [List.map_map]
    exact congrArg (List.map · (d.fq k).closed) (funext hup)

/-- One stamp that leaves the queue, after another. -/
theorem Dev.foldl_alike {α : Type} {g : Dev → α → Dev} (hg : ∀ e a, Freq.Alike (e.fq k) ((g e a).fq k)) (l : List α)
    (d : Dev) : Freq.Alike (d.fq k) ((l.foldl g d).fq k) := by
  induction l generalizing d with
  | nil => exact .refl _
  | cons a l ih => exact (hg d a).trans (ih _)

theorem Dev.dropStamps_alike (d : Dev) (k g0 : Nat) (missed : Bool) :
    Freq.Alike (d.fq k) ((d.dropStamps k g0 missed).fq k) := by
  unfold Dev.dropStamps
  dsimp only
  refine Freq.Alike.trans (by rw [Dev.modCl_fq]; exact .refl _) (Dev.foldl_alike (fun e _ => ?_) _ _)
  split
  · exact Dev.stampEnd_alike _ _ _ fun _ => rfl
  · exact Dev.stampEnd_alike _ _ _ fun _ => rfl

theorem Dev.dropStamps_epoch (d : Dev) (k g0 : Nat) (missed : Bool) : (d.dropStamps k g0 missed).epoch = d.epoch :=
  Dev.epoch_of_rest (Dev.dropStamps_rest (allBut_allows (by decide)) ..)

/-- A gate of that place stands where it stood before. -/
theorem Freq.Alike.gate_some {f f' : Freq} (h : Freq.Alike f f') {g : FreqGate} (hg : f.gate = some g) :
    ∃ g', f'.gate = some g' ∧ g'.place = g.place := by
  have hp := h.gate
  rw [hg, Option.map_some, Option.map_eq_some_iff] at hp
  exact hp

theorem Freq.Alike.mem_closed {f f' : Freq} (h : Freq.Alike f f') {g : FreqGate} (hg : g ∈ f.closed) :
    ∃ g' ∈ f'.closed, g'.place = g.place := by
  have hp : g.place ∈ f'.closed.map FreqGate.place := by
    rw [h.closed]
    exact List.mem_map_of_mem hg
  exact List.mem_map.mp hp

/-! ### STOP and ABORT (R195) -/

/-- The estimator returns from ARMED to IDLE. -/
theorem Dev.freqDisarm_idle (d : Dev) (k : Nat) : (d.freqDisarm k).freqState k = 0 ∧ ((d.freqDisarm k).fq k).run = none
    ∧ ((d.freqDisarm k).fq k).gate = none ∧ ((d.freqDisarm k).fq k).stopCyc = (d.fq k).stopCyc := by
  have hdrop : ∀ o : Option FreqGate, ((match o with | none => d | some g => d.dropStamps k g.g0 false).fq k).stopCyc
      = (d.fq k).stopCyc := fun o => by
    split
    · rfl
    · exact (d.dropStamps_alike k _ false).stopCyc
  unfold Dev.freqDisarm
  dsimp only
  refine ⟨Dev.get_set _ (show 0 + 2 ≤ 32 by decide) 0, ?_⟩
  rw [Dev.set_fq, Dev.modCl_fq, Dev.fq_modFq, if_pos rfl]
  exact ⟨rfl, rfl, hdrop _⟩

/-- STOP of an ARMED estimator. -/
theorem Dev.freqStop_armed (hs : d.freqState k = 1) : (d.freqStop k).freqState k = 0 ∧ ((d.freqStop k).fq k).run = none
    ∧ ((d.freqStop k).fq k).gate = none ∧ ((d.freqStop k).fq k).stopCyc = some d.cycle := by
  generalize hd1 : (d.modFq k fun f => { f with stopCyc := some d.cycle }) = d1
  have hs1 : d1.freqState k = 1 := by rw [← hd1]; exact hs
  have hc1 : (d1.fq k).stopCyc = some d.cycle := by rw [← hd1, Dev.fq_modFq, if_pos rfl]
  obtain ⟨hidle, hrun, hgate, hcyc⟩ := d1.freqDisarm_idle k
  have hstop : d.freqStop k = d1.freqDisarm k := by
    unfold Dev.freqStop
    dsimp only
    rw [hd1, if_pos hs1]
  rw [hstop]
  exact ⟨hidle, hrun, hgate, hcyc.trans hc1⟩

/-- No further gate opens: the open one and those closed are as they were. -/
theorem Dev.freqNoMore_keeps (d : Dev) (k : Nat) :
    ((d.freqNoMore k).fq k).gate.map FreqGate.place = (d.fq k).gate.map FreqGate.place
      ∧ (d.freqNoMore k).epoch = d.epoch := by
  have hdrop : ∀ o : Option FreqGate, Freq.Alike (d.fq k) ((match o with
      | none => d
      | some g => d.dropStamps k g.g0 false).fq k) ∧ (match o with
      | none => d
      | some g => d.dropStamps k g.g0 false).epoch = d.epoch := fun o => by
    split
    · exact ⟨.refl _, rfl⟩
    · exact ⟨d.dropStamps_alike k _ false, d.dropStamps_epoch k _ false⟩
  unfold Dev.freqNoMore
  dsimp only
  rw [Dev.fq_modFq, if_pos rfl, Dev.modFq_epoch]
  exact ⟨(hdrop _).1.gate, (hdrop _).2⟩

/-- ABORT of an OPEN estimator closes its gate as ABORTED, whose result is due 2,048 T0 later. -/
theorem Dev.freqAbort_open {g : FreqGate} (hs : d.freqState k = 2) (hg : (d.fq k).gate = some g) :
    (d.freqAbort k).freqState k = 3 ∧ ((d.freqAbort k).fq k).gate = none
      ∧ ∃ x ∈ ((d.freqAbort k).fq k).closed, x.place = (g.g0, true, d.epoch + 2048) := by
  generalize hd1 : (d.modFq k fun f => { f with stopCyc := some d.cycle }) = d1
  have hg1 : (d1.fq k).gate = some g := by rw [← hd1, Dev.fq_modFq, if_pos rfl]; exact hg
  have he1 : d1.epoch = d.epoch := by rw [← hd1, Dev.modFq_epoch]
  have hs1 : d1.freqState k = 2 := by rw [← hd1]; exact hs
  obtain ⟨hgate, hepoch⟩ := d1.freqNoMore_keeps k
  rw [hg1, Option.map_some, Option.map_eq_some_iff] at hgate
  obtain ⟨g', hg', hplace⟩ := hgate
  have hg0 : g'.g0 = g.g0 := congrArg Prod.fst hplace
  unfold Dev.freqAbort
  dsimp only
  rw [hd1, if_neg (show ¬ d1.freqState k = 1 by omega), if_pos hs1, hg']
  dsimp only
  generalize hd3 : ((d1.freqNoMore k).modFq k fun f => { f with
    gate := none
    closed := f.closed ++ [{ (d1.freqNoMore k).gateFlags k g' with aborted := true, postT0 := (d1.freqNoMore k).epoch + 2048 }] })
    = d3
  have hf3 : d3.fq k = { ((d1.freqNoMore k).fq k) with
      gate := none
      closed := ((d1.freqNoMore k).fq k).closed ++ [{ (d1.freqNoMore k).gateFlags k g' with
        aborted := true, postT0 := (d1.freqNoMore k).epoch + 2048 }] } := by
    rw [← hd3, Dev.fq_modFq, if_pos rfl]
  have hlike := d3.dropStamps_alike k g'.g0 false
  refine ⟨Dev.get_set _ (show 0 + 2 ≤ 32 by decide) 3, ?_⟩
  rw [Dev.set_fq]
  constructor
  · have hnone := hlike.gate
    rw [hf3] at hnone
    exact Option.map_eq_none_iff.mp hnone
  · obtain ⟨x, hx, hxp⟩ := hlike.mem_closed (by rw [hf3]; exact List.mem_append_right _ List.mem_cons_self)
    refine ⟨x, hx, hxp.trans ?_⟩
    rw [hepoch, he1, ← hg0]
    rfl

end

end Sys2Proof.Machine
end

