-- ==== Sys2Proof/Proofs/EstimatorGates.lean ====
section
-- Proofs one at a time: run side by side, the whole text outgrows the memory limit of the check.
set_option Elab.async false
/-! SUPPORT. The inputs of a frequency estimator (R89, R190) and its gates: opening, stamps, closing (R196, R199). -/

namespace Sys2Proof.Machine

/-! ### Transitions of the comparators and the FIN inputs (R89, R188, R190) -/

section
variable (d : Dev)

theorem Dev.come_of_lt {d : Dev} {t : Nat} (h : t < tq (d.epoch + 1)) : d.come t = true := decide_eq_true h

theorem Dev.cmpStamp_cmp (L arrival : Nat) (rise : Bool) :
    ((d.cmpStamp L arrival rise).lane L).cmp = (d.lane L).cmp := by
  unfold Dev.cmpStamp
  dsimp only
  split
  · rfl
  · split
    · rw [Dev.bump_lane]
    · split
      · rfl
      · rw [Dev.emit_lane, Dev.lane_modLane, if_pos rfl]

theorem Dev.presc_lane (L arrival : Nat) (rise : Bool) (M : Nat) : (d.presc L arrival rise).lane M = d.lane M :=
  Dev.lane_of_rest (Dev.presc_rest (allBut_regs rfl) (allBut_allows (by decide)) ..) M

/-- A transition to the other level leaves the lane at that level. -/
theorem Dev.cmpTransition_cmp {L arrival : Nat} {level : Bool} (hl : (d.lane L).cmp ≠ level)
    (ht : arrival < tq (d.epoch + 1)) : ((d.cmpTransition L arrival level).lane L).cmp = level := by
  unfold Dev.cmpTransition
  dsimp only
  rw [if_neg (by simp [hl, Dev.come_of_lt ht]), Dev.presc_lane, Dev.cmpStamp_cmp, Dev.lane_modLane, if_pos rfl]

theorem Dev.prescIn_fins (k arrival : Nat) (run : FreqRun) : (d.prescIn k arrival run).fins = d.fins := by
  unfold Dev.prescIn
  dsimp only
  split
  · rfl
  · unfold Dev.prescaledEdge
    dsimp only
    rw [Dev.setFq_fins, Dev.stickIf_fins]

theorem Dev.finCycle_fins (i arrival : Nat) : (d.finCycle i arrival).fins = d.fins := by
  unfold Dev.finCycle
  refine foldl_keeps (fun e : Dev => e.fins) (fun e k => ?_) _ d
  split
  · rfl
  · split
    · exact Dev.prescIn_fins ..
    · rfl

/-- A transition to the other level leaves the FIN input at that level; its front prescaler counts a rise. -/
theorem Dev.finTransition_fin {i arrival : Nat} {level : Bool} {x : FinIn} (hx : tget (fun _ => {}) d.fins i = x)
    (hl : x.level ≠ level) (ht : arrival < tq (d.epoch + 1)) :
    tget (fun _ => {}) (d.finTransition i arrival level).fins i = ⟨level, if level then (x.div + 1) % 8 else x.div⟩ := by
  unfold Dev.finTransition
  dsimp only
  rw [hx, if_neg (by simp [hl, Dev.come_of_lt ht]), apply_ite (fun e : Dev => e.fins), Dev.finCycle_fins, ite_self]
  exact tget_tput_same ..

end

/-! ### The capture of a result (R204) -/

section
variable {d : Dev} {ss k : Nat}

/-- Entries written side by side read as they were written. -/
theorem tget_foldl_tput {α : Type} [DecidableEq α] (dflt : Nat → α) (a : Nat) (v : Nat → α) (n j : Nat) (hj : j < n) :
    tget dflt ((List.range n).foldl (fun t i => tput dflt t (a + 4 * i) (v i)) []) (a + 4 * j) = v j := by
  induction n with
  | zero => omega
  | succ n ih =>
    rw [List.range_succ, List.foldl_append, List.foldl_cons, List.foldl_nil, tget_tput]
    by_cases h : j = n
    · rw [if_pos (by rw [h]), h]
    · rw [if_neg (by omega), ih (by omega)]

theorem Dev.freqRegs_getD (d : Dev) (k : Nat) {i : Nat} (hi : i < 18) :
    (d.freqRegs k).getD i 0 = d.reg (clu k + 0x7000 + 0x140 + 4 * i) := by
  unfold Dev.freqRegs
  rw [List.getD_eq_getElem _ _ (by simpa using hi), List.getElem_map, List.getElem_range]

/-- In a cycle that posts no result the registers and the sums are captured as they stand. -/
theorem Dev.freqSet_of_quiet (h : (d.fq k).was.all (fun x => x.1 != d.cycle) = true) :
    d.freqSet k = (d.freqRegs k, (d.fq k).acc) := by
  unfold Dev.freqSet
  cases hw : (d.fq k).was with
  | none => rfl
  | some x =>
    rw [hw] at h
    exact if_neg (by simpa using h)

theorem Dev.withReply_fq (d : Dev) (reply : List Byte) (k : Nat) : ({ d with reply } : Dev).fq k = d.fq k := rfl

theorem Dev.freqCapture_of_quiet (ha : d.acts ss = true) (hw : d.waits ss = false) (hg : d.gated (freqPage k) = false)
    (h : (d.fq k).was.all (fun x => x.1 != d.cycle) = true) :
    (d.freqCapture ss k).reply = leBytes 4 (d.reg (FREQ_RES_STAT k)).toNat
      ∧ ((d.freqCapture ss k).fq k).accCap = (d.fq k).acc
      ∧ ∀ i < 18, tget (fun _ => 0) ((d.freqCapture ss k).fq k).capture (0x140 + 4 * i)
        = d.reg (clu k + 0x7000 + 0x140 + 4 * i) := by
  have hcap : d.freqCapture ss k = { d.modFq k (fun f => { f with
      accCap := (d.fq k).acc
      capture := (List.range 18).foldl (fun t i => tput (fun _ => 0) t (0x140 + 4 * i) ((d.freqRegs k).getD i 0)) [] }) with
      reply := leBytes 4 ((d.freqRegs k).getD 0 0).toNat } := by
    unfold Dev.freqCapture
    rw [if_neg (by simp [ha]), if_neg (by simp [hw]), if_neg (by simp [hg]), Dev.freqSet_of_quiet h]
  have hfq : ((d.freqCapture ss k).fq k) = { (d.fq k) with
      accCap := (d.fq k).acc
      capture := (List.range 18).foldl (fun t i => tput (fun _ => 0) t (0x140 + 4 * i) ((d.freqRegs k).getD i 0)) [] } := by
    rw [hcap, Dev.withReply_fq, Dev.fq_modFq, if_pos rfl]
  refine ⟨?_, by rw [hfq], fun i hi => ?_⟩
  · rw [hcap]
    show leBytes 4 ((d.freqRegs k).getD 0 0).toNat = _
    rw [Dev.freqRegs_getD d k (by decide)]
  · rw [hfq]
    exact (tget_foldl_tput _ 0x140 (fun i => (d.freqRegs k).getD i 0) 18 i hi).trans (Dev.freqRegs_getD d k hi)

end

/-! ### Gates (R196, R199) -/

section
variable {d : Dev} {k : Nat} {run : FreqRun} {g : FreqGate}

/-- At G0 the gate opens with no edge counted, and the borrowed consumer returns to its slot. -/
theorem Dev.gateOpen_due (hs : d.freqState k = 1) (hr : (d.fq k).run = some run) (hg : (d.fq k).gate = some g)
    (ht : g.g0 < tq (d.epoch + 1)) : (d.gateOpen k).freqState k = 2 ∧ ((d.gateOpen k).fq k).n = 0
      ∧ ((d.gateOpen k).cl k).borrowed = none ∧ ∃ x, ((d.gateOpen k).fq k).gate = some x ∧ x.g0 = g.g0 := by
  unfold Dev.gateOpen
  dsimp only
  rw [hr, hg]
  dsimp only
  rw [if_neg (by simp [hs, Dev.come_of_lt ht])]
  refine ⟨Dev.get_set _ (show 0 + 2 ≤ 32 by decide) 2, ?_⟩
  unfold Dev.gateBegin
  dsimp only
  rw [Dev.set_fq, Dev.fq_modFq, if_pos rfl, Dev.set_cl, Dev.modFq_cl, Dev.cl_modCl, if_pos rfl]
  exact ⟨rfl, rfl, _, rfl, rfl⟩

theorem mem_ordIns {α : Type} (le : α → α → Bool) (x : α) (l : List α) : x ∈ ordIns le x l := by
  induction l with
  | nil => exact List.mem_singleton_self x
  | cons y l ih =>
    unfold ordIns
    split
    · exact List.mem_cons_of_mem _ ih
    · exact List.mem_cons_self

/-- A stamp's request enters the queue of the estimator, which does not fill. -/
theorem Dev.poolRequest_stamp {r : Req} {i g0 : Nat} (hr : r.src = .freq i g0) :
    d.poolRequest k r = (d.setCl k { (d.cl k) with nextReq := (d.cl k).nextReq + 1 }).modCl k fun c => { c with
      queue := ordIns (fun a b => decide (a.ts ≤ b.ts)) { r with id := (d.cl k).nextReq, post := d.epoch } c.queue } := by
  have hq : ({ r with id := (d.cl k).nextReq, post := d.epoch } : Req).queue = 64 := by simp only [Req.queue, hr]
  unfold Dev.poolRequest
  dsimp only
  rw [hq, if_neg (by simp)]
  unfold Dev.slotState
  dsimp only
  rw [hr]

/-- A stamp that is due, with fewer than MAX_TMU outstanding, sends its request. -/
theorem Dev.stampRequest_due (hr : (d.fq k).run = some run) (hg : (d.fq k).gate = some g) (hd : d.stampDue run g = true)
    (hb : (d.fq k).busy < run.maxTmu) : ∃ r ∈ ((d.stampRequest k).cl k).queue, r.src = .freq g.next g.g0
      ∧ r.ts = g.g0 + tq (g.next * run.delta) ∧ r.start = .timed g.g0 ∧ r.stop = .prescaled
      ∧ ((d.stampRequest k).fq k).gate = some { g with next := g.next + 1, outstanding := g.outstanding + 1 } := by
  have hreq : d.stampRequest k = (d.setFq k { (d.fq k) with
      gate := some { g with next := g.next + 1, outstanding := g.outstanding + 1 } }).poolRequest k
        { id := 0, src := .freq g.next g.g0, session := run.session, lane := run.lane, stopLane := run.lane,
          ts := g.g0 + tq (g.next * run.delta), start := .timed g.g0, stop := .prescaled, stopN := 0,
          timeout := run.gate, ring := 0, ctx := 0, hop := g.hop, post := d.epoch } := by
    unfold Dev.stampRequest
    dsimp only
    rw [hr, hg]
    dsimp only
    rw [if_pos hd]
    unfold stampSend
    dsimp only
    rw [if_neg (by omega)]
  rw [hreq, Dev.poolRequest_stamp rfl, Dev.cl_modCl, if_pos rfl, Dev.modCl_fq, Dev.setCl_fq, Dev.fq_setFq, if_pos rfl]
  exact ⟨_, mem_ordIns .., rfl, rfl, rfl, rfl, rfl⟩

/-- At Gc the single gate closes, and its result is due 2,048 T0 later. -/
theorem Dev.gateClose_single (hs : d.freqState k = 2) (hr : (d.fq k).run = some run) (hg : (d.fq k).gate = some g)
    (ht : run.close g < tq (d.epoch + 1)) (hc : run.cont = false) : (d.gateClose k).freqState k = 3
      ∧ ((d.gateClose k).fq k).gate = none
      ∧ ∃ x ∈ ((d.gateClose k).fq k).closed, x.g0 = g.g0 ∧ x.postT0 = run.close g / 4096 + 2048 := by
  obtain ⟨g', hg', hplace⟩ := (d.dropStamps_alike k g.g0 true).gate_some hg
  have hg0 : g'.g0 = g.g0 := congrArg Prod.fst hplace
  unfold Dev.gateClose
  rw [hr, hg]
  dsimp only
  rw [if_neg (by simp [hs, Dev.come_of_lt ht]), hc, if_neg Bool.false_ne_true, hg', Option.getD_some]
  refine ⟨Dev.get_set _ (show 0 + 2 ≤ 32 by decide) 3, ?_⟩
  rw [Dev.set_fq, Dev.fq_modFq, if_pos rfl]
  refine ⟨rfl, _, List.mem_append_right _ List.mem_cons_self, hg0, ?_⟩
  dsimp only [Dev.gateFlags, FreqRun.close]
  rw [hg0]

end

end Sys2Proof.Machine
end

