-- ==== Sys2Proof/Proofs/EstimatorResults.lean ====
section
-- Proofs one at a time: run side by side, the whole text outgrows the memory limit of the check.
set_option Elab.async false
/-! SUPPORT. The result set that a closed gate posts (R201 to R203). -/

namespace Sys2Proof.Machine

/-! ### 64-bit and 96-bit registers -/

section
variable (d : Dev) (key v : Nat)

theorem Dev.setReg64_reg (j : Nat) : (d.setReg64 key v).reg j =
    if j = key + 4 then BitVec.ofNat 32 (v / 0x100000000) else if j = key then BitVec.ofNat 32 v else d.reg j := by
  unfold Dev.setReg64
  rw [Dev.setReg_reg, Dev.setReg_reg]

theorem Dev.setReg96_reg (j : Nat) : (d.setReg96 key v).reg j =
    if j = key + 8 then BitVec.ofNat 32 (v / 2 ^ 64) else (d.setReg64 key v).reg j := by
  unfold Dev.setReg96
  rw [Dev.setReg_reg]

theorem Dev.setReg64_fq (k : Nat) : (d.setReg64 key v).fq k = d.fq k := rfl
theorem Dev.setReg96_fq (k : Nat) : (d.setReg96 key v).fq k = d.fq k := rfl

variable {d key v}

theorem Dev.setReg64_reg_ne {j : Nat} (h0 : j ≠ key) (h4 : j ≠ key + 4) : (d.setReg64 key v).reg j = d.reg j := by
  rw [Dev.setReg64_reg, if_neg h4, if_neg h0]

theorem Dev.setReg96_reg_ne {j : Nat} (h0 : j ≠ key) (h4 : j ≠ key + 4) (h8 : j ≠ key + 8) :
    (d.setReg96 key v).reg j = d.reg j := by
  rw [Dev.setReg96_reg, if_neg h8, Dev.setReg64_reg_ne h0 h4]

/-- Two words that hold a number hold it modulo 2^64. -/
theorem Dev.reg64_of_words (h0 : d.reg key = BitVec.ofNat 32 v) (h1 : d.reg (key + 4) = BitVec.ofNat 32 (v / 0x100000000)) :
    d.reg64 key = v % 2 ^ 64 := by
  unfold Dev.reg64
  rw [h0, h1, BitVec.toNat_ofNat, BitVec.toNat_ofNat]
  omega

theorem Dev.reg64_congr {e : Dev} (h0 : e.reg key = d.reg key) (h4 : e.reg (key + 4) = d.reg (key + 4)) :
    e.reg64 key = d.reg64 key := by
  unfold Dev.reg64
  rw [h0, h4]

end

/-! ### The status word (R202) -/

section
variable {g : FreqGate} {n err : Nat} {again : Bool}

theorem FreqGate.err_le (g : FreqGate) (n : Nat) : g.err n ≤ 3 := by
  unfold FreqGate.err
  split
  · decide
  · split
    · decide
    · split <;> decide

theorem FreqGate.statWord_bit (g : FreqGate) (n err : Nat) (again : Bool) {i : Nat} (hi : i < 32) :
    (g.statWord n err again).getLsbD i = decide ((n % 2 ^ 17 + 2 ^ 17 * b2n (err == 0) + 2 ^ 18 * err
      + 2 ^ 21 * b2n g.stale + 2 ^ 22 * b2n g.holdover + 2 ^ 23 * b2n g.internal + 2 ^ 24 * b2n g.tbSlew
      + 2 ^ 25 * b2n g.treeSlew + 2 ^ 26 * b2n g.late + 2 ^ 27 * b2n again) / 2 ^ i % 2 = 1) := by
  unfold FreqGate.statWord
  rw [BitVec.getLsbD_ofNat, Nat.testBit_eq_decide_div_mod_eq, decide_eq_true hi, Bool.true_and]

/-- VALID of the status word. -/
theorem FreqGate.statWord_valid (h : (err == 0) = true) : (g.statWord n err again).getLsbD 17 = true := by
  have hone : b2n (err == 0) = 1 := by rw [h]; rfl
  have hzero : err = 0 := by simpa using h
  rw [FreqGate.statWord_bit _ _ _ _ (by decide), decide_eq_true_eq, hone, hzero]
  omega

/-- OVERWRITE of the status word. -/
theorem FreqGate.statWord_overwrite (he : err ≤ 3) : (g.statWord n err true).getLsbD 27 = true := by
  have h1 := b2n_le (err == 0)
  have h2 := b2n_le g.stale
  have h3 := b2n_le g.holdover
  have h4 := b2n_le g.internal
  have h5 := b2n_le g.tbSlew
  have h6 := b2n_le g.treeSlew
  have h7 := b2n_le g.late
  have hone : b2n true = 1 := rfl
  rw [FreqGate.statWord_bit _ _ _ _ (by decide), decide_eq_true_eq, hone]
  omega

end

/-! ### The result registers (R202, R203) -/

section
variable {d : Dev} {k : Nat}

/-- A sticky bit that is set already leaves its register alone. -/
theorem Dev.stickIf_reg_of_set {key i : Nat} {c : Bool} (h : c = true → (d.reg key).getLsbD i = true) (j : Nat) :
    (d.stickIf c ⟨key, i, 1⟩).reg j = d.reg j := by
  unfold Dev.stickIf
  split
  · next hc =>
    rw [Dev.stick_reg]
    split
    · next hj =>
      rw [hj]
      refine BitVec.eq_of_getLsbD_eq fun n hn => ?_
      rw [BitVec.getLsbD_or, Fld.mask_bit]
      by_cases hi : n = i
      · rw [hi, h hc, Bool.true_or]
      · rw [decide_eq_true hn, Bool.true_and, Bool.or_eq_left_iff_imp]
        intro hm
        simp only [Bool.and_eq_true, decide_eq_true_eq] at hm
        omega
    · rfl
  · rfl

/-- The registers of a result set. -/
def Dev.freqShow (d : Dev) (k : Nat) (g : FreqGate) (n err : Nat) (again : Bool) (v : FreqResult) : Dev :=
  let d := d.setReg (FREQ_RES_STAT k) (g.statWord n err again)
  let d := (d.stickIf (err == 0) (FREQ_RES_STAT.VALID k)).stickIf again (FREQ_RES_STAT.OVERWRITE k)
  let d := (d.set (FREQ_RES_MISSED.COUNT k) g.missed).set (FREQ_RES_DUP.COUNT k) (g.stamps.length - n)
  let d := (d.setReg64 (FREQ_RES_G0 k) g.g0).setReg96 (FREQ_PERIOD k) v.period
  ((d.setReg96 (FREQ_FREQ k) v.freq).set (FREQ_RESID.RESID k) v.resid).setReg64 (FREQ_UNC k) v.unc

variable (d k) (g : FreqGate) (n err : Nat) (again : Bool) (v : FreqResult)

theorem Dev.freqShow_stat (he : err ≤ 3) :
    (d.freqShow k g n err again v).reg (FREQ_RES_STAT k) = g.statWord n err again := by
  have hset : (d.setReg (FREQ_RES_STAT k) (g.statWord n err again)).reg (FREQ_RES_STAT k) = g.statWord n err again := by
    rw [Dev.setReg_reg, if_pos rfl]
  unfold Dev.freqShow
  simp (disch := simp) only [Dev.setReg64_reg_ne, Dev.setReg96_reg_ne, Dev.set_reg_ne]
  rw [Dev.stickIf_reg_of_set, Dev.stickIf_reg_of_set, hset]
  · intro h
    rw [hset]
    exact FreqGate.statWord_valid h
  · intro h
    rw [Dev.stickIf_reg_of_set, hset, h]
    · exact FreqGate.statWord_overwrite he
    · intro h
      rw [hset]
      exact FreqGate.statWord_valid h

theorem Dev.freqShow_start : (d.freqShow k g n err again v).reg64 (FREQ_RES_G0 k) = g.g0 % 2 ^ 64 := by
  unfold Dev.freqShow
  apply Dev.reg64_of_words
  · simp (disch := simp) only [Dev.setReg64_reg_ne, Dev.setReg96_reg_ne, Dev.set_reg_ne]
    rw [Dev.setReg64_reg, if_neg (by simp), if_pos rfl]
  · simp (disch := simp) only [Dev.setReg64_reg_ne, Dev.setReg96_reg_ne, Dev.set_reg_ne]
    rw [Dev.setReg64_reg, if_pos rfl]

theorem Dev.freqShow_period : (d.freqShow k g n err again v).reg64 (FREQ_PERIOD k) = v.period % 2 ^ 64 := by
  unfold Dev.freqShow
  apply Dev.reg64_of_words
  · simp (disch := simp) only [Dev.setReg64_reg_ne, Dev.setReg96_reg_ne, Dev.set_reg_ne]
    rw [Dev.setReg96_reg, if_neg (by simp), Dev.setReg64_reg, if_neg (by simp), if_pos rfl]
  · simp (disch := simp) only [Dev.setReg64_reg_ne, Dev.setReg96_reg_ne, Dev.set_reg_ne]
    rw [Dev.setReg96_reg, if_neg (by simp), Dev.setReg64_reg, if_pos rfl]

theorem Dev.freqShow_resid : (d.freqShow k g n err again v).get (FREQ_RESID.RESID k) = v.resid % 2 ^ 32 := by
  unfold Dev.freqShow
  dsimp only
  rw [Dev.get_of_reg_narrow (by simp) (Dev.setReg64_reg_ne (by simp) (by simp))]
  exact Dev.get_set _ (show 0 + 32 ≤ 32 by decide) _

/-- What stands beside the registers does not change. -/
theorem Dev.freqShow_fq (j : Nat) : (d.freqShow k g n err again v).fq j = d.fq j := by
  unfold Dev.freqShow
  dsimp only
  rw [Dev.setReg64_fq, Dev.set_fq, Dev.setReg96_fq, Dev.setReg96_fq, Dev.setReg64_fq, Dev.set_fq, Dev.set_fq,
    Dev.stickIf_fq, Dev.stickIf_fq, Dev.setReg_fq]

end

/-! ### The posting (R203) -/

section
variable {d : Dev} {k : Clu}

/-- The results of a gate whose regression gives one are the regression's. -/
theorem Dev.freqValues_of_regress {err n k2 : Nat} {sums : List Nat} {v : FreqResult} (he : err = 0)
    (hv : freqRegress n k2 sums = some v) : d.freqValues err n k2 sums = (v, d) := by
  unfold Dev.freqValues
  rw [if_neg (not_not_intro he), hv]

/-- A draw of free values changes neither the registers nor the estimators. -/
theorem Dev.freqValues_keeps (d : Dev) (err n k2 : Nat) (sums : List Nat) :
    (d.freqValues err n k2 sums).2.fq = d.fq := by
  unfold Dev.freqValues
  split
  · rfl
  · split
    · rfl
    · rfl

/-- An interrupt reaches no register of the estimator's own. -/
theorem Dev.irqOwner_freq_reg (d : Dev) (k : Clu) (pg : Page) (bit : Nat) {off : Nat} (h1 : 0x20 ≤ off)
    (h2 : off < 0x1000) : (d.irqOwner pg bit).reg ((Page.freq k).base + off) = d.reg ((Page.freq k).base + off) := by
  have hfreq : ∀ q ∈ [Part.common, .access, .sessions, .sent], q ≠ Part.freq := by decide
  exact Dev.reg_of_rest (pg := .freq k) h1 h2 (Dev.irqOwner_rest (allBut_allows hfreq) ..)

/-- The device whose result registers a posting gives their values, and the values. -/
def Dev.freqDrawn (d : Dev) (k : Nat) (run : FreqRun) (g : FreqGate) : FreqResult × Dev :=
  (d.modFq k fun f => { f with was := some (d.cycle, d.freqSet k) }).freqValues (g.err (keptStamps g.stamps).length)
    (keptStamps g.stamps).length run.k2 (freqSums (keptStamps g.stamps))

/-- A posting shows the result set in the estimator's registers. -/
theorem Dev.freqPost_reg (d : Dev) (run : FreqRun) (g : FreqGate) {off : Nat} (h1 : 0x20 ≤ off) (h2 : off < 0x1000) :
    (d.freqPost k run g).reg ((Page.freq k).base + off) =
      ((d.freqDrawn k run g).2.freqShow k g (keptStamps g.stamps).length (g.err (keptStamps g.stamps).length)
        (d.on (FREQ_RES_STAT.VALID k)) (d.freqDrawn k run g).1).reg ((Page.freq k).base + off) := by
  have hagain : (d.modFq k fun f => { f with was := some (d.cycle, d.freqSet k) }).on (FREQ_RES_STAT.VALID k)
      = d.on (FREQ_RES_STAT.VALID k) := by
    rw [Dev.on, Dev.modFq_get, Dev.on]
  unfold Dev.freqPost Dev.freqDrawn Dev.freqShow
  dsimp only
  rw [apply_ite (fun e : Dev => e.reg _), Dev.irqOwner_freq_reg _ k _ _ h1 h2, ite_self, apply_ite (fun e : Dev => e.reg _),
    Dev.irqOwner_freq_reg _ k _ _ h1 h2, ite_self, Dev.irqOwner_freq_reg _ k _ _ h1 h2, Dev.modFq_reg, hagain]

/-- Of the estimator itself it changes the sums and what a capture of this cycle takes. -/
theorem Dev.freqPost_fq (d : Dev) (run : FreqRun) (g : FreqGate) :
    ∃ was acc, (d.freqPost k run g).fq k = { (d.fq k) with was, acc } := by
  have hshow : (((d.freqDrawn k run g).2.freqShow k g (keptStamps g.stamps).length
      (g.err (keptStamps g.stamps).length) (d.on (FREQ_RES_STAT.VALID k)) (d.freqDrawn k run g).1).fq k)
        = { (d.fq k) with was := some (d.cycle, d.freqSet k) } := by
    rw [Dev.freqShow_fq, Dev.freqDrawn, Dev.freqValues_keeps, Dev.fq_modFq, if_pos rfl]
  refine ⟨some (d.cycle, d.freqSet k), freqSums (keptStamps g.stamps), ?_⟩
  unfold Dev.freqPost
  dsimp only
  rw [apply_ite (fun e : Dev => e.fq _), Dev.irqOwner_fq, ite_self, apply_ite (fun e : Dev => e.fq _), Dev.irqOwner_fq,
    ite_self, Dev.irqOwner_fq, Dev.fq_modFq, if_pos rfl]
  exact congrArg (fun f : Freq => { f with acc := freqSums (keptStamps g.stamps) }) hshow

/-- The event that a gate is done reaches neither the estimator nor its registers. -/
theorem Dev.freqDone_reg (d : Dev) (g : FreqGate) {off : Nat} (h1 : 0x20 ≤ off) (h2 : off < 0x1000) :
    (d.freqDone k g).reg ((Page.freq k).base + off) = d.reg ((Page.freq k).base + off) := by
  have hfreq : ∀ q ∈ [Part.dev 6, .arm, .common, .access, .clusters, .faults, .sessions, .sent], q ≠ Part.freq := by decide
  unfold Dev.freqDone
  dsimp only
  split
  · exact Dev.reg_of_rest (pg := .freq k) h1 h2 (Dev.emit_rest_at (allBut_allows hfreq) k.isLt ..)
  · rfl

theorem Dev.freqDone_fq (d : Dev) (g : FreqGate) (j : Nat) : (d.freqDone k g).fq j = d.fq j := by
  unfold Dev.freqDone
  dsimp only
  split
  · exact Dev.fq_of_rest (Dev.emit_rest (allBut_regs rfl) (allBut_allows (by decide)) ..) j
  · rfl

/-- The last closed gate's result is posted with its stamps outstanding counted as missed, and the estimator is IDLE. -/
theorem Dev.freqResultPost_last {run : FreqRun} {g : FreqGate} (hr : (d.fq k).run = some run)
    (hc : (d.fq k).closed = [g]) (hg : (d.fq k).gate = none) (ht : g.postT0 ≤ d.epoch) : ∃ missed,
    d.freqResultPost k = ((((d.modFq k fun f => { f with closed := [] }).freqPost k run { g with missed }).freqDone k
      { g with missed }).modFq k fun f => { f with run := none }).set (FREQ_STAT.STATE k) 0 := by
  refine ⟨g.missed + (if g.aborted then 0 else g.outstanding), ?_⟩
  obtain ⟨was, acc, hfq⟩ := (d.modFq k fun f => { f with closed := [] }).freqPost_fq (k := k) run
    { g with missed := g.missed + (if g.aborted then 0 else g.outstanding) }
  have hgate : ((((d.modFq k fun f => { f with closed := [] }).freqPost k run
      { g with missed := g.missed + (if g.aborted then 0 else g.outstanding) }).freqDone k
        { g with missed := g.missed + (if g.aborted then 0 else g.outstanding) }).fq k).gate = none := by
    rw [Dev.freqDone_fq, hfq, Dev.fq_modFq, if_pos rfl]
    exact hg
  unfold Dev.freqResultPost
  rw [hr, hc]
  dsimp only
  rw [if_neg (by omega), hgate, if_pos (by simp)]

/-- What the posting of the last gate shows. -/
theorem Dev.freqResultPost_reg {run : FreqRun} {g : FreqGate} (hr : (d.fq k).run = some run)
    (hc : (d.fq k).closed = [g]) (hg : (d.fq k).gate = none) (ht : g.postT0 ≤ d.epoch) : ∃ (missed : Nat) (e : Dev) (v : FreqResult),
    (∀ off, 0x128 ≤ off → off < 0x1000 → (d.freqResultPost k).reg ((Page.freq k).base + off) =
      (e.freqShow k { g with missed } (keptStamps g.stamps).length (g.err (keptStamps g.stamps).length)
        (d.on (FREQ_RES_STAT.VALID k)) v).reg ((Page.freq k).base + off))
      ∧ ∀ w, g.err (keptStamps g.stamps).length = 0 →
        freqRegress (keptStamps g.stamps).length run.k2 (freqSums (keptStamps g.stamps)) = some w → v = w := by
  obtain ⟨missed, hpost⟩ := Dev.freqResultPost_last hr hc hg ht
  have hon : (d.modFq k fun f => { f with closed := [] }).on (FREQ_RES_STAT.VALID k) = d.on (FREQ_RES_STAT.VALID k) := by
    rw [Dev.on, Dev.modFq_get, Dev.on]
  refine ⟨missed, ((d.modFq k fun f => { f with closed := [] }).freqDrawn k run { g with missed }).2,
    ((d.modFq k fun f => { f with closed := [] }).freqDrawn k run { g with missed }).1, fun off h1 h2 => ?_,
    fun w he hw => congrArg Prod.fst (Dev.freqValues_of_regress he hw)⟩
  have hne : (Page.freq k).base + off ≠ FREQ_STAT k := by
    show clu k + 0x7000 + off ≠ clu k + 0x7000 + 0x124
    omega
  rw [hpost, Dev.set_reg_ne (show 0 + 2 ≤ 32 by decide) hne, Dev.modFq_reg, Dev.freqDone_reg _ _ (by omega) h2,
    Dev.freqPost_reg _ _ _ (by omega) h2, hon]
  rfl

end

end Sys2Proof.Machine
end

