-- ==== Sys2Proof/Proofs/Estimator.lean ====
section
-- Proofs one at a time: run side by side, the whole text outgrows the memory limit of the check.
set_option Elab.async false
/-! SUPPORT. The commands of a frequency estimator as the host's writes carry them, and the obligation on the estimator. -/

namespace Sys2Proof.Machine

section
variable {d : Dev} {ss : Nat} {k : Clu} {val : Word}

/-- FREQ_CFG_WRITE with PRESC below 7 and EDGE below 3. -/
theorem Dev.freqCfgWrite_of_lets (h : d.lets ss (freqPage k) 0x100 .owner false = true) (hp : wfield val 11 3 ≠ 7)
    (he : wfield val 9 2 ≠ 3) :
    d.freqCfgWrite ss k val = d.tracked (freqPage k) fun d => d.plainWrite ss (freqPage k) 0x100 val := by
  unfold Dev.freqCfgWrite
  rw [Dev.hostWrite_of_lets h]
  simp only [Bool.or_eq_true, decide_eq_true_eq, hp, he, or_self, if_false]
  rfl

/-- A write of FREQ_CTRL while no start is held. -/
theorem State.freqCtrl_of_free {s : State} (h : s.holdsStarts = false) (ss : Nat) (k : Clu) (val : Word) (c : Instr) :
    (s.on fun d => if d.holdsStarts && wbit val 0 then d.holdStart c else d.freqCtrlWrite ss k val)
      = .next { s with toDev := s.freqCtrlWrite ss k val } :=
  State.on_of_eq (if_neg (by simp [h]))

variable (h : d.lets ss (freqPage k) 0x120 (whoOf (freqPage k) 0x120) true = true)
include h

theorem Dev.freqCtrlWrite_go (h0 : wbit val 0 = true) (h1 : wbit val 1 = false) (h2 : wbit val 2 = false)
    (hc : (d.fq k).stopCyc ≠ some d.cycle) : ∃ e, Dev.Noted d e ∧
      d.freqCtrlWrite ss k val = d.tracked (freqPage k) (fun _ => e.freqGo ss k) (some (ss, 0x120)) := by
  obtain ⟨e, hn, he⟩ := Dev.freqCtrlWrite_of_lets (val := val) h (by simp [h0])
  refine ⟨e, hn, ?_⟩
  rw [he]
  simp only [h1, h2, Bool.false_eq_true, if_false, beq_iff_eq, hc]

/-- GO in START_MODE 0, by the host's write. -/
theorem Dev.freqCtrlWrite_go_epoch (h0 : wbit val 0 = true) (h1 : wbit val 1 = false) (h2 : wbit val 2 = false)
    (hc : (d.fq k).stopCyc ≠ some d.cycle) (hb : d.freqGoBad ss k = false) (hm : d.get (FREQ_CFG.START_MODE k) = 0) :
    (d.freqCtrlWrite ss k val).freqState k = 1
      ∧ ((d.freqCtrlWrite ss k val).fq k).run = some (d.freqCopy k ss).1
      ∧ ∃ g, ((d.freqCtrlWrite ss k val).fq k).gate = some g
        ∧ g.g0 = max (tq (d.get (FREQ_START.EPOCH k))) (tq d.epoch + tq 16) := by
  obtain ⟨e, hn, he⟩ := Dev.freqCtrlWrite_go h h0 h1 h2 hc
  have hgo := Dev.freqGo_epoch (hn.freqGoBad.trans hb) ((hn.get _).trans hm)
  rw [hn.freqCopy, hn.get, hn.epoch] at hgo
  rw [he, Dev.freqState, Dev.tracked_get, Dev.tracked_fq]
  exact hgo

/-- GO in START_MODE 1, by the host's write. -/
theorem Dev.freqCtrlWrite_go_event (h0 : wbit val 0 = true) (h1 : wbit val 1 = false) (h2 : wbit val 2 = false)
    (hc : (d.fq k).stopCyc ≠ some d.cycle) (hb : d.freqGoBad ss k = false) (hm : d.get (FREQ_CFG.START_MODE k) = 1) :
    (d.freqCtrlWrite ss k val).freqState k = 1
      ∧ ((d.freqCtrlWrite ss k val).fq k).run = some (d.freqCopy k ss).1
      ∧ ((d.freqCtrlWrite ss k val).fq k).gate = none
      ∧ ((d.freqCtrlWrite ss k val).cl k).borrowed = some (d.get (FREQ_CFG.SLOT k)) := by
  obtain ⟨e, hn, he⟩ := Dev.freqCtrlWrite_go h h0 h1 h2 hc
  have hgo := Dev.freqGo_event (hn.freqGoBad.trans hb) ((hn.get _).trans hm)
  rw [hn.freqCopy, hn.get] at hgo
  rw [he, Dev.freqState, Dev.tracked_get, Dev.tracked_fq, Dev.tracked_cl]
  exact hgo

/-- STOP of an ARMED estimator, by the host's write. -/
theorem Dev.freqCtrlWrite_stop (h1 : wbit val 1 = true) (h2 : wbit val 2 = false) (hs : d.freqState k = 1) :
    (d.freqCtrlWrite ss k val).freqState k = 0 ∧ ((d.freqCtrlWrite ss k val).fq k).run = none
      ∧ ((d.freqCtrlWrite ss k val).fq k).gate = none
      ∧ ((d.freqCtrlWrite ss k val).fq k).stopCyc = some d.cycle := by
  obtain ⟨e, hn, he⟩ := Dev.freqCtrlWrite_of_lets (val := val) h (by simp [h1])
  have hstop := Dev.freqStop_armed ((hn.get _).trans hs)
  rw [hn.cycle] at hstop
  rw [he, Dev.freqState, Dev.tracked_get, Dev.tracked_fq]
  simp only [h1, h2, Bool.false_eq_true, if_false, if_true]
  exact hstop

/-- ABORT of an OPEN estimator, by the host's write. -/
theorem Dev.freqCtrlWrite_abort {g : FreqGate} (h2 : wbit val 2 = true) (hs : d.freqState k = 2)
    (hg : (d.fq k).gate = some g) :
    (d.freqCtrlWrite ss k val).freqState k = 3 ∧ ((d.freqCtrlWrite ss k val).fq k).gate = none
      ∧ ∃ x ∈ ((d.freqCtrlWrite ss k val).fq k).closed, x.place = (g.g0, true, d.epoch + 2048) := by
  obtain ⟨e, hn, he⟩ := Dev.freqCtrlWrite_of_lets (val := val) h (by simp [h2])
  have habort := Dev.freqAbort_open ((hn.get _).trans hs) (by rw [hn.fq]; exact hg)
  rw [hn.epoch] at habort
  rw [he, Dev.freqState, Dev.tracked_get, Dev.tracked_fq]
  simp only [h2, if_true]
  exact habort

end

/-! ### The result -/

section
variable {d : Dev} {k : Clu} {run : FreqRun} {g : FreqGate} (hr : (d.fq k).run = some run)
  (hc : (d.fq k).closed = [g]) (hg : (d.fq k).gate = none) (ht : g.postT0 ≤ d.epoch)
include hr hc hg ht

/-- With its last result the estimator is IDLE. -/
theorem Dev.freqResultPost_idle : (d.freqResultPost k).freqState k = 0 ∧ ((d.freqResultPost k).fq k).run = none
    ∧ ((d.freqResultPost k).fq k).closed = [] := by
  obtain ⟨missed, hpost⟩ := Dev.freqResultPost_last hr hc hg ht
  obtain ⟨was, acc, hfq⟩ := (d.modFq k fun f => { f with closed := [] }).freqPost_fq (k := k) run { g with missed }
  rw [hpost]
  refine ⟨Dev.get_set _ (show 0 + 2 ≤ 32 by decide) 0, ?_⟩
  rw [Dev.set_fq, Dev.fq_modFq, if_pos rfl, Dev.freqDone_fq, hfq, Dev.fq_modFq, if_pos rfl]
  exact ⟨rfl, rfl⟩

/-- Its status word and its start. -/
theorem Dev.freqResultPost_stat : (d.freqResultPost k).reg (FREQ_RES_STAT k) =
      g.statWord (keptStamps g.stamps).length (g.err (keptStamps g.stamps).length) (d.get (FREQ_RES_STAT.VALID k) == 1)
    ∧ (d.freqResultPost k).reg64 (FREQ_RES_G0 k) = g.g0 % 2 ^ 64 := by
  obtain ⟨missed, e, v, hreg, -⟩ := Dev.freqResultPost_reg hr hc hg ht
  constructor
  · exact (hreg 0x140 (by decide) (by decide)).trans (e.freqShow_stat k { g with missed } _ _ _ v (g.err_le _))
  · rw [← e.freqShow_start k { g with missed } (keptStamps g.stamps).length (g.err (keptStamps g.stamps).length)
      (d.on (FREQ_RES_STAT.VALID k)) v]
    exact Dev.reg64_congr (hreg 0x150 (by decide) (by decide)) (hreg 0x154 (by decide) (by decide))

/-- Its period and its residual, where the regression gives one. -/
theorem Dev.freqResultPost_period {v : FreqResult} (he : g.err (keptStamps g.stamps).length = 0)
    (hv : freqRegress (keptStamps g.stamps).length run.k2 (freqSums (keptStamps g.stamps)) = some v) :
    (d.freqResultPost k).reg64 (FREQ_PERIOD k) = v.period % 2 ^ 64
      ∧ (d.freqResultPost k).get (FREQ_RESID.RESID k) = v.resid % 2 ^ 32 := by
  obtain ⟨missed, e, w, hreg, hw⟩ := Dev.freqResultPost_reg hr hc hg ht
  obtain rfl := hw v he hv
  constructor
  · rw [← e.freqShow_period k { g with missed } (keptStamps g.stamps).length (g.err (keptStamps g.stamps).length)
      (d.on (FREQ_RES_STAT.VALID k)) w]
    exact Dev.reg64_congr (hreg 0x160 (by decide) (by decide)) (hreg 0x164 (by decide) (by decide))
  · rw [← e.freqShow_resid k { g with missed } (keptStamps g.stamps).length (g.err (keptStamps g.stamps).length)
      (d.on (FREQ_RES_STAT.VALID k)) w]
    exact Dev.get_of_reg_narrow (show 0 + 32 ≤ 32 by decide) (hreg 0x17C (by decide) (by decide))

end

/-- Settles O39: GO, STOP and ABORT act on the device as the write of FREQ_CTRL leaves it (`Dev.Noted`), stamps that leave
the queue keep a gate's start, its ABORTED and its posting time (`Freq.Alike`), and what a posting does after it has shown
its result set reaches no register of the estimator (`Dev.freqPost_reg`). -/
theorem estimatorCompletes : Obligations.EstimatorCompletes := by
  unfold Obligations.EstimatorCompletes
  refine ⟨fun ss k val s ⟨hl, hp, he⟩ => ?_, fun ss k val s ⟨hl, hf⟩ ⟨h0, h1, h2, hc⟩ ⟨hb, hm⟩ => ?_,
    fun ss k val s ⟨hl, hf⟩ ⟨h0, h1, h2, hc⟩ ⟨hb, hm⟩ => ?_, fun ss k val s ⟨hl, hf⟩ ⟨h1, h2, hs⟩ => ?_,
    fun ss k val g s ⟨hl, hf⟩ ⟨h2, hs, hg⟩ => ?_, fun L arrival level s ⟨hn, ht⟩ => ?_,
    fun i arrival level x s ⟨hx, hn, ht⟩ => ?_, fun ss k s ⟨ha, hw, hg, hq⟩ => ?_, fun k run g s ⟨hs, hr, hg, ht⟩ => ?_,
    fun k run g s ⟨hr, hg, hd, hb⟩ => ?_, fun k run g s ⟨hs, hr, hg, ht, hc⟩ => ?_, fun k run g s ⟨hr, hc, hg, ht⟩ => ?_,
    fun k run g v s ⟨hr, hc, hg, ht⟩ ⟨he, hv⟩ => ?_⟩
  · exact State.on_of_eq (s := s) (f := fun d => d.freqCfgWrite ss k val) (Dev.freqCfgWrite_of_lets hl hp he)
  · obtain ⟨hstate, hrun, g, hgate, hg0⟩ := Dev.freqCtrlWrite_go_epoch hl h0 h1 h2 hc hb hm
    exact ⟨_, g, State.freqCtrl_of_free hf ss k val _, hstate, hrun, hgate, hg0⟩
  · exact ⟨_, State.freqCtrl_of_free hf ss k val _, Dev.freqCtrlWrite_go_event hl h0 h1 h2 hc hb hm⟩
  · exact ⟨_, State.freqCtrl_of_free hf ss k val _, Dev.freqCtrlWrite_stop hl h1 h2 hs⟩
  · obtain ⟨hstate, hgate, x, hx, hplace⟩ := Dev.freqCtrlWrite_abort hl h2 hs hg
    obtain ⟨hg0, haborted, hpost⟩ : x.g0 = g.g0 ∧ x.aborted = true ∧ x.postT0 = s.epoch + 2048 := by
      simpa only [FreqGate.place, Prod.mk.injEq] using hplace
    exact ⟨_, x, State.freqCtrl_of_free hf ss k val _, hstate, hgate, hx, hg0, haborted, hpost⟩
  · exact ⟨_, rfl, Dev.cmpTransition_cmp s.toDev hn ht⟩
  · exact ⟨_, rfl, Dev.finTransition_fin s.toDev hx hn ht⟩
  · exact ⟨_, rfl, Dev.freqCapture_of_quiet ha hw hg hq⟩
  · obtain ⟨hstate, hn, hborrowed, x, hx, hg0⟩ := Dev.gateOpen_due hs hr hg ht
    exact ⟨_, x, rfl, hstate, hn, hborrowed, hx, hg0⟩
  · obtain ⟨r, hmem, hsrc, hts, hstart, hstop, hgate⟩ := Dev.stampRequest_due hr hg hd hb
    exact ⟨_, r, rfl, hmem, hsrc, hts, hstart, hstop, hgate⟩
  · obtain ⟨hstate, hgate, x, hx, hg0, hpost⟩ := Dev.gateClose_single hs hr hg ht hc
    exact ⟨_, x, rfl, hstate, hgate, hx, hg0, hpost⟩
  · obtain ⟨hstate, hrun, hclosed⟩ := Dev.freqResultPost_idle hr hc hg ht
    exact ⟨_, rfl, hstate, hrun, hclosed, Dev.freqResultPost_stat hr hc hg ht⟩
  · exact ⟨_, rfl, Dev.freqResultPost_period hr hc hg ht he hv⟩

end Sys2Proof.Machine
end
